-- ==== Sys2Proof/Word.lean ====
section
/-! DEFINITION. The byte, the byte string and the plain words the manual's fields are made of. -/

namespace Sys2Proof

/-- One byte, as every multi-byte field is stored (R7). -/
abbrev Byte := BitVec 8

/-- A string of bytes, lowest address first. -/
abbrev Bytes := List Byte

end Sys2Proof
end

