-- ==== Sys2Proof/Machine/Bits.lean ====
section
/-! DEFINITION. Bit fields, little-endian byte strings, two's complement and the two CRCs that several chapters use. -/

namespace Sys2Proof.Machine

open Sys2Proof

/-- The field `v[hi:lo]` of a natural number (R6: bit 0 is the least significant). -/
def bits (v hi lo : Nat) : Nat := (v >>> lo) % 2 ^ (hi + 1 - lo)

/-- Bit `i` of `v`. -/
def bitOf (v i : Nat) : Bool := v.testBit i

/-- `v` with bit `i` set or cleared. -/
def setBit (v i : Nat) (b : Bool) : Nat :=
  if b then v ||| 2 ^ i else if v.testBit i then v - 2 ^ i else v

/-- `v` with the bits of `m` cleared. -/
def clearMask (v m : Nat) : Nat := v - (v &&& m)

/-- A Bool as a 0/1 field. -/
def b2n (b : Bool) : Nat := if b then 1 else 0

/-- The signed reading of the low `w` bits of `v`. -/
def asInt (w v : Nat) : Int :=
  let u := v % 2 ^ w
  if u < 2 ^ (w - 1) then (u : Int) else (u : Int) - (2 ^ w : Nat)

/-- The low `w` bits of an integer's two's complement. -/
def ofInt (w : Nat) (i : Int) : Nat := (i % ((2 ^ w : Nat) : Int)).toNat

/-- `n` bytes of `v`, least significant first (R7). -/
def leBytes : Nat → Nat → Bytes
  | 0, _ => []
  | n + 1, v => BitVec.ofNat 8 v :: leBytes n (v / 256)

/-- The value of a little-endian byte string (R7). -/
def leNat : Bytes → Nat
  | [] => 0
  | b :: bs => b.toNat + 256 * leNat bs

/-- `n` bytes of `v`, most significant first (published network standards, R7). -/
def beBytes (n v : Nat) : Bytes := (leBytes n v).reverse

/-- The value of a big-endian byte string. -/
def beNat (b : Bytes) : Nat := leNat b.reverse

/-- `n` zero bytes. -/
def zeros (n : Nat) : Bytes := List.replicate n 0#8

/-- The `n` bytes of `b` from offset `o`, zero where `b` ends. -/
def slice (b : Bytes) (o n : Nat) : Bytes :=
  let t := (b.drop o).take n
  t ++ zeros (n - t.length)

/-- The little-endian field of `n` bytes at offset `o`. -/
def fieldAt (b : Bytes) (o n : Nat) : Nat := leNat (slice b o n)

/-- `b` padded or cut to exactly `n` bytes. -/
def fit (b : Bytes) (n : Nat) : Bytes := slice b 0 n

/-- Are all the bytes of `b` zero? -/
def allZero (b : Bytes) : Bool := b.all (· == 0#8)

/-- `f` applied `n` times. -/
def iter {α : Type} (f : α → α) : Nat → α → α
  | 0, x => x
  | n + 1, x => iter f n (f x)

/-- One bit of a reflected CRC register with polynomial `p` (bit-reversed). -/
def crcBit (p c : Nat) : Nat := if c % 2 = 1 then (c / 2) ^^^ p else c / 2

/-- One byte of a reflected CRC. -/
def crcByte (p c : Nat) (b : Byte) : Nat := iter (crcBit p) 8 (c ^^^ b.toNat)

/-- CRC-32C as R57 parametrises it: polynomial 0x1EDC_6F41 reflected, initial and final XOR all ones. -/
def crc32c (b : Bytes) : Nat :=
  (b.foldl (crcByte 0x82F63B78) 0xFFFFFFFF) ^^^ 0xFFFFFFFF

/-- Fields packed from bit 0 upwards: a list of (width, value) pairs, each value cut to its width (R6). -/
def pack : List (Nat × Nat) → Nat
  | [] => 0
  | (w, v) :: r => v % 2 ^ w + 2 ^ w * pack r

/-- The packed fields as a little-endian record of `n` bytes. -/
def packBytes (n : Nat) (f : List (Nat × Nat)) : Bytes := leBytes n (pack f)

/-- Clamp to a 16-bit saturating counter (the lint counters of every chapter). -/
def satInc (v n : Nat) : Nat := min (v + n) 0xFFFF

/-- `v + n` modulo `2^w`. -/
def wrapAdd (w v n : Nat) : Nat := (v + n) % 2 ^ w

/-- `n / d` rounded to nearest, ties to even (R94 and every `round_half_even` of the manual). -/
def rheDiv (n : Int) (d : Nat) : Int :=
  let q := n / (d : Int)
  let r := n - q * d
  if 2 * r < d then q else if (d : Int) < 2 * r then q + 1 else if q % 2 = 0 then q else q + 1

/-- The least integer not below `n / d`. -/
def ceilDiv (n : Int) (d : Nat) : Int := -((-n) / (d : Int))

/-- `x` limited to [lo, hi]. -/
def clampInt (x lo hi : Int) : Int := max lo (min x hi)

/-- One bit of the CRC-16 of R51, most significant bit first: polynomial 0x1021. -/
def crc16Bit (c : Nat) : Nat := if c.testBit 15 then ((c * 2) ^^^ 0x1021) % 65536 else (c * 2) % 65536

/-- The CRC-16 of R51: initial value 0xFFFF, no reflection, no final exclusive-OR. -/
def crc16 (b : Bytes) : Nat := b.foldl (fun c x => iter crc16Bit 8 (c ^^^ (x.toNat * 256))) 0xFFFF

/-- Replace entry `i` of a list where it exists. -/
def setAt {α : Type} (l : List α) (i : Nat) (x : α) : List α := l.set i x

end Sys2Proof.Machine
end

