-- ==== Sys2Proof/Machine/Catalogue.lean ====
section
/-! DEFINITION. The catalogue of the object dictionary: every entry and every lint counter of the manual's tables, by the manual's name, with its place, type, access code, markings and default (R511, R512, R538). -/

namespace Sys2Proof.Machine

open Sys2Proof

/-- The types of R512. -/
inductive OdType where
  | boolean | int8 | int16 | int32 | uns8 | uns16 | uns32 | int64 | uns64 | domain
deriving DecidableEq, Repr

/-- The access codes of R8 (RSV stands for no entry). -/
inductive Access where
  | ro | rw | wo | rc
deriving DecidableEq, Repr

/-- Every named entry of the catalogue tables. -/
inductive Ent where
  -- R36
  | DEV_STATE | DEV_COMMAND | DEV_SAFE_CAUSE | DEV_ARM_FAULT 
  -- R75, R78
  | CAM_ENABLE | CAM_PACKING | CAM_EDGE | CAM_LINE_WIDTH | CAM_SWATH_LINES | CAM_OVERLAP | CAM_TRIG_SRC | CAM_ENC_SRC 
  | CAM_TRIG_WIDTH | CAM_TRIG_POL | CAM_LATE_LIMIT | CAM_FILL | CAM_TP_ENABLE | CAM_TP_BITS | CAM_TP_BITS_RC 
  | CAM_KEEP_RAW | CAM_SWATH_BUFS | CAM_SPOIL_MASK | CAM_LAST_SWATH | CAM_RECORD | CAM_STATUS | MGL_MOS_SIZE 
  | MGL_MOS_SITES | MGL_MOS_ROW_OFS | MGL_MOS_COL_OFS | MGL_BLACK | MGL_IR_ENABLE | MGL_IR_M | MGL_PLANES 
  | MGL_OUT_FMT | MGL_HIST_WIN | MGL_ZONES | ROI_ENABLE | ROI_MARGIN | ROI_FALLBACK | MGL_STATS 
  -- R150, R151
  | CREW_COUNT | CREW_SERVICE_MASK | CREW_MIN_SHELLS | CREW_IN_SERVICE | CREW_SHELLS_ACTIVE | CREW_PATCH_FREE 
  | SHELL_MAP | SHELL_OOS_LO | SHELL_OOS_HI | SHELL_FORCE_LO | SHELL_FORCE_HI | SCULL_IN_SERVICE | SCULL_FORCE 
  | CREW_FORCE | CREW_PASSES 
  -- R195
  | MEM_LPDDR_SIZE | MEM_LS_FREE | MEM_CMN_PLAN | MEM_SAVE_SLOTS | MEM_SAVE_RESERVED | ROTA_PERIODS | ROTA_TABLE 
  | MEM_SCRUB_PERIOD | MEM_LAST_ERR 
  -- R234 to R236
  | COX_HEATS | COX_QUEUE_LEN | COX_NEXT_SERIAL | COX_SWATCH_EVERY | COX_SWATCH_LEN | COX_RINSE_EVERY | COX_RINSE_LEN 
  | COX_RINSE_PHASE | PWR_LIMIT | PWR_P0_RESERVE | PWR_BASE | PWR_ADMITTED | COX_SETTLING | COX_SETTLE_LAST 
  | COX_HEAT_TABLE | RP_LOAD | RP_LAST_SLOT | RP_LAST_FAULT | RP_UNLOAD | COX_BG_REQUEST | PART_ENABLE 
  | PART_CREW_MASK | PART_LEND_MASK | PART_CAM_MASK | PART_SCR_QUOTA | PART_MEM_QUOTA | PART_RATE | PART_DEPTH 
  | PART_HEATS | PART_SCR_HELD | PART_TOKENS | RP_STATE | RP_DIGEST | RP_PARTITION | RP_PLANS 
  -- R284, R286
  | OAR_COUNT | OAR_INVOCATIONS | OAR_LAST_FAULT | PRESS_BLOCKS | CROP_SLOTS | OAR_ACTIVE | OAR_PATCH_FREE | OAR_MAP 
  | OAR_OOS | OAR_FORCE 
  -- R340
  | SL_ENABLE | KV_POOL_PAGES | KV_FREE | KV_RESERVED | KV_AVAIL | KV_LOW_WATER | KV_RUNNING | KV_QUEUED | KV_STEP 
  | KV_STEP_PERIODS | KV_TREE_NODES | KV_SEQ_TABLE | KV_QUEUE | KV_CANCEL | KV_TREE_FLUSH | KV_EVICT_LOG 
  -- R368, R369
  | DET_GEN_VERSION | DET_PATCH_EPOCH | DET_PATCH_JOURNAL | DET_GEN_IN | DET_GEN_OUT | DET_CFG_CRC | DET_RUN_SEED 
  | DET_REPLAY_ENABLE | DET_REPLAY_SWATH | DET_REPLAY_SEQ | DET_REPLAY_STATE | DET_TAP_TENSOR | DET_TAP_DATA 
  | DET_REPLAYS 
  -- R420, R421
  | SQD_ENABLE | SQD_SEAT | SQD_SIZE | SQD_SHAPE | SQD_STATE | SQD_STROKE_SEAT | SQD_MEMBERS | SQD_VERSION 
  | SQD_EPOCH | SQD_FORM_FAULT | SQD_FORM_TIMEOUT | SQD_PART_MASK | SQD_LOSS_ACTION | SQD_HEARTBEAT_US | SQD_LEAD_US 
  | SQD_TIME_SOURCE | SQD_TIME_INTERVAL_US | SQD_ROUTES | SQD_TOPOLOGY | SQD_LOAD_SEAT | SQD_CMD_FAULT_SEAT 
  | NL_ENABLE | NL_CLK_MODE | NL_STATE | NL_FAIL_CAUSE | NL_PEER | NL_PEER_ID | NL_VERSION | NL_LANE_MAP | NL_TAPS 
  | NL_FOM | NL_FOM_MIN | NL_EASY_IDLE | NL_POWER_CMD | NL_REPLAY_TIMEOUT | NL_REPLAY_LIMIT | NL_TIME_ASYM | NL_DELAY 
  | NL_OFFSET | NL_TEST_MODE | NL_PATTERN | NL_USER_PATTERN | NL_INJECT | NL_INJECT_PERIOD | NL_INJECTED 
  | NL_CHK_ERRORS | NL_CHK_BITS 
  -- R445
  | RT_ENABLE | RT_KEEP_SHORT | RT_RUNAHEAD | RT_PUBLISH_EVERY | RT_ADD | RT_LAST_INDEX | RT_REMOVE | RT_SAMPLES 
  | RT_BAD_SET | RT_EPOCH | RT_STEP | RT_READY | RT_GENERATION | RT_PUBLISH | RT_RESTART | RT_EXPORT 
  -- R474 to R482
  | FIO_IN | FIO_OUT | FIO_FORCE_OFF | FIO_COMMON_FAULT | FIO_SUPPLY_MV | FIO_RETRY | FIO_MODE | FIO_FILT | FIO_DIAG 
  | FIO_TRIG_SLOT | FIO_STATUS | FIO_ACK | FIRE_PENDING | FIRE_STOP_CH | FIRE_STOP_LATCHED | FIRE_STOP_ACK 
  | ENC_ENABLE | ENC_MODE | ENC_INVERT | ENC_FILT | ENC_TOOTH_N | ENC_Z_USED | ENC_PRESET | ENC_REF_PERIOD 
  | ENC_REF_TOL | ENC_POS | ENC_REF_POS | ENC_REF_CNT | ENC_STATUS | ENC_ACK | DIV_ENABLE | DIV_SRC | DIV_N | DIV_M 
  | DIV_OUT_MODE | DIV_WIDTH | TRG_ENABLE | TRG_SRC | TRG_CHANNEL | TRG_START | TRG_PERIOD | TRG_WIDTH 
  | TRG_WIDTH_CNT | FIRE_ENABLE | FIRE_AGE_LIMIT | FIRE_FB_UNDECIDED | FIRE_FB_LATE | FIRE_FB_INVALID | FIRE_LAST 
  -- R506 to R508
  | TS_TIME | TS_MONO | TS_SOURCE | TS_STATE | TS_SET | TS_KP | TS_KI | TS_FREQ_MAX | TS_STEP_NS | TS_STEP_RUN 
  | TS_LOCK_NS | TS_HOLDOVER_MS | TS_OFFSET | TS_RATE | TS_UTC_OFFSET | PTP_DOMAIN | PTP_PRIORITY1 | PTP_PRIORITY2 
  | PTP_CLOCK_ID | PTP_GM_ID | PTP_EXT_CFG | FNET_ENABLE | FNET_MODE | FNET_STATUS | FNET_MAC | FNET_IPV4 
  | FNET_NETMASK | FNET_VID | FNET_PCP_CYC | FNET_PCP_OD | FNET_TX_LAT | FNET_RX_LAT | PTP_ENABLE | PTP_ASYM 
  | PTP_LOG_SYNC | PTP_LOG_PDELAY | PTP_PORT_STATE | PTP_PORT_CFG | PTP_LINK_DELAY | PTP_NRR | PTP_AS_CAPABLE 
  | TS_TXQ | QBV_ENABLE | QBV_BASE | QBV_CYCLE_NS | QBV_LIST | QBV_LEN | QBV_OPER_BASE 
  -- R537
  | ID_VENDOR | ID_PRODUCT | ID_PART | ID_DEVICE | ID_MAC_BASE | ID_GEN | ID_STEPPING | ID_CREW_FUSED | ID_OD_VERSION 
  | OD_SESSION_TIMEOUT | OD_WINDOW | OD_MAX_OUTSTANDING | OD_MAX_DATA | OD_CONTROL | OD_PROTO_MAX | OD_SESSIONS 
  | CYC_ENABLE | CYC_PORT | CYC_PEER_MAC | CYC_BASE | CYC_PERIOD_NS | CYC_TX_OFS_NS | CYC_WD_CYCLES | CYC_WD_ACTION 
  | CYC_TX_LEN | CYC_RX_LEN | CYC_RX_LAST | CYC_TX_MAP | CYC_RX_MAP 
  -- R557
  | PCI_LINK | PCI_BULK_PART | PCI_RESP_IRQ | PCI_XL_SUBMIT | PCI_XL_ABORT | PCI_XL_ACTIVE | PCI_XL_FAULT 
  | PCI_ARCH_MIB | PCI_ARCH_STATUS 
  -- R589, R591
  | SAF_EVENTS | SAF_EVENT_ACK | SAF_SAFE_EVENT | SAF_LOST_US | SAF_LINE_RUN_CH | SAF_RINSE_LIMIT | SAF_DARN_TRIES 
  | SAF_UNIT_ERR_LIMIT | SAF_UNIT_ERR_WINDOW | SAF_SWATH_WD_US | SAF_RINSE_STATUS | SAF_LAST_ERR | SAF_ACTION 
  | REC_VERDICT_COUNT | REC_VERDICT_RING | REC_RESULT_COUNT | REC_RESULT_RING | REC_PORT_SEQ 
  -- R619
  | BOOT_FW_VERSION | BOOT_ROM_VERSION | BOOT_COUNT | BOOT_CAUSE | BOOT_LEDGER | BOOT_FW_IMAGE | BOOT_FW_INSTALL 
  | BOOT_FW_STATUS | BOOT_FW_STAGED | BOOT_FW_CTR | BOOT_RP_CTR | BOOT_RB_ADVANCE | BOOT_OWNER_KEY | BOOT_REVOKE 
  | BOOT_KEY_STATE | BOOT_ATTEST_NONCE | BOOT_ATTEST_REPORT | BOOT_DEV_CERT | BOOT_PKG_STORE | BOOT_PKG_UNSTORE 
  | BOOT_PKG_STORED | BOOT_STORE_FREE | BOOT_FUSES 
  -- R638
  | CLK_ROOT_LOCK | CLK_REFCLK_SSC | THERM_TJ_MAX | THERM_SENSORS | THERM_THROTTLE | THERM_SLOPE | THERM_ADMIT_LIMIT 
  | PWR_BASE_FUSED | PWR_MEASURED | PWR_RAIL | SUP_STATUS 
deriving DecidableEq, Repr

/-- Every lint counter of R594. -/
inductive Lint where
  | OD_CHECK | OD_AUTH | OD_STALE | OD_BUSY | OD_TIMEOUT | CYC_RX_DROP | CYC_RX_REJECT | CYC_WD | BOOT_FW_REJECT 
  | BOOT_PKG_DROP | BOOT_FLASH_ERR | BOOT_FUSE_CE | SUP_GLITCH | THERM_LIMIT | CAM_CRC | CAM_MISSING | CAM_LATE 
  | CAM_LENGTH | CAM_COUNTER | CAM_OVERRUN | CAM_TESTPAT | ROI_OVF | ROI_FALLBACK | SHELL_CHECK | SHELL_FOOT 
  | SHELL_READOUT | SHELL_TAG | SCULL_CHECK | SHELL_PATCH | SCR_CE | SCR_UE | LS_CE | LS_UE | CMN_CE | CMN_UE 
  | OARMEM_CE | OARMEM_UE | LPDDR_CE | LPDDR_UE | LS_HOLD | SAVE_CHECK | COX_LATE | COX_PREEMPT | COX_POWER_HOLD 
  | COX_REG_HOLD | COX_SETTLE | COX_QUEUE_FULL | RP_REFUSED | OAR_FAULT | OAR_BUDGET | OAR_KFAIL | OAR_PATCH 
  | PRESS_NAN | CROP_EMPTY | KV_QUEUE_FULL | KV_LATE | KV_EVICT | KV_TREE_RECLAIM | KV_TREE_FULL | KV_HASH_COLL 
  | KV_COW | KV_STEP_LATE | KV_DEFER | SWEEP_CHECK | DET_REPLAY | SQD_SEAT_LOST | SQD_ROUTE_CHANGE | NL_BLOCK 
  | NL_CRC | NL_DUP | NL_RXFULL | NL_REPLAY | NL_RETRAIN | NL_DOWN | NL_TIME_DROP | RT_CORRUPT | RT_OVER_WORK 
  | RT_STALL | RT_PUBLISH_HOLD | FIO_OVERLOAD | FIO_OVERTEMP | FIO_LIMIT | FIO_OPEN | FIO_SUPPLY | ENC_FAULT 
  | TRG_MISSED | FIRE_LATE | FIRE_FALLBACK | FIRE_OVF | FIRE_CLEARED | FIRE_FAULT | FIRE_AFTER | TS_STEP | TS_UNLOCK 
  | PTP_DISCARD | FNET_FCS | FNET_DROP | FNET_RXFULL | FNET_QBV_DROP | TS_TXQ_OVF | PCI_BULK_REFUSED | PCI_DMA_ERR 
  | PCI_GO_BUSY | PCI_ARCH_OVWR | PCI_ARCH_NOCROP | PCI_XL_ABORT | SAF_DARN | SAF_INVALID | SAF_OOS | SAF_OVERTIME 
  | SAF_TIMING | SAF_SWATH_WD | SAF_RINSE_FAIL | SAF_RINSE_DEFER | SAF_RINSE_OVERDUE | SAF_SWATCH_FAIL 
  | SAF_SWATCH_MISSED | REC_BAD_OUTPUT 
deriving DecidableEq, Repr

/-- One row of the catalogue: the first index and subindex, how many instances follow at rising indices,
how many elements follow at rising subindices, the type, the access code, the markings LIVE, INERT only,
locked while enabled and stored (R511), the default of the first instance (zero for a DOMAIN), the length of a
DOMAIN, whether that length is exact (R512), and the name. -/
structure EntRow where
  index : Nat
  sub : Nat
  insts : Nat
  elems : Nat
  ty : OdType
  acc : Access
  live : Bool
  inertOnly : Bool
  locked : Bool
  stored : Bool
  dflt : Nat
  maxLen : Nat
  exactLen : Bool
  name : String
deriving DecidableEq, Repr

/-- The catalogue row of an entry. -/
def Ent.row (e : Ent) : EntRow :=
  let T := true
  let F := false
  match e with
  | .DEV_STATE => ⟨0x1001, 0x01, 1, 1, .uns8, .ro, F, F, F, F, 0x3, 0, F, "DEV_STATE"⟩
  | .DEV_COMMAND => ⟨0x1001, 0x02, 1, 1, .uns8, .wo, T, F, F, F, 0x0, 0, F, "DEV_COMMAND"⟩
  | .DEV_SAFE_CAUSE => ⟨0x1001, 0x03, 1, 1, .uns32, .ro, F, F, F, F, 0x0, 0, F, "DEV_SAFE_CAUSE"⟩
  | .DEV_ARM_FAULT => ⟨0x1001, 0x04, 1, 1, .uns32, .ro, F, F, F, F, 0x0, 0, F, "DEV_ARM_FAULT"⟩
  | .CAM_ENABLE => ⟨0x2210, 0x01, 12, 1, .boolean, .rw, F, F, F, F, 0x0, 0, F, "CAM_ENABLE"⟩
  | .CAM_PACKING => ⟨0x2210, 0x02, 12, 1, .uns8, .rw, F, T, F, F, 0x0, 0, F, "CAM_PACKING"⟩
  | .CAM_EDGE => ⟨0x2210, 0x03, 12, 1, .uns8, .rw, F, F, T, F, 0x0, 0, F, "CAM_EDGE"⟩
  | .CAM_LINE_WIDTH => ⟨0x2210, 0x04, 12, 1, .uns16, .rw, F, T, F, F, 0x1000, 0, F, "CAM_LINE_WIDTH"⟩
  | .CAM_SWATH_LINES => ⟨0x2210, 0x05, 12, 1, .uns16, .rw, F, T, F, F, 0x200, 0, F, "CAM_SWATH_LINES"⟩
  | .CAM_OVERLAP => ⟨0x2210, 0x06, 12, 1, .uns8, .rw, F, T, F, F, 0x0, 0, F, "CAM_OVERLAP"⟩
  | .CAM_TRIG_SRC => ⟨0x2210, 0x07, 12, 1, .uns8, .rw, F, F, F, F, 0x0, 0, F, "CAM_TRIG_SRC"⟩
  | .CAM_ENC_SRC => ⟨0x2210, 0x08, 12, 1, .uns8, .rw, F, F, F, F, 0x0, 0, F, "CAM_ENC_SRC"⟩
  | .CAM_TRIG_WIDTH => ⟨0x2210, 0x09, 12, 1, .uns16, .rw, F, F, F, F, 0x28, 0, F, "CAM_TRIG_WIDTH"⟩
  | .CAM_TRIG_POL => ⟨0x2210, 0x0A, 12, 1, .boolean, .rw, F, F, F, F, 0x1, 0, F, "CAM_TRIG_POL"⟩
  | .CAM_LATE_LIMIT => ⟨0x2210, 0x0B, 12, 1, .uns32, .rw, F, F, F, F, 0x0, 0, F, "CAM_LATE_LIMIT"⟩
  | .CAM_FILL => ⟨0x2210, 0x0C, 12, 1, .uns16, .rw, F, F, F, F, 0x0, 0, F, "CAM_FILL"⟩
  | .CAM_TP_ENABLE => ⟨0x2210, 0x0D, 12, 1, .boolean, .rw, F, F, F, F, 0x0, 0, F, "CAM_TP_ENABLE"⟩
  | .CAM_TP_BITS => ⟨0x2210, 0x0E, 12, 1, .uns32, .ro, F, F, F, F, 0x0, 0, F, "CAM_TP_BITS"⟩
  | .CAM_TP_BITS_RC => ⟨0x2210, 0x0F, 12, 1, .uns32, .rc, F, F, F, F, 0x0, 0, F, "CAM_TP_BITS_RC"⟩
  | .CAM_KEEP_RAW => ⟨0x2210, 0x10, 12, 1, .boolean, .rw, F, T, F, F, 0x0, 0, F, "CAM_KEEP_RAW"⟩
  | .CAM_SWATH_BUFS => ⟨0x2210, 0x11, 12, 1, .uns8, .rw, F, T, F, F, 0x2, 0, F, "CAM_SWATH_BUFS"⟩
  | .CAM_SPOIL_MASK => ⟨0x2210, 0x12, 12, 1, .uns16, .rw, F, F, F, F, 0xBB, 0, F, "CAM_SPOIL_MASK"⟩
  | .CAM_LAST_SWATH => ⟨0x2210, 0x13, 12, 1, .uns64, .ro, F, F, F, F, 0x0, 0, F, "CAM_LAST_SWATH"⟩
  | .CAM_RECORD => ⟨0x2210, 0x14, 12, 1, .domain, .ro, F, F, F, F, 0x0, 256, F, "CAM_RECORD"⟩
  | .CAM_STATUS => ⟨0x2210, 0x15, 12, 1, .uns8, .ro, F, F, F, F, 0x0, 0, F, "CAM_STATUS"⟩
  | .MGL_MOS_SIZE => ⟨0x2310, 0x01, 12, 1, .uns8, .rw, F, F, F, F, 0x22, 0, F, "MGL_MOS_SIZE"⟩
  | .MGL_MOS_SITES => ⟨0x2310, 0x02, 12, 1, .uns64, .rw, F, F, F, F, 0x11008, 0, F, "MGL_MOS_SITES"⟩
  | .MGL_MOS_ROW_OFS => ⟨0x2310, 0x03, 12, 1, .uns8, .rw, F, F, F, F, 0x0, 0, F, "MGL_MOS_ROW_OFS"⟩
  | .MGL_MOS_COL_OFS => ⟨0x2310, 0x04, 12, 1, .uns8, .rw, F, F, F, F, 0x0, 0, F, "MGL_MOS_COL_OFS"⟩
  | .MGL_BLACK => ⟨0x2310, 0x05, 12, 5, .uns16, .rw, F, F, F, F, 0x0, 0, F, "MGL_BLACK"⟩
  | .MGL_IR_ENABLE => ⟨0x2310, 0x0A, 12, 1, .boolean, .rw, F, F, F, F, 0x0, 0, F, "MGL_IR_ENABLE"⟩
  | .MGL_IR_M => ⟨0x2310, 0x10, 12, 20, .int16, .rw, F, F, F, F, 0x0, 0, F, "MGL_IR_M"⟩
  | .MGL_PLANES => ⟨0x2310, 0x24, 12, 1, .uns8, .rw, F, T, F, F, 0x7, 0, F, "MGL_PLANES"⟩
  | .MGL_OUT_FMT => ⟨0x2310, 0x25, 12, 1, .uns8, .rw, F, T, F, F, 0x1, 0, F, "MGL_OUT_FMT"⟩
  | .MGL_HIST_WIN => ⟨0x2310, 0x26, 12, 1, .uns64, .rw, F, F, F, F, 0x1FF00000FFF0000, 0, F, "MGL_HIST_WIN"⟩
  | .MGL_ZONES => ⟨0x2310, 0x27, 12, 1, .uns8, .rw, F, F, F, F, 0x33, 0, F, "MGL_ZONES"⟩
  | .ROI_ENABLE => ⟨0x2310, 0x28, 12, 1, .boolean, .rw, F, F, F, F, 0x0, 0, F, "ROI_ENABLE"⟩
  | .ROI_MARGIN => ⟨0x2310, 0x29, 12, 1, .uns16, .rw, F, F, F, F, 0x10, 0, F, "ROI_MARGIN"⟩
  | .ROI_FALLBACK => ⟨0x2310, 0x2A, 12, 1, .uns8, .rw, F, F, F, F, 0x0, 0, F, "ROI_FALLBACK"⟩
  | .MGL_STATS => ⟨0x2310, 0x2B, 12, 1, .domain, .ro, F, F, F, F, 0x0, 30864, F, "MGL_STATS"⟩
  | .CREW_COUNT => ⟨0x2400, 0x01, 1, 1, .uns8, .ro, F, F, F, F, 0x0, 0, F, "CREW_COUNT"⟩
  | .CREW_SERVICE_MASK => ⟨0x2400, 0x02, 1, 1, .uns8, .ro, F, F, F, F, 0x0, 0, F, "CREW_SERVICE_MASK"⟩
  | .CREW_MIN_SHELLS => ⟨0x2400, 0x03, 1, 1, .uns8, .rw, F, T, F, F, 0x38, 0, F, "CREW_MIN_SHELLS"⟩
  | .CREW_IN_SERVICE => ⟨0x2410, 0x01, 6, 1, .boolean, .ro, F, F, F, F, 0x1, 0, F, "CREW_IN_SERVICE"⟩
  | .CREW_SHELLS_ACTIVE => ⟨0x2410, 0x02, 6, 1, .uns8, .ro, F, F, F, F, 0x40, 0, F, "CREW_SHELLS_ACTIVE"⟩
  | .CREW_PATCH_FREE => ⟨0x2410, 0x03, 6, 1, .uns8, .ro, F, F, F, F, 0x4, 0, F, "CREW_PATCH_FREE"⟩
  | .SHELL_MAP => ⟨0x2410, 0x04, 6, 1, .domain, .ro, F, F, F, F, 0x0, 64, T, "SHELL_MAP"⟩
  | .SHELL_OOS_LO => ⟨0x2410, 0x05, 6, 1, .uns64, .ro, F, F, F, F, 0x0, 0, F, "SHELL_OOS_LO"⟩
  | .SHELL_OOS_HI => ⟨0x2410, 0x06, 6, 1, .uns8, .ro, F, F, F, F, 0x0, 0, F, "SHELL_OOS_HI"⟩
  | .SHELL_FORCE_LO => ⟨0x2410, 0x07, 6, 1, .uns64, .rw, F, F, F, F, 0x0, 0, F, "SHELL_FORCE_LO"⟩
  | .SHELL_FORCE_HI => ⟨0x2410, 0x08, 6, 1, .uns8, .rw, F, F, F, F, 0x0, 0, F, "SHELL_FORCE_HI"⟩
  | .SCULL_IN_SERVICE => ⟨0x2410, 0x09, 6, 1, .boolean, .ro, F, F, F, F, 0x1, 0, F, "SCULL_IN_SERVICE"⟩
  | .SCULL_FORCE => ⟨0x2410, 0x0A, 6, 1, .boolean, .rw, F, F, F, F, 0x0, 0, F, "SCULL_FORCE"⟩
  | .CREW_FORCE => ⟨0x2410, 0x0B, 6, 1, .boolean, .rw, F, F, F, F, 0x0, 0, F, "CREW_FORCE"⟩
  | .CREW_PASSES => ⟨0x2410, 0x0C, 6, 1, .uns64, .ro, F, F, F, F, 0x0, 0, F, "CREW_PASSES"⟩
  | .MEM_LPDDR_SIZE => ⟨0x2500, 0x01, 1, 1, .uns64, .ro, F, F, F, F, 0x0, 0, F, "MEM_LPDDR_SIZE"⟩
  | .MEM_LS_FREE => ⟨0x2500, 0x02, 1, 1, .uns32, .ro, F, F, F, F, 0x2000000, 0, F, "MEM_LS_FREE"⟩
  | .MEM_CMN_PLAN => ⟨0x2500, 0x03, 1, 1, .uns32, .ro, F, F, F, F, 0x0, 0, F, "MEM_CMN_PLAN"⟩
  | .MEM_SAVE_SLOTS => ⟨0x2500, 0x04, 1, 1, .uns8, .ro, F, F, F, F, 0x0, 0, F, "MEM_SAVE_SLOTS"⟩
  | .MEM_SAVE_RESERVED => ⟨0x2500, 0x05, 1, 1, .uns64, .ro, F, F, F, F, 0x0, 0, F, "MEM_SAVE_RESERVED"⟩
  | .ROTA_PERIODS => ⟨0x2500, 0x06, 1, 1, .uns64, .ro, F, F, F, F, 0x0, 0, F, "ROTA_PERIODS"⟩
  | .ROTA_TABLE => ⟨0x2500, 0x07, 1, 1, .domain, .ro, F, F, F, F, 0x0, 71424, T, "ROTA_TABLE"⟩
  | .MEM_SCRUB_PERIOD => ⟨0x2500, 0x08, 1, 1, .uns16, .rw, F, F, F, F, 0x18, 0, F, "MEM_SCRUB_PERIOD"⟩
  | .MEM_LAST_ERR => ⟨0x2500, 0x09, 1, 1, .uns64, .ro, F, F, F, F, 0x0, 0, F, "MEM_LAST_ERR"⟩
  | .COX_HEATS => ⟨0x2600, 0x01, 1, 1, .uns8, .ro, F, F, F, F, 0x0, 0, F, "COX_HEATS"⟩
  | .COX_QUEUE_LEN => ⟨0x2600, 0x02, 1, 1, .uns8, .ro, F, F, F, F, 0x0, 0, F, "COX_QUEUE_LEN"⟩
  | .COX_NEXT_SERIAL => ⟨0x2600, 0x03, 1, 1, .uns64, .ro, F, F, F, F, 0x1, 0, F, "COX_NEXT_SERIAL"⟩
  | .COX_SWATCH_EVERY => ⟨0x2600, 0x04, 1, 1, .uns16, .rw, F, T, F, F, 0x1458, 0, F, "COX_SWATCH_EVERY"⟩
  | .COX_SWATCH_LEN => ⟨0x2600, 0x05, 1, 1, .uns8, .rw, F, T, F, F, 0x15, 0, F, "COX_SWATCH_LEN"⟩
  | .COX_RINSE_EVERY => ⟨0x2600, 0x06, 1, 1, .uns16, .rw, F, T, F, F, 0x1B2, 0, F, "COX_RINSE_EVERY"⟩
  | .COX_RINSE_LEN => ⟨0x2600, 0x07, 1, 1, .uns8, .rw, F, T, F, F, 0xC, 0, F, "COX_RINSE_LEN"⟩
  | .COX_RINSE_PHASE => ⟨0x2600, 0x08, 1, 1, .uns16, .rw, F, T, F, F, 0xD9, 0, F, "COX_RINSE_PHASE"⟩
  | .PWR_LIMIT => ⟨0x2600, 0x09, 1, 1, .uns16, .rw, T, F, F, F, 0xE10, 0, F, "PWR_LIMIT"⟩
  | .PWR_P0_RESERVE => ⟨0x2600, 0x0A, 1, 1, .uns16, .rw, T, F, F, F, 0x0, 0, F, "PWR_P0_RESERVE"⟩
  | .PWR_BASE => ⟨0x2600, 0x0B, 1, 1, .uns16, .ro, F, F, F, F, 0x0, 0, F, "PWR_BASE"⟩
  | .PWR_ADMITTED => ⟨0x2600, 0x0C, 1, 1, .uns16, .ro, F, F, F, F, 0x0, 0, F, "PWR_ADMITTED"⟩
  | .COX_SETTLING => ⟨0x2600, 0x0D, 1, 1, .uns8, .ro, F, F, F, F, 0x0, 0, F, "COX_SETTLING"⟩
  | .COX_SETTLE_LAST => ⟨0x2600, 0x0E, 1, 1, .uns32, .ro, F, F, F, F, 0x0, 0, F, "COX_SETTLE_LAST"⟩
  | .COX_HEAT_TABLE => ⟨0x2600, 0x0F, 1, 1, .domain, .ro, F, F, F, F, 0x0, 2048, T, "COX_HEAT_TABLE"⟩
  | .RP_LOAD => ⟨0x2600, 0x10, 1, 1, .domain, .wo, T, F, F, F, 0x0, 16777216, F, "RP_LOAD"⟩
  | .RP_LAST_SLOT => ⟨0x2600, 0x11, 1, 1, .uns8, .ro, F, F, F, F, 0xFF, 0, F, "RP_LAST_SLOT"⟩
  | .RP_LAST_FAULT => ⟨0x2600, 0x12, 1, 1, .uns64, .ro, F, F, F, F, 0x0, 0, F, "RP_LAST_FAULT"⟩
  | .RP_UNLOAD => ⟨0x2600, 0x13, 1, 1, .uns8, .wo, T, F, F, F, 0x0, 0, F, "RP_UNLOAD"⟩
  | .COX_BG_REQUEST => ⟨0x2600, 0x14, 1, 1, .uns16, .wo, T, F, F, F, 0x0, 0, F, "COX_BG_REQUEST"⟩
  | .PART_ENABLE => ⟨0x2610, 0x01, 8, 1, .boolean, .rw, F, T, F, F, 0x0, 0, F, "PART_ENABLE"⟩
  | .PART_CREW_MASK => ⟨0x2610, 0x02, 8, 1, .uns8, .rw, F, T, F, F, 0x0, 0, F, "PART_CREW_MASK"⟩
  | .PART_LEND_MASK => ⟨0x2610, 0x03, 8, 1, .uns8, .rw, F, F, F, F, 0x0, 0, F, "PART_LEND_MASK"⟩
  | .PART_CAM_MASK => ⟨0x2610, 0x04, 8, 1, .uns16, .rw, F, T, F, F, 0x0, 0, F, "PART_CAM_MASK"⟩
  | .PART_SCR_QUOTA => ⟨0x2610, 0x05, 8, 1, .uns16, .rw, F, T, F, F, 0x0, 0, F, "PART_SCR_QUOTA"⟩
  | .PART_MEM_QUOTA => ⟨0x2610, 0x06, 8, 1, .uns32, .rw, F, T, F, F, 0x0, 0, F, "PART_MEM_QUOTA"⟩
  | .PART_RATE => ⟨0x2610, 0x07, 8, 1, .uns8, .rw, F, T, F, F, 0x0, 0, F, "PART_RATE"⟩
  | .PART_DEPTH => ⟨0x2610, 0x08, 8, 1, .uns16, .rw, F, T, F, F, 0x40, 0, F, "PART_DEPTH"⟩
  | .PART_HEATS => ⟨0x2610, 0x09, 8, 1, .uns8, .ro, F, F, F, F, 0x0, 0, F, "PART_HEATS"⟩
  | .PART_SCR_HELD => ⟨0x2610, 0x0A, 8, 1, .uns16, .ro, F, F, F, F, 0x0, 0, F, "PART_SCR_HELD"⟩
  | .PART_TOKENS => ⟨0x2610, 0x0B, 8, 1, .uns16, .ro, F, F, F, F, 0x40, 0, F, "PART_TOKENS"⟩
  | .RP_STATE => ⟨0x2620, 0x01, 16, 1, .uns8, .ro, F, F, F, F, 0x0, 0, F, "RP_STATE"⟩
  | .RP_DIGEST => ⟨0x2620, 0x02, 16, 1, .domain, .ro, F, F, F, F, 0x0, 64, T, "RP_DIGEST"⟩
  | .RP_PARTITION => ⟨0x2620, 0x03, 16, 1, .uns8, .ro, F, F, F, F, 0x0, 0, F, "RP_PARTITION"⟩
  | .RP_PLANS => ⟨0x2620, 0x04, 16, 1, .domain, .ro, F, F, F, F, 0x0, 2048, F, "RP_PLANS"⟩
  | .OAR_COUNT => ⟨0x2700, 0x01, 1, 1, .uns16, .ro, F, F, F, F, 0x0, 0, F, "OAR_COUNT"⟩
  | .OAR_INVOCATIONS => ⟨0x2700, 0x02, 1, 1, .uns64, .ro, F, F, F, F, 0x0, 0, F, "OAR_INVOCATIONS"⟩
  | .OAR_LAST_FAULT => ⟨0x2700, 0x03, 1, 1, .uns64, .ro, F, F, F, F, 0x0, 0, F, "OAR_LAST_FAULT"⟩
  | .PRESS_BLOCKS => ⟨0x2700, 0x04, 1, 1, .uns64, .ro, F, F, F, F, 0x0, 0, F, "PRESS_BLOCKS"⟩
  | .CROP_SLOTS => ⟨0x2700, 0x05, 1, 1, .uns64, .ro, F, F, F, F, 0x0, 0, F, "CROP_SLOTS"⟩
  | .OAR_ACTIVE => ⟨0x2710, 0x01, 6, 1, .uns16, .ro, F, F, F, F, 0x200, 0, F, "OAR_ACTIVE"⟩
  | .OAR_PATCH_FREE => ⟨0x2710, 0x02, 6, 1, .uns8, .ro, F, F, F, F, 0x10, 0, F, "OAR_PATCH_FREE"⟩
  | .OAR_MAP => ⟨0x2710, 0x03, 6, 1, .domain, .ro, F, F, F, F, 0x0, 1024, T, "OAR_MAP"⟩
  | .OAR_OOS => ⟨0x2710, 0x04, 6, 1, .domain, .ro, F, F, F, F, 0x0, 66, T, "OAR_OOS"⟩
  | .OAR_FORCE => ⟨0x2710, 0x05, 6, 1, .domain, .rw, F, F, F, F, 0x0, 66, T, "OAR_FORCE"⟩
  | .SL_ENABLE => ⟨0x2810, 0x01, 8, 1, .boolean, .rw, F, F, F, F, 0x0, 0, F, "SL_ENABLE"⟩
  | .KV_POOL_PAGES => ⟨0x2810, 0x02, 8, 1, .uns32, .ro, F, F, F, F, 0x0, 0, F, "KV_POOL_PAGES"⟩
  | .KV_FREE => ⟨0x2810, 0x03, 8, 1, .uns32, .ro, F, F, F, F, 0x0, 0, F, "KV_FREE"⟩
  | .KV_RESERVED => ⟨0x2810, 0x04, 8, 1, .uns32, .ro, F, F, F, F, 0x0, 0, F, "KV_RESERVED"⟩
  | .KV_AVAIL => ⟨0x2810, 0x05, 8, 1, .uns32, .ro, F, F, F, F, 0x0, 0, F, "KV_AVAIL"⟩
  | .KV_LOW_WATER => ⟨0x2810, 0x06, 8, 1, .uns32, .rw, F, F, F, F, 0x0, 0, F, "KV_LOW_WATER"⟩
  | .KV_RUNNING => ⟨0x2810, 0x07, 8, 1, .uns16, .ro, F, F, F, F, 0x0, 0, F, "KV_RUNNING"⟩
  | .KV_QUEUED => ⟨0x2810, 0x08, 8, 1, .uns16, .ro, F, F, F, F, 0x0, 0, F, "KV_QUEUED"⟩
  | .KV_STEP => ⟨0x2810, 0x09, 8, 1, .uns64, .ro, F, F, F, F, 0x0, 0, F, "KV_STEP"⟩
  | .KV_STEP_PERIODS => ⟨0x2810, 0x0A, 8, 1, .uns32, .ro, F, F, F, F, 0x0, 0, F, "KV_STEP_PERIODS"⟩
  | .KV_TREE_NODES => ⟨0x2810, 0x0B, 8, 1, .uns16, .ro, F, F, F, F, 0x0, 0, F, "KV_TREE_NODES"⟩
  | .KV_SEQ_TABLE => ⟨0x2810, 0x0C, 8, 1, .domain, .ro, F, F, F, F, 0x0, 16777216, F, "KV_SEQ_TABLE"⟩
  | .KV_QUEUE => ⟨0x2810, 0x0D, 8, 1, .domain, .ro, F, F, F, F, 0x0, 65536, F, "KV_QUEUE"⟩
  | .KV_CANCEL => ⟨0x2810, 0x0E, 8, 1, .uns64, .wo, T, F, F, F, 0x0, 0, F, "KV_CANCEL"⟩
  | .KV_TREE_FLUSH => ⟨0x2810, 0x0F, 8, 1, .uns8, .wo, T, F, F, F, 0x0, 0, F, "KV_TREE_FLUSH"⟩
  | .KV_EVICT_LOG => ⟨0x2810, 0x10, 8, 1, .domain, .ro, F, F, F, F, 0x0, 16777216, F, "KV_EVICT_LOG"⟩
  | .DET_GEN_VERSION => ⟨0x2900, 0x01, 1, 1, .uns8, .ro, F, F, F, F, 0x1, 0, F, "DET_GEN_VERSION"⟩
  | .DET_PATCH_EPOCH => ⟨0x2900, 0x02, 1, 1, .uns32, .ro, F, F, F, F, 0x0, 0, F, "DET_PATCH_EPOCH"⟩
  | .DET_PATCH_JOURNAL => ⟨0x2900, 0x03, 1, 1, .domain, .ro, F, F, F, F, 0x0, 5120, T, "DET_PATCH_JOURNAL"⟩
  | .DET_GEN_IN => ⟨0x2900, 0x04, 1, 1, .domain, .wo, T, F, F, F, 0x0, 36, T, "DET_GEN_IN"⟩
  | .DET_GEN_OUT => ⟨0x2900, 0x05, 1, 1, .domain, .ro, F, F, F, F, 0x0, 16, T, "DET_GEN_OUT"⟩
  | .DET_CFG_CRC => ⟨0x2900, 0x06, 1, 1, .domain, .ro, F, F, F, F, 0x0, 48, T, "DET_CFG_CRC"⟩
  | .DET_RUN_SEED => ⟨0x2910, 0x01, 8, 1, .domain, .rw, F, T, F, F, 0x0, 16, T, "DET_RUN_SEED"⟩
  | .DET_REPLAY_ENABLE => ⟨0x2910, 0x02, 8, 1, .boolean, .rw, F, T, F, F, 0x0, 0, F, "DET_REPLAY_ENABLE"⟩
  | .DET_REPLAY_SWATH => ⟨0x2910, 0x03, 8, 1, .domain, .wo, T, F, F, F, 0x0, 16777216, F, "DET_REPLAY_SWATH"⟩
  | .DET_REPLAY_SEQ => ⟨0x2910, 0x04, 8, 1, .domain, .wo, T, F, F, F, 0x0, 16777216, F, "DET_REPLAY_SEQ"⟩
  | .DET_REPLAY_STATE => ⟨0x2910, 0x05, 8, 1, .domain, .wo, T, F, F, F, 0x0, 16777216, F, "DET_REPLAY_STATE"⟩
  | .DET_TAP_TENSOR => ⟨0x2910, 0x06, 8, 1, .uns16, .rw, F, F, F, F, 0xFFFF, 0, F, "DET_TAP_TENSOR"⟩
  | .DET_TAP_DATA => ⟨0x2910, 0x07, 8, 1, .domain, .ro, F, F, F, F, 0x0, 16777216, F, "DET_TAP_DATA"⟩
  | .DET_REPLAYS => ⟨0x2910, 0x08, 8, 1, .uns32, .ro, F, F, F, F, 0x0, 0, F, "DET_REPLAYS"⟩
  | .SQD_ENABLE => ⟨0x2A00, 0x01, 1, 1, .boolean, .rw, F, T, F, F, 0x0, 0, F, "SQD_ENABLE"⟩
  | .SQD_SEAT => ⟨0x2A00, 0x02, 1, 1, .uns8, .rw, F, T, F, F, 0x0, 0, F, "SQD_SEAT"⟩
  | .SQD_SIZE => ⟨0x2A00, 0x03, 1, 1, .uns8, .rw, F, T, F, F, 0x1, 0, F, "SQD_SIZE"⟩
  | .SQD_SHAPE => ⟨0x2A00, 0x04, 1, 1, .uns8, .rw, F, T, F, F, 0x0, 0, F, "SQD_SHAPE"⟩
  | .SQD_STATE => ⟨0x2A00, 0x05, 1, 1, .uns8, .ro, F, F, F, F, 0x0, 0, F, "SQD_STATE"⟩
  | .SQD_STROKE_SEAT => ⟨0x2A00, 0x06, 1, 1, .uns8, .ro, F, F, F, F, 0xFF, 0, F, "SQD_STROKE_SEAT"⟩
  | .SQD_MEMBERS => ⟨0x2A00, 0x07, 1, 1, .uns32, .ro, F, F, F, F, 0x0, 0, F, "SQD_MEMBERS"⟩
  | .SQD_VERSION => ⟨0x2A00, 0x08, 1, 1, .uns8, .ro, F, F, F, F, 0x0, 0, F, "SQD_VERSION"⟩
  | .SQD_EPOCH => ⟨0x2A00, 0x09, 1, 1, .uns32, .ro, F, F, F, F, 0x0, 0, F, "SQD_EPOCH"⟩
  | .SQD_FORM_FAULT => ⟨0x2A00, 0x0A, 1, 1, .uns32, .ro, F, F, F, F, 0x0, 0, F, "SQD_FORM_FAULT"⟩
  | .SQD_FORM_TIMEOUT => ⟨0x2A00, 0x0B, 1, 1, .uns16, .rw, F, T, F, F, 0x1F4, 0, F, "SQD_FORM_TIMEOUT"⟩
  | .SQD_PART_MASK => ⟨0x2A00, 0x0C, 1, 1, .uns8, .rw, F, T, F, F, 0x0, 0, F, "SQD_PART_MASK"⟩
  | .SQD_LOSS_ACTION => ⟨0x2A00, 0x0D, 1, 1, .uns8, .rw, F, F, F, F, 0x0, 0, F, "SQD_LOSS_ACTION"⟩
  | .SQD_HEARTBEAT_US => ⟨0x2A00, 0x0E, 1, 1, .uns16, .rw, F, T, F, F, 0x64, 0, F, "SQD_HEARTBEAT_US"⟩
  | .SQD_LEAD_US => ⟨0x2A00, 0x0F, 1, 1, .uns16, .rw, F, T, F, F, 0x32, 0, F, "SQD_LEAD_US"⟩
  | .SQD_TIME_SOURCE => ⟨0x2A00, 0x10, 1, 1, .uns8, .rw, F, T, F, F, 0xFF, 0, F, "SQD_TIME_SOURCE"⟩
  | .SQD_TIME_INTERVAL_US => ⟨0x2A00, 0x11, 1, 1, .uns32, .rw, F, T, F, F, 0x3E8, 0, F, "SQD_TIME_INTERVAL_US"⟩
  | .SQD_ROUTES => ⟨0x2A00, 0x12, 1, 1, .domain, .ro, F, F, F, F, 0x0, 384, T, "SQD_ROUTES"⟩
  | .SQD_TOPOLOGY => ⟨0x2A00, 0x13, 1, 1, .domain, .ro, F, F, F, F, 0x0, 512, T, "SQD_TOPOLOGY"⟩
  | .SQD_LOAD_SEAT => ⟨0x2A00, 0x14, 1, 1, .uns8, .ro, F, F, F, F, 0xFF, 0, F, "SQD_LOAD_SEAT"⟩
  | .SQD_CMD_FAULT_SEAT => ⟨0x2A00, 0x15, 1, 1, .uns8, .ro, F, F, F, F, 0xFF, 0, F, "SQD_CMD_FAULT_SEAT"⟩
  | .NL_ENABLE => ⟨0x2A10, 0x01, 8, 1, .boolean, .rw, F, F, F, F, 0x0, 0, F, "NL_ENABLE"⟩
  | .NL_CLK_MODE => ⟨0x2A10, 0x02, 8, 1, .uns8, .rw, F, F, T, F, 0x0, 0, F, "NL_CLK_MODE"⟩
  | .NL_STATE => ⟨0x2A10, 0x03, 8, 1, .uns8, .ro, F, F, F, F, 0x0, 0, F, "NL_STATE"⟩
  | .NL_FAIL_CAUSE => ⟨0x2A10, 0x04, 8, 1, .uns8, .ro, F, F, F, F, 0x0, 0, F, "NL_FAIL_CAUSE"⟩
  | .NL_PEER => ⟨0x2A10, 0x05, 8, 1, .uns16, .ro, F, F, F, F, 0xFFFF, 0, F, "NL_PEER"⟩
  | .NL_PEER_ID => ⟨0x2A10, 0x06, 8, 1, .uns64, .ro, F, F, F, F, 0x0, 0, F, "NL_PEER_ID"⟩
  | .NL_VERSION => ⟨0x2A10, 0x07, 8, 1, .uns8, .ro, F, F, F, F, 0x0, 0, F, "NL_VERSION"⟩
  | .NL_LANE_MAP => ⟨0x2A10, 0x08, 8, 1, .uns8, .ro, F, F, F, F, 0x0, 0, F, "NL_LANE_MAP"⟩
  | .NL_TAPS => ⟨0x2A10, 0x09, 8, 1, .domain, .ro, F, F, F, F, 0x0, 8, T, "NL_TAPS"⟩
  | .NL_FOM => ⟨0x2A10, 0x0A, 8, 1, .domain, .ro, F, F, F, F, 0x0, 4, T, "NL_FOM"⟩
  | .NL_FOM_MIN => ⟨0x2A10, 0x0B, 8, 1, .uns8, .rw, F, F, F, F, 0x40, 0, F, "NL_FOM_MIN"⟩
  | .NL_EASY_IDLE => ⟨0x2A10, 0x0C, 8, 1, .uns16, .rw, F, F, F, F, 0x32, 0, F, "NL_EASY_IDLE"⟩
  | .NL_POWER_CMD => ⟨0x2A10, 0x0D, 8, 1, .uns8, .wo, T, F, F, F, 0x0, 0, F, "NL_POWER_CMD"⟩
  | .NL_REPLAY_TIMEOUT => ⟨0x2A10, 0x0E, 8, 1, .uns16, .rw, F, F, F, F, 0xFA0, 0, F, "NL_REPLAY_TIMEOUT"⟩
  | .NL_REPLAY_LIMIT => ⟨0x2A10, 0x0F, 8, 1, .uns8, .rw, F, F, F, F, 0x4, 0, F, "NL_REPLAY_LIMIT"⟩
  | .NL_TIME_ASYM => ⟨0x2A10, 0x10, 8, 1, .int32, .rw, T, F, F, F, 0x0, 0, F, "NL_TIME_ASYM"⟩
  | .NL_DELAY => ⟨0x2A10, 0x11, 8, 1, .int64, .ro, F, F, F, F, 0x0, 0, F, "NL_DELAY"⟩
  | .NL_OFFSET => ⟨0x2A10, 0x12, 8, 1, .int64, .ro, F, F, F, F, 0x0, 0, F, "NL_OFFSET"⟩
  | .NL_TEST_MODE => ⟨0x2A10, 0x13, 8, 1, .uns8, .rw, F, T, F, F, 0x0, 0, F, "NL_TEST_MODE"⟩
  | .NL_PATTERN => ⟨0x2A10, 0x14, 8, 1, .uns8, .rw, F, F, F, F, 0x3, 0, F, "NL_PATTERN"⟩
  | .NL_USER_PATTERN => ⟨0x2A10, 0x15, 8, 1, .uns32, .rw, F, F, F, F, 0xF0F0F0F, 0, F, "NL_USER_PATTERN"⟩
  | .NL_INJECT => ⟨0x2A10, 0x16, 8, 1, .uns32, .wo, T, F, F, F, 0x0, 0, F, "NL_INJECT"⟩
  | .NL_INJECT_PERIOD => ⟨0x2A10, 0x17, 8, 1, .uns32, .rw, F, F, F, F, 0xF4240, 0, F, "NL_INJECT_PERIOD"⟩
  | .NL_INJECTED => ⟨0x2A10, 0x18, 8, 1, .uns32, .ro, F, F, F, F, 0x0, 0, F, "NL_INJECTED"⟩
  | .NL_CHK_ERRORS => ⟨0x2A10, 0x19, 8, 1, .domain, .ro, F, F, F, F, 0x0, 16, T, "NL_CHK_ERRORS"⟩
  | .NL_CHK_BITS => ⟨0x2A10, 0x1A, 8, 1, .domain, .ro, F, F, F, F, 0x0, 32, T, "NL_CHK_BITS"⟩
  | .RT_ENABLE => ⟨0x2B10, 0x01, 8, 1, .boolean, .rw, F, F, F, F, 0x0, 0, F, "RT_ENABLE"⟩
  | .RT_KEEP_SHORT => ⟨0x2B10, 0x02, 8, 1, .boolean, .rw, F, F, F, F, 0x0, 0, F, "RT_KEEP_SHORT"⟩
  | .RT_RUNAHEAD => ⟨0x2B10, 0x03, 8, 1, .uns8, .rw, F, F, F, F, 0x8, 0, F, "RT_RUNAHEAD"⟩
  | .RT_PUBLISH_EVERY => ⟨0x2B10, 0x04, 8, 1, .uns32, .rw, F, F, F, F, 0x0, 0, F, "RT_PUBLISH_EVERY"⟩
  | .RT_ADD => ⟨0x2B10, 0x05, 8, 1, .domain, .wo, T, F, F, F, 0x0, 16777216, F, "RT_ADD"⟩
  | .RT_LAST_INDEX => ⟨0x2B10, 0x06, 8, 1, .uns32, .ro, F, F, F, F, 0xFFFFFFFF, 0, F, "RT_LAST_INDEX"⟩
  | .RT_REMOVE => ⟨0x2B10, 0x07, 8, 1, .uns32, .wo, T, F, F, F, 0x0, 0, F, "RT_REMOVE"⟩
  | .RT_SAMPLES => ⟨0x2B10, 0x08, 8, 1, .uns32, .ro, F, F, F, F, 0x0, 0, F, "RT_SAMPLES"⟩
  | .RT_BAD_SET => ⟨0x2B10, 0x09, 8, 1, .domain, .ro, F, F, F, F, 0x0, 16777216, F, "RT_BAD_SET"⟩
  | .RT_EPOCH => ⟨0x2B10, 0x0A, 8, 1, .uns32, .ro, F, F, F, F, 0x0, 0, F, "RT_EPOCH"⟩
  | .RT_STEP => ⟨0x2B10, 0x0B, 8, 1, .uns64, .ro, F, F, F, F, 0x0, 0, F, "RT_STEP"⟩
  | .RT_READY => ⟨0x2B10, 0x0C, 8, 1, .uns8, .ro, F, F, F, F, 0x0, 0, F, "RT_READY"⟩
  | .RT_GENERATION => ⟨0x2B10, 0x0D, 8, 1, .uns32, .ro, F, F, F, F, 0x0, 0, F, "RT_GENERATION"⟩
  | .RT_PUBLISH => ⟨0x2B10, 0x0E, 8, 1, .uns8, .wo, T, F, F, F, 0x0, 0, F, "RT_PUBLISH"⟩
  | .RT_RESTART => ⟨0x2B10, 0x0F, 8, 1, .uns8, .wo, T, F, F, F, 0x0, 0, F, "RT_RESTART"⟩
  | .RT_EXPORT => ⟨0x2B10, 0x10, 8, 1, .domain, .ro, F, F, F, F, 0x0, 16777216, F, "RT_EXPORT"⟩
  | .FIO_IN => ⟨0x2C00, 0x01, 1, 1, .uns64, .ro, F, F, F, F, 0x0, 0, F, "FIO_IN"⟩
  | .FIO_OUT => ⟨0x2C00, 0x02, 1, 1, .uns64, .rw, T, F, F, F, 0x0, 0, F, "FIO_OUT"⟩
  | .FIO_FORCE_OFF => ⟨0x2C00, 0x03, 1, 1, .uns64, .rw, T, F, F, F, 0x0, 0, F, "FIO_FORCE_OFF"⟩
  | .FIO_COMMON_FAULT => ⟨0x2C00, 0x04, 1, 1, .boolean, .ro, F, F, F, F, 0x0, 0, F, "FIO_COMMON_FAULT"⟩
  | .FIO_SUPPLY_MV => ⟨0x2C00, 0x05, 1, 1, .domain, .ro, F, F, F, F, 0x0, 12, T, "FIO_SUPPLY_MV"⟩
  | .FIO_RETRY => ⟨0x2C00, 0x06, 1, 1, .uns16, .rw, F, F, F, F, 0x64, 0, F, "FIO_RETRY"⟩
  | .FIO_MODE => ⟨0x2C10, 0x01, 48, 1, .uns8, .rw, F, T, F, F, 0x0, 0, F, "FIO_MODE"⟩
  | .FIO_FILT => ⟨0x2C10, 0x02, 48, 1, .uns16, .rw, F, F, F, F, 0x3, 0, F, "FIO_FILT"⟩
  | .FIO_DIAG => ⟨0x2C10, 0x03, 48, 1, .boolean, .rw, F, F, F, F, 0x0, 0, F, "FIO_DIAG"⟩
  | .FIO_TRIG_SLOT => ⟨0x2C10, 0x04, 48, 1, .uns8, .rw, F, T, F, F, 0x0, 0, F, "FIO_TRIG_SLOT"⟩
  | .FIO_STATUS => ⟨0x2C10, 0x05, 48, 1, .uns16, .ro, F, F, F, F, 0x0, 0, F, "FIO_STATUS"⟩
  | .FIO_ACK => ⟨0x2C10, 0x06, 48, 1, .uns8, .wo, T, F, F, F, 0x0, 0, F, "FIO_ACK"⟩
  | .FIRE_PENDING => ⟨0x2D00, 0x01, 1, 1, .uns16, .ro, F, F, F, F, 0x0, 0, F, "FIRE_PENDING"⟩
  | .FIRE_STOP_CH => ⟨0x2D00, 0x02, 1, 1, .uns8, .rw, F, T, F, F, 0xFF, 0, F, "FIRE_STOP_CH"⟩
  | .FIRE_STOP_LATCHED => ⟨0x2D00, 0x03, 1, 1, .boolean, .ro, F, F, F, F, 0x0, 0, F, "FIRE_STOP_LATCHED"⟩
  | .FIRE_STOP_ACK => ⟨0x2D00, 0x04, 1, 1, .uns8, .wo, T, F, F, F, 0x0, 0, F, "FIRE_STOP_ACK"⟩
  | .ENC_ENABLE => ⟨0x2D10, 0x01, 8, 1, .boolean, .rw, F, F, F, F, 0x0, 0, F, "ENC_ENABLE"⟩
  | .ENC_MODE => ⟨0x2D10, 0x02, 8, 1, .uns8, .rw, F, F, T, F, 0x2, 0, F, "ENC_MODE"⟩
  | .ENC_INVERT => ⟨0x2D10, 0x03, 8, 1, .boolean, .rw, F, F, T, F, 0x0, 0, F, "ENC_INVERT"⟩
  | .ENC_FILT => ⟨0x2D10, 0x04, 8, 1, .uns8, .rw, F, F, T, F, 0x2, 0, F, "ENC_FILT"⟩
  | .ENC_TOOTH_N => ⟨0x2D10, 0x05, 8, 1, .uns8, .rw, F, F, T, F, 0x1, 0, F, "ENC_TOOTH_N"⟩
  | .ENC_Z_USED => ⟨0x2D10, 0x06, 8, 1, .boolean, .rw, F, F, T, F, 0x0, 0, F, "ENC_Z_USED"⟩
  | .ENC_PRESET => ⟨0x2D10, 0x07, 8, 1, .int64, .rw, F, F, T, F, 0x0, 0, F, "ENC_PRESET"⟩
  | .ENC_REF_PERIOD => ⟨0x2D10, 0x08, 8, 1, .uns32, .rw, F, F, T, F, 0x0, 0, F, "ENC_REF_PERIOD"⟩
  | .ENC_REF_TOL => ⟨0x2D10, 0x09, 8, 1, .uns16, .rw, F, F, T, F, 0x0, 0, F, "ENC_REF_TOL"⟩
  | .ENC_POS => ⟨0x2D10, 0x0A, 8, 1, .int64, .ro, F, F, F, F, 0x0, 0, F, "ENC_POS"⟩
  | .ENC_REF_POS => ⟨0x2D10, 0x0B, 8, 1, .int64, .ro, F, F, F, F, 0x0, 0, F, "ENC_REF_POS"⟩
  | .ENC_REF_CNT => ⟨0x2D10, 0x0C, 8, 1, .uns32, .ro, F, F, F, F, 0x0, 0, F, "ENC_REF_CNT"⟩
  | .ENC_STATUS => ⟨0x2D10, 0x0D, 8, 1, .uns16, .ro, F, F, F, F, 0x0, 0, F, "ENC_STATUS"⟩
  | .ENC_ACK => ⟨0x2D10, 0x0E, 8, 1, .uns8, .wo, T, F, F, F, 0x0, 0, F, "ENC_ACK"⟩
  | .DIV_ENABLE => ⟨0x2D20, 0x01, 16, 1, .boolean, .rw, F, F, F, F, 0x0, 0, F, "DIV_ENABLE"⟩
  | .DIV_SRC => ⟨0x2D20, 0x02, 16, 1, .uns8, .rw, F, F, F, F, 0x0, 0, F, "DIV_SRC"⟩
  | .DIV_N => ⟨0x2D20, 0x03, 16, 1, .uns32, .rw, F, F, F, F, 0x1, 0, F, "DIV_N"⟩
  | .DIV_M => ⟨0x2D20, 0x04, 16, 1, .uns32, .rw, F, F, F, F, 0x1, 0, F, "DIV_M"⟩
  | .DIV_OUT_MODE => ⟨0x2D20, 0x05, 16, 1, .uns8, .rw, F, F, F, F, 0x0, 0, F, "DIV_OUT_MODE"⟩
  | .DIV_WIDTH => ⟨0x2D20, 0x06, 16, 1, .uns16, .rw, F, F, F, F, 0x28, 0, F, "DIV_WIDTH"⟩
  | .TRG_ENABLE => ⟨0x2D30, 0x01, 32, 1, .boolean, .rw, F, F, F, F, 0x0, 0, F, "TRG_ENABLE"⟩
  | .TRG_SRC => ⟨0x2D30, 0x02, 32, 1, .uns8, .rw, F, F, T, F, 0x0, 0, F, "TRG_SRC"⟩
  | .TRG_CHANNEL => ⟨0x2D30, 0x03, 32, 1, .uns8, .rw, F, F, T, F, 0x0, 0, F, "TRG_CHANNEL"⟩
  | .TRG_START => ⟨0x2D30, 0x04, 32, 1, .domain, .rw, F, F, T, F, 0x0, 12, T, "TRG_START"⟩
  | .TRG_PERIOD => ⟨0x2D30, 0x05, 32, 1, .uns64, .rw, F, F, T, F, 0x0, 0, F, "TRG_PERIOD"⟩
  | .TRG_WIDTH => ⟨0x2D30, 0x06, 32, 1, .uns32, .rw, F, F, T, F, 0x190, 0, F, "TRG_WIDTH"⟩
  | .TRG_WIDTH_CNT => ⟨0x2D30, 0x07, 32, 1, .boolean, .rw, F, F, T, F, 0x0, 0, F, "TRG_WIDTH_CNT"⟩
  | .FIRE_ENABLE => ⟨0x2D50, 0x01, 12, 1, .boolean, .rw, F, F, F, F, 0x0, 0, F, "FIRE_ENABLE"⟩
  | .FIRE_AGE_LIMIT => ⟨0x2D50, 0x02, 12, 1, .uns32, .rw, F, F, F, F, 0x30D40, 0, F, "FIRE_AGE_LIMIT"⟩
  | .FIRE_FB_UNDECIDED => ⟨0x2D50, 0x03, 12, 1, .uns8, .rw, F, F, F, F, 0x0, 0, F, "FIRE_FB_UNDECIDED"⟩
  | .FIRE_FB_LATE => ⟨0x2D50, 0x04, 12, 1, .uns8, .rw, F, F, F, F, 0x0, 0, F, "FIRE_FB_LATE"⟩
  | .FIRE_FB_INVALID => ⟨0x2D50, 0x05, 12, 1, .uns8, .rw, F, F, F, F, 0x0, 0, F, "FIRE_FB_INVALID"⟩
  | .FIRE_LAST => ⟨0x2D50, 0x06, 12, 1, .uns64, .ro, F, F, F, F, 0x0, 0, F, "FIRE_LAST"⟩
  | .TS_TIME => ⟨0x2E00, 0x01, 1, 1, .domain, .ro, F, F, F, F, 0x0, 14, T, "TS_TIME"⟩
  | .TS_MONO => ⟨0x2E00, 0x02, 1, 1, .uns64, .ro, F, F, F, F, 0x0, 0, F, "TS_MONO"⟩
  | .TS_SOURCE => ⟨0x2E00, 0x03, 1, 1, .uns8, .rw, F, F, F, F, 0x0, 0, F, "TS_SOURCE"⟩
  | .TS_STATE => ⟨0x2E00, 0x04, 1, 1, .uns8, .ro, F, F, F, F, 0x0, 0, F, "TS_STATE"⟩
  | .TS_SET => ⟨0x2E00, 0x05, 1, 1, .domain, .wo, T, F, F, F, 0x0, 12, T, "TS_SET"⟩
  | .TS_KP => ⟨0x2E00, 0x06, 1, 1, .uns32, .rw, F, F, F, F, 0x40000, 0, F, "TS_KP"⟩
  | .TS_KI => ⟨0x2E00, 0x07, 1, 1, .uns32, .rw, F, F, F, F, 0x8000, 0, F, "TS_KI"⟩
  | .TS_FREQ_MAX => ⟨0x2E00, 0x08, 1, 1, .uns32, .rw, F, F, F, F, 0x30D40, 0, F, "TS_FREQ_MAX"⟩
  | .TS_STEP_NS => ⟨0x2E00, 0x09, 1, 1, .uns32, .rw, F, F, F, F, 0xF4240, 0, F, "TS_STEP_NS"⟩
  | .TS_STEP_RUN => ⟨0x2E00, 0x0A, 1, 1, .boolean, .rw, F, F, F, F, 0x0, 0, F, "TS_STEP_RUN"⟩
  | .TS_LOCK_NS => ⟨0x2E00, 0x0B, 1, 1, .uns32, .rw, F, F, F, F, 0x64, 0, F, "TS_LOCK_NS"⟩
  | .TS_HOLDOVER_MS => ⟨0x2E00, 0x0C, 1, 1, .uns32, .rw, F, F, F, F, 0x3E8, 0, F, "TS_HOLDOVER_MS"⟩
  | .TS_OFFSET => ⟨0x2E00, 0x0D, 1, 1, .int64, .ro, F, F, F, F, 0x0, 0, F, "TS_OFFSET"⟩
  | .TS_RATE => ⟨0x2E00, 0x0E, 1, 1, .int64, .ro, F, F, F, F, 0x0, 0, F, "TS_RATE"⟩
  | .TS_UTC_OFFSET => ⟨0x2E00, 0x0F, 1, 1, .int16, .rw, F, F, F, F, 0x25, 0, F, "TS_UTC_OFFSET"⟩
  | .PTP_DOMAIN => ⟨0x2E00, 0x10, 1, 1, .uns8, .rw, F, F, F, F, 0x0, 0, F, "PTP_DOMAIN"⟩
  | .PTP_PRIORITY1 => ⟨0x2E00, 0x11, 1, 1, .uns8, .rw, F, F, F, F, 0xF8, 0, F, "PTP_PRIORITY1"⟩
  | .PTP_PRIORITY2 => ⟨0x2E00, 0x12, 1, 1, .uns8, .rw, F, F, F, F, 0xF8, 0, F, "PTP_PRIORITY2"⟩
  | .PTP_CLOCK_ID => ⟨0x2E00, 0x13, 1, 1, .uns64, .ro, F, F, F, F, 0x0, 0, F, "PTP_CLOCK_ID"⟩
  | .PTP_GM_ID => ⟨0x2E00, 0x14, 1, 1, .uns64, .ro, F, F, F, F, 0x0, 0, F, "PTP_GM_ID"⟩
  | .PTP_EXT_CFG => ⟨0x2E00, 0x15, 1, 1, .boolean, .rw, F, F, F, F, 0x0, 0, F, "PTP_EXT_CFG"⟩
  | .FNET_ENABLE => ⟨0x2E10, 0x01, 2, 1, .boolean, .rw, F, F, F, T, 0x0, 0, F, "FNET_ENABLE"⟩
  | .FNET_MODE => ⟨0x2E10, 0x02, 2, 1, .uns8, .rw, F, F, T, T, 0x1, 0, F, "FNET_MODE"⟩
  | .FNET_STATUS => ⟨0x2E10, 0x03, 2, 1, .uns8, .ro, F, F, F, F, 0x0, 0, F, "FNET_STATUS"⟩
  | .FNET_MAC => ⟨0x2E10, 0x04, 2, 1, .uns64, .ro, F, F, F, F, 0x0, 0, F, "FNET_MAC"⟩
  | .FNET_IPV4 => ⟨0x2E10, 0x05, 2, 1, .uns32, .rw, F, F, F, T, 0x0, 0, F, "FNET_IPV4"⟩
  | .FNET_NETMASK => ⟨0x2E10, 0x06, 2, 1, .uns32, .rw, F, F, F, T, 0x0, 0, F, "FNET_NETMASK"⟩
  | .FNET_VID => ⟨0x2E10, 0x07, 2, 1, .uns16, .rw, F, F, F, T, 0x0, 0, F, "FNET_VID"⟩
  | .FNET_PCP_CYC => ⟨0x2E10, 0x08, 2, 1, .uns8, .rw, F, F, F, T, 0x6, 0, F, "FNET_PCP_CYC"⟩
  | .FNET_PCP_OD => ⟨0x2E10, 0x09, 2, 1, .uns8, .rw, F, F, F, T, 0x4, 0, F, "FNET_PCP_OD"⟩
  | .FNET_TX_LAT => ⟨0x2E10, 0x0A, 2, 1, .uns32, .rw, F, F, F, T, 0x0, 0, F, "FNET_TX_LAT"⟩
  | .FNET_RX_LAT => ⟨0x2E10, 0x0B, 2, 1, .uns32, .rw, F, F, F, T, 0x0, 0, F, "FNET_RX_LAT"⟩
  | .PTP_ENABLE => ⟨0x2E10, 0x0C, 2, 1, .boolean, .rw, F, F, F, F, 0x0, 0, F, "PTP_ENABLE"⟩
  | .PTP_ASYM => ⟨0x2E10, 0x0D, 2, 1, .int32, .rw, F, F, F, F, 0x0, 0, F, "PTP_ASYM"⟩
  | .PTP_LOG_SYNC => ⟨0x2E10, 0x0E, 2, 1, .int8, .rw, F, F, F, F, 0xFD, 0, F, "PTP_LOG_SYNC"⟩
  | .PTP_LOG_PDELAY => ⟨0x2E10, 0x0F, 2, 1, .int8, .rw, F, F, F, F, 0x0, 0, F, "PTP_LOG_PDELAY"⟩
  | .PTP_PORT_STATE => ⟨0x2E10, 0x10, 2, 1, .uns8, .ro, F, F, F, F, 0x0, 0, F, "PTP_PORT_STATE"⟩
  | .PTP_PORT_CFG => ⟨0x2E10, 0x11, 2, 1, .uns8, .rw, F, F, F, F, 0x3, 0, F, "PTP_PORT_CFG"⟩
  | .PTP_LINK_DELAY => ⟨0x2E10, 0x12, 2, 1, .int64, .ro, F, F, F, F, 0x0, 0, F, "PTP_LINK_DELAY"⟩
  | .PTP_NRR => ⟨0x2E10, 0x13, 2, 1, .int32, .ro, F, F, F, F, 0x0, 0, F, "PTP_NRR"⟩
  | .PTP_AS_CAPABLE => ⟨0x2E10, 0x14, 2, 1, .boolean, .ro, F, F, F, F, 0x0, 0, F, "PTP_AS_CAPABLE"⟩
  | .TS_TXQ => ⟨0x2E10, 0x15, 2, 1, .domain, .ro, F, F, F, F, 0x0, 384, F, "TS_TXQ"⟩
  | .QBV_ENABLE => ⟨0x2E20, 0x01, 2, 1, .boolean, .rw, F, F, F, F, 0x0, 0, F, "QBV_ENABLE"⟩
  | .QBV_BASE => ⟨0x2E20, 0x02, 2, 1, .domain, .rw, F, F, F, F, 0x0, 12, T, "QBV_BASE"⟩
  | .QBV_CYCLE_NS => ⟨0x2E20, 0x03, 2, 1, .uns32, .rw, F, F, F, F, 0xF4240, 0, F, "QBV_CYCLE_NS"⟩
  | .QBV_LIST => ⟨0x2E20, 0x04, 2, 1, .domain, .rw, F, F, F, F, 0x0, 256, F, "QBV_LIST"⟩
  | .QBV_LEN => ⟨0x2E20, 0x05, 2, 1, .uns8, .rw, F, F, F, F, 0x1, 0, F, "QBV_LEN"⟩
  | .QBV_OPER_BASE => ⟨0x2E20, 0x06, 2, 1, .domain, .ro, F, F, F, F, 0x0, 12, T, "QBV_OPER_BASE"⟩
  | .ID_VENDOR => ⟨0x1000, 0x01, 1, 1, .uns32, .ro, F, F, F, F, 0x4B4E4C56, 0, F, "ID_VENDOR"⟩
  | .ID_PRODUCT => ⟨0x1000, 0x02, 1, 1, .uns32, .ro, F, F, F, F, 0x680, 0, F, "ID_PRODUCT"⟩
  | .ID_PART => ⟨0x1000, 0x03, 1, 1, .uns8, .ro, F, F, F, F, 0x0, 0, F, "ID_PART"⟩
  | .ID_DEVICE => ⟨0x1000, 0x04, 1, 1, .domain, .ro, F, F, F, F, 0x0, 16, T, "ID_DEVICE"⟩
  | .ID_MAC_BASE => ⟨0x1000, 0x05, 1, 1, .uns64, .ro, F, F, F, F, 0x0, 0, F, "ID_MAC_BASE"⟩
  | .ID_GEN => ⟨0x1000, 0x06, 1, 1, .uns8, .ro, F, F, F, F, 0x1, 0, F, "ID_GEN"⟩
  | .ID_STEPPING => ⟨0x1000, 0x07, 1, 1, .uns8, .ro, F, F, F, F, 0x0, 0, F, "ID_STEPPING"⟩
  | .ID_CREW_FUSED => ⟨0x1000, 0x08, 1, 1, .uns8, .ro, F, F, F, F, 0x0, 0, F, "ID_CREW_FUSED"⟩
  | .ID_OD_VERSION => ⟨0x1000, 0x09, 1, 1, .uns8, .ro, F, F, F, F, 0x1, 0, F, "ID_OD_VERSION"⟩
  | .OD_SESSION_TIMEOUT => ⟨0x1100, 0x01, 1, 1, .uns16, .rw, F, F, F, F, 0x1388, 0, F, "OD_SESSION_TIMEOUT"⟩
  | .OD_WINDOW => ⟨0x1100, 0x02, 1, 1, .uns8, .ro, F, F, F, F, 0x40, 0, F, "OD_WINDOW"⟩
  | .OD_MAX_OUTSTANDING => ⟨0x1100, 0x03, 1, 1, .uns8, .ro, F, F, F, F, 0x8, 0, F, "OD_MAX_OUTSTANDING"⟩
  | .OD_MAX_DATA => ⟨0x1100, 0x04, 1, 1, .uns16, .ro, F, F, F, F, 0x590, 0, F, "OD_MAX_DATA"⟩
  | .OD_CONTROL => ⟨0x1100, 0x05, 1, 1, .uns16, .ro, F, F, F, F, 0xFFFF, 0, F, "OD_CONTROL"⟩
  | .OD_PROTO_MAX => ⟨0x1100, 0x06, 1, 1, .uns8, .ro, F, F, F, F, 0x1, 0, F, "OD_PROTO_MAX"⟩
  | .OD_SESSIONS => ⟨0x1110, 0x01, 3, 1, .domain, .ro, F, F, F, F, 0x0, 256, T, "OD_SESSIONS"⟩
  | .CYC_ENABLE => ⟨0x1600, 0x01, 1, 1, .boolean, .rw, F, F, F, F, 0x0, 0, F, "CYC_ENABLE"⟩
  | .CYC_PORT => ⟨0x1600, 0x02, 1, 1, .uns8, .rw, F, F, T, F, 0x0, 0, F, "CYC_PORT"⟩
  | .CYC_PEER_MAC => ⟨0x1600, 0x03, 1, 1, .uns64, .rw, F, F, F, F, 0x0, 0, F, "CYC_PEER_MAC"⟩
  | .CYC_BASE => ⟨0x1600, 0x04, 1, 1, .domain, .rw, F, F, F, F, 0x0, 12, T, "CYC_BASE"⟩
  | .CYC_PERIOD_NS => ⟨0x1600, 0x05, 1, 1, .uns32, .rw, F, F, F, F, 0xF4240, 0, F, "CYC_PERIOD_NS"⟩
  | .CYC_TX_OFS_NS => ⟨0x1600, 0x06, 1, 1, .uns32, .rw, F, F, F, F, 0x0, 0, F, "CYC_TX_OFS_NS"⟩
  | .CYC_WD_CYCLES => ⟨0x1600, 0x07, 1, 1, .uns8, .rw, F, F, F, F, 0x3, 0, F, "CYC_WD_CYCLES"⟩
  | .CYC_WD_ACTION => ⟨0x1600, 0x08, 1, 1, .uns8, .rw, F, F, F, F, 0x1, 0, F, "CYC_WD_ACTION"⟩
  | .CYC_TX_LEN => ⟨0x1600, 0x09, 1, 1, .uns16, .ro, F, F, F, F, 0x0, 0, F, "CYC_TX_LEN"⟩
  | .CYC_RX_LEN => ⟨0x1600, 0x0A, 1, 1, .uns16, .ro, F, F, F, F, 0x0, 0, F, "CYC_RX_LEN"⟩
  | .CYC_RX_LAST => ⟨0x1600, 0x0B, 1, 1, .uns32, .ro, F, F, F, F, 0x0, 0, F, "CYC_RX_LAST"⟩
  | .CYC_TX_MAP => ⟨0x1610, 0x01, 1, 64, .uns64, .rw, F, F, F, F, 0x0, 0, F, "CYC_TX_MAP"⟩
  | .CYC_RX_MAP => ⟨0x1620, 0x01, 1, 64, .uns64, .rw, F, F, F, F, 0x0, 0, F, "CYC_RX_MAP"⟩
  | .PCI_LINK => ⟨0x2F00, 0x01, 1, 1, .uns8, .ro, F, F, F, F, 0x0, 0, F, "PCI_LINK"⟩
  | .PCI_BULK_PART => ⟨0x2F00, 0x02, 1, 1, .uns8, .rw, F, F, F, F, 0xFF, 0, F, "PCI_BULK_PART"⟩
  | .PCI_RESP_IRQ => ⟨0x2F00, 0x03, 1, 1, .boolean, .rw, F, F, F, F, 0x0, 0, F, "PCI_RESP_IRQ"⟩
  | .PCI_XL_SUBMIT => ⟨0x2F00, 0x04, 1, 1, .domain, .wo, T, F, F, F, 0x0, 8224, F, "PCI_XL_SUBMIT"⟩
  | .PCI_XL_ABORT => ⟨0x2F00, 0x05, 1, 1, .uns32, .wo, T, F, F, F, 0x0, 0, F, "PCI_XL_ABORT"⟩
  | .PCI_XL_ACTIVE => ⟨0x2F00, 0x06, 1, 1, .uns8, .ro, F, F, F, F, 0x0, 0, F, "PCI_XL_ACTIVE"⟩
  | .PCI_XL_FAULT => ⟨0x2F00, 0x07, 1, 1, .uns64, .ro, F, F, F, F, 0x0, 0, F, "PCI_XL_FAULT"⟩
  | .PCI_ARCH_MIB => ⟨0x2F00, 0x08, 1, 1, .uns16, .rw, F, T, F, F, 0x0, 0, F, "PCI_ARCH_MIB"⟩
  | .PCI_ARCH_STATUS => ⟨0x2F00, 0x09, 1, 1, .domain, .ro, F, F, F, F, 0x0, 16, T, "PCI_ARCH_STATUS"⟩
  | .SAF_EVENTS => ⟨0x3000, 0x01, 1, 1, .uns32, .ro, F, F, F, F, 0x0, 0, F, "SAF_EVENTS"⟩
  | .SAF_EVENT_ACK => ⟨0x3000, 0x02, 1, 1, .uns32, .wo, T, F, F, F, 0x0, 0, F, "SAF_EVENT_ACK"⟩
  | .SAF_SAFE_EVENT => ⟨0x3000, 0x03, 1, 1, .uns8, .ro, F, F, F, F, 0x0, 0, F, "SAF_SAFE_EVENT"⟩
  | .SAF_LOST_US => ⟨0x3000, 0x04, 1, 1, .uns64, .ro, F, F, F, T, 0x0, 0, F, "SAF_LOST_US"⟩
  | .SAF_LINE_RUN_CH => ⟨0x3000, 0x05, 1, 1, .uns8, .rw, F, F, F, F, 0xFF, 0, F, "SAF_LINE_RUN_CH"⟩
  | .SAF_RINSE_LIMIT => ⟨0x3000, 0x06, 1, 1, .uns16, .rw, F, T, F, F, 0x64, 0, F, "SAF_RINSE_LIMIT"⟩
  | .SAF_DARN_TRIES => ⟨0x3000, 0x07, 1, 1, .uns8, .rw, F, F, F, F, 0x2, 0, F, "SAF_DARN_TRIES"⟩
  | .SAF_UNIT_ERR_LIMIT => ⟨0x3000, 0x08, 1, 1, .uns8, .rw, F, F, F, F, 0x2, 0, F, "SAF_UNIT_ERR_LIMIT"⟩
  | .SAF_UNIT_ERR_WINDOW => ⟨0x3000, 0x09, 1, 1, .uns32, .rw, F, F, F, F, 0xE10, 0, F, "SAF_UNIT_ERR_WINDOW"⟩
  | .SAF_SWATH_WD_US => ⟨0x3000, 0x0A, 1, 1, .uns32, .rw, F, F, F, F, 0xA, 0, F, "SAF_SWATH_WD_US"⟩
  | .SAF_RINSE_STATUS => ⟨0x3000, 0x0B, 1, 1, .domain, .ro, F, F, F, F, 0x0, 600, T, "SAF_RINSE_STATUS"⟩
  | .SAF_LAST_ERR => ⟨0x3000, 0x0C, 1, 1, .domain, .ro, F, F, F, F, 0x0, 32, T, "SAF_LAST_ERR"⟩
  | .SAF_ACTION => ⟨0x3010, 0x01, 1, 12, .uns8, .rw, F, F, F, F, 0x0, 0, F, "SAF_ACTION"⟩
  | .REC_VERDICT_COUNT => ⟨0x3100, 0x01, 1, 1, .uns64, .ro, F, F, F, F, 0x0, 0, F, "REC_VERDICT_COUNT"⟩
  | .REC_VERDICT_RING => ⟨0x3100, 0x02, 1, 1, .domain, .ro, F, F, F, F, 0x0, 1048576, F, "REC_VERDICT_RING"⟩
  | .REC_RESULT_COUNT => ⟨0x3100, 0x03, 1, 1, .uns64, .ro, F, F, F, F, 0x0, 0, F, "REC_RESULT_COUNT"⟩
  | .REC_RESULT_RING => ⟨0x3100, 0x04, 1, 1, .domain, .ro, F, F, F, F, 0x0, 1048576, F, "REC_RESULT_RING"⟩
  | .REC_PORT_SEQ => ⟨0x3110, 0x01, 12, 1, .uns32, .ro, F, F, F, F, 0x0, 0, F, "REC_PORT_SEQ"⟩
  | .BOOT_FW_VERSION => ⟨0x2000, 0x01, 1, 1, .uns32, .ro, F, F, F, F, 0x0, 0, F, "BOOT_FW_VERSION"⟩
  | .BOOT_ROM_VERSION => ⟨0x2000, 0x02, 1, 1, .uns16, .ro, F, F, F, F, 0x0, 0, F, "BOOT_ROM_VERSION"⟩
  | .BOOT_COUNT => ⟨0x2000, 0x03, 1, 1, .uns64, .ro, F, F, F, F, 0x0, 0, F, "BOOT_COUNT"⟩
  | .BOOT_CAUSE => ⟨0x2000, 0x04, 1, 1, .uns8, .ro, F, F, F, F, 0x0, 0, F, "BOOT_CAUSE"⟩
  | .BOOT_LEDGER => ⟨0x2000, 0x05, 1, 1, .domain, .ro, F, F, F, F, 0x0, 16777216, F, "BOOT_LEDGER"⟩
  | .BOOT_FW_IMAGE => ⟨0x2000, 0x06, 1, 1, .domain, .wo, T, F, F, F, 0x0, 25165824, F, "BOOT_FW_IMAGE"⟩
  | .BOOT_FW_INSTALL => ⟨0x2000, 0x07, 1, 1, .uns8, .wo, T, F, F, F, 0x0, 0, F, "BOOT_FW_INSTALL"⟩
  | .BOOT_FW_STATUS => ⟨0x2000, 0x08, 1, 1, .uns8, .ro, F, F, F, F, 0x0, 0, F, "BOOT_FW_STATUS"⟩
  | .BOOT_FW_STAGED => ⟨0x2000, 0x09, 1, 1, .uns32, .ro, F, F, F, F, 0x0, 0, F, "BOOT_FW_STAGED"⟩
  | .BOOT_FW_CTR => ⟨0x2000, 0x0A, 1, 1, .uns8, .ro, F, F, F, F, 0x0, 0, F, "BOOT_FW_CTR"⟩
  | .BOOT_RP_CTR => ⟨0x2000, 0x0B, 1, 1, .uns8, .ro, F, F, F, F, 0x0, 0, F, "BOOT_RP_CTR"⟩
  | .BOOT_RB_ADVANCE => ⟨0x2000, 0x0C, 1, 1, .domain, .wo, T, T, F, F, 0x0, 2, T, "BOOT_RB_ADVANCE"⟩
  | .BOOT_OWNER_KEY => ⟨0x2000, 0x0D, 1, 1, .domain, .wo, T, T, F, F, 0x0, 68, T, "BOOT_OWNER_KEY"⟩
  | .BOOT_REVOKE => ⟨0x2000, 0x0E, 1, 1, .uns8, .wo, T, T, F, F, 0x0, 0, F, "BOOT_REVOKE"⟩
  | .BOOT_KEY_STATE => ⟨0x2000, 0x0F, 1, 1, .uns16, .ro, F, F, F, F, 0x0, 0, F, "BOOT_KEY_STATE"⟩
  | .BOOT_ATTEST_NONCE => ⟨0x2000, 0x10, 1, 1, .domain, .wo, T, F, F, F, 0x0, 32, T, "BOOT_ATTEST_NONCE"⟩
  | .BOOT_ATTEST_REPORT => ⟨0x2000, 0x11, 1, 1, .domain, .ro, F, F, F, F, 0x0, 16777216, F, "BOOT_ATTEST_REPORT"⟩
  | .BOOT_DEV_CERT => ⟨0x2000, 0x12, 1, 1, .domain, .ro, F, F, F, F, 0x0, 16777216, F, "BOOT_DEV_CERT"⟩
  | .BOOT_PKG_STORE => ⟨0x2000, 0x13, 1, 1, .uns8, .wo, T, T, F, F, 0x0, 0, F, "BOOT_PKG_STORE"⟩
  | .BOOT_PKG_UNSTORE => ⟨0x2000, 0x14, 1, 1, .uns8, .wo, T, T, F, F, 0x0, 0, F, "BOOT_PKG_UNSTORE"⟩
  | .BOOT_PKG_STORED => ⟨0x2000, 0x15, 1, 1, .uns32, .ro, F, F, F, F, 0x0, 0, F, "BOOT_PKG_STORED"⟩
  | .BOOT_STORE_FREE => ⟨0x2000, 0x16, 1, 1, .uns32, .ro, F, F, F, F, 0x26F0000, 0, F, "BOOT_STORE_FREE"⟩
  | .BOOT_FUSES => ⟨0x2000, 0x17, 1, 1, .domain, .ro, F, F, F, F, 0x0, 1024, T, "BOOT_FUSES"⟩
  | .CLK_ROOT_LOCK => ⟨0x2100, 0x01, 1, 1, .boolean, .ro, F, F, F, F, 0x1, 0, F, "CLK_ROOT_LOCK"⟩
  | .CLK_REFCLK_SSC => ⟨0x2100, 0x02, 1, 1, .boolean, .rw, F, T, F, T, 0x0, 0, F, "CLK_REFCLK_SSC"⟩
  | .THERM_TJ_MAX => ⟨0x2100, 0x03, 1, 1, .int16, .ro, F, F, F, F, 0x0, 0, F, "THERM_TJ_MAX"⟩
  | .THERM_SENSORS => ⟨0x2100, 0x04, 1, 1, .domain, .ro, F, F, F, F, 0x0, 68, T, "THERM_SENSORS"⟩
  | .THERM_THROTTLE => ⟨0x2100, 0x05, 1, 1, .int16, .rw, T, F, F, F, 0x3E8, 0, F, "THERM_THROTTLE"⟩
  | .THERM_SLOPE => ⟨0x2100, 0x06, 1, 1, .uns16, .rw, T, F, F, F, 0xC8, 0, F, "THERM_SLOPE"⟩
  | .THERM_ADMIT_LIMIT => ⟨0x2100, 0x07, 1, 1, .uns16, .ro, F, F, F, F, 0x1068, 0, F, "THERM_ADMIT_LIMIT"⟩
  | .PWR_BASE_FUSED => ⟨0x2100, 0x08, 1, 1, .uns16, .ro, F, F, F, F, 0x0, 0, F, "PWR_BASE_FUSED"⟩
  | .PWR_MEASURED => ⟨0x2100, 0x09, 1, 1, .uns16, .ro, F, F, F, F, 0x0, 0, F, "PWR_MEASURED"⟩
  | .PWR_RAIL => ⟨0x2100, 0x0A, 1, 1, .domain, .ro, F, F, F, F, 0x0, 48, T, "PWR_RAIL"⟩
  | .SUP_STATUS => ⟨0x2100, 0x0B, 1, 1, .uns32, .ro, F, F, F, F, 0x0, 0, F, "SUP_STATUS"⟩

/-- One row of the lint tables: first index, instances, the subindex that reads and the one that reads and clears. -/
structure LintRow where
  index : Nat
  insts : Nat
  rd : Nat
  rc : Nat
  name : String
deriving DecidableEq, Repr

/-- The row of a lint counter (R594). -/
def Lint.row : Lint → LintRow
  | .OD_CHECK => ⟨0x1100, 1, 0x20, 0x30, "LINT_OD_CHECK"⟩
  | .OD_AUTH => ⟨0x1100, 1, 0x21, 0x31, "LINT_OD_AUTH"⟩
  | .OD_STALE => ⟨0x1100, 1, 0x22, 0x32, "LINT_OD_STALE"⟩
  | .OD_BUSY => ⟨0x1100, 1, 0x23, 0x33, "LINT_OD_BUSY"⟩
  | .OD_TIMEOUT => ⟨0x1100, 1, 0x24, 0x34, "LINT_OD_TIMEOUT"⟩
  | .CYC_RX_DROP => ⟨0x1600, 1, 0x20, 0x30, "LINT_CYC_RX_DROP"⟩
  | .CYC_RX_REJECT => ⟨0x1600, 1, 0x21, 0x31, "LINT_CYC_RX_REJECT"⟩
  | .CYC_WD => ⟨0x1600, 1, 0x22, 0x32, "LINT_CYC_WD"⟩
  | .BOOT_FW_REJECT => ⟨0x2000, 1, 0x20, 0x30, "LINT_BOOT_FW_REJECT"⟩
  | .BOOT_PKG_DROP => ⟨0x2000, 1, 0x21, 0x31, "LINT_BOOT_PKG_DROP"⟩
  | .BOOT_FLASH_ERR => ⟨0x2000, 1, 0x22, 0x32, "LINT_BOOT_FLASH_ERR"⟩
  | .BOOT_FUSE_CE => ⟨0x2000, 1, 0x23, 0x33, "LINT_BOOT_FUSE_CE"⟩
  | .SUP_GLITCH => ⟨0x2100, 1, 0x20, 0x30, "LINT_SUP_GLITCH"⟩
  | .THERM_LIMIT => ⟨0x2100, 1, 0x21, 0x31, "LINT_THERM_LIMIT"⟩
  | .CAM_CRC => ⟨0x2210, 12, 0x20, 0x28, "LINT_CAM_CRC"⟩
  | .CAM_MISSING => ⟨0x2210, 12, 0x21, 0x29, "LINT_CAM_MISSING"⟩
  | .CAM_LATE => ⟨0x2210, 12, 0x22, 0x2A, "LINT_CAM_LATE"⟩
  | .CAM_LENGTH => ⟨0x2210, 12, 0x23, 0x2B, "LINT_CAM_LENGTH"⟩
  | .CAM_COUNTER => ⟨0x2210, 12, 0x24, 0x2C, "LINT_CAM_COUNTER"⟩
  | .CAM_OVERRUN => ⟨0x2210, 12, 0x25, 0x2D, "LINT_CAM_OVERRUN"⟩
  | .CAM_TESTPAT => ⟨0x2210, 12, 0x26, 0x2E, "LINT_CAM_TESTPAT"⟩
  | .ROI_OVF => ⟨0x2310, 12, 0x30, 0x38, "LINT_ROI_OVF"⟩
  | .ROI_FALLBACK => ⟨0x2310, 12, 0x31, 0x39, "LINT_ROI_FALLBACK"⟩
  | .SHELL_CHECK => ⟨0x2410, 6, 0x20, 0x28, "LINT_SHELL_CHECK"⟩
  | .SHELL_FOOT => ⟨0x2410, 6, 0x21, 0x29, "LINT_SHELL_FOOT"⟩
  | .SHELL_READOUT => ⟨0x2410, 6, 0x22, 0x2A, "LINT_SHELL_READOUT"⟩
  | .SHELL_TAG => ⟨0x2410, 6, 0x23, 0x2B, "LINT_SHELL_TAG"⟩
  | .SCULL_CHECK => ⟨0x2410, 6, 0x24, 0x2C, "LINT_SCULL_CHECK"⟩
  | .SHELL_PATCH => ⟨0x2410, 6, 0x25, 0x2D, "LINT_SHELL_PATCH"⟩
  | .SCR_CE => ⟨0x2500, 1, 0x20, 0x30, "LINT_SCR_CE"⟩
  | .SCR_UE => ⟨0x2500, 1, 0x21, 0x31, "LINT_SCR_UE"⟩
  | .LS_CE => ⟨0x2500, 1, 0x22, 0x32, "LINT_LS_CE"⟩
  | .LS_UE => ⟨0x2500, 1, 0x23, 0x33, "LINT_LS_UE"⟩
  | .CMN_CE => ⟨0x2500, 1, 0x24, 0x34, "LINT_CMN_CE"⟩
  | .CMN_UE => ⟨0x2500, 1, 0x25, 0x35, "LINT_CMN_UE"⟩
  | .OARMEM_CE => ⟨0x2500, 1, 0x26, 0x36, "LINT_OARMEM_CE"⟩
  | .OARMEM_UE => ⟨0x2500, 1, 0x27, 0x37, "LINT_OARMEM_UE"⟩
  | .LPDDR_CE => ⟨0x2500, 1, 0x28, 0x38, "LINT_LPDDR_CE"⟩
  | .LPDDR_UE => ⟨0x2500, 1, 0x29, 0x39, "LINT_LPDDR_UE"⟩
  | .LS_HOLD => ⟨0x2500, 1, 0x2A, 0x3A, "LINT_LS_HOLD"⟩
  | .SAVE_CHECK => ⟨0x2500, 1, 0x2B, 0x3B, "LINT_SAVE_CHECK"⟩
  | .COX_LATE => ⟨0x2600, 1, 0x20, 0x30, "LINT_COX_LATE"⟩
  | .COX_PREEMPT => ⟨0x2600, 1, 0x21, 0x31, "LINT_COX_PREEMPT"⟩
  | .COX_POWER_HOLD => ⟨0x2600, 1, 0x22, 0x32, "LINT_COX_POWER_HOLD"⟩
  | .COX_REG_HOLD => ⟨0x2600, 1, 0x23, 0x33, "LINT_COX_REG_HOLD"⟩
  | .COX_SETTLE => ⟨0x2600, 1, 0x24, 0x34, "LINT_COX_SETTLE"⟩
  | .COX_QUEUE_FULL => ⟨0x2600, 1, 0x25, 0x35, "LINT_COX_QUEUE_FULL"⟩
  | .RP_REFUSED => ⟨0x2600, 1, 0x26, 0x36, "LINT_RP_REFUSED"⟩
  | .OAR_FAULT => ⟨0x2700, 1, 0x20, 0x30, "LINT_OAR_FAULT"⟩
  | .OAR_BUDGET => ⟨0x2700, 1, 0x21, 0x31, "LINT_OAR_BUDGET"⟩
  | .OAR_KFAIL => ⟨0x2700, 1, 0x22, 0x32, "LINT_OAR_KFAIL"⟩
  | .OAR_PATCH => ⟨0x2700, 1, 0x23, 0x33, "LINT_OAR_PATCH"⟩
  | .PRESS_NAN => ⟨0x2700, 1, 0x24, 0x34, "LINT_PRESS_NAN"⟩
  | .CROP_EMPTY => ⟨0x2700, 1, 0x25, 0x35, "LINT_CROP_EMPTY"⟩
  | .KV_QUEUE_FULL => ⟨0x2800, 1, 0x20, 0x30, "LINT_KV_QUEUE_FULL"⟩
  | .KV_LATE => ⟨0x2800, 1, 0x21, 0x31, "LINT_KV_LATE"⟩
  | .KV_EVICT => ⟨0x2800, 1, 0x22, 0x32, "LINT_KV_EVICT"⟩
  | .KV_TREE_RECLAIM => ⟨0x2800, 1, 0x23, 0x33, "LINT_KV_TREE_RECLAIM"⟩
  | .KV_TREE_FULL => ⟨0x2800, 1, 0x24, 0x34, "LINT_KV_TREE_FULL"⟩
  | .KV_HASH_COLL => ⟨0x2800, 1, 0x25, 0x35, "LINT_KV_HASH_COLL"⟩
  | .KV_COW => ⟨0x2800, 1, 0x26, 0x36, "LINT_KV_COW"⟩
  | .KV_STEP_LATE => ⟨0x2800, 1, 0x27, 0x37, "LINT_KV_STEP_LATE"⟩
  | .KV_DEFER => ⟨0x2800, 1, 0x28, 0x38, "LINT_KV_DEFER"⟩
  | .SWEEP_CHECK => ⟨0x2800, 1, 0x29, 0x39, "LINT_SWEEP_CHECK"⟩
  | .DET_REPLAY => ⟨0x2900, 1, 0x20, 0x30, "LINT_DET_REPLAY"⟩
  | .SQD_SEAT_LOST => ⟨0x2A00, 1, 0x20, 0x30, "LINT_SQD_SEAT_LOST"⟩
  | .SQD_ROUTE_CHANGE => ⟨0x2A00, 1, 0x21, 0x31, "LINT_SQD_ROUTE_CHANGE"⟩
  | .NL_BLOCK => ⟨0x2A10, 8, 0x20, 0x28, "LINT_NL_BLOCK"⟩
  | .NL_CRC => ⟨0x2A10, 8, 0x21, 0x29, "LINT_NL_CRC"⟩
  | .NL_DUP => ⟨0x2A10, 8, 0x22, 0x2A, "LINT_NL_DUP"⟩
  | .NL_RXFULL => ⟨0x2A10, 8, 0x23, 0x2B, "LINT_NL_RXFULL"⟩
  | .NL_REPLAY => ⟨0x2A10, 8, 0x24, 0x2C, "LINT_NL_REPLAY"⟩
  | .NL_RETRAIN => ⟨0x2A10, 8, 0x25, 0x2D, "LINT_NL_RETRAIN"⟩
  | .NL_DOWN => ⟨0x2A10, 8, 0x26, 0x2E, "LINT_NL_DOWN"⟩
  | .NL_TIME_DROP => ⟨0x2A10, 8, 0x27, 0x2F, "LINT_NL_TIME_DROP"⟩
  | .RT_CORRUPT => ⟨0x2B00, 1, 0x20, 0x30, "LINT_RT_CORRUPT"⟩
  | .RT_OVER_WORK => ⟨0x2B00, 1, 0x21, 0x31, "LINT_RT_OVER_WORK"⟩
  | .RT_STALL => ⟨0x2B00, 1, 0x22, 0x32, "LINT_RT_STALL"⟩
  | .RT_PUBLISH_HOLD => ⟨0x2B00, 1, 0x23, 0x33, "LINT_RT_PUBLISH_HOLD"⟩
  | .FIO_OVERLOAD => ⟨0x2C00, 1, 0x20, 0x30, "LINT_FIO_OVERLOAD"⟩
  | .FIO_OVERTEMP => ⟨0x2C00, 1, 0x21, 0x31, "LINT_FIO_OVERTEMP"⟩
  | .FIO_LIMIT => ⟨0x2C00, 1, 0x22, 0x32, "LINT_FIO_LIMIT"⟩
  | .FIO_OPEN => ⟨0x2C00, 1, 0x23, 0x33, "LINT_FIO_OPEN"⟩
  | .FIO_SUPPLY => ⟨0x2C00, 1, 0x24, 0x34, "LINT_FIO_SUPPLY"⟩
  | .ENC_FAULT => ⟨0x2D00, 1, 0x20, 0x30, "LINT_ENC_FAULT"⟩
  | .TRG_MISSED => ⟨0x2D00, 1, 0x21, 0x31, "LINT_TRG_MISSED"⟩
  | .FIRE_LATE => ⟨0x2D00, 1, 0x22, 0x32, "LINT_FIRE_LATE"⟩
  | .FIRE_FALLBACK => ⟨0x2D00, 1, 0x23, 0x33, "LINT_FIRE_FALLBACK"⟩
  | .FIRE_OVF => ⟨0x2D00, 1, 0x24, 0x34, "LINT_FIRE_OVF"⟩
  | .FIRE_CLEARED => ⟨0x2D00, 1, 0x25, 0x35, "LINT_FIRE_CLEARED"⟩
  | .FIRE_FAULT => ⟨0x2D00, 1, 0x26, 0x36, "LINT_FIRE_FAULT"⟩
  | .FIRE_AFTER => ⟨0x2D00, 1, 0x27, 0x37, "LINT_FIRE_AFTER"⟩
  | .TS_STEP => ⟨0x2E00, 1, 0x20, 0x30, "LINT_TS_STEP"⟩
  | .TS_UNLOCK => ⟨0x2E00, 1, 0x21, 0x31, "LINT_TS_UNLOCK"⟩
  | .PTP_DISCARD => ⟨0x2E00, 1, 0x22, 0x32, "LINT_PTP_DISCARD"⟩
  | .FNET_FCS => ⟨0x2E10, 2, 0x20, 0x28, "LINT_FNET_FCS"⟩
  | .FNET_DROP => ⟨0x2E10, 2, 0x21, 0x29, "LINT_FNET_DROP"⟩
  | .FNET_RXFULL => ⟨0x2E10, 2, 0x22, 0x2A, "LINT_FNET_RXFULL"⟩
  | .FNET_QBV_DROP => ⟨0x2E10, 2, 0x23, 0x2B, "LINT_FNET_QBV_DROP"⟩
  | .TS_TXQ_OVF => ⟨0x2E10, 2, 0x24, 0x2C, "LINT_TS_TXQ_OVF"⟩
  | .PCI_BULK_REFUSED => ⟨0x2F00, 1, 0x20, 0x30, "LINT_PCI_BULK_REFUSED"⟩
  | .PCI_DMA_ERR => ⟨0x2F00, 1, 0x21, 0x31, "LINT_PCI_DMA_ERR"⟩
  | .PCI_GO_BUSY => ⟨0x2F00, 1, 0x22, 0x32, "LINT_PCI_GO_BUSY"⟩
  | .PCI_ARCH_OVWR => ⟨0x2F00, 1, 0x23, 0x33, "LINT_PCI_ARCH_OVWR"⟩
  | .PCI_ARCH_NOCROP => ⟨0x2F00, 1, 0x24, 0x34, "LINT_PCI_ARCH_NOCROP"⟩
  | .PCI_XL_ABORT => ⟨0x2F00, 1, 0x25, 0x35, "LINT_PCI_XL_ABORT"⟩
  | .SAF_DARN => ⟨0x3000, 1, 0x20, 0x30, "LINT_SAF_DARN"⟩
  | .SAF_INVALID => ⟨0x3000, 1, 0x21, 0x31, "LINT_SAF_INVALID"⟩
  | .SAF_OOS => ⟨0x3000, 1, 0x22, 0x32, "LINT_SAF_OOS"⟩
  | .SAF_OVERTIME => ⟨0x3000, 1, 0x23, 0x33, "LINT_SAF_OVERTIME"⟩
  | .SAF_TIMING => ⟨0x3000, 1, 0x24, 0x34, "LINT_SAF_TIMING"⟩
  | .SAF_SWATH_WD => ⟨0x3000, 1, 0x25, 0x35, "LINT_SAF_SWATH_WD"⟩
  | .SAF_RINSE_FAIL => ⟨0x3000, 1, 0x26, 0x36, "LINT_SAF_RINSE_FAIL"⟩
  | .SAF_RINSE_DEFER => ⟨0x3000, 1, 0x27, 0x37, "LINT_SAF_RINSE_DEFER"⟩
  | .SAF_RINSE_OVERDUE => ⟨0x3000, 1, 0x28, 0x38, "LINT_SAF_RINSE_OVERDUE"⟩
  | .SAF_SWATCH_FAIL => ⟨0x3000, 1, 0x29, 0x39, "LINT_SAF_SWATCH_FAIL"⟩
  | .SAF_SWATCH_MISSED => ⟨0x3000, 1, 0x2A, 0x3A, "LINT_SAF_SWATCH_MISSED"⟩
  | .REC_BAD_OUTPUT => ⟨0x3100, 1, 0x20, 0x30, "LINT_REC_BAD_OUTPUT"⟩

/-- The entries in the order of the chapters, part 0. -/
def entTable0 : List Ent :=
  [.DEV_STATE, .DEV_COMMAND, .DEV_SAFE_CAUSE, .DEV_ARM_FAULT, .CAM_ENABLE, .CAM_PACKING,
   .CAM_EDGE, .CAM_LINE_WIDTH, .CAM_SWATH_LINES, .CAM_OVERLAP, .CAM_TRIG_SRC, .CAM_ENC_SRC,
   .CAM_TRIG_WIDTH, .CAM_TRIG_POL, .CAM_LATE_LIMIT, .CAM_FILL, .CAM_TP_ENABLE, .CAM_TP_BITS,
   .CAM_TP_BITS_RC, .CAM_KEEP_RAW, .CAM_SWATH_BUFS, .CAM_SPOIL_MASK, .CAM_LAST_SWATH, .CAM_RECORD,
   .CAM_STATUS, .MGL_MOS_SIZE, .MGL_MOS_SITES, .MGL_MOS_ROW_OFS, .MGL_MOS_COL_OFS, .MGL_BLACK,
   .MGL_IR_ENABLE, .MGL_IR_M, .MGL_PLANES, .MGL_OUT_FMT, .MGL_HIST_WIN, .MGL_ZONES,
   .ROI_ENABLE, .ROI_MARGIN, .ROI_FALLBACK, .MGL_STATS]

/-- The entries in the order of the chapters, part 1. -/
def entTable1 : List Ent :=
  [.CREW_COUNT, .CREW_SERVICE_MASK, .CREW_MIN_SHELLS, .CREW_IN_SERVICE, .CREW_SHELLS_ACTIVE, .CREW_PATCH_FREE,
   .SHELL_MAP, .SHELL_OOS_LO, .SHELL_OOS_HI, .SHELL_FORCE_LO, .SHELL_FORCE_HI, .SCULL_IN_SERVICE,
   .SCULL_FORCE, .CREW_FORCE, .CREW_PASSES, .MEM_LPDDR_SIZE, .MEM_LS_FREE, .MEM_CMN_PLAN,
   .MEM_SAVE_SLOTS, .MEM_SAVE_RESERVED, .ROTA_PERIODS, .ROTA_TABLE, .MEM_SCRUB_PERIOD, .MEM_LAST_ERR,
   .COX_HEATS, .COX_QUEUE_LEN, .COX_NEXT_SERIAL, .COX_SWATCH_EVERY, .COX_SWATCH_LEN, .COX_RINSE_EVERY,
   .COX_RINSE_LEN, .COX_RINSE_PHASE, .PWR_LIMIT, .PWR_P0_RESERVE, .PWR_BASE, .PWR_ADMITTED,
   .COX_SETTLING, .COX_SETTLE_LAST, .COX_HEAT_TABLE, .RP_LOAD]

/-- The entries in the order of the chapters, part 2. -/
def entTable2 : List Ent :=
  [.RP_LAST_SLOT, .RP_LAST_FAULT, .RP_UNLOAD, .COX_BG_REQUEST, .PART_ENABLE, .PART_CREW_MASK,
   .PART_LEND_MASK, .PART_CAM_MASK, .PART_SCR_QUOTA, .PART_MEM_QUOTA, .PART_RATE, .PART_DEPTH,
   .PART_HEATS, .PART_SCR_HELD, .PART_TOKENS, .RP_STATE, .RP_DIGEST, .RP_PARTITION,
   .RP_PLANS, .OAR_COUNT, .OAR_INVOCATIONS, .OAR_LAST_FAULT, .PRESS_BLOCKS, .CROP_SLOTS,
   .OAR_ACTIVE, .OAR_PATCH_FREE, .OAR_MAP, .OAR_OOS, .OAR_FORCE, .SL_ENABLE,
   .KV_POOL_PAGES, .KV_FREE, .KV_RESERVED, .KV_AVAIL, .KV_LOW_WATER, .KV_RUNNING,
   .KV_QUEUED, .KV_STEP, .KV_STEP_PERIODS, .KV_TREE_NODES]

/-- The entries in the order of the chapters, part 3. -/
def entTable3 : List Ent :=
  [.KV_SEQ_TABLE, .KV_QUEUE, .KV_CANCEL, .KV_TREE_FLUSH, .KV_EVICT_LOG, .DET_GEN_VERSION,
   .DET_PATCH_EPOCH, .DET_PATCH_JOURNAL, .DET_GEN_IN, .DET_GEN_OUT, .DET_CFG_CRC, .DET_RUN_SEED,
   .DET_REPLAY_ENABLE, .DET_REPLAY_SWATH, .DET_REPLAY_SEQ, .DET_REPLAY_STATE, .DET_TAP_TENSOR, .DET_TAP_DATA,
   .DET_REPLAYS, .SQD_ENABLE, .SQD_SEAT, .SQD_SIZE, .SQD_SHAPE, .SQD_STATE,
   .SQD_STROKE_SEAT, .SQD_MEMBERS, .SQD_VERSION, .SQD_EPOCH, .SQD_FORM_FAULT, .SQD_FORM_TIMEOUT,
   .SQD_PART_MASK, .SQD_LOSS_ACTION, .SQD_HEARTBEAT_US, .SQD_LEAD_US, .SQD_TIME_SOURCE, .SQD_TIME_INTERVAL_US,
   .SQD_ROUTES, .SQD_TOPOLOGY, .SQD_LOAD_SEAT, .SQD_CMD_FAULT_SEAT]

/-- The entries in the order of the chapters, part 4. -/
def entTable4 : List Ent :=
  [.NL_ENABLE, .NL_CLK_MODE, .NL_STATE, .NL_FAIL_CAUSE, .NL_PEER, .NL_PEER_ID,
   .NL_VERSION, .NL_LANE_MAP, .NL_TAPS, .NL_FOM, .NL_FOM_MIN, .NL_EASY_IDLE,
   .NL_POWER_CMD, .NL_REPLAY_TIMEOUT, .NL_REPLAY_LIMIT, .NL_TIME_ASYM, .NL_DELAY, .NL_OFFSET,
   .NL_TEST_MODE, .NL_PATTERN, .NL_USER_PATTERN, .NL_INJECT, .NL_INJECT_PERIOD, .NL_INJECTED,
   .NL_CHK_ERRORS, .NL_CHK_BITS, .RT_ENABLE, .RT_KEEP_SHORT, .RT_RUNAHEAD, .RT_PUBLISH_EVERY,
   .RT_ADD, .RT_LAST_INDEX, .RT_REMOVE, .RT_SAMPLES, .RT_BAD_SET, .RT_EPOCH,
   .RT_STEP, .RT_READY, .RT_GENERATION, .RT_PUBLISH]

/-- The entries in the order of the chapters, part 5. -/
def entTable5 : List Ent :=
  [.RT_RESTART, .RT_EXPORT, .FIO_IN, .FIO_OUT, .FIO_FORCE_OFF, .FIO_COMMON_FAULT,
   .FIO_SUPPLY_MV, .FIO_RETRY, .FIO_MODE, .FIO_FILT, .FIO_DIAG, .FIO_TRIG_SLOT,
   .FIO_STATUS, .FIO_ACK, .FIRE_PENDING, .FIRE_STOP_CH, .FIRE_STOP_LATCHED, .FIRE_STOP_ACK,
   .ENC_ENABLE, .ENC_MODE, .ENC_INVERT, .ENC_FILT, .ENC_TOOTH_N, .ENC_Z_USED,
   .ENC_PRESET, .ENC_REF_PERIOD, .ENC_REF_TOL, .ENC_POS, .ENC_REF_POS, .ENC_REF_CNT,
   .ENC_STATUS, .ENC_ACK, .DIV_ENABLE, .DIV_SRC, .DIV_N, .DIV_M,
   .DIV_OUT_MODE, .DIV_WIDTH, .TRG_ENABLE, .TRG_SRC]

/-- The entries in the order of the chapters, part 6. -/
def entTable6 : List Ent :=
  [.TRG_CHANNEL, .TRG_START, .TRG_PERIOD, .TRG_WIDTH, .TRG_WIDTH_CNT, .FIRE_ENABLE,
   .FIRE_AGE_LIMIT, .FIRE_FB_UNDECIDED, .FIRE_FB_LATE, .FIRE_FB_INVALID, .FIRE_LAST, .TS_TIME,
   .TS_MONO, .TS_SOURCE, .TS_STATE, .TS_SET, .TS_KP, .TS_KI,
   .TS_FREQ_MAX, .TS_STEP_NS, .TS_STEP_RUN, .TS_LOCK_NS, .TS_HOLDOVER_MS, .TS_OFFSET,
   .TS_RATE, .TS_UTC_OFFSET, .PTP_DOMAIN, .PTP_PRIORITY1, .PTP_PRIORITY2, .PTP_CLOCK_ID,
   .PTP_GM_ID, .PTP_EXT_CFG, .FNET_ENABLE, .FNET_MODE, .FNET_STATUS, .FNET_MAC,
   .FNET_IPV4, .FNET_NETMASK, .FNET_VID, .FNET_PCP_CYC]

/-- The entries in the order of the chapters, part 7. -/
def entTable7 : List Ent :=
  [.FNET_PCP_OD, .FNET_TX_LAT, .FNET_RX_LAT, .PTP_ENABLE, .PTP_ASYM, .PTP_LOG_SYNC,
   .PTP_LOG_PDELAY, .PTP_PORT_STATE, .PTP_PORT_CFG, .PTP_LINK_DELAY, .PTP_NRR, .PTP_AS_CAPABLE,
   .TS_TXQ, .QBV_ENABLE, .QBV_BASE, .QBV_CYCLE_NS, .QBV_LIST, .QBV_LEN,
   .QBV_OPER_BASE, .ID_VENDOR, .ID_PRODUCT, .ID_PART, .ID_DEVICE, .ID_MAC_BASE,
   .ID_GEN, .ID_STEPPING, .ID_CREW_FUSED, .ID_OD_VERSION, .OD_SESSION_TIMEOUT, .OD_WINDOW,
   .OD_MAX_OUTSTANDING, .OD_MAX_DATA, .OD_CONTROL, .OD_PROTO_MAX, .OD_SESSIONS, .CYC_ENABLE,
   .CYC_PORT, .CYC_PEER_MAC, .CYC_BASE, .CYC_PERIOD_NS]

/-- The entries in the order of the chapters, part 8. -/
def entTable8 : List Ent :=
  [.CYC_TX_OFS_NS, .CYC_WD_CYCLES, .CYC_WD_ACTION, .CYC_TX_LEN, .CYC_RX_LEN, .CYC_RX_LAST,
   .CYC_TX_MAP, .CYC_RX_MAP, .PCI_LINK, .PCI_BULK_PART, .PCI_RESP_IRQ, .PCI_XL_SUBMIT,
   .PCI_XL_ABORT, .PCI_XL_ACTIVE, .PCI_XL_FAULT, .PCI_ARCH_MIB, .PCI_ARCH_STATUS, .SAF_EVENTS,
   .SAF_EVENT_ACK, .SAF_SAFE_EVENT, .SAF_LOST_US, .SAF_LINE_RUN_CH, .SAF_RINSE_LIMIT, .SAF_DARN_TRIES,
   .SAF_UNIT_ERR_LIMIT, .SAF_UNIT_ERR_WINDOW, .SAF_SWATH_WD_US, .SAF_RINSE_STATUS, .SAF_LAST_ERR, .SAF_ACTION,
   .REC_VERDICT_COUNT, .REC_VERDICT_RING, .REC_RESULT_COUNT, .REC_RESULT_RING, .REC_PORT_SEQ, .BOOT_FW_VERSION,
   .BOOT_ROM_VERSION, .BOOT_COUNT, .BOOT_CAUSE, .BOOT_LEDGER]

/-- The entries in the order of the chapters, part 9. -/
def entTable9 : List Ent :=
  [.BOOT_FW_IMAGE, .BOOT_FW_INSTALL, .BOOT_FW_STATUS, .BOOT_FW_STAGED, .BOOT_FW_CTR, .BOOT_RP_CTR,
   .BOOT_RB_ADVANCE, .BOOT_OWNER_KEY, .BOOT_REVOKE, .BOOT_KEY_STATE, .BOOT_ATTEST_NONCE, .BOOT_ATTEST_REPORT,
   .BOOT_DEV_CERT, .BOOT_PKG_STORE, .BOOT_PKG_UNSTORE, .BOOT_PKG_STORED, .BOOT_STORE_FREE, .BOOT_FUSES,
   .CLK_ROOT_LOCK, .CLK_REFCLK_SSC, .THERM_TJ_MAX, .THERM_SENSORS, .THERM_THROTTLE, .THERM_SLOPE,
   .THERM_ADMIT_LIMIT, .PWR_BASE_FUSED, .PWR_MEASURED, .PWR_RAIL, .SUP_STATUS]

/-- The entries in the order of the chapters. -/
def entTable : List Ent :=
  entTable0 ++ entTable1 ++ entTable2 ++ entTable3 ++ entTable4 ++ entTable5 ++ entTable6 ++ entTable7 ++ entTable8 ++ entTable9

/-- The lint counters in index order, part 0. -/
def lintTable0 : List Lint :=
  [.OD_CHECK, .OD_AUTH, .OD_STALE, .OD_BUSY, .OD_TIMEOUT, .CYC_RX_DROP,
   .CYC_RX_REJECT, .CYC_WD, .BOOT_FW_REJECT, .BOOT_PKG_DROP, .BOOT_FLASH_ERR, .BOOT_FUSE_CE,
   .SUP_GLITCH, .THERM_LIMIT, .CAM_CRC, .CAM_MISSING, .CAM_LATE, .CAM_LENGTH,
   .CAM_COUNTER, .CAM_OVERRUN, .CAM_TESTPAT, .ROI_OVF, .ROI_FALLBACK, .SHELL_CHECK,
   .SHELL_FOOT, .SHELL_READOUT, .SHELL_TAG, .SCULL_CHECK, .SHELL_PATCH, .SCR_CE,
   .SCR_UE, .LS_CE, .LS_UE, .CMN_CE, .CMN_UE, .OARMEM_CE,
   .OARMEM_UE, .LPDDR_CE, .LPDDR_UE, .LS_HOLD]

/-- The lint counters in index order, part 1. -/
def lintTable1 : List Lint :=
  [.SAVE_CHECK, .COX_LATE, .COX_PREEMPT, .COX_POWER_HOLD, .COX_REG_HOLD, .COX_SETTLE,
   .COX_QUEUE_FULL, .RP_REFUSED, .OAR_FAULT, .OAR_BUDGET, .OAR_KFAIL, .OAR_PATCH,
   .PRESS_NAN, .CROP_EMPTY, .KV_QUEUE_FULL, .KV_LATE, .KV_EVICT, .KV_TREE_RECLAIM,
   .KV_TREE_FULL, .KV_HASH_COLL, .KV_COW, .KV_STEP_LATE, .KV_DEFER, .SWEEP_CHECK,
   .DET_REPLAY, .SQD_SEAT_LOST, .SQD_ROUTE_CHANGE, .NL_BLOCK, .NL_CRC, .NL_DUP,
   .NL_RXFULL, .NL_REPLAY, .NL_RETRAIN, .NL_DOWN, .NL_TIME_DROP, .RT_CORRUPT,
   .RT_OVER_WORK, .RT_STALL, .RT_PUBLISH_HOLD, .FIO_OVERLOAD]

/-- The lint counters in index order, part 2. -/
def lintTable2 : List Lint :=
  [.FIO_OVERTEMP, .FIO_LIMIT, .FIO_OPEN, .FIO_SUPPLY, .ENC_FAULT, .TRG_MISSED,
   .FIRE_LATE, .FIRE_FALLBACK, .FIRE_OVF, .FIRE_CLEARED, .FIRE_FAULT, .FIRE_AFTER,
   .TS_STEP, .TS_UNLOCK, .PTP_DISCARD, .FNET_FCS, .FNET_DROP, .FNET_RXFULL,
   .FNET_QBV_DROP, .TS_TXQ_OVF, .PCI_BULK_REFUSED, .PCI_DMA_ERR, .PCI_GO_BUSY, .PCI_ARCH_OVWR,
   .PCI_ARCH_NOCROP, .PCI_XL_ABORT, .SAF_DARN, .SAF_INVALID, .SAF_OOS, .SAF_OVERTIME,
   .SAF_TIMING, .SAF_SWATH_WD, .SAF_RINSE_FAIL, .SAF_RINSE_DEFER, .SAF_RINSE_OVERDUE, .SAF_SWATCH_FAIL,
   .SAF_SWATCH_MISSED, .REC_BAD_OUTPUT]

/-- The lint counters in index order. -/
def lintTable : List Lint :=
  lintTable0 ++ lintTable1 ++ lintTable2

/-- The size in bytes of a scalar type (R512), zero for a DOMAIN. -/
def OdType.size : OdType → Nat
  | .boolean => 1 | .int8 => 1 | .int16 => 2 | .int32 => 4 | .uns8 => 1 | .uns16 => 2 | .uns32 => 4
  | .int64 => 8 | .uns64 => 8 | .domain => 0

/-- The code of a type (R512). -/
def OdType.code : OdType → Nat
  | .boolean => 1 | .int8 => 2 | .int16 => 3 | .int32 => 4 | .uns8 => 5 | .uns16 => 6 | .uns32 => 7
  | .int64 => 8 | .uns64 => 9 | .domain => 0x0A

/-- The code of an access in the INFO response (R515). -/
def Access.code : Access → Nat
  | .ro => 0 | .rw => 1 | .wo => 2 | .rc => 3

/-- An object of the dictionary: an entry (instance, element), a lint counter through its read or its
read-and-clear subindex, subindex 0 of an index (R511), and the two entries of a commit index (R526). -/
inductive Obj where
  | ent (e : Ent) (inst elem : Nat)
  | lint (l : Lint) (inst : Nat)
  | lintRc (l : Lint) (inst : Nat)
  | sub0 (index : Nat)
  | commit (group : Nat)
  | status (group : Nat)
deriving DecidableEq, Repr

/-- The group of an index: the range of R538, named by the high byte of its commit index. -/
def groupOf (index : Nat) : Nat :=
  if index < 0x1600 then 0x11 else if index < 0x1800 then 0x16 else index / 256

/-- The groups of R538. -/
def groupTable : List Nat :=
  [0x11, 0x16, 0x20, 0x21, 0x22, 0x23, 0x24, 0x25, 0x26, 0x27, 0x28, 0x29, 0x2A, 0x2B, 0x2C, 0x2D, 0x2E, 0x2F, 0x30, 0x31]

/-- The key under which an element of an entry is stored: index × 256 + subindex. -/
def Ent.key (e : Ent) (inst elem : Nat) : Nat :=
  (e.row.index + inst) * 256 + (e.row.sub + elem)

/-- The key of a lint counter's value. -/
def Lint.key (l : Lint) (inst : Nat) : Nat := (l.row.index + inst) * 256 + l.row.rd

/-- Does the row cover this index and subindex? -/
def EntRow.covers (r : EntRow) (index sub : Nat) : Bool :=
  decide (r.index ≤ index) && decide (index < r.index + r.insts) && decide (r.sub ≤ sub) && decide (sub < r.sub + r.elems)

/-- The entry of the catalogue tables at an index and subindex. -/
def findEnt (index sub : Nat) : Option Obj :=
  (entTable.find? (fun e => e.row.covers index sub)).map
    (fun e => .ent e (index - e.row.index) (sub - e.row.sub))

/-- The lint counter at an index and subindex. -/
def findLint (index sub : Nat) : Option Obj :=
  (lintTable.find? (fun l => decide (l.row.index ≤ index) && decide (index < l.row.index + l.row.insts) &&
      (sub == l.row.rd || sub == l.row.rc))).map
    (fun l => if sub = l.row.rd then .lint l (index - l.row.index) else .lintRc l (index - l.row.index))

/-- The highest subindex that the tables give an index; 0 if the index does not exist. -/
def highestSub (index : Nat) : Nat :=
  let a := entTable.foldl (fun m e =>
    if e.row.index ≤ index ∧ index < e.row.index + e.row.insts then max m (e.row.sub + e.row.elems - 1) else m) 0
  let b := lintTable.foldl (fun m l =>
    if l.row.index ≤ index ∧ index < l.row.index + l.row.insts then max m l.row.rc else m) 0
  let c := if index % 256 = 0xFF ∧ groupTable.contains (index / 256) then 2 else 0
  max a (max b c)

/-- The indices of a crew exist only for the crews of the grade (R4, R151, R286). -/
def indexOnPart (crews index : Nat) : Bool :=
  !((decide (0x2410 + crews ≤ index) && decide (index < 0x2416)) ||
    (decide (0x2710 + crews ≤ index) && decide (index < 0x2716)))

/-- The object at an index and subindex on a part with `crews` crews (R511). -/
def resolve (crews index sub : Nat) : Option Obj :=
  if !indexOnPart crews index then none
  else if sub = 0 then (if highestSub index = 0 then none else some (.sub0 index))
  else if index % 256 = 0xFF ∧ groupTable.contains (index / 256) then
    (if sub = 1 then some (.commit (index / 256)) else if sub = 2 then some (.status (index / 256)) else none)
  else match findEnt index sub with
    | some o => some o
    | none => findLint index sub

/-- The name of a group's commit object; the manual names no other object of a commit index. -/
def commitName : Nat → String
  | 0x11 => "OD_COMMIT" | 0x16 => "CYC_COMMIT" | 0x20 => "BOOT_COMMIT" | 0x21 => "CLK_COMMIT"
  | 0x22 => "CAM_COMMIT" | 0x23 => "MGL_COMMIT" | 0x24 => "CREW_COMMIT" | 0x25 => "MEM_COMMIT"
  | 0x26 => "COX_COMMIT" | 0x27 => "CONV_COMMIT" | 0x28 => "KV_COMMIT" | 0x29 => "DET_COMMIT"
  | 0x2A => "SQD_COMMIT" | 0x2B => "RT_COMMIT" | 0x2C => "FIO_COMMIT" | 0x2D => "ENC_COMMIT"
  | 0x2E => "TIME_COMMIT" | 0x2F => "PCI_COMMIT" | 0x30 => "SAF_COMMIT" | 0x31 => "REC_COMMIT"
  | _ => ""

end Sys2Proof.Machine
end

