-- ==== Sys2Proof/Machine/Maps.lean ====
section
/-! DEFINITION. Sparse data in one canonical form: keys strictly rising, and no entry equal to what an absent key reads as. -/

namespace Sys2Proof.Machine

open Sys2Proof

/-- A sparse map from natural numbers, kept in strictly rising key order. -/
abbrev AMap (α : Type) := List (Nat × α)

/-- The value at key `k`. -/
def amGet? {α : Type} : AMap α → Nat → Option α
  | [], _ => none
  | (j, v) :: r, k => if k = j then some v else amGet? r k

/-- The value at key `k`, or `d`. -/
def amGet {α : Type} (m : AMap α) (k : Nat) (d : α) : α := (amGet? m k).getD d

/-- Remove key `k`. -/
def amErase {α : Type} : AMap α → Nat → AMap α
  | [], _ => []
  | (j, v) :: r, k => if k = j then amErase r k else (j, v) :: amErase r k

/-- Put `v` at key `k`, keeping the order. -/
def amInsert {α : Type} : AMap α → Nat → α → AMap α
  | [], k, v => [(k, v)]
  | (j, w) :: r, k, v =>
    if k = j then (k, v) :: r else if k < j then (k, v) :: (j, w) :: r else (j, w) :: amInsert r k v

/-- Put `v` at key `k`; writing the value `d` that an absent key reads as removes the entry. -/
def amSet {α : Type} [DecidableEq α] (m : AMap α) (k : Nat) (v d : α) : AMap α :=
  if v = d then amErase m k else amInsert m k v

/-- Are all keys of the map above `k`? -/
def amAbove {α : Type} (k : Nat) : AMap α → Bool
  | [] => true
  | (j, _) :: _ => decide (k < j)

/-- Strictly rising keys. -/
def amSorted {α : Type} : AMap α → Bool
  | [] => true
  | (j, _) :: r => amAbove j r && amSorted r

/-- The canonical form: strictly rising keys, no entry equal to the absent value `d`. -/
def amWf {α : Type} [DecidableEq α] (d : α) (m : AMap α) : Bool :=
  amSorted m && m.all (fun e => !decide (e.2 = d))

/-- A byte memory: the cells that do not hold the byte an unlisted address reads as. -/
abbrev Memory := List Host.Cell

/-- What an address that nothing has written reads as: zero.
The spec gives no power-on contents of any memory (DESIGN CHOICE, notes/assumptions/2.md). -/
def Memory.unwritten : Byte := 0#8

/-- One byte of a memory. -/
def memRead (m : Memory) (a : Nat) : Byte := amGet m a Memory.unwritten

/-- Write one byte. -/
def memWrite (m : Memory) (a : Nat) (b : Byte) : Memory := amSet m a b Memory.unwritten

/-- `n` bytes from address `a`. -/
def memReadN (m : Memory) : Nat → Nat → Bytes
  | _, 0 => []
  | a, n + 1 => memRead m a :: memReadN m (a + 1) n

/-- Write a string of bytes from address `a` upwards. -/
def memWriteN (m : Memory) : Nat → Bytes → Memory
  | _, [] => m
  | a, b :: bs => memWriteN (memWrite m a b) (a + 1) bs

/-- The canonical form of a memory. -/
def Memory.wf (m : Memory) : Bool := amWf Memory.unwritten m

end Sys2Proof.Machine
end

