-- ==== Sys2Proof/Machine/TyOd.lean ====
section
/-! DEFINITION. Messages, responses and sessions of the object dictionary protocol, the device states, and network time as data (R25, R492, R513 to R519). -/

namespace Sys2Proof

open Machine

/-- The fields of the 40-byte message header (R513) that every request carries, with the interface it arrived on
and its peer as the entry `OD_SESSIONS` writes one (R518, R537). -/
structure Envelope where
  itf : Fin 3
  peer : BitVec 64
  version : BitVec 4
  kind : BitVec 4
  dup : Bool
  last : Bool
  shadow : Bool
  rsvFlags : BitVec 5
  status : BitVec 8
  session : BitVec 16
  rsvA : BitVec 16
  reqId : BitVec 32
  rsvB : BitVec 8
  rsvC : BitVec 16
  tag : BitVec 32
  check : BitVec 32
  rsvD : BitVec 32
deriving DecidableEq, Repr

/-- A whole request: its envelope, the operation and its operands (R513, R514). -/
structure Request where
  env : Envelope
  op : BitVec 8
  index : BitVec 16
  sub : BitVec 8
  offset : BitVec 64
  length : BitVec 16
  data : Bytes
deriving DecidableEq, Repr

namespace Machine

/-- The device states of R25. -/
inductive DevState where
  | off | reset | boot | inert | armed | run | degraded | safe | recovery
deriving DecidableEq, Repr

/-- The code of a device state (R37). -/
def DevState.code : DevState → Nat
  | .off => 0 | .reset => 1 | .boot => 2 | .inert => 3 | .armed => 4 | .run => 5 | .degraded => 6 | .safe => 7
  | .recovery => 8

/-- The response codes of R516. -/
inductive Status where
  | ok | dup | access | type | range | reserved | state | busy | stale | auth | noobj
deriving DecidableEq, Repr

/-- The code of a response (R516). -/
def Status.code : Status → Nat
  | .ok => 0 | .dup => 1 | .access => 2 | .type => 3 | .range => 4 | .reserved => 5 | .state => 6 | .busy => 7
  | .stale => 8 | .auth => 9 | .noobj => 0x0A

/-- Is a response kept in the duplicate window (R516)? -/
def Status.kept : Status → Bool
  | .dup => false | .busy => false | .stale => false | .auth => false | _ => true

/-- The value of an entry: the scalar's bits, or a DOMAIN's bytes (R512). -/
inductive OdVal where
  | num (n : Nat)
  | bytes (b : Bytes)
deriving DecidableEq, Repr

/-- Network time in the format of R492. -/
structure NetTime where
  sec : Nat
  ns : Nat
  frac : Nat
deriving DecidableEq, Repr

/-- The 14 bytes of a time (R492). -/
def NetTime.toBytes (t : NetTime) : Bytes := packBytes 14 [(64, t.sec), (32, t.ns), (16, t.frac)]

/-- The whole nanoseconds of a time. -/
def NetTime.toNs (t : NetTime) : Nat := t.sec * 1000000000 + t.ns

/-- A session (R518, R519). `stored` holds the kept responses of the window, newest first; `executing` the request
whose response is still to come, `queue` the requests that wait behind it (R521). -/
structure Session where
  role : Nat
  version : Nat
  peer : Nat
  tag : Nat
  timeoutMs : Nat
  lastMsg : Nat
  high : Nat
  openReq : Nat
  openData : Bytes
  stored : List (Nat × Bytes)
  executing : Option Request
  queue : List Request
  snapshot : Option (Nat × Bytes)
  assembly : Option (Nat × Bytes)
deriving DecidableEq, Repr

/-- The store of the dictionary: committed values that differ from what reset gives, pending shadows, commits that
wait for their boundary, the lint counters, and the sessions by handle. -/
structure OdStore where
  committed : AMap OdVal
  shadows : AMap OdVal
  waiting : AMap OdVal
  lints : AMap Nat
  sessions : Vector (Option Session) 48
deriving DecidableEq, Repr

/-- Where the response of an action that completes later goes: a session's request, a transfer-list entry, or the
stroke seat of the squad. -/
inductive Origin where
  | session (handle reqId : Nat)
  | list (id : Nat)
  | squad (cmdSeq : Nat)
deriving DecidableEq, Repr

/-- The cyclic image (R531 to R536): whether a first image is still to come since enable, the CYCLE of the last
accepted image, the image that waits for the next cycle start, cycle starts without an accepted image, the trip
that has happened since then, the WD flag of the TX header, and the number of the cycle in progress. -/
structure Cyclic where
  anyAccepted : Bool
  lastCycle : Nat
  latest : Option Bytes
  missed : Nat
  tripped : Bool
  wdFlag : Bool
  cycle : Nat
  started : Bool
deriving DecidableEq, Repr

end Machine

end Sys2Proof
end

