-- ==== Sys2Proof/Machine/TyField.lean ====
section
/-! DEFINITION. The state of the field channels, the encoders, the dividers, the trigger slots and the fire list (R448 to R484), and of the records they complete (R580 to R583). -/

namespace Sys2Proof.Machine

open Sys2Proof

/-- One field channel: the filter counter, the level of the last sample and the filtered value (R450); the flags of
`FIO_STATUS` (R476); and whether its driver junction was at or above 135 °C at the last filter tick (R452). -/
structure FieldCh where
  count : Nat
  level : Bool
  filt : Bool
  overload : Bool
  openWire : Bool
  openLoad : Bool
  overtemp : Bool
  group : Bool
  supply : Bool
  hot : Bool
deriving DecidableEq, Repr

/-- A channel after reset: every field of `FIO_STATUS` is 0. -/
def FieldCh.init : FieldCh := ⟨0, false, false, false, false, false, false, false, false, false⟩

/-- One encoder channel (R454 to R459): the accepted levels, the position, the highest position reached, the flags
of `ENC_STATUS`, the fault conditions still present, the references, whether an edge has been counted since enable, and the interval that
the next one is judged against, in samples (R456). -/
structure Encoder where
  a : Bool
  b : Bool
  pos : Int
  high : Int
  fault : Bool
  wire : Bool
  quad : Bool
  overspeed : Bool
  ref : Bool
  wireNow : Bool
  lastReverse : Bool
  refPos : Int
  refCnt : Nat
  edgeSeen : Bool
  interval : Option Nat
  enabled : Bool
deriving DecidableEq, Repr

/-- A channel after reset. -/
def Encoder.init : Encoder :=
  ⟨false, false, 0, 0, false, false, false, false, false, false, false, 0, 0, false, none, false⟩

/-- One divider (R460, R461): the reference position, the next pulse, whether a PULSE output is high, the pulses
that wait for its fall, and whether the enable is in effect. -/
structure Divider where
  p0 : Int
  next : Nat
  pulse : Bool
  deferred : Nat
  enabled : Bool
deriving DecidableEq, Repr

/-- A divider after reset. -/
def Divider.init : Divider := ⟨0, 1, false, 0, false⟩

/-- An output whose pulse elapses (R49, R461, R463): a camera trigger, a divided output, a trigger slot. -/
inductive PulseOut where
  | cam (port : Fin 12)
  | enco (e : Fin 4)
  | slot (n : Fin 32)
deriving DecidableEq, Repr

/-- When the active pulse of a trigger slot ends: after CK_TS cycles (its end is the row PULSE_WIDTH_END) or at a
position (R463). -/
inductive PulseEnd where
  | cycles
  | position (p : Int)
deriving DecidableEq, Repr

/-- One trigger slot (R463): the next event, the end of its active pulse, whether the enable is in effect, and
whether its single event has passed. -/
structure TrigSlot where
  next : Nat
  pulse : Option PulseEnd
  enabled : Bool
deriving DecidableEq, Repr

/-- A slot after reset. -/
def TrigSlot.init : TrigSlot := ⟨0, none, false⟩

/-- The verdict codes of R464, and the PENDING of a part queued for a second look (R466). -/
inductive Verdict where
  | pass | reject | undecided | late | invalid | pending
deriving DecidableEq, Repr

/-- The code of a verdict (R464), 0xF while PENDING (R580). -/
def Verdict.code : Verdict → Nat
  | .pass => 0 | .reject => 1 | .undecided => 2 | .late => 3 | .invalid => 4 | .pending => 0xF

/-- The fire settings of a port, kept by every swath from its beginning (R472). -/
structure FireSet where
  enable : Bool
  ageLimit : Nat
  fbUndecided : Nat
  fbLate : Nat
  fbInvalid : Nat
deriving DecidableEq, Repr

/-- One FIRE entry of a recipe (R465). -/
structure FireCfg where
  port : Nat
  widthTime : Bool
  base : Nat
  valves : Nat
  offset : Int
  width : Nat
deriving DecidableEq, Repr

/-- What holds a resolved entry's valves: an off point in counts, or one in time (R470); a swath-level entry with a
width in time waits first for its span to pass. -/
inductive FireOff where
  | counts (p : Int)
  | time
  | spanThenTime (p : Int)
deriving DecidableEq, Repr

/-- A fire entry (R466): the number of its insertion, its port and channel, on position, off rule, valves, verdict and
verdict time (`TS_MONO`), the settings of its swath, the number of its verdict record, and the valves it holds once
it has resolved (`none` while it is pending). -/
structure FireEntry where
  id : Nat
  port : Nat
  ch : Nat
  pOn : Int
  off : FireOff
  valveLo : Nat
  valveHi : Nat
  verdict : Verdict
  verdictTime : Nat
  set : FireSet
  record : Nat
  part : Nat
  held : Option (List Nat)
deriving DecidableEq, Repr

/-- The fire list (R471), the entries that hold valves included, the next insertion number, the stop latch (R469)
and `FIRE_LAST` of every port (R482). -/
structure FireList where
  entries : List FireEntry
  nextId : Nat
  stopLatched : Bool
  last : Vector Nat 12
deriving DecidableEq, Repr

/-- The audit block of R359. -/
structure Audit where
  planKind : Nat
  partition : Nat
  replay : Bool
  package : Nat
  plan : Nat
  crews : Nat
  heatless : Bool
  step : Nat
  heatSerial : Nat
  stream : Nat
  inputCrc : Nat
  seamCrc : Nat
  roiCrc : Nat
  cfgCrc : Nat
  patchEpoch : Nat
  retuneGen : Nat
  runSeed : Nat
  startPeriod : Nat
  donePeriod : Nat
  doneCycle : Nat
  fwVersion : Nat
  digest : Bytes
  patchSummary : List Nat
deriving DecidableEq, Repr

/-- The causes of R581. -/
inductive Cause where
  | none | spoiled | overrun | roiOvf | coxLate | queueFull | nanConf | slLate | cancelled | fireLate | fireOvf
  | encFault | check | overtime | kernel | supervisor | engine | badOutput | model | slOff | stepInvalid | stopped
  | coxQueue
deriving DecidableEq, Repr

/-- The code of a cause (R581). -/
def Cause.code : Cause → Nat
  | .none => 0 | .spoiled => 1 | .overrun => 2 | .roiOvf => 3 | .coxLate => 4 | .queueFull => 5 | .nanConf => 6
  | .slLate => 7 | .cancelled => 8 | .fireLate => 9 | .fireOvf => 0xA | .encFault => 0xB | .check => 0xC
  | .overtime => 0xD | .kernel => 0xE | .supervisor => 0xF | .engine => 0x10 | .badOutput => 0x11 | .model => 0x12
  | .slOff => 0x13 | .stepInvalid => 0x14 | .stopped => 0x15 | .coxQueue => 0x16

/-- Does a cause count as a lost decision (R581)? -/
def Cause.lost : Cause → Bool
  | .overrun | .coxLate | .queueFull | .slLate | .fireLate | .fireOvf | .check | .overtime | .kernel | .supervisor
  | .engine | .badOutput | .stepInvalid | .coxQueue => true
  | _ => false

/-- A verdict record (R580). -/
structure VerdictRec where
  swathLevel : Bool
  verdict : Verdict
  outcome : Nat
  secondLook : Bool
  fireOvf : Bool
  timeUnsync : Bool
  cause : Cause
  port : Nat
  partId : Nat
  swath : Nat
  recSeq : Nat
  boxSlot : Nat
  noSlot : Bool
  pOn : Int
  verdictTime : NetTime
  conf : Nat
  seqId : Nat
  audit : Audit
deriving DecidableEq, Repr

/-- A result record (R582). -/
structure ResultRec where
  kind : Nat
  status : Nat
  cause : Cause
  seqId : Nat
  recNo : Nat
  time : NetTime
  partId : Nat
  audit : Audit
  annex : Bytes
deriving DecidableEq, Repr

/-- The records region (R583, R591): the held records by number since ARM, oldest first, the counts, and the last
REC_SEQ of every port. -/
structure Records where
  verdicts : List (Nat × VerdictRec)
  results : List ResultRec
  verdictCount : Nat
  resultCount : Nat
  portSeq : Vector Nat 12
deriving DecidableEq, Repr

/-- The field I/O, encoder, trigger and fire block. -/
structure Field where
  chans : Vector FieldCh 48
  supplyMv : Vector Nat 6
  rigHold : Bool
  rigLink : Bool
  rigOnceUp : Bool
  encs : Vector Encoder 8
  divs : Vector Divider 16
  slots : Vector TrigSlot 32
  fire : FireList
deriving DecidableEq, Repr

end Sys2Proof.Machine
end

