-- ==== Sys2Proof/Machine/TyCam.lean ====
section
/-! DEFINITION. The state of the camera ports, their swaths and the mangle (R45 to R78, R163 to R167). -/

namespace Sys2Proof.Machine

open Sys2Proof

/-- A matched or unmatched trigger: the stamp of its leading edge, its `TS_MONO` and the encoder position (R53). -/
structure Trig where
  time : NetTime
  mono : Nat
  pos : Int
deriving DecidableEq, Repr

/-- A stored row: the counter the line carried or consumed, and its raw samples (R57, R64). -/
structure Row where
  cnt : Nat
  px : List Nat
deriving DecidableEq, Repr

/-- A box of a box list (R266). -/
structure Box where
  x0 : Int
  x1 : Int
  y0 : Int
  y1 : Int
  part : Nat
  carried : Bool
  cls : Nat
  score : Nat
deriving DecidableEq, Repr

/-- A box list (R265): whether it is the fallback of R74, and its boxes in order. -/
structure BoxList where
  fallback : Bool
  swath : Nat
  boxes : List Box
deriving DecidableEq, Repr

/-- What became of the fast-path heat of a swath (R60, R74, R165): not handed on, waiting for admission, admitted, completed, or ended
LATE, INVALID or UNDECIDED. -/
inductive SwathFate where
  | notHanded | waiting | admitted | completed | late | invalid | undecided
deriving DecidableEq, Repr

/-- The mangle settings of a port that a swath keeps from its beginning (R78, R641). -/
structure MglCfg where
  mosSize : Nat
  sites : Nat
  rowOfs : Nat
  colOfs : Nat
  black : List Nat
  irEnable : Bool
  irM : List Int
  planes : Nat
  outFmt : Nat
  histWin : Nat
  zones : Nat
  fill : Nat
  keepRaw : Bool
  roi : Bool
  margin : Nat
  fallback : Nat
deriving DecidableEq, Repr

/-- A swath: its counter, the record of R57 in fields, the rows stored, what the mangle has made of it, its
region-of-interest list and detection list, its fate, and the settings it began under. `first` and `last` are the
trigger data of the first and the last line; `seam` the seam rows of every plane (none: fill, R56). `rowRefs` are the
references on the rows (R165), one number for each row, seam rows first. `decided`: a verdict record or entries of the
swath exist; `lost`: counted in the lost decision time (R586); `seamDue`: the mangle still owes the next buffer its seam rows
(R165); `stopped`: begun after STOP (R30); `rawSeam`: the raw seam rows. -/
structure Swath where
  cnt : Nat
  flags : Nat
  first : Trig
  encCh : Nat
  last : Int
  lineFirst : Nat
  buf : Option Nat
  lines : Nat
  total : Nat
  width : Nat
  depth : Nat
  packing : Nat
  crc : Nat
  nCrc : Nat
  nMissing : Nat
  nLate : Nat
  nLength : Nat
  rows : List Row
  seam : List (List Bytes)
  planes : Option (List (List Bytes))
  roi : Option BoxList
  detections : Option (List Box)
  fate : SwathFate
  began : DevState
  fire : FireSet
  closed : Option Nat
  rowRefs : List Nat
  released : Bool
  statedDone : Option Nat
  decided : Bool
  lost : Bool
  seamDue : Bool
  stopped : Bool
  mgl : MglCfg
  rawSeam : List (List Nat)
deriving DecidableEq, Repr

/-- One camera port: whether the enable is in effect, the trigger output and its deferred pulses (R49), the expected
counter and the counters consumed by fill lines, newest first (R52), the unmatched triggers, oldest first (R53), flags
for the next swath record, the swath counter (R54), the open swath, the closed swaths, newest first, the number of
buffers held (0 before ARM), the buffers that are free, the buffer allocated for the next swath, and the lanes of
`CAM_TP_BITS`. -/
structure CamPort where
  on : Bool
  pulse : Bool
  deferred : Nat
  expected : Option Nat
  consumed : List Nat
  trigs : List Trig
  pendFlags : Nat
  pendLate : Nat
  swathCnt : Nat
  opened : Option Swath
  closed : List Swath
  bufs : Nat
  free : List Nat
  nextBuf : Option Nat
  firstDone : Bool
  afterOverrun : Bool
  tpBits : Nat
  lastSwath : Nat
  pclk : Bool
  stats : List Bytes
deriving DecidableEq, Repr

/-- A port after reset. -/
def CamPort.init : CamPort :=
  ⟨false, false, 0, none, [], [], 0, 0, 0, none, [], 0, [], none, false, false, 0, 0, false, []⟩

end Sys2Proof.Machine
end

