-- ==== Sys2Proof/Machine/TyCox.lean ====
section
/-! DEFINITION. Run packages, placement images, requests, heats and partitions (R147, R169, R172, R183, R192, R199 to R239). -/

namespace Sys2Proof.Machine

open Sys2Proof

/-- A tensor descriptor (R169). -/
structure TensorDesc where
  fmt : Nat
  kind : Nat
  rankM1 : Nat
  blkDim : Nat
  order : List Nat
  alignLog2 : Nat
  dims : List Nat
  constOfs : Nat
  srcPort : Nat
  srcPlane : Nat
deriving DecidableEq, Repr

/-- One dimension of a stream window (R172). -/
structure StreamDim where
  start : Int
  count : Nat
  step : Int
deriving DecidableEq, Repr

/-- A stream descriptor (R172). -/
structure StreamDesc where
  write : Bool
  td : Nat
  fmtUnit : Nat
  sat : Bool
  xpose : Bool
  padMode : Nat
  padValue : Nat
  dims : List StreamDim
deriving DecidableEq, Repr

/-- The plan kinds of R199. -/
inductive PlanKind where
  | fast | secondLook | retune | swatch | background
deriving DecidableEq, Repr

/-- The code of a plan kind. -/
def PlanKind.code : PlanKind → Nat
  | .fast => 0 | .secondLook => 1 | .retune => 2 | .swatch => 3 | .background => 4

/-- The priority class of a plan kind (R199). -/
def PlanKind.cls : PlanKind → Nat
  | .fast => 0 | .secondLook => 1 | .retune => 2 | .swatch => 0 | .background => 3

/-- A plan entry (R206). -/
structure Plan where
  kind : PlanKind
  preempt : Bool
  borrow : Bool
  crews : Nat
  maxConc : Nat
  port : Nat
  firstStroke : Nat
  strokes : Nat
  scrQuota : Nat
  deadlineUs : Nat
  darnPeriods : Nat
deriving DecidableEq, Repr

/-- One block of the SWATCH_DATA section (R577). -/
structure SwatchBlock where
  plan : Nat
  tdIn : Nat
  inCrc : Nat
  outs : List (Nat × Nat)
deriving DecidableEq, Repr

/-- A loaded run package (R201 to R206): the container, its manifest fields, its descriptors (strokes as their 64
bytes), its constants, its recipe and retune sections, and the STATE tensors its heats have left. -/
structure Package where
  container : Bytes
  digest : Bytes
  partition : Nat
  minCrews : Nat
  secVersion : Nat
  lpddrBytes : Nat
  lsBytes : Nat
  cmnBytes : Nat
  camPorts : Nat
  ownerKey : Nat
  tensors : List TensorDesc
  streams : List StreamDesc
  strokes : List Bytes
  plans : List Plan
  consts : Bytes
  swatch : List SwatchBlock
  recipe : List Bytes
  retune : Option Bytes
  states : AMap Bytes
deriving DecidableEq, Repr

/-- A rota grant of an image: the work period from its start, the slot-time, the lane of R179 counted in table order,
the direction, whether it carries MEM packets (R180, R183), and the stroke and pass it serves. -/
structure Grant where
  period : Nat
  slot : Nat
  lane : Nat
  dir : Nat
  mem : Bool
  stroke : Nat
  pass : Nat
deriving DecidableEq, Repr

/-- A pass of an image (R209, R210): its stroke, number and work period, the crew rank, the kind and number of its unit
(0 shell, 1 scull, 2 sweep, 3 oar, 4 crop engine, 5 press), the (stroke, pass) pairs whose outputs it reads, and its part of
the work. A tile, scull or fold pass covers rows `m0` to `m0 + rows - 1`, columns `n0` to `n0 + cols - 1` and the `kbs`
K-blocks from `kb0` (R122, R134 to R138). A sweep pass covers sequence slot `seq`, key-value head `head`, the step rows
`m0` to `m0 + rows - 1` and the `kbs` page entries from `kb0` (R298). A kernel pass is invocation `kb0` (R272). A crop pass
covers the box slots `m0` to `m0 + rows - 1`. `fold` marks a fold pass. -/
structure Pass where
  stroke : Nat
  num : Nat
  period : Nat
  rank : Nat
  unitKind : Nat
  unitNo : Nat
  reads : List (Nat × Nat)
  m0 : Nat
  rows : Nat
  n0 : Nat
  cols : Nat
  kb0 : Nat
  kbs : Nat
  seq : Nat
  head : Nat
  fold : Bool
deriving DecidableEq, Repr

/-- A placement image (R209 to R211, R216, R232): W, T, the power estimate of every work period, the grants, the
group slots that take tokens (period, slot-time), the passes, the live blocks (period, rank, block), the next
stroke after every period, and the oar address of every tensor that a kernel names, by rank (rank, tensor, address: R275). -/
structure Image where
  w : Nat
  t : Nat
  power : List Nat
  grants : List Grant
  groups : List (Nat × Nat)
  passes : List Pass
  live : List (Nat × Nat × Nat)
  nextStroke : List Nat
  place : List (Nat × Nat × Nat)
deriving DecidableEq, Repr, Inhabited

/-- A crew's profile (R209): active shells, the shells that are patched, the scull. -/
structure Profile where
  shells : Nat
  patched : List Nat
  scull : Bool
deriving DecidableEq, Repr

/-- The states of a heat-table entry (R200), FREE being an absent entry. -/
inductive HeatState where
  | admitted | running | reserve | draining | saving | saved | restoring
deriving DecidableEq, Repr

/-- The code of a heat state (R200). -/
def HeatState.code : HeatState → Nat
  | .admitted => 1 | .running => 2 | .reserve => 3 | .draining => 4 | .saving => 5 | .saved => 6 | .restoring => 7

/-- A save section (R191, R192): the crew saved, the heat's step and next stroke, the CRC, and the blocks written. -/
structure SaveSection where
  crew : Nat
  step : Nat
  nextStroke : Nat
  check : Nat
  blocks : List (Nat × Bytes)
deriving DecidableEq, Repr

/-- A detected error reported to the crew scoreboard (R129, R563, R590). -/
structure DetError where
  kind : Nat
  crew : Nat
  unitNo : Nat
  stroke : Nat
  pass : Nat
  serial : Nat
  period : Nat
  mono : Nat
  noDarn : Bool
  cause : Cause
deriving DecidableEq, Repr

/-- A darn in progress (R563): the period of the error, the passes to run again, whether they have started, and the
period in which the re-run ends. -/
structure Darn where
  period : Nat
  passes : List (Nat × Nat)
  started : Bool
deriving DecidableEq, Repr

/-- A request (R217 to R219): kind, place, trigger time in CK_FAB cycles from ARM, the deadline in the same unit, the
order of its trigger, the swath of a FAST request (port, counter), whether it is eligible, the step number, the
heat-table entry of a SAVED heat that asks to resume (R230), and whether it has been counted as delayed by settling. -/
structure CoxReq where
  kind : PlanKind
  slot : Nat
  plan : Nat
  partition : Nat
  trig : Nat
  deadline : Option Nat
  order : Nat
  swath : Option (Nat × Nat)
  eligible : Bool
  step : Nat
  resume : Option Nat
  settleCounted : Bool
deriving DecidableEq, Repr

/-- The state of a query row over the entries of a node (R294): EMPTY, NaN, or (m, l, o) in FP32. -/
inductive AttState where
  | empty
  | nan
  | fin (m l : Nat) (o : List Nat)
deriving DecidableEq, Repr

/-- A stored partial: the stroke and pass that made it, the row, and the word of every column (R122). -/
structure Partial where
  stroke : Nat
  pass : Nat
  row : Nat
  words : List Bytes
deriving DecidableEq, Repr

/-- A node state of a sweep pass (R298): stroke, pass, step row, query head. -/
structure AttNode where
  stroke : Nat
  pass : Nat
  row : Nat
  head : Nat
  state : AttState
deriving DecidableEq, Repr

/-- An admitted heat (R200, R216, R237). `periods` are the calendar periods in which the image's work periods from
`offset` on run; `limit` is the supervision limit of R568 in CK_FAB cycles from ARM, `statedDone` the last stated
completion in the same unit, `firstDone` the completion stated at admission (R167); `tries` counts the darns of each
(stroke, pass) under stroke × 2^32 + pass; `toSave` and `toRestore` are the crews still to be saved or restored. `building` holds the tensors of strokes
that are not complete, `passesDone` the (stroke, pass) pairs that have ended, `partials` and `nodes` what passes with partial
output have left, `appended` the SWEEP strokes whose keys and values are in the cache, and `delivered` what READ streams
have delivered, by stream number. -/
structure Heat where
  state : HeatState
  serial : Nat
  req : CoxReq
  plan : Plan
  crews : List Nat
  image : Image
  offset : Nat
  periods : List Nat
  reserveEnd : Nat
  statedDone : Nat
  firstDone : Nat
  limit : Nat
  firstStart : Nat
  started : Bool
  tensors : AMap Bytes
  strokesDone : List Nat
  errors : List DetError
  darn : Option Darn
  tries : AMap Nat
  sections : List SaveSection
  toSave : List Nat
  toRestore : List Nat
  unsync : Bool
  patchEpoch : Nat
  patchSummary : List Nat
  retuneGen : Nat
  replay : Bool
  tapTensor : Nat
  spanStart : Option Nat
  imageDone : Bool
  inputCrc : Nat
  roiCrc : Nat
  building : AMap Bytes
  passesDone : List (Nat × Nat)
  partials : List Partial
  nodes : List AttNode
  appended : List Nat
  delivered : AMap Bytes
deriving DecidableEq, Repr

/-- How a step heat ended (R330, R334, R439). -/
inductive StepOutcome where
  | done
  | invalid (c : Cause)
  | late
  | stopped
deriving DecidableEq, Repr

/-- The end of a step heat of a SECOND_LOOK or RETUNE plan, until its producer takes it; none for a request dropped
before any heat. -/
structure StepEnd where
  kind : PlanKind
  partition : Nat
  outcome : StepOutcome
  heat : Option Heat
deriving DecidableEq, Repr

/-- The state of one partition's regulator (R226): the tokens at the start of the current window, the darn slots taken in
it, and the tokens reserved by window. -/
structure Partition where
  tokens : Nat
  darnUsed : Nat
  reserved : AMap Nat
deriving DecidableEq, Repr

/-- The cox: the packages by slot, the queue in the order of R218, producers held back (R233), the heats by table entry,
the serial and trigger-order counters, the last load and fault, the settling crews with their starts, the duration of
the last settling, the period counter, `TS_MONO` at ARM, the regulator window, whether admission is enabled and STOP
has been commanded, the partitions, whether save slots are reserved and the LPDDR5 bytes of save sections, the save and
restore in progress (entry, crew), the profiles and maps at the last admission, the retune generation in effect by
partition (R441), and the ends of step heats that their producers have still to take. -/
structure Cox where
  packages : Vector (Option Package) 16
  queue : List CoxReq
  held : List CoxReq
  heats : AMap Heat
  nextSerial : Nat
  nextOrder : Nat
  lastSlot : Nat
  lastFault : Nat
  settling : AMap Nat
  settleLast : Nat
  period : Nat
  armMono : Nat
  window : Nat
  admitting : Bool
  stopReq : Bool
  partitions : Vector Partition 8
  saveSlots : Bool
  saveReserved : Nat
  saves : List (Nat × Nat)
  restores : List (Nat × Nat)
  transfer : Bool
  lastProfiles : List (Profile × List Nat)
  gens : Vector Nat 8
  stepEnds : List StepEnd
deriving DecidableEq, Repr

/-- One crew (R142, R150, R280): the map of its logical shells (0xFF: retired), the logical oars that a patch oar serves,
the passes completed since BOOT. -/
structure Crew where
  shellMap : List Nat
  oarMap : AMap Nat
  passes : Nat
deriving DecidableEq, Repr

/-- A crew at BOOT. -/
def Crew.init : Crew := ⟨List.range 64, [], 0⟩

/-- The determinism block (R351, R362, R367 to R369): the patch epoch, the journal newest first, the last draw block, and
by partition the copy of the tapped tensor and the replays accepted. -/
structure Det where
  epoch : Nat
  journal : List Bytes
  genOut : Bytes
  tap : Vector Bytes 8
  replays : Vector Nat 8
deriving DecidableEq, Repr

end Sys2Proof.Machine
end

