-- ==== Sys2Proof/Machine/TySafe.lean ====
section
/-! DEFINITION. The state of the safety supervisor, the rinse, the device state machine, supplies and temperatures (R25 to R40, R560 to R590, R622 to R640). -/

namespace Sys2Proof.Machine

open Sys2Proof

/-- A unit that can be taken out of service or rinsed (R566, R571). -/
inductive UnitId where
  | shell (crew p : Nat)
  | oar (crew p : Nat)
  | scull (crew : Nat)
  | sweep (crew : Nat)
  | catchUnit (crew i : Nat)
  | crew (crew : Nat)
  | shared (i : Nat)
deriving DecidableEq, Repr

/-- A rinse slice: of a crew (0 to 11) or shared (0 to 2) (R571). -/
inductive Slice where
  | crew (c i : Nat)
  | shared (i : Nat)
deriving DecidableEq, Repr

/-- A mismatch of an engine that is built twice (R561): the mangle on a swath of a port, or the crop-and-resize engine or the press on
a pass of a heat's stroke. -/
inductive Mismatch where
  | mangle (port : Fin 12) (cnt : BitVec 64)
  | crop (k : Fin 64) (stroke pass : BitVec 32)
  | press (k : Fin 64) (stroke pass : BitVec 32)
deriving DecidableEq, Repr

/-- The safety supervisor (R584 to R590): the events latched, the last SAFE action, the lost time since BOOT
in CK_TS cycles beside the stored µs, the last error, the errors attributed to units with their times, the units held out of service until the next BOOT, the
slices targeted for the next rinse window, the position of every crew's round and of the shared round, the slices now
running, the time of every slice's last complete pass, and the swaths
that the watchdog still expects (port, counter). -/
structure Safety where
  latched : Nat
  safeEvent : Nat
  lostTs : Nat
  storedLostUs : Nat
  lastErr : Option DetError
  errors : List (UnitId × Nat)
  held : List UnitId
  targeted : List Slice
  nextTargeted : List Slice
  rinsePos : Vector Nat 6
  sharedPos : Nat
  running : List Slice
  status : Vector Nat 75
  expected : List (Nat × Nat)
deriving DecidableEq, Repr

/-- The device state machine: the state, the latched causes of SAFE (R40), the last ARM fault (R36), the ARM in
progress with the fault its checks found, the reset holds, the PLL lock, the supplies in their windows (R638), and the
temperature and power readings. -/
structure Device where
  state : DevState
  safeCause : Nat
  armFault : Nat
  arming : Option (Origin × Option Nat)
  porstLow : Bool
  brownOut : Bool
  pllLocked : Bool
  supplyOk : Vector Bool 11
  fieldOk : Vector Bool 6
  sensors : Vector Int 34
  admitLimit : Nat
  measured : Nat
  rails : Vector Nat 12
deriving DecidableEq, Repr

end Sys2Proof.Machine
end

