-- ==== Sys2Proof/Machine/TyBoot.lean ====
section
/-! DEFINITION. The boot flash, the fuses, the boot in progress, the running and the staged firmware, attestation and recovery (R595 to R621). -/

namespace Sys2Proof.Machine

open Sys2Proof

/-- A ledger record (R598), its CHECK being formed when it is written. -/
structure LedgerRec where
  cause : Nat
  lastStep : Nat
  result : Nat
  failStep : Nat
  failCode : Nat
  fwVersion : Nat
  bootCount : Nat
  fullTrain : Bool
  kept : Bool
  copyB : Bool
  defaults : Bool
  updDone : Bool
  consecFail : Nat
  item : Nat
  update : Nat
  updVersion : Nat
deriving DecidableEq, Repr

/-- A copy of the stored entries (R601): its sequence number and the values by key. -/
structure StoredCopy where
  seq : Nat
  values : AMap OdVal
deriving DecidableEq, Repr

/-- A package of the package store (R609) with its quarantine mark. -/
structure StoredPkg where
  slot : Nat
  container : Bytes
  partition : Nat
  quarantined : Bool
deriving DecidableEq, Repr

/-- The 64 MiB boot flash by its areas (R595): the factory area, both ledger rings as records by position, both
copies of the stored entries (none: no good CRC), the image area, and the package store with the entries of its
partitions. -/
structure Flash where
  factory : Bytes
  ledgerA : AMap Bytes
  ledgerB : AMap Bytes
  head : Nat
  copyA : Option StoredCopy
  copyB : Option StoredCopy
  image : Bytes
  store : List StoredPkg
  storeEntries : AMap OdVal
deriving DecidableEq, Repr

/-- A firmware image that passed its checks: its version, security version, digest, Knallavor slot and bytes. -/
structure FwImage where
  version : Nat
  secVersion : Nat
  digest : Bytes
  rootSlot : Nat
  bytes : Bytes
deriving DecidableEq, Repr

/-- The slot table written before LPDDR5 enters self-refresh (R610): whether its CRC is good and the slots it names. -/
structure SlotTable where
  good : Bool
  slots : List Nat
deriving DecidableEq, Repr

/-- The recovery protocol (R618): the owner's peer and interface, its duplicate window, the image assembled in the
line store, whether it is complete, and whether an image was installed. -/
structure Recovery where
  owner : Option (Nat × Nat)
  high : Nat
  stored : List (Nat × Bytes)
  assembly : Bytes
  complete : Bool
  installed : Bool
  installing : Option Nat
deriving DecidableEq, Repr

/-- What a boot step meets outside (R596 to R611): whether its physical work succeeded (lock, training, restore), the fuse words
corrected and whether one is uncorrectable, the units that fail the rinse, and the slots whose descriptors have an
uncorrectable group. -/
structure StepReport where
  good : Bool
  corrected : BitVec 8
  fuseBad : Bool
  failed : List UnitId
  lost : List (Fin 16)
deriving DecidableEq, Repr

/-- Boot, security and update: the flash, the fuse block, the boot in progress (its ledger record, whether it is warm,
the path choices of R600), the running and the staged image, the status of an install (R616) and whether its first
readback failed, the attestation nonce and report and who waits for it (R614), and recovery. -/
structure Boot where
  flash : Flash
  fuses : Memory
  record : LedgerRec
  warm : Bool
  fullTrain : Bool
  skipCrew : Option Nat
  skipSlot : Option Nat
  checkFlash : Bool
  slotTable : Option SlotTable
  selfRefresh : Bool
  romVersion : Nat
  running : Option FwImage
  staged : Option FwImage
  fwStatus : Nat
  installTries : Nat
  attestNonce : Bytes
  attestWaiting : Option Origin
  attestReport : Bytes
  recovery : Recovery
  serverUp : Bool
deriving DecidableEq, Repr

end Sys2Proof.Machine
end

