-- ==== Sys2Proof/Machine/TySquad.lean ====
section
/-! DEFINITION. The state of the Nuord ports and of the squad (R372 to R423). -/

namespace Sys2Proof.Machine

open Sys2Proof

/-- The states of a port (R379). -/
inductive NlState where
  | disabled | detect | align | equalize | deskew | handshake | up | easy | rack | retrain | test | failed
deriving DecidableEq, Repr

/-- The code of a port state (R379). -/
def NlState.code : NlState → Nat
  | .disabled => 0 | .detect => 1 | .align => 2 | .equalize => 3 | .deskew => 4 | .handshake => 5 | .up => 6
  | .easy => 7 | .rack => 8 | .retrain => 9 | .test => 0xA | .failed => 0xB

/-- A received block: its two header bits as sent (h0, h1) and its payload with bit 0 first (R373). -/
structure RxBlock where
  h0 : Bool
  h1 : Bool
  payload : Nat
deriving DecidableEq, Repr

/-- Where the training of a receive lane stands (R383, R384): the saved setting, a preset, one of the four trials, the
final setting, or done. -/
inductive EqStage where
  | saved
  | preset (p : Nat)
  | trial (k : Nat)
  | final
  | done
deriving DecidableEq, Repr

/-- The fields of a received TRAIN block (R380). -/
structure Train where
  lane : Nat
  port : Nat
  seat : Nat
  seatValid : Bool
  phase : Nat
  embedded : Bool
  preset : Nat
  cm1 : Nat
  cp1 : Nat
  fom : Nat
  verMax : Nat
  saved : Bool
  token : Nat
  devId : Nat
deriving DecidableEq, Repr

/-- One lane of a port: commas seen while aligning and their polarity, alignment, the lane number the far end
announced, misses in a row, block errors in a row, the seat of training (stage, best setting and figure of merit, setting now asked, its
token, and whether the REPLY has applied it), the taps of the own transmitter, the final figure of merit, the saved
setting and figure, the far side's SAVED and DONE, the test checker (synchronised, errors, bits), whether single
and periodic injection are due, the descrambler's register (R374), the last bits of the test checker, and whether the
lane has shown a comma since DESKEW began. -/
structure NlLane where
  commas : Nat
  inverted : Bool
  aligned : Bool
  laneNo : Option Nat
  missed : Nat
  blockErrs : Nat
  stage : EqStage
  bestCm1 : Nat
  bestCp1 : Nat
  bestFom : Nat
  askCm1 : Nat
  askCp1 : Nat
  token : Nat
  applied : Bool
  cm1 : Nat
  cp1 : Nat
  fom : Nat
  saved : Option (Nat × Nat × Nat)
  farSaved : Bool
  farDone : Bool
  sync : Bool
  errors : Nat
  bitsSeen : Nat
  injectOne : Bool
  injectPeriodic : Bool
  rx : Nat
  window : List Bool
  commaSeen : Bool
deriving DecidableEq, Repr

/-- A lane after reset. -/
def NlLane.init : NlLane :=
  ⟨0, false, false, none, 0, 0, .preset 0, 0, 0, 0, 0, 0, 0, false, 0, 0, 0, none, false, false, false, 0, 0, false,
    false, 0, [], false⟩

/-- A cell without the numbers its sending adds (R394): type, destination, source, FIRST, LAST and the LEN valid bytes. -/
structure NlCell where
  ty : Nat
  dst : Nat
  src : Nat
  first : Bool
  last : Bool
  payload : Bytes
deriving DecidableEq, Repr

/-- A Nuord port. `sub` is the phase of a RETRAIN (0 ALIGN, 1 DESKEW, 2 HANDSHAKE), `skipEq` a bring-up with saved taps
from RACK, `savedTry` the single evaluation of R384, `farRack` a RACK block seen, `fwd` the port that a message being
forwarded takes, by source and destination. The replay buffer holds the sequenced cells not yet acknowledged, oldest first, and `waiting` the
cells that wait for room or for the port; `open_` are the messages being reassembled by source seat (last cell's
payloads so far); `exch` the time exchange in progress (number, t1 in units of 2^-16 ns). -/
structure NlPort where
  state : NlState
  failCause : Nat
  peer : Option (Nat × Nat × Bool)
  peerId : Nat
  version : Nat
  reversed : Bool
  peerEmbedded : Bool
  peerVer : Nat
  lanes : Vector NlLane 4
  retrains : List Nat
  txSeq : Nat
  replay : List (Nat × NlCell)
  waiting : List NlCell
  replayFrom : Option Nat
  replayCount : Nat
  expect : Nat
  nak : Option Nat
  unacked : Nat
  partials : AMap Bytes
  easyTx : Bool
  easyRx : Bool
  injected : Nat
  exchId : Nat
  exch : Option (Nat × Int)
  disturbed : Bool
  delay : Int
  offset : Int
  on : Bool
  sub : Nat
  skipEq : Bool
  savedTry : Bool
  farRack : Bool
  fwd : AMap Nat
deriving DecidableEq, Repr

/-- A port after reset. -/
def NlPort.init : NlPort :=
  ⟨.disabled, 0, none, 0, 0, false, false, 0, Vector.replicate 4 NlLane.init, [], 0, [], [], none, 0, 0, none, 0, [],
    false, false, 0, 0, none, false, 0, 0, false, 0, false, false, false, []⟩

/-- The states of the squad (R404). -/
inductive SqdState where
  | none | forming | formed | broken | failed
deriving DecidableEq, Repr

/-- The code of a squad state (R404). -/
def SqdState.code : SqdState → Nat
  | .none => 0 | .forming => 1 | .formed => 2 | .broken => 3 | .failed => 4

/-- What a seat has told of itself in HELLO (R406). -/
structure HelloInfo where
  verMax : Nat
  seat : Nat
  gen : Nat
  shape : Nat
  size : Nat
  portsUp : Nat
  partMask : Nat
  devId : Nat
  fw : Nat
  partCrc : Nat
deriving DecidableEq, Repr

/-- An UP port of a seat as TOPOLOGY reports it (R405): port, peer seat, peer port. -/
structure TopoLink where
  port : Nat
  peer : Nat
  peerPort : Nat
deriving DecidableEq, Repr

/-- What a member's last HEARTBEAT said (R409, R416), and when it arrived. -/
structure Beat where
  devState : Nat
  sqdState : Nat
  crews : Nat
  mono : Nat
deriving DecidableEq, Repr

/-- A decision of a boundary as the stroke seat sends it (R337): the sequence slots that leave, the appends of fresh
pages and copies (slot, source page, page), evictions (slot, entry), reclaimed nodes, the joins (slot, sequence number), and
the step's rows as the bytes of TD_STEP_IN (R328). -/
structure KvDecision where
  leaves : List Nat
  appends : List (Nat × Option Nat × Nat)
  evicts : List (Nat × Nat)
  reclaims : List Nat
  joins : List (Nat × Nat)
  rows : List Byte
deriving DecidableEq, Repr

/-- The CTRL messages of the squad layer by what they say (R405); the manual gives the bytes of HELLO alone. -/
inductive CtrlMsg where
  | hello (h : HelloInfo)
  | topology (seat : Nat) (links : List TopoLink)
  | form (members version epoch : Nat) (routes : List (Nat × Nat × Nat × Nat))
  | formAck (epoch fault : Nat)
  | heartbeat (devState sqdState crews : Nat)
  | command (code : Nat)
  | commandDone (status armFault : Nat)
  | admitHeat (serial slot plan start : Nat)
  | done (serial : Nat) (invalid : Bool)
  | kvDecision (partition : Nat) (d : KvDecision)
  | kvReport (partition : Nat) (masses fills : List (Nat × Nat × Nat))
  | load (slot : Nat) (container : Bytes)
  | unload (slot : Nat)
  | loadResult (status fault : Nat)
  | broken (seat cause : Nat)
deriving DecidableEq, Repr

/-- The MTYPE of a message (R405). The stroke seat's order to unload (R412) travels as a LOAD message
(notes/assumptions/25.md). -/
def CtrlMsg.mtype : CtrlMsg → Nat
  | .hello _ => 1 | .topology _ _ => 2 | .form _ _ _ _ => 3 | .formAck _ _ => 4 | .heartbeat _ _ _ => 5 | .command _ => 6
  | .commandDone _ _ => 7 | .admitHeat _ _ _ _ => 8 | .done _ _ => 9 | .kvDecision _ _ => 0x0A | .kvReport _ _ _ => 0x0B
  | .load _ _ => 0x0C | .unload _ => 0x0C | .loadResult _ _ => 0x0D | .broken _ _ => 0x0E

/-- A spanning heat under way (R416): its serial, package slot, plan, start time in ns, the seats whose DONE is still
to come, whether a DONE carried INVALID, whether this seat's part has begun, and the samples that a decode heat could not read
(R429). -/
structure Span where
  serial : Nat
  slot : Nat
  plan : Nat
  start : Nat
  waiting : Nat
  invalid : Bool
  begun : Bool
  unread : List Nat
deriving DecidableEq, Repr

/-- A command carried to every seat (R408): its code, where the answer goes, the seats still to answer, and the first
failing answers by seat (code, arm fault). -/
structure SqdCmd where
  code : Nat
  waiting : Nat
  failed : List (Nat × Nat × Nat)
  armed : Nat
  reply : Origin
deriving DecidableEq, Repr

/-- A load carried to every seat (R412): where the answer goes, the slot, the seats still to answer, the seats that
loaded it, and the refusals by seat (seat, response code, RP_LAST_FAULT). -/
structure SqdLoad where
  slot : Nat
  waiting : Nat
  loaded : Nat
  refused : List (Nat × Nat × Nat)
  reply : Origin
deriving DecidableEq, Repr

/-- The squad: ports, state, members, the values of R420, what the other seats have told, the route table (next seat,
port mask, hops, bound in ns) by seat, the seats whose FORM_ACK is still to come, the last heartbeats, the command and
the load under way, the spanning heats, and the masses and fill counts that seats have reported, a seat that two devices report, the members
lost, and the DATA packets and CTRL messages that have arrived (R399). -/
structure Squad where
  ports : Vector NlPort 8
  state : SqdState
  stroke : Option Nat
  members : Nat
  version : Nat
  epoch : Nat
  formFault : Nat
  loadSeat : Option Nat
  cmdFaultSeat : Option Nat
  hellos : AMap HelloInfo
  topo : AMap (List TopoLink)
  routes : AMap (Nat × Nat × Nat × Nat)
  acks : Nat
  beats : AMap Beat
  cmd : Option SqdCmd
  load : Option SqdLoad
  spans : List Span
  reports : List (Nat × List (Nat × Nat × Nat) × List (Nat × Nat × Nat))
  dup : Option Nat
  lost : Nat
  arrived : List Bytes
  inbox : List (Nat × Bytes)
deriving DecidableEq, Repr

/-- The squad after BOOT (R420). -/
def Squad.init : Squad :=
  ⟨Vector.replicate 8 NlPort.init, .none, none, 0, 0, 0, 0, none, none, [], [], [], 0, [], none, none, [], [], none, 0, [], []⟩

end Sys2Proof.Machine
end

