-- ==== Sys2Proof/Machine/TyTime.lean ====
section
/-! DEFINITION. The state of the time unit, the field network ports and the gPTP instance (R485 to R510). -/

namespace Sys2Proof.Machine

open Sys2Proof

/-- The states of the time unit (R498). -/
inductive TsState where
  | free | acquiring | locked | holdover | lost
deriving DecidableEq, Repr

/-- The code of a time unit state (R498). -/
def TsState.code : TsState → Nat
  | .free => 0 | .acquiring => 1 | .locked => 2 | .holdover => 3 | .lost => 4

/-- The time unit: `TS_MONO`; network time as seconds and units of 2^-48 ns below a second (R495); the servo's I and r
in units of 2^-16 ppb (R497); the last offset; the state and its run of good measurements. -/
structure TimeUnit where
  mono : Nat
  sec : Nat
  sub : Nat
  servoI : Int
  rate : Int
  offset : Int
  state : TsState
  good : Nat
deriving DecidableEq, Repr

/-- A frame that waits in a transmit queue (R487): its bytes from the destination address on, and for a gPTP event
message its type, domain and sequence number. -/
structure TxFrame where
  bytes : Bytes
  event : Option (Nat × Nat × Nat)
deriving DecidableEq, Repr

/-- An entry of the transmit timestamp queue (R504). -/
structure TxStamp where
  msgType : Nat
  domain : Nat
  seqId : Nat
  ovf : Bool
  time : NetTime
deriving DecidableEq, Repr

/-- A gate control list (R489): base, cycle length and (gates, duration) entries. -/
structure GateList where
  base : Nat
  cycle : Nat
  entries : List (Nat × Nat)
deriving DecidableEq, Repr

/-- A field network port: link, rate code, the four transmit queues, the
list in force, the list that waits for its start (in ns of network time), the transmit timestamp queue and its overflow mark, and the state of
its PTP port, and whether the port is on (R485 to R508). -/
structure FnetPort where
  linkUp : Bool
  rate : Nat
  queues : Vector (List TxFrame) 4
  gate : Option GateList
  nextGate : Option (Nat × GateList)
  txq : List TxStamp
  txqOvf : Bool
  ptpState : Nat
  linkDelay : Int
  nrr : Int
  asCapable : Bool
  syncSeq : Nat
  pdelaySeq : Nat
  announceSeq : Nat
  on : Bool
deriving DecidableEq, Repr

/-- The field network and its gPTP instance. -/
structure FieldNet where
  ports : Vector FnetPort 2
  gmId : Nat
  gmPriority : Option (Nat × Nat × Nat × Nat × Nat)
  utcOffset : Option Nat
deriving DecidableEq, Repr

/-- What the gPTP instance reads (R501, R502): its ports, the grandmaster it follows, and the committed settings. -/
structure GptpView where
  ports : List FnetPort
  gmId : Nat
  clockId : Nat
  domain : Nat
  priority1 : Nat
  priority2 : Nat
  extCfg : Bool
  portCfg : List Nat
  enabled : List Bool
  asymPs : List Int
deriving DecidableEq, Repr

/-- The state of one PTP port after a message: PTP_PORT_STATE, PTP_LINK_DELAY, PTP_NRR, PTP_AS_CAPABLE (R507). -/
structure GptpPort where
  state : Nat
  linkDelay : Int
  nrr : Int
  asCapable : Bool
deriving DecidableEq, Repr, Inhabited

/-- What the gPTP instance makes of a message: whether it is discarded (R501), its two ports, the grandmaster (none: the
device itself), the UTC offset of an Announce while the device is a slave (R502), the measurement θ of the slave port
in units of 2^-16 ns (R496), and whether a Pdelay_Req asks for the response that carries a sequence number. -/
structure GptpResult where
  discard : Bool
  port0 : GptpPort
  port1 : GptpPort
  gm : Option Nat
  utc : Option Nat
  theta : Option Int
  respond : Option Nat
deriving DecidableEq, Repr, Inhabited

/-- The gPTP messages that the device sends (R501: two-step). -/
inductive GptpKind where
  | sync | followUp | pdelayReq | pdelayResp | pdelayRespFollowUp | announce
deriving DecidableEq, Repr

/-- A gPTP message to be sent, with what it says (R502). -/
structure GptpSend where
  kind : GptpKind
  clockId : Nat
  domain : Nat
  port : Nat
  seqId : Nat
  time : NetTime
  clockClass : Nat
  clockAccuracy : Nat
  timeSource : Nat
  utcOffset : Nat
  priority1 : Nat
  priority2 : Nat
deriving DecidableEq, Repr

/-- A port after reset. -/
def FnetPort.init : FnetPort :=
  ⟨false, 0, Vector.replicate 4 [], none, none, [], false, 0, 0, 0, false, 0, 0, 0, false⟩

end Sys2Proof.Machine
end

