-- ==== Sys2Proof/Machine/Arith.lean ====
section
/-! DEFINITION. Number formats, exact values, the one rounding of a stored value, and the long accumulator and the canonical tree (R79 to R106). -/

namespace Sys2Proof.Machine

open Sys2Proof

/-- The exact value of an element: NaN, an infinity, or a signed rational `n / d` (a zero keeps its sign). -/
inductive ExactNum where
  | nan
  | inf (neg : Bool)
  | fin (neg : Bool) (n d : Nat)
deriving DecidableEq, Repr

/-- The value of an integer. -/
def ExactNum.ofInt (i : Int) : ExactNum := .fin (decide (i < 0)) i.natAbs 1

/-- `(-1)^neg * m * 2^e`. -/
def ExactNum.scaled (neg : Bool) (m : Nat) (e : Int) : ExactNum :=
  if 0 ≤ e then .fin neg (m * 2 ^ e.toNat) 1 else .fin neg m (2 ^ (-e).toNat)

/-- Is the value a zero? -/
def ExactNum.isZero : ExactNum → Bool
  | .fin _ n _ => n == 0
  | _ => false

/-- The sign of a value; NaN has none. -/
def ExactNum.neg? : ExactNum → Bool
  | .nan => false
  | .inf s => s
  | .fin s _ _ => s

/-- The numerator with its sign. -/
def signedNum (s : Bool) (n : Nat) : Int := if s then -(n : Int) else n

/-- Exact addition with the IEEE 754 rules for infinities, NaN and signed zeros (R98). -/
def ExactNum.add : ExactNum → ExactNum → ExactNum
  | .nan, _ => .nan
  | _, .nan => .nan
  | .inf s, .inf t => if s = t then .inf s else .nan
  | .inf s, _ => .inf s
  | _, .inf t => .inf t
  | .fin s n d, .fin t m e =>
    if n = 0 ∧ m = 0 then .fin (s && t) 0 1
    else
      let x := signedNum s n * e + signedNum t m * d
      .fin (decide (x < 0)) x.natAbs (d * e)

/-- The value with its sign changed. -/
def ExactNum.negate : ExactNum → ExactNum
  | .nan => .nan
  | .inf s => .inf !s
  | .fin s n d => .fin (!s) n d

/-- Exact multiplication with the IEEE 754 rules (R98). -/
def ExactNum.mul : ExactNum → ExactNum → ExactNum
  | .nan, _ => .nan
  | _, .nan => .nan
  | .inf s, .inf t => .inf (s != t)
  | .inf s, .fin t m _ => if m = 0 then .nan else .inf (s != t)
  | .fin s n _, .inf t => if n = 0 then .nan else .inf (s != t)
  | .fin s n d, .fin t m e => .fin (s != t) (n * m) (d * e)

/-- `a ≤ b` for values that are not NaN; the zeros compare equal. -/
def ExactNum.le : ExactNum → ExactNum → Bool
  | .nan, _ => false
  | _, .nan => false
  | .inf true, _ => true
  | _, .inf false => true
  | .inf false, .inf true => false
  | .inf false, .fin _ _ _ => false
  | .fin _ _ _, .inf true => false
  | .fin s n d, .fin t m e => decide (signedNum s n * e ≤ signedNum t m * d)

/-- `a < b`. -/
def ExactNum.lt (a b : ExactNum) : Bool := ExactNum.le a b && !ExactNum.le b a

/-- `a = b` as values. -/
def ExactNum.eqv (a b : ExactNum) : Bool := ExactNum.le a b && ExactNum.le b a

/-- Round half to even of a positive rational. -/
def rheNat (n d : Nat) : Nat :=
  let q := n / d
  let r := n % d
  if 2 * r < d then q else if d < 2 * r then q + 1 else if q % 2 = 0 then q else q + 1

/-- Round half to even of a signed rational. -/
def rheRat (s : Bool) (n d : Nat) : Int := signedNum s (rheNat n d)

/-- The floor of log2 (n / d) for a positive rational. -/
def log2Rat (n d : Nat) : Int :=
  let e : Int := (Nat.log2 n : Int) - Nat.log2 d
  if 0 ≤ e then (if d * 2 ^ e.toNat ≤ n then e else e - 1)
  else (if d ≤ n * 2 ^ (-e).toNat then e else e - 1)

/-- A floating-point format of R82: exponent and fraction widths, bias, and whether it has infinities. -/
structure FloatFmt where
  ebits : Nat
  fbits : Nat
  bias : Nat
  hasInf : Bool
deriving DecidableEq, Repr

/-- F8A, F8B, BF16, FP16 and FP32 (R82, R83). -/
def f8a : FloatFmt := ⟨4, 3, 7, false⟩
def f8b : FloatFmt := ⟨5, 2, 15, true⟩
def bf16 : FloatFmt := ⟨8, 7, 127, true⟩
def fp16 : FloatFmt := ⟨5, 10, 15, true⟩
def fp32 : FloatFmt := ⟨8, 23, 127, true⟩

/-- The sign bit of a format in place. -/
def FloatFmt.sign (f : FloatFmt) (s : Bool) : Nat := if s then 2 ^ (f.ebits + f.fbits) else 0

/-- The largest encoding of a finite magnitude: 0x7E for F8A (R83). -/
def FloatFmt.maxEnc (f : FloatFmt) : Nat :=
  if f.hasInf then (2 ^ f.ebits - 1) * 2 ^ f.fbits - 1 else 2 ^ (f.ebits + f.fbits) - 2

/-- The encoding of +infinity where the format has one. -/
def FloatFmt.infEnc (f : FloatFmt) : Nat := (2 ^ f.ebits - 1) * 2 ^ f.fbits

/-- The canonical NaN (R83): all-ones exponent with the top fraction bit; 0x7F for F8A. -/
def FloatFmt.nanEnc (f : FloatFmt) : Nat :=
  if f.hasInf then f.infEnc + 2 ^ (f.fbits - 1) else 2 ^ (f.ebits + f.fbits) - 1

/-- The value of an encoding (R82, R83). -/
def FloatFmt.decode (f : FloatFmt) (v : Nat) : ExactNum :=
  let s := v.testBit (f.ebits + f.fbits)
  let m := v % 2 ^ (f.ebits + f.fbits)
  let e := m / 2 ^ f.fbits
  let x := m % 2 ^ f.fbits
  if f.hasInf && e == 2 ^ f.ebits - 1 then (if x = 0 then .inf s else .nan)
  else if !f.hasInf && m == 2 ^ (f.ebits + f.fbits) - 1 then .nan
  else if e = 0 then .scaled s x (1 - (f.bias : Int) - f.fbits)
  else .scaled s (2 ^ f.fbits + x) ((e : Int) - f.bias - f.fbits)

/-- Overflow and infinities (R101). -/
def FloatFmt.over (f : FloatFmt) (sat s : Bool) : Nat :=
  if sat then f.sign s + f.maxEnc else if f.hasInf then f.sign s + f.infEnc else f.nanEnc

/-- The encoding of a positive magnitude rounded to nearest, ties to even, with the exponent unbounded above: the
significand and the exponent of its unit (R100). -/
def FloatFmt.roundMag (f : FloatFmt) (n d : Nat) : Nat × Int :=
  let q := max (log2Rat n d - f.fbits) (1 - (f.bias : Int) - f.fbits)
  let m := if 0 ≤ q then rheNat n (d * 2 ^ q.toNat) else rheNat (n * 2 ^ (-q).toNat) d
  (m, q)

/-- Storing a value in a floating-point format (R100, R101). -/
def FloatFmt.encode (f : FloatFmt) (sat : Bool) : ExactNum → Nat
  | .nan => f.nanEnc
  | .inf s => f.over sat s
  | .fin s n d =>
    if n = 0 then f.sign s
    else
      let (m, q) := f.roundMag n d
      let enc : Nat :=
        if m < 2 ^ f.fbits then m
        else
          let e := (q + f.fbits + f.bias).toNat
          if m < 2 ^ (f.fbits + 1) then e * 2 ^ f.fbits + (m - 2 ^ f.fbits) else (e + 1) * 2 ^ f.fbits
      if f.maxEnc < enc then f.over sat s else f.sign s + enc

/-- FP32 addition and multiplication of R96, on encodings. -/
def fadd32 (a b : Nat) : Nat := fp32.encode false ((fp32.decode a).add (fp32.decode b))
def fmul32 (a b : Nat) : Nat := fp32.encode false ((fp32.decode a).mul (fp32.decode b))

/-- The classes of R86 by format code; FP32 and reserved codes have none. -/
inductive FmtClass where
  | integer | f8 | half | block | none_
deriving DecidableEq, Repr

/-- The class of a format code (R79, R86). -/
def fmtClass (c : Nat) : FmtClass :=
  if c ≤ 2 then .integer else if c ≤ 4 then .f8 else if c ≤ 6 then .half
  else if 8 ≤ c ∧ c ≤ 10 then .block else .none_

/-- Is the code a block format? -/
def isZb (c : Nat) : Bool := decide (8 ≤ c) && decide (c ≤ 10)

/-- The mantissa width of a block format: 8, 6 or 4 (R84). -/
def zbWidth (c : Nat) : Nat := if c = 8 then 8 else if c = 9 then 6 else 4

/-- The bits of an element that is not in a block. -/
def fmtBits (c : Nat) : Nat :=
  match c with
  | 2 => 4 | 5 => 16 | 6 => 16 | 7 => 32 | _ => 8

/-- The floating-point format of a code. -/
def floatOf (c : Nat) : Option FloatFmt :=
  match c with
  | 3 => some f8a | 4 => some f8b | 5 => some bf16 | 6 => some fp16 | 7 => some fp32 | _ => none

/-- The bounds of an integer format (R81). -/
def intRange (c : Nat) : Int × Int :=
  match c with | 0 => (-128, 127) | 1 => (0, 255) | _ => (-8, 7)

/-- The value of an element that is not in a block. -/
def elemValue (c v : Nat) : ExactNum :=
  match floatOf c with
  | some f => f.decode v
  | none => match c with
    | 0 => .ofInt (asInt 8 v)
    | 1 => .ofInt (v % 256 : Nat)
    | _ => .ofInt (asInt 4 v)

/-- The integer that a value becomes (R102), the zero point `z` added after rounding. -/
def toIntFmt (c : Nat) (z : Int) : ExactNum → Int
  | .nan => 0
  | .inf s => if s then (intRange c).1 else (intRange c).2
  | .fin s n d => clampInt (rheRat s n d + z) (intRange c).1 (intRange c).2

/-- An element stored in a format that is not a block format (R100 to R102). -/
def elemStore (c : Nat) (sat : Bool) (z : Int) (x : ExactNum) : Nat :=
  match floatOf c with
  | some f => f.encode sat x
  | none => ofInt (fmtBits c) (toIntFmt c z x)

/-- The values of a block (R85), as many as `w`-bit mantissas it holds. -/
def zbValues (c : Nat) (b : Bytes) : List ExactNum :=
  let w := zbWidth c
  let v := leNat (fit b (1 + 4 * w))
  let e := bits v 5 0
  (List.range 32).map (fun i =>
    if e = 63 then .nan
    else
      let m := asInt w (v >>> (8 + w * i))
      .scaled (decide (m < 0)) m.natAbs ((e : Int) - 30 - w))

/-- A value over the unit `2^(e - 30 - w)`, rounded (R103); none for an infinity or NaN. -/
def zbQuot (w e : Nat) : ExactNum → Option Int
  | .fin s n d =>
    let k : Int := (e : Int) - 30 - w
    some (if 0 ≤ k then rheRat s n (d * 2 ^ k.toNat) else rheRat s (n * 2 ^ (-k).toNat) d)
  | _ => none

/-- A mantissa limited to its width. -/
def zbClamp (w : Nat) (i : Int) : Int := clampInt i (-(2 ^ (w - 1) : Nat)) ((2 ^ (w - 1) : Nat) - 1)

/-- The mantissa at E = 62 with SAT (R103): infinities clamp by sign. -/
def zbSat (w : Nat) (x : ExactNum) : Int :=
  match zbQuot w 62 x with
  | some i => zbClamp w i
  | none => if x.neg? then -(2 ^ (w - 1) : Nat) else (2 ^ (w - 1) : Nat) - 1

/-- The bytes of a block of exponent `e` and mantissas `ms` (R84). -/
def zbBytes (w e : Nat) (ms : List Int) : Bytes :=
  leBytes (1 + 4 * w) (pack ((6, e) :: (2, 0) :: ms.map (fun m => (w, ofInt w m))))

/-- A block formed from up to 32 values (R103). -/
def zbStore (c : Nat) (sat : Bool) (xs : List ExactNum) : Bytes :=
  let w := zbWidth c
  if xs.any (fun x => decide (x = .nan)) then zbBytes w 63 []
  else
    let fits (e : Nat) : Bool := xs.all (fun x =>
      match zbQuot w e x with | some i => decide (zbClamp w i = i) | none => false)
    match (List.range 63).find? fits with
    | some e => zbBytes w e (xs.map (fun x => (zbQuot w e x).getD 0))
    | none => if sat then zbBytes w 62 (xs.map (zbSat w)) else zbBytes w 63 []

/-- The grain of an exact-class format (R87). -/
def grain (c : Nat) : Nat :=
  match c with | 3 => 9 | 4 => 16 | 8 => 38 | 9 => 36 | 10 => 34 | _ => 0

/-- The integer `q` of a finite value at a grain: `x = q * 2^-g` (R87). -/
def atGrain (g : Nat) : ExactNum → Int
  | .fin s n d => signedNum s (n * 2 ^ g / d)
  | _ => 0

/-- A long accumulator with its flags (R88). -/
structure LongAcc where
  acc : Int
  nan : Bool
  pinf : Bool
  ninf : Bool
deriving DecidableEq, Repr

/-- An empty accumulator. -/
def LongAcc.zero : LongAcc := ⟨0, false, false, false⟩

/-- Add one product of two operands at the grains of their formats (R88). -/
def LongAcc.mac (a : LongAcc) (g1 g2 : Nat) (x y : ExactNum) : LongAcc :=
  match x.mul y with
  | .nan => { a with nan := true }
  | .inf s => if s then { a with ninf := true } else { a with pinf := true }
  | .fin _ _ _ => { a with acc := a.acc + atGrain g1 x * atGrain g2 y }

/-- Two partial sums combine (R92). -/
def LongAcc.join (a b : LongAcc) : LongAcc :=
  ⟨asInt 176 (ofInt 176 (a.acc + b.acc)), a.nan || b.nan, a.pinf || b.pinf, a.ninf || b.ninf⟩

/-- The state after the last product (R90), at anchor `an`. -/
def LongAcc.value (a : LongAcc) (an : Nat) : ExactNum :=
  if a.nan || (a.pinf && a.ninf) then .nan
  else if a.pinf then .inf false
  else if a.ninf then .inf true
  else .scaled (decide (a.acc < 0)) a.acc.natAbs (-(an : Int))

/-- The partial-sum word of R91. -/
def LongAcc.word (a : LongAcc) (an : Nat) : Bytes :=
  packBytes 24 [(176, ofInt 176 a.acc), (1, b2n a.nan), (1, b2n a.pinf), (1, b2n a.ninf), (1, 0), (4, 1), (8, an)]

/-- A received partial-sum word, where VERSION is 1 and the reserved bit 0 (R92), with its anchor. -/
def LongAcc.ofWord (b : Bytes) : Option (LongAcc × Nat) :=
  let v := leNat (fit b 24)
  if v.testBit 179 ∨ bits v 183 180 ≠ 1 then none
  else some (⟨asInt 176 v, v.testBit 176, v.testBit 177, v.testBit 178⟩, bits v 191 184)

/-- The products of one K-block in the half class (R93): the leaf, as FP32. -/
def leaf (ps : List ExactNum) : Nat :=
  if ps.any (fun p => decide (p = .nan)) || (ps.contains (.inf false) && ps.contains (.inf true)) then fp32.nanEnc
  else if ps.contains (.inf false) then fp32.infEnc
  else if ps.contains (.inf true) then fp32.sign true + fp32.infEnc
  else if ps.all (fun p => p.isZero && p.neg?) then fp32.sign true
  else fp32.encode false (match ps.foldl ExactNum.add (.fin false 0 1) with
    | .fin s n d => if n = 0 then .fin false 0 1 else .fin s n d
    | x => x)

/-- The half-class entry of a foot or of an accumulator: a stack of FP32 nodes, the top first, and the leaf count
(R118, R120, R131). -/
structure HalfStack where
  stack : List Nat
  leaves : Nat
deriving DecidableEq, Repr

/-- Close the completed pairs that a leaf count `c` ends (R120); `n` bounds the pairs. -/
def closePairs : Nat → Nat → List Nat → List Nat
  | 0, _, s => s
  | n + 1, c, s =>
    if c % 2 = 1 then s
    else match s with
      | r :: l :: t => closePairs n (c / 2) (fadd32 l r :: t)
      | s => s

/-- A leaf enters an entry (R120). -/
def HalfStack.push (h : HalfStack) (leaf : Nat) : HalfStack :=
  let c := h.leaves + 1
  ⟨if c = 0 then leaf :: h.stack else closePairs (Nat.log2 c + 1) c (leaf :: h.stack), c⟩

/-- The node that is left after the last leaf (R120); +0 for no leaf (R94). -/
def foldStack : List Nat → Nat
  | [] => 0
  | r :: t => t.foldl (fun r l => fadd32 l r) r

/-- The root of R94 over a list of leaves: they enter in order. -/
def halfRoot (leaves : List Nat) : Nat := foldStack (leaves.foldl HalfStack.push ⟨[], 0⟩).stack

/-- The readout parameters of a column (R97, R148). -/
structure ReadParam where
  bias : Nat
  scale : Nat
  zp : Int
deriving DecidableEq, Repr

/-- The clamp of R99. -/
def clampNum (x lo hi : ExactNum) : ExactNum :=
  match x with
  | .nan => .nan
  | x => if x.le lo then lo else if hi.le x then hi else x

/-- The readout of an exact-class state (R98, R99): the value before it is stored. -/
def readExact (integer : Bool) (v : ExactNum) (p : ReadParam) (lo hi : Nat) : ExactNum :=
  let b := if integer then ExactNum.ofInt (asInt 32 p.bias) else fp32.decode p.bias
  clampNum ((v.add b).mul (fp32.decode p.scale)) (fp32.decode lo) (fp32.decode hi)

/-- The readout of a half-class root (R99). -/
def readHalf (root : Nat) (p : ReadParam) (lo hi : Nat) : ExactNum :=
  clampNum (fp32.decode (fmul32 (fadd32 root p.bias) p.scale)) (fp32.decode lo) (fp32.decode hi)

/-- The residue of R124 of an integer in units of 2^0: `q mod 65535`. -/
def residue (q : Int) : Nat := (q % 65535).toNat

end Sys2Proof.Machine
end

