-- ==== Sys2Proof/Machine/TyUnit.lean ====
section
/-! DEFINITION. Stream packets, shells, oars, the memories, and the errors that reach a memory read (R20, R41, R110 to R129, R154 to R186, R271 to R279). -/

namespace Sys2Proof.Machine

open Sys2Proof

/-- A stream packet as it arrives (R20, R21): its header, its payload, and the rota slot it came in (slot-time, lane of
R179, direction), if it came in one. -/
structure Packet where
  header : BitVec 192
  payload : Bytes
  slot : Option (Nat × Nat × Nat)
deriving DecidableEq, Repr

/-- A weight tile in a buffer of a shell (R114, R115): its tag (heat serial, stroke, pass, K-block), the operands of its columns (none: synthesized, masked), the
checksum operand of every row (R125), and the CK_SH cycle in which its load completes. -/
structure Tile where
  serial : Nat
  stroke : Nat
  pass : Nat
  kblock : Nat
  cols : List (List (Option ExactNum))
  check : List Nat
  loaded : Nat
deriving DecidableEq, Repr

/-- One entry of a foot (R118): the long accumulator with its residue (R127), and the half-class stack. -/
structure FootEntry where
  acc : LongAcc
  res : Nat
  half : HalfStack
deriving DecidableEq, Repr

/-- One row of a foot: the pass it belongs to, the K-blocks added so far, and the entries of its 32 columns. -/
structure FootRow where
  serial : Nat
  stroke : Nat
  pass : Nat
  blocks : Nat
  cols : List FootEntry
deriving DecidableEq, Repr

/-- A packet in a shell's input stage (R116): a weight tile, or the wavefront of a row. -/
structure HeldPacket where
  tile : Bool
  pass : Nat
  kblock : Nat
  row : Nat
  packet : Packet
  upset : Option (Nat × Int)
  rails : Bool
deriving DecidableEq, Repr

/-- A physical shell (R110 to R118): its two buffers, the CK_SH cycle from which each may be loaded again, the foot by row,
the held packets, oldest first, and the (serial, stroke) pairs it accepts no further wavefront of (R129). -/
structure Shell where
  bufs : Vector (Option Tile) 2
  freeAt : Vector Nat 2
  foot : AMap FootRow
  held : List HeldPacket
  refused : List (Nat × Nat)
deriving DecidableEq, Repr

/-- A shell after BOOT. -/
def Shell.init : Shell := ⟨Vector.replicate 2 none, Vector.replicate 2 0, [], [], []⟩

/-- An access of an oar outside its local memory that has not returned (R158, R161): its oar address, bytes (1, 2, 4 or 64), the
value or bytes stored (none: a load), what the load fills: register, sign extension, floating-point register, local
address of SLV.GET; the pc after it, and the `TS_MONO` of its issue. -/
structure OarAccess where
  addr : Nat
  size : Nat
  store : Option Bytes
  rd : Nat
  signed : Bool
  fp : Bool
  local_ : Option Nat
  next : Nat
  issued : Nat
deriving DecidableEq, Repr

/-- What a sliver waits for (R276 to R278): nothing, a place in a neighbour's inbox for a record, a record, or a barrier. -/
inductive OarWait where
  | none
  | send (right : Bool) (record : Bytes) (next : Nat)
  | recv (right : Bool) (addr rd next : Nat)
  | bar (next : Nat)
deriving DecidableEq, Repr

/-- A sliver's invocation on a logical oar (R273 to R279): the heat's serial, stroke, pass, sliver index and invocation number, the registers, pc,
fflags, retired instructions, the outstanding access, what it waits for, the records in its inboxes, oldest first, the records
sent to it that have not arrived, and the barriers it has executed. -/
structure Oar where
  serial : Nat
  stroke : Nat
  pass : Nat
  sliver : Nat
  iter : Nat
  x : Vector (BitVec 32) 32
  f : Vector (BitVec 32) 32
  pc : Nat
  fflags : Nat
  instret : Nat
  access : Option OarAccess
  wait : OarWait
  left : List Bytes
  right : List Bytes
  fromLeft : List Bytes
  fromRight : List Bytes
  bars : Nat
deriving DecidableEq, Repr

/-- An error that a memory read finds (R155): the memory (code of `MEM_LAST_ERR`), the crew, the byte offset, and whether it
is uncorrectable. -/
structure EccError where
  mem : Fin 5
  crew : Fin 6
  offset : BitVec 48
  fatal : Bool
deriving DecidableEq, Repr

/-- The memories (R154): scratch by crew, the line store, the commons, oar local memory by crew × 512 + logical oar,
usable LPDDR5, the bits of LPDDR5 groups that hold an error, by group (R186), the data of the last group delivered through the
hub with its number, and `MEM_LAST_ERR`. -/
structure Mem where
  scratch : Vector Memory 6
  lineStore : Memory
  commons : Memory
  oarLocal : AMap Memory
  lpddr : Memory
  lpddrErr : AMap (List Nat)
  hub : Option (Nat × Bytes)
  lastErr : Nat
deriving DecidableEq, Repr

/-- Empty memories (notes/assumptions/2.md). -/
def Mem.init : Mem := ⟨Vector.replicate 6 [], [], [], [], [], [], none, 0⟩

/-- The compute units: the shells by crew × 68 + physical shell, the running slivers by crew × 512 + logical oar, the image
an oar's local memory was loaded for (serial, stroke) by the same key, the slivers of invocations in progress that have ended
(serial, stroke, pass, sliver) with whether they ended well, and the counts of R284 with the last oar fault. -/
structure Units where
  shells : AMap Shell
  oars : AMap Oar
  loaded : AMap (Nat × Nat)
  ended : List ((Nat × Nat × Nat × Nat) × Bool)
  invocations : Nat
  lastFault : Nat
  pressBlocks : Nat
  cropSlots : Nat
deriving DecidableEq, Repr

/-- The units after BOOT. -/
def Units.init : Units := ⟨[], [], [], [], 0, 0, 0, 0⟩

end Sys2Proof.Machine
end

