-- ==== Sys2Proof/Syntax.lean ====
section
/-! DEFINITION. The commands of the device: one constructor for each row of the table of operations and events, with what the row carries from outside. A request of the object dictionary protocol carries its envelope (R513) and its operands; a physical event carries what was measured. -/

namespace Sys2Proof

open Machine

/-- The commands, in the order of the table. -/
inductive Instr where
  /-- POWER_UP (R28): Supplies ramp up while PORST_N is low and the device goes from OFF to RESET. -/
  | powerUp
  /-- PORST_N_ASSERT (R28): PORST_N driven low puts the device into RESET from any powered state. -/
  | porstNAssert
  /-- PORST_N_RELEASE (R28): PORST_N released with supplies in range starts BOOT. -/
  | porstNRelease
  /-- JTAG_RESET (R631): A JTAG reset puts the device into RESET. -/
  | jtagReset
  /-- SUPPLY_LOSS (R28): Loss of supply takes the device to OFF from any powered state. -/
  | supplyLoss
  /-- SUPPLY_BROWNOUT (R625): VDD_CORE or VDD_IO18 below its brown-out level for 1 µs forces RESET, held until both supplies recover for 1 ms. -/
  | supplyBrownout (io18 : Bool) (uv : (BitVec 32))
  /-- SUPPLY_OUT_OF_WINDOW (R625): A supply outside its window for more than 2 µs enters SAFE with cause SUPPLY and counts a glitch. -/
  | supplyOutOfWindow (rail : (Fin 11)) (uv : (BitVec 32))
  /-- SUPPLY_GLITCH (R625): A supply outside its window for 100 ns to 2 µs only advances LINT_SUP_GLITCH. -/
  | supplyGlitch (rail : (Fin 11))
  /-- RIGGER_LINK_LOSS (R625): VRIG outside its window, or the isolator link down after it was once up, enters SAFE with cause RIGGER. -/
  | riggerLinkLoss (vrig : Bool)
  /-- RIGGER_LINK_UP (R626): Once VRIG is applied the rigger link comes up, with every output off. -/
  | riggerLinkUp
  /-- RIGGER_HEARTBEAT_LOSS (R11): No valid hull heartbeat for 100 µs makes the rigger switch off all field outputs and hold ENCO low. -/
  | riggerHeartbeatLoss
  /-- RIGGER_HEARTBEAT_RETURN (R11): The heartbeat returns and the coach releases the rigger hold on the outputs. -/
  | riggerHeartbeatReturn
  /-- ROOT_PLL_UNLOCK (R19): The independent monitor detects root PLL loss of lock and the device enters SAFE with cause CLOCK, or acts as R34 gives. -/
  | rootPllUnlock
  /-- THERM_SAMPLE (R635): Every 100 µs the junction sensors are sampled, L_T is recomputed, and a reading of 115 °C enters SAFE with cause THERM. -/
  | thermSample (temps : (Vector (BitVec 16) 34)) (power : (BitVec 16)) (rails : (Vector (BitVec 32) 12))
  /-- COACH_WATCHDOG_EXPIRY (R597): The coach watchdog expires, for example on a boot step overrun, and the device enters RESET. -/
  | coachWatchdogExpiry
  /-- COACH_HEARTBEAT_MISS (R562): The 1 ms cross-heartbeat check finds two missed heartbeats in a row and the device enters SAFE with cause FIRMWARE. -/
  | coachHeartbeatMiss (pair : (Fin 2))
  /-- LOCKSTEP_MISMATCH (R562): A lockstep mismatch in either coach pair enters SAFE with cause LOCKSTEP. -/
  | lockstepMismatch (pair : (Fin 2))
  /-- BOOT_STEP (R596): The next boot step starts once the previous step has completed, within its cold or warm bound. -/
  | bootStep (r : StepReport)
  /-- NONE (R38): Command NONE takes no action. -/
  | commandNone (e : Envelope)
  /-- ARM (R38): Command ARM checks that no group holds shadows, runs the ARM checks, and has the cox build the rota and reserve the windows. -/
  | arm (e : Envelope)
  /-- ARM_DONE (R39): ARM completes: ARMED is reached and OK is sent, or it fails with ERR_STATE and DEV_ARM_FAULT set. -/
  | armDone
  /-- DISARM (R38): Command DISARM returns to INERT, clears the fire list and clears the enables of R32. -/
  | disarm (e : Envelope)
  /-- START (R38): Command START enables admission and enters RUN or DEGRADED. -/
  | start (e : Envelope)
  /-- STOP (R30): Command STOP stops admission and swath hand-off, cancels queued BACKGROUND requests, and gives UNDECIDED to undecided parts. -/
  | stop (e : Envelope)
  /-- STOP_TO_ARMED (R30): Once no heat other than a SWATCH heat remains, the device moves from RUN or DEGRADED to ARMED. -/
  | stopToArmed
  /-- SAFE (R38): Command SAFE enters SAFE with cause FORCED. -/
  | safe (e : Envelope)
  /-- SAFE_ACK (R38): Command SAFE_ACK goes from SAFE to INERT if every latched cause is acknowledgeable and gone. -/
  | safeAck (e : Envelope)
  /-- WARM_RESTART (R610): Command WARM_RESTART turns outputs off, stores SAF_LOST_US, writes the slot table, puts LPDDR5 in self-refresh and enters BOOT. -/
  | warmRestart (e : Envelope)
  /-- RESET (R38): Command RESET performs a full reset. -/
  | reset (e : Envelope)
  /-- OPEN (R517): An OPEN request opens a MONITOR or CONTROL session, negotiates the version and returns the handle and tag. -/
  | openSession (e : Envelope) (data : Bytes)
  /-- CLOSE (R518): A CLOSE request closes its session. -/
  | closeSession (e : Envelope)
  /-- KEEPALIVE (R514): A KEEPALIVE request keeps its session open. -/
  | keepalive (e : Envelope)
  /-- READ (R523): A READ request returns an entry's committed or shadow value, or a segment of a DOMAIN snapshot. -/
  | read (e : Envelope) (index : (BitVec 16)) (sub : (BitVec 8)) (offset : (BitVec 64)) (length : (BitVec 16))
  /-- WRITE (R524): A WRITE request changes the shadow, or writes a LIVE value, of an entry that has no step of its own, assembling DOMAIN segments. -/
  | write (e : Envelope) (index : (BitVec 16)) (sub : (BitVec 8)) (offset : (BitVec 64)) (data : Bytes)
  /-- INFO (R515): An INFO request returns the 48-byte description of an entry. -/
  | info (e : Envelope) (index : (BitVec 16)) (sub : (BitVec 8))
  /-- READ_AND_CLEAR (R8): A read of an RC entry, such as a lint counter, returns its value and clears it in the same access. -/
  | readAndClear (e : Envelope) (index : (BitVec 16)) (sub : (BitVec 8))
  /-- SESSION_TIMEOUT (R518): A session with no message for its timeout closes and LINT_OD_TIMEOUT advances. -/
  | sessionTimeout (handle : (Fin 48))
  /-- COMMIT (R528): Writing 1 to a group's commit object checks the group as a whole and schedules its shadows for the next boundary. -/
  | commit (e : Envelope) (group : (BitVec 8))
  /-- DISCARD (R526): Writing 2 to a group's commit object discards every pending shadow of the group. -/
  | discard (e : Envelope) (group : (BitVec 8))
  /-- COMMIT_TAKE_EFFECT (R528): At the block's next boundary the committed shadows take effect together. -/
  | commitTakeEffect (group : (BitVec 8))
  /-- CYCLE_START (R531): A cyclic image cycle starts and the latest accepted RX image is applied in map order. -/
  | cycleStart
  /-- TX_IMAGE_SNAPSHOT (R534): At cycle start plus CYC_TX_OFS_NS the TX image is read from every mapped entry and queued in Q3. -/
  | txImageSnapshot
  /-- RX_IMAGE_RECEIVE (R535): A received RX image frame is accepted as the latest image or discarded. -/
  | rxImageReceive (port : (Fin 2)) (frame : Bytes)
  /-- WATCHDOG_TRIP (R536): After CYC_WD_CYCLES cycle starts without an accepted RX image, the watchdog trips and RX-mapped entries take their defaults under DEFAULT. -/
  | watchdogTrip
  /-- GO_WORD_WRITE (R543): The host's GO word write hands a mailbox request cell to its session; the response and DONE word follow. -/
  | goWordWrite (mailbox : (Fin 16)) (cell : (Fin 8)) (message : Bytes) (go : (BitVec 32))
  /-- BULK_APERTURE_READ (R544): A host read of BAR2 reads LPDDR5 in coach and host slots, or is refused with Completer Abort or Unsupported Request. -/
  | bulkApertureRead (offset : (BitVec 64)) (length : (BitVec 32))
  /-- BULK_APERTURE_WRITE (R544): A host write to BAR2 writes LPDDR5 by read-modify-write of groups, or is refused and reported. -/
  | bulkApertureWrite (offset : (BitVec 64)) (data : Bytes)
  /-- PCI_XL_SUBMIT (R547): A transfer list is checked as a whole and accepted to run, or refused. -/
  | pciXlSubmit (e : Envelope) (offset : (BitVec 64)) (data : Bytes)
  /-- PCI_XL_ABORT (R552): A list is stopped at its next entry boundary and its completion record carries ERR_STATE. -/
  | pciXlAbort (e : Envelope) (value : (BitVec 32))
  /-- OD_WRITE (R549): A list entry reads host memory and writes it, or a run of entries, as one whole value to an entry. -/
  | odWrite (list : (BitVec 32)) (host : Bytes) (good : Bool)
  /-- OD_READ (R549): A list entry reads a whole value and writes it to host memory. -/
  | odRead (list : (BitVec 32))
  /-- BULK_IN (R549): A list entry copies host memory to an aperture offset. -/
  | bulkIn (list : (BitVec 32)) (host : Bytes) (good : Bool)
  /-- BULK_OUT (R549): A list entry copies an aperture offset to host memory. -/
  | bulkOut (list : (BitVec 32))
  /-- ARCHIVE (R549): A list entry moves whole unread archive records to host memory and marks them read. -/
  | archive (list : (BitVec 32))
  /-- XL_ENTRY_COMPLETE (R550): A list entry completes or fails, and the next entry starts or the list stops. -/
  | xlEntryComplete (list : (BitVec 32))
  /-- PCIE_FUNCTION_RESET (R556): PERST#, hot reset, link down, FLR or D3hot resets the PCIe function, closes its sessions and stops its lists. -/
  | pcieFunctionReset (rate : (BitVec 4)) (width : (BitVec 4))
  /-- CAM_LINE_END (R52): A camera line ends, by LVAL or FVAL falling, and is checked, stored, filled or discarded. -/
  | camLineEnd (port : (Fin 12)) (beats : (List (BitVec 32))) (fval : Bool) (lost : Bool) (time : NetTime) (mono : Nat) (pos : Int)
  /-- CAM_TRIGGER_TIMEOUT (R52): A matched trigger older than twice CAM_LATE_LIMIT without a header inserts one fill line. -/
  | camTriggerTimeout (port : (Fin 12))
  /-- CAM_TRIG_DEFERRED (R49): A trigger that arrived during an active pulse is issued one CK_TS cycle after that pulse ends. -/
  | camTrigDeferred (port : (Fin 12))
  /-- BLANKING_PERIOD_END (R62): A blanking period ends and its four pattern beats are checked, raising TESTPAT on failure. -/
  | blankingPeriodEnd (port : (Fin 12)) (beats : (List (BitVec 32)))
  /-- SWATH_CLOSE (R59): The last line of a swath is written, the record becomes readable, and the swath is handed on or recorded. -/
  | swathClose (port : (Fin 12))
  /-- MANGLE_SWATH_DONE (R69): The mangle writes the last demosaiced row of a swath and its statistics block becomes valid. -/
  | mangleSwathDone (port : (Fin 12))
  /-- ROI_LIST_BUILD (R74): The region-of-interest list of swath k is built from heat k−1's detections or the fallback, and the FAST request becomes eligible. -/
  | roiListBuild (port : (Fin 12))
  /-- SWATH_BUFFER_RELEASE (R165): A buffer whose row counts are all zero returns to its port's free list, counting a late release, and a waiting allocation retries. -/
  | swathBufferRelease (port : (Fin 12))
  /-- RP_LOAD (R207): A run package container is checked and loaded into the lowest free slot, or refused. -/
  | rpLoad (e : Envelope) (offset : (BitVec 64)) (data : Bytes)
  /-- RP_UNLOAD (R208): A package slot is unloaded and everything the package holds is freed. -/
  | rpUnload (e : Envelope) (value : (BitVec 8))
  /-- COX_BG_REQUEST (R234): A BACKGROUND plan request is queued, or refused. -/
  | coxBgRequest (e : Envelope) (value : (BitVec 16))
  /-- ROTA_PERIOD_BOUNDARY (R182): A rota period begins: the rota copies exchange, ended grants become FREE, and reserved windows and heats take their periods. -/
  | rotaPeriodBoundary
  /-- SAVE_DONE (R193): A crew's save completes and the next crew's save, or the SAVED state, follows. -/
  | saveDone
  /-- RESTORE_DONE (R194): A restore completes with its CRC checked; a failure marks the heat's outputs INVALID. -/
  | restoreDone (good : Bool)
  /-- SETTLE_COMPLETE (R212): The cox finishes computing images for a settling crew and the crew takes new heats again. -/
  | settleComplete (crew : (Fin 6))
  /-- REGULATOR_WINDOW (R226): Every 1 µs window each partition's token bucket is refilled up to PART_DEPTH. -/
  | regulatorWindow
  /-- REFRESH_SLOT (R188): A channel's refresh group slot issues the LPDDR5 refresh commands. -/
  | refreshSlot (channel : (Fin 32))
  /-- SCRUB_GROUP (R190): The patrol scrubber reads a group and writes back one that held a corrected error. -/
  | scrubGroup (group : (BitVec 32)) (flips : (List (BitVec 14)))
  /-- LPDDR_GROUP_READ (R186): A group read in its group slot is decoded and corrected, and its MEM packet is delivered through the hub. -/
  | lpddrGroupRead (group : (BitVec 32)) (flips : (List (BitVec 14))) (k : (Fin 64)) (crew : (Fin 6)) (stroke : (BitVec 32)) (pass : (BitVec 32)) (bad : Bool)
  /-- LPDDR_GROUP_WRITE (R177): A whole group is written to LPDDR5, merged in staging blocks where the stream covers only part of it. -/
  | lpddrGroupWrite (group : (BitVec 32)) (offset : (Fin 1984)) (data : Bytes)
  /-- STREAM_TRANSFER (R175): A catch-unit stream moves a window of a tensor between memory and a unit, padding, converting and transposing on the way. -/
  | streamTransfer (k : (Fin 64)) (sd : (BitVec 16)) (crew : (Fin 6)) (stroke : (BitVec 32)) (pass : (BitVec 32)) (data : Bytes) (ecc : (Option EccError)) (bad : Bool)
  /-- WEIGHT_TILE_LOAD (R114): A weight tile packet loads into the buffer named by WSET and the checksum operands are formed. -/
  | weightTileLoad (crew : (Fin 6)) (shell : (Fin 68)) (sub : (Fin 3)) (pass : (BitVec 32)) (kblock : (BitVec 32)) (packet : Packet)
  /-- WAVEFRONT_ENTER (R111): A wavefront packet enters a shell, is checked against its buffer tag and the checksum column, and is summed into the foot. -/
  | wavefrontEnter (crew : (Fin 6)) (shell : (Fin 68)) (sub : (Fin 3)) (pass : (BitVec 32)) (kblock : (BitVec 32)) (row : (Fin 64)) (packet : Packet) (upset : (Option (Nat × Int))) (rails : Bool)
  /-- HELD_PACKET_RELEASE (R116): A weight packet or wavefront held in a shell's input stage is released once the scoreboard rule allows it. -/
  | heldPacketRelease (crew : (Fin 6)) (shell : (Fin 68)) (sub : (Fin 3))
  /-- ROW_READOUT (R121): A foot row reaches its final state, its residue is checked, and it is read out and cleared. -/
  | rowReadout (crew : (Fin 6)) (shell : (Fin 68)) (row : (Fin 64)) (upset : (Option (Fin 32 × Int))) (differ : Bool)
  /-- FOLD_PASS (R122): A fold pass combines the partials of a tile and reads out each row. -/
  | foldPass (k : (Fin 64)) (stroke : (BitVec 32)) (pass : (BitVec 32)) (differ : Bool)
  /-- SCULL_PASS (R131): A scull pass loads its vectors, streams S tiles, and reads out each output group. -/
  | scullPass (k : (Fin 64)) (stroke : (BitVec 32)) (pass : (BitVec 32)) (error : Bool)
  /-- SWEEP_PASS (R298): A sweep pass computes the attention states of one node for up to 64 rows, and their masses. -/
  | sweepPass (k : (Fin 64)) (stroke : (BitVec 32)) (pass : (BitVec 32)) (error : Bool)
  /-- CROP_CUT (R269): The crop-and-resize engine cuts and resamples the box slots of a CROP stroke. -/
  | cropCut (k : (Fin 64)) (stroke : (BitVec 32)) (pass : (BitVec 32))
  /-- PRESS_ENCODE (R261): The press encodes a block of 32 elements, counting NaN blocks. -/
  | pressEncode (k : (Fin 64)) (stroke : (BitVec 32)) (pass : (BitVec 32)) (row : (BitVec 32)) (block : (BitVec 32))
  /-- PRESS_DECODE (R262): The press decodes a pressed block into the tensor's format. -/
  | pressDecode (k : (Fin 64)) (stroke : (BitVec 32)) (block : Bytes)
  /-- STROKE_COMPLETE (R129): The crew scoreboard marks a stroke complete, its outputs become visible, and its line-store references are dropped. -/
  | strokeComplete (k : (Fin 64)) (stroke : (BitVec 32))
  /-- HEAT_COMPLETE (R216): A heat's last stroke completes, its records and outputs are produced, and timing deviation is checked. -/
  | heatComplete (k : (Fin 64)) (sub : (Fin 6)) (unread : (List (BitVec 32)))
  /-- PUBLICATION_RELEASE (R441): A publication that waited for a heat reading the idle copy proceeds once that heat ends. -/
  | publicationRelease (part : (Fin 8))
  /-- DECODE_REQUEST (R435): A decode heat is requested whenever the ring holds fewer than RT_RUNAHEAD batches. -/
  | decodeRequest (part : (Fin 8))
  /-- RETUNE_STEP_REQUEST (R436): Step heat n is requested once step n−1 has completed and batch n is complete. -/
  | retuneStepRequest (part : (Fin 8))
  /-- OAR_INVOCATION_START (R273): A sliver invocation starts with its registers set and, before the first invocation, its code and draw header loaded. -/
  | oarInvocationStart (k : (Fin 64)) (stroke : (BitVec 32)) (pass : (BitVec 32)) (sliver : (BitVec 16))
  /-- OAR_LOAD_STORE (R41): An oar load or store is issued, raising an access fault outside its map or partition and ending the kernel. -/
  | oarLoadStore (crew : (Fin 6)) (oar : (Fin 512)) (ecc : (Option EccError))
  /-- OAR_ACCESS_RETURN (R161): The data of an outstanding oar access returns, or its store is accepted, within the stated bounds. -/
  | oarAccessReturn (crew : (Fin 6)) (oar : (Fin 512)) (ecc : (Option EccError))
  /-- SLV_GET (R276): SLV.GET copies 64 bytes from scratch, the line store or the commons into local memory. -/
  | slvGet (crew : (Fin 6)) (oar : (Fin 512))
  /-- SLV_PUT (R276): SLV.PUT copies 64 bytes from local memory to an oar address. -/
  | slvPut (crew : (Fin 6)) (oar : (Fin 512)) (ecc : (Option EccError))
  /-- SLV_SEND (R277): SLV.SEND sends a 64-byte record to a neighbouring sliver, waiting while its inbox is full. -/
  | slvSend (crew : (Fin 6)) (oar : (Fin 512))
  /-- SLV_SEND_RESUME (R277): A waiting SLV.SEND completes once the neighbour frees an inbox place. -/
  | slvSendResume (crew : (Fin 6)) (oar : (Fin 512))
  /-- SLV_RECV (R277): SLV.RECV takes the oldest record from a neighbour, or waits for one. -/
  | slvRecv (crew : (Fin 6)) (oar : (Fin 512))
  /-- SLV_RECORD_ARRIVE (R277): A sent record arrives in a neighbour's inbox and completes a waiting SLV.RECV. -/
  | slvRecordArrive (crew : (Fin 6)) (oar : (Fin 512)) (right : Bool)
  /-- SLV_BAR (R278): SLV.BAR waits at a barrier over all slivers of the invocation. -/
  | slvBar (crew : (Fin 6)) (oar : (Fin 512))
  /-- SLV_BAR_COMPLETE (R278): A barrier completes on every waiting sliver once the last sliver has executed it or ended. -/
  | slvBarComplete (crew : (Fin 6)) (oar : (Fin 512))
  /-- PMINU_B (R276): PMINU.B takes the per-byte unsigned minimum. -/
  | pminuB (crew : (Fin 6)) (oar : (Fin 512))
  /-- PMAXU_B (R276): PMAXU.B takes the per-byte unsigned maximum. -/
  | pmaxuB (crew : (Fin 6)) (oar : (Fin 512))
  /-- PADDUS_B (R276): PADDUS.B adds per byte, saturating at 255. -/
  | paddusB (crew : (Fin 6)) (oar : (Fin 512))
  /-- PSUBUS_B (R276): PSUBUS.B subtracts per byte, saturating at 0. -/
  | psubusB (crew : (Fin 6)) (oar : (Fin 512))
  /-- PCMPGEU_B (R276): PCMPGEU.B compares per byte unsigned, giving 0xFF or 0x00. -/
  | pcmpgeuB (crew : (Fin 6)) (oar : (Fin 512))
  /-- PSAD_B (R276): PSAD.B sums the absolute differences of the four bytes. -/
  | psadB (crew : (Fin 6)) (oar : (Fin 512))
  /-- FCVT_S_BF (R276): FCVT.S.BF converts BF16 to FP32 exactly. -/
  | fcvtSBf (crew : (Fin 6)) (oar : (Fin 512))
  /-- FCVT_BF_S (R276): FCVT.BF.S converts FP32 to BF16 by R100 with SAT 0. -/
  | fcvtBfS (crew : (Fin 6)) (oar : (Fin 512))
  /-- FCVT_S_HF (R276): FCVT.S.HF converts FP16 to FP32 exactly. -/
  | fcvtSHf (crew : (Fin 6)) (oar : (Fin 512))
  /-- FCVT_HF_S (R276): FCVT.HF.S converts FP32 to FP16 by R100 with SAT 0. -/
  | fcvtHfS (crew : (Fin 6)) (oar : (Fin 512))
  /-- FRM_WRITE (R274): A write to frm is ignored, because the rounding mode is hard-wired to RNE. -/
  | frmWrite (crew : (Fin 6)) (oar : (Fin 512))
  /-- ECALL (R279): ECALL ends the sliver's invocation, normally or, with x10 non-zero, marking the heat INVALID with no darn. -/
  | ecall (crew : (Fin 6)) (oar : (Fin 512))
  /-- EBREAK (R279): EBREAK ends the invocation as a detected error. -/
  | ebreak (crew : (Fin 6)) (oar : (Fin 512))
  /-- ILLEGAL_INSTRUCTION (R274): An illegal instruction, including a cycle or time CSR read or a sliver CSR write, ends the invocation as a detected error. -/
  | illegalInstruction (crew : (Fin 6)) (oar : (Fin 512))
  /-- OAR_BUDGET_EXPIRE (R279): CYCLES elapse before ECALL, and the invocation is stopped as a detected error. -/
  | oarBudgetExpire (crew : (Fin 6)) (oar : (Fin 512))
  /-- KV_BOUNDARY (R330): After a step heat completes or is dropped, the manager processes the boundary in the fixed order of R330. -/
  | kvBoundary (part : (Fin 8))
  /-- KV_CANCEL (R335): Writing a SEQ_ID cancels a queued or running sequence, and its part gets UNDECIDED if undecided. -/
  | kvCancel (e : Envelope) (partition : (Fin 8)) (value : (BitVec 64))
  /-- KV_TREE_FLUSH (R317): Writing 1 removes every prefix-tree node at the next boundary. -/
  | kvTreeFlush (e : Envelope) (partition : (Fin 8)) (value : (BitVec 8))
  /-- DET_GEN_IN (R351): Writing generator inputs computes one draw block into DET_GEN_OUT. -/
  | detGenIn (e : Envelope) (offset : (BitVec 64)) (data : Bytes)
  /-- DET_REPLAY_SWATH (R364): A replay image is checked and entered as a swath of the replay partition. -/
  | detReplaySwath (e : Envelope) (partition : (Fin 8)) (offset : (BitVec 64)) (data : Bytes)
  /-- DET_REPLAY_SEQ (R366): A replay sequence with its annex and crop is checked and queued. -/
  | detReplaySeq (e : Envelope) (partition : (Fin 8)) (offset : (BitVec 64)) (data : Bytes)
  /-- DET_REPLAY_STATE (R365): A STATE tensor of the replay partition's package is replaced. -/
  | detReplayState (e : Envelope) (partition : (Fin 8)) (offset : (BitVec 64)) (data : Bytes)
  /-- SQUELCH_OPEN (R379): The squelch detectors of a port open and DETECT proceeds to ALIGN, or a power state is left. -/
  | squelchOpen (port : (Fin 8))
  /-- COMMA_BLOCK (R375): A COMMA control block is received, aligning lanes, correcting polarity and reseeding the scramblers. -/
  | commaBlock (port : (Fin 8)) (lane : (Fin 4)) (inverted : Bool) (gap : (BitVec 32)) (skewPs : (BitVec 32))
  /-- TRAIN_BLOCK (R380): A TRAIN block is received, carrying a preset request, reply or announcement. -/
  | trainBlock (port : (Fin 8)) (lane : (Fin 4)) (payload : (BitVec 128))
  /-- EQUALIZE_EVALUATION (R383): After a setting is applied and settled, the receiver measures the FOM and moves to the next setting or ends EQUALIZE. -/
  | equalizeEvaluation (port : (Fin 8)) (lane : (Fin 4)) (height : (BitVec 32)) (width : (BitVec 32))
  /-- SKIP_BLOCK (R377): A SKIP block is removed or repeated by the elastic buffer in EMBEDDED mode. -/
  | skipBlock (port : (Fin 8))
  /-- EASY_BLOCK (R388): A received EASY block makes the receiver hold its recovered phase and counters. -/
  | easyBlock (port : (Fin 8))
  /-- RACK_BLOCK (R390): A received RACK block marks the far end entering RACK. -/
  | rackBlock (port : (Fin 8))
  /-- BRINGUP_TIMEOUT (R379): A bring-up state exceeds its limit and the port becomes FAILED with its cause. -/
  | bringupTimeout (port : (Fin 8))
  /-- FAILED_RETRY (R386): Every 100 ms a FAILED enabled port retries bring-up from DETECT. -/
  | failedRetry (port : (Fin 8))
  /-- COMMA_MISSING (R385): A comma missing twice at its expected position, or 8 block errors in a row, loses lane alignment. -/
  | commaMissing (port : (Fin 8)) (lane : (Fin 4))
  /-- EASY_IDLE_EXPIRE (R388): After NL_EASY_IDLE µs without cells, the port sends EASY and enters electrical idle. -/
  | easyIdleExpire (port : (Fin 8))
  /-- EASY_EXIT (R389): A port in EASY with a cell to send sends 1010, a COMMA, and resumes the comma period. -/
  | easyExit (port : (Fin 8))
  /-- RACK (R390): The RACK power command puts an UP or EASY port into RACK. -/
  | rack (e : Envelope) (port : (Fin 8))
  /-- WAKE (R390): The WAKE power command brings a RACK port up with its saved taps. -/
  | wake (e : Envelope) (port : (Fin 8))
  /-- INJECT_SINGLE (R393): NL_INJECT mode 1 inverts the next bit, or payload bit 0 of the next data block, on the selected lanes. -/
  | injectSingle (e : Envelope) (port : (Fin 8)) (lanes : (BitVec 4))
  /-- INJECT_PERIODIC (R393): NL_INJECT mode 2 starts periodic bit inversion in TEST. -/
  | injectPeriodic (e : Envelope) (port : (Fin 8)) (lanes : (BitVec 4))
  /-- INJECT_STOP (R393): NL_INJECT mode 0 stops periodic injection. -/
  | injectStop (e : Envelope) (port : (Fin 8)) (lanes : (BitVec 4))
  /-- PERIODIC_INJECTION (R393): Every NL_INJECT_PERIOD bits one bit is inverted on each selected lane. -/
  | periodicInjection (port : (Fin 8))
  /-- CELL_RECEIVE (R395): A received cell is checked and accepted, acknowledged, NAKed or discarded by its sequence number. -/
  | cellReceive (port : (Fin 8)) (blocks : (List (List RxBlock))) (full : Bool)
  /-- REPLAY_TIMEOUT (R396): NL_REPLAY_TIMEOUT passes without acknowledgement progress and the oldest cells are replayed, retraining at the limit. -/
  | replayTimeout (port : (Fin 8))
  /-- NAK_EXPIRE (R395): An outstanding NAK stops being outstanding after NL_REPLAY_TIMEOUT. -/
  | nakExpire (port : (Fin 8))
  /-- ACK_DUE (R395): An acknowledgement is sent within 0.5 µs of an acceptance or after 16 cells. -/
  | ackDue (port : (Fin 8))
  /-- TIME_EXCHANGE_START (R417): Every SQD_TIME_INTERVAL_US a seat sends a TIME request to its parent. -/
  | timeExchangeStart (phase : (Fin 8))
  /-- TIME_REQUEST (R418): A parent receives a TIME request and answers with t2 and t3. -/
  | timeRequest (port : (Fin 8)) (body : Bytes) (phase : (Fin 8)) (turn : (BitVec 16))
  /-- TIME_RESPONSE (R419): A child receives the TIME response and computes delay and offset for its servo, or discards the exchange. -/
  | timeResponse (port : (Fin 8)) (body : Bytes) (phase : (Fin 8)) (good : Bool)
  /-- HELLO (R406): A HELLO message from a neighbour gives its seat, shape, size, versions and partition CRC. -/
  | hello (h : HelloInfo)
  /-- TOPOLOGY (R405): A flooded TOPOLOGY message reports a seat's UP ports, and the stroke seat forms the squad when all checks pass. -/
  | topology (port : (Fin 8)) (seat : (Fin 32)) (links : (List TopoLink))
  /-- FORM (R407): A seat accepts FORM, with members, epoch and route table, and becomes FORMED. -/
  | form (members : (BitVec 32)) (version : (BitVec 32)) (epoch : (BitVec 32)) (routes : (List (Nat × Nat × Nat × Nat)))
  /-- FORM_ACK (R407): The stroke seat collects FORM_ACK and becomes FORMED once every seat has acknowledged. -/
  | formAck (seat : (Fin 32)) (epoch : (BitVec 32)) (fault : (BitVec 8))
  /-- FORM_TIMEOUT (R407): The squad is not formed within SQD_FORM_TIMEOUT and becomes FAILED with TIMEOUT. -/
  | formTimeout
  /-- HEARTBEAT_SEND (R409): Each seat sends a HEARTBEAT to all seats every SQD_HEARTBEAT_US. -/
  | heartbeatSend
  /-- HEARTBEAT (R409): A received HEARTBEAT updates a member's state, and a member reporting SAFE is lost. -/
  | heartbeat (seat : (Fin 32)) (devState : (BitVec 8)) (sqdState : (BitVec 8)) (crews : (BitVec 8))
  /-- MEMBER_LOST (R409): No HEARTBEAT of a member for 4 × SQD_HEARTBEAT_US breaks the squad and BROKEN is sent. -/
  | memberLost (seat : (Fin 32))
  /-- BROKEN (R410): A received BROKEN sets the squad BROKEN, stops spanning admission, or enters SAFE by SQD_LOSS_ACTION. -/
  | broken (sender : (Fin 32)) (lost : (Fin 32)) (cause : (BitVec 8))
  /-- COMMAND (R408): A seat executes a device command carried from the stroke seat and answers COMMAND_DONE. -/
  | command (code : (BitVec 8))
  /-- COMMAND_DONE (R408): The stroke seat collects command results and responds, disarming armed seats after a failed ARM. -/
  | commandDone (seat : (Fin 32)) (status : (BitVec 8)) (armFault : (BitVec 32))
  /-- ADMIT (R416): A seat receives ADMIT for a spanning heat with its start time. -/
  | admitHeat (serial : (BitVec 64)) (slot : (Fin 16)) (plan : (BitVec 8)) (start : Nat)
  /-- SPAN_PART_START (R416): A seat starts its part of a spanning heat at its first work period at or after the start time, or after its crews are released. -/
  | spanPartStart (serial : (BitVec 64))
  /-- DONE (R416): The stroke seat collects DONE messages and the spanning heat completes, INVALID if any DONE says so. -/
  | done (seat : (Fin 32)) (serial : (BitVec 64)) (invalid : Bool)
  /-- KV_DECISION (R337): A seat applies the boundary decisions sent by the stroke seat, in order. -/
  | kvDecision (part : (Fin 8)) (d : KvDecision)
  /-- KV_REPORT (R337): The stroke seat receives a seat's per-slot masses and fill counts for a step. -/
  | kvReport (seat : (Fin 32)) (part : (Fin 8)) (masses : (List (Nat × Nat × Nat))) (fills : (List (Nat × Nat × Nat)))
  /-- LOAD (R412): A seat loads a run package container sent by the stroke seat and reports LOAD_RESULT. -/
  | load (slot : (Fin 16)) (container : Bytes) (unload : Bool)
  /-- LOAD_RESULT (R412): The stroke seat collects load results and unloads the package everywhere if any seat refused it. -/
  | loadResult (seat : (Fin 32)) (status : (BitVec 8)) (fault : (BitVec 32))
  /-- FILTER_TICK (R450): Each 1 µs tick samples every input and updates its up-down filter and filtered value. -/
  | filterTick (mv : (Vector (BitVec 16) 48)) (hot : (BitVec 48)) (wire : (BitVec 8))
  /-- OVERLOAD (R452): Driver current above the trip level switches the channel off within 10 µs and drops its fire holds. -/
  | overload (n : (Fin 48))
  /-- OVERTEMP (R452): A driver junction above 150 °C switches the channel off and latches OVERTEMP. -/
  | overtemp (n : (Fin 48))
  /-- GROUP_LIMIT (R452): A group or package current sum over its limit for 100 µs switches channels off in descending order. -/
  | groupLimit (g : (Option (Fin 6))) (ma : (Vector (BitVec 16) 48))
  /-- OPEN_LOAD (R452): A diagnosed output shows an open load for 10 ms and OPEN_LOAD is set. -/
  | openLoad (n : (Fin 48))
  /-- OPEN_WIRE (R451): A diagnosed input below 1.0 V for 10 ms sets OPEN_WIRE. -/
  | openWire (n : (Fin 48))
  /-- FIELD_SUPPLY_FAULT (R452): VFLDg outside 18 V to 32 V for 1 ms switches the group's outputs off and reads its inputs off. -/
  | fieldSupplyFault (g : (Fin 6)) (mv : (BitVec 16))
  /-- FIELD_SUPPLY_CLEAR (R452): VFLDg within 19.2 V to 30 V for 10 ms clears SUPPLY. -/
  | fieldSupplyClear (g : (Fin 6)) (mv : (BitVec 16))
  /-- FAULT_RETRY (R452): After FIO_RETRY ms an OVERLOAD or GROUP channel is retried. -/
  | faultRetry (n : (Fin 48))
  /-- FIO_ACK (R452): Writing 1 clears a channel's latched driver flags. -/
  | fioAck (e : Envelope) (n : (Fin 48)) (value : (BitVec 8))
  /-- FIO_FORCE_OFF (R449): Writing FIO_FORCE_OFF forces the selected channels off within 1 µs. -/
  | fioForceOff (e : Envelope) (value : (BitVec 64))
  /-- ENC_COUNT (R454): An accepted encoder edge changes the position and drives the dividers, position slots and fire resolutions of the channel. -/
  | encCount (n : (Fin 8)) (a : Bool) (b : Bool) (dt : (BitVec 32))
  /-- DIV_PULSE_DEFERRED (R461): A PULSE-mode pulse that arrived while A was high is issued one CK_TS cycle after A falls. -/
  | divPulseDeferred (e : (Fin 4))
  /-- FIRE_OFF_TIME (R470): WIDTH ns after an entry's valves turned on, the entry releases them. -/
  | fireOffTime (id : Nat)
  /-- ENC_REFERENCE (R457): A reference latches ENC_REF_POS and raises ENC_REF_CNT. -/
  | encReference (n : (Fin 8))
  /-- WIRE_FAULT (R458): A pair non-complementary or below 200 mV for 200 ns puts the channel in FAULT, and its pending fire entries resolve LATE. -/
  | wireFault (n : (Fin 8))
  /-- QUAD_FAULT (R455): A and B changing in the same sample puts the channel in FAULT. -/
  | quadFault (n : (Fin 8))
  /-- OVERSPEED_FAULT (R455): Two counts less than 40 ns apart put the channel in FAULT. -/
  | overspeedFault (n : (Fin 8))
  /-- ENC_ACK (R459): Writing 1 clears FAULT when no condition remains, and the dividers and slots resume. -/
  | encAck (e : Envelope) (n : (Fin 8)) (value : (BitVec 8))
  /-- TIME_SLOT_EVENT (R463): A TIME trigger slot reaches its event instant and drives its TRIG channels or camera trigger. -/
  | timeSlotEvent (n : (Fin 32))
  /-- PULSE_WIDTH_END (R463): A trigger pulse width elapses and the output returns to inactive. -/
  | pulseWidthEnd (out : PulseOut)
  /-- FIRE_STOP_ACK (R469): Writing 1 releases the stop latch in ARMED, RUN or DEGRADED. -/
  | fireStopAck (e : Envelope) (value : (BitVec 8))
  /-- FNET_LINK_CHANGE (R485): A field network port's link comes up or goes down as the PHY reports. -/
  | fnetLinkChange (port : (Fin 2)) (up : Bool) (rate : (BitVec 2))
  /-- PTP_MESSAGE (R501): A gPTP message is received, time-stamped and processed by the 802.1AS instance, or discarded. -/
  | ptpMessage (port : (Fin 2)) (frame : Bytes) (fcs : Bool) (phase : (BitVec 3))
  /-- PTP_MESSAGE_INTERVAL (R501): A gPTP message interval elapses and the port sends its Sync, Pdelay or Announce message. -/
  | ptpMessageInterval (port : (Fin 2)) (kind : (Fin 3))
  /-- TS_MEASUREMENT_MISSING (R498): No measurement arrives for 4 expected intervals in LOCKED, and the time unit enters HOLDOVER. -/
  | tsMeasurementMissing
  /-- HOLDOVER_EXPIRE (R498): TS_HOLDOVER_MS passes in HOLDOVER and the time unit enters LOST. -/
  | holdoverExpire
  /-- TS_SET (R499): Writing TS_SET steps network time to the value written while the source is FREE. -/
  | tsSet (e : Envelope) (offset : (BitVec 64)) (data : Bytes)
  /-- ARP_REQUEST (R487): An ARP request for FNET_IPV4 is answered. -/
  | arpRequest (port : (Fin 2)) (frame : Bytes) (fcs : Bool)
  /-- ICMP_ECHO (R487): An ICMP echo request is answered. -/
  | icmpEcho (port : (Fin 2)) (frame : Bytes) (fcs : Bool)
  /-- GATE_CYCLE_START (R489): A gate control list cycle starts, applying a newly committed list where due. -/
  | gateCycleStart (port : (Fin 2))
  /-- FRAME_TRANSMIT (R490): A queued frame starts if it fits its open gate window, or is discarded if it never can, with event timestamps captured. -/
  | frameTransmit (port : (Fin 2)) (phase : (BitVec 3))
  /-- HEAT_OVERTIME (R568): A heat not completed at its supervision limit ends INVALID with cause OVERTIME. -/
  | heatOvertime (k : (Fin 64))
  /-- SWATH_WATCHDOG (R570): A handed-on swath without entries or a record by its deadline plus margin gets a LATE record from the supervisor. -/
  | swathWatchdog (port : (Fin 12)) (cnt : (BitVec 64))
  /-- RINSE_SLICE_DONE (R572): A rinse slice completes; a wrong result or missing injected report fails it and takes the unit out of service. -/
  | rinseSliceDone (slice : Slice) (failed : (List UnitId)) (block : (Option (Fin 64)))
  /-- RINSE_OVERDUE (R575): A unit not rinsed within SAF_RINSE_LIMIT raises RINSE_OVERDUE. -/
  | rinseOverdue (slice : Slice)
  /-- ENGINE_MISMATCH (R561): A duplicated mangle, crop engine or press mismatches, spoiling the swath or darning the stroke. -/
  | engineMismatch (what : Mismatch)
  /-- CONTROL_MISMATCH (R561): A duplicated cox, fire unit or page manager mismatches, or a control region is uncorrectable, and the device enters SAFE. -/
  | controlMismatch
  /-- SAF_EVENT_ACK (R589): Writing SAF_EVENT_ACK acknowledges latched events that are no longer present. -/
  | safEventAck (e : Envelope) (value : (BitVec 32))
  /-- LOST_TIME_STORE (R586): SAF_LOST_US is written to the boot flash at most once a minute. -/
  | lostTimeStore
  /-- BOOT_FW_IMAGE (R615): A firmware image is staged and checked, replacing any earlier staged image. -/
  | bootFwImage (e : Envelope) (offset : (BitVec 64)) (data : Bytes)
  /-- BOOT_FW_INSTALL (R616): Writing 1 starts installing the staged image: ledger BEGIN, erase, program and readback. -/
  | bootFwInstall (e : Envelope) (value : (BitVec 8))
  /-- INSTALL_COMPLETE (R616): The install ends with DONE appended and INSTALLED, or FAILED after a second readback failure. -/
  | installComplete (good : Bool)
  /-- BOOT_RB_ADVANCE (R607): An anti-rollback counter is advanced by blowing fuse bits. -/
  | bootRbAdvance (e : Envelope) (offset : (BitVec 64)) (data : Bytes)
  /-- BOOT_OWNER_KEY (R608): An unprogrammed owner slot is programmed with a key digest. -/
  | bootOwnerKey (e : Envelope) (offset : (BitVec 64)) (data : Bytes)
  /-- BOOT_REVOKE (R608): Key slots are revoked irreversibly. -/
  | bootRevoke (e : Envelope) (value : (BitVec 8))
  /-- BOOT_ATTEST_NONCE (R614): Writing a nonce starts an attestation report. -/
  | bootAttestNonce (e : Envelope) (offset : (BitVec 64)) (data : Bytes)
  /-- ATTEST_REPORT_READY (R614): The signed attestation report becomes readable and the nonce write is answered. -/
  | attestReportReady
  /-- BOOT_PKG_STORE (R609): A loaded package and its partition entries are copied into the package store. -/
  | bootPkgStore (e : Envelope) (value : (BitVec 8))
  /-- BOOT_PKG_UNSTORE (R609): A package is removed from the package store. -/
  | bootPkgUnstore (e : Envelope) (value : (BitVec 8))
  /-- RECOVERY_HELLO (R618): A recovery HELLO claims recovery for its peer and returns the newest ledger record and device identity. -/
  | recoveryHello (e : Envelope) (op : (BitVec 8))
  /-- RECOVERY_DATA (R618): A recovery DATA segment is assembled into the image staged in the line store. -/
  | recoveryData (e : Envelope) (offset : (BitVec 64)) (data : Bytes)
  /-- RECOVERY_INSTALL (R618): The recovery INSTALL checks and installs the received image. -/
  | recoveryInstall (e : Envelope)
  /-- RECOVERY_BOOT (R618): The recovery BOOT leaves RECOVERY for BOOT after a successful install. -/
  | recoveryBoot (e : Envelope)
  /-- RECOVERY_OWNER_TIMEOUT (R618): No message of the recovery owner for 60 s releases recovery to other peers. -/
  | recoveryOwnerTimeout
  /-- RT_ADD (R425): A labelled sample is checked and added to the reference store under the next index. -/
  | rtAdd (e : Envelope) (partition : (Fin 8)) (offset : (BitVec 64)) (data : Bytes)
  /-- RT_REMOVE (R427): A sample index is marked removed from the next epoch. -/
  | rtRemove (e : Envelope) (partition : (Fin 8)) (value : (BitVec 32))
  /-- RT_PUBLISH (R442): Writing 1 requests a publication at the next step end. -/
  | rtPublish (e : Envelope) (partition : (Fin 8)) (value : (BitVec 8))
  /-- RT_RESTART (R442): Writing 1 resets masters, optimizer, epoch and ring and publishes generation 0 at the next step end or at once. -/
  | rtRestart (e : Envelope) (partition : (Fin 8)) (value : (BitVec 8))
  /-- INTERNAL_RESET_RELEASE (R625): The RESET forced by a brown-out ends once VDD_CORE and VDD_IO18 have been back in their windows for 1 ms, and the device leaves RESET for BOOT. -/
  | internalResetRelease
  /-- OPEN_WIRE_CLEAR (R451): OPEN_WIRE clears when the input voltage has stayed above 1.0 V for 10 ms. -/
  | openWireClear (n : (Fin 48))
  /-- OPEN_LOAD_CLEAR (R452): OPEN_LOAD clears when the open-load condition has gone, since the flag follows the condition. -/
  | openLoadClear (n : (Fin 48))
  /-- OAR_BASE_INSTRUCTION (R276): An oar executes an ordinary RV32IMFC instruction (ALU, branch, multiply, divide, floating point, CSR read, FENCE) with the cycle count of R276 and the arithmetic of R96. -/
  | oarBaseInstruction (crew : (Fin 6)) (oar : (Fin 512))
  /-- PATTERN_CHECKER_SYNC (R392): In TEST a lane's pattern checker synchronizes on the first 64 consecutive matching bits and from then on counts every bit. -/
  | patternCheckerSync (port : (Fin 8)) (lane : (Fin 4)) (rx : (List Bool))
  /-- FNET_FRAME_DISCARD (R486): A received frame with a bad FCS, a foreign address or VID, an unlisted kind, or a full receive buffer is discarded and counted. -/
  | fnetFrameDiscard (port : (Fin 2)) (frame : Bytes) (fcs : Bool) (full : Bool)
  /-- BOARD_PROGRAMMER_FLASH_WRITE (R12): While the device is held in RESET, an outside master writes the boot flash through the external interface. -/
  | boardProgrammerFlashWrite (addr : (BitVec 32)) (data : Bytes)
deriving DecidableEq, Repr

end Sys2Proof
end

