-- ==== Sys2Proof/Machine/TyKv.lean ====
section
/-! DEFINITION. The state of the key-value page manager and of the retune service (R303 to R343, R424 to R447). -/

namespace Sys2Proof.Machine

open Sys2Proof

/-- A filled slot of a page (R305) and the mass it has received in the step in progress (R297). -/
structure KvSlot where
  pos : Nat
  token : Nat
  score : Nat
  mass : Nat
deriving DecidableEq, Repr

/-- A page (R303, R304, R306): counts, header, filled slots by slot number, and the key and value rows by
((layer × 64 + head) × 2 + value) × 256 + slot. -/
structure KvPage where
  ref : Nat
  pin : Nat
  logical : Nat
  seq : Nat
  created : Nat
  slots : AMap KvSlot
  rows : AMap Bytes
deriving DecidableEq, Repr

/-- A node of the prefix tree (R312). -/
structure KvNode where
  parent : Option Nat
  tokens : List Nat
  page : Nat
  score : Nat
deriving DecidableEq, Repr

/-- A queue entry (R325) with the number of the part's verdict record, whether it is a replay, and the evictions (logical page, position) that a replay brings (R363). -/
structure KvEntry where
  id : Nat
  port : Nat
  prio : Nat
  crop : Nat
  part : Nat
  conf : Nat
  swath : Nat
  box : Nat
  trig : Nat
  deadline : Nat
  record : Option Nat
  replay : Bool
  evicts : List (Nat × Nat)
deriving DecidableEq, Repr

/-- A running sequence (R326, R341): its queue entry, the order of its join, its phase, the next position, its page
table (none: EMPTY), the reservation not yet taken, the generated tokens, the step of its join, its evict log with the
position of each eviction (R321, R361), and the marks that it was cancelled, and that its part has a verdict. -/
structure KvSeq where
  entry : KvEntry
  order : Nat
  decode : Bool
  nextPos : Nat
  pages : List (Option Nat)
  resv : Nat
  generated : List Nat
  joinStep : Nat
  log : List (Nat × Nat)
  cancelled : Bool
  decided : Bool
deriving DecidableEq, Repr

/-- A row of a step (R328). -/
structure KvRow where
  token : Nat
  pos : Nat
  slot : Nat
  kind : Nat
  patch : Nat
  crop : Nat
  emit : Bool
deriving DecidableEq, Repr

/-- The page manager of a partition: the pages that are not FREE by number, the tree by node number, the queue in
order of queueing, the sequences by slot, the steps since ARM, the rows of the step composed, the copies it lists
(source, destination), the pages its heat has pinned, the next sequence number, the next join number, and whether a flush
is due. -/
structure KvPart where
  pages : AMap KvPage
  tree : AMap KvNode
  queue : List KvEntry
  seqs : AMap KvSeq
  step : Nat
  rows : List KvRow
  copies : List (Nat × Nat)
  pinned : List Nat
  nextId : Nat
  nextJoin : Nat
  flush : Bool
deriving DecidableEq, Repr

/-- A manager after ARM. -/
def KvPart.init : KvPart := ⟨[], [], [], [], 0, [], [], [], 1, 0, false⟩

/-- A sample of the reference store (R425). -/
structure Sample where
  jpeg : Bool
  label : Nat
  crc : Nat
  data : Bytes
deriving DecidableEq, Repr

/-- A batch of the ring (R433): its number, the sample indices of its rows so far, and whether it is complete. -/
structure Batch where
  num : Nat
  samples : List Nat
  complete : Bool
deriving DecidableEq, Repr

/-- What decoding a JPEG sample finds (R426, R428, R429): the samples of its frame header, MCU padding included (none where the
header is broken), whether the frame has the size and components of the section, the Huffman symbols up to the end or to where the
stream breaks, and the pixel values (none where it breaks). -/
structure JpegResult where
  frame : Option Nat
  sized : Bool
  symbols : Nat
  pixels : Option Bytes
deriving DecidableEq, Repr, Inhabited

/-- The retune state of a partition (R424 to R442): the samples in index order, the last index given, the bad set (1, 2) and the
removed marks, the decoded cache, the epoch, the indices it uses (0: not begun) and those removed at its start, the place in its
permutation, the work still owed to the sample in decoding (index, symbols, pixels), the batches of the ring, the next
batch number, the steps completed, the steps since restart, the generation, p1 and p2, the requests that wait for a step
end, and whether a publication waits for its idle copy. -/
structure Retune where
  samples : List Sample
  last : Option Nat
  bad : AMap Nat
  removed : List Nat
  cache : AMap Bytes
  epoch : Nat
  epochN : Nat
  epochRemoved : List Nat
  place : Nat
  carry : Option (Nat × Nat × Nat)
  ring : List Batch
  nextBatch : Nat
  steps : Nat
  t : Nat
  generation : Nat
  p1 : Nat
  p2 : Nat
  publishReq : Bool
  restartReq : Bool
  holding : Bool
deriving DecidableEq, Repr

/-- A retune state after load (R432, R439: p1 = p2 = 1.0). -/
def Retune.init : Retune :=
  ⟨[], none, [], [], [], 0, 0, [], 0, none, [], 0, 0, 0, 0, 0x3F800000, 0x3F800000, false, false, false⟩

end Sys2Proof.Machine
end

