-- ==== Sys2Proof/Config.lean ====
section
/-! DEFINITION. What the manual leaves open: opaque constants without a body, so that no proof can see a value of them (the free values of the assumption log). -/

namespace Sys2Proof.Config

open Sys2Proof.Machine

/-- The session tag that the device draws (R517: a non-zero 32-bit value): one more than this value, by the number
of the draw (notes/assumptions/10.md). -/
opaque tagSeed : Nat → Fin 0xFFFFFFFF

/-- The name that INFO gives an object the manual does not name (R515; notes/assumptions/11.md). -/
opaque unnamedEntry : Nat → BitVec 256

/-- SHA-512 (a published standard the manual cites, not restated; notes/assumptions/12.md). -/
opaque sha512 : Bytes → BitVec 512

/-- RSASSA-PSS verification of R604 under a modulus: message, signature (notes/assumptions/12.md). -/
opaque pssVerify : Bytes → Bytes → Bytes → Bool

/-- The attestation signature of R613 over a report, by the factory area (notes/assumptions/12.md). -/
opaque attestSign : Bytes → Bytes → BitVec 4096

/-- Does the factory area pass its check (R612; its layout is not given; notes/assumptions/13.md)? -/
opaque factoryGood : Bytes → Bool

/-- The DEVICE chain inside the factory area (R612; notes/assumptions/13.md). -/
opaque deviceChain : Bytes → Bytes

/-- The placement image of a plan of a container on crews of these profiles (R209 to R211: the rules do not fix the
slots and cycles to the last detail; notes/assumptions/14.md). -/
opaque image : Bytes → Nat → List Profile → Image

/-- This seat's part of the image of a spanning heat (R415): container, plan, profiles of its crews, members, member index
(notes/assumptions/14.md). -/
opaque spanImage : Bytes → Nat → List Profile → Nat → Nat → Image

/-- The built-in DECODE program on a JPEG sample (R426: the published standards ITU-T T.81 and T.871): firmware version, sample
bytes, IN_H, IN_W, IN_C (notes/assumptions/42.md). -/
opaque jpegDecode : Nat → Bytes → Nat → Nat → Nat → JpegResult

/-- What a STATE tensor of a retuned layer holds after load and after a restart (R441, R442: the package's values; no field of the
container says where they stand): container, tensor number (notes/assumptions/43.md). -/
opaque layerInit : Bytes → Nat → Bytes

/-- The minimum line period, in ns, that a plan declares for R166 (no field of R206 holds it; notes/assumptions/15.md). -/
opaque planLineNs : Bytes → Nat → Nat

/-- The longest time from close to completion, in ns, that a plan declares for R166 (notes/assumptions/15.md). -/
opaque planCloseNs : Bytes → Nat → Nat

/-- The gPTP instance of IEEE 802.1AS-2020 on a received message (R501, R502: a published standard the manual cites,
not restated): the state it keeps, the settings it reads, the port, the message and its corrected receive timestamp
(notes/assumptions/19.md). -/
opaque gptp : GptpView → Nat → Bytes → NetTime → GptpResult

/-- The bytes of a gPTP message (R501; the published standard; notes/assumptions/19.md): its kind, the clock identity,
the domain, the sequence number, the port, the timestamp it carries and what its Announce says (R502). -/
opaque gptpMessage : GptpSend → Bytes

/-- The body of a CTRL message other than HELLO (R405: content without a layout; notes/assumptions/25.md). -/
opaque ctrlBody : CtrlMsg → Bytes

/-- The fused idle power at 105 °C in 0.1 W (R636, R638) by the ENERGY field of the fuse block (R605; its layout is not given;
notes/assumptions/47.md). -/
opaque fusedIdle : Bytes → BitVec 16

/-- What the image area of the flash holds from the erase of an install until its readback (R616; a loss of supply may leave it so):
the image before, the image installed, and the number of the draw (notes/assumptions/52.md). -/
opaque partialImage : Bytes → Bytes → Nat → Bytes

/-- The status with which a BULK_IN or BULK_OUT entry fails whose access R544 refuses: a response code of R516 other than OK, less 1 (the
manual names none; notes/assumptions/59.md), by the number of the draw. -/
opaque bulkEntryStatus : Nat → Fin 10

/-- A byte that a read delivers where the manual gives no value (an uncorrectable word, R155; notes/assumptions/33.md), by the
number of the draw. -/
opaque freeByte : Nat → Byte

/-- The scratch blocks that the cox places for a heat of a plan on a crew rank (R209 to R211: not fixed to the last detail;
notes/assumptions/14.md). -/
opaque heatBlocks : Bytes → Nat → List Profile → Nat → List Nat

/-- The partition that owns a granule (R225): memory 1 the line store, 2 the commons, 4 LPDDR5; by the loaded containers with
their partitions and the ports' partitions and buffer counts (where the cox places a reservation is not given;
notes/assumptions/34.md). `none`: the device. -/
opaque granuleOwner : Nat → List (Nat × Bytes) → List (Option Nat × Nat) → Nat → Option Nat

/-- Is half of a path asymmetry of a number of ps that is no whole number of 2^-16 ns taken as the greater of the two beside it
(R419 gives no rounding; notes/assumptions/61.md)? -/
opaque asymUp : Int → Bool

/-- Is a fall of the admission limit by a number of hundredths of a watt that is no whole number of 0.1 W taken as the greater of the
two beside it (R635 gives no rounding; notes/assumptions/62.md)? -/
opaque thermUp : Nat → Bool

/-- What a copy of the stored entries reads as after a board programmer has written bytes at an offset in it (R595 gives its area and not
its layout; notes/assumptions/13.md), from what it was; by number of the draw. -/
opaque copyAfter : Option StoredCopy → Nat → Bytes → Nat → Option StoredCopy

/-- What the package store holds after a board programmer has written bytes at an offset in it (notes/assumptions/13.md). -/
opaque storeAfter : List StoredPkg → Nat → Bytes → Nat → List StoredPkg

/-- The answer of a recovery INSTALL whose second readback fails: ERR_RANGE, or else ERR_AUTH (R618 names no other; notes/assumptions/65.md),
by the number of the draw. -/
opaque recoveryRange : Nat → Bool

/-- The station address to which frames for an IPv4 address go (R513: to the request's source; a command carries its message without the frame
around it; notes/assumptions/121.md). -/
opaque nextHop : Nat → BitVec 48

/-- The type of service (bits 7:0), the identification (23:8) and the time to live (31:24) of an IPv4 packet of the device, by its payload (R487
gives none of them; notes/assumptions/123.md). -/
opaque ipFields : Bytes → BitVec 32

/-- Does a UDP datagram of the device carry a checksum (R487 does not say; notes/assumptions/123.md)? By its payload. -/
opaque udpSum : Bytes → Bool

end Sys2Proof.Config
end

