-- ==== Sys2Proof/Machine/TyPci.lean ====
section
/-! DEFINITION. The state of the PCIe function: the link, the mailbox cells, the transfer lists and the reject-image archive (R539 to R559). -/

namespace Sys2Proof.Machine

open Sys2Proof

/-- One entry of a transfer list (R548). -/
structure XlEntry where
  op : Nat
  more : Bool
  index : Nat
  sub : Nat
  host : Nat
  len : Nat
  bulk : Nat
deriving DecidableEq, Repr

/-- An active transfer list (R547 to R552): its identifier, the session that submitted it, where the completion record
goes, the entries, the entry now running, the bytes that the run of OD_WRITE entries in progress has assembled, the
bytes the last entry moved, whether an abort or the close of the session stops it at the next entry boundary, and
the result of the entry in progress once it has been executed, and whether that entry's action completes later. -/
structure XList where
  id : Nat
  session : Nat
  compl : Nat
  irq : Bool
  entries : List XlEntry
  pos : Nat
  run : Bytes
  lastBytes : Nat
  abort : Bool
  silent : Bool
  result : Option Nat
  waits : Bool
deriving DecidableEq, Repr

/-- The reject-image archive (R553, R554): its size in bytes from ARM on, the unread records oldest first, and the
counts of records written and read since ARM. -/
structure Archive where
  cap : Nat
  unread : List Bytes
  written : Nat
  read : Nat
deriving DecidableEq, Repr

/-- The PCIe function: rate and width of the link (rate 0: down), the cells whose request is still executing
(mailbox, cell, REQ_ID), the response cells by mailbox × 8 + cell with their DONE word, the active lists in the order
in which they are served, the last failed list, and the archive. -/
structure Pcie where
  rate : Nat
  width : Nat
  busy : List (Nat × Nat × Nat)
  cells : AMap (Nat × Bytes)
  lists : List XList
  fault : Nat
  archive : Archive
deriving DecidableEq, Repr

end Sys2Proof.Machine
end

