-- ==== Sys2Proof/Machine/State.lean ====
section
/-! DEFINITION. The whole state of the device, its faults and refusals, and the state right after reset. -/

namespace Sys2Proof.Machine

open Sys2Proof

/-- Why a step stops with a fault. -/
inductive Fault where
  /-- Raised by the row BOARD_PROGRAMMER_FLASH_WRITE alone, for a byte outside the 64 MiB of R9 and R595: the flash has
  no such address. Safe: the model stops where the manual describes nothing. -/
  | noSuchFlashAddress (a : Nat)
deriving DecidableEq, Repr

/-- Why a step is refused. -/
inductive Refusal where
  /-- Raised by an arm of `exec` that has no meaning yet. Safe: nothing is proved of such a command. -/
  | notModelled (mnemonic : String)
deriving DecidableEq, Repr

/-- What an observer outside the device sees, newest first in the log `sent` (the model's own log). -/
inductive Out where
  /-- A response of the object dictionary protocol: interface, peer, message (R513). -/
  | response (itf peer : Nat) (msg : Bytes)
  /-- The leading edge of a camera trigger with its stamp (R49), and the end of its pulse. -/
  | camTrig (port : Nat) (stamp : NetTime)
  | camTrigEnd (port : Nat)
  /-- The pins A and B of a divided output (R461). -/
  | enco (e : Nat) (a b : Bool)
  /-- A frame handed to a field network port (R490). -/
  | frame (port queue : Nat) (bytes : Bytes)
  /-- A cell sent on a Nuord port (R394). -/
  | cell (port : Nat) (bytes : Bytes)
  /-- A CTRL message sent to a seat (R405), beside the cells that carry it. -/
  | ctrl (dst : Nat) (msg : CtrlMsg)
  /-- A control block sent on a lane of a Nuord port (R375, R380). -/
  | block (port lane : Nat) (bytes : Bytes)
  /-- An MSI-X vector (R555). -/
  | msix (vector : Nat)
  /-- A write to host memory: a transfer list's data, and its completion record (R549, R551). -/
  | hostWrite (addr : Nat) (bytes : Bytes)
  /-- The completion of an aperture access (R544): its status (0 Successful Completion, 1 Unsupported Request, 4 Completer
  Abort) and, for a read, its data. -/
  | aperture (status : Nat) (bytes : Bytes)
deriving DecidableEq, Repr

/-- The state of the device. `pending` is the queue of commands that wait, first in, first out; `fresh` counts the
free values taken so far; `sent` is the log of what left the device, newest first. -/
structure State where
  dev : Device
  boot : Boot
  od : OdStore
  cyc : Cyclic
  field : Field
  cams : Vector CamPort 12
  cox : Cox
  crews : Vector Crew 6
  det : Det
  kv : Vector KvPart 8
  retune : Vector Retune 8
  squad : Squad
  mem : Mem
  units : Units
  tu : TimeUnit
  fnet : FieldNet
  saf : Safety
  recs : Records
  pci : Pcie
  sent : List Out
  fresh : Nat
  pending : List Instr
deriving DecidableEq, Repr

/-- The heat table, the queue and the regulators after BOOT (R200, R234 to R236). -/
def Cox.init : Cox :=
  ⟨Vector.replicate 16 none, [], [], [], 1, 0, 0xFF, 0, [], 0, 0, 0, 0, false, false, Vector.replicate 8 ⟨64, 0, []⟩, false,
    0, [], [], false, [], Vector.replicate 8 0, []⟩

/-- The determinism block after BOOT (R368, R369). -/
def Det.init : Det := ⟨0, [], zeros 16, Vector.replicate 8 [], Vector.replicate 8 0⟩

/-- The field block after BOOT: every output off, the rigger link down until VRIG is applied (R626). -/
def Field.init : Field :=
  ⟨Vector.replicate 48 FieldCh.init, Vector.replicate 6 0, false, false, false, Vector.replicate 8 Encoder.init,
    Vector.replicate 16 Divider.init, Vector.replicate 32 TrigSlot.init, ⟨[], 0, false, Vector.replicate 12 0⟩⟩

/-- The supervisor after BOOT (R589). -/
def Safety.init : Safety :=
  ⟨0, 0, 0, 0, none, [], [], [], [], Vector.replicate 6 0, 0, [], Vector.replicate 75 0, []⟩

/-- The device block as BOOT begins (R36, R638). Hull supplies are in their windows, the field-side ones are not
(notes/assumptions/3.md). -/
def Device.init : Device :=
  ⟨.boot, 0, 0, none, false, false, true, Vector.ofFn (fun i => decide (i.val < 10)), Vector.replicate 6 false,
    Vector.replicate 34 0, 4200, 0, Vector.replicate 12 0⟩

/-- A ledger record before any step has begun. -/
def LedgerRec.init : LedgerRec := ⟨0, 0, 2, 0, 0, 0, 0, false, false, false, false, false, 0, 0xFF, 0, 0⟩

/-- A blank flash (notes/assumptions/4.md). -/
def Flash.init : Flash := ⟨[], [], [], 0, none, none, [], [], []⟩

/-- The boot block as BOOT begins, before step 1 (R596). The fuse block reads as zero but for `ID_CREW_FUSED` of an A6 part
(R537; notes/assumptions/4.md). -/
def Boot.init : Boot :=
  ⟨Flash.init, [(553, 0xFF#8)], LedgerRec.init, false, false, none, none, false, none, false, 0, none, none, 0, 0, [], none, [],
    ⟨none, 0, [], [], false, false, none⟩, false⟩

/-- The time unit at BOOT (R492, R494, R497). -/
def TimeUnit.init : TimeUnit := ⟨0, 0, 0, 0, 0, 0, .free, 0⟩

/-- The machine right after reset: BOOT has begun and no boot step has run; every entry at its default, no session, no
command waiting (R492, R530). -/
def State.reset : State :=
  { dev := Device.init, boot := Boot.init, od := ⟨[], [], [], [], Vector.replicate 48 none⟩
    cyc := ⟨false, 0, none, 0, false, false, 0, false⟩
    field := Field.init, cams := Vector.replicate 12 CamPort.init, cox := Cox.init, crews := Vector.replicate 6 Crew.init
    det := Det.init, kv := Vector.replicate 8 KvPart.init, retune := Vector.replicate 8 Retune.init, squad := Squad.init
    mem := Mem.init, units := Units.init
    tu := TimeUnit.init, fnet := ⟨Vector.replicate 2 FnetPort.init, 0, none, none⟩, saf := Safety.init
    recs := ⟨[], [], 0, 0, Vector.replicate 12 0⟩, pci := ⟨0, 0, [], [], [], 0, ⟨0, [], 0, 0⟩⟩
    sent := [], fresh := 0, pending := [] }

end Sys2Proof.Machine
end

