-- ==== Sys2Proof/Machine/Ops.lean ====
section
/-! DEFINITION. The named operations that every block uses: the committed value of an entry, the lint counters, the log of what leaves the device, free values, time, and the device's part grade. -/

namespace Sys2Proof.Machine

open Sys2Proof

/-- The part byte of the fuse block, word PART of R605 as `ID_PART` shows it (R537). -/
def State.part (s : State) : Nat := (memRead s.boot.fuses 551).toNat

/-- A field of the fuse block (R605), by byte and length. -/
def State.fuse (s : State) (o n : Nat) : Nat := leNat (memReadN s.boot.fuses o n)

/-- Bits 63:0 of `ID_DEVICE`, the DEV_ID of R380 and R406 (R537, R605). -/
def State.devId (s : State) : Nat := s.fuse 529 8

/-- `FNET_MAC` of a port: the fused base plus its number, in bits 47:0 (R537, R605). -/
def State.mac (s : State) (port : Nat) : Nat := wrapAdd 48 (s.fuse 545 6) port

/-- The crews of the grade (R1, R4): 6 on an A6, 5 on an A5. -/
def State.crewCount (s : State) : Nat := if s.part.testBit 0 then 5 else 6

/-- Is the part of the -64 memory option (R1)? -/
def State.small (s : State) : Bool := s.part.testBit 1

/-- The mask of the crews of the grade. -/
def State.crewMask (s : State) : Nat := 2 ^ s.crewCount - 1

/-- The default actions of the supervisor's events 1 to 12 (R584). -/
def safActionDefault (elem : Nat) : Nat := [1, 1, 1, 0, 1, 0, 0, 2, 0, 0, 0, 2].getD elem 0

/-- The default of an entry's instance and element (R511): the catalogue's, and where the catalogue's cell depends on
the part, the instance or the element, as its meaning says. -/
def Ent.dflt (e : Ent) (part inst elem : Nat) : OdVal :=
  let a5 := part.testBit 0
  let sm := part.testBit 1
  let first (n : Nat) : OdVal := .num (if inst = 0 then n else 0)
  match e with
  | .PART_ENABLE => first 1
  | .PART_CREW_MASK => first (if a5 then 0x1F else 0x3F)
  | .PART_CAM_MASK => first 0x0FFF
  | .PART_SCR_QUOTA => first (if a5 then 1880 else 2256)
  | .PART_MEM_QUOTA => first (if sm then 31488 else 63232)
  | .PART_RATE => first 145
  | .FNET_ENABLE => first 1
  | .MGL_IR_M => .num (if elem % 5 = elem / 5 then 4096 else 0)
  | .SAF_ACTION => .num (safActionDefault elem)
  | .QBV_LIST => .bytes (leBytes 4 0x0F ++ leBytes 4 1000000)
  | _ => if e.row.ty = .domain then .bytes (if e.row.exactLen then zeros e.row.maxLen else []) else .num e.row.dflt

/-- The committed value of an entry, which is the value in effect (R527). -/
def State.val (s : State) (e : Ent) (inst elem : Nat) : OdVal :=
  amGet s.od.committed (e.key inst elem) (e.dflt s.part inst elem)

/-- A scalar's committed value as its bits. -/
def OdVal.toNat : OdVal → Nat
  | .num n => n
  | .bytes _ => 0

/-- A DOMAIN's committed value. -/
def OdVal.toBytes : OdVal → Bytes
  | .num _ => []
  | .bytes b => b

/-- The committed value of a scalar entry's instance. -/
def State.num (s : State) (e : Ent) (inst : Nat) : Nat := (s.val e inst 0).toNat

/-- The committed value of one element of a scalar entry. -/
def State.numAt (s : State) (e : Ent) (inst elem : Nat) : Nat := (s.val e inst elem).toNat

/-- A BOOLEAN entry's committed value. -/
def State.flag (s : State) (e : Ent) (inst : Nat) : Bool := s.num e inst != 0

/-- A signed entry's committed value. -/
def State.sint (s : State) (e : Ent) (inst : Nat) : Int := asInt (8 * e.row.ty.size) (s.num e inst)

/-- The committed value of a DOMAIN entry's instance. -/
def State.byt (s : State) (e : Ent) (inst : Nat) : Bytes := (s.val e inst 0).toBytes

/-- Write a committed value, keeping the store canonical. -/
def State.setVal (s : State) (e : Ent) (inst elem : Nat) (v : OdVal) : State :=
  { s with od := { s.od with committed := amSet s.od.committed (e.key inst elem) v (e.dflt s.part inst elem) } }

/-- Write a committed scalar. -/
def State.setNum (s : State) (e : Ent) (inst : Nat) (n : Nat) : State := s.setVal e inst 0 (.num n)

/-- The value of a lint counter. -/
def State.lintVal (s : State) (l : Lint) (inst : Nat) : Nat := amGet s.od.lints (l.key inst) 0

/-- Advance a lint counter by `n`, saturating at 0xFFFF (R592 and the lint tables). -/
def State.lintBy (s : State) (l : Lint) (inst n : Nat) : State :=
  { s with od := { s.od with lints := amSet s.od.lints (l.key inst) (satInc (s.lintVal l inst) n) 0 } }

/-- Advance a lint counter of an instance by 1. -/
def State.lintAt (s : State) (l : Lint) (inst : Nat) : State := s.lintBy l inst 1

/-- Advance a lint counter by 1. -/
def State.lint (s : State) (l : Lint) : State := s.lintBy l 0 1

/-- Clear a lint counter (R8: read and clear). -/
def State.lintClear (s : State) (l : Lint) (inst : Nat) : State :=
  { s with od := { s.od with lints := amErase s.od.lints (l.key inst) } }

/-- Append to the log of what left the device. -/
def State.emit (s : State) (o : Out) : State := { s with sent := o :: s.sent }

/-- Take the number of the next free value. -/
def State.draw (s : State) : State := { s with fresh := s.fresh + 1 }

/-- `TS_MONO` (R494). -/
def State.now (s : State) : Nat := s.tu.mono

/-- Network time in the format of R492. -/
def State.netTime (s : State) : NetTime := ⟨s.tu.sec, s.tu.sub >>> 48, (s.tu.sub >>> 32) % 65536⟩

/-- Is network time not synchronised (R500: synchronised in FREE, LOCKED and HOLDOVER)? -/
def State.unsync (s : State) : Bool := decide (s.tu.state = .acquiring) || decide (s.tu.state = .lost)

/-- Is the device in a state in which it runs heats (R26)? -/
def DevState.runs : DevState → Bool
  | .run => true | .degraded => true | _ => false

/-- Is the device in a state in which the fire list and the triggered outputs are active (R26)? -/
def DevState.active : DevState → Bool
  | .armed => true | .run => true | .degraded => true | _ => false

/-- The functions of a list for its side of the state: `f` over the elements, left to right. -/
def State.each {α : Type} (s : State) (l : List α) (f : State → α → State) : State := l.foldl f s

/-- Update one camera port. -/
def State.modCam (s : State) (p : Fin 12) (f : CamPort → CamPort) : State :=
  { s with cams := s.cams.set p (f s.cams[p]) }

/-- Update the field block. -/
def State.modField (s : State) (f : Field → Field) : State := { s with field := f s.field }

/-- Update one field channel. -/
def State.modChan (s : State) (n : Fin 48) (f : FieldCh → FieldCh) : State :=
  s.modField (fun b => { b with chans := b.chans.set n (f b.chans[n]) })

/-- Update one encoder channel. -/
def State.modEnc (s : State) (n : Fin 8) (f : Encoder → Encoder) : State :=
  s.modField (fun b => { b with encs := b.encs.set n (f b.encs[n]) })

/-- Update one divider. -/
def State.modDiv (s : State) (d : Fin 16) (f : Divider → Divider) : State :=
  s.modField (fun b => { b with divs := b.divs.set d (f b.divs[d]) })

/-- Update one trigger slot. -/
def State.modSlot (s : State) (n : Fin 32) (f : TrigSlot → TrigSlot) : State :=
  s.modField (fun b => { b with slots := b.slots.set n (f b.slots[n]) })

/-- Update the fire list. -/
def State.modFire (s : State) (f : FireList → FireList) : State :=
  s.modField (fun b => { b with fire := f b.fire })

/-- Update the cox. -/
def State.modCox (s : State) (f : Cox → Cox) : State := { s with cox := f s.cox }

/-- Update one crew. -/
def State.modCrew (s : State) (c : Fin 6) (f : Crew → Crew) : State := { s with crews := s.crews.set c (f s.crews[c]) }

/-- Update the determinism block. -/
def State.modDet (s : State) (f : Det → Det) : State := { s with det := f s.det }

/-- Update the supervisor. -/
def State.modSaf (s : State) (f : Safety → Safety) : State := { s with saf := f s.saf }

/-- Update the device block. -/
def State.modDev (s : State) (f : Device → Device) : State := { s with dev := f s.dev }

/-- Update the boot block. -/
def State.modBoot (s : State) (f : Boot → Boot) : State := { s with boot := f s.boot }

/-- Update the records region. -/
def State.modRecs (s : State) (f : Records → Records) : State := { s with recs := f s.recs }

/-- Update the time unit. -/
def State.modTu (s : State) (f : TimeUnit → TimeUnit) : State := { s with tu := f s.tu }

/-- What an action of the object dictionary answers (R516): the state after it, the response code, the response data,
and whether the response follows later (R521). -/
structure Reply where
  state : State
  status : Status
  data : Bytes
  later : Bool
deriving DecidableEq, Repr

/-- The action is done. -/
def Reply.ok (s : State) : Reply := ⟨s, .ok, [], false⟩

/-- The action is refused. -/
def Reply.err (s : State) (c : Status) : Reply := ⟨s, c, [], false⟩

/-- The four bytes that name an entry in an ERR_RANGE response (R529). -/
def entryName (index sub : Nat) : Bytes := leBytes 2 index ++ leBytes 1 sub ++ [0#8]

/-- A value outside its entry's range (R529). -/
def Reply.range (s : State) (e : Ent) (inst elem : Nat) : Reply :=
  ⟨s, .range, entryName (e.row.index + inst) (e.row.sub + elem), false⟩

/-- The response of the action follows later. -/
def Reply.wait (s : State) : Reply := ⟨s, .ok, [], true⟩

/-- Write a committed value by its key. -/
def State.setKey (s : State) (key : Nat) (v : OdVal) : State :=
  match findEnt (key / 256) (key % 256) with
  | some (.ent e i k) => s.setVal e i k v
  | _ => s

/-- The waiting commits whose keys satisfy `p` take effect together (R528). -/
def State.applyWaiting (s : State) (p : Nat → Bool) : State :=
  let now := s.od.waiting.filter (fun e => p e.1)
  let s1 := { s with od := { s.od with waiting := s.od.waiting.filter (fun e => !p e.1) } }
  s1.each now (fun s e => s.setKey e.1 e.2)

/-- Is a key in a group (R538)? -/
def inGroup (g : Nat) (key : Nat) : Bool := groupOf (key / 256) == g

/-- A number as a `Fin`, where it is one. -/
def toFin? (n i : Nat) : Option (Fin n) := if h : i < n then some ⟨i, h⟩ else none

/-- All numbers below `n`. -/
def allFin (n : Nat) : List (Fin n) := List.finRange n

end Sys2Proof.Machine
end

