-- ==== Sys2Proof/Machine/Frames.lean ====
section
/-! DEFINITION. The frames that the device sends on the field network, and its transmit queues (R487, R513). -/

namespace Sys2Proof.Machine

open Sys2Proof

/-- Update a field network port. -/
def State.modFnet (s : State) (p : Fin 2) (f : FnetPort → FnetPort) : State :=
  { s with fnet := { s.fnet with ports := s.fnet.ports.set p (f s.fnet.ports[p]) } }

/-- The broadcast address. -/
def bcastAddr : Nat := 2 ^ 48 - 1

/-- The one's complement sum of the 16-bit words of a byte string (R487: IETF RFC 792, IPv4 and UDP). -/
def onesSum (b : Bytes) : Nat :=
  let l := chunk b
  let t := l.foldl (· + ·) 0
  let f (x : Nat) := x / 65536 + x % 65536
  f (f (f t))
where
  /-- The 16-bit words of a byte string, padded with a zero byte. -/
  chunk : Bytes → List Nat
    | [] => []
    | [a] => [a.toNat * 256]
    | a :: b :: r => (a.toNat * 256 + b.toNat) :: chunk r

/-- The Internet checksum (R487). -/
def inetSum (b : Bytes) : Nat := 65535 - onesSum b

/-- A frame of the device (R487): destination, the tag with its PCP (untagged if `FNET_VID` is 0 or no PCP), the
Ethertype and what follows. -/
def State.ethOut (s : State) (p : Fin 2) (dst : Nat) (pcp : Option Nat) (etype : Nat) (payload : Bytes) : Bytes :=
  let vid := s.num .FNET_VID p.val
  let tag := match pcp with
    | some c => if vid = 0 then [] else beBytes 2 0x8100 ++ beBytes 2 (c * 8192 + vid)
    | none => []
  beBytes 6 dst ++ beBytes 6 (s.mac p.val) ++ tag ++ beBytes 2 etype ++ payload

/-- Queue a frame (R487). -/
def State.queueFrame (s : State) (p : Fin 2) (q : Fin 4) (b : Bytes) (ev : Option (Nat × Nat × Nat)) : State :=
  s.modFnet p (fun f => { f with queues := f.queues.set q (f.queues[q] ++ [⟨b, ev⟩]) })

/-- An IPv4 packet (R487), with the type of service, the identification and the time to live in `v`. -/
def ipv4Bytes (v : BitVec 32) (src dst proto : Nat) (b : Bytes) : Bytes :=
  let h (c : Nat) := beBytes 1 0x45 ++ beBytes 1 (v.toNat % 256) ++ beBytes 2 (20 + b.length) ++ beBytes 2 (bits v.toNat 23 8) ++ beBytes 2 0 ++
    beBytes 1 (bits v.toNat 31 24) ++ beBytes 1 proto ++ beBytes 2 c ++ beBytes 4 src ++ beBytes 4 dst
  h (inetSum (h 0)) ++ b

/-- An IPv4 packet of the device; the manual leaves three fields of its header open (notes/assumptions/123.md). -/
def ipv4Packet (src dst proto : Nat) (b : Bytes) : Bytes := ipv4Bytes (Config.ipFields b) src dst proto b

/-- A UDP datagram of the device (R487), with its checksum or with none (notes/assumptions/123.md). -/
def udpBytes (src dst sport dport : Nat) (b : Bytes) : Bytes :=
  let h (c : Nat) := beBytes 2 sport ++ beBytes 2 dport ++ beBytes 2 (8 + b.length) ++ beBytes 2 c
  let c := inetSum (beBytes 4 src ++ beBytes 4 dst ++ beBytes 2 17 ++ beBytes 2 (8 + b.length) ++ h 0 ++ b)
  h (if Config.udpSum b then (if c = 0 then 65535 else c) else 0) ++ b

/-- The frame of a message to a peer (R487, R513, R518): by Ethertype 0x88B5 to its station address, or by UDP from port 40680 to its address
and port. -/
def State.messageFrame (s : State) (p : Fin 2) (peer : Nat) (msg : Bytes) : Bytes :=
  let pcp := some (s.num .FNET_PCP_OD p.val)
  if bits peer 63 48 = 1 then
    let ip := s.num .FNET_IPV4 p.val
    s.ethOut p (Config.nextHop (bits peer 31 0)).toNat pcp 0x0800
      (ipv4Packet ip (bits peer 31 0) 17 (udpBytes ip (bits peer 31 0) 40680 (bits peer 47 32) msg))
  else s.ethOut p (bits peer 47 0) pcp 0x88B5 msg

/-- A message waits in a transmit queue of the field network port on which its request arrived (R487, R513); none for PCIe, or where the port
is off. -/
def State.queueMessage (s : State) (q : Fin 4) (itf peer : Nat) (msg : Bytes) : State :=
  match toFin? 2 itf with
  | some p => if s.fnet.ports[p].on then s.queueFrame p q (s.messageFrame p peer msg) none else s
  | none => s

end Sys2Proof.Machine
end

