-- ==== Sys2Proof/Machine/Records.lean ====
section
/-! DEFINITION. The audit block, the verdict and result records and their rings, the packages that a port feeds, and the lost decision time (R359, R360, R580 to R583, R586). -/

namespace Sys2Proof.Machine

open Sys2Proof

/-- An audit block with every field zero. -/
def Audit.zero : Audit :=
  ⟨0, 0, false, 0, 0, 0, false, 0, 0, 0, 0, 0, 0, 0, 0, 0, 0, 0, 0, 0, 0, zeros 64, []⟩

/-- The 192 bytes of an audit block (R359). -/
def Audit.bytes (a : Audit) : Bytes :=
  packBytes 80 [(4, 1), (4, a.planKind), (3, a.partition), (1, b2n a.replay), (4, a.package), (8, a.plan), (6, a.crews),
    (1, b2n a.heatless), (1, 0), (32, a.step), (64, a.heatSerial), (64, a.stream), (32, a.inputCrc), (32, a.seamCrc),
    (32, a.roiCrc), (32, a.cfgCrc), (32, a.patchEpoch), (32, a.retuneGen), (128, a.runSeed), (32, a.startPeriod),
    (32, a.donePeriod), (13, a.doneCycle), (19, 0), (32, a.fwVersion)] ++
  fit a.digest 64 ++ (List.range 6).flatMap (fun c => leBytes 8 (a.patchSummary.getD c 0))

/-- A record's bytes with the CRC of the whole in its 4 bytes at offset 60 (R580, R582). -/
def withRecordCrc (head rest : Bytes) : Bytes :=
  let h := fit head 60
  h ++ leBytes 4 (crc32c (h ++ zeros 4 ++ rest)) ++ rest

/-- The 256 bytes of a verdict record (R580). -/
def VerdictRec.bytes (r : VerdictRec) : Bytes :=
  withRecordCrc
    (packBytes 60 [(4, 1), (4, b2n r.swathLevel), (4, r.verdict.code), (3, r.outcome), (1, b2n r.secondLook),
      (1, b2n r.fireOvf), (1, b2n r.timeUnsync), (6, r.cause.code), (4, r.port), (4, 0), (32, r.partId), (64, r.swath),
      (32, r.recSeq), (10, r.boxSlot), (1, b2n r.noSlot), (21, 0), (64, ofInt 64 r.pOn),
      (112, leNat r.verdictTime.toBytes), (16, 0), (32, r.conf), (64, r.seqId)])
    r.audit.bytes

/-- The bytes of a result record (R582). -/
def ResultRec.bytes (r : ResultRec) : Bytes :=
  withRecordCrc
    (packBytes 60 [(4, 1), (4, r.kind), (4, r.status), (6, 0), (6, r.cause.code), (8, 0),
      (32, 64 + 192 + r.annex.length), (64, r.seqId), (64, r.recNo), (112, leNat r.time.toBytes), (16, 0),
      (32, r.partId), (128, 0)])
    (r.audit.bytes ++ r.annex)

/-- Verdicts that a lost cause turns into lost decision time (R586). -/
def Verdict.losable : Verdict → Bool
  | .late => true | .invalid => true | .undecided => true | _ => false

/-- The closed swath of a port with a counter. -/
def CamPort.swath? (c : CamPort) (cnt : Nat) : Option Swath := c.closed.find? (fun w => w.cnt == cnt)

/-- Update a closed swath of a port. -/
def CamPort.modSwath (c : CamPort) (cnt : Nat) (f : Swath → Swath) : CamPort :=
  { c with closed := c.closed.map (fun w => if w.cnt = cnt then f w else w) }

/-- The swath of a port with a counter. -/
def State.swath? (s : State) (port cnt : Nat) : Option Swath :=
  (toFin? 12 port).bind (fun p => s.cams[p].swath? cnt)

/-- Update a closed swath of a port. -/
def State.modSwath (s : State) (port cnt : Nat) (f : Swath → Swath) : State :=
  match toFin? 12 port with
  | some p => s.modCam p (fun c => c.modSwath cnt f)
  | none => s

/-- The first growth of `SAF_LOST_US` (R586): once for each swath, by the `TS_MONO` time from its first line to its
close, kept in CK_TS cycles. -/
def State.lostSwath (s : State) (port cnt : Nat) : State :=
  match s.swath? port cnt with
  | some w =>
    if w.lost then s
    else
      let t := (w.closed.getD s.now) - w.first.mono
      (s.modSwath port cnt (fun w => { w with lost := true })).modSaf (fun f => { f with lostTs := f.lostTs + t })
  | none => s

/-- The effect of a record's verdict and cause on the lost decision time (R586). -/
def State.lostByRecord (s : State) (r : VerdictRec) : State :=
  if r.verdict.losable && r.cause.lost then s.lostSwath r.port r.swath else s

/-- Write a verdict record with the next REC_SEQ of its port, keeping the newest 4,096 (R583). Answers its number. -/
def State.addVerdict (s : State) (r : VerdictRec) : State × Nat :=
  let seq := (match toFin? 12 r.port with | some p => s.recs.portSeq[p] | none => 0) + 1
  let n := s.recs.verdictCount
  let r' := { r with recSeq := seq }
  let ring := s.recs.verdicts ++ [(n, r')]
  let s1 := s.modRecs (fun q =>
    { q with
      verdicts := ring.drop (ring.length - 4096)
      verdictCount := n + 1
      portSeq := match toFin? 12 r.port with | some p => q.portSeq.set p seq | none => q.portSeq })
  (s1.lostByRecord r', n)

/-- Update a verdict record in place, where the ring still holds it (R580). -/
def State.modVerdict (s : State) (n : Nat) (f : VerdictRec → VerdictRec) : State :=
  let s1 := s.modRecs (fun q => { q with verdicts := q.verdicts.map (fun e => if e.1 = n then (e.1, f e.2) else e) })
  match s1.recs.verdicts.find? (fun e => e.1 == n) with
  | some e => s1.lostByRecord e.2
  | none => s1

/-- The verdict record of a number. -/
def State.verdict? (s : State) (n : Nat) : Option VerdictRec :=
  (s.recs.verdicts.find? (fun e => e.1 == n)).map (·.2)

/-- The newest whole result records that 1 MiB holds (R583). -/
def trimResults (l : List ResultRec) : List ResultRec :=
  (l.reverse.foldl (fun (acc : List ResultRec × Nat × Bool) r =>
    let n := acc.2.1 + 256 + r.annex.length
    if acc.2.2 && decide (n ≤ 1048576) then (r :: acc.1, n, true) else (acc.1, acc.2.1, false)) ([], 0, true)).1

/-- Write a result record (R582): its number and its time are those of the writing. -/
def State.addResult (s : State) (r : ResultRec) : State :=
  let n := s.recs.resultCount + 1
  s.modRecs (fun q =>
    { q with resultCount := n, results := trimResults (q.results ++ [{ r with recNo := n, time := s.netTime }]) })

/-- The entries of a port's ranges 0x2210 + n and 0x2310 + n in ascending subindex order, RW entries alone (R359). -/
def cfgEntries : List (Ent × Nat) :=
  entTable.filterMap (fun e =>
    if e.row.acc = .rw ∧ (e.row.index = 0x2210 ∨ e.row.index = 0x2310) then some (e, e.row.elems) else none)

/-- CFG_CRC of a port (R359): CRC-32C over the committed values of those entries, each in the bytes of its type. -/
def State.cfgCrc (s : State) (port : Nat) : Nat :=
  crc32c (cfgEntries.flatMap (fun e =>
    (List.range e.2).flatMap (fun k => leBytes e.1.row.ty.size (s.numAt e.1 port k))))

/-- CRC-32C over the seam rows of every plane (R359); 0 without an overlap. -/
def Swath.seamCrc (w : Swath) : Nat := if w.seam.all (·.isEmpty) then 0 else crc32c (w.seam.flatMap (·.flatten))

/-- The partition whose camera mask holds a port: the lowest enabled one (R235). -/
def State.partitionOfPort (s : State) (port : Nat) : Option Nat :=
  (List.range 8).find? (fun p => s.flag .PART_ENABLE p && (s.num .PART_CAM_MASK p).testBit port)

/-- The FAST plan of a port (R206): slot, plan number, package and plan, lowest slot first. -/
def State.fastPlan (s : State) (port : Nat) : Option (Nat × Nat × Package × Plan) :=
  (List.range 16).findSome? (fun i =>
    match (toFin? 16 i).bind (fun j => s.cox.packages[j]) with
    | some pkg =>
      match pkg.plans.findIdx? (fun p => decide (p.kind = .fast) && p.port == port) with
      | some k => (pkg.plans[k]?).map (fun p => (i, k, pkg, p))
      | none => none
    | none => none)

/-- The recipe record of a type (R323). -/
def Package.recipeOf (p : Package) (ty : Nat) : Option Bytes := p.recipe.find? (fun r => fieldAt r 0 1 == ty)

/-- The FIRE entry of a port (R465). -/
def Package.fireCfg (p : Package) (port : Nat) : Option FireCfg :=
  match p.recipeOf 2 with
  | none => none
  | some r =>
    (List.range ((r.length - 8) / 16)).findSome? (fun i =>
      let v := fieldAt r (8 + 16 * i) 16
      if bits v 3 0 = port then
        some ⟨port, v.testBit 8, bits v 21 16, bits v 27 22 + 1, asInt 32 (bits v 63 32), bits v 95 64⟩
      else none)

/-- The tensor's content that the package's heats have left, zero bytes where none has written it (notes/assumptions/2.md). -/
def Package.stateOf (p : Package) (td : Nat) : Bytes := amGet p.states td []

/-- The crop slot of a part (R325) in a package with a SECOND_LOOK record: slot number and the slot's bytes. -/
def Package.cropSlot (p : Package) (swath box : Nat) : Option (Nat × Bytes) :=
  match p.recipeOf 1 with
  | none => none
  | some r =>
    let slot := (swath * fieldAt r 66 2 + box) % 1024
    let t := p.stateOf (fieldAt r 64 2)
    let n := t.length / 1024
    some (slot, slice t (slot * n) n)

/-- The crop tag of a part (R355). -/
def cropTag (port box swath : Nat) : Nat := pack [(50, swath), (10, box), (4, port)]

/-- One archive record (R554), padded to a multiple of 64 bytes. -/
def archiveRecord (r : VerdictRec) (part : Nat) (t : NetTime) (crop : Option Bytes) : Bytes :=
  let c := crop.getD []
  packBytes 64 [(4, 1), (4, r.port), (4, r.verdict.code), (3, r.outcome), (1, b2n crop.isSome), (3, part), (13, 0),
    (32, r.partId), (64, r.swath), (112, leNat t.toBytes), (16, 0), (32, c.length)] ++
  fit c ((c.length + 63) / 64 * 64)

/-- Drop unread records, oldest first, until `n` more bytes fit; answers how many it dropped (R553). -/
def archiveRoom (cap n : Nat) : List Bytes → List Bytes × Nat
  | [] => ([], 0)
  | b :: r =>
    if ((b :: r).map List.length).sum + n ≤ cap then (b :: r, 0)
    else let (l, k) := archiveRoom cap n r; (l, k + 1)

/-- The archive append of a resolved entry (R553). The coach's copy of the crop is made at once (notes/assumptions/16.md). -/
def State.archiveAdd (s : State) (r : VerdictRec) : State :=
  if s.pci.archive.cap = 0 then s
  else
    let slot := (s.fastPlan r.port).bind (fun f => f.2.2.1.cropSlot r.swath r.boxSlot)
    let crop := match slot with
      | some (_, b) => if fieldAt b 0 8 = cropTag r.port r.boxSlot r.swath ∧ ¬ r.swathLevel ∧ ¬ r.noSlot then some b else none
      | none => none
    let b := archiveRecord r r.audit.partition s.netTime crop
    let (u, k) := archiveRoom s.pci.archive.cap b.length s.pci.archive.unread
    let s1 := { s with pci := { s.pci with archive :=
      { s.pci.archive with unread := u ++ [b], written := s.pci.archive.written + 1 } } }
    let s2 := if crop.isNone then s1.lint .PCI_ARCH_NOCROP else s1
    (s2.lintBy .PCI_ARCH_OVWR 0 k).emit (.msix 4)

end Sys2Proof.Machine
end

