-- ==== Sys2Proof/Machine/OdCore.lean ====
section
/-! DEFINITION. The messages of the object dictionary protocol, the responses of a session and its duplicate window (R513, R516 to R519, R543). -/

namespace Sys2Proof.Machine

open Sys2Proof

/-- The 40 bytes of a header (R513) with a given CHECK. -/
def headerBytes (e : Envelope) (op index sub offset length check : Nat) : Bytes :=
  packBytes 40 [(4, e.version.toNat), (4, e.kind.toNat), (8, op), (1, b2n e.dup), (1, b2n e.last), (1, b2n e.shadow),
    (5, e.rsvFlags.toNat), (8, e.status.toNat), (16, e.session.toNat), (16, e.rsvA.toNat), (32, e.reqId.toNat), (16, index),
    (8, sub), (8, e.rsvB.toNat), (64, offset), (16, length), (16, e.rsvC.toNat), (32, e.tag.toNat), (32, check),
    (32, e.rsvD.toNat)]

/-- CHECK of a request (R513): CRC-32C over the header with CHECK as zero and the data. -/
def requestCrc (r : Request) : Nat :=
  crc32c (headerBytes r.env r.op.toNat r.index.toNat r.sub.toNat r.offset.toNat r.length.toNat 0 ++ r.data)

/-- Are the reserved header fields zero (R513, R520 step 5)? -/
def reservedZero (e : Envelope) : Bool :=
  e.rsvFlags == 0 && e.rsvA == 0 && e.rsvB == 0 && e.rsvC == 0 && e.rsvD == 0 && e.status == 0 && !e.dup

/-- The session of a handle (R518). -/
def State.session? (s : State) (h : Nat) : Option Session := (toFin? 48 h).bind (fun i => s.od.sessions[i])

/-- Set the session of a handle. -/
def State.setSession (s : State) (h : Nat) (v : Option Session) : State :=
  match toFin? 48 h with
  | some i => { s with od := { s.od with sessions := s.od.sessions.set i v } }
  | none => s

/-- Update an open session. -/
def State.modSession (s : State) (h : Nat) (f : Session → Session) : State :=
  match s.session? h with
  | some x => s.setSession h (some (f x))
  | none => s

/-- The distance of a REQ_ID from H, read as a signed value (R519). -/
def reqDist (reqId high : Nat) : Int := asInt 32 ((reqId + 2 ^ 32 - high) % 2 ^ 32)

/-- Is a REQ_ID in the window of the 64 values up to H (R519)? -/
def inWindow (reqId high : Nat) : Bool := decide (-64 < reqDist reqId high) && decide (reqDist reqId high ≤ 0)

/-- The bytes of a response (R513, R516): the fields of its request, STATUS, LAST, and data. -/
def responseBytes (r : Request) (version session tag : Nat) (dup last : Bool) (st : Status) (data : Bytes) : Bytes :=
  let f (c : Nat) := packBytes 40 [(4, version), (4, 1), (8, r.op.toNat), (1, b2n dup), (1, b2n last), (1, 0), (5, 0),
    (8, st.code), (16, session), (16, 0), (32, r.env.reqId.toNat), (16, r.index.toNat), (8, r.sub.toNat), (8, 0),
    (64, r.offset.toNat), (16, data.length), (16, 0), (32, tag), (32, c), (32, 0)]
  f (crc32c (f 0 ++ data)) ++ data

/-- A stored response sent again with DUP set (R519): the bit and the CHECK. -/
def withDup (msg : Bytes) : Bytes :=
  let h := slice msg 0 40
  let f (c : Nat) := (h.take 2) ++ [BitVec.ofNat 8 (setBit (fieldAt h 2 1) 0 true)] ++ (slice h 3 29) ++ leBytes 4 c ++
    slice h 36 4
  let data := msg.drop 40
  f (crc32c (f 0 ++ data)) ++ data

/-- The mailbox of a PCIe message: the number its peer carries in the model's commands (R542; notes/assumptions/23.md). -/
def mailboxOf (e : Envelope) : Nat := e.peer.toNat % 16

/-- A response leaves on the interface on which its request arrived (R513): on a field network port by queue Q1 (R487); on PCIe to the cell whose
request it answers, with the DONE word, and vector 0 where `PCI_RESP_IRQ` is 1 (R543). -/
def State.deliver (s : State) (e : Envelope) (msg : Bytes) : State :=
  let s1 := s.emit (.response e.itf.val e.peer.toNat msg)
  if e.itf = 2 then
    match s1.pci.busy.find? (fun b => b.1 == mailboxOf e && b.2.2 == e.reqId.toNat) with
    | some b =>
      let s2 := { s1 with pci := { s1.pci with
        busy := s1.pci.busy.filter (fun x => !decide (x = b))
        cells := amInsert s1.pci.cells (b.1 * 8 + b.2.1) (b.2.2, msg) } }
      if s2.flag .PCI_RESP_IRQ 0 then s2.emit (.msix 0) else s2
    | none => s1
  else s1.queueMessage 1 e.itf.val e.peer.toNat msg

/-- Answer a request outside any session, or before one is known (R518). -/
def State.respondBare (s : State) (r : Request) (session tag : Nat) (st : Status) (data : Bytes) : State :=
  s.deliver r.env (responseBytes r 1 session tag false false st data)

/-- Answer a request of a session: the response is kept where R516 says so (R519). -/
def State.respond (s : State) (h : Nat) (r : Request) (st : Status) (data : Bytes) (last : Bool) : State :=
  match s.session? h with
  | none => s
  | some x =>
    let msg := responseBytes r x.version h x.tag false last st data
    let keep (l : List (Nat × Bytes)) := (l.filter (fun e => inWindow e.1 x.high && e.1 != r.env.reqId.toNat))
    let s1 := s.modSession h (fun x =>
      { x with stored := if st.kept then (r.env.reqId.toNat, msg) :: keep x.stored else keep x.stored })
    s1.deliver r.env msg

/-- The list of an identifier. -/
def State.xlist? (s : State) (id : Nat) : Option XList := s.pci.lists.find? (fun l => l.id == id)

/-- Update a list. -/
def State.modList (s : State) (id : Nat) (f : XList → XList) : State :=
  { s with pci := { s.pci with lists := s.pci.lists.map (fun l => if l.id = id then f l else l) } }

/-- The answer of an action that completes later (R521): the session's response, or the result of the list entry. A
command that the stroke seat carried is answered where the squad's messages are. -/
def State.complete (s : State) (o : Origin) (st : Status) (data : Bytes) : State :=
  match o with
  | .session h reqId =>
    match s.session? h with
    | some x =>
      match x.executing with
      | some r =>
        if r.env.reqId.toNat = reqId then (s.modSession h (fun x => { x with executing := none })).respond h r st data false
        else s
      | none => s
    | none => s
  | .list id => s.modList id (fun l => { l with result := some st.code })
  | .squad _ => s

/-- Close a session (R518, R552): its snapshot and assembly go, its executing request goes on without an answer, and its
lists stop at their next entry boundary without a completion record. -/
def State.closeSession (s : State) (h : Nat) : State :=
  let s1 := s.setSession h none
  { s1 with pci := { s1.pci with
    lists := s1.pci.lists.map (fun l => if l.session = h then { l with abort := true, silent := true } else l) } }

/-- The interface of a handle (R518). -/
def handleItf (h : Nat) : Nat := h / 16

/-- The handle of the CONTROL session (R518, R537): 0xFFFF for none. -/
def State.control (s : State) : Nat :=
  ((List.range 48).find? (fun h => match s.session? h with | some x => x.role == 1 | none => false)).getD 0xFFFF

/-- An entry of `OD_SESSIONS` (R537). -/
def State.sessionEntry (s : State) (h : Nat) : Bytes :=
  match s.session? h with
  | none => leBytes 2 0xFFFF ++ zeros 14
  | some x =>
    leBytes 2 h ++ leBytes 1 x.role ++ leBytes 1 x.version ++ leBytes 8 (if handleItf h = 2 then 2 * 2 ^ 48 else x.peer) ++
      leBytes 1 (x.queue.length + b2n x.executing.isSome) ++ zeros 3

end Sys2Proof.Machine
end

