-- ==== Sys2Proof/Machine/Link.lean ====
section
/-! DEFINITION. The Nuord ports: the block code, bring-up, power states, test loops, cells and replay (R372 to R399). -/

namespace Sys2Proof.Machine

open Sys2Proof

/-- Update the squad. -/
def State.modSquad (s : State) (f : Squad → Squad) : State := { s with squad := f s.squad }

/-- Update one Nuord port. -/
def State.modPort (s : State) (p : Fin 8) (f : NlPort → NlPort) : State :=
  s.modSquad (fun q => { q with ports := q.ports.set p (f q.ports[p]) })

/-- Update one lane of a port. -/
def NlPort.modLane (c : NlPort) (l : Fin 4) (f : NlLane → NlLane) : NlPort := { c with lanes := c.lanes.set l (f c.lanes[l]) }

/-- Update one lane. -/
def State.modLane (s : State) (p : Fin 8) (l : Fin 4) (f : NlLane → NlLane) : State := s.modPort p (fun c => c.modLane l f)

/-- The seeds of lanes 0 to 3 (R374). -/
def laneSeed (l : Nat) : Nat := [0x7FFFFFFF, 0x6EEEEEEE, 0x5DDDDDDD, 0x4CCCCCCC].getD l 0

/-- One bit through the register of R374: the register's output and its next value. -/
def lfsrBit (r : Nat) : Bool × Nat :=
  let o := xor (r.testBit 30) (r.testBit 27)
  (o, (r * 2 + b2n o) % 2 ^ 31)

/-- Descramble or scramble `n` bits from bit 0 up: the bits and the register after them (R374). -/
def scrambleBits : Nat → Nat → Nat → Nat × Nat
  | 0, r, _ => (0, r)
  | n + 1, r, v =>
    let (o, r1) := lfsrBit r
    let (w, r2) := scrambleBits n r1 (v / 2)
    (b2n (xor (v.testBit 0) o) + 2 * w, r2)

/-- The types of control blocks (R375). -/
def blockType (b : Nat) : Bool := b == 0x00 || b == 0x1E || b == 0x2D || b == 0x4B || b == 0x66

/-- A block with its polarity corrected (R375, R381). -/
def RxBlock.fix (b : RxBlock) (inverted : Bool) : RxBlock :=
  if inverted then ⟨!b.h0, !b.h1, 2 ^ 128 - 1 - b.payload % 2 ^ 128⟩ else b

/-- Is a block a block error (R373)? -/
def RxBlock.bad (b : RxBlock) : Bool := (b.h0 == b.h1) || (b.h0 && !b.h1 && !blockType (b.payload % 256))

/-- The CRC-32 of R394. -/
def crc32 (b : Bytes) : Nat := (b.foldl (crcByte 0xEDB88320) 0xFFFFFFFF) ^^^ 0xFFFFFFFF

/-- The 512 bytes of a cell (R394) with its numbers. -/
def NlCell.bytes (c : NlCell) (seq ack : Nat) : Bytes :=
  let b := packBytes 12 [(4, 1), (4, c.ty), (5, c.dst), (5, c.src), (1, b2n c.first), (1, b2n c.last), (1, 1), (3, 0),
    (24, seq), (24, ack), (9, c.payload.length), (15, 0)] ++ fit c.payload 496
  b ++ leBytes 4 (crc32 b)

/-- A control block of a type: byte 0, and bytes 1 to 15 as R375 gives. -/
def ctrlBlock (ty : Nat) : Bytes := List.replicate 16 (BitVec.ofNat 8 ty)

/-- Send a control block on all four lanes. -/
def State.sendCtrl (s : State) (p : Fin 8) (b : Bytes) : State := s.each (allFin 4) (fun s l => s.emit (.block p.val l.val b))

/-- The presets of R382: CM1 and CP1. -/
def preset (p : Nat) : Option (Nat × Nat) :=
  [(0, 0), (0, 4), (0, 8), (0, 12), (0, 16), (2, 0), (2, 6), (2, 10), (4, 4), (4, 8), (6, 6)][p]?

/-- The limits on coefficients (R382). -/
def tapsOk (cm1 cp1 : Nat) : Bool := decide (cm1 ≤ 8) && decide (cp1 ≤ 16) && decide (cm1 + cp1 ≤ 20)

/-- Is a port's committed clocking EMBEDDED (R387)? -/
def State.nlEmbedded (s : State) (p : Nat) : Bool := s.num .NL_CLK_MODE p == 1

/-- A TRAIN block of this side (R380). -/
def State.trainBytes (s : State) (p : Fin 8) (l : Fin 4) (phase preset cm1 cp1 token : Nat) : Bytes :=
  let lane := s.squad.ports[p].lanes[l]
  packBytes 16 [(8, 0x1E), (2, l.val), (3, p.val), (5, s.num .SQD_SEAT 0), (1, b2n (s.flag .SQD_ENABLE 0)), (2, phase),
    (1, b2n (s.nlEmbedded p.val)), (4, preset), (4, cm1), (5, cp1), (8, lane.fom), (4, 1), (1, b2n lane.saved.isSome),
    (16, token), (64, s.devId)]

/-- The fields of a TRAIN block (R380). -/
def readTrain (v : Nat) : Train :=
  ⟨bits v 9 8, bits v 12 10, bits v 17 13, v.testBit 18, bits v 20 19, v.testBit 21, bits v 25 22, bits v 29 26, bits v 34 30,
    bits v 42 35, bits v 46 43, v.testBit 47, bits v 63 48, bits v 127 64⟩

/-- Ask the far transmitter of a lane for a setting (R383). -/
def State.ask (s : State) (p : Fin 8) (l : Fin 4) (st : EqStage) (cm1 cp1 : Nat) : State :=
  let tok := wrapAdd 16 (s.squad.ports[p].lanes[l]).token 1
  let s1 := s.modLane p l (fun x => { x with stage := st, askCm1 := cm1, askCp1 := cp1, token := tok, applied := false })
  let pr := match st with | .preset k => k | _ => 0xF
  s1.emit (.block p.val l.val (s1.trainBytes p l 1 pr cm1 cp1 tok))

/-- EQUALIZE begins on a lane from step 1 of R383. -/
def State.eqStart (s : State) (p : Fin 8) (l : Fin 4) : State :=
  (s.modLane p l (fun x => { x with bestFom := 0, bestCm1 := 0, bestCp1 := 0 })).ask p l (.preset 0) 0 0

/-- Enter DETECT: the port sends 1010 and forgets the bring-up before (R379). A full bring-up numbers cells from 0 (R395). -/
def NlPort.toDetect (c : NlPort) : NlPort :=
  { c with
    state := .detect, sub := 0, skipEq := false, savedTry := false, farRack := false, peer := none, peerId := 0, version := 0,
    reversed := false, txSeq := 0, replay := [], replayFrom := none, replayCount := 0, expect := 0, nak := none, unacked := 0,
    partials := [], fwd := [], easyTx := false, easyRx := false, retrains := [], exch := none
    lanes := c.lanes.map (fun l => { NlLane.init with cm1 := 0, cp1 := 0, saved := l.saved, fom := 0 }) }

/-- The alignment marks of a bring-up or RETRAIN start over. -/
def NlLane.realign (l : NlLane) : NlLane :=
  { l with commas := 0, aligned := false, laneNo := none, missed := 0, blockErrs := 0, farDone := false, commaSeen := false }

/-- A port fails (R386). -/
def State.nlFail (s : State) (p : Fin 8) (cause : Nat) : State :=
  (s.modPort p (fun c => { c with state := .failed, failCause := cause, exch := none })).lintAt .NL_DOWN p.val

/-- A port enters RETRAIN (R385); the fourth within one second (400,000,000 CK_TS cycles) fails it. -/
def State.nlRetrain (s : State) (p : Fin 8) : State :=
  let recent := s.squad.ports[p].retrains.filter (fun t => s.now < t + 400000000)
  let s1 := s.lintAt .NL_RETRAIN p.val
  if 3 ≤ recent.length then (s1.modPort p (fun c => { c with retrains := [] })).nlFail p 7
  else s1.modPort p (fun c =>
    { c with
      state := .retrain, sub := 0, retrains := s.now :: recent, easyTx := false, easyRx := false, disturbed := true
      lanes := c.lanes.map NlLane.realign })

/-- Send one cell now: unsequenced, or with a sequence number given. -/
def State.putCell (s : State) (p : Fin 8) (c : NlCell) (seq : Nat) : State :=
  let q := s.squad.ports[p]
  let b := c.bytes seq q.expect
  -- A single injection in UP inverts payload bit 0 of the cell's first data block on every selected lane (R393).
  let hit := (allFin 4).filter (fun l => q.lanes[l].injectOne)
  let b2 := hit.foldl (fun b l => b.set (16 * l.val) ((b.getD (16 * l.val) 0#8) ^^^ 1#8)) b
  ((s.modPort p (fun q =>
    { q with
      unacked := 0, injected := (q.injected + hit.length) % 2 ^ 32
      lanes := q.lanes.map (fun l => { l with injectOne := false }) })).emit (.cell p.val b2))

/-- Can a port send cells now (R379, R389)? -/
def NlPort.sends (c : NlPort) : Bool := decide (c.state = .up) && !c.easyTx

/-- Send the waiting cells for which the replay buffer of 512 cells has room (R396). -/
def State.flushCells (s : State) (p : Fin 8) : State :=
  let c := s.squad.ports[p]
  if c.sends then
    let n := 512 - c.replay.length
    (s.modPort p (fun c => { c with waiting := c.waiting.drop n })).each (c.waiting.take n) (fun s x =>
      let q := (s.squad.ports[p]).txSeq
      (s.modPort p (fun c => { c with txSeq := wrapAdd 24 q 1, replay := c.replay ++ [(q, x)] })).putCell p x q)
  else s

/-- Send a sequenced cell (R395, R396). -/
def State.sendSeq (s : State) (p : Fin 8) (c : NlCell) : State :=
  (s.modPort p (fun q => { q with waiting := q.waiting ++ [c] })).flushCells p

/-- Send an unsequenced cell (R394). -/
def State.sendPlain (s : State) (p : Fin 8) (ty : Nat) (payload : Bytes) : State :=
  if s.squad.ports[p].sends then s.putCell p ⟨ty, 0, s.num .SQD_SEAT 0, false, false, payload⟩ 0 else s

/-- The own seat. -/
def State.seat (s : State) : Nat := s.num .SQD_SEAT 0

/-- The ports that an own route entry names, ascending (R401, R402). -/
def State.routePorts (s : State) (dst : Nat) : List (Fin 8) :=
  match amGet? s.squad.routes dst with
  | some (_, m, _, _) => (allFin 8).filter (fun p => m.testBit p.val)
  | none => []

/-- The STROKE_INDEX of a packet (R20). -/
def strokeIndexOf (b : Bytes) : Nat := fieldAt b 8 3

/-- The port that a message to a seat takes (R403): the lowest of the route for CTRL, the j-th for DATA. -/
def State.portFor (s : State) (dst ty : Nat) (b : Bytes) : Option (Fin 8) :=
  let l := s.routePorts dst
  if ty = 1 then (if l.isEmpty then none else l[strokeIndexOf b % l.length]?) else l.head?

/-- The cells of a message (R399). -/
def messageCells (ty dst src : Nat) (b : Bytes) : List NlCell :=
  let n := max 1 ((b.length + 495) / 496)
  (List.range n).map (fun i => ⟨ty, dst, src, decide (i = 0), decide (i + 1 = n), (b.drop (496 * i)).take 496⟩)

/-- Send a message to a seat by its route (R399, R403). -/
def State.sendMessage (s : State) (dst ty : Nat) (b : Bytes) : State :=
  match s.portFor dst ty b with
  | some p => s.each (messageCells ty dst s.seat b) (fun s c => s.sendSeq p c)
  | none => s

/-- A CTRL message with its control header (R399). -/
def State.ctrlBytes (s : State) (mtype : Nat) (body : Bytes) : Bytes :=
  packBytes 16 [(8, mtype), (4, s.squad.version), (20, 0), (32, s.squad.epoch), (32, body.length), (32, 0)] ++ body

/-- A replay from a number (R396, R398): every cell from it on, in order; at the limit of replays from one number the
port enters RETRAIN. -/
def State.replayFrom (s : State) (p : Fin 8) (from_ : Nat) : State :=
  let c := s.squad.ports[p]
  let l := c.replay.dropWhile (fun e => e.1 != from_)
  if l.isEmpty then s
  else
    let n := if c.replayFrom = some from_ then c.replayCount + 1 else 1
    let s1 := (s.modPort p (fun c => { c with replayFrom := some from_, replayCount := n, disturbed := true })).lintAt
      .NL_REPLAY p.val
    if s.num .NL_REPLAY_LIMIT p.val ≤ n then (s1.modPort p (fun c => { c with replayFrom := none, replayCount := 0 })).nlRetrain p
    else s1.each l (fun s e => s.putCell p e.2 e.1)

/-- An acknowledgement frees the cells before it (R396). -/
def State.ackTo (s : State) (p : Fin 8) (ack : Nat) : State :=
  let c := s.squad.ports[p]
  let keep := c.replay.dropWhile (fun e => e.1 != ack)
  let l := if ack = c.txSeq then [] else if keep.isEmpty then c.replay else keep
  let gone := decide (l.length < c.replay.length)
  let s1 := s.modPort p (fun c =>
    { c with
      replay := l
      replayFrom := if gone ∧ ¬ l.any (fun e => c.replayFrom = some e.1) then none else c.replayFrom
      replayCount := if gone ∧ ¬ l.any (fun e => c.replayFrom = some e.1) then 0 else c.replayCount })
  s1.flushCells p

/-- Send NAK E unless one for the same E is outstanding (R395). -/
def State.sendNak (s : State) (p : Fin 8) (always : Bool) : State :=
  let c := s.squad.ports[p]
  if ¬ always ∧ c.nak = some c.expect then s
  else (s.modPort p (fun c => { c with nak := some c.expect })).sendPlain p 4 []

/-- A whole packet that has arrived over a link (R399): its check of R22 is made where it is used. -/
def State.arrive (s : State) (ty src : Nat) (msg : Bytes) : State :=
  if ty = 1 then s.modSquad (fun q => { q with arrived := q.arrived ++ [msg] })
  else
    let mt := fieldAt msg 0 1
    if mt = 0 ∨ 0x0E < mt then s
    else if mt ≠ 1 ∧ mt ≠ 2 ∧ fieldAt msg 4 4 ≠ s.squad.epoch then s
    else s.modSquad (fun q => { q with inbox := q.inbox ++ [(src, msg)] })

/-- A sequenced cell is delivered (R397, R399, R403): forwarded whole, or added to the message of its source. -/
def State.takeCell (s : State) (p : Fin 8) (c : NlCell) : State :=
  if c.dst ≠ s.seat then
    let key := c.src * 32 + c.dst
    let to? := if c.first then (s.portFor c.dst c.ty c.payload).map (·.val) else amGet? s.squad.ports[p].fwd key
    match to?.bind (toFin? 8) with
    | none => s
    | some q =>
      let s1 := s.modPort p (fun x => { x with fwd := if c.last then amErase x.fwd key else amInsert x.fwd key q.val })
      s1.sendSeq q c
  else
    let have_ := if c.first then [] else amGet s.squad.ports[p].partials c.src []
    let msg := have_ ++ c.payload
    if c.last then
      let s1 := s.modPort p (fun x => { x with partials := amErase x.partials c.src })
      let s2 := if c.ty = 2 ∧ (fieldAt msg 0 1 = 0 ∨ 0x0E < fieldAt msg 0 1) then s1.lintAt .NL_BLOCK p.val else s1
      s2.arrive c.ty c.src msg
    else s.modPort p (fun x => { x with partials := amInsert x.partials c.src msg })

/-- The fields of a received cell (R394): whether it is good, and its numbers. -/
structure RxCell where
  good : Bool
  cell : NlCell
  ackValid : Bool
  seq : Nat
  ack : Nat
deriving DecidableEq, Repr

/-- A received cell read from its 512 bytes (R394, R395). -/
def readCell (b : Bytes) : RxCell :=
  let h := fieldAt b 0 12
  let len := bits h 80 72
  ⟨decide (crc32 (slice b 0 508) = fieldAt b 508 4) && decide (bits h 3 0 = 1) && decide (bits h 7 4 ≤ 5) &&
      decide (bits h 23 21 = 0) && decide (bits h 95 81 = 0) && decide (len ≤ 496),
    ⟨bits h 7 4, bits h 12 8, bits h 17 13, h.testBit 18, h.testBit 19, slice b 12 (min len 496)⟩, h.testBit 20, bits h 47 24,
    bits h 71 48⟩

/-- The action of R395 on a received cell; TIME cells are handed on to the time exchange by their own commands. -/
def State.rxCell (s : State) (p : Fin 8) (r : RxCell) (full : Bool) : State :=
  if ¬ r.good then (s.sendNak p false).lintAt .NL_CRC p.val
  else
    let s1 := if r.ackValid then s.ackTo p r.ack else s
    if r.cell.ty ≠ 1 ∧ r.cell.ty ≠ 2 then
      if r.cell.ty = 4 ∧ r.ackValid then s1.replayFrom p r.ack else s1
    else
      let e : Nat := (s1.squad.ports[p]).expect
      let back : Nat := (e + 2 ^ 24 - r.seq) % 2 ^ 24
      if r.seq = e then
        if full then (s1.sendNak p true).lintAt .NL_RXFULL p.val
        else
          let n := (s1.squad.ports[p]).unacked + 1
          let s2 := (s1.modPort p (fun c =>
            { c with expect := wrapAdd 24 e 1, nak := if c.nak = some e then none else c.nak, unacked := n })).takeCell p r.cell
          if 16 ≤ n then s2.sendPlain p 3 [] else s2
      else if back ≤ 2 ^ 23 then (s1.sendPlain p 3 []).lintAt .NL_DUP p.val
      else s1.sendNak p false

/-- The physical lane that carries a logical lane (R381). -/
def NlPort.physLane (c : NlPort) (l : Nat) : Nat := if c.reversed then 3 - l else l

/-- The bytes of a received cell from the blocks of the four physical lanes (R374, R376): descrambled with each lane's
register, in logical lane order; and the lanes' registers and error runs after it. -/
def NlPort.cellBytes (c : NlPort) (blocks : List (List RxBlock)) : Bytes × List (Nat × Nat × Nat) :=
  let lanes := (allFin 4).map (fun i =>
    let l := c.lanes[i]
    let bs := ((blocks.getD i.val []).take 8).map (·.fix l.inverted)
    bs.foldl (fun (acc : List Bytes × Nat × Nat × Nat) b =>
      let (out, reg, run, errs) := acc
      let isData := !b.h0 && b.h1
      let bad := b.bad
      let (v, reg') := if isData || bad then scrambleBits 128 reg b.payload else (b.payload, reg)
      (out ++ [leBytes 16 v], reg', (if bad then run + 1 else 0), errs + b2n bad)) ([], l.rx, l.blockErrs, 0))
  let bytes := (List.range 8).flatMap (fun t => (List.range 4).flatMap (fun l =>
    ((lanes.getD (c.physLane l) ([], 0, 0, 0)).1).getD t (zeros 16)))
  (bytes, lanes.map (·.2))

/-- The lanes' registers and error runs after a cell. -/
def NlPort.afterBlocks (c : NlPort) (r : List (Nat × Nat × Nat)) : NlPort :=
  { c with lanes := Vector.ofFn (fun (i : Fin 4) =>
      { c.lanes[i] with
        rx := (r.getD i.val (c.lanes[i].rx, c.lanes[i].blockErrs, 0)).1
        blockErrs := (r.getD i.val (c.lanes[i].rx, c.lanes[i].blockErrs, 0)).2.1 }) }

/-- A received cell (R373, R376, R385, R395): block errors are counted, eight in a row on a lane lose its alignment, and
the cell's bytes go to the cell layer as received. -/
def State.cellIn (s : State) (p : Fin 8) (blocks : List (List RxBlock)) (full : Bool) : State :=
  let c := s.squad.ports[p]
  if c.state ≠ .up ∧ c.state ≠ .easy then s
  else
    let (b, r) := c.cellBytes blocks
    let errs := (r.map (·.2.2)).foldl (· + ·) 0
    let s1 := (s.modPort p (fun c => c.afterBlocks r)).lintBy .NL_BLOCK p.val errs
    if r.any (fun x => decide (8 ≤ x.2.1)) then s1.nlRetrain p else s1.rxCell p (readCell b) full

/-- Have all lanes the property? -/
def NlPort.allLanes (c : NlPort) (f : NlLane → Bool) : Bool := c.lanes.toList.all f

/-- ALIGN ends: EQUALIZE, with the saved setting first where both sides hold saved taps on every lane (R384), or DESKEW
on a bring-up from RACK. -/
def State.alignDone (s : State) (p : Fin 8) : State :=
  let c := s.squad.ports[p]
  if c.state = .retrain then s.modPort p (fun c => { c with sub := 1 })
  else if c.skipEq then s.modPort p (fun c => { c with state := .deskew })
  else
    let saved := c.allLanes (fun l => l.saved.isSome && l.farSaved)
    let s1 := s.modPort p (fun c => { c with state := .equalize, savedTry := saved })
    s1.each (allFin 4) (fun s l =>
      match saved, (s.squad.ports[p].lanes[l]).saved with
      | true, some (a, b, _) => s.ask p l .saved a b
      | _, _ => s.eqStart p l)

/-- The lane map of R381: straight, reversed, or none. -/
def NlPort.laneMap (c : NlPort) : Option Bool :=
  if (allFin 4).all (fun i => c.lanes[i].laneNo == some i.val) then some false
  else if (allFin 4).all (fun i => c.lanes[i].laneNo == some (3 - i.val)) then some true
  else none

/-- Is the port past ALIGN and in DESKEW? -/
def NlPort.inDeskew (c : NlPort) : Bool := decide (c.state = .deskew) || (decide (c.state = .retrain) && c.sub == 1)

/-- Is the port in ALIGN? -/
def NlPort.inAlign (c : NlPort) : Bool := decide (c.state = .align) || (decide (c.state = .retrain) && c.sub == 0)

/-- Is the port in HANDSHAKE? -/
def NlPort.inHandshake (c : NlPort) : Bool := decide (c.state = .handshake) || (decide (c.state = .retrain) && c.sub == 2)

/-- DESKEW ends (R381): the lane map is fixed and DONE is sent, or the port fails. -/
def State.deskewDone (s : State) (p : Fin 8) : State :=
  match s.squad.ports[p].laneMap with
  | none => s.nlFail p 3
  | some rev =>
    let s1 := s.modPort p (fun c =>
      { c with reversed := rev, state := (if c.state = .retrain then .retrain else .handshake), sub := (if c.state = .retrain then 2 else 0) })
    s1.each (allFin 4) (fun s l => s.emit (.block p.val l.val (s.trainBytes p l 3 0 0 0 0)))

/-- COMMA_BLOCK's effect on a port (R375, R379, R385): `gap` is the block times since the lane's last comma, `skewPs` the
lane's skew behind the first. -/
def State.commaIn (s : State) (p : Fin 8) (l : Fin 4) (inverted : Bool) (gap skewPs : Nat) : State :=
  let c := s.squad.ports[p]
  if c.inAlign then
    let s1 := s.modLane p l (fun x =>
      let n := if gap = 65 ∧ x.inverted = inverted then x.commas + 1 else 1
      { x with commas := n, inverted := inverted, aligned := x.aligned || decide (2 ≤ n), rx := laneSeed l.val })
    if s1.squad.ports[p].allLanes (·.aligned) then s1.alignDone p else s1
  else if c.inDeskew then
    if 16000 < skewPs then s.nlFail p 4
    else
      let s1 := s.modLane p l (fun x => { x with commaSeen := true, inverted := inverted, rx := laneSeed l.val })
      if s1.squad.ports[p].allLanes (·.commaSeen) then s1.deskewDone p else s1
  else s.modLane p l (fun x => { x with missed := 0, rx := laneSeed l.val })

/-- HANDSHAKE ends (R381, R629): CLKMODE and version agreed, and the port is UP. -/
def State.handshakeDone (s : State) (p : Fin 8) : State :=
  let c := s.squad.ports[p]
  let v := min 1 c.peerVer
  if c.peerEmbedded ≠ s.nlEmbedded p.val ∨ (s.nlEmbedded p.val ∧ s.flag .CLK_REFCLK_SSC 0) then s.nlFail p 5
  else if v = 0 then s.nlFail p 6
  else
    let was := c.state
    let s1 := s.modPort p (fun c => { c with state := .up, sub := 0, version := v, skipEq := false, easyTx := false, easyRx := false })
    if was = .retrain then (s1.squad.ports[p].replay).foldl (fun s e => s.putCell p e.2 e.1) s1 |>.flushCells p
    else s1.flushCells p

/-- TRAIN_BLOCK's effect (R380 to R384). -/
def State.trainIn (s : State) (p : Fin 8) (l : Fin 4) (v : Nat) : State :=
  let c := s.squad.ports[p]
  let t := readTrain v
  if ¬ (c.inAlign || c.inDeskew || c.inHandshake || decide (c.state = .equalize)) then s
  else
    let s1 := (s.modLane p l (fun x => { x with laneNo := some t.lane, farSaved := t.saved })).modPort p (fun c =>
      { c with
        peer := some (t.seat, t.port, t.seatValid), peerId := t.devId, peerEmbedded := t.embedded, peerVer := t.verMax })
    if t.phase = 1 then
      let x := s1.squad.ports[p].lanes[l]
      let (a, b) := match preset t.preset with
        | some ab => ab
        | none => if t.preset = 0xF ∧ tapsOk t.cm1 t.cp1 then (t.cm1, t.cp1) else (x.cm1, x.cp1)
      let s2 := s1.modLane p l (fun x => { x with cm1 := a, cp1 := b })
      s2.emit (.block p.val l.val (s2.trainBytes p l 2 (if t.preset ≤ 10 then t.preset else 0xF) a b t.token))
    else if t.phase = 2 then s1.modLane p l (fun x => if t.token = x.token then { x with applied := true } else x)
    else if t.phase = 3 then
      let s2 := s1.modLane p l (fun x => { x with farDone := true })
      if s2.squad.ports[p].inHandshake ∧ s2.squad.ports[p].allLanes (·.farDone) then s2.handshakeDone p else s2
    else s1

/-- The figure of merit of R382 for an eye of `h` µV and `w` thousandths of a UI. -/
def figureOfMerit (h w : Nat) : Nat := min 255 (min (128 * h / 30000) (128 * w / 300))

/-- The setting of a trial of step 3 (R383), where it lies within the limits. -/
def trialSetting (k cm1 cp1 : Nat) : Option (Nat × Nat) :=
  let r := match k with
    | 0 => if cm1 = 0 then none else some (cm1 - 1, cp1)
    | 1 => some (cm1 + 1, cp1)
    | 2 => if cp1 = 0 then none else some (cm1, cp1 - 1)
    | _ => some (cm1, cp1 + 1)
  r.filter (fun x => tapsOk x.1 x.2)

/-- The next trial from `k` on, or the final setting. -/
def nextTrial : Nat → Nat → Nat → Nat → EqStage × Nat × Nat
  | 0, _, cm1, cp1 => (.final, cm1, cp1)
  | n + 1, k, cm1, cp1 =>
    if 4 ≤ k then (.final, cm1, cp1)
    else match trialSetting k cm1 cp1 with
      | some (a, b) => (.trial k, a, b)
      | none => nextTrial n (k + 1) cm1 cp1

/-- Every lane is measured: the taps are kept and DESKEW begins (R384); a saved setting that is too low on a lane
starts the training from step 1. -/
def State.eqEnd (s : State) (p : Fin 8) : State :=
  let c := s.squad.ports[p]
  if c.allLanes (fun l => decide (l.stage = .done)) then
    if c.savedTry ∧ ¬ c.allLanes (fun l => decide (s.num .NL_FOM_MIN p.val ≤ l.fom)) then
      (s.modPort p (fun c => { c with savedTry := false })).each (allFin 4) (fun s l => s.eqStart p l)
    else s.modPort p (fun c =>
      { c with
        state := .deskew
        lanes := c.lanes.map (fun l => { l with saved := some (l.askCm1, l.askCp1, l.fom), commaSeen := false }) })
  else s

/-- EQUALIZE_EVALUATION's effect (R383): the lane's setting is measured and the next one asked. -/
def State.evaluateLane (s : State) (p : Fin 8) (l : Fin 4) (h w : Nat) : State :=
  let c := s.squad.ports[p]
  let x := c.lanes[l]
  if c.state ≠ .equalize ∨ ¬ x.applied then s
  else
    let f := figureOfMerit h w
    match x.stage with
    | .saved => (s.modLane p l (fun x => { x with stage := .done, fom := f })).eqEnd p
    | .preset k =>
      let s1 := if x.bestFom < f ∨ k = 0 then
        s.modLane p l (fun x => { x with bestFom := f, bestCm1 := x.askCm1, bestCp1 := x.askCp1 }) else s
      let y := s1.squad.ports[p].lanes[l]
      match preset (k + 1) with
      | some (a, b) => s1.ask p l (.preset (k + 1)) a b
      | none => let (st, a, b) := nextTrial 4 0 y.bestCm1 y.bestCp1; s1.ask p l st a b
    | .trial k =>
      let s1 := if x.bestFom < f then
        s.modLane p l (fun x => { x with bestFom := f, bestCm1 := x.askCm1, bestCp1 := x.askCp1 }) else s
      let y := s1.squad.ports[p].lanes[l]
      let (st, a, b) := nextTrial 4 (k + 1) y.bestCm1 y.bestCp1
      s1.ask p l st a b
    | .final =>
      let s1 := s.modLane p l (fun x => { x with stage := .done, fom := f })
      if f < s.num .NL_FOM_MIN p.val then s1.nlFail p 2 else s1.eqEnd p
    | .done => s

/-- SQUELCH_OPEN's effect (R379, R389, R390). -/
def State.squelch (s : State) (p : Fin 8) : State :=
  let c := s.squad.ports[p]
  match c.state with
  | .detect => s.modPort p (fun c => { c with state := .align, lanes := c.lanes.map NlLane.realign })
  | .rack =>
    s.modPort p (fun c => { c with state := .align, skipEq := true, farRack := false, lanes := c.lanes.map NlLane.realign })
  | .easy => (s.modPort p (fun c => { c with state := .up, easyTx := false, easyRx := false, disturbed := true })).flushCells p
  | .up => s.modPort p (fun c => { c with easyRx := false, farRack := false, disturbed := c.disturbed || c.easyRx })
  | _ => s

/-- BRINGUP_TIMEOUT's effect (R386). -/
def State.bringupTimeout (s : State) (p : Fin 8) : State :=
  let c := s.squad.ports[p]
  if c.inAlign then s.nlFail p 1
  else if c.inDeskew then s.nlFail p (if c.allLanes (·.commaSeen) then 8 else 4)
  else if c.inHandshake ∨ c.state = .equalize then s.nlFail p 8
  else s

/-- COMMA_MISSING's effect (R385): two in a row lose alignment; a far end in RACK sends none (notes/assumptions/24.md). -/
def State.commaMissing (s : State) (p : Fin 8) (l : Fin 4) : State :=
  let c := s.squad.ports[p]
  if c.state ≠ .up ∨ c.farRack ∨ c.easyRx then s
  else if 2 ≤ (c.lanes[l]).missed + 1 then s.nlRetrain p
  else s.modLane p l (fun x => { x with missed := x.missed + 1 })

/-- EASY_IDLE_EXPIRE's effect (R388). -/
def State.easyEnter (s : State) (p : Fin 8) : State :=
  let c := s.squad.ports[p]
  if c.state = .up ∧ s.num .NL_EASY_IDLE p.val ≠ 0 ∧ c.replay.isEmpty ∧ c.waiting.isEmpty ∧ s.squad.spans.isEmpty then
    (s.sendCtrl p (ctrlBlock 0x4B)).modPort p (fun c => { c with state := .easy, easyTx := true })
  else s

/-- EASY_EXIT's effect (R389): a COMMA, and the waiting cells. -/
def State.easyExit (s : State) (p : Fin 8) : State :=
  if s.squad.ports[p].state = .easy then
    ((s.sendCtrl p (List.replicate 8 0#8 ++ List.replicate 8 0xFF#8)).modPort p (fun c =>
      { c with state := .up, easyTx := false, disturbed := true })).flushCells p
  else s

/-- The next bit of a test pattern after the bits in `w`, newest first (R392). -/
def patternNext (pat : Nat) (w : List Bool) : Bool :=
  let at_ (i : Nat) := w.getD i false
  match pat with
  | 0 => xor (at_ 6) (at_ 5)
  | 1 => xor (at_ 14) (at_ 13)
  | 2 => xor (at_ 22) (at_ 17)
  | 3 => xor (at_ 30) (at_ 27)
  | 4 => !at_ 0
  | _ => at_ 31

/-- Does a window of 64 bits, newest first, match the pattern (R392)? -/
def patternMatches (pat user : Nat) (w : List Bool) : Bool :=
  decide (w.length = 64) &&
    (match pat with
    | 0 | 1 | 2 | 3 =>
      let k := [7, 15, 23, 31].getD pat 31
      w.any id && (List.range (64 - k)).all (fun i => w.getD i false == patternNext pat (w.drop (i + 1)))
    | 4 => (List.range 63).all (fun i => w.getD i false != w.getD (i + 1) false)
    | _ => (List.range 32).any (fun r =>
        (List.range 64).all (fun i => w.getD i false == user.testBit ((r + 63 - i) % 32))))

/-- One received bit at a checker (R392). -/
def NlLane.checkBit (pat user : Nat) (l : NlLane) (b : Bool) : NlLane :=
  if l.sync then
    let e := patternNext pat l.window
    { l with
      window := (e :: l.window).take 64
      bitsSeen := (l.bitsSeen + 1) % 2 ^ 64
      errors := if e = b then l.errors else min (l.errors + 1) 0xFFFFFFFF }
  else
    let w := (b :: l.window).take 64
    { l with window := w, sync := patternMatches pat user w }

/-- PATTERN_CHECKER_SYNC's effect (R391, R392): received bits at the checker of a lane in TEST; the own checker of lane 0
is idle in FAR. -/
def State.checkBits (s : State) (p : Fin 8) (l : Fin 4) (rx : List Bool) : State :=
  if s.squad.ports[p].state ≠ .test ∨ (l = 0 ∧ s.num .NL_TEST_MODE p.val = 4) then s
  else s.modLane p l (fun x => rx.foldl (NlLane.checkBit (s.num .NL_PATTERN p.val) (s.num .NL_USER_PATTERN p.val)) x)

/-- PERIODIC_INJECTION's effect (R393). -/
def State.injectTick (s : State) (p : Fin 8) : State :=
  if s.squad.ports[p].state = .test then
    let n := (s.squad.ports[p].lanes.toList.filter (·.injectPeriodic)).length
    s.modPort p (fun c => { c with injected := (c.injected + n) % 2 ^ 32 })
  else s

/-- Does a port lie on a route of a formed squad (R402)? -/
def State.onRoute (s : State) (p : Nat) : Bool :=
  decide (s.squad.state = .formed) && s.squad.routes.any (fun e => e.2.2.1.testBit p)

/-- The action of a write to `NL_POWER_CMD` (R390). -/
def actNlPower (s : State) (p : Fin 8) (v : Nat) : Reply :=
  let c := s.squad.ports[p]
  if v = 1 then
    if s.onRoute p.val ∨ (c.state ≠ .up ∧ c.state ≠ .easy) then .err s .state
    else .ok ((s.sendCtrl p (ctrlBlock 0x66)).modPort p (fun c => { c with state := .rack, easyTx := false, easyRx := false }))
  else if v = 2 then
    if c.state = .rack then
      .ok (s.modPort p (fun c => { c with state := .align, skipEq := true, lanes := c.lanes.map NlLane.realign }))
    else .ok s
  else .range s .NL_POWER_CMD p.val 0

/-- The action of a write to `NL_INJECT` (R393). Outside TEST and UP a single injection finds no bit to invert. -/
def actNlInject (s : State) (p : Fin 8) (v : Nat) : Reply :=
  let c := s.squad.ports[p]
  let sel (l : Fin 4) : Bool := v.testBit l.val
  let setLanes (f : Fin 4 → NlLane → NlLane) := s.modPort p (fun c => { c with lanes := Vector.ofFn (fun i => f i c.lanes[i]) })
  match bits v 7 4 with
  | 0 => .ok (setLanes (fun _ x => { x with injectPeriodic := false }))
  | 1 =>
    if c.state = .test then
      .ok (s.modPort p (fun c => { c with injected := (c.injected + ((allFin 4).filter sel).length) % 2 ^ 32 }))
    else if c.state = .up then .ok (setLanes (fun i x => if sel i then { x with injectOne := true } else x))
    else .ok s
  | 2 =>
    if c.state = .test then .ok (setLanes (fun i x => if sel i then { x with injectPeriodic := true } else x))
    else .err s .state
  | _ => .range s .NL_INJECT p.val 0

/-- A commit of port entries (R379, R391, R423): a port that is enabled starts DETECT or its test mode, and one that is
disabled goes to DISABLED. -/
def State.nlCommit (s : State) (p : Fin 8) : State :=
  let c := s.squad.ports[p]
  let en := s.flag .NL_ENABLE p.val
  let test := decide (s.num .NL_TEST_MODE p.val ≠ 0)
  if test then
    if c.state = .test then s
    else s.modPort p (fun c =>
      { c with
        state := .test
        lanes := c.lanes.map (fun l => { l with sync := false, errors := 0, bitsSeen := 0, window := [], injectPeriodic := false }) })
  else if ¬ en then
    if c.state = .disabled then s
    else s.modPort p (fun c =>
      { NlPort.init with
        lanes := c.lanes.map (fun l => { NlLane.init with saved := l.saved }), delay := c.delay, offset := c.offset, exchId := c.exchId })
  else if c.state = .disabled ∨ c.state = .test then
    s.modPort p (fun c => { c.toDetect with on := true, failCause := 0, injected := 0 })
  else s

/-- `NL_PEER` (R421). -/
def NlPort.peerWord (c : NlPort) : Nat :=
  match c.peer, decide (c.state = .up) || decide (c.state = .easy) || decide (c.state = .rack) || decide (c.state = .retrain) || decide (c.state = .handshake) with
  | some (seat, port, v), true => pack [(5, seat), (3, port), (1, b2n v)]
  | _, _ => 0xFFFF

/-- `NL_LANE_MAP` (R421). -/
def NlPort.mapWord (c : NlPort) : Nat :=
  b2n c.reversed + ((allFin 4).map (fun i => b2n c.lanes[i].inverted * 2 ^ (i.val + 1))).sum

end Sys2Proof.Machine
end

