-- ==== Sys2Proof/Machine/Crew.lean ====
section
/-! DEFINITION. Crews, shells, sculls and oars in and out of service, the patch maps and profiles (R142 to R145, R150 to R153, R209, R280, R286, R566, R567). -/

namespace Sys2Proof.Machine

open Sys2Proof

/-- Has the supervisor taken a unit out of service (R566, R567)? -/
def State.heldOut (s : State) (u : UnitId) : Bool := s.saf.held.contains u

/-- Is physical shell `p` of crew `c` out of service (R143, R151)? -/
def State.shellOos (s : State) (c p : Nat) : Bool :=
  s.heldOut (.shell c p) ||
    (if p < 64 then (s.num .SHELL_FORCE_LO c).testBit p else (s.num .SHELL_FORCE_HI c).testBit (p - 64))

/-- Bit `p` of a byte string, bit 0 first. -/
def bytesBit (b : Bytes) (p : Nat) : Bool := ((b.getD (p / 8) 0#8).toNat).testBit (p % 8)

/-- Is physical oar `p` of crew `c` out of service (R280, R286)? -/
def State.oarOos (s : State) (c p : Nat) : Bool :=
  s.heldOut (.oar c p) || bytesBit (s.byt .OAR_FORCE c) p

/-- Is the scull of crew `c` in service (R136, R151)? -/
def State.scullIn (s : State) (c : Nat) : Bool := !s.heldOut (.scull c) && !s.flag .SCULL_FORCE c

/-- A crew's data. -/
def State.crew (s : State) (c : Nat) : Crew :=
  match toFin? 6 c with | some i => s.crews[i] | none => Crew.init

/-- `CREW_SHELLS_ACTIVE`: logical shells not retired (R144). -/
def State.shellsActive (s : State) (c : Nat) : Nat := ((s.crew c).shellMap.filter (· != 0xFF)).length

/-- Physical oars of the crew out of service. -/
def State.oarsOos (s : State) (c : Nat) : Nat := ((List.range 528).filter (s.oarOos c)).length

/-- Is crew `c` in service (R144, R151, R280, R566)? -/
def State.crewIn (s : State) (c : Nat) : Bool :=
  decide (c < s.crewCount) && !s.heldOut (.crew c) && !s.flag .CREW_FORCE c &&
    decide (s.num .CREW_MIN_SHELLS 0 ≤ s.shellsActive c) && decide (s.oarsOos c ≤ 16)

/-- The crews in service, ascending. -/
def State.crewsIn (s : State) : List Nat := (List.range 6).filter s.crewIn

/-- `CREW_SERVICE_MASK` (R150). -/
def State.serviceMask (s : State) : Nat := (s.crewsIn.map (2 ^ ·)).sum

/-- The free physical shells of a crew in service, ascending (R142, R143). -/
def State.freeShells (s : State) (c : Nat) : List Nat :=
  (List.range 68).filter (fun p => !(s.crew c).shellMap.contains p && !s.shellOos c p)

/-- The physical oar of a logical one (R280). -/
def Crew.oar (w : Crew) (l : Nat) : Nat := amGet w.oarMap l l

/-- The free patch oars of a crew in service, ascending. -/
def State.freeOars (s : State) (c : Nat) : List Nat :=
  ((List.range 16).map (· + 512)).filter (fun p => !((s.crew c).oarMap.map (·.2)).contains p && !s.oarOos c p)

/-- `OAR_ACTIVE`: logical oars with a physical oar in service. -/
def State.oarsActive (s : State) (c : Nat) : Nat :=
  ((List.range 512).filter (fun l => !s.oarOos c ((s.crew c).oar l))).length

/-- Is any unit of the part out of service (R28)? -/
def State.anyOos (s : State) : Bool :=
  !s.saf.held.isEmpty ||
  (List.range s.crewCount).any (fun c =>
    !s.crewIn c || !s.scullIn c || (List.range 68).any (s.shellOos c) || (List.range 528).any (s.oarOos c))

/-- RUN and DEGRADED follow the units in service (R28). -/
def State.regrade (s : State) : State :=
  match s.dev.state with
  | .run => if s.anyOos then s.modDev (fun d => { d with state := .degraded }) else s
  | .degraded => if s.anyOos then s else s.modDev (fun d => { d with state := .run })
  | _ => s

/-- The outcome of a command that raises no signal: RUN and DEGRADED follow the units in service (R28). -/
def settled (t : State) : Host.Outcome State Fault Refusal := .next t.regrade

/-- One logical shell at a heat admission (R143 to R145): a failed or retired one takes the lowest free physical shell,
or is retired. Answers the physical shell and the free ones left. -/
def patchShell (oos : Nat → Bool) (cur : Nat) (free : List Nat) : Nat × List Nat :=
  if cur = 0xFF ∨ oos cur then
    match free with
    | p :: r => (p, r)
    | [] => (0xFF, [])
  else (cur, free)

/-- The whole map, lower logical numbers first. -/
def patchShells (oos : Nat → Bool) : List Nat → List Nat → List Nat
  | [], _ => []
  | x :: r, free => let (y, f) := patchShell oos x free; y :: patchShells oos r f

/-- SHELL_PATCH (R143): the crew's map at the next heat admission, and how many entries change. -/
def State.patchCrewShells (s : State) (c : Fin 6) : State :=
  let old := (s.crew c).shellMap
  let new := patchShells (s.shellOos c) old (s.freeShells c)
  let k := ((old.zip new).filter (fun e => e.1 != e.2)).length
  (s.modCrew c (fun w => { w with shellMap := new })).lintBy .SHELL_PATCH c k

/-- OAR_PATCH (R280): logical oars of failed oars take the lowest free patch oar, lower numbers first. -/
def State.patchCrewOars (s : State) (c : Fin 6) : State :=
  s.each ((List.range 512).filter (fun l => s.oarOos c ((s.crew c).oar l))) (fun s l =>
    match s.freeOars c with
    | p :: _ => (s.modCrew c (fun w => { w with oarMap := amSet w.oarMap l p l })).lint .OAR_PATCH
    | [] => s)

/-- A crew's profile (R209). -/
def State.profile (s : State) (c : Nat) : Profile :=
  ⟨s.shellsActive c, (List.range 64).filter (fun l => 64 ≤ ((s.crew c).shellMap).getD l 0 ∧ ((s.crew c).shellMap).getD l 0 < 68),
    s.scullIn c⟩

/-- Profiles and shell maps of all crews (R362). -/
def State.profiles (s : State) : List (Profile × List Nat) :=
  (List.range 6).map (fun c => (s.profile c, (s.crew c).shellMap))

/-- One crew entry of PATCH_SUMMARY (R360). -/
def State.patchWord (s : State) (c : Nat) : Nat :=
  let m := (s.crew c).shellMap
  let use (i : Nat) : Nat :=
    match m.findIdx? (· == 64 + i) with
    | some l => l
    | none => if s.shellOos c (64 + i) then 0xFE else 0xFF
  pack [(8, use 0), (8, use 1), (8, use 2), (8, use 3), (8, 64 - s.shellsActive c), (1, b2n (s.scullIn c)),
    (1, b2n (s.crewIn c)), (6, 0), (16, crc16 (m.map (BitVec.ofNat 8)))]

/-- PATCH_SUMMARY of the device (R359). -/
def State.patchSummary (s : State) : List Nat := (List.range 6).map s.patchWord

/-- An entry of `DET_PATCH_JOURNAL` (R362). -/
def journalEntry (epoch crew period : Nat) (m : List Nat) : Bytes :=
  packBytes 16 [(32, epoch), (4, 1), (3, crew), (25, 0), (64, period)] ++ m.map (BitVec.ofNat 8)

/-- What waits for the next heat admission (R143, R153, R280, R288): force entries, patches of shells and of oars. A crew
whose profile or map has changed since the previous admission settles (R212), and the patch epoch rises (R362). -/
def State.atAdmission (s : State) : State :=
  let s1 := s.applyWaiting (fun k => inGroup 0x24 k || inGroup 0x27 k)
  let s2 := s1.each (allFin 6) (fun s c => (s.patchCrewShells c).patchCrewOars c)
  let now := s2.profiles
  let changed := (List.range 6).filter (fun c => s2.cox.lastProfiles[c]? != now[c]?)
  if changed.isEmpty then s2
  else
    let ep := s2.det.epoch + 1
    let entries := changed.map (fun c => journalEntry ep c s2.cox.period (s2.crew c).shellMap)
    let s3 := s2.modDet (fun d => { d with epoch := ep % 2 ^ 32, journal := (entries.reverse ++ d.journal).take 64 })
    (s3.modCox (fun x =>
      { x with
        lastProfiles := now
        settling := (changed.filter (fun c => (s2.cox.lastProfiles[c]?).map (·.1) != (now[c]?).map (·.1))).foldl
          (fun m c => if (amGet? m c).isSome then m else amInsert m c s2.now) x.settling })).regrade

end Sys2Proof.Machine
end

