-- ==== Sys2Proof/Machine/Desc.lean ====
section
/-! DEFINITION. Tensors in their storage order, stream windows, and the stroke descriptors (R147, R148, R169 to R178, R240 to R244, R256, R259, R264, R271, R290). -/

namespace Sys2Proof.Machine

open Sys2Proof

/-- Replace the bytes of `b` from offset `o`. -/
def putBytes (b : Bytes) (o : Nat) (x : Bytes) : Bytes := b.take o ++ x ++ b.drop (o + x.length)

/-- The bytes of a row of `e` elements (R170). -/
def rowBytes (fmt e : Nat) : Nat :=
  if isZb fmt then (e + 31) / 32 * (1 + 4 * zbWidth fmt) else (e * fmtBits fmt + 7) / 8

/-- The logical dimension at storage position `s` (R169). -/
def TensorDesc.at (t : TensorDesc) (s : Nat) : Nat := t.order.getD s s

/-- The extent at storage position `s`. -/
def TensorDesc.ext (t : TensorDesc) (s : Nat) : Nat := t.dims.getD (t.at s) 1

/-- Round `n` up to a multiple of `m`. -/
def roundUp (n m : Nat) : Nat := (n + m - 1) / m * m

/-- The pitch (R170). -/
def TensorDesc.pitch (t : TensorDesc) : Nat := roundUp (rowBytes t.fmt (t.ext 0)) (2 ^ t.alignLog2)

/-- The stored size (R170). -/
def TensorDesc.size (t : TensorDesc) : Nat := t.pitch * (t.ext 1 * (t.ext 2 * t.ext 3))

/-- The number of elements. -/
def TensorDesc.count (t : TensorDesc) : Nat := (t.dims.take 4).foldl (· * ·) 1

/-- The byte offset of the row that holds logical coordinates `c`, and the position in the row (R170). -/
def TensorDesc.place (t : TensorDesc) (c : List Nat) : Nat × Nat :=
  let s (i : Nat) : Nat := c.getD (t.at i) 0
  (t.pitch * (s 1 + t.ext 1 * (s 2 + t.ext 2 * s 3)), s 0)

/-- The values of block `j` of a row. -/
def TensorDesc.block (t : TensorDesc) (b : Bytes) (row j : Nat) : List ExactNum :=
  let n := 1 + 4 * zbWidth t.fmt
  zbValues t.fmt (slice b (row + j * n) n)

/-- The raw bits of an element that is not in a block. -/
def rawElem (fmt : Nat) (b : Bytes) (row i : Nat) : Nat :=
  if fmt = 2 then (fieldAt b (row + i / 2) 1 >>> (4 * (i % 2))) % 16
  else fieldAt b (row + i * (fmtBits fmt / 8)) (fmtBits fmt / 8)

/-- The value at logical coordinates (R80, R85, R105, R170). -/
def TensorDesc.get (t : TensorDesc) (b : Bytes) (c : List Nat) : ExactNum :=
  let (row, i) := t.place c
  if isZb t.fmt then (t.block b row (i / 32)).getD (i % 32) .nan
  else elemValue t.fmt (rawElem t.fmt b row i)

/-- Store one element that is not in a block. -/
def TensorDesc.put1 (t : TensorDesc) (sat : Bool) (z : Int) (b : Bytes) (c : List Nat) (x : ExactNum) : Bytes :=
  let (row, i) := t.place c
  let v := elemStore t.fmt sat z x
  if t.fmt = 2 then
    let o := row + i / 2
    let old := fieldAt b o 1
    putBytes b o (leBytes 1 (if i % 2 = 0 then old / 16 * 16 + v else old % 16 + 16 * v))
  else putBytes b (row + i * (fmtBits t.fmt / 8)) (leBytes (fmtBits t.fmt / 8) v)

/-- The blocks that a list of elements touches, each once: row offset and block number. -/
def TensorDesc.touched (t : TensorDesc) (l : List (List Nat × ExactNum)) : List (Nat × Nat) :=
  (l.map (fun e => let p := t.place e.1; (p.1, p.2 / 32))).eraseDups

/-- Store the values of a list of elements, later ones last (R175, R177): element by element, or block by block with the
old values of the elements that the list leaves. -/
def TensorDesc.put (t : TensorDesc) (sat : Bool) (b : Bytes) (l : List (List Nat × ExactNum)) : Bytes :=
  let b := fit b t.size
  if isZb t.fmt then
    (t.touched l).foldl (fun b k =>
      let here := l.filter (fun e => let p := t.place e.1; p.1 == k.1 && p.2 / 32 == k.2)
      let real := min 32 (t.ext 0 - 32 * k.2)
      let new := here.foldl (fun (v : List ExactNum) e => v.set ((t.place e.1).2 % 32) e.2) (t.block b k.1 k.2)
      putBytes b (k.1 + k.2 * (1 + 4 * zbWidth t.fmt)) (zbStore t.fmt sat (new.take real))) b
  else l.foldl (fun b e => t.put1 sat 0 b e.1 e.2) b

/-- All logical coordinates in storage order, the innermost position fastest. -/
def TensorDesc.coords (t : TensorDesc) : List (List Nat) :=
  (List.range (t.ext 3)).flatMap (fun s3 => (List.range (t.ext 2)).flatMap (fun s2 =>
    (List.range (t.ext 1)).flatMap (fun s1 => (List.range (t.ext 0)).map (fun s0 =>
      ((([0, 0, 0, 0].set (t.at 0) s0).set (t.at 1) s1).set (t.at 2) s2).set (t.at 3) s3))))

/-- A tensor whose every element is `f` of its coordinates. -/
def TensorDesc.build (t : TensorDesc) (sat : Bool) (f : List Nat → ExactNum) : Bytes :=
  t.put sat (zeros t.size) (t.coords.map (fun c => (c, f c)))

/-- The storage positions of a stream in the order of delivery, innermost first (R173). -/
def StreamDesc.order (st : StreamDesc) (t : TensorDesc) : List Nat :=
  if st.xpose then [t.at 1, t.at 0, t.at 2, t.at 3] else [t.at 0, t.at 1, t.at 2, t.at 3]

/-- The coordinates that a stream refers to, in the order of delivery (R173). -/
def StreamDesc.coords (st : StreamDesc) (t : TensorDesc) : List (List Int) :=
  let o := st.order t
  let n (i : Nat) : Nat := ((st.dims.getD (o.getD i i) ⟨0, 1, 0⟩).count)
  let put (c : List Int) (i k : Nat) : List Int :=
    let d := o.getD i i
    let w := st.dims.getD d ⟨0, 1, 0⟩
    c.set d (w.start + k * w.step)
  (List.range (n 3)).flatMap (fun k3 => (List.range (n 2)).flatMap (fun k2 =>
    (List.range (n 1)).flatMap (fun k1 => (List.range (n 0)).map (fun k0 =>
      put (put (put (put [0, 0, 0, 0] 3 k3) 2 k2) 1 k1) 0 k0))))

/-- Does a coordinate lie in the tensor? -/
def inTensor (t : TensorDesc) (c : List Int) : Bool :=
  (List.range 4).all (fun d => decide (0 ≤ c.getD d 0) && decide (c.getD d 0 < (t.dims.getD d 1 : Nat)))

/-- The value of one READ element with its padding (R174). -/
def StreamDesc.value (st : StreamDesc) (t : TensorDesc) (b : Bytes) (c : List Int) : ExactNum :=
  if inTensor t c then t.get b (c.map Int.toNat)
  else if st.padMode = 2 then
    t.get b ((List.range 4).map (fun d => (clampInt (c.getD d 0) 0 ((t.dims.getD d 1 : Nat) - 1)).toNat))
  else if st.padMode = 1 then fp32.decode st.padValue
  else .fin false 0 1

/-- The values that a READ stream delivers, before its conversion (R175). -/
def StreamDesc.values (st : StreamDesc) (t : TensorDesc) (b : Bytes) : List ExactNum := (st.coords t).map (st.value t b)

/-- A list in pieces of `n` elements; `fuel` bounds the pieces. -/
def chunksOf {α : Type} (n : Nat) : Nat → List α → List (List α)
  | 0, _ => []
  | f + 1, l => match l with
    | [] => []
    | _ => l.take n :: chunksOf n f (l.drop n)

/-- Values in the unit-side format, rows of `e` elements (R175): the bytes delivered. -/
def unitBytes (fmt : Nat) (sat : Bool) (e : Nat) (vs : List ExactNum) : Bytes :=
  let rows := chunksOf e (vs.length + 1) vs
  rows.flatMap (fun r =>
    if isZb fmt then (chunksOf 32 (r.length + 1) r).flatMap (zbStore fmt sat)
    else
      let raw := r.map (elemStore fmt sat 0)
      if fmt = 2 then (chunksOf 2 (raw.length + 1) raw).map (fun p => BitVec.ofNat 8 (p.getD 0 0 + 16 * p.getD 1 0))
      else raw.flatMap (leBytes (fmtBits fmt / 8)))

/-- The values of unit-side bytes, rows of `e` elements. -/
def unitValues (fmt e : Nat) (b : Bytes) : List ExactNum :=
  let n := rowBytes fmt e
  let rows := chunksOf n (b.length + 1) b
  rows.flatMap (fun r =>
    if isZb fmt then ((chunksOf (1 + 4 * zbWidth fmt) (r.length + 1) r).flatMap (zbValues fmt)).take e
    else (List.range e).map (fun i => elemValue fmt (rawElem fmt r 0 i)))

/-- The field `hi:lo` of a 64-byte descriptor. -/
def dfield (b : Bytes) (hi lo : Nat) : Nat := bits (leNat b) hi lo

/-- The kinds of R147. -/
def strokeKind (b : Bytes) : Nat := dfield b 7 4

/-- The OP of an OAR stroke (R240). -/
def oarOp (b : Bytes) : Nat := dfield b 11 8

/-- A MATMUL or GROUPED stroke (R147). -/
structure MatStroke where
  grouped : Bool
  fmtA : Nat
  fmtW : Nat
  fmtOut : Nat
  sat : Bool
  m : Nat
  n : Nat
  k : Nat
  tdA : Nat
  tdW : Nat
  tdOut : Nat
  tdRpar : Nat
  lo : Nat
  hi : Nat
  group : Nat
  taps : Nat
deriving DecidableEq, Repr

/-- The fields of R147. -/
def matStroke (b : Bytes) : MatStroke :=
  ⟨decide (strokeKind b = 1), dfield b 11 8, dfield b 15 12, dfield b 19 16, bitOf (leNat b) 20, dfield b 55 32,
    dfield b 79 56, dfield b 104 80, dfield b 127 112, dfield b 143 128, dfield b 159 144, dfield b 175 160,
    dfield b 207 176, dfield b 239 208, dfield b 247 240 + 1, dfield b 271 256⟩

/-- A SWEEP stroke (R290). -/
structure SweepStroke where
  fmtQ : Nat
  fmtOut : Nat
  sat : Bool
  mass : Bool
  spread : Nat
  blkLog2 : Nat
  layer : Nat
  hq : Nat
  hkv : Nat
  tdQ : Nat
  tdK : Nat
  tdV : Nat
  tdKv : Nat
  tdOut : Nat
  scale : Nat
deriving DecidableEq, Repr

/-- The fields of R290. -/
def sweepStroke (b : Bytes) : SweepStroke :=
  ⟨dfield b 11 8, dfield b 19 16, bitOf (leNat b) 20, bitOf (leNat b) 21, dfield b 23 22, dfield b 27 24, dfield b 39 32,
    dfield b 47 40 + 1, dfield b 55 48 + 1, dfield b 79 64, dfield b 95 80, dfield b 111 96, dfield b 127 112,
    dfield b 143 128, dfield b 175 144⟩

/-- The used inputs of an OAR stroke (R241). -/
def oarInputs (b : Bytes) : List Nat :=
  ([dfield b 47 32, dfield b 63 48, dfield b 79 64, dfield b 95 80, dfield b 111 96]).filter (· != 0xFFFF)

/-- The output of an OAR stroke (R241). -/
def oarOut (b : Bytes) : Nat := dfield b 31 16

/-- The geometry of R243. -/
structure Geometry where
  kh : Nat
  kw : Nat
  sh : Nat
  sw : Nat
  dh : Nat
  dw : Nat
  padT : Nat
  padB : Nat
  padL : Nat
  padR : Nat
deriving DecidableEq, Repr

/-- The fields of R243. -/
def geometry (b : Bytes) : Geometry :=
  ⟨dfield b 119 112, dfield b 127 120, dfield b 135 128, dfield b 143 136, dfield b 159 144, dfield b 175 160,
    dfield b 187 176, dfield b 199 188, dfield b 211 200, dfield b 223 212⟩

/-- Ho of R245, for `h` rows. -/
def Geometry.ho (g : Geometry) (h : Nat) : Int :=
  ((h : Int) + g.padT + g.padB - g.dh * ((g.kh : Int) - 1) - 1) / g.sh + 1

/-- Wo of R245, for `w` columns. -/
def Geometry.wo (g : Geometry) (w : Nat) : Int :=
  ((w : Int) + g.padL + g.padR - g.dw * ((g.kw : Int) - 1) - 1) / g.sw + 1

/-- A KERNEL stroke (R271). -/
structure KernelStroke where
  tdCode : Nat
  entry : Nat
  sliverW : Nat
  span : Nat
  cycles : Nat
  iters : Nat
  seam : Bool
  detlist : Bool
deriving DecidableEq, Repr

/-- The fields of R271. -/
def kernelStroke (b : Bytes) : KernelStroke :=
  let w := dfield b 159 144
  let sp := dfield b 175 160
  ⟨dfield b 127 112, dfield b 143 128, if w = 0 then 64 else w, if sp = 0 then 32768 else sp, dfield b 187 176,
    dfield b 203 188, bitOf (leNat b) 204, bitOf (leNat b) 205⟩

/-- The slivers of a KERNEL stroke (R272). -/
def KernelStroke.slivers (k : KernelStroke) : Nat := (k.span + k.sliverW - 1) / k.sliverW

/-- A CROP stroke (R264). -/
structure CropStroke where
  tdBox : Nat
  outH : Nat
  outW : Nat
  maxBox : Nat
  mode : Nat
deriving DecidableEq, Repr

/-- The fields of R264. -/
def cropStroke (b : Bytes) : CropStroke :=
  ⟨dfield b 127 112, dfield b 143 128, dfield b 159 144, dfield b 171 160, dfield b 173 172⟩

/-- The tensors that a stroke reads. -/
def strokeInputs (b : Bytes) : List Nat :=
  match strokeKind b with
  | 2 => let w := sweepStroke b; [w.tdQ, w.tdK, w.tdV]
  | 3 => oarInputs b ++ (if oarOp b = 3 ∧ (cropStroke b).tdBox ≠ 0xFFFF then [(cropStroke b).tdBox] else []) ++
      (if oarOp b = 0 then [(kernelStroke b).tdCode] else [])
  | _ => let m := matStroke b; [m.tdA, m.tdW] ++ (if m.tdRpar = 0xFFFF then [] else [m.tdRpar])

/-- The tensor that a stroke writes. -/
def strokeOutput (b : Bytes) : Nat :=
  match strokeKind b with
  | 2 => (sweepStroke b).tdOut
  | 3 => oarOut b
  | _ => (matStroke b).tdOut

/-- The tensor descriptor of a number. -/
def Package.td (p : Package) (n : Nat) : Option TensorDesc := p.tensors[n]?

/-- The stroke indices of a plan. -/
def Plan.strokeIds (p : Plan) : List Nat := (List.range p.strokes).map (· + p.firstStroke)

/-- Does a WINDOW reading a feature map of `h` rows need row `r` (R246, R248)? -/
def Geometry.readsRow (g : Geometry) (h r : Nat) (replicate : Bool) : Bool :=
  let ho := (g.ho h).toNat
  (List.range g.kh).any (fun ty =>
    let v : Int := (r : Int) + g.padT - ty * g.dh
    decide (0 ≤ v) && decide (v.toNat % g.sh = 0) && decide (v.toNat / g.sh < ho)) ||
  (replicate && ((r == 0 && decide (0 < g.padT)) || (r + 1 == h && decide (0 < g.padB))))

/-- The rows of a SWATH tensor `n` that stroke `b` reads directly. -/
def directRows (p : Package) (b : Bytes) (n : Nat) : List Nat :=
  match p.td n with
  | none => []
  | some t =>
    if t.kind ≠ 1 then []
    else
      let h := t.dims.getD 0 0
      if strokeKind b = 3 ∧ (oarOp b = 1 ∨ oarOp b = 2) then
        let g := geometry b
        (List.range h).filter (fun r => g.readsRow h r (oarOp b == 1 && dfield b 225 224 == 2))
      else List.range h

/-- The strokes of a plan that make tensor `n` as a window view (R246). -/
def windowsOf (p : Package) (pl : Plan) (n : Nat) : List Bytes :=
  (pl.strokeIds.filterMap (fun i => p.strokes[i]?)).filter (fun b =>
    strokeKind b == 3 && oarOp b == 1 && oarOut b == n)

/-- The rows of the swath buffer that stroke `b` of plan `pl` references (R165, R247, R254): its own SWATH inputs and
those of the window views it reads. A WINDOW stroke itself reads nothing. -/
def strokeRows (p : Package) (pl : Plan) (b : Bytes) : List Nat :=
  if strokeKind b = 3 ∧ oarOp b = 1 then []
  else
    (strokeInputs b).flatMap (fun n =>
      directRows p b n ++ (windowsOf p pl n).flatMap (fun w => (oarInputs w).flatMap (directRows p w)))

/-- Does a stroke write a WINDOW view, which no unit runs (R240)? -/
def isWindow (b : Bytes) : Bool := strokeKind b == 3 && oarOp b == 1

/-- The readout parameters of column `n` (R97, R148). -/
def readParam (rpar : Option Bytes) (n : Nat) : ReadParam :=
  match rpar with
  | none => ⟨0, 0x3F800000, 0⟩
  | some b => ⟨fieldAt b (12 * n) 4, fieldAt b (12 * n + 4) 4, asInt 16 (fieldAt b (12 * n + 8) 2)⟩

end Sys2Proof.Machine
end

