-- ==== Sys2Proof/Machine/Fire.lean ====
section
/-! DEFINITION. The fire list: insertion, resolution, off points, updates of PENDING entries, clearing, and the stop latch (R464 to R473). -/

namespace Sys2Proof.Machine

open Sys2Proof

/-- The fault flags of R452 that hold a channel off. -/
def FieldCh.off (c : FieldCh) : Bool := c.overload || c.overtemp || c.group || c.supply

/-- Does channel `n` refuse a command (R452, R474 numbering)? -/
def State.chanOff (s : State) (n : Nat) : Bool :=
  match toFin? 48 n with | some i => s.field.chans[i].off | none => true

/-- Entries that have not resolved (R471, R478). -/
def FireList.pending (f : FireList) : List FireEntry := f.entries.filter (fun e => e.held.isNone)

/-- The encoder channel of a number. -/
def State.enc? (s : State) (ch : Nat) : Option Encoder := (toFin? 8 ch).map (fun i => s.field.encs[i])

/-- What a resolved entry does. -/
inductive FireAct where
  | none
  | valves (fallback : Bool)
  | stop (fallback : Bool)
deriving DecidableEq, Repr

/-- The action of a fallback code (R464), where a valve action cannot be placed if `placed` is false (R468). -/
def fallbackAct (placed : Bool) (code : Nat) : FireAct :=
  if code = 1 then (if placed then .valves true else .stop true)
  else if code = 2 then .stop true else .none

/-- The fallback code of a verdict under the settings of a swath (R464, R482). -/
def FireSet.fallback (f : FireSet) : Verdict → Nat
  | .undecided => f.fbUndecided
  | .late => f.fbLate
  | .invalid => f.fbInvalid
  | _ => 0

/-- The verdict recorded, its cause where the trigger and fire unit makes it LATE, and the action. -/
structure Resolution where
  verdict : Verdict
  cause : Option Cause
  act : FireAct
deriving DecidableEq, Repr

/-- The table of R468 at P_on, `now` in CK_TS cycles. -/
def FireEntry.atPOn (e : FireEntry) (now : Nat) : Resolution :=
  if e.verdict = .pending ∨ now - e.verdictTime > e.set.ageLimit * 400 then
    ⟨.late, some .fireLate, fallbackAct true e.set.fbLate⟩
  else if e.verdict = .reject then ⟨.reject, none, .valves false⟩
  else if e.verdict = .pass then ⟨.pass, none, .none⟩
  else ⟨e.verdict, none, fallbackAct true (e.set.fallback e.verdict)⟩

/-- An entry inserted after its channel has passed P_on (R468): the verdict it carries, no age, no valve action. -/
def FireEntry.past (e : FireEntry) : Resolution :=
  if e.verdict = .pending then ⟨.late, some .fireLate, fallbackAct false e.set.fbLate⟩
  else if e.verdict = .reject then ⟨.reject, none, .stop false⟩
  else if e.verdict = .pass then ⟨.pass, none, .none⟩
  else ⟨e.verdict, none, fallbackAct false (e.set.fallback e.verdict)⟩

/-- An entry whose channel is in FAULT (R459) or that finds the list full (R471): LATE, with the substitution of R468. -/
def FireEntry.unplaced (e : FireEntry) (c : Cause) : Resolution :=
  ⟨.late, some c,
    if e.verdict = .reject then .stop false
    else if e.verdict = .pass then .none
    else fallbackAct false e.set.fbLate⟩

/-- `FIRE_LAST` of a resolution (R482), the count of resolutions rising by 1. -/
def fireLast (old part : Nat) (v : Verdict) (outcome : Nat) : Nat :=
  pack [(32, part), (4, v.code), (3, outcome), (9, 0), (16, bits old 63 48 + 1)]

/-- Carry a resolution out: the stop latch or the valves, the counters, the record, `FIRE_LAST` and the archive
(R468, R452, R553). The entry stays in the list only while it holds a valve. -/
def State.fireDo (s : State) (e : FireEntry) (r : Resolution) : State :=
  let chans := (List.range (e.valveHi + 1 - e.valveLo)).map (· + e.valveLo)
  let free := chans.filter (fun n => !s.chanOff n)
  let fault := match r.act with | .valves _ => decide (free ≠ chans) | _ => false
  let outcome : Nat := match r.act with
    | .none => 0
    | .valves fb => if fault then 4 else if fb then 2 else 1
    | .stop _ => 3
  let held := match r.act with | .valves _ => free | _ => []
  let fb := match r.act with | .valves b => b | .stop b => b | .none => false
  let s1 := s.modFire (fun f =>
    { f with
      entries := f.entries.filterMap (fun x =>
        if x.id = e.id then
          (if held.isEmpty then none
           else some { x with verdict := r.verdict, held := some held })
        else some x)
      stopLatched := f.stopLatched || (match r.act with | .stop _ => true | _ => false)
      last := match toFin? 12 e.port with
        | some p => f.last.set p (fireLast f.last[p] e.part r.verdict outcome)
        | none => f.last })
  let s2 := s1.modVerdict e.record (fun v =>
    { v with verdict := r.verdict, outcome := outcome, cause := r.cause.getD v.cause })
  let s3 := if r.cause.isSome then s2.lint .FIRE_LATE else s2
  let s4 := if fb then s3.lint .FIRE_FALLBACK else s3
  let s5 := if fault then s4.lint .FIRE_FAULT else s4
  if outcome = 1 ∨ outcome = 2 then
    match s5.verdict? e.record with
    | some v => s5.archiveAdd v
    | none => s5
  else s5

/-- Insert an entry (R466, R468, R471): at once LATE where the list is full or the channel is in FAULT, resolved where
the channel has passed P_on, and otherwise appended in insertion order. -/
def State.fireAdd (s : State) (e : FireEntry) : State :=
  let e := { e with id := s.field.fire.nextId }
  let s0 := s.modFire (fun f => { f with nextId := f.nextId + 1 })
  if 4096 ≤ s0.field.fire.pending.length then
    ((s0.fireDo e (e.unplaced .fireOvf)).modVerdict e.record (fun v => { v with fireOvf := true })).lint .FIRE_OVF
  else
    match s0.enc? e.ch with
    | none => s0
    | some c =>
      if c.fault then s0.fireDo e (e.unplaced .encFault)
      else if e.pOn ≤ c.high then
        (s0.modFire (fun f => { f with entries := f.entries ++ [e] })).fireDo e e.past
      else s0.modFire (fun f => { f with entries := f.entries ++ [e] })

/-- The position in counts of an off point, if it is in counts. -/
def FireOff.span? : FireOff → Option Int
  | .counts p => some p
  | .spanThenTime p => some p
  | .time => none

/-- Step 3 of R641, first part: releases of the entries on channel `ch` whose off point in counts `high` has reached;
a swath-level width in time starts to run instead (R470). -/
def State.fireReleases (s : State) (ch : Nat) (high : Int) : State :=
  s.modFire (fun f =>
    { f with entries := f.entries.filterMap (fun e =>
        if e.ch = ch ∧ e.held.isSome then
          match e.off with
          | .counts p => if p ≤ high then none else some e
          | .spanThenTime p => if p ≤ high then some { e with off := .time } else some e
          | .time => some e
        else some e) })

/-- Step 3 of R641, second part: the pending entries on channel `ch` that `high` has reached resolve, in order of
insertion. -/
def State.fireResolves (s : State) (ch : Nat) (high : Int) : State :=
  s.each (s.field.fire.pending.filter (fun e => e.ch == ch && decide (e.pOn ≤ high)))
    (fun s e => s.fireDo e (e.atPOn s.now))

/-- A channel goes into FAULT: every pending entry on it resolves at once (R459). -/
def State.fireChannelFault (s : State) (ch : Nat) : State :=
  s.each (s.field.fire.pending.filter (fun e => e.ch == ch))
    (fun s e => s.fireDo e (e.unplaced .encFault))

/-- A condition of R452 switches channels off: every hold on them is dropped, and each entry that loses one is counted. -/
def State.dropHolds (s : State) (chans : List Nat) : State :=
  let hit (e : FireEntry) : Bool := match e.held with | some h => h.any chans.contains | none => false
  let n := (s.field.fire.entries.filter hit).length
  (s.modFire (fun f =>
    { f with entries := f.entries.filterMap (fun e =>
        match e.held with
        | none => some e
        | some h =>
          let k := h.filter (fun c => !chans.contains c)
          if k.isEmpty then none else some { e with held := some k }) })).lintBy .FIRE_FAULT 0 n

/-- The list is cleared (R31, R472): every pending entry is counted; held valves are released. -/
def State.fireClear (s : State) : State :=
  let n := s.field.fire.pending.length
  (s.modFire (fun f => { f with entries := [] })).lintBy .FIRE_CLEARED 0 n

/-- What a part or a whole swath gives an entry and its record: the record's fields, the box columns and the reference
row (none: swath-level). -/
structure FirePart where
  rcd : VerdictRec
  x0 : Int
  x1 : Int
  yr : Option Int
deriving DecidableEq, Repr

/-- The reference position of a row (R466). -/
def Swath.pRef (w : Swath) (yr : Int) : Int :=
  w.first.pos + rheDiv ((w.last - w.first.pos) * yr) (w.total - 1)

/-- The first and last valve of a box (R466), as channel numbers. -/
def FireCfg.valveRange (c : FireCfg) (w : Nat) (x0 x1 : Int) : Nat × Nat :=
  let a := (clampInt x0 0 w).toNat
  let b := (clampInt x1 0 w).toNat
  if b ≤ a then
    let v := min (a * c.valves / w) (c.valves - 1)
    (c.base + v, c.base + v)
  else (c.base + a * c.valves / w, c.base + (b - 1) * c.valves / w)

/-- Is the port's partition in replay mode (R363)? -/
def State.replayPort (s : State) (port : Nat) : Bool :=
  match s.partitionOfPort port with
  | some p => s.flag .DET_REPLAY_ENABLE p
  | none => false

/-- Write the verdict record of a part or a swath and insert its fire entry (R466, R580): no entry for a port whose
fire list is off, for a replay partition, without a FIRE entry in the recipe, or outside ARMED, RUN and DEGRADED. -/
def State.firePart (s : State) (w : Swath) (p : FirePart) : State :=
  let cfg := if w.fire.enable && !s.replayPort p.rcd.port && s.dev.state.active then
      (s.fastPlan p.rcd.port).bind (fun f => f.2.2.1.fireCfg p.rcd.port) else none
  match cfg with
  | none => (s.addVerdict { p.rcd with outcome := 7, verdictTime := s.netTime }).1
  | some c =>
    let (on, off, v) := match p.yr with
      | some y =>
        let on := w.pRef y + c.offset
        (on, if c.widthTime then FireOff.time else .counts (on + c.width), c.valveRange w.width p.x0 p.x1)
      | none =>
        let e := w.last + c.offset
        (w.first.pos + c.offset, if c.widthTime then FireOff.spanThenTime e else .counts (e + c.width),
          (c.base, c.base + c.valves - 1))
    let (s1, n) := s.addVerdict { p.rcd with outcome := 7, pOn := on, verdictTime := s.netTime }
    s1.fireAdd ⟨0, p.rcd.port, w.encCh, on, off, v.1, v.2, p.rcd.verdict, s1.now, w.fire, n, p.rcd.partId, none⟩

/-- The audit block of a record made without a heat for a swath of a FAST plan (R359, R360). -/
def State.swathAudit (s : State) (port : Nat) (w : Swath) : Audit :=
  match s.fastPlan port with
  | none => { Audit.zero with heatless := true, step := w.cnt % 2 ^ 32, inputCrc := w.crc }
  | some (slot, k, pkg, _) =>
    { Audit.zero with
      partition := pkg.partition, replay := s.replayPort port, package := slot, plan := k, heatless := true,
      step := w.cnt % 2 ^ 32, stream := port * 2 ^ 60 + w.cnt % 2 ^ 60, inputCrc := w.crc,
      runSeed := leNat (s.byt .DET_RUN_SEED pkg.partition), digest := pkg.digest,
      fwVersion := match s.boot.running with | some f => f.version | none => 0 }

/-- The fields of a swath-level record (R60, R580). -/
def State.swathRcd (s : State) (port : Nat) (w : Swath) (v : Verdict) (c : Cause) (a : Audit) (unsync : Bool) : VerdictRec :=
  { swathLevel := true, verdict := v, outcome := 7, secondLook := false, fireOvf := false, timeUnsync := unsync,
    cause := c, port := port, partId := 0, swath := w.cnt, recSeq := 0, boxSlot := 0, noSlot := false,
    pOn := w.first.pos, verdictTime := s.netTime, conf := 0, seqId := 0, audit := a }

/-- A swath-level record and its entry (R60, R221, R565, R570), under an audit block. -/
def State.swathRecord (s : State) (port : Nat) (w : Swath) (v : Verdict) (c : Cause) (a : Audit) (unsync : Bool) : State :=
  s.firePart w { rcd := s.swathRcd port w v c a unsync, x0 := 0, x1 := 0, yr := none }

/-- Does the swath's record carry TIME_UNSYNC (R58, bit 24)? -/
def Swath.unsync (w : Swath) : Bool := w.flags.testBit 8

/-- A heatless swath-level record (R500: its TIME_UNSYNC is that of its swath). -/
def State.swathHeatless (s : State) (port : Nat) (w : Swath) (v : Verdict) (c : Cause) : State :=
  s.swathRecord port w v c (s.swathAudit port w) w.unsync

/-- The record of a swath that a transition cuts short (R61): it makes no fire entry, and its OUTCOME is 7. -/
def State.swathShort (s : State) (port : Nat) (w : Swath) : State :=
  (s.addVerdict (s.swathRcd port w .undecided .spoiled (s.swathAudit port w) w.unsync)).1

/-- A second-look verdict reaches its part (R467, R580): the PENDING entry takes it with the time of the update; where
the entry has resolved, only the record takes it, and `LINT_FIRE_AFTER` advances. -/
def State.fireUpdate (s : State) (record : Nat) (v : Verdict) (c : Cause) (seqId : Nat) (second : Bool) : State :=
  let pend := s.field.fire.pending.find? (fun e => e.record == record && decide (e.verdict = .pending))
  let s1 := s.modVerdict record (fun r =>
    { r with verdict := v, cause := c, secondLook := second, seqId := seqId, verdictTime := s.netTime })
  match pend with
  | some e =>
    s1.modFire (fun f =>
      { f with entries := f.entries.map (fun x => if x.id = e.id then { x with verdict := v, verdictTime := s.now } else x) })
  | none =>
    match s.verdict? record with
    | some r => if r.verdict = .pending ∧ r.outcome = 7 then s1 else s1.lint .FIRE_AFTER
    | none => s1.lint .FIRE_AFTER

/-- FIRE_OFF_TIME (R470): the off point in time of the entry `id` is reached, and it releases its valves. -/
def execFireOffTime (id : Nat) (s : State) : Host.Outcome State Fault Refusal :=
  settled (s.modFire (fun f =>
    { f with entries := f.entries.filter (fun e => !(e.id == id && e.held.isSome && decide (e.off = .time))) }))

end Sys2Proof.Machine
end

