-- ==== Sys2Proof/Machine/CoxBase.lean ====
section
/-! DEFINITION. The cox: the calendar of work periods, the rota, the fit of a request, the queue, reclaiming, admission, and the end of heats (R179 to R183, R188 to R194, R212 to R233, R565, R579). -/

namespace Sys2Proof.Machine

open Sys2Proof

/-- CK_FAB cycles in a rota period (R180). -/
def periodCycles : Nat := 4608

/-- CK_FAB cycles from ARM to now (R16: six to a CK_TS cycle). -/
def State.fabNow (s : State) : Nat := (s.now - s.cox.armMono) * 6

/-- Is period `n` reserved for the swatch (R213)? -/
def State.inSwatch (s : State) (n : Nat) : Bool :=
  decide (n % s.num .COX_SWATCH_EVERY 0 < s.num .COX_SWATCH_LEN 0)

/-- Is period `n` reserved for the rinse (R213)? -/
def State.inRinse (s : State) (n : Nat) : Bool :=
  let r := n % s.num .COX_RINSE_EVERY 0
  decide (s.num .COX_RINSE_PHASE 0 ≤ r) && decide (r < s.num .COX_RINSE_PHASE 0 + s.num .COX_RINSE_LEN 0)

/-- Is period `n` a work period (R213)? -/
def State.isWork (s : State) (n : Nat) : Bool := !s.inSwatch n && !s.inRinse n

/-- The first `k` periods from `n` on that `work` holds of; `fuel` bounds the search. -/
def workFrom (work : Nat → Bool) : Nat → Nat → Nat → List Nat
  | 0, _, _ => []
  | f + 1, n, k =>
    if k = 0 then [] else if work n then n :: workFrom work f (n + 1) (k - 1) else workFrom work f (n + 1) k

/-- The first `k` work periods from `n` on. -/
def State.workPeriods (s : State) (n k : Nat) : List Nat := workFrom s.isWork ((k + 1) * 65536) n k

/-- The first work period from `n` on. -/
def State.firstWork (s : State) (n : Nat) : Nat := (s.workPeriods n 1).headD n

/-- The calendar periods of a heat that starts in `n` (R216): work periods, or consecutive ones for a SWATCH heat. -/
def State.calendar (s : State) (k : PlanKind) (n count : Nat) : List Nat :=
  if k = .swatch then (List.range count).map (· + n) else s.workPeriods n count

/-- A plan's package in a slot and the plan. -/
def State.planOf (s : State) (slot plan : Nat) : Option (Package × Plan) :=
  ((toFin? 16 slot).bind (fun i => s.cox.packages[i])).bind (fun p => (p.plans[plan]?).map (fun q => (p, q)))

/-- The member seats of a squad, ascending (R415). -/
def State.memberSeats (s : State) : List Nat := (List.range 32).filter s.squad.members.testBit

/-- Do heats of a kind in a partition span the seats of a squad (R412, R414)? -/
def State.spans (s : State) (part : Nat) (k : PlanKind) : Bool :=
  (decide (s.squad.state = .formed) || decide (s.squad.state = .broken)) && (s.num .SQD_PART_MASK 0).testBit part && decide (k ≠ .fast) && decide (k ≠ .swatch)

/-- The crew rank of a pass (R211 rules 1 and 3: pass i on rank i mod C), where the rules leave no other. A kernel's slivers (R272), a thin
stroke of a crew without a scull (R136), and the shared engines are placed otherwise. -/
def Pass.placed (x : Pass) (prof : List Profile) : Pass :=
  let c := prof.length
  if x.unitKind = 0 ∨ x.unitKind = 2 ∨ (x.unitKind = 1 ∧ (prof.getD (x.num % c) ⟨0, [], false⟩).scull = true) then
    { x with rank := x.num % c } else { x with rank := x.rank % c }

/-- Does a grant keep to the rota (R180, R182) and to rule 6 of R211: on lane 1 of a crew port only odd slot-times? -/
def Grant.inRota (g : Grant) : Bool :=
  decide (g.slot < 288 ∧ g.lane < 31 ∧ g.dir < 2) && (decide (12 ≤ g.lane) || g.lane % 2 == 0 || g.slot % 2 == 1)

/-- An image within the limits that the rules set to it (R159, R211, R216), for crews of these profiles on member `idx` of `members`: on one
seat `members` is 1 and `idx` 0; of a spanning image a seat has the passes of its own squad ranks (R415). -/
def Image.conform (g : Image) (prof : List Profile) (members idx : Nat) : Image :=
  let c := prof.length
  { g with
    t := g.t % 4608
    grants := g.grants.filter Grant.inRota
    passes := (g.passes.filter (fun x => decide (2 < x.unitKind) || decide (x.num % (c * members) / c = idx))).map (·.placed prof)
    live := g.live.filter (fun x => decide (x.2.2 < 376)) }

/-- The image of a plan on crews (R209), or this seat's part of a spanning image (R415), within the limits of the rules
(notes/assumptions/14.md). -/
def State.imageOf (s : State) (p : Package) (plan : Nat) (crews : List Nat) : Image :=
  let kind := match p.plans[plan]? with | some q => q.kind | none => .background
  let prof := crews.map s.profile
  if s.spans p.partition kind then
    let idx := (s.memberSeats.findIdx? (· == s.num .SQD_SEAT 0)).getD 0
    (Config.spanImage p.container plan prof s.memberSeats.length idx).conform prof s.memberSeats.length idx
  else (Config.image p.container plan prof).conform prof 1 0

/-- The partition of a crew (R224). -/
def State.partitionOfCrew (s : State) (c : Nat) : Option Nat :=
  (List.range 8).find? (fun p => s.flag .PART_ENABLE p && (s.num .PART_CREW_MASK p).testBit c)

/-- Is a crew lent by its partition (R227)? -/
def State.lent (s : State) (c : Nat) : Bool :=
  match s.partitionOfCrew c with
  | some p => (s.num .PART_LEND_MASK p).testBit c
  | none => false

/-- Does a heat hold a crew? A DRAINING or SAVING heat holds the crews it still has to save; a SAVED one none. -/
def Heat.holds (h : Heat) (c : Nat) : Bool :=
  match h.state with
  | .saved => false
  | .saving => h.toSave.contains c
  | _ => h.crews.contains c

/-- Does a heat occupy crew `c` at some time within the periods `a` to `b`? -/
def Heat.occupies (h : Heat) (c a b : Nat) : Bool :=
  h.holds c &&
    match h.state with
    | .draining => true
    | .saving => true
    | .admitted => decide (h.periods.headD 0 ≤ b) && decide (a ≤ h.reserveEnd)
    | _ => decide (a ≤ h.reserveEnd)

/-- The class of a heat. -/
def Heat.cls (h : Heat) : Nat := h.req.kind.cls

/-- Is crew `c` free from `a` to `b`, the heats `but` left out? -/
def State.freeCrew (s : State) (but : List Nat) (c a b : Nat) : Bool :=
  !s.cox.heats.any (fun e => !but.contains e.1 && e.2.occupies c a b)

/-- Is a crew settling (R212)? -/
def State.isSettling (s : State) (c : Nat) : Bool := (amGet? s.cox.settling c).isSome

/-- The crews that a plan of a partition may use, the partition's own first (R220, R227); in service and not settling. -/
def State.usable (s : State) (part : Nat) (pl : Plan) : List Nat :=
  let ok (c : Nat) : Bool := s.crewIn c && !s.isSettling c
  let own := (List.range 6).filter (fun c => ok c && (s.num .PART_CREW_MASK part).testBit c)
  own ++ (List.range 6).filter (fun c => ok c && !own.contains c && pl.borrow && pl.preempt && s.lent c)

/-- Insert a number in an ascending list. -/
def insNat (x : Nat) : List Nat → List Nat
  | [] => [x]
  | y :: r => if x ≤ y then x :: y :: r else y :: insNat x r

/-- A list in ascending order. -/
def sortNat (l : List Nat) : List Nat := l.foldr insNat []

/-- The physical lane of an image's lane: lanes 0 to 11 stand for the crews by rank, two each (R179). -/
def physLane (crews : List Nat) (lane : Nat) : Nat :=
  if lane < 12 then 2 * crews.getD (lane / 2) 0 + lane % 2 else lane

/-- A slot of the rota in a period: slot-time, lane, direction. -/
abbrev SlotKey := Nat × Nat × Nat × Nat

/-- The slots of an image's grants from work period `offset` on, in the calendar periods `ps`. -/
def Image.slots (g : Image) (crews : List Nat) (offset : Nat) (ps : List Nat) : List SlotKey :=
  g.grants.filterMap (fun x =>
    if offset ≤ x.period then
      (ps[x.period - offset]?).map (fun p => (p, x.slot, physLane crews x.lane, x.dir))
    else none)

/-- The slots that a heat owns (R182). -/
def Heat.slots (h : Heat) : List SlotKey :=
  match h.state with
  | .saved => []
  | .draining => []
  | .saving => []
  | _ => h.image.slots h.crews h.offset h.periods

/-- Are save slots reserved in the rota (R188, R227)? -/
def State.saveOn (s : State) : Bool := s.cox.saveSlots

/-- The owner codes of R183. -/
inductive SlotOwner where
  | free | heat (entry grant : Nat) | coachHost | oar | save
deriving DecidableEq, Repr

/-- Does channel `c` use group slot `j` of period `p` for `use`: 0 coach and host, 1 save (R188)? -/
def groupUse (p c j use : Nat) : Bool :=
  if use = 0 then j == (c + 6) % 12 && c / 8 == p % 4
  else j == (c + 3) % 12 || j == (c + 9) % 12

/-- Is the hub slot (direction 0 into the switch: a read 36 slot-times after its group slot; direction 1: a write 4
before it) on hub lane `lane` used so (R189)? -/
def hubUse (p slot lane dir use : Nat) : Bool :=
  (List.range 32).any (fun c =>
    c / 24 == lane &&
      (List.range 12).any (fun j =>
        let g := 24 * j + c % 24
        (if dir = 0 then (g + 36) % 288 else (g + 284) % 288) == slot && groupUse p c j use))

/-- The owner of a slot that is fixed at ARM (R181, R188): oar slots on lane 1 of each crew port, and the hub slots of
the coach and host and of the save areas (notes/assumptions/17.md for the other ends of these transfers). -/
def State.fixedOwner (s : State) (p slot lane dir : Nat) : Option SlotOwner :=
  if lane < 12 then
    if lane % 2 = 1 ∧ (slot % 24 = lane / 2 * 2 ∨ slot % 24 = lane / 2 * 2 + 12) then some .oar else none
  else if lane = 20 ∨ lane = 21 then
    if hubUse p slot (lane - 20) dir 0 then some .coachHost
    else if s.saveOn && hubUse p slot (lane - 20) dir 1 then some .save else none
  else none

/-- The power of an image in calendar period `p` (R232). -/
def powerAt (g : Image) (offset : Nat) (ps : List Nat) (p : Nat) : Nat :=
  match ps.findIdx? (· == p) with
  | some i => g.power.getD (offset + i) 0
  | none => 0

/-- The estimate of a heat in a period. -/
def Heat.powerIn (h : Heat) (p : Nat) : Nat :=
  match h.state with
  | .saved => 0 | .draining => 0 | .saving => 0
  | _ => powerAt h.image h.offset h.periods p

/-- The limit L of a class (R232). -/
def State.powerLimit (s : State) (cls : Nat) : Nat :=
  min (s.num .PWR_LIMIT 0) s.dev.admitLimit - (if cls = 0 then 0 else s.num .PWR_P0_RESERVE 0)

/-- `PWR_ADMITTED` (R234): the estimate of period `p`, base included. -/
def State.powerAdmitted (s : State) (p : Nat) : Nat :=
  s.num .PWR_BASE 0 + (s.cox.heats.map (fun e => e.2.powerIn p)).sum

/-- The regulator window of a slot-time of a period (R226). -/
def windowOf (p slot : Nat) : Nat := (288 * p + slot) / 150

/-- The tokens that an image takes, by window. -/
def Image.tokens (g : Image) (offset : Nat) (ps : List Nat) : List Nat :=
  g.groups.filterMap (fun x => if offset ≤ x.1 then (ps[x.1 - offset]?).map (fun p => windowOf p x.2) else none)

/-- The bucket of a partition from window `w` on with `t` tokens at its start stays at or above zero for `n` windows when
`use w` tokens go in window `w` (R226). -/
def bucketOk (rate depth : Nat) (use : Nat → Nat) : Nat → Nat → Nat → Bool
  | 0, _, _ => true
  | n + 1, w, t => decide (use w ≤ t) && bucketOk rate depth use n (w + 1) (min depth (t - use w + rate))

/-- The 8 partitions' regulator of a number. -/
def State.regulator (s : State) (p : Nat) : Partition :=
  match toFin? 8 p with | some i => s.cox.partitions[i] | none => ⟨0, 0, []⟩

/-- Does the regulator hold the tokens (R220, R226)? -/
def State.tokensOk (s : State) (part : Nat) (ws : List Nat) : Bool :=
  let r := s.regulator part
  let now := s.cox.window
  let last := (ws ++ r.reserved.map (·.1)).foldl max now
  bucketOk (s.num .PART_RATE part) (s.num .PART_DEPTH part)
    (fun w => amGet r.reserved w 0 + (ws.filter (· == w)).length + (if w = now then r.darnUsed else 0))
    (last + 1 - now) now r.tokens

/-- A place for a request: start, crews, image, the work period of the image it starts at, its calendar periods without
and with the darn reserve. -/
structure Fit where
  start : Nat
  crews : List Nat
  image : Image
  offset : Nat
  periods : List Nat
  reserveEnd : Nat
deriving DecidableEq, Repr

/-- The completion of R216 in CK_FAB cycles from ARM. -/
def doneAt (g : Image) (ps : List Nat) : Nat := periodCycles * (ps.getLastD 0) + g.t

/-- The end of the darn reserve, or the completion where there is none (R219). -/
def Fit.endAt (f : Fit) (darn : Nat) : Nat :=
  if darn = 0 then doneAt f.image f.periods else periodCycles * (f.reserveEnd + 1)

/-- The crews, image and calendar of a request that starts in `n` on `crews` (R216, R230). -/
def State.layout (s : State) (r : CoxReq) (p : Package) (pl : Plan) (crews : List Nat) (n : Nat) : Fit :=
  let (g, o) := match r.resume.bind (amGet? s.cox.heats) with
    | some h => (h.image, h.offset)
    | none => (s.imageOf p r.plan crews, 0)
  let all := s.calendar pl.kind n (g.w - o + pl.darnPeriods)
  ⟨n, crews, g, o, all.take (g.w - o), all.getLastD n⟩

/-- The save-section groups and bound of `n` live blocks, in rota periods (R193: 1 + ceil(65,536 n / 1,984) groups, 64 a
period, and 5 µs), rounded up to a period boundary. -/
def transferPeriods (n : Nat) : Nat :=
  let groups := 1 + (65536 * n + 1983) / 1984
  ((groups + 63) / 64 * periodCycles + 12000 + periodCycles - 1) / periodCycles

/-- The periods that the restore of a SAVED heat takes (R193, R230). -/
def State.restoreTime (s : State) (r : CoxReq) : Nat :=
  match r.resume.bind (amGet? s.cox.heats) with
  | some h => (h.sections.map (fun x => transferPeriods x.blocks.length)).sum
  | none => 0

/-- Scratch blocks of a partition held at once while a heat occupies periods `a` to `b` (R220, R235). -/
def State.scratchHeld (s : State) (but : List Nat) (part a b : Nat) : Nat :=
  (s.cox.heats.map (fun e =>
    if e.2.req.partition = part ∧ !but.contains e.1 ∧ e.2.crews.any (fun c => e.2.occupies c a b) then
      e.2.crews.length * e.2.plan.scrQuota else 0)).sum

/-- Heats of a plan in the table (R233). -/
def State.planHeats (s : State) (slot plan : Nat) : Nat :=
  (s.cox.heats.filter (fun e => e.2.req.slot == slot && e.2.req.plan == plan)).length

/-- R220 but for the power condition, the heats `but` left out of the crews. -/
def State.fitsHere (s : State) (but : List Nat) (r : CoxReq) (pl : Plan) (f : Fit) : Bool :=
  let used := s.cox.heats.flatMap (fun e => e.2.slots)
  decide (f.crews.length = pl.crews) &&
  f.crews.all (fun c => s.freeCrew but c f.start f.reserveEnd) &&
  (f.image.slots f.crews f.offset f.periods).all (fun k =>
    !used.contains k && (s.fixedOwner k.1 k.2.1 k.2.2.1 k.2.2.2).isNone) &&
  decide (s.scratchHeld but r.partition f.start f.reserveEnd + pl.crews * pl.scrQuota ≤ s.num .PART_SCR_QUOTA r.partition) &&
  decide (s.planHeats r.slot r.plan < pl.maxConc ∨ r.resume.isSome) &&
  s.tokensOk r.partition (f.image.tokens f.offset f.periods)

/-- The power condition of R232 over the span of a place. -/
def State.powerOk (s : State) (cls : Nat) (f : Fit) : Bool :=
  f.periods.all (fun p =>
    decide (s.powerAdmitted p + powerAt f.image f.offset f.periods p ≤ s.powerLimit cls))

/-- A place for a request at start `n` (R220), and whether the power condition holds: the crews are the first of the
usable ones that are free over the span. -/
def State.tryFit (s : State) (r : CoxReq) (p : Package) (pl : Plan) (n : Nat) : Option (Fit × Bool) :=
  let us := s.usable r.partition pl
  let nominal := s.layout r p pl (sortNat (us.take pl.crews)) n
  let crews := sortNat ((us.filter (fun c => s.freeCrew [] c n nominal.reserveEnd)).take pl.crews)
  let f := s.layout r p pl crews n
  if s.fitsHere [] r pl f then some (f, s.powerOk pl.kind.cls f) else none

/-- `first_fit` of R219 over the work periods from `a` to `b`: the place, and whether some place failed on power alone. -/
def State.firstFit (s : State) (r : CoxReq) (p : Package) (pl : Plan) (a b : Nat) : Option Fit × Bool :=
  let c := ((List.range (b + 1 - a)).map (· + a)).filter s.isWork
  let ok := c.findSome? (fun n => match s.tryFit r p pl n with | some (f, true) => some f | _ => none)
  (ok, ok.isNone && c.any (fun n => (s.tryFit r p pl n).isSome))

/-- The live blocks of a heat on a crew at the end of period `m` (R210, R228). -/
def Heat.liveAt (h : Heat) (c m : Nat) : List Nat :=
  let done := (h.periods.filter (· ≤ m)).length
  match h.crews.findIdx? (· == c) with
  | some rank =>
    if done + h.offset = 0 then []
    else sortNat ((h.image.live.filter (fun x => x.1 == h.offset + done - 1 && x.2.1 == rank)).map (fun x => x.2.2))
  | none => []

/-- `reclaim_fit` (R228): the place after the chosen crews have been saved, and the heats to drain. -/
def State.reclaimFit (s : State) (r : CoxReq) (p : Package) (pl : Plan) (m : Nat) : Option (Fit × List Nat) :=
  let us := s.usable r.partition pl
  let nominal := s.layout r p pl (sortNat (us.take pl.crews)) (m + 1)
  let isFree (c : Nat) : Bool := s.freeCrew [] c (m + 1) nominal.reserveEnd
  let victims (c : Nat) : List Nat := (s.cox.heats.filter (fun e => e.2.holds c)).map (·.1)
  let takeable (c : Nat) : Bool :=
    !isFree c && (victims c).all (fun k =>
      match amGet? s.cox.heats k with
      | some h => h.plan.preempt && decide (pl.kind.cls < h.cls) &&
          (decide (h.state = .running) || decide (h.state = .admitted) || decide (h.state = .restoring) || decide (h.state = .reserve))
      | none => false) &&
    (s.lent c || (s.num .PART_CREW_MASK r.partition).testBit c)
  let chosen := ((us.filter isFree) ++ sortNat (us.filter takeable)).take pl.crews
  if chosen.length < pl.crews ∨ r.resume.isSome then none
  else
    let crews := sortNat chosen
    let drain := (crews.flatMap (fun c => if isFree c then [] else victims c)).eraseDups
    let time := (crews.map (fun c =>
      if isFree c then 0
      else match (victims c).head?.bind (amGet? s.cox.heats) with
        | some h => transferPeriods (h.liveAt c m).length
        | none => 0)).sum
    let f := s.layout r p pl crews (s.firstWork (m + 1 + time))
    if s.fitsHere drain r pl f && s.powerOk pl.kind.cls f then some (f, drain) else none

/-- Is request `a` before `b` in the queue (R218)? -/
def CoxReq.before (a b : CoxReq) : Bool :=
  if a.kind.cls ≠ b.kind.cls then decide (a.kind.cls < b.kind.cls)
  else match a.deadline, b.deadline with
    | some x, some y => if x ≠ y then decide (x < y) else decide (a.order < b.order)
    | some _, none => true
    | none, some _ => false
    | none, none => decide (a.order < b.order)

/-- Insert a request in the order of R218. -/
def queueIns (r : CoxReq) : List CoxReq → List CoxReq
  | [] => [r]
  | x :: t => if r.before x then r :: x :: t else x :: queueIns r t

/-- Is a request FAST? -/
def CoxReq.fast (r : CoxReq) : Bool := decide (r.kind = .fast)

/-- A swath whose heat will not be admitted stops waiting (R165). -/
def State.swathEnds (s : State) (port cnt : Nat) (f : SwathFate) : State :=
  s.modSwath port cnt (fun w => { w with fate := f })

/-- Records or entries of a swath exist: the watchdog expects no more of it (R570). -/
def State.swathDecided (s : State) (port cnt : Nat) : State :=
  (s.modSwath port cnt (fun w => { w with decided := true })).modSaf (fun f =>
    { f with expected := f.expected.filter (fun x => x != (port, cnt)) })

/-- The swath-level LATE record of a FAST request that is dropped (R221, R233). -/
def State.fastLate (s : State) (r : CoxReq) (c : Cause) : State :=
  match r.swath with
  | none => s
  | some (port, cnt) =>
    match s.swath? port cnt with
    | none => s
    | some w =>
      let s1 := if w.decided then s.lint .SAF_SWATH_WD else s.swathHeatless port w .late c
      (s1.swathDecided port cnt).swathEnds port cnt .late

/-- An empty result record of a kind, status and cause (R582). -/
def blankResult (kind status : Nat) (c : Cause) (a : Audit) : ResultRec :=
  ⟨kind, status, c, 0, 0, ⟨0, 0, 0⟩, 0, a, []⟩

/-- The fields of an audit block that a request fixes without a heat (R359, R360). -/
def State.reqAudit (s : State) (r : CoxReq) : Audit :=
  { Audit.zero with
    planKind := r.kind.code, partition := r.partition, replay := s.flag .DET_REPLAY_ENABLE r.partition, package := r.slot,
    plan := r.plan, heatless := true, step := r.step % 2 ^ 32,
    runSeed := leNat (s.byt .DET_RUN_SEED r.partition),
    fwVersion := match s.boot.running with | some f => f.version | none => 0
    digest := match s.planOf r.slot r.plan with | some (p, _) => p.digest | none => zeros 64 }

/-- The draw stream of a heat (R349). -/
def Heat.stream (h : Heat) : Nat :=
  match h.req.kind with
  | .fast => match h.req.swath with | some (p, c) => p * 2 ^ 60 + c % 2 ^ 60 | none => 0
  | .retune => h.req.step
  | .background => h.serial
  | _ => 0

/-- The audit block of a heat (R359, R360). -/
def State.heatAudit (s : State) (h : Heat) : Audit :=
  { s.reqAudit h.req with
    replay := h.replay, crews := (h.crews.map (2 ^ ·)).sum, heatless := false, heatSerial := h.serial, stream := h.stream,
    inputCrc := h.inputCrc, roiCrc := h.roiCrc, patchEpoch := h.patchEpoch, retuneGen := h.retuneGen,
    seamCrc := match h.req.swath with
      | some (p, c) => (match s.swath? p c with | some w => w.seamCrc | none => 0)
      | none => 0
    cfgCrc := match h.req.swath with | some (p, _) => s.cfgCrc p | none => 0
    startPeriod := h.firstStart % 2 ^ 32, donePeriod := h.statedDone / periodCycles % 2 ^ 32,
    doneCycle := h.statedDone % periodCycles, patchSummary := h.patchSummary }

/-- A step heat or its request ends; its producer takes it at its boundary. -/
def State.stepEnd (s : State) (k : PlanKind) (part : Nat) (o : StepOutcome) (h : Option Heat) : State :=
  s.modCox (fun c => { c with stepEnds := c.stepEnds ++ [⟨k, part, o, h⟩] })

/-- A request enters the queue (R218, R233): whether it found a place. A request that resumes a SAVED heat keeps the place
its heat-table entry already holds (notes/assumptions/18.md). -/
def State.enqueue (s : State) (r : CoxReq) : State × Bool :=
  let q := s.cox.queue.filter (fun x => x.resume.isNone)
  let nf := (q.filter CoxReq.fast).length
  let no := q.length - nf
  let place (s : State) : State := s.modCox (fun c => { c with queue := queueIns r c.queue })
  if r.resume.isSome then (place s, true)
  else if r.fast then
    if q.length < 128 then (place s, true)
    else
      match (q.filter (fun x => !x.fast)).getLast? with
      | some v =>
        let s1 := (s.modCox (fun c => { c with queue := c.queue.filter (fun x => !decide (x = v)) })).lint .COX_QUEUE_FULL
        let s2 := if v.kind = .background then s1 else s1.modCox (fun c => { c with held := c.held ++ [v] })
        (place s2, true)
      | none => ((s.fastLate r .coxQueue).lint .COX_QUEUE_FULL, false)
  else if no + (nf - 48) < 80 then (place s, true)
  else (s.lint .COX_QUEUE_FULL, false)

/-- A request with the next trigger order. -/
def State.newReq (s : State) (kind : PlanKind) (slot plan part trig : Nat) (deadline : Option Nat) (swath : Option (Nat × Nat))
    (eligible : Bool) (step : Nat) : State × CoxReq :=
  (s.modCox (fun c => { c with nextOrder := c.nextOrder + 1 }),
    ⟨kind, slot, plan, part, trig, deadline, s.cox.nextOrder, swath, eligible, step, none, false⟩)

/-- The deadline of a plan's request triggered at `trig` (R206, R217, R363): none for 0 or in a replay partition. -/
def State.deadlineOf (s : State) (part : Nat) (pl : Plan) (trig : Nat) : Option Nat :=
  if pl.deadlineUs = 0 ∨ s.flag .DET_REPLAY_ENABLE part then none else some (trig + pl.deadlineUs * 2400)

/-- A producer of SECOND_LOOK or RETUNE requests presents one; it is held back where no place is free (R233). -/
def State.present (s : State) (r : CoxReq) : State :=
  let (s1, ok) := s.enqueue r
  if ok then s1 else s1.modCox (fun c => { c with held := c.held ++ [r] })

/-- Row references of the strokes `ids` of a heat drop (R165). -/
def Heat.dropRows (h : Heat) (p : Package) (ids : List Nat) (refs : List Nat) : List Nat :=
  (ids.filterMap (fun i => p.strokes[h.plan.firstStroke + i]?)).foldl (fun refs b =>
    let rows := strokeRows p h.plan b
    (refs.zip (List.range refs.length)).map (fun e => if rows.contains e.2 then e.1 - 1 else e.1)) refs

/-- Row references of all strokes of an admitted heat (R165). -/
def addRows (p : Package) (pl : Plan) (refs : List Nat) : List Nat :=
  (pl.strokeIds.filterMap (fun i => p.strokes[i]?)).foldl (fun refs b =>
    let rows := strokeRows p pl b
    (refs.zip (List.range refs.length)).map (fun e => if rows.contains e.2 then e.1 + 1 else e.1)) refs

/-- The references of a heat's strokes `ids` on its swath drop. -/
def State.dropRefs (s : State) (h : Heat) (ids : List Nat) : State :=
  match h.req.swath, s.planOf h.req.slot h.req.plan with
  | some (port, cnt), some (p, _) =>
    s.modSwath port cnt (fun w => { w with rowRefs := h.dropRows p ids w.rowRefs })
  | _, _ => s

/-- The strokes of a heat that are not complete. -/
def Heat.openStrokes (h : Heat) : List Nat := (List.range h.plan.strokes).filter (fun i => !h.strokesDone.contains i)

/-- Update the heat of a table entry. -/
def State.modHeat (s : State) (k : Nat) (f : Heat → Heat) : State :=
  match amGet? s.cox.heats k with
  | some h => s.modCox (fun c => { c with heats := amInsert c.heats k (f h) })
  | none => s

/-- Tokens reserved by window: `take` more, `give` back (R226). -/
def Partition.moveTokens (p : Partition) (take give : List Nat) : Partition :=
  let m := take.foldl (fun m w => amInsert m w (amGet m w 0 + 1)) p.reserved
  { p with reserved := give.foldl (fun m w => amSet m w (amGet m w 0 - 1) 0) m }

/-- Tokens of a partition move. -/
def State.moveTokens (s : State) (part : Nat) (take give : List Nat) : State :=
  match toFin? 8 part with
  | some i => s.modCox (fun c => { c with partitions := c.partitions.set i (c.partitions[i].moveTokens take give) })
  | none => s

/-- The tokens that a heat has reserved from period `n` on. -/
def Heat.tokensFrom (h : Heat) (n : Nat) : List Nat :=
  match h.state with
  | .saved => [] | .draining => [] | .saving => []
  | _ => (h.image.tokens h.offset h.periods).filter (fun w => decide (windowOf n 0 ≤ w))

/-- The entry returns to FREE: references, tokens not yet used and transfers of the heat go (R200, R565). -/
def State.freeHeat (s : State) (k : Nat) : State :=
  match amGet? s.cox.heats k with
  | none => s
  | some h =>
    let s1 := (s.dropRefs h h.openStrokes).moveTokens h.req.partition [] (h.tokensFrom (s.cox.period + 1))
    s1.modCox (fun c =>
      { c with
        heats := amErase c.heats k
        queue := c.queue.filter (fun r => r.resume != some k)
        saves := c.saves.filter (fun x => x.1 != k)
        restores := c.restores.filter (fun x => x.1 != k)
        transfer := c.transfer && (c.saves ++ c.restores).any (fun x => x.1 != k) })

/-- A heat ends without its results, with a cause (R565): the outputs of its kind. Crews, blocks and slots are free at once
in the model; the end of the current period is when the next evaluation looks. -/
def State.heatInvalid (s : State) (k : Nat) (c : Cause) : State :=
  match amGet? s.cox.heats k with
  | none => s
  | some h =>
    let s1 := (s.freeHeat k).lint .SAF_INVALID
    let a := s.heatAudit h
    match h.req.kind with
    | .fast =>
      match h.req.swath with
      | some (port, cnt) =>
        (match s1.swath? port cnt with
        | some w =>
          let s2 := if w.decided then s1.lint .SAF_SWATH_WD else s1.swathRecord port w .invalid c a h.unsync
          (s2.swathDecided port cnt).swathEnds port cnt .invalid
        | none => s1)
      | none => s1
    | .secondLook => s1.stepEnd .secondLook h.req.partition (.invalid c) (some h)
    | .retune =>
      let decode := match (s.planOf h.req.slot h.req.plan).bind (·.1.retune) with
        | some b => bits (leNat (fit b 64)) 13 8 == h.req.plan
        | none => false
      if decode then s1 else s1.addResult (blankResult 3 1 c a)
    | .swatch => s1.addResult (blankResult 4 1 c a)
    | .background => s1.addResult (blankResult 5 1 c a)

/-- A request that cannot end before its deadline is dropped (R221, R230). -/
def State.dropLate (s : State) (r : CoxReq) : State :=
  let s0 := (s.modCox (fun c => { c with queue := c.queue.filter (fun x => !decide (x = r)) })).lint .COX_LATE
  let h := r.resume.bind (amGet? s.cox.heats)
  let s1 := match r.resume with | some k => s0.freeHeat k | none => s0
  match r.kind with
  | .fast => s1.fastLate r .coxLate
  | .background =>
    s1.addResult (blankResult 5 2 .coxLate (match h with | some h => s.heatAudit h | none => s.reqAudit r))
  | .secondLook => s1.stepEnd .secondLook r.partition .late h
  | _ => s1

/-- The serial of the next heat (R23, R413). -/
def State.nextSerial (s : State) : Nat :=
  if s.squad.state = .formed then s.num .SQD_SEAT 0 * 2 ^ 59 + s.cox.nextSerial % 2 ^ 59 else s.cox.nextSerial

/-- INPUT_CRC of a heat (R360). -/
def State.inputCrcOf (s : State) (r : CoxReq) (p : Package) : Nat :=
  match r.kind with
  | .fast => (match r.swath.bind (fun x => s.swath? x.1 x.2) with | some w => w.crc | none => 0)
  | .swatch => (match p.swatch.find? (fun b => b.plan == r.plan) with | some b => b.inCrc | none => 0)
  | .retune => (match (toFin? 8 r.partition).bind (fun i => s.retune[i].ring.find? (fun b => b.num == r.step)) with
    | some b => crc32c (b.samples.flatMap (leBytes 4))
    | none => 0)
  | _ => 0

/-- The lowest free entry of the heat table. -/
def State.freeEntry (s : State) : Nat :=
  ((List.range 64).find? (fun k => (amGet? s.cox.heats k).isNone)).getD 64

/-- The box list as a heat reads it (R265, R266): the header and its entries. -/
def BoxList.bytes (b : BoxList) : Bytes :=
  packBytes 16 [(4, 1), (4, 0), (11, b.boxes.length), (1, b2n b.fallback), (12, 0), (64, b.swath)] ++
  b.boxes.flatMap (fun x =>
    packBytes 16 [(16, ofInt 16 x.x0), (16, ofInt 16 x.x1), (16, ofInt 16 x.y0), (16, ofInt 16 x.y1), (32, x.part), (4, 1),
      (1, b2n x.carried), (3, 0), (8, x.cls), (16, x.score)])

/-- What the supervision limit of a spanning heat is raised by (R568). -/
def State.spanSlack (s : State) (r : CoxReq) : Nat :=
  if s.spans r.partition r.kind then
    s.num .SQD_LEAD_US 0 * 2400 + (s.squad.routes.map (fun e => e.2.2.2.2)).foldl max 0 * 12 / 5
  else 0

/-- Take a request into the heat table at a place (R219): the next serial, the tokens, the row references of its swath. -/
def State.admitHeat (s : State) (r : CoxReq) (p : Package) (pl : Plan) (f : Fit) : State :=
  let done := doneAt f.image f.periods
  let s := s.applyWaiting (fun k => k == Ent.DET_TAP_TENSOR.key r.partition 0)
  let s := s.moveTokens r.partition (f.image.tokens f.offset f.periods) []
  match r.resume with
  | some k =>
    (s.modHeat k (fun h =>
      { h with
        state := .restoring, crews := f.crews, periods := f.periods, reserveEnd := f.reserveEnd, statedDone := done,
        limit := f.endAt pl.darnPeriods, toRestore := f.crews, imageDone := false })).modCox (fun c =>
      { c with
        queue := c.queue.filter (fun x => !decide (x = r))
        restores := c.restores ++ f.crews.map (fun x => (k, x)) })
  | none =>
    let w := r.swath.bind (fun x => s.swath? x.1 x.2)
    let h : Heat :=
      { state := .admitted, serial := s.nextSerial, req := r, plan := pl, crews := f.crews, image := f.image, offset := 0,
        periods := f.periods, reserveEnd := f.reserveEnd, statedDone := done, firstDone := done
        limit := f.endAt pl.darnPeriods + s.spanSlack r, firstStart := f.start, started := false, tensors := [], strokesDone := [], errors := [],
        darn := none, tries := [], sections := [], toSave := [], toRestore := [],
        unsync := match w with | some w => w.unsync | none => s.unsync
        patchEpoch := s.det.epoch, patchSummary := s.patchSummary,
        retuneGen := match toFin? 8 r.partition with | some i => s.cox.gens[i] | none => 0
        replay := s.flag .DET_REPLAY_ENABLE r.partition, tapTensor := s.num .DET_TAP_TENSOR r.partition, spanStart := none,
        imageDone := false
        inputCrc := s.inputCrcOf r p
        roiCrc := match w.bind (·.roi) with | some b => crc32c b.bytes | none => 0
        building := [], passesDone := [], partials := [], nodes := [], appended := [], delivered := [] }
    let s1 := s.modCox (fun c =>
      { c with
        queue := c.queue.filter (fun x => !decide (x = r))
        heats := amInsert c.heats s.freeEntry h
        nextSerial := c.nextSerial + 1 })
    match r.swath with
    | some (port, cnt) => s1.modSwath port cnt (fun w =>
        { w with fate := .admitted, rowRefs := addRows p pl w.rowRefs, statedDone := some done })
    | none => s1

/-- A heat is told to drain (R228): it stops at the end of this period; a restore in progress goes back to SAVED. -/
def State.drain (s : State) (k : Nat) (chosen : List Nat) : State :=
  match amGet? s.cox.heats k with
  | none => s
  | some h =>
    if h.state = .restoring then s
    else
      let first := sortNat (h.crews.filter chosen.contains)
      let rest := sortNat (h.crews.filter (fun c => !chosen.contains c))
      ((s.moveTokens h.req.partition [] (h.tokensFrom (s.cox.period + 1))).modHeat k (fun h =>
        { h with state := .draining, toSave := first ++ rest })).lint .COX_PREEMPT

/-- Heats whose restore stops go back to SAVED and ask to resume again (R228, R230). -/
def State.stopRestores (s : State) : State :=
  s.each s.cox.heats (fun s e =>
    if e.2.state = .restoring then
      let s1 := s.modHeat e.1 (fun h => { h with state := .saved, toRestore := [] })
      let s2 := s1.modCox (fun c => { c with restores := c.restores.filter (fun x => x.1 != e.1), transfer := c.transfer && !c.saves.isEmpty })
      (s2.enqueue { e.2.req with resume := some e.1, eligible := true }).1
    else s)

/-- The crews that the heat table keeps entries for (R219). -/
def State.otherHeats (s : State) : Nat := (s.cox.heats.filter (fun e => decide (e.2.req.kind ≠ .swatch))).length

/-- The work periods by which a spanning heat starts later (R416: `SQD_LEAD_US`, rounded up). -/
def State.leadPeriods (s : State) : Nat := (s.num .SQD_LEAD_US 0 * 2400 + periodCycles - 1) / periodCycles

/-- May this seat evaluate a request now (R410, R416): a spanning one is the stroke seat's of a formed squad, and every other member
has reported the crews it needs? -/
def State.evaluates (s : State) (r : CoxReq) (pl : Plan) : Bool :=
  !s.spans r.partition r.kind ||
    (decide (s.squad.state = .formed) && decide (s.squad.stroke = some (s.num .SQD_SEAT 0)) &&
      (s.memberSeats.filter (· != s.num .SQD_SEAT 0)).all (fun x =>
        match amGet? s.squad.beats x with | some b => decide (pl.crews ≤ b.crews) | none => false))

/-- The evaluation of one eligible request (R219) in period `m`, and whether it waits on power alone. Shells, oars and
force entries that wait for an admission are applied before the place is fixed, and the place is then looked for again
(R143, R212). -/
def State.evalReq (s : State) (m : Nat) (r : CoxReq) : State × Bool :=
  match s.planOf r.slot r.plan with
  | none => (s, false)
  | some (p, pl) =>
    if !s.evaluates r pl then (s, false) else
    let cand := s.usable r.partition pl
    let first := m + 1 + s.restoreTime r + (if s.spans r.partition r.kind then s.leadPeriods else 0)
    let nominal := s.layout r p pl (sortNat (cand.take pl.crews)) (s.firstWork first)
    let late (e : Nat) : Bool := match r.deadline with | some d => decide (d < e) | none => false
    if late (nominal.endAt pl.darnPeriods) then (s.dropLate r, false)
    else
      let place (s : State) : Option (Fit × List Nat) × Bool :=
        let last := if s.spans r.partition r.kind then s.firstWork first else first + 1023
        match s.firstFit r p pl first last with
        | (some f, pw) => (some (f, []), pw)
        | (none, pw) => (s.reclaimFit r p pl m, pw)
      let waits (s : State) (pw : Bool) : State × Bool :=
        let s1 := if pw then s.lint .COX_POWER_HOLD else s
        if !r.settleCounted ∧ cand.length < pl.crews ∧
            (List.range 6).any (fun c => s.isSettling c && (s.num .PART_CREW_MASK r.partition).testBit c) then
          ((s1.modCox (fun c =>
            { c with queue := c.queue.map (fun x => if x = r then { x with settleCounted := true } else x) })).lint
              .COX_SETTLE, pw)
        else (s1, pw)
      match place s with
      | (none, pw) => waits s pw
      | (some (f, _), _) =>
        if late (f.endAt pl.darnPeriods) then (s, false)
        else
          let s1 := s.atAdmission
          match place s1 with
          | (none, pw) => waits s1 pw
          | (some (f, dr), _) =>
            if late (f.endAt pl.darnPeriods) then (s1, false)
            else
              let s2 := if dr.isEmpty then s1 else (s1.each dr (fun s k => s.drain k f.crews)).stopRestores
              (s2.admitHeat r p pl f, false)

/-- The evaluation of a period (R219): the eligible requests in queue order, while an entry is left that SWATCH heats do
not need; a request that waits on power under the thermal limit is counted once (R635). -/
def State.evaluate (s : State) (m : Nat) : State :=
  let (t, held) := (s.cox.queue.filter (·.eligible)).foldl (fun (acc : State × Bool) r =>
    if 64 - acc.1.crewsIn.length ≤ acc.1.otherHeats then acc
    else if acc.1.cox.queue.contains r then
      let (s1, pw) := acc.1.evalReq m r
      (s1, acc.2 || pw)
    else acc) (s, false)
  if held ∧ s.dev.admitLimit < s.num .PWR_LIMIT 0 then t.lint .THERM_LIMIT else t

end Sys2Proof.Machine
end

