-- ==== Sys2Proof/Machine/Flags.lean ====
section
/-! DEFINITION. The flags that a step computes: the drive of a field channel, the common fault, and the signals that leave on their edges (R448, R453, R469, R555). -/

namespace Sys2Proof.Machine

open Sys2Proof

/-- The mode of a channel (R448). -/
def State.fioMode (s : State) (n : Nat) : Nat := s.num .FIO_MODE n

/-- Is a channel a driver in an output mode (R448)? -/
def State.isOutput (s : State) (n : Nat) : Bool := decide (2 ≤ s.fioMode n) && decide (s.fioMode n ≤ 5)

/-- Is the pulse of a trigger slot active (R463)? -/
def State.slotActive (s : State) (n : Nat) : Bool :=
  match toFin? 32 n with | some i => (s.field.slots[i]).pulse.isSome | none => false

/-- The command of a channel's driver by its mode (R448, R469, R470). -/
def State.driveCmd (s : State) (n : Nat) : Bool :=
  match s.fioMode n with
  | 2 => (s.num .FIO_OUT 0).testBit n
  | 3 => s.field.fire.entries.any (fun e => match e.held with | some h => h.contains n | none => false)
  | 4 => s.slotActive (s.num .FIO_TRIG_SLOT n)
  | 5 => s.num .FIRE_STOP_CH 0 == n && !s.field.fire.stopLatched
  | _ => false

/-- Is the driver on (R11, R26, R449, R452)? -/
def State.driveOn (s : State) (n : Nat) : Bool :=
  s.dev.state.active && !s.field.rigHold && s.field.rigLink && !(s.num .FIO_FORCE_OFF 0).testBit n && !s.chanOff n &&
    s.driveCmd n

/-- `FIO_COMMON_FAULT` (R453). -/
def State.commonFault (s : State) : Bool :=
  (allFin 48).any (fun n =>
    let c := s.field.chans[n]
    decide (s.fioMode n ≠ 0) && (c.overload || c.openWire || c.openLoad || c.overtemp || c.group || c.supply)) ||
  (allFin 8).any (fun n => s.field.encs[n].enabled && s.field.encs[n].fault) ||
  s.field.fire.stopLatched ||
  decide (s.lintVal .FIRE_OVF 0 ≠ 0) || decide (s.lintVal .FIRE_FAULT 0 ≠ 0)

/-- The signals that leave on a change from `s` to `t` (R555): vector 2 for a change of `DEV_STATE`, vector 3 for a rise
of `FIO_COMMON_FAULT`. Nothing leaves a link that is down. -/
def edges (s t : State) : State :=
  if t.pci.rate = 0 then t
  else
    let t1 := if s.dev.state = t.dev.state then t else t.emit (.msix 2)
    if !s.commonFault && t.commonFault then t1.emit (.msix 3) else t1

/-- The outcome of a command that took the device from `s` to `t`: RUN and DEGRADED follow the units in service (R28), and
the signals leave. -/
def done (s t : State) : Host.Outcome State Fault Refusal := .next (edges s t.regrade)

end Sys2Proof.Machine
end

