-- ==== Sys2Proof/Machine/FieldIo.lean ====
section
/-! DEFINITION. The field channels: the input filter, the diagnostics of R451 and R452, and the stop of the fire list (R449 to R453, R469). -/

namespace Sys2Proof.Machine

open Sys2Proof

/-- One sample of an input of depth `d` (R450): level, then the up-down counter, then the filtered value. -/
def FieldCh.sample (c : FieldCh) (d mv : Nat) : FieldCh :=
  let lvl := if c.supply then false else if 11000 ≤ mv then true else if mv ≤ 5000 then false else c.level
  let c0 := min c.count d
  let k := if lvl then min (c0 + 1) d else c0 - 1
  { c with
    level := lvl
    count := k
    filt := if d = 0 then lvl else if k = d then true else if k = 0 then false else c.filt }

/-- FILTER_TICK (R450, R477): waiting changes of the field group take effect outside INERT, then every INPUT channel is
sampled; `hot` says which driver junctions are at or above 135 °C (R452), `wire` on which encoder channels a pair fault of
R458 is present (R459). -/
def execFilterTick (mv : Vector (BitVec 16) 48) (hot : BitVec 48) (wire : BitVec 8) (s : State) : Host.Outcome State Fault Refusal :=
  match s.dev.state with
  | .off | .reset | .boot | .recovery => .next s
  | st =>
    let s1 := if st = .inert then s else s.applyWaiting (inGroup 0x2C)
    let s2 := s1.each (allFin 8) (fun s n => s.modEnc n (fun e => { e with wireNow := wire[n] }))
    done s (s2.each (allFin 48) (fun s n =>
      s.modChan n (fun c =>
        let c1 := { c with hot := hot[n] }
        if s.fioMode n = 1 then c1.sample (s.num .FIO_FILT n) mv[n].toNat else c1)))

/-- OVERLOAD (R452). -/
def execOverload (n : Fin 48) (s : State) : Host.Outcome State Fault Refusal :=
  if s.driveOn n then
    done s (((s.dropHolds [n.val]).modChan n (fun c => { c with overload := true })).lint .FIO_OVERLOAD)
  else .next s

/-- OVERTEMP (R452): the junction is above 150 °C, and so not below 135 °C. -/
def execOvertemp (n : Fin 48) (s : State) : Host.Outcome State Fault Refusal :=
  if s.isOutput n && !s.field.chans[n].overtemp then
    done s (((s.dropHolds [n.val]).modChan n (fun c => { c with overtemp := true, hot := true })).lint .FIO_OVERTEMP)
  else settled (s.modChan n (fun c => { c with hot := true }))

/-- The channels to switch off, in descending channel number, until the sum of the rest is within `lim` (R452): `l` holds
(channel, mA) in descending order. -/
def groupCut (lim : Nat) : List (Nat × Nat) → List Nat
  | [] => []
  | (n, i) :: r => if (((n, i) :: r).map (·.2)).sum ≤ lim then [] else n :: groupCut lim r

/-- GROUP_LIMIT (R452): the sum of group `g`, or of the package, was above its limit for 100 µs; `ma` holds the currents. -/
def execGroupLimit (g : Option (Fin 6)) (ma : Vector (BitVec 16) 48) (s : State) : Host.Outcome State Fault Refusal :=
  let inScope (n : Fin 48) : Bool := s.driveOn n && (match g with | some k => n.val / 8 == k.val | none => true)
  let l := ((allFin 48).reverse.filter inScope).map (fun n => (n.val, (ma[n]).toNat))
  let cut := groupCut (if g.isSome then 2500 else 12000) l
  if cut.isEmpty then .next s
  else
    let s1 := (s.dropHolds cut).lint .FIO_LIMIT
    done s (s1.each (allFin 48) (fun s n =>
      if cut.contains n.val then s.modChan n (fun c => { c with group := true }) else s))

/-- OPEN_LOAD (R452): the channel keeps its state. -/
def execOpenLoad (n : Fin 48) (s : State) : Host.Outcome State Fault Refusal :=
  if s.isOutput n && s.flag .FIO_DIAG n && !s.field.chans[n].openLoad then
    done s ((s.modChan n (fun c => { c with openLoad := true })).lint .FIO_OPEN)
  else .next s

/-- OPEN_LOAD_CLEAR (R452). -/
def execOpenLoadClear (n : Fin 48) (s : State) : Host.Outcome State Fault Refusal :=
  settled (s.modChan n (fun c => { c with openLoad := false }))

/-- OPEN_WIRE (R451). -/
def execOpenWire (n : Fin 48) (s : State) : Host.Outcome State Fault Refusal :=
  if decide (s.fioMode n = 1) && s.flag .FIO_DIAG n && !s.field.chans[n].openWire then
    done s ((s.modChan n (fun c => { c with openWire := true })).lint .FIO_OPEN)
  else .next s

/-- OPEN_WIRE_CLEAR (R451). -/
def execOpenWireClear (n : Fin 48) (s : State) : Host.Outcome State Fault Refusal :=
  settled (s.modChan n (fun c => { c with openWire := false }))

/-- The channels of a group (R448). -/
def groupChans (g : Fin 6) : List (Fin 48) := (allFin 48).filter (fun n => n.val / 8 == g.val)

/-- Record the voltage of a group's supply, and whether it is in its window (R474, R638). -/
def State.setVfld (s : State) (g : Fin 6) (mv : BitVec 16) (ok : Bool) : State :=
  (s.modField (fun f => { f with supplyMv := f.supplyMv.set g mv.toNat })).modDev
    (fun d => { d with fieldOk := d.fieldOk.set g ok })

/-- FIELD_SUPPLY_FAULT (R452): `VFLDg` was below 18.0 V or above 32.0 V for 1 ms. -/
def execFieldSupplyFault (g : Fin 6) (mv : BitVec 16) (s : State) : Host.Outcome State Fault Refusal :=
  if 18000 ≤ mv.toNat ∧ mv.toNat ≤ 32000 then
    settled (s.modField (fun f => { f with supplyMv := f.supplyMv.set g mv.toNat }))
  else
    let s1 := ((s.setVfld g mv false).dropHolds ((groupChans g).map (·.val))).lint .FIO_SUPPLY
    done s (s1.each (groupChans g) (fun s n =>
      s.modChan n (fun c => { c with supply := true, level := false, filt := false, count := 0 })))

/-- FIELD_SUPPLY_CLEAR (R452): `VFLDg` has stayed within 19.2 V to 30 V for 10 ms. -/
def execFieldSupplyClear (g : Fin 6) (mv : BitVec 16) (s : State) : Host.Outcome State Fault Refusal :=
  if 19200 ≤ mv.toNat ∧ mv.toNat ≤ 30000 then
    settled ((s.setVfld g mv true).each (groupChans g) (fun s n => s.modChan n (fun c => { c with supply := false })))
  else settled (s.modField (fun f => { f with supplyMv := f.supplyMv.set g mv.toNat }))

/-- FAULT_RETRY (R452): `FIO_RETRY` ms have passed since an OVERLOAD or GROUP of the channel. -/
def execFaultRetry (n : Fin 48) (s : State) : Host.Outcome State Fault Refusal :=
  if s.num .FIO_RETRY 0 = 0 then .next s
  else settled (s.modChan n (fun c => { c with overload := false, group := false }))

/-- `FIO_ACK` (R452): latched flags clear; OVERTEMP only with the junction below 135 °C. -/
def actFioAck (s : State) (n v : Nat) : Reply :=
  if v ≠ 1 then Reply.range s .FIO_ACK n 0
  else
    match toFin? 48 n with
    | none => Reply.err s .noobj
    | some i =>
      let latched := decide (s.num .FIO_RETRY 0 = 0)
      Reply.ok (s.modChan i (fun c =>
        { c with
          overload := c.overload && !latched
          group := c.group && !latched
          overtemp := c.overtemp && c.hot }))

/-- `FIRE_STOP_ACK` (R469). -/
def actFireStopAck (s : State) (v : Nat) : Reply :=
  if v ≠ 1 then Reply.range s .FIRE_STOP_ACK 0 0
  else if s.dev.state.active then Reply.ok (s.modFire (fun f => { f with stopLatched := false }))
  else Reply.err s .state

/-- `FIO_IN` (R474). -/
def State.fioIn (s : State) : Nat :=
  ((allFin 48).map (fun (n : Fin 48) => if s.fioMode n = 1 ∧ s.field.chans[n].filt then 2 ^ n.val else 0)).sum

/-- `FIO_STATUS` of a channel (R476). -/
def State.fioStatus (s : State) (n : Fin 48) : Nat :=
  let c := s.field.chans[n]
  pack [(1, b2n (decide (s.fioMode n = 1) && c.filt)), (1, b2n (s.driveOn n)), (1, b2n c.overload), (1, b2n c.openWire),
    (1, b2n c.openLoad), (1, b2n c.overtemp), (1, b2n c.group), (1, b2n c.supply)]

end Sys2Proof.Machine
end

