-- ==== Sys2Proof/Machine/Camera.lean ====
section
/-! DEFINITION. The camera ports: lines, triggers, swaths, their records, hand-off and buffers (R45 to R62, R163 to R167). -/

namespace Sys2Proof.Machine

open Sys2Proof

/-- W of R75: 0 stands for 32,768. -/
def State.camW (s : State) (p : Nat) : Nat := let w := s.num .CAM_LINE_WIDTH p; if w = 0 then 32768 else w

/-- L of R75. -/
def State.camL (s : State) (p : Nat) : Nat := s.num .CAM_SWATH_LINES p

/-- Pixels in a beat by the packing code (R46). -/
def beatPixels (code : Nat) : Nat := match code with | 0 => 4 | 1 => 3 | _ => 2

/-- The sample depth B (R46). -/
def sampleDepth (code : Nat) : Nat := match code with | 0 => 8 | 1 => 10 | 2 => 12 | _ => 16

/-- Pixel `i` of a beat (R46, R47). -/
def beatPixel (code beat i : Nat) : Nat :=
  match code with
  | 0 => bits beat (8 * i + 7) (8 * i)
  | 1 => bits beat (10 * i + 9) (10 * i)
  | 2 => bits beat (16 * i + 11) (16 * i)
  | _ => bits beat (16 * i + 15) (16 * i)

/-- The samples of `w` pixels in beats, missing ones taking the fill value (R50, R52). -/
def linePixels (code w fill : Nat) (beats : List Nat) : List Nat :=
  let n := beatPixels code
  (List.range w).map (fun x =>
    match beats[x / n]? with | some b => beatPixel code b (x % n) | none => fill)

/-- The bytes of a sample (R57): one for B = 8, otherwise two, little-endian. -/
def sampleBytes (depth v : Nat) : Bytes := leBytes (if depth = 8 then 1 else 2) v

/-- PIXEL_CRC over rows (R57). -/
def pixelCrc (depth : Nat) (rows : List Row) : Nat :=
  crc32c (rows.flatMap (fun r => r.px.flatMap (sampleBytes depth)))

/-- The swath record (R57, R58). -/
def Swath.record (port : Nat) (w : Swath) : Bytes :=
  packBytes 64 [(4, 1), (4, port), (8, 0), (16, w.flags), (64, w.cnt), (64, w.first.time.sec), (32, w.first.time.ns),
    (16, w.first.time.frac), (3, w.encCh), (13, 0), (64, ofInt 64 w.first.pos), (64, ofInt 64 w.last), (24, w.lineFirst),
    (8, w.buf.getD 0xFF), (16, w.lines), (16, w.width), (32, w.crc), (16, w.nCrc), (16, w.nMissing), (16, w.nLate),
    (16, w.nLength)]

/-- The position of an encoder channel (R454). -/
def State.encPos (s : State) (ch : Nat) : Int := match s.enc? ch with | some e => e.pos | none => 0

/-- The fire settings in effect for a port (R472). -/
def State.fireSet (s : State) (p : Nat) : FireSet :=
  ⟨s.flag .FIRE_ENABLE p, s.num .FIRE_AGE_LIMIT p, s.num .FIRE_FB_UNDECIDED p, s.num .FIRE_FB_LATE p, s.num .FIRE_FB_INVALID p⟩

/-- Does the port run: enabled in effect, in a state that takes lines, and not of a replay partition (R26, R363)? -/
def State.camRuns (s : State) (p : Fin 12) : Bool :=
  s.cams[p].on && s.dev.state.active && !s.replayPort p.val

/-- The open swath of a port, if rows are still to come. -/
def CamPort.openNow (c : CamPort) : Option Swath :=
  match c.opened with
  | some w => if w.lines < w.total then some w else none
  | none => none

/-- Record a flag on the open swath, or keep it for the next one (R52). -/
def CamPort.flag (c : CamPort) (f late : Nat) : CamPort :=
  match c.openNow with
  | some w => { c with opened := some { w with flags := w.flags ||| f, nLate := satInc w.nLate late } }
  | none => { c with pendFlags := c.pendFlags ||| f, pendLate := c.pendLate + late }

/-- The changes of a port's camera, mangle and fire entries that wait take effect at its swath boundary (R77, R472). -/
def State.camBoundary (s : State) (p : Nat) : State :=
  s.applyWaiting (fun k =>
    let i := k / 256
    i == 0x2210 + p || i == 0x2310 + p || i == 0x2D50 + p)

/-- A port stops: its queue, counters and pulse are gone (R52, R53, R77). -/
def CamPort.stopPort (c : CamPort) : CamPort :=
  { c with
    on := false, pulse := false, deferred := 0, expected := none, consumed := [], trigs := [],
    pendFlags := 0, pendLate := 0, opened := none, firstDone := false, afterOverrun := false,
    free := match c.nextBuf with | some b => c.free ++ [b] | none => c.free
    nextBuf := none
    closed := c.closed.map (fun w => if w.seamDue then { w with seamDue := false, rowRefs := w.rowRefs.map (· - 1) } else w) }

/-- Keep the swaths whose records stay readable, and those whose buffers are held or whose fate is open (R59). -/
def keepClosed (n : Nat) (l : List Swath) : List Swath :=
  l.take n ++ (l.drop n).filter (fun w =>
    (w.buf.isSome && !w.released) || decide (w.fate = .waiting) || decide (w.fate = .admitted))

/-- The seam rows of one plane that the next swath takes from this one (R56): the last `n` demosaiced rows. -/
def Swath.tail (w : Swath) (n : Nat) : List (List Bytes) :=
  match w.planes with
  | some ps => ps.map (fun rows => rows.drop (rows.length - n))
  | none => []

/-- The mangle settings in effect for a port (R78). -/
def State.mglCfg (s : State) (p : Nat) : MglCfg :=
  ⟨s.num .MGL_MOS_SIZE p, s.num .MGL_MOS_SITES p, s.num .MGL_MOS_ROW_OFS p, s.num .MGL_MOS_COL_OFS p,
    (List.range 5).map (fun i => s.numAt .MGL_BLACK p i), s.flag .MGL_IR_ENABLE p,
    (List.range 20).map (fun i => asInt 16 (s.numAt .MGL_IR_M p i)), s.num .MGL_PLANES p, s.num .MGL_OUT_FMT p,
    s.num .MGL_HIST_WIN p, s.num .MGL_ZONES p, s.num .CAM_FILL p, s.flag .CAM_KEEP_RAW p, s.flag .ROI_ENABLE p,
    s.num .ROI_MARGIN p, s.num .ROI_FALLBACK p⟩

/-- A swath begins (R52, R54, R58, R164): the risen counter, a buffer if one is free, and the flags that were waiting. -/
def State.beginSwath (s : State) (p : Fin 12) (t : Trig) (cnt : Nat) : State :=
  let c := s.cams[p]
  let ov := s.num .CAM_OVERLAP p
  let total := s.camL p
  let buf := match c.nextBuf with
    | some b => some b
    | none => if c.firstDone then none else c.free.head?
  let free := match c.nextBuf with
    | some _ => c.free
    | none => if c.firstDone then c.free else c.free.tail
  let prev := if c.firstDone && !c.afterOverrun then c.closed.head? else none
  let unsync := if s.unsync then 0x100 else 0
  let w : Swath :=
    { cnt := c.swathCnt + 1, flags := c.pendFlags ||| unsync ||| (if buf.isNone then 0x20 else 0), first := t,
      encCh := s.num .CAM_ENC_SRC p, last := t.pos, lineFirst := cnt, buf := buf, lines := 0, total := total,
      width := s.camW p, depth := sampleDepth (s.num .CAM_PACKING p), packing := s.num .CAM_PACKING p, crc := 0,
      nCrc := 0, nMissing := 0, nLate := min c.pendLate 0xFFFF, nLength := 0, rows := [],
      seam := match prev with | some q => q.tail ov | none => []
      planes := none, roi := none, detections := none, fate := .notHanded, began := s.dev.state, fire := s.fireSet p,
      closed := none, rowRefs := if buf.isSome then List.replicate (ov + total) 1 else [], released := buf.isNone,
      statedDone := none, decided := false, lost := false, seamDue := false, stopped := s.cox.stopReq, mgl := s.mglCfg p,
      rawSeam := match prev with | some q => (q.rows.drop (q.rows.length - ov)).map (·.px) | none => [] }
  let s1 := s.modCam p (fun c =>
    { c with swathCnt := w.cnt, opened := some w, free := free, nextBuf := none, pendFlags := 0, pendLate := 0,
             firstDone := true })
  if buf.isNone then s1.lintAt .CAM_OVERRUN p else s1

/-- Does a swath's status stop its hand-off (R60)? -/
def State.spoiled (s : State) (p : Nat) (w : Swath) : Bool :=
  (w.flags % 256) &&& (s.num .CAM_SPOIL_MASK p % 256) != 0 || w.buf.isNone

/-- The hand-off of a closed swath, or its swath-level record (R30, R60). -/
def State.handOff (s : State) (p : Fin 12) (w : Swath) : State :=
  match s.fastPlan p with
  | none => s
  | some (slot, k, pkg, pl) =>
    if w.stopped || w.decided then s
    else if s.cox.stopReq || (!s.dev.state.runs && w.began.runs) then
      (s.swathHeatless p w .undecided .stopped).modSwath p w.cnt (fun w => { w with decided := true })
    else if !s.dev.state.runs then s
    else if s.spoiled p w then
      (s.swathHeatless p w .undecided (if w.buf.isNone then .overrun else .spoiled)).modSwath p w.cnt
        (fun w => { w with decided := true })
    else
      let trig := s.fabNow
      let (s1, r) := s.newReq .fast slot k pkg.partition trig (s.deadlineOf pkg.partition pl trig)
        (some (p.val, w.cnt)) false (w.cnt % 2 ^ 32)
      let s2 := s1.swathEnds p w.cnt .waiting
      let s3 := if s.replayPort p.val then s2 else s2.modSaf (fun f => { f with expected := f.expected ++ [(p.val, w.cnt)] })
      (s3.enqueue r).1

/-- A swath closes (R59, R60, R164): the record is readable, the changes of the port take effect, the next buffer is
allocated, and the swath is handed on or recorded. -/
def State.closeSwath (s : State) (p : Fin 12) : State :=
  match s.cams[p].opened with
  | none => s
  | some w0 =>
    let w := { w0 with
      crc := pixelCrc w0.depth w0.rows
      rows := if w0.buf.isNone then [] else w0.rows
      closed := some s.now }
    let s1 := s.modCam p (fun c =>
      { c with
        opened := none
        lastSwath := w.cnt
        afterOverrun := w.buf.isNone
        nextBuf := c.free.head?
        free := c.free.tail
        closed := keepClosed (s.num .CAM_SWATH_BUFS p) (w :: c.closed) })
    let s2 := (s1.handOff p w).camBoundary p
    if s2.flag .CAM_ENABLE p then s2 else s2.modCam p CamPort.stopPort

/-- One row, stored or counted (R52, R54, R57): `flags` are those of the line, with the counts it adds. A full swath that
still waits for its close closes first. -/
def State.storeRow (s : State) (p : Fin 12) (cnt : Nat) (px : List Nat) (t : Trig) (flags : Nat) : State :=
  let s0 := match s.cams[p].opened with
    | some w => if w.lines < w.total then s else s.closeSwath p
    | none => s
  if !s0.cams[p].on then s0
  else
    let s1 := if s0.cams[p].opened.isNone then s0.beginSwath p t cnt else s0
    s1.modCam p (fun c =>
      { c with opened := c.opened.map (fun w =>
          { w with
            flags := w.flags ||| flags
            lines := w.lines + 1
            last := t.pos
            rows := w.rows ++ [⟨cnt, px⟩]
            nCrc := satInc w.nCrc (b2n (flags.testBit 0))
            nMissing := satInc w.nMissing (b2n (flags.testBit 1))
            nLate := satInc w.nLate (b2n (flags.testBit 2))
            nLength := satInc w.nLength (b2n (flags.testBit 3)) }) })

/-- One fill line (R52): it takes counter `cnt`, which it consumes, and a trigger's data. -/
def State.fillLine (s : State) (p : Fin 12) (cnt : Nat) (t : Trig) : State :=
  let px := List.replicate (s.camW p) (s.num .CAM_FILL p)
  ((s.storeRow p cnt px t 0x02).modCam p (fun c =>
    { c with consumed := (cnt :: c.consumed).take 256, expected := some ((cnt + 1) % 2 ^ 24) })).lintAt .CAM_MISSING p

/-- The oldest unmatched trigger is resolved as a timeout (R52, R53): it leaves with a fill line, or silently before the
first line. -/
def State.trigTimeout (s : State) (p : Fin 12) : State :=
  match s.cams[p].trigs with
  | [] => s
  | t :: r =>
    let s1 := s.modCam p (fun c => { c with trigs := r })
    match s1.cams[p].expected with
    | some e => s1.fillLine p e t
    | none => s1

/-- A trigger of port `p` (R49, R53): a time-stamped pulse and an entry of the queue, or a pulse that waits for the active
one. -/
def State.camTrigger (s : State) (p : Fin 12) : State :=
  if !s.camRuns p then s
  else if s.cams[p].pulse then s.modCam p (fun c => { c with deferred := c.deferred + 1 })
  else
    let t : Trig := ⟨s.netTime, s.now, s.encPos (s.num .CAM_ENC_SRC p)⟩
    let s1 := (s.modCam p (fun c => { c with pulse := true })).emit (.camTrig p s.netTime)
    if s.num .CAM_TRIG_SRC p = 0 then s1
    else
      let s2 := if s1.cams[p].trigs.length < 16 then s1
        else if s.num .CAM_LATE_LIMIT p = 0 then s1.modCam p (fun c => { c with trigs := c.trigs.tail })
        else s1.trigTimeout p
      s2.modCam p (fun c => { c with trigs := c.trigs ++ [t] })

/-- `n` fill lines for a counter gap, each taking the oldest trigger, or the data of the line that revealed the gap. -/
def State.gapFills (s : State) (p : Fin 12) (own : Trig) : Nat → Nat → State
  | 0, _ => s
  | n + 1, cnt =>
    let t := s.cams[p].trigs.headD own
    (((s.modCam p (fun c => { c with trigs := c.trigs.tail })).fillLine p cnt t)).gapFills p own n ((cnt + 1) % 2 ^ 24)

/-- What the pins gave of a line: its beats from the header on, whether `CAMn_FVAL` ended it, whether the elastic buffer
lost beats, and the time, `TS_MONO` and position at the edge that sampled its header (R48, R50, R57). -/
structure LineIn where
  beats : List Nat
  fval : Bool
  lost : Bool
  time : NetTime
  mono : Nat
  pos : Int

/-- A line ends (R50 to R53): the checks, the fill lines of a gap, the trigger, and the row. -/
def State.lineEnd (s : State) (p : Fin 12) (l : LineIn) : State :=
  match l.beats with
  | [] => s
  | head :: rest =>
    let code := s.num .CAM_PACKING p
    let w := s.camW p
    let noTrailer := l.fval || rest.isEmpty
    let pixels := if noTrailer then rest else rest.dropLast
    let crcBad := !noTrailer && decide (crc16 ((head :: pixels).flatMap (leBytes 4)) ≠ rest.getLastD 0 % 65536)
    let lenBad := noTrailer || l.lost || decide (pixels.length ≠ (w + beatPixels code - 1) / beatPixels code)
    let cnt := head % 2 ^ 24
    let headBad := decide (bits head 27 24 ≠ 1) || decide (bits head 31 28 ≠ 0)
    let s := s.modCam p (fun c => { c with pclk := true })
    let c := s.cams[p]
    let gap := match c.expected with | some e => (cnt + 2 ^ 24 - e) % 2 ^ 24 | none => 0
    if !headBad && c.expected.isSome && c.consumed.contains cnt then
      (s.modCam p (fun c => c.flag 0x04 1)).lintAt .CAM_LATE p
    else
      let resync := headBad || decide (256 < gap)
      let fills := if resync then 0 else gap
      let own : Trig := match c.trigs[fills]? with | some t => t | none => ⟨l.time, l.mono, l.pos⟩
      let limit := s.num .CAM_LATE_LIMIT p
      let late := match c.trigs[fills]? with
        | some t => limit ≠ 0 && decide (2 * limit < 5 * (l.mono - t.mono))
        | none => false
      let s1 := s.gapFills p own fills (match c.expected with | some e => e | none => cnt)
      let s2 := s1.modCam p (fun c => { c with trigs := c.trigs.tail, expected := some ((cnt + 1) % 2 ^ 24) })
      let flags := b2n crcBad + (if late then 4 else 0) + (if lenBad then 8 else 0) + (if resync then 16 else 0)
      let s3 := s2.storeRow p cnt (linePixels code w (s.num .CAM_FILL p) pixels) own flags
      let s4 := if crcBad then s3.lintAt .CAM_CRC p else s3
      let s5 := if lenBad then s4.lintAt .CAM_LENGTH p else s4
      let s6 := if resync then s5.lintAt .CAM_COUNTER p else s5
      if late then s6.lintAt .CAM_LATE p else s6

/-- CAM_LINE_END (R52). -/
def execCamLineEnd (port : Fin 12) (beats : List (BitVec 32)) (fval lost : Bool) (time : NetTime) (mono : Nat) (pos : Int)
    (s : State) : Host.Outcome State Fault Refusal :=
  if s.camRuns port then
    done s (s.lineEnd port ⟨beats.map BitVec.toNat, fval, lost, time, mono, pos⟩)
  else .next s

/-- CAM_TRIGGER_TIMEOUT (R52): a matched trigger is older than twice the late limit. -/
def execCamTriggerTimeout (port : Fin 12) (s : State) : Host.Outcome State Fault Refusal :=
  if s.camRuns port && decide (s.num .CAM_TRIG_SRC port ≠ 0) && decide (s.num .CAM_LATE_LIMIT port ≠ 0) then
    done s (s.trigTimeout port)
  else .next s

/-- CAM_TRIG_DEFERRED (R49): one CK_TS cycle after the pulse that it waited for. -/
def execCamTrigDeferred (port : Fin 12) (s : State) : Host.Outcome State Fault Refusal :=
  if s.cams[port].deferred ≠ 0 ∧ ¬ s.cams[port].pulse then
    done s ((s.modCam port (fun c => { c with deferred := c.deferred - 1 })).camTrigger port)
  else .next s

/-- The pattern words of R62. -/
def patternWords : List Nat := [0x55555555, 0xAAAAAAAA, 0x00000000, 0xFFFFFFFF]

/-- BLANKING_PERIOD_END (R62): `beats` are the blanking beats of the period. -/
def execBlankingPeriodEnd (port : Fin 12) (beats : List (BitVec 32)) (s : State) : Host.Outcome State Fault Refusal :=
  if s.camRuns port && s.flag .CAM_TP_ENABLE port then
    let got := (beats.take 4).map BitVec.toNat
    let wrong := (got.zip patternWords).foldl (fun m e => m ||| (e.1 ^^^ e.2)) 0
    if wrong = 0 ∧ got.length = 4 then .next s
    else
      settled ((s.modCam port (fun c => { c.flag 0x40 0 with tpBits := c.tpBits ||| wrong })).lintAt .CAM_TESTPAT port)
  else .next s

/-- SWATH_CLOSE (R59): the last line has been written. -/
def execSwathClose (port : Fin 12) (s : State) : Host.Outcome State Fault Refusal :=
  match s.cams[port].opened with
  | some w => if w.lines = w.total then done s (s.closeSwath port) else .next s
  | none => .next s

/-- The buffers of a port that may return to its free list (R165): every row count 0 and not waiting. -/
def CamPort.returnable (c : CamPort) : Option Swath :=
  (c.closed.reverse).find? (fun w => w.buf.isSome && !w.released && w.rowRefs.all (· == 0) && !decide (w.fate = .waiting))

/-- The mangle pays the seam rows it owes once the next buffer is allocated (R165). -/
def Swath.paySeam (ov : Nat) (w : Swath) : Swath :=
  if w.seamDue then
    { w with
      seamDue := false
      rowRefs := (w.rowRefs.zip (List.range w.rowRefs.length)).map (fun e =>
        if w.rowRefs.length - ov ≤ e.2 then e.1 - 1 else e.1) }
  else w

/-- SWATH_BUFFER_RELEASE (R164, R165, R167): the oldest buffer with nothing left to read returns; one released after the
completion first stated for its heat is counted; an allocation that waits retries. -/
def execSwathBufferRelease (port : Fin 12) (s : State) : Host.Outcome State Fault Refusal :=
  let c := s.cams[port]
  match c.returnable with
  | none => .next s
  | some w =>
    let late := match w.statedDone with | some d => decide (d < s.fabNow) | none => false
    let waits := c.firstDone && c.on && c.nextBuf.isNone && c.openNow.isNone
    let b := w.buf.getD 0
    let s1 := s.modCam port (fun c =>
      let cl := c.closed.map (fun x => if x.cnt = w.cnt then { x with released := true } else x)
      { c with
        closed := if waits then cl.map (Swath.paySeam (s.num .CAM_OVERLAP port)) else cl
        nextBuf := if waits then some b else c.nextBuf
        free := if waits then c.free else c.free ++ [b] })
    settled (if late then s1.lint .LS_HOLD else s1)

/-- Every port is disabled at once (R61): a swath in progress closes SHORT; it is not handed on, and gives a record where
it began in RUN or DEGRADED on a port with a FAST plan. -/
def State.camsOff (s : State) : State :=
  s.each (allFin 12) (fun s p =>
    let s1 := match s.cams[p].opened with
      | none => s
      | some w0 =>
        let w := { w0 with
          crc := pixelCrc w0.depth w0.rows
          flags := if w0.lines < w0.total then w0.flags ||| 0x80 else w0.flags
          rowRefs := w0.rowRefs.map (fun _ => 0)
          rows := if w0.buf.isNone then [] else w0.rows
          closed := some s.now }
        let s2 := s.modCam p (fun c =>
          { c with
            opened := none, lastSwath := w.cnt,
            closed := keepClosed (s.num .CAM_SWATH_BUFS p) (w :: c.closed) })
        if w.began.runs && !w.stopped && (s.fastPlan p).isSome then
          (s2.swathShort p w).modSwath p w.cnt (fun w => { w with decided := true })
        else s2
    s1.modCam p CamPort.stopPort)

/-- `CAM_RECORD` (R59): the newest records first. -/
def State.camRecord (s : State) (p : Fin 12) : Bytes :=
  (s.cams[p].closed.take (s.num .CAM_SWATH_BUFS p)).flatMap (Swath.record p)

/-- `CAM_STATUS` (R75). -/
def State.camStatus (s : State) (p : Fin 12) : Nat :=
  b2n s.cams[p].pclk + 2 * b2n s.cams[p].openNow.isSome + 4 * b2n (decide (s.cams[p].bufs ≠ 0))

end Sys2Proof.Machine
end

