-- ==== Sys2Proof/Machine/Mangle.lean ====
section
/-! DEFINITION. The mangle: demosaic, infrared removal, output planes, statistics and region-of-interest lists (R63 to R74). -/

namespace Sys2Proof.Machine

open Sys2Proof

/-- PW and PH (R78). -/
def MglCfg.pw (g : MglCfg) : Nat := g.mosSize % 16
def MglCfg.ph (g : MglCfg) : Nat := g.mosSize / 16

/-- The site code at column `x` of the line with counter `cnt` (R63, R64). -/
def MglCfg.site (g : MglCfg) (x cnt : Nat) : Nat :=
  let i := (x + g.colOfs) % g.pw
  let j := (cnt + g.rowOfs) % g.ph
  (g.sites >>> (3 * (4 * j + i))) % 8

/-- Does the mosaic hold a site of plane `p`? -/
def MglCfg.has (g : MglCfg) (p : Nat) : Bool :=
  (List.range g.ph).any (fun j => (List.range g.pw).any (fun i => (g.sites >>> (3 * (4 * j + i))) % 8 == p))

/-- The selected planes in order (R68). -/
def MglCfg.selected (g : MglCfg) : List Nat := (List.range 5).filter g.planes.testBit

/-- A coordinate mirrored into `[0, n)` without repeating the edge (R66). -/
def mirror (i : Int) (n : Nat) : Nat :=
  if i < 0 then (-i).toNat else if (n : Int) ≤ i then (2 * ((n : Int) - 1) - i).toNat else i.toNat

/-- The raw sample at (x, y). -/
def Swath.raw (w : Swath) (x y : Nat) : Nat := match w.rows[y]? with | some r => r.px.getD x 0 | none => 0

/-- The counter of row `y` (R64). -/
def Swath.rowCnt (w : Swath) (y : Nat) : Nat := match w.rows[y]? with | some r => r.cnt | none => 0

/-- The site code at (x, y). -/
def Swath.site (w : Swath) (x y : Nat) : Nat := w.mgl.site x (w.rowCnt y)

/-- The sample after the black level of its site (R65). -/
def Swath.levelled (w : Swath) (x y : Nat) : Nat :=
  let c := w.site x y
  if c < 5 then w.raw x y - w.mgl.black.getD c 0 else w.raw x y

/-- The samples of plane `p` in the window of half-size `h` about (x, y) (R66). -/
def Swath.window (w : Swath) (p x y h : Nat) : List Nat :=
  let d : List Int := (List.range (2 * h + 1)).map (fun (i : Nat) => (i : Int) - h)
  d.flatMap (fun dy => d.filterMap (fun dx =>
    let mx := mirror ((x : Int) + dx) w.width
    let my := mirror ((y : Int) + dy) w.rows.length
    if w.site mx my = p then some (w.levelled mx my) else none))

/-- The demosaiced value of plane `p` at (x, y) (R66). -/
def Swath.demosaic (w : Swath) (p x y : Nat) : Nat :=
  if w.site x y = p then w.levelled x y
  else
    match [1, 2, 3].findSome? (fun h => let l := w.window p x y h; if l.isEmpty then none else some l) with
    | some l => rheNat l.sum l.length
    | none => 0

/-- The value of plane `p` after infrared removal and the clamp (R65, R67). -/
def Swath.value (w : Swath) (p x y : Nat) : Nat :=
  let v : Int :=
    if w.mgl.irEnable ∧ p < 4 then
      let sum := (List.range 5).foldl (fun (acc : Int) c =>
        acc + w.mgl.irM.getD (5 * p + c) 0 * (if w.mgl.has c then (w.demosaic c x y : Int) else 0)) 0
      rheDiv sum 4096
    else w.demosaic p x y
  (clampInt v 0 (2 ^ w.depth - 1)).toNat

/-- The stored bytes of a value (R68). -/
def outBytes (fmt depth v : Nat) : Bytes :=
  if fmt = 1 then leBytes 1 (if depth = 8 then v else min 255 ((v + 2 ^ (depth - 9)) >>> (depth - 8)))
  else leBytes 2 (fp16.encode false (.fin false v (2 ^ depth - 1)))

/-- The rows of plane `p` as stored (R68). -/
def Swath.planeRows (w : Swath) (p : Nat) : List Bytes :=
  (List.range w.rows.length).map (fun y =>
    (List.range w.width).flatMap (fun x => outBytes w.mgl.outFmt w.depth (w.value p x y)))

/-- Does a pixel lie in the histogram window, clipped to the swath (R71)? -/
def Swath.inHist (w : Swath) (x y : Nat) : Bool :=
  let v := w.mgl.histWin
  decide (bits v 15 0 ≤ x) && decide (x ≤ bits v 31 16) && decide (bits v 47 32 ≤ y) && decide (y ≤ bits v 63 48)

/-- The zone means of plane `p` (R71). -/
def Swath.zones (w : Swath) (p : Nat) : List Nat :=
  let zx := w.mgl.zones % 16 + 1
  let zy := w.mgl.zones / 16 + 1
  let l := w.rows.length
  (List.range zy).flatMap (fun r => (List.range zx).map (fun c =>
    let xs := (List.range w.width).filter (fun x => decide (c * w.width / zx ≤ x) && decide (x < (c + 1) * w.width / zx))
    let ys := (List.range l).filter (fun y => decide (r * l / zy ≤ y) && decide (y < (r + 1) * l / zy))
    let vs := ys.flatMap (fun y => xs.map (fun x => w.value p x y))
    if vs.isEmpty then 0 else rheNat vs.sum vs.length))

/-- The statistics of one plane (R71, R72): histogram, saturation count, zone means. -/
def Swath.section (w : Swath) (p : Nat) : Bytes :=
  let at_ := (List.range w.rows.length).flatMap (fun y => (List.range w.width).map (fun x => (x, y)))
  let inWin := (at_.filter (fun e => w.inHist e.1 e.2)).map (fun e => w.value p e.1 e.2 >>> (w.depth - 8))
  let sat := (at_.filter (fun e => w.site e.1 e.2 == p && w.raw e.1 e.2 == 2 ^ w.depth - 1)).length
  let z := (w.zones p).flatMap (leBytes 2)
  (List.range 256).flatMap (fun b => leBytes 4 (inWin.filter (· == b)).length) ++ leBytes 4 sat ++
    z ++ zeros (roundUp z.length 4 - z.length)

/-- The statistics block of a swath (R72). -/
def Swath.stats (port : Nat) (w : Swath) : Bytes :=
  packBytes 16 [(4, 1), (4, port), (5, w.mgl.planes), (3, 0), (4, w.mgl.zones % 16), (4, w.mgl.zones / 16), (40, 0),
    (64, w.cnt)] ++
  w.mgl.selected.flatMap w.section

/-- A seam row of fill (R56). -/
def Swath.fillRow (w : Swath) : Bytes :=
  (List.replicate w.width ()).flatMap (fun _ => outBytes w.mgl.outFmt w.depth w.mgl.fill)

/-- The oldest swath that the mangle has still to process: stored, whole, without planes. -/
def CamPort.toMangle (c : CamPort) : Option Swath :=
  c.closed.reverse.find? (fun w => w.buf.isSome && !w.released && w.planes.isNone && !w.flags.testBit 7)

/-- The swath waits no longer for its list (R217): its FAST request is eligible. -/
def State.makeEligible (s : State) (port cnt : Nat) : State :=
  s.modCox (fun c => { c with queue := c.queue.map (fun r =>
    if r.swath = some (port, cnt) then { r with eligible := true } else r) })

/-- The seam rows of swath `k` where it begins from fill: all planes, `ov` rows (R56). -/
def Swath.withFillSeam (ov : Nat) (w : Swath) : Swath :=
  if w.seam.isEmpty ∧ ov ≠ 0 then
    { w with seam := w.mgl.selected.map (fun _ => List.replicate ov w.fillRow) }
  else w

/-- MANGLE_SWATH_DONE (R56, R65 to R72, R165): the planes and the statistics of the oldest swath; its references drop, but
those of the rows that the next buffer still needs; the next swath gets its seam rows. -/
def execMangleSwathDone (port : Fin 12) (s : State) : Host.Outcome State Fault Refusal :=
  match s.cams[port].toMangle with
  | none => .next s
  | some w =>
    let ov := s.num .CAM_OVERLAP port
    let planes := w.mgl.selected.map w.planeRows
    let next := decide (ov ≠ 0) && s.cams[port].on && s.cams[port].nextBuf.isNone && s.cams[port].openNow.isNone &&
      decide ((s.cams[port].closed.head?.map (·.cnt)) = some w.cnt)
    let n := w.rowRefs.length
    let refs := (w.rowRefs.zip (List.range n)).map (fun e => if next ∧ n - ov ≤ e.2 then e.1 else e.1 - 1)
    let done := { w with planes := some planes, rowRefs := refs, seamDue := next }
    let give (x : Swath) : Swath :=
      if x.cnt = w.cnt + 1 ∧ x.seam.isEmpty ∧ x.buf.isSome then { x with seam := done.tail ov } else x
    let s1 := s.modCam port (fun c =>
      { c with
        closed := c.closed.map (fun x => if x.cnt = w.cnt then done.withFillSeam ov else give x)
        opened := c.opened.map give
        stats := (w.stats port :: c.stats).take (s.num .CAM_SWATH_BUFS port) })
    settled (if w.mgl.roi then s1 else s1.makeEligible port w.cnt)

/-- The bound of the list of a plan (R73, R267): MAX_BOX of its CROP stroke on the list, or 1,024. -/
def listBound (p : Package) (pl : Plan) : Nat :=
  match (pl.strokeIds.filterMap (fun i => p.strokes[i]?)).find? (fun b =>
      strokeKind b == 3 && oarOp b == 3 && (cropStroke b).tdBox == 0xFFFF) with
  | some b => (cropStroke b).maxBox
  | none => 1024

/-- One box carried from swath k − 1 (R73): `num / den` is Δy, `m` the margin. -/
def carryBox (w l m : Nat) (num : Int) (den : Nat) (b : Box) : Option Box :=
  let x0 := clampInt (b.x0 - m) 0 w
  let x1 := clampInt (b.x1 + m) 0 w
  let y0 := clampInt ((b.y0 * den - num) / (den : Int) - m) 0 l
  let y1 := clampInt (ceilDiv (b.y1 * den - num) den + m) 0 l
  if x1 ≤ x0 ∨ y1 ≤ y0 then none
  else some { b with x0 := x0, x1 := x1, y0 := y0, y1 := y1, carried := true }

/-- The list of swath `w` after `prev` (R73, R74): none for the fallback. -/
def carryList (w prev : Swath) : Option (List Box) :=
  let num := (w.first.pos - prev.first.pos) * ((w.total : Int) - 1)
  let den := prev.last - prev.first.pos
  match prev.fate, prev.detections with
  | .completed, some bs =>
    if num ≤ 0 ∨ den ≤ 0 ∨ num > 2 * w.total * den then none
    else some (bs.filterMap (carryBox w.width w.total w.mgl.margin num den.toNat))
  | _, _ => none

/-- The UNDECIDED record and entry of a box beyond the bound (R73, R466). -/
def State.overBox (s : State) (port : Nat) (w : Swath) (b : Box) : State :=
  s.firePart w
    { rcd := { swathLevel := false, verdict := .undecided, outcome := 7, secondLook := false, fireOvf := false,
               timeUnsync := w.unsync, cause := .roiOvf, port := port, partId := b.part, swath := w.cnt, recSeq := 0,
               boxSlot := 0, noSlot := true, pOn := w.first.pos, verdictTime := s.netTime, conf := 0, seqId := 0,
               audit := s.swathAudit port w }
      x0 := b.x0, x1 := b.x1, yr := some ((b.y0 + b.y1 - 1) / 2) }

/-- The oldest swath whose list is due (R74): processed by the mangle, waiting, its list not built, and the heat of the
swath before it at its end. -/
def CamPort.toList (c : CamPort) : Option Swath :=
  c.closed.reverse.find? (fun w =>
    w.mgl.roi && w.planes.isSome && w.roi.isNone && decide (w.fate = .waiting) &&
      match c.swath? (w.cnt - 1) with
      | some q => !decide (q.fate = .waiting) && !decide (q.fate = .admitted)
      | none => true)

/-- ROI_LIST_BUILD (R73, R74, R217). -/
def execRoiListBuild (port : Fin 12) (s : State) : Host.Outcome State Fault Refusal :=
  match s.cams[port].toList with
  | none => .next s
  | some w =>
    let bound := match s.fastPlan port with | some (_, _, pkg, pl) => listBound pkg pl | none => 1024
    let carried := (s.cams[port].swath? (w.cnt - 1)).bind (carryList w)
    let whole : Box := ⟨0, w.width, 0, w.total, 0, false, 0, 0⟩
    let all := match carried with
      | some l => l
      | none => if w.mgl.fallback = 0 then [whole] else []
    let excess := all.drop bound
    let list : BoxList := ⟨carried.isNone, w.cnt, all.take bound⟩
    let s1 := s.modSwath port w.cnt (fun x =>
      { x with roi := some list, flags := if excess.isEmpty then x.flags else x.flags ||| 0x200 })
    let s2 := if carried.isNone then s1.lintAt .ROI_FALLBACK port else s1
    let s3 := s2.lintBy .ROI_OVF port excess.length
    let s4 := s3.each excess (fun s b => s.overBox port w b)
    done s (s4.makeEligible port w.cnt)

/-- The bytes of a SWATH tensor (R169, R170, R171): plane `pl` (5: raw) of swath `w`, seam rows first, at pitch `t.pitch`. -/
def Swath.tensor (w : Swath) (t : TensorDesc) : Bytes :=
  let pad (b : Bytes) : Bytes := fit b t.pitch
  if t.srcPlane = 5 then
    let ov := t.dims.getD 0 0 - w.rows.length
    let seam := if w.rawSeam.isEmpty then List.replicate ov (List.replicate w.width w.mgl.fill) else w.rawSeam
    (seam ++ w.rows.map (·.px)).flatMap (fun r => pad (r.flatMap (sampleBytes w.depth)))
  else
    match w.mgl.selected.findIdx? (· == t.srcPlane), w.planes with
    | some i, some ps => ((w.seam.getD i []) ++ (ps.getD i [])).flatMap pad
    | _, _ => zeros t.size

end Sys2Proof.Machine
end

