-- ==== Sys2Proof/Machine/BootBase.lean ====
section
/-! DEFINITION. The boot ledger, the stored entries, RESET, and the start of BOOT (R28, R492, R530, R595 to R601). -/

namespace Sys2Proof.Machine

open Sys2Proof

/-- The 64 bytes of a ledger record with its CHECK (R598). -/
def LedgerRec.bytes (r : LedgerRec) : Bytes :=
  let b := packBytes 60 [(4, 1), (4, r.cause), (4, r.lastStep), (4, r.result), (8, r.failStep), (8, r.failCode),
    (32, r.fwVersion), (64, r.bootCount), (1, b2n r.fullTrain), (1, b2n r.kept), (1, b2n r.copyB), (1, b2n r.defaults),
    (1, b2n r.updDone), (3, 0), (8, r.consecFail), (8, r.item), (8, 0), (4, r.update), (28, 0), (32, r.updVersion), (256, 0)]
  b ++ leBytes 4 (crc32c b)

/-- A ledger record read from its bytes; none where its CHECK or VERSION is not good (R598, R599). -/
def readLedger (b : Bytes) : Option LedgerRec :=
  let v := fieldAt b 0 60
  if b.length = 64 ∧ crc32c (slice b 0 60) = fieldAt b 60 4 ∧ bits v 3 0 = 1 then
    some ⟨bits v 7 4, bits v 11 8, bits v 15 12, bits v 23 16, bits v 31 24, bits v 63 32, bits v 127 64, v.testBit 128,
      v.testBit 129, v.testBit 130, v.testBit 131, v.testBit 132, bits v 143 136, bits v 151 144, bits v 163 160, bits v 223 192⟩
  else none

/-- The record at a place of the rings: copy A, or copy B where A's CHECK is bad (R599). -/
def Flash.ledgerAt (f : Flash) (i : Nat) : Option LedgerRec :=
  match readLedger (amGet f.ledgerA i []) with
  | some r => some r
  | none => readLedger (amGet f.ledgerB i [])

/-- The good records, newest first, of the last `n` places written. -/
def Flash.ledgerBack (f : Flash) : Nat → List LedgerRec
  | 0 => []
  | n + 1 =>
    match f.ledgerAt ((f.head + 8192 - (4096 - n)) % 4096) with
    | some r => r :: f.ledgerBack n
    | none => f.ledgerBack n

/-- The newest good record (R599). -/
def Flash.newest (f : Flash) : Option LedgerRec := (f.ledgerBack 4096).head?

/-- Append the record of the boot in progress to copy A and then to copy B (R599). -/
def State.ledger (s : State) : State :=
  s.modBoot (fun b =>
    let r := b.record.bytes
    { b with flash := { b.flash with
      ledgerA := amInsert b.flash.ledgerA b.flash.head r
      ledgerB := amInsert b.flash.ledgerB b.flash.head r
      head := (b.flash.head + 1) % 4096 } })

/-- Change the record of the boot in progress. -/
def State.modRecord (s : State) (f : LedgerRec → LedgerRec) : State := s.modBoot (fun b => { b with record := f b.record })

/-- The newest record of each of the last 64 boots, newest first (R599). -/
def Flash.lastBoots (f : Flash) : List LedgerRec :=
  ((f.ledgerBack 4096).foldl (fun (acc : List LedgerRec) r =>
    if acc.any (fun x => x.bootCount == r.bootCount) then acc else acc ++ [r]) []).take 64

/-- `SAF_LOST_US` (R586). -/
def State.lostUs (s : State) : Nat := s.saf.storedLostUs + s.saf.lostTs / 400

/-- Is the key of a stored entry (R511)? -/
def storedKey (k : Nat) : Bool :=
  match findEnt (k / 256) (k % 256) with | some (.ent x _ _) => x.row.stored | _ => false

/-- The values of the stored entries (R601), committed changes that wait included: those that differ from their defaults, and
`SAF_LOST_US`. -/
def State.storedValues (s : State) : AMap OdVal :=
  let l := (s.applyWaiting storedKey).od.committed.filter (fun e => storedKey e.1)
  amInsert l (Ent.SAF_LOST_US.key 0 0) (.num s.lostUs)

/-- Write the stored entries to the older copy with the next sequence number (R601). -/
def State.writeStored (s : State) : State :=
  let f := s.boot.flash
  let seq (c : Option StoredCopy) : Nat := match c with | some x => x.seq | none => 0
  let n := max (seq f.copyA) (seq f.copyB) + 1
  let c := some ⟨n, s.storedValues⟩
  let f' : Flash := if seq f.copyA ≤ seq f.copyB then { f with copyA := c } else { f with copyB := c }
  s.modBoot (fun b => { b with flash := f' })

/-- The state with everything volatile at its reset value and the device in a given state. The flash, the fuses, the
board's supplies and pins, the temperatures, and what the model keeps for itself stay. -/
def State.wipe (s : State) (st : DevState) : State :=
  { State.reset with
    dev := { Device.init with
      state := st, porstLow := s.dev.porstLow, brownOut := s.dev.brownOut, pllLocked := s.dev.pllLocked
      supplyOk := s.dev.supplyOk, fieldOk := s.dev.fieldOk, sensors := s.dev.sensors, measured := s.dev.measured
      rails := s.dev.rails }
    boot := { Boot.init with flash := s.boot.flash, fuses := s.boot.fuses, romVersion := s.boot.romVersion }
    field := { Field.init with
      supplyMv := s.field.supplyMv
      chans := Field.init.chans.map (fun c => { c with supply := false })
      rigHold := s.field.rigHold }
    sent := s.sent, fresh := s.fresh, pending := s.pending }

/-- BOOT begins (R28): cold, with its cause; entries and sessions are at their defaults (R530, R518), and network time and
`TS_MONO` start at 0 (R492). -/
def State.enterBoot (s : State) (cause : Nat) : State :=
  (s.wipe .boot).modRecord (fun r => { r with cause := cause })

/-- Are the hull supplies in their windows (R624)? -/
def State.hullOk (s : State) : Bool := (allFin 10).all (fun i => s.dev.supplyOk[i.val])

/-- May RESET end (R28, R625)? -/
def State.mayBoot (s : State) : Bool := !s.dev.porstLow && !s.dev.brownOut && s.hullOk

/-- The device enters RESET (R28) with a cause, and leaves it at once where nothing holds it there. -/
def State.toReset (s : State) (cause : Nat) : State :=
  let w := (s.wipe .reset).modRecord (fun r => { r with cause := cause })
  if w.mayBoot then w.enterBoot cause else w

/-- The boot in progress ends on a failure: its ledger record carries the failing step and code (R34, R597, R598). -/
def State.bootFail (s : State) (code : Nat) : State :=
  let s1 := s.modRecord (fun r => { r with failStep := r.lastStep, failCode := code })
  if 3 ≤ s1.boot.record.lastStep then s1.ledger else s1

end Sys2Proof.Machine
end

