-- ==== Sys2Proof/Machine/Encoder.lean ====
section
/-! DEFINITION. The encoder channels, the dividers and the trigger slots (R454 to R463, R479 to R484). -/

namespace Sys2Proof.Machine

open Sys2Proof

/-- Is a channel in a quadrature mode (R454)? -/
def State.quad (s : State) (n : Nat) : Bool := decide (s.num .ENC_MODE n ≤ 2)

/-- Do the divided outputs follow their dividers (R11, R26)? -/
def State.encoLive (s : State) : Bool := s.dev.state.active && !s.field.rigHold && s.field.rigLink

/-- Drive the pins of output `e`. -/
def State.encoPins (s : State) (e : Nat) (a b : Bool) : State := if s.encoLive then s.emit (.enco e a b) else s

/-- The Gray state of QUAD mode (R461): 00, 10, 11, 01 as A and B. -/
def grayState (q : Int) : Bool × Bool :=
  match (q % 4).toNat with
  | 0 => (false, false) | 1 => (true, false) | 2 => (true, true) | _ => (false, true)

/-- One pulse of divider `d` (R49, R460, R461). -/
def State.divPulse (s : State) (d : Fin 16) : State :=
  match toFin? 12 d.val with
  | some p => if s.num .CAM_TRIG_SRC p = 1 then s.camTrigger p else s
  | none =>
    if s.num .DIV_OUT_MODE d ≠ 0 then s
    else if s.field.divs[d].pulse then s.modDiv d (fun v => { v with deferred := v.deferred + 1 })
    else (s.modDiv d (fun v => { v with pulse := true })).encoPins (d.val - 12) true false

/-- The pulses that position `p` reaches, at most `fuel` (R460). -/
def State.divPulses (s : State) (d : Fin 16) (p : Int) : Nat → State
  | 0 => s
  | fuel + 1 =>
    let v := s.field.divs[d]
    if v.p0 + ceilDiv ((v.next : Int) * s.num .DIV_M d) (s.num .DIV_N d) ≤ p then
      ((s.modDiv d (fun v => { v with next := v.next + 1 })).divPulse d).divPulses d p fuel
    else s

/-- The Gray state of a QUAD divider at a position (R461). -/
def State.divGray (s : State) (d : Fin 16) (p : Int) : Bool × Bool :=
  grayState ((s.num .DIV_N d : Int) * (p - s.field.divs[d].p0) / (s.num .DIV_M d : Int))

/-- The bytes of `TRG_START` for POSITION and TIME (R481). -/
def State.slotStart (s : State) (n : Nat) : Int := asInt 64 (fieldAt (s.byt .TRG_START n) 0 8)
def State.slotStartNs (s : State) (n : Nat) : Nat :=
  fieldAt (s.byt .TRG_START n) 0 8 * 1000000000 + fieldAt (s.byt .TRG_START n) 8 4

/-- Is another event of the slot to come (R463: a period of 0 gives one)? -/
def State.slotMore (s : State) (n : Fin 32) : Bool :=
  (s.field.slots[n]).enabled && (decide (s.num .TRG_PERIOD n ≠ 0) || decide ((s.field.slots[n]).next = 0))

/-- An event of slot `n` at position `at_` (R463): its pulse starts or restarts, and a TIMED camera port triggers. -/
def State.slotEvent (s : State) (n : Fin 32) (at_ : Int) : State :=
  let e := if s.flag .TRG_WIDTH_CNT n then PulseEnd.position (at_ + s.num .TRG_WIDTH n) else .cycles
  let s1 := s.modSlot n (fun v => { v with pulse := some e, next := v.next + 1 })
  match toFin? 12 n.val with
  | some p => if s.num .CAM_TRIG_SRC p = 2 then s1.camTrigger p else s1
  | none => s1

/-- The events of a POSITION slot that position `p` reaches, at most `fuel`. -/
def State.slotEvents (s : State) (n : Fin 32) (p : Int) : Nat → State
  | 0 => s
  | fuel + 1 =>
    let at_ := s.slotStart n + (s.field.slots[n]).next * s.num .TRG_PERIOD n
    if s.slotMore n && decide (at_ ≤ p) then (s.slotEvent n at_).slotEvents n p fuel else s

/-- The slots of a channel. -/
def State.slotsOf (s : State) (ch : Nat) : List (Fin 32) :=
  (allFin 32).filter (fun n => (s.field.slots[n]).enabled && s.num .TRG_SRC n == 1 && s.num .TRG_CHANNEL n == ch)

/-- The dividers of a channel. -/
def State.divsOf (s : State) (ch : Nat) : List (Fin 16) :=
  (allFin 16).filter (fun d => (s.field.divs[d]).enabled && s.num .DIV_SRC d == ch)

/-- A pulse whose width is in counts ends (R463). -/
def State.slotWidth (s : State) (n : Fin 32) (p : Int) : State :=
  match (s.field.slots[n]).pulse with
  | some (.position e) => if e ≤ p then s.modSlot n (fun v => { v with pulse := none }) else s
  | _ => s

/-- Channel `n` stands at a new position (R460, R463, R468, R470, R641): releases, resolutions, slot events, dividers. A
channel in FAULT drives no slot and no divider (R459). -/
def State.moved (s : State) (n : Fin 8) (old : Int) : State :=
  let e := s.field.encs[n]
  let s1 := ((s.fireReleases n e.high).fireResolves n e.high)
  if e.fault || !s.dev.state.active then s1
  else
    let s2 := s1.each (s1.slotsOf n) (fun s k => (s.slotWidth k e.pos).slotEvents k e.pos 4)
    s2.each (s2.divsOf n) (fun s d =>
      let s' := s.divPulses d e.pos 4
      if 12 ≤ d.val ∧ s.num .DIV_OUT_MODE d = 1 ∧ s.divGray d old ≠ s.divGray d e.pos then
        s'.encoPins (d.val - 12) (s.divGray d e.pos).1 (s.divGray d e.pos).2
      else s')

/-- A fault of channel `n` (R459): counted, and every pending entry of the channel resolves. -/
def State.encFault (s : State) (n : Fin 8) (f : Encoder → Encoder) : State :=
  (((s.modEnc n (fun e => { f e with fault := true })).lint .ENC_FAULT)).fireChannelFault n

/-- A reference at position `p` (R457): latched and counted, and its distance from the one before checked. -/
def State.encReference (s : State) (n : Fin 8) (p : Int) : State :=
  let e := s.field.encs[n]
  let d := (p - e.refPos).natAbs
  let period := s.num .ENC_REF_PERIOD n
  let tol := s.num .ENC_REF_TOL n
  let bad := decide (period ≠ 0) && decide (e.refCnt ≠ 0) && (decide (period + tol < d) || decide (d + tol < period))
  let s1 := s.modEnc n (fun e => { e with refPos := p, refCnt := (e.refCnt + 1) % 2 ^ 32 })
  if bad then s1.encFault n (fun e => { e with ref := true }) else s1

/-- The count that a change of the levels of A and B gives (R454), forward positive. -/
def quadCount (mode : Nat) (a0 b0 a1 b1 : Bool) : Int :=
  let edgeA : Int := if a0 == a1 then 0 else if a1 == b0 then -1 else 1
  let edgeB : Int := if b0 == b1 then 0 else if b1 == a0 then 1 else -1
  match mode with
  | 0 => if !a0 && a1 && !b0 then 1 else if a0 && !a1 && !b0 then -1 else 0
  | 1 => edgeA
  | _ => if edgeA ≠ 0 then edgeA else edgeB

/-- The position of a channel changes by `d` (R457). -/
def State.encStep (s : State) (n : Fin 8) (d : Int) (reverse : Bool) : State :=
  let old := s.field.encs[n].pos
  (s.modEnc n (fun e => { e with pos := e.pos + d, high := max e.high (e.pos + d), lastReverse := reverse })).moved n old

/-- A rising edge of A in a tooth mode, `dt` samples after the last counted one (R456). -/
def State.toothEdge (s : State) (n : Fin 8) (dt : Nat) : State :=
  let e := s.field.encs[n]
  let missing := decide (s.num .ENC_MODE n = 3)
  if !e.edgeSeen then
    (s.modEnc n (fun e => { e with edgeSeen := true, interval := none })).encStep n 1 false
  else
    match e.interval with
    | none => (s.modEnc n (fun e => { e with interval := some dt })).encStep n 1 false
    | some p =>
      if missing ∧ 3 * p < 2 * dt then
        let s1 := (s.modEnc n (fun e => { e with interval := none })).encStep n (1 + s.num .ENC_TOOTH_N n) false
        s1.encReference n s1.field.encs[n].pos
      else if ¬ missing ∧ 2 * dt < p then
        (s.modEnc n (fun e => { e with interval := none })).encReference n e.pos
      else (s.modEnc n (fun e => { e with interval := some dt })).encStep n 1 false

/-- ENC_COUNT (R454 to R457): the levels of A and B accepted now, and the samples since the last counted edge. -/
def execEncCount (n : Fin 8) (a b : Bool) (dt : BitVec 32) (s : State) : Host.Outcome State Fault Refusal :=
  let e := s.field.encs[n]
  if !e.enabled then .next s
  else
    let s1 := s.modEnc n (fun e => { e with a := a, b := b })
    if s.quad n then
      if (e.a != a) && (e.b != b) then settled s1
      else
        let c := quadCount (s.num .ENC_MODE n) e.a e.b a b
        let d := if s.flag .ENC_INVERT n then -c else c
        if d = 0 then settled s1 else done s (s1.encStep n d (decide (d < 0)))
    else if !e.a && a then done s (s1.toothEdge n dt.toNat)
    else settled s1

/-- ENC_REFERENCE (R457): a rising edge of Z in a quadrature mode. -/
def execEncReference (n : Fin 8) (s : State) : Host.Outcome State Fault Refusal :=
  if s.field.encs[n].enabled && s.quad n && s.flag .ENC_Z_USED n then done s (s.encReference n s.field.encs[n].pos)
  else .next s

/-- WIRE_FAULT (R458): a used pair was not complementary, or below 200 mV, for 200 ns. -/
def execWireFault (n : Fin 8) (s : State) : Host.Outcome State Fault Refusal :=
  if s.field.encs[n].enabled then done s (s.encFault n (fun e => { e with wire := true, wireNow := true }))
  else .next s

/-- QUAD_FAULT (R455): accepted changes of A and B in the same sample. -/
def execQuadFault (n : Fin 8) (s : State) : Host.Outcome State Fault Refusal :=
  if s.field.encs[n].enabled && s.quad n then
    done s ((s.modEnc n (fun e => { e with a := !e.a, b := !e.b })).encFault n (fun e => { e with quad := true }))
  else .next s

/-- OVERSPEED_FAULT (R455): two counts less than 40 ns apart. -/
def execOverspeedFault (n : Fin 8) (s : State) : Host.Outcome State Fault Refusal :=
  if s.field.encs[n].enabled then done s (s.encFault n (fun e => { e with overspeed := true })) else .next s

/-- The event of a POSITION slot that comes first after position `p` (R459, R463), at least `next`. -/
def firstAhead (start : Int) (period next : Nat) (p : Int) : Nat :=
  if period = 0 then (if start ≤ p then max next 1 else next)
  else if p < start then next else max next (((p - start) / (period : Int)).toNat + 1)

/-- The event of a TIME slot that is not passed at `now` ns (R463, R505). -/
def firstDue (start period next now : Nat) : Nat :=
  if period = 0 then (if start < now then max next 1 else next)
  else if now ≤ start then next else max next ((now - start + period - 1) / period)

/-- The events of a slot already passed are skipped and counted (R459, R463). -/
def State.slotSkip (s : State) (n : Fin 32) : State :=
  let v := s.field.slots[n]
  let period := s.num .TRG_PERIOD n
  let k := if s.num .TRG_SRC n = 1 then
      (match s.enc? (s.num .TRG_CHANNEL n) with
      | some e => firstAhead (s.slotStart n) period v.next e.high
      | none => v.next)
    else firstDue (s.slotStartNs n) period v.next s.netTime.toNs
  (s.modSlot n (fun v => { v with next := k })).lintBy .TRG_MISSED 0 (k - v.next)

/-- `ENC_ACK` (R459). -/
def actEncAck (s : State) (n v : Nat) : Reply :=
  if v ≠ 1 then Reply.range s .ENC_ACK n 0
  else
    match toFin? 8 n with
    | none => Reply.err s .noobj
    | some i =>
      let e := s.field.encs[i]
      if !e.fault then Reply.ok s
      else if e.wireNow then Reply.err s .state
      else
        let s1 := s.modEnc i (fun e =>
          { e with fault := false, wire := false, quad := false, overspeed := false, ref := false })
        let s2 := s1.each (s1.divsOf n) (fun s d => s.modDiv d (fun v => { v with p0 := e.pos, next := 1 }))
        Reply.ok (s2.each (s2.slotsOf n) (fun s k => s.slotSkip k))

/-- DIV_PULSE_DEFERRED (R461): one CK_TS cycle after A fell. -/
def execDivPulseDeferred (e : Fin 4) (s : State) : Host.Outcome State Fault Refusal :=
  match toFin? 16 (12 + e.val) with
  | none => .next s
  | some d =>
    if s.field.divs[d].deferred ≠ 0 ∧ ¬ s.field.divs[d].pulse then
      settled ((s.modDiv d (fun v => { v with deferred := v.deferred - 1 })).divPulse d)
    else .next s

/-- TIME_SLOT_EVENT (R463): the instant of the next event of a TIME slot. -/
def execTimeSlotEvent (n : Fin 32) (s : State) : Host.Outcome State Fault Refusal :=
  if s.slotMore n && decide (s.num .TRG_SRC n = 0) && s.dev.state.active then done s (s.slotEvent n 0) else .next s

/-- PULSE_WIDTH_END (R49, R461, R463): the width of an output's pulse has elapsed. -/
def execPulseWidthEnd (out : PulseOut) (s : State) : Host.Outcome State Fault Refusal :=
  match out with
  | .cam p =>
    if s.cams[p].pulse then settled ((s.modCam p (fun c => { c with pulse := false })).emit (.camTrigEnd p)) else .next s
  | .enco e =>
    match toFin? 16 (12 + e.val) with
    | some d =>
      if s.field.divs[d].pulse then
        settled ((s.modDiv d (fun v => { v with pulse := false })).encoPins e.val false false)
      else .next s
    | none => .next s
  | .slot n =>
    settled (s.modSlot n (fun v => if v.pulse = some .cycles then { v with pulse := none } else v))

/-- The committed enables of encoders, dividers and slots take effect (R457, R460, R463, R484). -/
def State.syncEnables (s : State) : State :=
  let s1 := s.each (allFin 8) (fun s n =>
    let want := s.flag .ENC_ENABLE n
    if want = s.field.encs[n].enabled then s
    else if want then
      let p := s.sint .ENC_PRESET n
      s.modEnc n (fun e =>
        { Encoder.init with a := e.a, b := e.b, wireNow := e.wireNow, pos := p, high := p, enabled := true })
    else s.modEnc n (fun e => { e with enabled := false }))
  let s2 := s1.each (allFin 16) (fun s d =>
    let want := s.flag .DIV_ENABLE d
    if want = s.field.divs[d].enabled then s
    else if want then s.modDiv d (fun _ => ⟨s.encPos (s.num .DIV_SRC d), 1, false, 0, true⟩)
    else
      let s' := s.modDiv d (fun _ => Divider.init)
      if 12 ≤ d.val ∧ s.field.divs[d].pulse then s'.encoPins (d.val - 12) false false else s')
  s2.each (allFin 32) (fun s n =>
    let want := s.flag .TRG_ENABLE n
    if want = (s.field.slots[n]).enabled then s
    else if want then (s.modSlot n (fun _ => ⟨0, none, true⟩)).slotSkip n
    else s.modSlot n (fun _ => TrigSlot.init))

/-- `ENC_STATUS` (R479). -/
def Encoder.status (e : Encoder) : Nat :=
  pack [(1, b2n e.fault), (1, b2n e.wire), (1, b2n e.quad), (1, b2n e.overspeed), (1, b2n e.ref), (1, b2n e.lastReverse)]

end Sys2Proof.Machine
end

