-- ==== Sys2Proof/Machine/TimeNet.lean ====
section
/-! DEFINITION. Network time and its servo, the field network ports, gPTP, gate control lists and transmit timestamps (R485 to R510). -/

namespace Sys2Proof.Machine

open Sys2Proof

/-- 2^48, the units of the sub-nanosecond counter of R495 in one nanosecond. -/
def nsUnit : Nat := 2 ^ 48

/-- One second in those units. -/
def secUnit : Nat := 1000000000 * nsUnit

/-- INC of R495 for the rate correction r in units of 2^-16 ppb. -/
def tsInc (r : Int) : Nat := (rheDiv (5 * 2 ^ 47 * (65536000000000 + r)) 65536000000000).toNat

/-- Network time as one number in units of 2^-48 ns. -/
def TimeUnit.total (t : TimeUnit) : Nat := t.sec * secUnit + t.sub

/-- Network time set from one number, which never goes below zero (notes/assumptions/20.md). -/
def TimeUnit.setTotal (t : TimeUnit) (n : Nat) : TimeUnit := { t with sec := n / secUnit, sub := n % secUnit }

/-- One CK_TS cycle (R494, R495). -/
def TimeUnit.tick (t : TimeUnit) : TimeUnit := { t.setTotal (t.total + tsInc t.rate) with mono := t.mono + 1 }

/-- A time of R492 as one number in units of 2^-16 ns. -/
def NetTime.to16 (t : NetTime) : Int := ((t.sec * 1000000000 + t.ns) * 65536 + t.frac : Nat)

/-- The time of a number of units of 2^-16 ns. -/
def NetTime.of16 (n : Int) : NetTime :=
  let u := n.toNat
  ⟨u / 65536 / 1000000000, u / 65536 % 1000000000, u % 65536⟩

/-- A latency in ps as units of 2^-16 ns (R503: nearest, ties to even; 1 ps is 65.536 units). -/
def ps16 (ps : Int) : Int := rheDiv (ps * 65536) 1000

/-- The capture of R503: the time at the preceding CK_TS edge plus the phase times 312.5 ps. -/
def capture (t : NetTime) (phase : Nat) : Int := t.to16 + phase * 20480

/-- Is the squad formed with a time source other than this seat (R417, R496)? -/
def State.squadTime (s : State) : Bool :=
  decide (s.squad.state = .formed) &&
    (let src := s.num .SQD_TIME_SOURCE 0
     decide ((if src = 0xFF then s.squad.stroke.getD 0xFF else src) ≠ s.num .SQD_SEAT 0))

/-- Where measurements come from (R496): 0 FREE, 1 FNET, 2 SQUAD. -/
def State.tsSource (s : State) : Nat := if s.squadTime then 2 else s.num .TS_SOURCE 0

/-- The clock identity (R502): the EUI-64 of FNET0's address. -/
def State.clockId (s : State) : Nat :=
  let m := s.mac 0
  (m >>> 24) * 2 ^ 40 + 0xFFFE * 2 ^ 24 + m % 2 ^ 24

/-- Is the device the gPTP grandmaster? -/
def State.isGm (s : State) : Bool := s.fnet.gmId == s.clockId

/-- The state of the time unit after a change of its source or of the grandmaster (R498). -/
def State.tsReselect (s : State) : State :=
  let free := decide (s.tsSource = 0) || (decide (s.tsSource = 1) && s.isGm)
  if free then
    if s.tu.state = .free then s
    else (if s.tu.state = .locked then s.lint .TS_UNLOCK else s).modTu (fun t => { t with state := .free, good := 0 })
  else if s.tu.state = .free then s.modTu (fun t => { t with state := .acquiring, good := 0 })
  else s

/-- The source has changed (R498: the source changes to FNET or SQUAD). -/
def State.tsSourceChange (s : State) (old : Nat) : State :=
  if s.tsSource = old then s.tsReselect
  else
    let s1 := if s.tu.state = .locked then s.lint .TS_UNLOCK else s
    (s1.modTu (fun t => { t with state := .acquiring, good := 0 })).tsReselect

/-- The events of TIME slots within the interval that a step forward skips (R505). -/
def State.tsSkips (s : State) : State :=
  s.each (allFin 32) (fun s n =>
    if s.field.slots[n].enabled ∧ s.num .TRG_SRC n.val = 0 then s.slotSkip n else s)

/-- Network time in whole nanoseconds. -/
def State.nowNs (s : State) : Nat := s.netTime.toNs

/-- The first cycle start of a list at or after an instant (R489, R491). -/
def GateList.startFrom (g : GateList) (t : Nat) : Nat :=
  if t ≤ g.base then g.base else g.base + ((t - g.base + g.cycle - 1) / g.cycle) * g.cycle

/-- The start of the cycle that an instant lies in. -/
def GateList.cycleOf (g : GateList) (t : Nat) : Nat := g.base + ((t - g.base) / g.cycle) * g.cycle

/-- A step of network time ends the cycle in progress; a waiting list then starts at its first start from now (R491). -/
def State.gateRestart (s : State) : State :=
  s.each (allFin 2) (fun s p =>
    s.modFnet p (fun f => { f with nextGate := f.nextGate.map (fun g => (g.2.startFrom s.nowNs, g.2)) }))

/-- A step of network time by θ in units of 2^-16 ns (R497, R499): r = I, the state ACQUIRING unless FREE. -/
def State.tsStep (s : State) (theta : Int) : State :=
  let n := ((s.tu.total : Int) + theta * 2 ^ 32).toNat
  let s1 := s.lint .TS_STEP
  let s2 := if s1.tu.state = .locked then s1.lint .TS_UNLOCK else s1
  let s3 := s2.modTu (fun t =>
    { t.setTotal n with
      rate := t.servoI
      offset := theta
      state := if t.state = .free then .free else .acquiring
      good := 0 })
  (if 0 < theta then s3.tsSkips else s3).gateRestart

/-- The servo of R497 in units of 2^-16 ppb, θ in units of 2^-16 ns. -/
def State.servo (s : State) (theta : Int) : State :=
  let m : Int := s.num .TS_FREQ_MAX 0 * 65536
  let i := clampInt (s.tu.servoI + rheDiv (s.num .TS_KI 0 * theta) 65536) (-m) m
  let r := clampInt (rheDiv (s.num .TS_KP 0 * theta) 65536 + i) (-m) m
  s.modTu (fun t => { t with servoI := i, rate := r, offset := theta })

/-- The state of the time unit after a measurement that was not stepped (R498). -/
def State.tsJudge (s : State) (theta : Int) : State :=
  let lock : Int := s.num .TS_LOCK_NS 0 * 65536
  let ok := decide ((theta.natAbs : Int) ≤ lock)
  let far := decide (4 * lock < (theta.natAbs : Int))
  match s.tu.state with
  | .free => s
  | .acquiring =>
    if ok then s.modTu (fun t => if 8 ≤ t.good + 1 then { t with state := .locked, good := 0 } else { t with good := t.good + 1 })
    else s.modTu (fun t => { t with good := 0 })
  | .locked =>
    if far then (s.lint .TS_UNLOCK).modTu (fun t => { t with state := .acquiring, good := 0 }) else s
  | .holdover =>
    if ok then s.modTu (fun t => { t with state := .locked, good := 0 })
    else if far then s.modTu (fun t => { t with state := .acquiring, good := 0 }) else s
  | .lost => s.modTu (fun t => { t with state := .acquiring, good := if ok then 1 else 0 })

/-- The servo entries 0x2E00.06 to 0x2E00.0C: a change of them takes effect at the next measurement (R510). -/
def servoKey (k : Nat) : Bool := k / 256 == 0x2E00 && decide (6 ≤ k % 256) && decide (k % 256 ≤ 0xC)

/-- A measurement (R496 to R499). -/
def State.measure (s : State) (theta : Int) : State :=
  let s := s.applyWaiting servoKey
  let step := s.num .TS_STEP_NS 0
  let allowed := decide (s.dev.state = .inert) || decide (s.dev.state = .armed) || s.flag .TS_STEP_RUN 0
  if step ≠ 0 ∧ (step : Int) * 65536 < (theta.natAbs : Int) ∧ allowed then s.tsStep theta
  else (s.servo theta).tsJudge theta

/-- TS_MEASUREMENT_MISSING (R498). -/
def execTsMeasurementMissing (s : State) : Host.Outcome State Fault Refusal :=
  settled (if s.tu.state = .locked then s.modTu (fun t => { t with state := .holdover, good := 0 }) else s)

/-- The action of a write to `TS_SET` (R499): a step to the value written, which network time equals at the first edge
after the write. -/
def actTsSet (s : State) (v : Bytes) : Reply :=
  if fieldAt v 8 4 > 999999999 then .range s .TS_SET 0 0
  else if s.num .TS_SOURCE 0 ≠ 0 then .err s .state
  else
    let dest := fieldAt v 0 8 * secUnit + fieldAt v 8 4 * nsUnit
    let forward := decide (s.tu.total < dest)
    let s1 := (s.lint .TS_STEP).modTu (fun t => { t.setTotal dest with rate := t.servoI })
    .ok (if forward then s1.tsSkips else s1).gateRestart

/-- A received or sent Ethernet frame without its FCS (R486, R487): addresses, the tag's VID and PCP, the Ethertype
and what follows it. -/
structure EthFrame where
  dst : Nat
  src : Nat
  vid : Option Nat
  etype : Nat
  payload : Bytes
deriving DecidableEq, Repr

/-- A frame read from its bytes. -/
def ethFrame (b : Bytes) : EthFrame :=
  let e := beNat (slice b 12 2)
  if e = 0x8100 then ⟨beNat (slice b 0 6), beNat (slice b 6 6), some (beNat (slice b 14 2) % 4096), beNat (slice b 16 2), b.drop 18⟩
  else ⟨beNat (slice b 0 6), beNat (slice b 6 6), none, e, b.drop 14⟩

/-- The multicast address of gPTP (R487). -/
def gptpAddr : Nat := 0x0180C200000E

/-- An acceptable IPv4 packet for the port (R487): version 4, no options, no fragment, header checksum good, the
port's address. Answers its protocol, source address and payload. -/
def State.ipv4 (s : State) (p : Fin 2) (b : Bytes) : Option (Nat × Nat × Bytes) :=
  let a := s.num .FNET_IPV4 p.val
  let len := beNat (slice b 2 2)
  if a ≠ 0 ∧ fieldAt b 0 1 = 0x45 ∧ beNat (slice b 6 2) % 0x4000 = 0 ∧ 20 ≤ len ∧ len ≤ b.length ∧
      onesSum (slice b 0 20) = 65535 ∧ beNat (slice b 16 4) = a then
    some (fieldAt b 9 1, beNat (slice b 12 4), (b.take len).drop 20)
  else none

/-- Does the UDP checksum hold, where it is non-zero (R487)? -/
def udpGood (src dst : Nat) (u : Bytes) : Bool :=
  decide (beNat (slice u 6 2) = 0) ||
    decide (onesSum (beBytes 4 src ++ beBytes 4 dst ++ beBytes 2 17 ++ beBytes 2 u.length ++ u) = 65535)

/-- Is the traffic of a frame among that of R487? -/
def State.listed (s : State) (p : Fin 2) (f : EthFrame) : Bool :=
  if f.etype = 0x88F7 then decide (f.dst = gptpAddr) && f.vid.isNone
  else if f.etype = 0x88B5 then true
  else if f.etype = 0x0806 then
    decide (s.num .FNET_IPV4 p.val ≠ 0) && decide (beNat (slice f.payload 24 4) = s.num .FNET_IPV4 p.val)
  else if f.etype = 0x0800 then
    match s.ipv4 p f.payload with
    | some (1, _, icmp) => decide (fieldAt icmp 0 1 = 8) && decide (onesSum icmp = 65535)
    | some (17, src, u) =>
      decide (beNat (slice u 2 2) = 40680) && udpGood src (s.num .FNET_IPV4 p.val) u
    | _ => false
  else false

/-- Does a port accept a received frame (R486, R487)? -/
def State.accepts (s : State) (p : Fin 2) (b : Bytes) : Bool :=
  let f := ethFrame b
  s.fnet.ports[p].on && decide (b.length ≤ 1518) &&
    (decide (f.dst = s.mac p.val) || decide (f.dst = bcastAddr) || decide (f.dst = gptpAddr)) &&
    (match f.vid with | none => true | some 0 => true | some v => decide (v = s.num .FNET_VID p.val)) &&
    s.listed p f

/-- Discard a frame that a port does not accept (R486). -/
def State.dropFrame (s : State) (p : Fin 2) (fcs : Bool) : State :=
  s.lintAt (if fcs then .FNET_DROP else .FNET_FCS) p.val

/-- FNET_FRAME_DISCARD (R486): a frame with a bad FCS, one that the port does not accept, or one that finds the receive
buffer of 64 frames full; any other frame is not discarded. -/
def execFnetFrameDiscard (port : Fin 2) (frame : Bytes) (fcs full : Bool) (s : State) : Host.Outcome State Fault Refusal :=
  if ¬ s.fnet.ports[port].on then .next s
  else if ¬ fcs then settled (s.dropFrame port false)
  else if ¬ s.accepts port frame then settled (s.dropFrame port true)
  else if full then settled (s.lintAt .FNET_RXFULL port.val)
  else .next s

/-- ARP_REQUEST (R487): answered for `FNET_IPV4`, as IETF RFC 826 gives. -/
def execArpRequest (port : Fin 2) (frame : Bytes) (fcs : Bool) (s : State) : Host.Outcome State Fault Refusal :=
  if ¬ s.fnet.ports[port].on then .next s
  else if ¬ fcs then settled (s.dropFrame port false)
  else if ¬ s.accepts port frame ∨ (ethFrame frame).etype ≠ 0x0806 then settled (s.dropFrame port true)
  else
    let a := (ethFrame frame).payload
    if beNat (slice a 0 8) ≠ 0x0001080006040001 then settled (s.dropFrame port true)
    else
      let reply := beBytes 8 0x0001080006040002 ++ beBytes 6 (s.mac port.val) ++ beBytes 4 (s.num .FNET_IPV4 port.val) ++
        slice a 8 10
      settled (s.queueFrame port 0 (s.ethOut port (beNat (slice a 8 6)) (some (s.num .FNET_PCP_OD port.val)) 0x0806 reply) none)

/-- ICMP_ECHO (R487): answered, as IETF RFC 792 gives. -/
def execIcmpEcho (port : Fin 2) (frame : Bytes) (fcs : Bool) (s : State) : Host.Outcome State Fault Refusal :=
  if ¬ s.fnet.ports[port].on then .next s
  else if ¬ fcs then settled (s.dropFrame port false)
  else if ¬ s.accepts port frame then settled (s.dropFrame port true)
  else
    let f := ethFrame frame
    match (if f.etype = 0x0800 then s.ipv4 port f.payload else none) with
    | some (1, src, icmp) =>
      let body (c : Nat) := beBytes 2 0 ++ beBytes 2 c ++ icmp.drop 4
      let pkt := ipv4Packet (s.num .FNET_IPV4 port.val) src 1 (body (inetSum (body 0)))
      settled (s.queueFrame port 0 (s.ethOut port f.src (some (s.num .FNET_PCP_OD port.val)) 0x0800 pkt) none)
    | _ => settled (s.dropFrame port true)

/-- A PTP port without a link. -/
def FnetPort.ptpDown (f : FnetPort) : FnetPort := { f with ptpState := 0, asCapable := false, linkDelay := 0, nrr := 0 }

/-- FNET_LINK_CHANGE (R485, R507): the link of an enabled port as its PHY reports it, with the rate code of
`FNET_STATUS`; 2500BASE-X has one rate. -/
def execFnetLinkChange (port : Fin 2) (up : Bool) (rate : BitVec 2) (s : State) : Host.Outcome State Fault Refusal :=
  if ¬ s.fnet.ports[port].on then .next s
  else
    let r := if s.num .FNET_MODE port.val = 0 then 3 else min rate.toNat 2
    settled (s.modFnet port (fun f =>
      if up then { f with linkUp := true, rate := r } else { f.ptpDown with linkUp := false, rate := 0 }))

/-- What the gPTP instance reads. -/
def State.gptpView (s : State) : GptpView :=
  ⟨s.fnet.ports.toList, s.fnet.gmId, s.clockId, s.num .PTP_DOMAIN 0, s.num .PTP_PRIORITY1 0, s.num .PTP_PRIORITY2 0,
    s.flag .PTP_EXT_CFG 0, [s.num .PTP_PORT_CFG 0, s.num .PTP_PORT_CFG 1], [s.flag .PTP_ENABLE 0, s.flag .PTP_ENABLE 1],
    [s.sint .PTP_ASYM 0, s.sint .PTP_ASYM 1]⟩

/-- A gPTP message of the device (R501, R502). -/
def State.gptpSend (s : State) (p : Fin 2) (k : GptpKind) (seq : Nat) (t : NetTime) : GptpSend :=
  ⟨k, s.clockId, s.num .PTP_DOMAIN 0, p.val, seq, t, 248, 0xFE, 0xA0, s.num .TS_UTC_OFFSET 0, s.num .PTP_PRIORITY1 0,
    s.num .PTP_PRIORITY2 0⟩

/-- The messageType of an event message (IEEE 802.1AS: Sync 0, Pdelay_Req 2, Pdelay_Resp 3). -/
def GptpKind.event : GptpKind → Option Nat
  | .sync => some 0 | .pdelayReq => some 2 | .pdelayResp => some 3 | _ => none

/-- Queue a gPTP message in Q2, untagged (R487). -/
def State.queueGptp (s : State) (p : Fin 2) (k : GptpKind) (seq : Nat) (t : NetTime) : State :=
  s.queueFrame p 2 (s.ethOut p gptpAddr none 0x88F7 (Config.gptpMessage (s.gptpSend p k seq t)))
    (k.event.map (fun m => (m, s.num .PTP_DOMAIN 0, seq)))

/-- Take the state of a PTP port. -/
def FnetPort.take (f : FnetPort) (g : GptpPort) : FnetPort :=
  { f with ptpState := g.state, linkDelay := g.linkDelay, nrr := g.nrr, asCapable := g.asCapable }

/-- PTP_MESSAGE (R501 to R503): an accepted message of the instance's domain on an enabled PTP port, with its receive
timestamp, goes to the 802.1AS instance; its measurement feeds the servo while the source is FNET (R496). -/
def execPtpMessage (port : Fin 2) (frame : Bytes) (fcs : Bool) (phase : BitVec 3) (s : State) :
    Host.Outcome State Fault Refusal :=
  if ¬ s.fnet.ports[port].on then .next s
  else if ¬ fcs then settled (s.dropFrame port false)
  else if ¬ s.accepts port frame ∨ (ethFrame frame).etype ≠ 0x88F7 then settled (s.dropFrame port true)
  else
    let m := (ethFrame frame).payload
    if ¬ s.flag .PTP_ENABLE port.val ∨ fieldAt m 4 1 ≠ s.num .PTP_DOMAIN 0 ∨ m.length < 34 then
      settled (s.lint .PTP_DISCARD)
    else
      let rx := NetTime.of16 (capture s.netTime phase.toNat - ps16 (s.num .FNET_RX_LAT port.val))
      let g := Config.gptp s.gptpView port.val m rx
      if g.discard then settled (s.lint .PTP_DISCARD)
      else
        let s1 := (s.modFnet 0 (fun f => f.take g.port0)).modFnet 1 (fun f => f.take g.port1)
        let s2 := { s1 with fnet := { s1.fnet with gmId := g.gm.getD s.clockId } }
        let s3 := match g.utc with
          | some u => s2.setNum .TS_UTC_OFFSET 0 (u % 65536)
          | none => s2
        let s4 := match g.respond with
          | some q => s3.queueGptp port .pdelayResp (q % 65536) rx
          | none => s3
        let s5 := s4.tsReselect
        match g.theta with
        | some th => settled (if s5.tsSource = 1 then s5.measure th else s5)
        | none => settled s5

/-- The time stack of the coach reads the transmit timestamps of a port in order, and sends the Follow_Up of a Sync and
the Pdelay_Resp_Follow_Up of a Pdelay_Resp (R501, R504). When it reads them is the model's choice: at the port's
message intervals (notes/assumptions/21.md). -/
def State.readStamps (s : State) (p : Fin 2) : State :=
  let q := s.fnet.ports[p].txq
  let s1 := s.modFnet p (fun f => { f with txq := [] })
  s1.each q (fun s e =>
    if e.msgType = 0 then s.queueGptp p .followUp e.seqId e.time
    else if e.msgType = 3 then s.queueGptp p .pdelayRespFollowUp e.seqId e.time
    else s)

/-- The gPTP entries 0x2E00.0F to 0x2E00.15 and those of a port, 0x2E10 + p from 0x0C on: a change of them takes effect at the next
message interval (R510). -/
def gptpKey (p : Nat) (k : Nat) : Bool :=
  (k / 256 == 0x2E00 && decide (0xF ≤ k % 256)) || (k / 256 == 0x2E10 + p && decide (0xC ≤ k % 256))

/-- The gPTP settings that wait for a message interval of a port (R510); a PTP port that they disable goes down. -/
def State.ptpSettings (s : State) (p : Fin 2) : State :=
  let s1 := s.applyWaiting (gptpKey p.val)
  let s2 := if s1.flag .PTP_ENABLE p.val then s1 else s1.modFnet p FnetPort.ptpDown
  s2.tsReselect

/-- PTP_MESSAGE_INTERVAL (R501, R502): the interval of the port's Sync (0), Pdelay_Req (1) or Announce (2) elapses. A
MASTER port sends Sync and Announce; every enabled port measures its link delay. -/
def execPtpMessageInterval (port : Fin 2) (kind : Fin 3) (s : State) : Host.Outcome State Fault Refusal :=
  if ¬ s.fnet.ports[port].on ∨ ¬ s.flag .PTP_ENABLE port.val ∨ ¬ s.fnet.ports[port].linkUp then .next s
  else
    let s0 := s.ptpSettings port
    let s1 := s0.readStamps port
    let f := s1.fnet.ports[port]
    if ¬ s0.flag .PTP_ENABLE port.val then settled s0
    else match kind with
    | 0 =>
      if f.ptpState = 1 then
        settled ((s1.queueGptp port .sync f.syncSeq s1.netTime).modFnet port (fun f => { f with syncSeq := wrapAdd 16 f.syncSeq 1 }))
      else settled s1
    | 1 =>
      settled ((s1.queueGptp port .pdelayReq f.pdelaySeq s1.netTime).modFnet port
        (fun f => { f with pdelaySeq := wrapAdd 16 f.pdelaySeq 1 }))
    | 2 =>
      if f.ptpState = 1 then
        settled ((s1.queueGptp port .announce f.announceSeq s1.netTime).modFnet port
          (fun f => { f with announceSeq := wrapAdd 16 f.announceSeq 1 }))
      else settled s1

/-- The gate control list of the committed entries (R489, R508). -/
def State.gateList (s : State) (port : Nat) : GateList :=
  let b := s.byt .QBV_BASE port
  let l := s.byt .QBV_LIST port
  ⟨fieldAt b 0 8 * 1000000000 + fieldAt b 8 4, s.num .QBV_CYCLE_NS port,
    (List.range (s.num .QBV_LEN port)).map (fun i => (fieldAt l (8 * i) 1 % 16, fieldAt l (8 * i + 4) 4))⟩

/-- A committed gate control list waits for its start (R491). -/
def State.gateCommit (s : State) (p : Fin 2) (g : GateList) : State :=
  let f := s.fnet.ports[p]
  let t := s.nowNs
  let after := match f.gate with
    | some o => if o.base ≤ t then o.cycleOf t + o.cycle else t
    | none => t
  let start := if g.base ≤ t then (if g.startFrom after = t then g.startFrom (t + 1) else g.startFrom after)
    else g.startFrom (max after g.base)
  s.modFnet p (fun f => { f with nextGate := some (start, g) })

/-- GATE_CYCLE_START (R489, R491): the committed list comes into force where its start is due. -/
def execGateCycleStart (port : Fin 2) (s : State) : Host.Outcome State Fault Refusal :=
  match s.fnet.ports[port].nextGate with
  | some (start, g) =>
    if start ≤ s.nowNs then
      settled ((s.applyWaiting (fun k => k / 256 == 0x2E20 + port.val)).modFnet port (fun f =>
        { f with gate := some g, nextGate := none }))
    else .next s
  | none => .next s

/-- How long a queue's gate stays open over entries in order from a place in a list, in ns, ending at the first closed
entry. -/
def openRun (q : Nat) : List (Nat × Nat) → Nat
  | [] => 0
  | (g, d) :: r => if g.testBit q then d + openRun q r else 0

/-- The entries from place `pos` (ns into the cycle) on, the first cut to what is left of it. -/
def gateFrom (pos : Nat) : List (Nat × Nat) → List (Nat × Nat)
  | [] => []
  | (g, d) :: r => if pos < d then (g, d - pos) :: r else gateFrom (pos - d) r

/-- The window open for a queue at an instant in units of 2^-16 ns, in those units: `none` where its gate never closes. -/
def GateList.window (g : GateList) (q : Nat) (t16 : Nat) : Option Nat :=
  if g.entries.all (fun e => e.1.testBit q) then none
  else
    let t := t16 / 65536
    let pos := (t - g.base) % g.cycle
    let n := openRun q (gateFrom pos g.entries ++ g.entries)
    some (if n = 0 then 0 else n * 65536 - t16 % 65536)

/-- The longest window of a queue in a list, in ns: `none` where its gate never closes. -/
def GateList.longest (g : GateList) (q : Nat) : Option Nat :=
  if g.entries.all (fun e => e.1.testBit q) then none
  else
    let l := g.entries ++ g.entries
    some (((List.range g.entries.length).map (fun i => openRun q (l.drop i))).foldl max 0)

/-- The megabits per second of a rate code (R507). -/
def rateMbps (c : Nat) : Nat := [10, 100, 1000, 2500].getD c 10

/-- The bit times of a frame: preamble, frame with its FCS, and the 12-byte gap (R490). -/
def frameBits (b : Bytes) : Nat := 8 * (8 + max 60 b.length + 4 + 12)

/-- Does a frame fit a window of `w` units of 2^-16 ns at a rate (R490)? -/
def fitsWindow (b : Bytes) (rate w : Nat) : Bool := decide (frameBits b * 1000 * 65536 ≤ w * rateMbps rate)

/-- The list that governs a port: none with `QBV_ENABLE` 0 (R489), or while no list is in force yet
(notes/assumptions/22.md). -/
def State.gateOf (s : State) (p : Fin 2) : Option GateList :=
  if s.flag .QBV_ENABLE p.val then
    s.fnet.ports[p].gate.filter (fun g => decide (g.base ≤ s.nowNs) && decide (0 < g.cycle))
  else none

/-- What a port does with the head of a queue: keep it waiting, discard it, or send it. -/
inductive TxChoice where
  | wait
  | discard
  | send
deriving DecidableEq, Repr

/-- The choice of R490 for a queue. -/
def State.txChoice (s : State) (p : Fin 2) (q : Fin 4) : TxChoice :=
  match s.fnet.ports[p].queues[q] with
  | [] => .wait
  | h :: _ =>
    let r := s.fnet.ports[p].rate
    match s.gateOf p with
    | none => .send
    | some g =>
      match g.longest q.val with
      | none => .send
      | some n =>
        if ¬ fitsWindow h.bytes r (n * 65536) then .discard
        else
          match g.window q.val s.netTime.to16.toNat with
          | none => .send
          | some w => if fitsWindow h.bytes r w then .send else .wait

/-- Take the head of a queue. -/
def FnetPort.pop (f : FnetPort) (q : Fin 4) : FnetPort := { f with queues := f.queues.set q (f.queues[q].drop 1) }

/-- The transmit timestamp of a sent event message (R503, R504). -/
def State.stampTx (s : State) (p : Fin 2) (ev : Nat × Nat × Nat) (phase : Nat) : State :=
  let f := s.fnet.ports[p]
  if 16 ≤ f.txq.length then (s.lintAt .TS_TXQ_OVF p.val).modFnet p (fun f => { f with txqOvf := true })
  else
    let t := NetTime.of16 (capture s.netTime phase + ps16 (s.num .FNET_TX_LAT p.val))
    s.modFnet p (fun f => { f with txq := f.txq ++ [⟨ev.1, ev.2.1, ev.2.2, f.txqOvf, t⟩], txqOvf := false })

/-- FRAME_TRANSMIT (R489, R490, R503): the first queue in strict priority whose head is to be sent or discarded. -/
def execFrameTransmit (port : Fin 2) (phase : BitVec 3) (s : State) : Host.Outcome State Fault Refusal :=
  let f := s.fnet.ports[port]
  if ¬ f.on ∨ ¬ f.linkUp then .next s
  else
    match (List.finRange 4).reverse.find? (fun q => decide (s.txChoice port q ≠ .wait)) with
    | none => .next s
    | some q =>
      match f.queues[q] with
      | [] => .next s
      | h :: _ =>
        let s1 := s.modFnet port (fun f => f.pop q)
        if s.txChoice port q = .discard then settled (s1.lintAt .FNET_QBV_DROP port.val)
        else
          let s2 := s1.emit (.frame port.val q.val h.bytes)
          settled (match h.event with | some ev => s2.stampTx port ev phase.toNat | none => s2)

/-- An entry of the transmit timestamp queue as `TS_TXQ` shows it (R504). -/
def TxStamp.bytes (e : TxStamp) : Bytes :=
  packBytes 24 [(4, 1), (4, e.msgType), (8, e.domain), (16, e.seqId), (1, b2n e.ovf), (31, 0),
    (112, leNat e.time.toBytes), (16, 0)]

/-- `FNET_STATUS` (R507). -/
def FnetPort.status (f : FnetPort) : Nat := b2n f.linkUp + 2 * (f.rate % 4)

/-- A port whose mode or enable changes restarts its link (R510): on with `FNET_ENABLE`. -/
def State.fnetRestart (s : State) (p : Fin 2) : State :=
  s.modFnet p (fun f =>
    { f.ptpDown with
      on := s.flag .FNET_ENABLE p.val
      linkUp := false
      rate := 0
      queues := if s.flag .FNET_ENABLE p.val then f.queues else Vector.replicate 4 [] })

end Sys2Proof.Machine
end

