-- ==== Sys2Proof/Machine/Supervise.lean ====
section
/-! DEFINITION. SAFE and INERT, the safety supervisor's events, units taken out of service, and detected errors (R28 to R34, R40, R560 to R567, R584 to R586). -/

namespace Sys2Proof.Machine

open Sys2Proof

/-- The body of a CTRL message: HELLO as R406 lays it out, any other as the opaque encoding gives it. -/
def CtrlMsg.body (m : CtrlMsg) : Bytes :=
  match m with
  | .hello h => packBytes 64 [(4, 1), (4, h.verMax), (5, h.seat), (3, 0), (4, h.gen), (4, h.shape), (6, h.size), (2, 0),
      (8, h.portsUp), (8, h.partMask), (16, 0), (64, h.devId), (32, h.fw), (32, h.partCrc), (320, 0)]
  | m => Config.ctrlBody m

/-- Send a CTRL message to a seat by its route (R399, R403, R405). -/
def State.sendTo (s : State) (dst : Nat) (m : CtrlMsg) : State :=
  (s.sendMessage dst 2 (s.ctrlBytes m.mtype m.body)).emit (.ctrl dst m)

/-- Send a CTRL message on one port to the seat behind it, before routes are fixed (R405, R406). -/
def State.sendOn (s : State) (p : Fin 8) (dst : Nat) (m : CtrlMsg) : State :=
  ((messageCells 2 dst s.seat (s.ctrlBytes m.mtype m.body)).foldl (fun s c => s.sendSeq p c) s).emit (.ctrl dst m)

/-- The member seats of the squad but the own one, ascending. -/
def State.otherMembers (s : State) : List Nat :=
  (List.range 32).filter (fun x => s.squad.members.testBit x && x != s.seat)

/-- Send a CTRL message to every other member. -/
def State.sendAll (s : State) (m : CtrlMsg) : State := s.each s.otherMembers (fun s x => s.sendTo x m)

/-- The result of a seat for the command under way (R408): a seat that succeeded, or its failing answer. -/
def State.seatResult (s : State) (seat code armFault : Nat) : State :=
  s.modSquad (fun q =>
    { q with cmd := q.cmd.map (fun c =>
        if !c.waiting.testBit seat then c
        else
          { c with
            waiting := clearMask c.waiting (2 ^ seat)
            armed := if code = 0 then c.armed ||| 2 ^ seat else c.armed
            failed := if code = 0 then c.failed else c.failed ++ [(seat, code, armFault)] }) })

/-- The answer of an action that has completed: a session, a list, or the stroke seat (R408, R521). -/
def State.answer (s : State) (o : Origin) (st : Status) (armFault : Nat) : State :=
  match o with
  | .squad _ =>
    match s.squad.stroke with
    | some x => if x = s.seat then s.seatResult x st.code armFault else s.sendTo x (.commandDone st.code armFault)
    | none => s
  | o => s.complete o st []

/-- The ARM in progress ends with a fault, or is overridden (R33, R39). -/
def State.armFails (s : State) (fault : Option Nat) : State :=
  match s.dev.arming with
  | none => s
  | some (o, _) =>
    let s1 := s.modDev (fun d => { d with arming := none, armFault := fault.getD d.armFault })
    s1.answer o .state (fault.getD 0)

/-- Heats, requests and transfers end without results: SAFE stops every heat (R25, R26), and the rota ends with ARMED. What
the swaths of the heats waited for does not come. -/
def State.rotaStop (s : State) : State :=
  let s1 := s.modCox (fun c =>
    { c with
      heats := [], queue := [], held := [], saves := [], restores := [], transfer := false, admitting := false, stopReq := false
      stepEnds := [], partitions := c.partitions.map (fun p => { p with reserved := [] }) })
  let s2 := s1.modSquad (fun q => { q with spans := [] })
  let quiet (w : Swath) : Swath :=
    { w with
      rowRefs := w.rowRefs.map (fun _ => 0)
      fate := if w.fate = .waiting ∨ w.fate = .admitted then .undecided else w.fate }
  let port (c : CamPort) : CamPort := { c with closed := c.closed.map quiet }
  let fresh (k : KvPart) : KvPart := { KvPart.init with nextId := k.nextId, step := k.step }
  ({ s2 with
    cams := s2.cams.map port
    kv := s2.kv.map fresh }).modSaf (fun f =>
      { f with expected := [], running := [] })

/-- Every output goes off: the fire list is cleared (R31), pulses end, and the camera ports stop (R61). -/
def State.outputsOff (s : State) : State :=
  let s1 := s.fireClear
  (s1.modField (fun f =>
    { f with
      slots := f.slots.map (fun t => { t with pulse := none })
      divs := f.divs.map (fun d => { d with pulse := false, deferred := 0 }) })).camsOff

/-- Entry to SAFE with a cause bit (R33, R40, R586). -/
def State.enterSafe (s : State) (bit : Nat) : State :=
  let s1 := (s.armFails none).outputsOff.rotaStop
  (s1.modDev (fun d => { d with state := .safe, safeCause := setBit d.safeCause bit true })).writeStored

/-- A cause of SAFE arises (R28, R33, R34, R40): by the device state. -/
def State.safeCause (s : State) (bit : Nat) : State :=
  match s.dev.state with
  | .inert | .armed | .run | .degraded => s.enterSafe bit
  | .safe => s.modDev (fun d => { d with safeCause := setBit d.safeCause bit true })
  | .boot =>
    if bit = 0 ∨ bit = 4 then s.modDev (fun d => { d with safeCause := setBit d.safeCause bit true })
    else (s.bootFail 8).toReset 8
  | .recovery => if bit = 0 ∨ bit = 4 then s else s.toReset 8
  | .off | .reset => s

/-- The enables that a transition to INERT clears (R32). -/
def inertEnables : List (Ent × Nat) :=
  [(.CAM_ENABLE, 12), (.SL_ENABLE, 8), (.SQD_ENABLE, 1), (.NL_ENABLE, 8), (.RT_ENABLE, 8), (.ENC_ENABLE, 8), (.DIV_ENABLE, 16),
    (.TRG_ENABLE, 32), (.FIRE_ENABLE, 12)]

/-- Is the key an enable of R32? -/
def inertKey (k : Nat) : Bool := inertEnables.any (fun e => (List.range e.2).any (fun i => k == e.1.key i 0))

/-- Clear the enables of R32, and those that wait for their boundary (notes/assumptions/58.md). -/
def State.clearEnables (s : State) : State :=
  let s1 : State := { s with od := { s.od with waiting := s.od.waiting.filter (fun e => !inertKey e.1) } }
  s1.each inertEnables (fun s e => s.each (List.range e.2) (fun s i => s.setNum e.1 i 0))

/-- The squad ends on this seat; a command or a load that it carried is answered ERR_STATE (notes/assumptions/51.md). -/
def State.squadNone (s : State) : State :=
  let s1 := match s.squad.cmd with | some c => s.complete c.reply .state [] | none => s
  let s2 := match s1.squad.load with | some l => s1.complete l.reply .state [] | none => s1
  s2.modSquad (fun q => { Squad.init with ports := q.ports, epoch := q.epoch, formFault := q.formFault })

/-- A transition to INERT (R32, R40): the enables are cleared and their blocks stop. -/
def State.toInert (s : State) : State :=
  let old := s.tsSource
  let s1 := (s.outputsOff.rotaStop).clearEnables
  let s2 := (s1.each (allFin 8) (fun s p => s.nlCommit p)).squadNone
  ((s2.modDev (fun d => { d with state := .inert, safeCause := 0 })).syncEnables).tsSourceChange old

/-- A unit goes out of service until the next BOOT (R566, R567). A sweep, a catch unit or a crew takes the whole crew out. -/
def State.takeOut (s : State) (u : UnitId) : State :=
  if s.saf.held.contains u then s
  else
    let more := match u with
      | .sweep c => [UnitId.crew c]
      | .catchUnit c _ => [UnitId.crew c]
      | _ => []
    (s.modSaf (fun f => { f with held := f.held ++ [u] ++ more.filter (fun x => !f.held.contains x) })).lint .SAF_OOS

/-- A supervisor event of code `e` against units (R584, R585): its bit is latched and its action taken. -/
def State.event (s : State) (e : Nat) (units : List UnitId) : State :=
  match s.dev.state with
  | .inert | .armed | .run | .degraded | .safe =>
    let s1 := s.modSaf (fun f => { f with latched := setBit f.latched e true })
    match s.numAt .SAF_ACTION 0 (e - 1) with
    | 1 => s1.each units State.takeOut
    | 2 => (s1.modSaf (fun f => { f with safeEvent := e })).safeCause 5
    | _ => s1
  | _ => s

/-- The rinse slices that cover a unit (R571); a crew as a whole is covered by its twelve (notes/assumptions/26.md). -/
def UnitId.slices : UnitId → List Slice
  | .shell c p => [.crew c (p / 17)]
  | .scull c => [.crew c 4]
  | .sweep c => [.crew c 5]
  | .oar c p => [.crew c (6 + p / 132)]
  | .catchUnit c _ => [.crew c 10]
  | .crew c => (List.range 12).map (fun i => .crew c i)
  | .shared i => [.shared i]

/-- Target slices in the next rinse window (R573). -/
def State.target (s : State) (l : List Slice) : State :=
  s.modSaf (fun f => { f with targeted := f.targeted ++ l.filter (fun x => !f.targeted.contains x) })

/-- `SAF_UNIT_ERR_WINDOW` in CK_TS cycles. -/
def State.errWindow (s : State) : Nat := s.num .SAF_UNIT_ERR_WINDOW 0 * 400000000

/-- A detected error is attributed to its unit (R566, R573, R590): it is the last error, the unit gets a targeted slice,
and the limit of R566 raises UNIT_ERRORS. -/
def State.attribute (s : State) (e : DetError) (u : UnitId) : State :=
  let now := s.now
  let l := (s.saf.errors.filter (fun x => decide (now ≤ x.2 + s.errWindow))) ++ [(u, now)]
  let s1 := (s.modSaf (fun f => { f with lastErr := some e, errors := l })).target u.slices
  if s.num .SAF_UNIT_ERR_LIMIT 0 ≤ (l.filter (fun x => decide (x.1 = u))).length then s1.event 5 [u] else s1

/-- `SAF_LAST_ERR` (R590). -/
def State.lastErrBytes (s : State) : Bytes :=
  match s.saf.lastErr with
  | none => packBytes 32 [(11, 0), (4, 1)]
  | some e => packBytes 32 [(8, e.kind), (3, e.crew), (4, 1), (1, 0), (10, e.unitNo), (6, 0), (24, e.stroke), (8, 0), (64, e.serial),
      (64, e.period), (64, e.mono)]

/-- Has a partition with a FAST plan fewer crews in service than the plan needs (R584: CREWS_SHORT)? -/
def State.crewsShort (s : State) : Bool :=
  (List.range 8).any (fun part =>
    let n := (s.crewsIn.filter (fun c => (s.num .PART_CREW_MASK part).testBit c)).length
    (allFin 16).any (fun i =>
      match s.cox.packages[i] with
      | some p => decide (p.partition = part) && p.plans.any (fun pl => decide (pl.kind = .fast) && decide (n < pl.crews))
      | none => false))

/-- The time of a slice's last complete pass since the rota began (R575; the time counts from ARM,
notes/assumptions/27.md). -/
def State.lastPass (s : State) (i : Nat) : Nat := max (s.saf.status.toList.getD i 0) s.cox.armMono

/-- The number of a slice in `SAF_RINSE_STATUS` (R589). -/
def Slice.num : Slice → Nat
  | .crew c i => 12 * c + i
  | .shared i => 72 + i

/-- The slices that are supervised: of crews in service, and the shared ones (R575). -/
def State.supervised (s : State) : List Slice :=
  s.crewsIn.flatMap (fun c => (List.range 12).map (fun i => Slice.crew c i)) ++ (List.range 3).map Slice.shared

/-- Is a slice overdue (R575)? The rinse runs in ARMED, RUN and DEGRADED alone (R26). -/
def State.overdue (s : State) (x : Slice) : Bool :=
  s.dev.state.active && decide (s.lastPass x.num + s.num .SAF_RINSE_LIMIT 0 * 400000 < s.now)

/-- The events present now (R584): RINSE_OVERDUE, CREWS_SHORT and TIME_LOST last; every other is raised at a moment. -/
def State.present_ (s : State) : Nat :=
  b2n (s.supervised.any s.overdue) * 2 + b2n s.crewsShort * 2 ^ 9 + b2n (decide (s.tu.state = .lost)) * 2 ^ 10

/-- `SAF_EVENTS` (R584). -/
def State.safEvents (s : State) : Nat := s.saf.latched ||| s.present_

/-- The action of a write to `SAF_EVENT_ACK` (R589): latched events that are no longer present. -/
def actSafAck (s : State) (v : Nat) : Reply :=
  .ok (s.modSaf (fun f => { f with latched := clearMask f.latched (clearMask v s.present_) }))

/-- Is a cause of SAFE acknowledgeable and no longer present (R40, R625, R634)? -/
def State.causeGone (s : State) (bit : Nat) : Bool :=
  match bit with
  | 0 => s.dev.sensors.toList.all (fun t => decide (t ≤ s.sint .THERM_THROTTLE 0))
  | 3 => s.hullOk
  | 4 => s.field.rigLink && !s.field.rigHold && s.dev.supplyOk[10]
  | 5 => (List.range 12).all (fun i =>
      !(decide (s.numAt .SAF_ACTION 0 i = 2) && s.present_.testBit (i + 1)))
  | 6 => true
  | _ => false

/-- May SAFE_ACK succeed (R28, R40, R585)? -/
def State.ackable (s : State) : Bool :=
  (List.range 8).all (fun b => !s.dev.safeCause.testBit b || s.causeGone b) && s.causeGone 5

/-- The end of a row after which units may have gone out of service: DEGRADED or RUN (R28), CREWS_SHORT where it has arisen (R584), and
the interrupts (R555). -/
def finish (s t : State) : Host.Outcome State Fault Refusal :=
  let t1 := t.regrade
  let t2 := if t1.crewsShort && !s.crewsShort then t1.event 9 [] else t1
  .next (edges s t2.regrade)

end Sys2Proof.Machine
end

