-- ==== Sys2Proof/Machine/Matrix.lean ====
section
/-! DEFINITION. Heats' tensors, stream packets, the shells, fold passes and the scull (R20 to R22, R110 to R141, R163 to R178, R246 to R250). -/

namespace Sys2Proof.Machine

open Sys2Proof

/-- The heat of a serial, with its heat-table entry. -/
def State.heatOf (s : State) (serial : Nat) : Option (Nat × Heat) := s.cox.heats.find? (fun e => e.2.serial == serial)

/-- The heat of a table entry with its package. -/
def State.heatPkg (s : State) (k : Nat) : Option (Heat × Package) :=
  match amGet? s.cox.heats k with
  | some h => (s.planOf h.req.slot h.req.plan).map (fun x => (h, x.1))
  | none => none

/-- The descriptor of a heat's stroke (R206: numbered from 0 within the heat). -/
def Heat.strokeOf (h : Heat) (p : Package) (i : Nat) : Option Bytes :=
  if i < h.plan.strokes then p.strokes[h.plan.firstStroke + i]? else none

/-- The tensors of the retuned layers (R444): TD_WORK0, TD_WORK1, TD_MASTER, TD_M1, TD_M2 and TD_GRAD of every layer. -/
def Package.layers (p : Package) : List (List Nat) :=
  match p.retune with
  | none => []
  | some b =>
    let n := bits (leNat (fit b 64)) 23 20 + 1
    (List.range n).map (fun i => (List.range 6).map (fun j => fieldAt b (64 + 16 * i + 2 * j) 2))

/-- The tensor that a FAST heat reads where its stroke names a working copy: the copy that was current at its admission (R441;
generation g lies in copy g mod 2). -/
def Heat.copyOf (h : Heat) (p : Package) (n : Nat) : Nat :=
  if h.req.kind = .fast then
    match p.layers.find? (fun l => (l.take 2).contains n) with
    | some l => l.getD (h.retuneGen % 2) n
    | none => n
  else n

/-- The stored bytes of tensor `n` as a heat's strokes read them (R169). -/
def State.tensor (s : State) (h : Heat) (p : Package) (n : Nat) : Bytes :=
  match p.td n with
  | none => []
  | some t =>
    let b : Bytes := match t.kind with
      | 0 => p.consts.drop t.constOfs
      | 1 => (match h.req.swath.bind (fun x => s.swath? x.1 x.2) with | some w => w.tensor t | none => [])
      | 4 => amGet h.tensors n (p.stateOf (h.copyOf p n))
      | _ => amGet h.tensors n []
    fit b t.size

/-- What a stroke that is not complete has written of a tensor so far, beginning from its content (R129). -/
def State.built (s : State) (h : Heat) (p : Package) (n : Nat) : Bytes :=
  match amGet? h.building n with
  | some b => b
  | none => s.tensor h p n

/-- A stroke's pass writes elements of a tensor (R175, R177). -/
def State.writeTensor (s : State) (k : Nat) (n : Nat) (sat : Bool) (l : List (List Nat × ExactNum)) : State :=
  match s.heatPkg k with
  | some (h, p) =>
    (match p.td n with
    | some t => s.modHeat k (fun h' => { h' with building := amInsert h'.building n (t.put sat (s.built h p n) l) })
    | none => s)
  | none => s

/-- The pass of a heat by stroke and number. -/
def Heat.passOf (h : Heat) (stroke num : Nat) : Option Pass :=
  h.image.passes.find? (fun x => x.stroke == stroke && x.num == num)

/-- A pass has ended; shell, scull and fold passes are counted (R151). -/
def State.passEnds (s : State) (k : Nat) (x : Pass) (counted : Bool) : State :=
  let s1 := s.modHeat k (fun h => { h with passesDone := (x.stroke, x.num) :: h.passesDone })
  if counted then
    match amGet? s1.cox.heats k with
    | some h =>
      (match (h.crews[x.rank]?).bind (toFin? 6) with
      | some c => s1.modCrew c (fun w => { w with passes := wrapAdd 64 w.passes 1 })
      | none => s1)
    | none => s1
  else s1

/-- A detected error of a heat's stroke reaches the crew scoreboard (R129, R563, R566). -/
def State.detected (s : State) (k kind crew unitNo stroke pass : Nat) (noDarn : Bool) (cause : Cause) (u : UnitId) : State :=
  let serial := match amGet? s.cox.heats k with | some h => h.serial | none => 0
  let e : DetError := ⟨kind, crew, unitNo, stroke, pass, serial, s.cox.period, s.now, noDarn, cause⟩
  (s.modHeat k (fun h => { h with errors := h.errors ++ [e] })).attribute e u

/-! ### Packets -/

/-- Fields of a stream packet's header (R20). -/
def Packet.serial (p : Packet) : Nat := bits p.header.toNat 63 0
def Packet.stroke (p : Packet) : Nat := bits p.header.toNat 87 64
def Packet.wset (p : Packet) : Nat := bits p.header.toNat 95 95
def Packet.step (p : Packet) : Nat := bits p.header.toNat 143 112

/-- The partition that owns a rota slot in the current period (R22, R182). -/
def State.slotPartition (s : State) (slot lane dir : Nat) : Option Nat :=
  s.cox.heats.findSome? (fun e =>
    if e.2.slots.contains (s.cox.period, slot, lane, dir) then some e.2.req.partition else none)

/-- The checks of R22: CHECK over the header's bits 159:0 and the payload, VERSION, the reserved bits, and the partition of the slot it arrived in. -/
def State.packetGood (s : State) (p : Packet) : Bool :=
  let v := p.header.toNat
  decide (crc32c (leBytes 20 v ++ p.payload) = bits v 191 160) && decide (bits v 91 88 = 1) && decide (bits v 159 144 = 0) &&
    (match p.slot with
    | some (a, b, c) => decide (s.slotPartition a b c = some (bits v 94 92))
    | none => true)

/-! ### Operands of matrix strokes -/

/-- Does a matrix stroke run in 4-bit mode (R113, R140)? -/
def MatStroke.mode4 (m : MatStroke) : Bool :=
  !m.grouped && ((m.fmtA == 2 && m.fmtW == 2) || (m.fmtA == 10 && m.fmtW == 10))

/-- Is a matrix stroke of the half class (R86)? -/
def MatStroke.isHalf (m : MatStroke) : Bool := decide (fmtClass m.fmtA = .half)

/-- Reduction elements of a wavefront (R113); the channels of a tap for a grouped form (R140). -/
def MatStroke.blk (m : MatStroke) : Nat := if m.mode4 then 64 else 32

/-- The K-blocks of the whole reduction: taps for a grouped form (R140). -/
def MatStroke.blocks (m : MatStroke) : Nat := if m.grouped then m.taps else (m.k + m.blk - 1) / m.blk

/-- The issue interval (R113). -/
def MatStroke.interval (m : MatStroke) : Nat := if m.isHalf then 4 else 1

/-- The anchor of the reduction (R88). -/
def MatStroke.anchor (m : MatStroke) : Nat := grain m.fmtA + grain m.fmtW

/-- Values converted in a catch-unit stream, in groups that form blocks where the format has them (R175); values already in
the format stay. -/
def convertTo (src dst : Nat) (sat : Bool) (xs : List ExactNum) : List ExactNum :=
  if src = dst then xs
  else if isZb dst then
    (chunksOf 32 (xs.length + 1) xs).flatMap (fun c => (zbValues dst (zbStore dst sat c)).take c.length)
  else xs.map (fun x => elemValue dst (elemStore dst sat 0 x))

/-- The inputs of an OAR stroke as one feature map (R242): descriptors and bytes. -/
def State.inputMaps (s : State) (h : Heat) (p : Package) (b : Bytes) : List (TensorDesc × Bytes) :=
  (oarInputs b).filterMap (fun n => (p.td n).map (fun t => (t, s.tensor h p n)))

/-- The extents H, W and the channels of a feature map (R242). -/
def TensorDesc.mapH (t : TensorDesc) : Nat := t.dims.getD 0 1
def TensorDesc.mapW (t : TensorDesc) : Nat := t.dims.getD 1 1
def TensorDesc.mapC (t : TensorDesc) : Nat := if t.rankM1 = 1 then 1 else t.dims.getD 2 1

/-- The element of a feature map at row, column and channel. -/
def TensorDesc.mapAt (t : TensorDesc) (b : Bytes) (y x c : Nat) : ExactNum :=
  if t.rankM1 = 1 then t.get b [y, x, 0, 0] else t.get b [y, x, c, 0]

/-- The element of concatenated inputs at a channel (R242). -/
def mapsAt : List (TensorDesc × Bytes) → Nat → Nat → Nat → ExactNum
  | [], _, _, _ => .fin false 0 1
  | (t, b) :: r, y, x, c => if c < t.mapC then t.mapAt b y x c else mapsAt r y x (c - t.mapC)

/-- The channels of concatenated inputs. -/
def mapsC (l : List (TensorDesc × Bytes)) : Nat := (l.map (fun e => e.1.mapC)).sum

/-- Element (m, k) of a window view (R246), none for a masked zero pad (R248). -/
def State.windowElem (s : State) (h : Heat) (p : Package) (b : Bytes) (m k : Nat) : Option ExactNum :=
  let g := geometry b
  let ins := s.inputMaps h p b
  let ct := mapsC ins
  match ins with
  | [] => none
  | (t, _) :: _ =>
    let hh := t.mapH
    let ww := t.mapW
    let wo := (g.wo ww).toNat
    let tap := k / ct
    let y : Int := (m / wo * g.sh : Nat) - (g.padT : Int) + (tap / g.kw * g.dh : Nat)
    let x : Int := (m % wo * g.sw : Nat) - (g.padL : Int) + (tap % g.kw * g.dw : Nat)
    if 0 ≤ y ∧ y < hh ∧ 0 ≤ x ∧ x < ww then some (mapsAt ins y.toNat x.toNat (k % ct))
    else
      match dfield b 225 224 with
      | 0 => none
      | 1 => some (fp32.decode (dfield b 263 232))
      | _ => some (mapsAt ins (clampInt y 0 (hh - 1)).toNat (clampInt x 0 (ww - 1)).toNat (k % ct))

/-- The WINDOW stroke of a plan that makes tensor `n`. -/
def Package.windowFor (p : Package) (pl : Plan) (n : Nat) : Option Bytes := (windowsOf p pl n).head?

/-- Element (m, k) of X before conversion, none where it is masked. -/
def State.xRaw (s : State) (h : Heat) (p : Package) (st : MatStroke) (m k : Nat) : Option ExactNum :=
  match p.windowFor h.plan st.tdA with
  | some b => s.windowElem h p b m k
  | none => (p.td st.tdA).map (fun t => t.get (s.tensor h p st.tdA) [m, k, 0, 0])

/-- The format of a stored operand. -/
def Package.fmtOf (p : Package) (n : Nat) : Nat := match p.td n with | some t => t.fmt | none => 0

/-- The elements of row `m` of X at the reduction positions `ks`, as they enter the unit (R147: FMT_A). -/
def State.xElems (s : State) (h : Heat) (p : Package) (st : MatStroke) (m : Nat) (ks : List Nat) : List (Option ExactNum) :=
  let raw := ks.map (s.xRaw h p st m)
  let conv := convertTo (p.fmtOf st.tdA) st.fmtA st.sat (raw.map (fun x => x.getD (.fin false 0 1)))
  (raw.zip conv).map (fun e => e.1.map (fun _ => e.2))

/-- The elements of column `n` of W at the reduction positions `ks`, as they enter the unit (R147: FMT_W). -/
def State.wElems (s : State) (h : Heat) (p : Package) (st : MatStroke) (n : Nat) (ks : List Nat) : List ExactNum :=
  match p.td st.tdW with
  | none => ks.map (fun _ => .nan)
  | some t =>
    let b := s.tensor h p st.tdW
    convertTo t.fmt st.fmtW st.sat (ks.map (fun k => t.get b [k, n, 0, 0]))

/-- The pairs of block `j` of output (m, n) (R139, R140): reduction elements within K, masked ones left out. -/
def State.pairs (s : State) (h : Heat) (p : Package) (st : MatStroke) (m n j : Nat) : List (ExactNum × ExactNum) :=
  let xs : List (Option ExactNum) × List ExactNum :=
    if st.grouped then
      let c0 := n / st.group * st.group
      (s.xElems h p st m ((List.range st.group).map (fun g => j * st.n + c0 + g)),
        s.wElems h p st n ((List.range st.group).map (fun g => j * st.group + g)))
    else
      let ks := ((List.range st.blk).map (· + st.blk * j)).filter (· < st.k)
      (s.xElems h p st m ks, s.wElems h p st n ks)
  (xs.1.zip xs.2).filterMap (fun e => e.1.map (fun x => (x, e.2)))

/-! ### Entries -/

/-- The finite products among pairs. -/
def finiteOf (l : List (ExactNum × ExactNum)) : List (ExactNum × ExactNum) :=
  l.filter (fun e => match e.1, e.2 with | .fin _ _ _, .fin _ _ _ => true | _, _ => false)

/-- The residue of an exact value in units of 2^-an (R124). -/
def rhoAt (q : Int) (an : Nat) : Nat := residue (q * (2 ^ ((16 - an % 16) % 16) : Nat))

/-- The residue of a finite element (R124): its denominator is a power of two. -/
def rho : ExactNum → Nat
  | .fin s n d => rhoAt (signedNum s n) (Nat.log2 d)
  | _ => 0

/-- A column sum (R112): in an exact class the accumulator of its products; in the half class the products themselves. `delta`
is an error in the sum, in grain units (a unit of 1 in the half class). -/
structure ColSum where
  acc : LongAcc
  prods : List ExactNum
  res : Nat
deriving DecidableEq, Repr

/-- The sum of a column's pairs in a stroke's class, its residue being that of the sum as it leaves the column. -/
def colSum (st : MatStroke) (l : List (ExactNum × ExactNum)) (delta : Int) : ColSum :=
  if st.isHalf then
    let ps := l.map (fun e => e.1.mul e.2) ++ (if delta = 0 then [] else [ExactNum.ofInt delta])
    let sum := ((finiteOf l).map (fun e => e.1.mul e.2)).foldl ExactNum.add (.fin false 0 1)
    ⟨LongAcc.zero, ps, rho (sum.add (ExactNum.ofInt delta))⟩
  else
    let a := l.foldl (fun a e => a.mac (grain st.fmtA) (grain st.fmtW) e.1 e.2) LongAcc.zero
    let b : LongAcc := { a with acc := a.acc + delta }
    ⟨b, [], rhoAt b.acc st.anchor⟩

/-- A foot entry before its first addition. -/
def FootEntry.zero : FootEntry := ⟨LongAcc.zero, 0, ⟨[], 0⟩⟩

/-- A column sum is added into an entry (R119, R120, R127). -/
def FootEntry.add (e : FootEntry) (st : MatStroke) (c : ColSum) : FootEntry :=
  if st.isHalf then { e with half := e.half.push (leaf c.prods) }
  else { e with acc := e.acc.join c.acc, res := (e.res + c.res) % 65535 }

/-- The entry of output (m, n) over blocks `j0` to `j0 + nj - 1`, formed directly (R109). -/
def State.entry (s : State) (h : Heat) (p : Package) (st : MatStroke) (m n j0 nj : Nat) : FootEntry :=
  ((List.range nj).map (· + j0)).foldl (fun e j => e.add st (colSum st (s.pairs h p st m n j) 0)) FootEntry.zero

/-- The word in which an entry travels as a partial (R91, R95, R122). -/
def FootEntry.word (e : FootEntry) (st : MatStroke) : Bytes :=
  if st.isHalf then leBytes 4 (foldStack e.half.stack) else e.acc.word st.anchor

/-- The value that an entry reads out to, before it is stored (R97 to R99, R121). -/
def FootEntry.read (e : FootEntry) (st : MatStroke) (r : ReadParam) : ExactNum :=
  if st.isHalf then readHalf (foldStack e.half.stack) r st.lo st.hi
  else readExact (decide (fmtClass st.fmtA = .integer)) (e.acc.value st.anchor) r st.lo st.hi

/-- The readout records of a stroke (R148). -/
def State.rpar (s : State) (h : Heat) (p : Package) (st : MatStroke) : Option Bytes :=
  if st.tdRpar = 0xFFFF then none else some (s.tensor h p st.tdRpar)

/-- Add the zero point of an integer output after the rounding (R102): the integer that is stored. -/
def withZp (fmt : Nat) (z : Int) (x : ExactNum) : ExactNum := if fmt ≤ 2 then ExactNum.ofInt (toIntFmt fmt z x) else x

/-- Read out entries at (row, column) places into the output (R121): columns at or beyond N are not written. -/
def State.readOut (s : State) (k : Nat) (st : MatStroke) (l : List (Nat × Nat × FootEntry)) : State :=
  match s.heatPkg k with
  | some (h, p) =>
    let rp := s.rpar h p st
    s.writeTensor k st.tdOut st.sat ((l.filter (fun e => decide (e.2.1 < st.n) && decide (e.1 < st.m))).map (fun e =>
      let r := readParam rp e.2.1
      ([e.1, e.2.1, 0, 0], withZp st.fmtOut r.zp (e.2.2.read st r))))
  | none => s

/-! ### The shell -/

/-- A physical shell. -/
def State.shell (s : State) (crew p : Nat) : Shell := amGet s.units.shells (crew * 68 + p) Shell.init

/-- Update a physical shell. -/
def State.modShell (s : State) (crew p : Nat) (f : Shell → Shell) : State :=
  { s with units := { s.units with
    shells := amSet s.units.shells (crew * 68 + p) (f (s.shell crew p)) Shell.init } }

/-- A shell reports an error of a stroke: it is counted, and the shell accepts no further wavefront of the stroke (R129). -/
def State.shellError (s : State) (crew p k kind stroke pass : Nat) (l : Lint) : State :=
  let serial := match amGet? s.cox.heats k with | some h => h.serial | none => 0
  ((s.modShell crew p (fun x => { x with refused := (serial, stroke) :: x.refused })).lintAt l crew).detected
    k kind crew p stroke pass false .check (.shell crew p)

/-- A packet that fails R22 is a detected error of its stroke, attributed to the receiving crew (R566). -/
def State.packetError (s : State) (crew : Nat) (serial stroke pass : Nat) : State :=
  match s.heatOf serial with
  | some (k, _) => s.detected k 1 crew 0x3FF stroke pass false .check (.crew crew)
  | none => s

/-- The operands of a weight tile, column by column (R114): element `r` of column `c`, none where it is synthesized (R137,
R140). The payload holds the columns one after another, each in FMT_W (notes/assumptions/28.md). -/
def tileCols (st : MatStroke) (x : Pass) (kblock : Nat) (payload : Bytes) : List (List (Option ExactNum)) :=
  let per := if st.grouped then st.group else st.blk
  let n := rowBytes st.fmtW per
  (List.range 32).map (fun c =>
    let v := unitValues st.fmtW per (slice payload (n * c) n)
    if st.n ≤ x.n0 + c then []
    else if st.grouped then
      (List.range 32).map (fun r => if r / st.group = c / st.group then v[r % st.group]? else none)
    else (List.range st.blk).map (fun r => if kblock * st.blk + r < st.k then v[r]? else none))

/-- The checksum operand of every row (R125): the residue of the sum of its finite operands over the columns. -/
def tileCheck (blk : Nat) (cols : List (List (Option ExactNum))) : List Nat :=
  (List.range blk).map (fun r =>
    (cols.map (fun c => match c.getD r none with | some w => rho w | none => 0)).sum % 65535)

/-- The elements of a wavefront (R111, R137, R140, R248), none where they are masked. -/
def State.waveElems (s : State) (h : Heat) (p : Package) (st : MatStroke) (x : Pass) (kblock row : Nat) (payload : Bytes) :
    List (Option ExactNum) :=
  let blk := if st.grouped then 32 else st.blk
  let v := unitValues st.fmtA blk payload
  (List.range blk).map (fun r =>
    let k := if st.grouped then kblock * st.n + x.n0 + r else kblock * st.blk + r
    let inK := if st.grouped then decide (x.n0 + r < st.n) else decide (k < st.k)
    let pad := match p.windowFor h.plan st.tdA with
      | some b => (s.windowElem h p b (x.m0 + row) k).isNone
      | none => false
    if inK && !pad then v[r]? else none)

/-- The pairs of a wavefront with a column. -/
def wavePairs (a : List (Option ExactNum)) (c : List (Option ExactNum)) : List (ExactNum × ExactNum) :=
  (a.zip c).filterMap (fun e => match e.1, e.2 with | some x, some w => some (x, w) | _, _ => none)

/-- The sum of the checksum column (R125). -/
def waveCheck (a : List (Option ExactNum)) (check : List Nat) : Nat :=
  ((a.zip check).map (fun e => match e.1 with | some x => rho x * e.2 | none => 0)).sum % 65535

/-- What a shell makes of a packet: it acts on it, holds it, or refuses it. -/
inductive ShellStep where
  | acted (s : State)
  | hold

/-- A weight packet at CK_SH cycle `t` (R114, R116). -/
def State.shellLoad (s : State) (crew p t : Nat) (x : HeldPacket) : ShellStep :=
  let i : Fin 2 := if x.packet.wset = 0 then 0 else 1
  if t < (s.shell crew p).freeAt[i] then .hold
  else
    match s.heatOf x.packet.serial with
    | none => .acted s
    | some (k, h) =>
      match s.heatPkg k, h.passOf x.packet.stroke x.pass with
      | some (_, pkg), some ps =>
        (match h.strokeOf pkg x.packet.stroke with
        | some b =>
          let st := matStroke b
          let cols := tileCols st ps x.kblock x.packet.payload
          let tile : Tile := ⟨x.packet.serial, x.packet.stroke, x.pass, x.kblock, cols,
            tileCheck (if st.grouped then 32 else st.blk) cols, t + 15⟩
          .acted (s.modShell crew p (fun q => { q with bufs := q.bufs.set i (some tile) }))
        | none => .acted s)
      | _, _ => .acted s

/-- The foot row of a pass: the one that holds its sums, or an empty one (R123). -/
def Shell.footRow (q : Shell) (row serial stroke pass : Nat) : FootRow :=
  match amGet? q.foot row with
  | some f =>
    if f.serial = serial ∧ f.stroke = stroke ∧ f.pass = pass then f
    else ⟨serial, stroke, pass, 0, List.replicate 32 FootEntry.zero⟩
  | none => ⟨serial, stroke, pass, 0, List.replicate 32 FootEntry.zero⟩

/-- A wavefront that has entered: the column sums, the checks of R125 and R126, and the addition into the foot (R112, R119,
R120). -/
def State.waveSum (s : State) (crew p k : Nat) (h : Heat) (pkg : Package) (st : MatStroke) (ps : Pass) (tile : Tile)
    (x : HeldPacket) : State :=
  let a := s.waveElems h pkg st ps x.kblock x.row x.packet.payload
  let sums := (List.range 32).map (fun c =>
    colSum st (wavePairs a (tile.cols.getD c [])) (match x.upset with | some (i, d) => if i = c then d else 0 | none => 0))
  let good := decide ((sums.map (·.res)).sum % 65535 = waveCheck a tile.check) && !x.rails
  let s1 := s.modShell crew p (fun q =>
    let f := q.footRow x.row x.packet.serial x.packet.stroke x.pass
    let f' : FootRow := { f with blocks := f.blocks + 1, cols := (f.cols.zip sums).map (fun e => e.1.add st e.2) }
    { q with foot := amInsert q.foot x.row f' })
  if good then s1 else s1.shellError crew p k 2 x.packet.stroke x.pass .SHELL_CHECK

/-- A wavefront at CK_SH cycle `t` (R111, R115, R116, R129). -/
def State.shellWave (s : State) (crew p t : Nat) (x : HeldPacket) : ShellStep :=
  let i : Fin 2 := if x.packet.wset = 0 then 0 else 1
  match s.heatOf x.packet.serial with
  | none => .acted s
  | some (k, h) =>
    if (s.shell crew p).refused.contains (x.packet.serial, x.packet.stroke) then .acted s
    else
      match (s.shell crew p).bufs[i] with
      | none => .acted (s.shellError crew p k 5 x.packet.stroke x.pass .SHELL_TAG)
      | some tile =>
        if t ≤ tile.loaded then .hold
        else if ¬(tile.serial = x.packet.serial ∧ tile.stroke = x.packet.stroke ∧ tile.pass = x.pass ∧ tile.kblock = x.kblock)
        then .acted (s.shellError crew p k 5 x.packet.stroke x.pass .SHELL_TAG)
        else
          match s.heatPkg k, h.passOf x.packet.stroke x.pass with
          | some (_, pkg), some ps =>
            (match h.strokeOf pkg x.packet.stroke with
            | some b =>
              let st := matStroke b
              .acted ((s.modShell crew p (fun q => { q with freeAt := q.freeAt.set i (t + 32 * st.interval + 8) })).waveSum
                crew p k h pkg st ps tile x)
            | none => .acted s)
          | _, _ => .acted s

/-- One packet at the head of a shell's input stage. -/
def State.shellTake (s : State) (crew p t : Nat) (x : HeldPacket) : ShellStep :=
  if x.tile then s.shellLoad crew p t x else s.shellWave crew p t x

/-- A packet arrives at a shell (R22, R116): it is checked first; it waits behind packets that are held. -/
def State.shellArrive (s : State) (crew p t : Nat) (x : HeldPacket) : State :=
  if !s.packetGood x.packet then s.packetError crew x.packet.serial x.packet.stroke x.pass
  else
    let hold (s : State) : State := s.modShell crew p (fun q => { q with held := q.held ++ [x] })
    if !(s.shell crew p).held.isEmpty then hold s
    else match s.shellTake crew p t x with
      | .acted s1 => s1
      | .hold => hold s

/-- The CK_SH cycle of a command: three to a CK_TS cycle (R15, R16), `sub` within it. -/
def State.shCycle (s : State) (sub : Fin 3) : Nat := s.now * 3 + sub.val

/-- WEIGHT_TILE_LOAD (R22, R114 to R116, R125). -/
def execWeightTileLoad (crew : Fin 6) (shell : Fin 68) (sub : Fin 3) (pass kblock : BitVec 32) (packet : Packet) (s : State) :
    Host.Outcome State Fault Refusal :=
  finish s (s.shellArrive crew shell (s.shCycle sub) ⟨true, pass.toNat, kblock.toNat, 0, packet, none, false⟩)

/-- WAVEFRONT_ENTER (R22, R111 to R116, R119, R120, R125 to R127, R129): `upset` is an error in a column's sum, `rails` a
difference of the flag rails. -/
def execWavefrontEnter (crew : Fin 6) (shell : Fin 68) (sub : Fin 3) (pass kblock : BitVec 32) (row : Fin 64) (packet : Packet)
    (upset : Option (Nat × Int)) (rails : Bool) (s : State) : Host.Outcome State Fault Refusal :=
  finish s (s.shellArrive crew shell (s.shCycle sub) ⟨false, pass.toNat, kblock.toNat, row.val, packet, upset, rails⟩)

/-- HELD_PACKET_RELEASE (R116): the oldest held packet acts once its step allows it. -/
def execHeldPacketRelease (crew : Fin 6) (shell : Fin 68) (sub : Fin 3) (s : State) : Host.Outcome State Fault Refusal :=
  match (s.shell crew shell).held with
  | [] => .next s
  | x :: r =>
    match s.shellTake crew shell (s.shCycle sub) x with
    | .acted s1 => finish s (s1.modShell crew shell (fun q => { q with held := r }))
    | .hold => .next s

/-- Does a pass with this K range end with partial output (R122)? -/
def Pass.isPartial (x : Pass) (st : MatStroke) : Bool := decide (x.kbs < st.blocks)

/-- ROW_READOUT (R91, R121, R122, R127 to R129): the row's residues are compared, and the row leaves as outputs or as
partials; `upset` is an error in a column's entry, `differ` a difference of the two readout stages. -/
def execRowReadout (crew : Fin 6) (shell : Fin 68) (row : Fin 64) (upset : Option (Fin 32 × Int)) (differ : Bool) (s : State) :
    Host.Outcome State Fault Refusal :=
  match amGet? (s.shell crew shell).foot row with
  | none => .next s
  | some f =>
    match s.heatOf f.serial with
    | none => settled (s.modShell crew shell (fun q => { q with foot := amErase q.foot row }))
    | some (k, h) =>
      match s.heatPkg k, h.passOf f.stroke f.pass with
      | some (_, pkg), some ps =>
        (match h.strokeOf pkg f.stroke with
        | none => .next s
        | some b =>
          let st := matStroke b
          if f.blocks ≠ ps.kbs then .next s
          else
            let bad (e : FootEntry) (c : Nat) : Bool :=
              let d : Int := match upset with | some (i, d) => if i.val = c then d else 0 | none => 0
              if st.isHalf then decide (d ≠ 0) else decide (rhoAt (e.acc.acc + d) st.anchor ≠ e.res)
            let cols := (List.range 32).map (fun c => f.cols.getD c FootEntry.zero)
            let s1 := s.modShell crew shell (fun q => { q with foot := amErase q.foot row })
            if (cols.zip (List.range 32)).any (fun e => bad e.1 e.2) then
              finish s (s1.shellError crew shell k 3 f.stroke f.pass .SHELL_FOOT)
            else if differ then finish s (s1.shellError crew shell k 4 f.stroke f.pass .SHELL_READOUT)
            else
              let fix (e : FootEntry) (c : Nat) : FootEntry :=
                match upset with
                | some (i, d) =>
                  if i.val = c ∧ !st.isHalf then ⟨⟨e.acc.acc + d, e.acc.nan, e.acc.pinf, e.acc.ninf⟩, e.res, e.half⟩ else e
                | none => e
              let cs := (cols.zip (List.range 32)).map (fun e => fix e.1 e.2)
              let s2 :=
                if ps.isPartial st then
                  s1.modHeat k (fun h => { h with partials := h.partials ++ [⟨f.stroke, f.pass, row, cs.map (·.word st)⟩] })
                else s1.readOut k st ((cs.zip (List.range 32)).map (fun e => (ps.m0 + row.val, ps.n0 + e.2, e.1)))
              let last := decide (row.val + 1 = ps.rows)
              finish s (if last then s2.passEnds k ps true else s2))
      | _, _ => .next s

/-! ### Fold passes and the scull -/

/-- The packet of a stroke of a heat that has arrived first over a link, and the others (R399). -/
def takeArrived (serial stroke : Nat) : List Bytes → Option (Packet × List Bytes)
  | [] => none
  | b :: r =>
    let p : Packet := ⟨BitVec.ofNat 192 (fieldAt b 0 24), b.drop 24, none⟩
    if p.serial = serial ∧ p.stroke = stroke then some (p, r)
    else (takeArrived serial stroke r).map (fun x => (x.1, b :: x.2))

/-- The words of row `row` of a partial source: the heat's own, or those of the next packet that another seat sent for it (R122,
R399; notes/assumptions/29.md): words, whether the packet was good, and the packets left. -/
def State.partialWords (s : State) (h : Heat) (st : MatStroke) (src : Nat × Nat) (row : Nat) (arrived : List Bytes) :
    List Bytes × Bool × List Bytes :=
  match h.partials.find? (fun x => x.stroke == src.1 && x.pass == src.2 && x.row == row) with
  | some x => (x.words, true, arrived)
  | none =>
    match takeArrived h.serial src.1 arrived with
    | some (p, r) => (chunksOf (if st.isHalf then 4 else 24) 64 p.payload, s.packetGood p, r)
    | none => ([], true, arrived)

/-- The combination of the partials of one column (R92, R94): the entry, and whether every word was good. -/
def foldWords (st : MatStroke) (ws : List Bytes) : FootEntry × Bool :=
  if st.isHalf then
    (⟨LongAcc.zero, 0, ws.foldl (fun (h : HalfStack) w => h.push (leNat w)) ⟨[], 0⟩⟩, true)
  else
    ws.foldl (fun (e : FootEntry × Bool) w =>
      match LongAcc.ofWord w with
      | some (a, _) => (⟨e.1.acc.join a, e.1.res, e.1.half⟩, e.2)
      | none => (e.1, false)) (FootEntry.zero, true)

/-- One row of a fold pass: the entries by column, whether all was good, and the packets left. -/
def State.foldRow (s : State) (h : Heat) (st : MatStroke) (x : Pass) (row : Nat) (arrived : List Bytes) :
    List FootEntry × Bool × List Bytes :=
  let (srcs, good, rest) := x.reads.foldl (fun (acc : List (List Bytes) × Bool × List Bytes) src =>
    let (w, g, r) := s.partialWords h st src row acc.2.2
    (acc.1 ++ [w], acc.2.1 && g, r)) ([], true, arrived)
  let cols := (List.range x.cols).map (fun c => foldWords st (srcs.map (fun w => w.getD c [])))
  (cols.map (·.1), good && cols.all (·.2), rest)

/-- A fold pass of heat `k` (R122, R132): combine, read out, or fail on a bad word. -/
def State.foldPass (s : State) (k crew : Nat) (h : Heat) (st : MatStroke) (x : Pass) : State :=
  let (l, good, rest) := (List.range x.rows).foldl
    (fun (acc : List (Nat × Nat × FootEntry) × Bool × List Bytes) r =>
      let (e, g, q) := s.foldRow h st x r acc.2.2
      (acc.1 ++ (e.zip (List.range x.cols)).map (fun y => (x.m0 + r, x.n0 + y.2, y.1)), acc.2.1 && g, q))
    ([], true, s.squad.arrived)
  let s1 := s.modSquad (fun q => { q with arrived := rest })
  if good then (s1.readOut k st l).passEnds k x true
  else s1.detected k 0x0B crew 0x3FF x.stroke x.num false .check (.crew crew)

/-- FOLD_PASS (R91, R92, R94, R122, R132): of a heat-table entry, a stroke and a pass; `differ` is a difference of the readout
stages of the unit. -/
def execFoldPass (k : Fin 64) (stroke pass : BitVec 32) (differ : Bool) (s : State) : Host.Outcome State Fault Refusal :=
  match s.heatPkg k with
  | none => .next s
  | some (h, p) =>
    match h.passOf stroke.toNat pass.toNat, h.strokeOf p stroke.toNat with
    | some x, some b =>
      let crew := h.crews.getD x.rank 0
      let phys := ((s.crew crew).shellMap).getD x.unitNo 0
      if ¬(strokeKind b ≤ 1 ∧ x.fold) then .next s
      else if differ then
        (if x.unitKind = 0 then finish s (s.shellError crew phys k 4 stroke.toNat pass.toNat .SHELL_READOUT)
        else finish s ((s.lintAt .SCULL_CHECK crew).detected k 6 crew 0x3FF stroke.toNat pass.toNat false .check (.scull crew)))
      else finish s (s.foldPass k crew h (matStroke b) x)
    | _, _ => .next s

/-- SCULL_PASS (R88, R104, R130 to R135): the outputs of the pass, formed directly; with an error the scull reports, nothing
is read out (R133). -/
def execScullPass (k : Fin 64) (stroke pass : BitVec 32) (error : Bool) (s : State) : Host.Outcome State Fault Refusal :=
  match s.heatPkg k with
  | none => .next s
  | some (h, p) =>
    match h.passOf stroke.toNat pass.toNat, h.strokeOf p stroke.toNat with
    | some x, some b =>
      let st := matStroke b
      let crew := h.crews.getD x.rank 0
      if ¬(strokeKind b ≤ 1 ∧ x.unitKind = 1 ∧ !x.fold) then .next s
      else if error then
        finish s ((s.lintAt .SCULL_CHECK crew).detected k 6 crew 0x3FF stroke.toNat pass.toNat false .check (.scull crew))
      else
        let out := (List.range x.rows).map (fun r => (List.range x.cols).map (fun c =>
          s.entry h p st (x.m0 + r) (x.n0 + c) x.kb0 x.kbs))
        let s1 :=
          if x.isPartial st then
            s.modHeat k (fun h => { h with partials := h.partials ++
              (out.zip (List.range x.rows)).map (fun e => ⟨stroke.toNat, pass.toNat, e.2, e.1.map (·.word st)⟩) })
          else s.readOut k st ((out.zip (List.range x.rows)).flatMap (fun e =>
            (e.1.zip (List.range x.cols)).map (fun y => (x.m0 + e.2, x.n0 + y.2, y.1))))
        finish s (s1.passEnds k x true)
    | _, _ => .next s

end Sys2Proof.Machine
end

