-- ==== Sys2Proof/Machine/Streams.lean ====
section
/-! DEFINITION. The memories' errors, LPDDR5 groups and their check bursts, catch-unit streams, the press, and the crop-and-resize engine (R154, R155, R172 to R178, R184 to R190, R259 to R270). -/

namespace Sys2Proof.Machine

open Sys2Proof

/-- Update the memories. -/
def State.modMem (s : State) (f : Mem → Mem) : State := { s with mem := f s.mem }

/-- Is the device powered and out of RESET? -/
def DevState.live : DevState → Bool
  | .off => false | .reset => false | _ => true

/-- The corrected and the uncorrectable counter of a memory (R198). -/
def memLints (m : Nat) : Lint × Lint :=
  match m with
  | 0 => (.SCR_CE, .SCR_UE)
  | 1 => (.LS_CE, .LS_UE)
  | 2 => (.CMN_CE, .CMN_UE)
  | 3 => (.OARMEM_CE, .OARMEM_UE)
  | _ => (.LPDDR_CE, .LPDDR_UE)

/-- An error that a read finds is counted and its place recorded (R155, R195). -/
def State.memError (s : State) (mem crew offset : Nat) (fatal : Bool) (n : Nat) : State :=
  let l := memLints mem
  (s.lintBy (if fatal then l.2 else l.1) 0 n).modMem (fun m =>
    { m with lastErr := pack [(4, mem), (4, crew), (1, b2n fatal), (7, 0), (48, offset)] })

/-- An uncorrectable error in data that a stroke reads: a detected error without a darn (R155, R564); no unit reported it, so none
is held to account (notes/assumptions/30.md). -/
def State.dataError (s : State) (k crew stroke pass : Nat) : State :=
  let serial := match amGet? s.cox.heats k with | some h => h.serial | none => 0
  let e : DetError := ⟨0x0A, crew, 0x3FF, stroke, pass, serial, s.cox.period, s.now, true, .check⟩
  (s.modHeat k (fun h => { h with errors := h.errors ++ [e] })).modSaf (fun f => { f with lastErr := some e })

/-- What an access of a stroke finds (R155). -/
def State.eccRead (s : State) (e : EccError) (k stroke pass : Nat) : State :=
  let s1 := s.memError e.mem e.crew e.offset.toNat e.fatal 1
  if e.fatal then s1.dataError k e.crew stroke pass else s1

/-! ### The code of LPDDR5 groups (R185, R186) -/

/-- Code positions of data bits in order: the positive integers that are not powers of two (R185). -/
def codePos : Nat → Nat → Nat
  | 0, p => p
  | n + 1, p => if 2 ^ Nat.log2 p = p then codePos n (p + 1) else p

/-- The positions P_0 to P_511, from the one at or after `p` on. -/
def codeList : Nat → Nat → List Nat
  | 0, _ => []
  | n + 1, p => let q := codePos 2 p; q :: codeList n (q + 1)

/-- The exclusive-OR of the positions of the set bits of a burst: its Hamming bits. -/
def hamFold (d : Nat) : List Nat → Nat → Nat → Nat
  | [], _, acc => acc
  | p :: r, j, acc => hamFold d r (j + 1) (if d.testBit j then acc ^^^ p else acc)

/-- HAM of a burst (R185). -/
def hamOf (d : Nat) : Nat := hamFold d (codeList 512 1) 0 0

/-- The parity of the low `n` bits. -/
def parityOf (d n : Nat) : Nat := (List.range n).foldl (fun a i => a ^^^ b2n (d.testBit i)) 0

/-- SLICE of a burst (R185). -/
def sliceOf (d : Nat) : Nat :=
  (List.range 512).foldl (fun a j => if d.testBit j then a ^^^ 2 ^ (j % 5) else a) 0

/-- The 16 check bits of a burst. -/
def checkOf (d : Nat) : Nat :=
  let h := hamOf d
  h + 1024 * ((parityOf d 512 + parityOf h 10) % 2) + 2048 * sliceOf d

/-- A burst after decoding: its data, whether it was corrected, whether it is uncorrectable (R186). -/
structure BurstOut where
  data : Nat
  fixed : Bool
  bad : Bool
deriving DecidableEq, Repr

/-- Decode a burst read as `d` with check bits `c` (R186). -/
def decodeBurst (d c : Nat) : BurstOut :=
  let syn := hamOf d ^^^ (c % 1024)
  let odd := (parityOf d 512 + parityOf c 11) % 2 = 1
  let r : BurstOut :=
    if syn = 0 then ⟨d, decide odd, false⟩
    else if syn ≤ 522 ∧ odd then
      match (codeList 512 1).findIdx? (· == syn) with
      | some j => ⟨d ^^^ 2 ^ j, true, false⟩
      | none => ⟨d, true, false⟩
    else ⟨d, false, true⟩
  if sliceOf r.data = c / 2048 then r else { r with fixed := false, bad := true }

/-- GTAG of a group (R185). -/
def gtag (g : Nat) : Nat := (g ^^^ (g >>> 16) ^^^ (g >>> 32)) % 65536

/-- Bits `lo` to `lo + n - 1` of a row, as the errors at bit positions `flips` change them. -/
def flipMask (flips : List Nat) (lo n : Nat) : Nat :=
  flips.foldl (fun a f => if lo ≤ f ∧ f < lo + n then a ^^^ 2 ^ (f - lo) else a) 0

/-- Decode a whole group with errors at bit positions of its row: its data, the corrected bursts, the uncorrectable bursts,
and whether the group tag fails (R186). -/
def decodeGroup (g : Nat) (data : Bytes) (flips : List Nat) : Bytes × Nat × Nat × Bool :=
  let bursts := (List.range 31).map (fun i =>
    let d := fieldAt data (64 * i) 64
    decodeBurst (d ^^^ flipMask flips (512 * i) 512) (checkOf d ^^^ flipMask flips (15872 + 16 * i) 16))
  let tagBad := decide (gtag g ^^^ flipMask flips (15872 + 496) 16 ≠ gtag g)
  (bursts.flatMap (fun b => leBytes 64 b.data), (bursts.filter (·.fixed)).length, (bursts.filter (·.bad)).length, tagBad)

/-- `MEM_LPDDR_SIZE` (R1, R195). -/
def State.lpddrSize (s : State) : Nat := if s.small then 0x0F80000000 else 0x1F00000000

/-- The groups of the part (R184). -/
def State.groups (s : State) : Nat := s.lpddrSize / 1984

/-- The stored data of a group. -/
def State.groupData (s : State) (g : Nat) : Bytes := memReadN s.mem.lpddr (1984 * g) 1984

/-- The bits of a group in error: those it holds and those that the read adds. -/
def State.groupFlips (s : State) (g : Nat) (new : List (BitVec 14)) : List Nat :=
  amGet s.mem.lpddrErr g [] ++ new.map BitVec.toNat

/-- A group is read (R186): what was decoded, the counters, and the bits that stay in error. -/
def State.readGroup (s : State) (g : Nat) (new : List (BitVec 14)) : State × Bytes × Bool × Bool :=
  let f := s.groupFlips g new
  let (d, fixed, bad, tag) := decodeGroup g (s.groupData g) f
  let s1 := s.modMem (fun m => { m with lpddrErr := if f.isEmpty then amErase m.lpddrErr g else amInsert m.lpddrErr g f })
  let s2 := if fixed = 0 then s1 else s1.memError 4 0 (1984 * g) false fixed
  let nbad := bad + b2n tag
  let s3 := if nbad = 0 then s2 else s2.memError 4 0 (1984 * g) true nbad
  (s3, d, decide (0 < fixed), decide (0 < nbad))

/-- A whole group is written: its bits hold no error any more (R177, R185). -/
def State.writeGroup (s : State) (g : Nat) (d : Bytes) : State :=
  s.modMem (fun m => { m with lpddr := memWriteN m.lpddr (1984 * g) (fit d 1984), lpddrErr := amErase m.lpddrErr g })

/-- REFRESH_SLOT (R188): the refresh commands keep what LPDDR5 holds. -/
def execRefreshSlot (_channel : Fin 32) (s : State) : Host.Outcome State Fault Refusal := .next s

/-- SCRUB_GROUP (R186, R190): a group that held a corrected error, and none that is uncorrectable, is written back. -/
def execScrubGroup (group : BitVec 32) (flips : List (BitVec 14)) (s : State) : Host.Outcome State Fault Refusal :=
  let g := group.toNat
  if !s.dev.state.live || s.num .MEM_SCRUB_PERIOD 0 == 0 || decide (s.groups ≤ g) then .next s
  else
    let (s1, d, fixed, bad) := s.readGroup g flips
    finish s (if fixed && !bad then s1.writeGroup g d else s1)

/-- LPDDR_GROUP_READ (R22, R155, R186, R189): for stroke `stroke` and pass `pass` of a heat-table entry, on crew `crew`; `bad` is a packet that fails R22 where it arrives. -/
def execLpddrGroupRead (group : BitVec 32) (flips : List (BitVec 14)) (k : Fin 64) (crew : Fin 6) (stroke pass : BitVec 32)
    (bad : Bool) (s : State) : Host.Outcome State Fault Refusal :=
  let g := group.toNat
  if !s.dev.state.live || decide (s.groups ≤ g) then .next s
  else
    let (s1, d, _, fatal) := s.readGroup g flips
    let s2 := s1.modMem (fun m => { m with hub := some (g, d) })
    if fatal then finish s (s2.dataError k crew stroke.toNat pass.toNat)
    else if bad then
      finish s (match amGet? s2.cox.heats k with
        | some h => s2.packetError crew h.serial stroke.toNat pass.toNat
        | none => s2)
    else finish s s2

/-- LPDDR_GROUP_WRITE (R177, R185, R189): new elements from byte `offset` of the group; the rest is what the group holds, read
in an earlier slot of the same grant and merged in the staging blocks. -/
def execLpddrGroupWrite (group : BitVec 32) (offset : Fin 1984) (data : Bytes) (s : State) : Host.Outcome State Fault Refusal :=
  let g := group.toNat
  if !s.dev.state.live || decide (s.groups ≤ g) then .next s
  else
    let (old, _, _, _) := decodeGroup g (s.groupData g) (amGet s.mem.lpddrErr g [])
    finish s (s.writeGroup g (fit (putBytes old offset.val data) 1984))

/-! ### Catch-unit streams -/

/-- The unit-side innermost extent of a stream (R173). -/
def StreamDesc.inner (st : StreamDesc) (t : TensorDesc) : Nat := (st.dims.getD ((st.order t).getD 0 0) ⟨0, 1, 0⟩).count

/-- STREAM_TRANSFER (R22, R155, R172 to R177): stream `sd` of a heat's package, for a stroke and pass of it on a crew. `data` are the
unit-side bytes that a WRITE takes; `ecc` is an error found in memory, `bad` a packet that fails R22. -/
def execStreamTransfer (k : Fin 64) (sd : BitVec 16) (crew : Fin 6) (stroke pass : BitVec 32) (data : Bytes)
    (ecc : Option EccError) (bad : Bool) (s : State) : Host.Outcome State Fault Refusal :=
  match s.heatPkg k with
  | none => .next s
  | some (h, p) =>
    let s1 := match ecc with | some e => s.eccRead e k stroke.toNat pass.toNat | none => s
    let fatal := match ecc with | some e => e.fatal | none => false
    if fatal then finish s s1
    else if bad then finish s (s1.packetError crew h.serial stroke.toNat pass.toNat)
    else
      match p.streams[sd.toNat]? with
      | none => finish s s1
      | some st =>
        match p.td st.td with
        | none => finish s s1
        | some t =>
          let e := st.inner t
          if (st.coords t).isEmpty then finish s s1
          else if st.write then
            let vs := unitValues st.fmtUnit e data
            let l := (st.coords t).map (fun c => c.map Int.toNat)
            finish s (s1.writeTensor k st.td st.sat (l.zip vs))
          else
            let out := unitBytes st.fmtUnit st.sat e (st.values t (s.tensor h p st.td))
            finish s (s1.modHeat k (fun h' => { h' with delivered := amInsert h'.delivered sd.toNat out }))

/-! ### The press -/

/-- Bits per element of a PRESS stroke (R259). -/
def pressRate (b : Bytes) : Nat := match dfield b 113 112 with | 1 => 4 | 2 => 6 | _ => 8

/-- The largest BF16 value not above a finite `x` (R261): the encoding; +0 where it is a zero. -/
def bf16Below (x : ExactNum) : Nat :=
  let r := bf16.encode true x
  let dn (v : Nat) : Nat := if v.testBit 15 then v + 1 else if v = 0 then 0x8001 else v - 1
  let v := if (bf16.decode r).le x then r else dn r
  if (bf16.decode v).isZero then 0 else v

/-- `(x - b) / 2^e` rounded to nearest, ties to even. -/
def pressQ (x b : ExactNum) (e : Int) : Int :=
  match x.add b.negate with
  | .fin s n d => if 0 ≤ e then rheRat s n (d * 2 ^ e.toNat) else rheRat s (n * 2 ^ (-e).toNat) d
  | _ => 0

/-- The least of values. -/
def numMin (l : List ExactNum) : ExactNum := l.foldl (fun a x => if x.lt a then x else a) (l.headD (.fin false 0 1))

/-- The greatest of values. -/
def numMax (l : List ExactNum) : ExactNum := l.foldl (fun a x => if a.lt x then x else a) (l.headD (.fin false 0 1))

/-- Is a value finite? -/
def ExactNum.finite : ExactNum → Bool
  | .fin _ _ _ => true | _ => false

/-- Encode a press block at rate `r` (R260, R261): its bytes, and whether it is a NaN block. -/
def pressEncode (r : Nat) (xs : List ExactNum) : Bytes × Bool :=
  let n := 4 + 4 * r
  if xs.any (fun x => !x.finite) then (packBytes n [(16, 0), (8, 127), (2, 1), (4, 1), (2, 0)], true)
  else
    let b := bf16Below (numMin xs)
    let base := bf16.decode b
    let hi := numMax xs
    let e : Int := (((List.range 254).map (fun (i : Nat) => (i : Int) - 126)).find? (fun e =>
      decide (pressQ hi base e ≤ (2 ^ r - 1 : Nat)))).getD 127
    let qs := (xs.map (fun x => (pressQ x base e).toNat)) ++ List.replicate (32 - xs.length) 0
    (packBytes n ([(16, b), (8, (e + 127).toNat), (2, 0), (4, 1), (2, 0)] ++ qs.map (fun q => (r, q))), false)

/-- The values that a press block decodes to in format `fmt` (R262). -/
def pressDecode (r fmt : Nat) (b : Bytes) : List ExactNum :=
  let v := leNat b
  let e : Int := (bits v 23 16 : Nat) - (127 : Int)
  (List.range 32).map (fun i =>
    if bits v 25 24 = 1 then elemValue fmt (elemStore fmt true 0 .nan)
    else
      let x := (bf16.decode (bits v 15 0)).add (.scaled false (bits v (32 + r * i + r - 1) (32 + r * i)) e)
      elemValue fmt (elemStore fmt true 0 (if x.isZero then .fin false 0 1 else x)))

/-- The coordinates of press block `j` of storage row `row` of a tensor (R260): rows counted over storage positions 1 to 3. -/
def TensorDesc.pressCoords (t : TensorDesc) (row j : Nat) : List (List Nat) :=
  let s1 := row % t.ext 1
  let s2 := row / t.ext 1 % t.ext 2
  let s3 := row / t.ext 1 / t.ext 2
  ((List.range 32).map (fun i => 32 * j + i)).filterMap (fun s0 =>
    if s0 < t.ext 0 then some (((([0, 0, 0, 0].set (t.at 0) s0).set (t.at 1) s1).set (t.at 2) s2).set (t.at 3) s3) else none)

/-- PRESS_ENCODE (R259 to R261): block `block` of storage row `row` of a PRESS stroke's input; the output element is what the
block decodes to, wherever the output is placed. The last block of a pass ends it. -/
def execPressEncode (k : Fin 64) (stroke pass row block : BitVec 32) (s : State) : Host.Outcome State Fault Refusal :=
  match s.heatPkg k with
  | none => .next s
  | some (h, p) =>
    match h.strokeOf p stroke.toNat with
    | none => .next s
    | some b =>
      let i := (oarInputs b).headD 0
      match p.td i with
      | none => .next s
      | some t =>
        let cs := t.pressCoords row.toNat block.toNat
        if ¬(strokeKind b = 3 ∧ oarOp b = 4) ∨ cs.isEmpty then .next s
        else
          let r := pressRate b
          let (e, nan) := pressEncode r (cs.map (t.get (s.tensor h p i)))
          let s1 := if nan then s.lint .PRESS_NAN else s
          let s2 : State := { s1 with units := { s1.units with pressBlocks := wrapAdd 64 s1.units.pressBlocks 1 } }
          let s3 := s2.writeTensor k (oarOut b) true (cs.zip (pressDecode r t.fmt e))
          match h.passOf stroke.toNat pass.toNat with
          | some x =>
            let last := decide (row.toNat + 1 = x.m0 + x.rows ∧ 32 * (block.toNat + 1) ≥ t.ext 0)
            finish s (if last then s3.passEnds k x false else s3)
          | none => finish s s3

/-- PRESS_DECODE (R262): a pressed block as it was stored, for a reader of a PRESS stroke's output; the decoded elements are
delivered in the tensor's format under stream number 0x10000. -/
def execPressDecode (k : Fin 64) (stroke : BitVec 32) (block : Bytes) (s : State) : Host.Outcome State Fault Refusal :=
  match s.heatPkg k with
  | none => .next s
  | some (h, p) =>
    match h.strokeOf p stroke.toNat with
    | none => .next s
    | some b =>
      let fmt := p.fmtOf (oarOut b)
      if ¬(strokeKind b = 3 ∧ oarOp b = 4) then .next s
      else
        let vs := pressDecode (pressRate b) fmt block
        finish s (s.modHeat k (fun h' => { h' with delivered := amInsert h'.delivered 0x10000 (unitBytes fmt true 32 vs) }))

/-! ### Crop and resize -/

/-- One box of a list (R266). -/
def readBox (b : Bytes) : Box :=
  let v := leNat (fit b 16)
  ⟨asInt 16 (bits v 15 0), asInt 16 (bits v 31 16), asInt 16 (bits v 47 32), asInt 16 (bits v 63 48), bits v 95 64,
    v.testBit 100, bits v 111 104, bits v 127 112⟩

/-- A box list from its tensor (R265, R266). -/
def readBoxes (b : Bytes) : BoxList :=
  let v := leNat (fit b 16)
  let n := min (bits v 18 8) 1024
  ⟨v.testBit 19, bits v 95 32, (List.range n).map (fun i => readBox (slice b (16 + 16 * i) 16))⟩

/-- The source coordinate of R268 for output position `j` of `out`, over [a, b). -/
def cropCoord (a b : Int) (out j : Nat) : Int :=
  let st := (b - a) * 65536 / (out : Int)
  65536 * a + st * (2 * (j : Int) + 1) / 2 - 32768

/-- A bilinear term with its weight, left out where the weight is zero (R269). -/
def cropTerm (w : Nat) (v : ExactNum) (acc : Option ExactNum) : Option ExactNum :=
  if w = 0 then acc
  else
    let x := v.mul (.fin false w 1)
    match acc with | some a => some (a.add x) | none => some x

/-- One output element of a box (R268, R269): `at_` gives the element at a clamped column and row. -/
def cropElem (st : CropStroke) (b : Box) (at_ : Int → Int → ExactNum) (i j : Nat) : ExactNum :=
  let sx := cropCoord b.x0 b.x1 st.outW j
  let sy := cropCoord b.y0 b.y1 st.outH i
  if st.mode = 1 then at_ ((sx + 32768) / 65536) ((sy + 32768) / 65536)
  else
    let ix := sx / 65536
    let iy := sy / 65536
    let fx := (sx % 65536).toNat
    let fy := (sy % 65536).toNat
    let r := cropTerm (fx * fy) (at_ (ix + 1) (iy + 1))
      (cropTerm ((65536 - fx) * fy) (at_ ix (iy + 1))
        (cropTerm (fx * (65536 - fy)) (at_ (ix + 1) iy) (cropTerm ((65536 - fx) * (65536 - fy)) (at_ ix iy) none)))
    match r with
    | some (.fin s n d) => .fin s n (d * 2 ^ 32)
    | some x => x
    | none => .fin false 0 1

/-- The element of a CROP stroke's inputs at a column, row and channel with the clamping of R269: rows of SWATH inputs count from
the first swath line, the seam rows lying above. -/
def cropAt (ov : Nat) (ins : List (TensorDesc × Bytes)) (c : Nat) (x y : Int) : ExactNum :=
  match ins with
  | [] => .fin false 0 1
  | (t, _) :: _ =>
    let col := (clampInt x 0 ((t.mapW : Int) - 1)).toNat
    let row := (clampInt (y + ov) 0 ((t.mapH : Int) - 1)).toNat
    mapsAt ins row col c

/-- CROP_CUT (R264 to R270): the box slots of a pass. -/
def execCropCut (k : Fin 64) (stroke pass : BitVec 32) (s : State) : Host.Outcome State Fault Refusal :=
  match s.heatPkg k with
  | none => .next s
  | some (h, p) =>
    match h.passOf stroke.toNat pass.toNat, h.strokeOf p stroke.toNat with
    | some x, some b =>
      if ¬(strokeKind b = 3 ∧ oarOp b = 3) then .next s
      else
        let st := cropStroke b
        let list : BoxList :=
          if st.tdBox = 0xFFFF then
            (match (h.req.swath.bind (fun q => s.swath? q.1 q.2)).bind (·.roi) with | some r => r | none => ⟨false, 0, []⟩)
          else readBoxes (s.tensor h p st.tdBox)
        let ins := s.inputMaps h p b
        let swath := match (oarInputs b).head?.bind p.td with | some t => decide (t.kind = 1) | none => false
        let ov := match swath, h.req.swath with | true, some (port, _) => s.num .CAM_OVERLAP port | _, _ => 0
        let slots := ((List.range x.rows).map (· + x.m0)).filter (· < st.maxBox)
        let boxes := list.boxes.take st.maxBox
        let empty (q : Box) : Bool := decide (q.x1 ≤ q.x0 ∨ q.y1 ≤ q.y0)
        let elems := slots.flatMap (fun q => (List.range st.outH).flatMap (fun i => (List.range st.outW).flatMap (fun j =>
          (List.range (mapsC ins)).map (fun c =>
            ([q, i, j, c], match boxes[q]? with
              | some bx => if empty bx then ExactNum.fin false 0 1 else cropElem st bx (cropAt ov ins c) i j
              | none => .fin false 0 1)))))
        let cut := slots.filterMap (fun q => boxes[q]?)
        let s1 := (s.writeTensor k (oarOut b) true elems).lintBy .CROP_EMPTY 0 (cut.filter empty).length
        let s2 : State := { s1 with units := { s1.units with cropSlots := wrapAdd 64 s1.units.cropSlots cut.length } }
        finish s (s2.passEnds k x false)
    | _, _ => .next s

end Sys2Proof.Machine
end

