-- ==== Sys2Proof/Machine/Sweep.lean ====
section
/-! DEFINITION. The sweep: attention over the pages of the key-value cache (R107, R289 to R301, R336, R338). -/

namespace Sys2Proof.Machine

open Sys2Proof

/-! ### Base-2 exponentials, subtraction and division -/

/-- One bit of an integer square root: `r` is the root so far, `b` the place tried. -/
def sqrtStep (n r b : Nat) : Nat := if (r + b) * (r + b) ≤ n then r + b else r

/-- The integer square root of `n` below `2^k`. -/
def isqrt (n : Nat) : Nat → Nat → Nat
  | 0, r => r
  | k + 1, r => isqrt n k (sqrtStep n r (2 ^ k))

/-- The fraction bits with which 2^x is formed. No FP32 argument brings 2^x closer than 2^-60 to a value midway between two
encodings unless 2^x is itself a power of two with an integer exponent (notes/assumptions/31.md). -/
def expBits : Nat := 128

/-- The product of the roots 2^(2^-i) over the set bits of a fraction `fr` of `n` bits, from its top bit down, in units of 2^-128. -/
def expFrac (fr : Nat) : Nat → Nat → Nat → Nat
  | 0, _, acc => acc
  | n + 1, root, acc =>
    let r := isqrt (root * 2 ^ expBits) 130 0
    expFrac fr n r (if fr.testBit n then acc * r / 2 ^ expBits else acc)

/-- 2^x of an FP32 value, to be rounded once where it is used (R100, R294, R295). Where |x| < 2^-30, 2^x rounds to 1 in every
format; below -200 it rounds to +0, above 200 to +∞. -/
def exp2 (x : ExactNum) : ExactNum :=
  match x with
  | .nan => .nan
  | .inf s => if s then .fin false 0 1 else .inf false
  | .fin s n d =>
    if n * 2 ^ 30 < d then .fin false 1 1
    else if 200 * d < n then (if s then .fin false 0 1 else .inf false)
    else
      let fl : Int := signedNum s n / (d : Int)
      let fr := ((signedNum s n - fl * d) * (2 ^ 64 : Nat) / (d : Int)).toNat
      let m := expFrac fr 64 (2 * 2 ^ expBits) (2 ^ expBits)
      .scaled false m (fl - expBits)

/-- FP32 subtraction (R294, R296). -/
def fsub32 (a b : Nat) : Nat := fp32.encode false ((fp32.decode a).add (fp32.decode b).negate)

/-- Exact division with the IEEE 754 rules. -/
def ExactNum.div : ExactNum → ExactNum → ExactNum
  | .nan, _ => .nan
  | _, .nan => .nan
  | .inf _, .inf _ => .nan
  | .inf s, .fin t _ _ => .inf (s != t)
  | .fin s _ _, .inf t => .fin (s != t) 0 1
  | .fin s n d, .fin t m e =>
    if m = 0 then (if n = 0 then .nan else .inf (s != t)) else .fin (s != t) (n * e) (d * m)

/-- FP32 division (R296). -/
def fdiv32 (a b : Nat) : Nat := fp32.encode false ((fp32.decode a).div (fp32.decode b))

/-- 2^x of an FP32 encoding, rounded to FP32 (R295). -/
def exp2r (a : Nat) : Nat := fp32.encode false (exp2 (fp32.decode a))

/-! ### Entries, nodes and roots -/

/-- The format in which a key enters the sweep (R107). -/
def keyFmt (fmtQ fmtK : Nat) : Nat :=
  match fmtClass fmtQ with
  | .half => if isZb fmtK then 5 else if fmtK = 5 ∨ fmtK = 6 then fmtK else fmtQ
  | .f8 => if fmtK = 2 then fmtQ else fmtK
  | .block => if fmtK = 0 then 8 else if fmtK = 2 then 10 else fmtK
  | _ => fmtK

/-- The score of a query against a key (R293), as FP32. -/
def score (st : SweepStroke) (fmtK : Nat) (q key : List ExactNum) : Nat :=
  let r : ReadParam := ⟨0, st.scale, 0⟩
  let lo := fp32.sign true + fp32.infEnc
  let hi := fp32.infEnc
  let ps := q.zip key
  fp32.encode false (match fmtClass st.fmtQ with
    | .half => readHalf (halfRoot ((chunksOf 32 (ps.length + 1) ps).map (fun c => leaf (c.map (fun e => e.1.mul e.2))))) r lo hi
    | c =>
      let g1 := grain st.fmtQ
      let g2 := grain (keyFmt st.fmtQ fmtK)
      let a := ps.foldl (fun a e => a.mac g1 g2 e.1 e.2) LongAcc.zero
      readExact (decide (c = .integer)) (a.value (g1 + g2)) r lo hi)

/-- A row's view of one entry: its state, and the weights of its visible slots in BF16 (slot, π) (R294). -/
structure EntryView where
  state : AttState
  weights : List (Nat × Nat)
deriving DecidableEq, Repr

/-- A view without a visible slot. -/
def EntryView.empty : EntryView := ⟨.empty, []⟩

/-- The largest of FP32 encodings. -/
def maxEnc32 (l : List Nat) : Nat :=
  l.foldl (fun a x => if (fp32.decode a).lt (fp32.decode x) then x else a) (l.headD 0)

/-- The state of an entry from the scores and value rows of its visible slots (slot, score, values) (R294). -/
def entryState (d : Nat) (vis : List (Nat × Nat × List ExactNum)) : EntryView :=
  if vis.isEmpty then EntryView.empty
  else if vis.any (fun e => decide (fp32.decode e.2.1 = .nan) || decide (fp32.decode e.2.1 = .inf false)) then ⟨.nan, []⟩
  else
    let m := maxEnc32 (vis.map (fun e => e.2.1))
    if fp32.decode m = .inf true then EntryView.empty
    else
      let w := vis.map (fun e => (e.1, bf16.encode false (exp2 (fp32.decode (fsub32 e.2.1 m))), e.2.2))
      let l := fp32.encode false ((w.map (fun e => bf16.decode e.2.1)).foldl ExactNum.add (.fin false 0 1))
      let o := (List.range d).map (fun c =>
        halfRoot ((List.range 8).map (fun g =>
          leaf ((w.filter (fun e => e.1 / 32 == g)).map (fun e => (bf16.decode e.2.1).mul (e.2.2.getD c (.fin false 0 1)))))))
      if o.any (fun x => decide (fp32.decode x = .nan)) then ⟨.nan, []⟩
      else ⟨.fin m l o, w.map (fun e => (e.1, e.2.1))⟩

/-- Two states combine (R295). -/
def AttState.join : AttState → AttState → AttState
  | .empty, b => b
  | a, .empty => a
  | .nan, _ => .nan
  | _, .nan => .nan
  | .fin ma la oa, .fin mb lb ob =>
    let mx := if (fp32.decode ma).lt (fp32.decode mb) then mb else ma
    let al := exp2r (fsub32 ma mx)
    let be := exp2r (fsub32 mb mx)
    .fin mx (fadd32 (fmul32 la al) (fmul32 lb be))
      ((oa.zip ob).map (fun e => fadd32 (fmul32 e.1 al) (fmul32 e.2 be)))

/-- Close the completed pairs of a stack of states that `c` leaves end: the tree of R94 with C in place of fadd32. -/
def joinPairs : Nat → Nat → List AttState → List AttState
  | 0, _, s => s
  | n + 1, c, s =>
    if c % 2 = 1 then s
    else match s with
      | r :: l :: t => joinPairs n (c / 2) (l.join r :: t)
      | s => s

/-- The node over a list of states in order (R94, R295). -/
def joinTree (l : List AttState) : AttState :=
  let (s, _) := l.foldl (fun (acc : List AttState × Nat) x =>
    let c := acc.2 + 1
    (joinPairs (Nat.log2 c + 1) c (x :: acc.1), c)) ([], 0)
  match s with
  | [] => .empty
  | r :: t => t.foldl (fun r l => l.join r) r

/-- The output of a row and head from its root (R296), before it is stored. -/
def AttState.out (d : Nat) : AttState → List ExactNum
  | .empty => List.replicate d (.fin false 0 1)
  | .nan => List.replicate d .nan
  | .fin _ l o => o.map (fun x => fp32.decode (fdiv32 x l))

/-- The word of a node that leaves its crew, with its values (R338). -/
def AttState.word (lo size : Nat) (a : AttState) : Bytes :=
  let f (k m l : Nat) : Bytes := packBytes 16 [(2, k), (4, 1), (26, 0), (32, m), (32, l), (16, lo), (16, Nat.log2 size)]
  match a with
  | .empty => f 1 0 0
  | .nan => f 2 0 0
  | .fin m l o => f 0 m l ++ o.flatMap (leBytes 4)

/-- A received node word of `d` values: none where its VERSION or KIND is not good (R338). -/
def AttState.ofWord (d : Nat) (b : Bytes) : Option (AttState × Bytes) :=
  let v := leNat (fit b 16)
  if bits v 5 2 ≠ 1 then none
  else match bits v 1 0 with
    | 0 => some (.fin (bits v 63 32) (bits v 95 64) ((List.range d).map (fun c => fieldAt b (16 + 4 * c) 4)), b.drop (16 + 4 * d))
    | 1 => some (.empty, b.drop 16)
    | 2 => some (.nan, b.drop 16)
    | _ => none

/-! ### The cache -/

/-- The page manager of a partition. -/
def State.kvPart (s : State) (p : Nat) : KvPart := match toFin? 8 p with | some i => s.kv[i] | none => KvPart.init

/-- Update the page manager of a partition. -/
def State.modKv (s : State) (p : Nat) (f : KvPart → KvPart) : State :=
  match toFin? 8 p with | some i => { s with kv := s.kv.set i (f s.kv[i]) } | none => s

/-- Update a page. -/
def KvPart.modPage (k : KvPart) (n : Nat) (f : KvPage → KvPage) : KvPart :=
  match amGet? k.pages n with | some g => { k with pages := amInsert k.pages n (f g) } | none => k

/-- The key of a key row (`value` 0) or value row (1) of a page. -/
def rowKey (layer head value slot : Nat) : Nat := ((layer * 64 + head) * 2 + value) * 256 + slot

/-- The seats that run a plan and the own place among them (R336): the members of a formed squad, else the device alone. -/
def State.spreadPlace (s : State) : Nat × Nat :=
  if s.squad.state = .formed then
    let l := (List.range 32).filter s.squad.members.testBit
    (l.length, (l.findIdx? (· == s.seat)).getD 0)
  else (1, 0)

/-- Does this seat hold head `h` of entry `j` (R336)? -/
def State.holdsEntry (s : State) (st : SweepStroke) (h j : Nat) : Bool :=
  let (n, i) := s.spreadPlace
  match st.spread with
  | 1 => decide (i * st.hkv / n ≤ h) && decide (h < (i + 1) * st.hkv / n)
  | 2 => j / 2 ^ st.blkLog2 % n == i
  | _ => true

/-- The copies of pages that a step lists run before its first append (R311). -/
def KvPart.runCopies (k : KvPart) : KvPart :=
  let k1 := k.copies.foldl (fun (k : KvPart) (e : Nat × Nat) =>
    match amGet? k.pages e.1 with
    | some src =>
      (k.modPage e.2 (fun (g : KvPage) => { g with slots := src.slots, rows := src.rows })).modPage e.1
        (fun g => { g with pin := g.pin - 1 })
    | none => k) k
  { k1 with copies := [] }

/-- The values of columns `c0` to `c0 + d - 1` of row `i` of a step's tensor. -/
def rowValues (t : TensorDesc) (b : Bytes) (i c0 d : Nat) : List ExactNum :=
  (List.range d).map (fun c => t.get b [i, c0 + c, 0, 0])

/-- The append of one row of the step (R300): keys and values of every head held here, and with layer 0 the slot's entry. -/
def KvPart.append (k : KvPart) (st : SweepStroke) (kv : TensorDesc) (holds : Nat → Nat → Bool) (keys values : Nat → List ExactNum)
    (r : KvRow) : KvPart :=
  match amGet? k.seqs r.slot with
  | none => k
  | some q =>
    match q.pages.getD (r.pos / 256) none with
    | none => k
    | some n =>
      let slot := r.pos % 256
      let d := kv.dims.getD 2 1
      let put (l : List ExactNum) : Bytes := unitBytes kv.fmt true d l
      k.modPage n (fun g =>
        let rows := (List.range st.hkv).foldl (fun (m : AMap Bytes) h =>
          if holds h (r.pos / 256) then
            amInsert (amInsert m (rowKey st.layer h 0 slot) (put (keys h))) (rowKey st.layer h 1 slot) (put (values h))
          else m) g.rows
        { g with
          rows := rows
          slots := if st.layer = 0 then amInsert g.slots slot ⟨r.pos, r.token, 0, 0⟩ else g.slots })

/-- The first pass of a SWEEP stroke appends the keys and values of the step's rows (R300, R311), and the outputs of the unused rows
are +0 (R291). -/
def State.sweepAppend (s : State) (k : Nat) (h : Heat) (p : Package) (stroke : Nat) (st : SweepStroke) : State :=
  if h.appended.contains stroke then s
  else
    match p.td st.tdK, p.td st.tdV, p.td st.tdKv, p.td st.tdOut with
    | some tk, some tv, some kv, some out =>
      let d := kv.dims.getD 2 1
      let bk := s.tensor h p st.tdK
      let bv := s.tensor h p st.tdV
      let rows := (s.kvPart h.req.partition).rows
      let used := (rows.zip (List.range rows.length)).filter (fun e => decide (e.1.kind ≠ 0))
      let s1 := s.modKv h.req.partition (fun kp =>
        used.foldl (fun (kp : KvPart) e =>
          kp.append st kv (s.holdsEntry st) (fun hd => rowValues tk bk e.2 (hd * d) d) (fun hd => rowValues tv bv e.2 (hd * d) d) e.1)
          kp.runCopies)
      let idle := (List.range (out.dims.getD 0 0)).filter (fun i => !used.any (fun e => e.2 == i))
      let s2 := s1.writeTensor k st.tdOut st.sat
        (idle.flatMap (fun i => (List.range (out.dims.getD 1 0)).map (fun c => ([i, c, 0, 0], .fin false 0 1))))
      s2.modHeat k (fun h => { h with appended := stroke :: h.appended })
    | _, _, _, _ => s

/-! ### Passes -/

/-- The view that query head `hq` of step row `i` has of entry `j` of its sequence (R292 to R294). -/
def State.entryView (s : State) (h : Heat) (p : Package) (st : SweepStroke) (i hq j : Nat) : EntryView :=
  let kp := s.kvPart h.req.partition
  match kp.rows[i]?, p.td st.tdKv, p.td st.tdQ with
  | some r, some kv, some tq =>
    (match amGet? kp.seqs r.slot with
    | none => EntryView.empty
    | some q =>
      match (q.pages.getD j none).bind (amGet? kp.pages) with
      | none => EntryView.empty
      | some g =>
        let d := kv.dims.getD 2 1
        let hk := hq / (st.hq / st.hkv)
        let row (value slot : Nat) : List ExactNum := (unitValues kv.fmt d (amGet g.rows (rowKey st.layer hk value slot) [])).take d
        let qv := convertTo tq.fmt st.fmtQ st.sat (rowValues tq (s.tensor h p st.tdQ) i (hq * d) d)
        let vis := g.slots.filter (fun e => decide (e.2.pos ≤ r.pos))
        entryState d (vis.map (fun e => (e.1, score st kv.fmt qv (row 0 e.1), row 1 e.1))))
  | _, _, _ => EntryView.empty

/-- The step rows and query heads of a pass (R298): the rows of its sequence in its range. -/
def State.passRows (s : State) (h : Heat) (st : SweepStroke) (x : Pass) : List (Nat × Nat) :=
  let rows := (s.kvPart h.req.partition).rows
  let g := st.hq / st.hkv
  ((List.range x.rows).map (· + x.m0)).flatMap (fun i =>
    match rows[i]? with
    | some r => if r.kind ≠ 0 ∧ r.slot = x.seq then (List.range g).map (fun q => (i, x.head * g + q)) else []
    | none => [])

/-- The state of a row and head over the entries of a pass (R294, R295): entries 0 to nb − 1 alone take part. -/
def State.nodeState (s : State) (h : Heat) (p : Package) (st : SweepStroke) (x : Pass) (i hq : Nat) : AttState :=
  let nb := match (s.kvPart h.req.partition).rows[i]? with | some r => r.pos / 256 + 1 | none => 0
  joinTree ((((List.range x.kbs).map (· + x.kb0)).filter (· < nb)).map (fun j => (s.entryView h p st i hq j).state))

/-- Is the result of a pass read by a fold of the image (R298)? -/
def Image.foldReads (g : Image) (x : Pass) : Bool :=
  g.passes.any (fun f => f.fold && f.reads.contains (x.stroke, x.num))

/-- Keep the states of a pass, in place of those of an earlier run. -/
def Heat.setNodes (h : Heat) (x : Pass) (l : List AttNode) : Heat :=
  { h with nodes := h.nodes.filter (fun n => !(n.stroke == x.stroke && n.pass == x.num)) ++ l }

/-- The states of a pass are final or go to a fold (R295, R296). -/
def State.sweepOut (s : State) (k : Nat) (h : Heat) (p : Package) (st : SweepStroke) (x : Pass) (l : List AttNode) : State :=
  let s1 := s.modHeat k (fun h => h.setNodes x l)
  if h.image.foldReads x then s1
  else
    let d := match p.td st.tdKv with | some t => t.dims.getD 2 1 | none => 1
    s1.writeTensor k st.tdOut st.sat (l.flatMap (fun n =>
      ((n.state.out d).zip (List.range d)).map (fun e => ([n.row, n.head * d + e.2, 0, 0], e.1))))

/-- The states of one source of a fold for its rows and heads: the heat's own, or the words of the next packet that another
seat sent for the stroke (R338; notes/assumptions/29.md): the states, whether all words were good, and the packets left. -/
def State.foldSource (s : State) (h : Heat) (d : Nat) (src : Nat × Nat) (rh : List (Nat × Nat)) (arrived : List Bytes) :
    List AttState × Bool × List Bytes :=
  let own := rh.map (fun e => h.nodes.find? (fun n => n.stroke == src.1 && n.pass == src.2 && n.row == e.1 && n.head == e.2))
  if own.all Option.isSome then (own.map (fun n => match n with | some n => n.state | none => .empty), true, arrived)
  else
    match takeArrived h.serial src.1 arrived with
    | none => (rh.map (fun _ => .empty), true, arrived)
    | some (pk, rest) =>
      let (l, good, _) := rh.foldl (fun (acc : List AttState × Bool × Bytes) _ =>
        match AttState.ofWord d acc.2.2 with
        | some (a, r) => (acc.1 ++ [a], acc.2.1, r)
        | none => (acc.1 ++ [.nan], false, [])) ([], s.packetGood pk, pk.payload)
      (l, good, rest)

/-- A fold of node states on the sweep (R298, R338). -/
def State.sweepFold (s : State) (k crew : Nat) (h : Heat) (p : Package) (st : SweepStroke) (x : Pass) : State :=
  let d := match p.td st.tdKv with | some t => t.dims.getD 2 1 | none => 1
  let rh := s.passRows h st x
  let (srcs, good, rest) := x.reads.foldl (fun (acc : List (List AttState) × Bool × List Bytes) src =>
    let (l, g, r) := s.foldSource h d src rh acc.2.2
    (acc.1 ++ [l], acc.2.1 && g, r)) ([], true, s.squad.arrived)
  let s1 := s.modSquad (fun q => { q with arrived := rest })
  if good then
    let l := (rh.zip (List.range rh.length)).map (fun e =>
      (⟨x.stroke, x.num, e.1.1, e.1.2, joinTree (srcs.map (fun q => q.getD e.2 .empty))⟩ : AttNode))
    (s1.sweepOut k h p st x l).passEnds k x false
  else s1.detected k 0x0B crew 0x3FF x.stroke x.num false .check (.sweep crew)

/-- SWEEP_PASS (R289 to R301, R336, R338): a pass of a SWEEP stroke; with an error that the sweep's checks find, nothing is
written (R301). -/
def execSweepPass (k : Fin 64) (stroke pass : BitVec 32) (error : Bool) (s : State) : Host.Outcome State Fault Refusal :=
  match s.heatPkg k with
  | none => .next s
  | some (h, p) =>
    match h.passOf stroke.toNat pass.toNat, h.strokeOf p stroke.toNat with
    | some x, some b =>
      if strokeKind b ≠ 2 then .next s
      else
        let st := sweepStroke b
        let crew := h.crews.getD x.rank 0
        let s1 := s.sweepAppend k h p stroke.toNat st
        if error then
          finish s ((s1.lint .SWEEP_CHECK).detected k 7 crew 0x3FF stroke.toNat pass.toNat false .check (.sweep crew))
        else if x.fold then finish s (s1.sweepFold k crew h p st x)
        else
          let l := (s1.passRows h st x).map (fun e =>
            (⟨x.stroke, x.num, e.1, e.2, s1.nodeState h p st x e.1 e.2⟩ : AttNode))
          finish s ((s1.sweepOut k h p st x l).passEnds k x false)
    | _, _ => .next s

/-- The masses of one root (R297): added to the slots of the entries its row reads. -/
def State.rootMasses (s : State) (h : Heat) (p : Package) (st : SweepStroke) (n : AttNode) : State :=
  match n.state with
  | .fin mx lx _ =>
    (match (s.kvPart h.req.partition).rows[n.row]? with
    | none => s
    | some r =>
      match amGet? (s.kvPart h.req.partition).seqs r.slot with
      | none => s
      | some q =>
        s.each (List.range (r.pos / 256 + 1)) (fun s j =>
          match q.pages.getD j none with
          | none => s
          | some pg =>
            let v := s.entryView h p st n.row n.head j
            match v.state with
            | .fin mj _ _ =>
              let f := exp2r (fsub32 mj mx)
              s.modKv h.req.partition (fun kp => kp.modPage pg (fun g =>
                { g with slots := v.weights.foldl (fun (m : AMap KvSlot) e =>
                    match amGet? m e.1 with
                    | some sl =>
                      let mu := fdiv32 (fmul32 (e.2 * 65536) f) lx
                      let add := match fp32.decode mu with | .fin _ a b => rheNat (a * 2 ^ 32) b | _ => 0
                      amInsert m e.1 { sl with mass := sl.mass + add }
                    | none => m) g.slots }))
            | _ => s))
  | _ => s

/-- A complete SWEEP stroke with MASS 1 adds the masses of its roots (R297). -/
def State.strokeMasses (s : State) (h : Heat) (p : Package) (stroke : Nat) : State :=
  match h.strokeOf p stroke with
  | some b =>
    let st := sweepStroke b
    if strokeKind b = 2 && st.mass then
      s.each (h.nodes.filter (fun n => n.stroke == stroke &&
        (match h.passOf n.stroke n.pass with | some x => !h.image.foldReads x | none => false)))
        (fun s n => s.rootMasses h p st n)
    else s
  | none => s

end Sys2Proof.Machine
end

