-- ==== Sys2Proof/Machine/OarIsa.lean ====
section
/-! DEFINITION. The instructions of an oar: RV32IMFC as the published RISC-V standard gives it (notes/assumptions/32.md) with the limits of R274, the sliver extension of R276, and what an instruction does to the registers. -/

namespace Sys2Proof.Machine

open Sys2Proof

/-- What an instruction is, by the command that executes it. -/
inductive OarKind where
  | base | loadStore | slvGet | slvPut | slvSend | slvRecv | slvBar | pminu | pmaxu | paddus | psubus | pcmpgeu | psad
  | fcvtSBf | fcvtBfS | fcvtSHf | fcvtHfS | frmWrite | ecall | ebreak | illegal
deriving DecidableEq, Repr

/-! ### Fields -/

/-- Fields of a 32-bit instruction. -/
def opOf (w : Nat) : Nat := bits w 6 0
def rdOf (w : Nat) : Nat := bits w 11 7
def f3Of (w : Nat) : Nat := bits w 14 12
def rs1Of (w : Nat) : Nat := bits w 19 15
def rs2Of (w : Nat) : Nat := bits w 24 20
def f7Of (w : Nat) : Nat := bits w 31 25
def csrOf (w : Nat) : Nat := bits w 31 20

/-- The immediates, as 32-bit values. -/
def sext (w v : Nat) : Nat := ofInt 32 (asInt w v)
def immI (w : Nat) : Nat := sext 12 (bits w 31 20)
def immS (w : Nat) : Nat := sext 12 (bits w 31 25 * 32 + bits w 11 7)
def immB (w : Nat) : Nat :=
  sext 13 (bits w 31 31 * 4096 + bits w 7 7 * 2048 + bits w 30 25 * 32 + bits w 11 8 * 2)
def immU (w : Nat) : Nat := bits w 31 12 * 4096
def immJ (w : Nat) : Nat :=
  sext 21 (bits w 31 31 * 1048576 + bits w 19 12 * 4096 + bits w 20 20 * 2048 + bits w 30 21 * 2)

/-- The static rounding modes that are legal: RNE and DYN (R274). -/
def rmOk (w : Nat) : Bool := f3Of w == 0 || f3Of w == 7

/-- The sliver CSRs (R275). -/
def slvCsr (c : Nat) : Bool :=
  (decide (0xCC0 ≤ c) && decide (c ≤ 0xCC8)) || (decide (0xCD0 ≤ c) && decide (c ≤ 0xCD5)) ||
    (decide (0xCD8 ≤ c) && decide (c ≤ 0xCDD))

/-- Does a CSR instruction write? -/
def csrWrites (w : Nat) : Bool := f3Of w % 4 == 1 || rs1Of w != 0

/-- The kind of a CSR instruction (R274, R275). -/
def csrKind (w : Nat) : OarKind :=
  let c := csrOf w
  if c = 1 then .base
  else if c = 2 ∨ c = 3 then (if csrWrites w then .frmWrite else .base)
  else if c = 0xC02 ∨ c = 0xC82 ∨ slvCsr c then (if csrWrites w then .illegal else .base)
  else .illegal

/-- The kind of a floating-point instruction of opcode 0x53. -/
def fpKind (w : Nat) : OarKind :=
  let ok (b : Bool) : OarKind := if b then .base else .illegal
  match f7Of w with
  | 0x00 | 0x04 | 0x08 | 0x0C => ok (rmOk w)
  | 0x2C => ok (rmOk w && rs2Of w == 0)
  | 0x10 => ok (decide (f3Of w ≤ 2))
  | 0x14 => ok (decide (f3Of w ≤ 1))
  | 0x50 => ok (decide (f3Of w ≤ 2))
  | 0x60 | 0x68 => ok (rmOk w && decide (rs2Of w ≤ 1))
  | 0x70 => ok (rs2Of w == 0 && decide (f3Of w ≤ 1))
  | 0x78 => ok (rs2Of w == 0 && f3Of w == 0)
  | _ => .illegal

/-- The kind of an instruction of custom-0 (R276). -/
def slvKind (w : Nat) : OarKind :=
  match f3Of w, f7Of w with
  | 0, 0 => .slvGet | 0, 1 => .slvPut | 1, 0 => .slvSend | 1, 1 => .slvRecv | 2, 0 => .slvBar
  | 3, 0 => .pminu | 3, 1 => .pmaxu | 3, 2 => .paddus | 3, 3 => .psubus | 3, 4 => .pcmpgeu | 3, 5 => .psad
  | 4, 0 => .fcvtSBf | 4, 1 => .fcvtBfS | 4, 2 => .fcvtSHf | 4, 3 => .fcvtHfS
  | _, _ => .illegal

/-- The kind of a 32-bit instruction. -/
def kindOf (w : Nat) : OarKind :=
  let ok (b : Bool) (k : OarKind) : OarKind := if b then k else .illegal
  let f3 := f3Of w
  let f7 := f7Of w
  match opOf w with
  | 0x37 | 0x17 | 0x6F => .base
  | 0x67 => ok (f3 == 0) .base
  | 0x63 => ok (f3 != 2 && f3 != 3) .base
  | 0x03 => ok (decide (f3 ≤ 2) || f3 == 4 || f3 == 5) .loadStore
  | 0x23 => ok (decide (f3 ≤ 2)) .loadStore
  | 0x07 | 0x27 => ok (f3 == 2) .loadStore
  | 0x13 => ok (if f3 = 1 then f7 == 0 else if f3 = 5 then f7 == 0 || f7 == 0x20 else true) .base
  | 0x33 => ok (f7 == 0 || f7 == 1 || (f7 == 0x20 && (f3 == 0 || f3 == 5))) .base
  | 0x0F => ok (decide (f3 ≤ 1)) .base
  | 0x73 => if w = 0x73 then .ecall else if w = 0x100073 then .ebreak else if f3 % 4 = 0 then .illegal else csrKind w
  | 0x53 => fpKind w
  | 0x43 | 0x47 | 0x4B | 0x4F => ok (rmOk w && bits w 26 25 == 0) .base
  | 0x0B => slvKind w
  | _ => .illegal

/-! ### Compressed instructions -/

/-- Assemble instructions of the formats. -/
def mkR (op rd f3 rs1 rs2 f7 : Nat) : Nat := pack [(7, op), (5, rd), (3, f3), (5, rs1), (5, rs2), (7, f7)]
def mkI (op rd f3 rs1 imm : Nat) : Nat := pack [(7, op), (5, rd), (3, f3), (5, rs1), (12, imm)]
def mkS (op f3 rs1 rs2 imm : Nat) : Nat := pack [(7, op), (5, imm), (3, f3), (5, rs1), (5, rs2), (7, imm / 32)]
def mkB (f3 rs1 rs2 imm : Nat) : Nat :=
  pack [(7, 0x63), (1, imm / 2048), (4, imm / 2), (3, f3), (5, rs1), (5, rs2), (6, imm / 32), (1, imm / 4096)]
def mkJ (rd imm : Nat) : Nat :=
  pack [(7, 0x6F), (5, rd), (8, imm / 4096), (1, imm / 2048), (10, imm / 2), (1, imm / 1048576)]

/-- Expand a compressed instruction of quadrant 0. -/
def expand0 (h : Nat) : Option Nat :=
  let rd := bits h 4 2 + 8
  let rs := bits h 9 7 + 8
  let uw := bits h 5 5 * 64 + bits h 12 10 * 8 + bits h 6 6 * 4
  match bits h 15 13 with
  | 0 =>
    let imm := bits h 10 7 * 64 + bits h 12 11 * 16 + bits h 5 5 * 8 + bits h 6 6 * 4
    if imm = 0 then none else some (mkI 0x13 rd 0 2 imm)
  | 2 => some (mkI 0x03 rd 2 rs uw)
  | 3 => some (mkI 0x07 rd 2 rs uw)
  | 6 => some (mkS 0x23 2 rs rd uw)
  | 7 => some (mkS 0x27 2 rs rd uw)
  | _ => none

/-- Expand a compressed instruction of quadrant 1. -/
def expand1 (h : Nat) : Option Nat :=
  let rd := bits h 11 7
  let rs := bits h 9 7 + 8
  let i6 := ofInt 32 (asInt 6 (bits h 12 12 * 32 + bits h 6 2))
  let j := ofInt 32 (asInt 12 (bits h 12 12 * 2048 + bits h 8 8 * 1024 + bits h 10 9 * 256 + bits h 6 6 * 128 + bits h 7 7 * 64 +
    bits h 2 2 * 32 + bits h 11 11 * 16 + bits h 5 3 * 2))
  let b := ofInt 32 (asInt 9 (bits h 12 12 * 256 + bits h 6 5 * 64 + bits h 2 2 * 32 + bits h 11 10 * 8 + bits h 4 3 * 2))
  match bits h 15 13 with
  | 0 => some (mkI 0x13 rd 0 rd i6)
  | 1 => some (mkJ 1 j)
  | 2 => some (mkI 0x13 rd 0 0 i6)
  | 3 =>
    if rd = 2 then
      let imm := ofInt 32 (asInt 10 (bits h 12 12 * 512 + bits h 4 3 * 128 + bits h 5 5 * 64 + bits h 2 2 * 32 + bits h 6 6 * 16))
      if imm = 0 then none else some (mkI 0x13 2 0 2 imm)
    else if i6 = 0 then none
    else some (pack [(7, 0x37), (5, rd), (20, i6)])
  | 4 =>
    let sh := bits h 6 2
    let rs2 := bits h 4 2 + 8
    (match bits h 11 10 with
    | 0 => if bits h 12 12 = 1 then none else some (mkI 0x13 rs 5 rs sh)
    | 1 => if bits h 12 12 = 1 then none else some (mkI 0x13 rs 5 rs (sh + 0x400))
    | 2 => some (mkI 0x13 rs 7 rs i6)
    | _ =>
      if bits h 12 12 = 1 then none
      else match bits h 6 5 with
        | 0 => some (mkR 0x33 rs 0 rs rs2 0x20)
        | 1 => some (mkR 0x33 rs 4 rs rs2 0)
        | 2 => some (mkR 0x33 rs 6 rs rs2 0)
        | _ => some (mkR 0x33 rs 7 rs rs2 0))
  | 5 => some (mkJ 0 j)
  | 6 => some (mkB 0 rs 0 b)
  | _ => some (mkB 1 rs 0 b)

/-- Expand a compressed instruction of quadrant 2. -/
def expand2 (h : Nat) : Option Nat :=
  let rd := bits h 11 7
  let rs2 := bits h 6 2
  let ul := bits h 3 2 * 64 + bits h 12 12 * 32 + bits h 6 4 * 4
  let us := bits h 8 7 * 64 + bits h 12 9 * 4
  match bits h 15 13 with
  | 0 => if bits h 12 12 = 1 then none else some (mkI 0x13 rd 1 rd rs2)
  | 2 => if rd = 0 then none else some (mkI 0x03 rd 2 2 ul)
  | 3 => some (mkI 0x07 rd 2 2 ul)
  | 4 =>
    if bits h 12 12 = 0 then
      (if rs2 = 0 then (if rd = 0 then none else some (mkI 0x67 0 0 rd 0)) else some (mkR 0x33 rd 0 0 rs2 0))
    else if rs2 = 0 then (if rd = 0 then some 0x100073 else some (mkI 0x67 1 0 rd 0))
    else some (mkR 0x33 rd 0 rd rs2 0)
  | 6 => some (mkS 0x23 2 2 rs2 us)
  | 7 => some (mkS 0x27 2 2 rs2 us)
  | _ => none

/-- An instruction as it stands in memory: its 32-bit form (0, which is illegal, where a compressed one has none) and its
length. -/
def expand (v : Nat) : Nat × Nat :=
  match v % 4 with
  | 0 => ((expand0 (v % 65536)).getD 0, 2)
  | 1 => ((expand1 (v % 65536)).getD 0, 2)
  | 2 => ((expand2 (v % 65536)).getD 0, 2)
  | _ => (v % 2 ^ 32, 4)

/-! ### Registers -/

/-- The value of an integer register; x0 reads as zero. -/
def Oar.rx (o : Oar) (r : Nat) : Nat := match toFin? 32 r with | some i => if r = 0 then 0 else (o.x[i]).toNat | none => 0

/-- Write an integer register; x0 discards it. -/
def Oar.wx (o : Oar) (r v : Nat) : Oar :=
  match toFin? 32 r with
  | some i => if r = 0 then o else { o with x := o.x.set i (BitVec.ofNat 32 v) }
  | none => o

/-- The value of a floating-point register. -/
def Oar.rf (o : Oar) (r : Nat) : Nat := match toFin? 32 r with | some i => (o.f[i]).toNat | none => 0

/-- Write a floating-point register. -/
def Oar.wf (o : Oar) (r v : Nat) : Oar :=
  match toFin? 32 r with | some i => { o with f := o.f.set i (BitVec.ofNat 32 v) } | none => o

/-- Accrue exception flags: NV 16, DZ 8, OF 4, UF 2, NX 1. -/
def Oar.flag (o : Oar) (f : Nat) : Oar := { o with fflags := o.fflags ||| f }

/-- An instruction of `n` bytes retires. -/
def Oar.retire (o : Oar) (n : Nat) : Oar := { o with pc := wrapAdd 32 o.pc n, instret := wrapAdd 64 o.instret 1 }

/-- A control transfer retires. -/
def Oar.jump (o : Oar) (a : Nat) : Oar := { o with pc := a, instret := wrapAdd 64 o.instret 1 }

/-! ### Integer arithmetic -/

/-- The operation of OP and OP-IMM; `alt` is subtraction or the arithmetic shift. -/
def aluOp (f3 : Nat) (alt : Bool) (a b : Nat) : Nat :=
  match f3 with
  | 0 => if alt then ofInt 32 ((a : Int) - b) else (a + b) % 2 ^ 32
  | 1 => a * 2 ^ (b % 32) % 2 ^ 32
  | 2 => b2n (decide (asInt 32 a < asInt 32 b))
  | 3 => b2n (decide (a < b))
  | 4 => a ^^^ b
  | 5 => if alt then ofInt 32 (asInt 32 a / (2 ^ (b % 32) : Nat)) else a / 2 ^ (b % 32)
  | 6 => a ||| b
  | _ => a &&& b

/-- Multiplication and division. -/
def mulOp (f3 a b : Nat) : Nat :=
  let x := asInt 32 a
  let y := asInt 32 b
  match f3 with
  | 0 => a * b % 2 ^ 32
  | 1 => ofInt 32 (x * y / (2 ^ 32 : Nat))
  | 2 => ofInt 32 (x * (b : Int) / (2 ^ 32 : Nat))
  | 3 => a * b / 2 ^ 32
  | 4 => if b = 0 then 2 ^ 32 - 1 else ofInt 32 (x.tdiv y)
  | 5 => if b = 0 then 2 ^ 32 - 1 else a / b
  | 6 => if b = 0 then a else ofInt 32 (x.tmod y)
  | _ => if b = 0 then a else a % b

/-- The condition of a branch. -/
def branchTaken (f3 a b : Nat) : Bool :=
  match f3 with
  | 0 => a == b
  | 1 => a != b
  | 4 => decide (asInt 32 a < asInt 32 b)
  | 5 => decide (asInt 32 b ≤ asInt 32 a)
  | 6 => decide (a < b)
  | _ => decide (b ≤ a)

/-! ### Floating point -/

/-- Is an encoding a signalling NaN? -/
def isSnan (a : Nat) : Bool := decide (fp32.decode a = .nan) && !a.testBit 22

/-- Round an exact result to FP32 with its flags (R96): inexact, overflow, and underflow where the result is inexact and tiny
after rounding. -/
def froundFlags (x : ExactNum) : Nat × Nat :=
  let r := fp32.encode false x
  match x with
  | .fin _ n d =>
    if n = 0 then (r, 0)
    else
      let exact := (fp32.decode r).eqv x
      if exact then (r, 0)
      else if r % 2 ^ 31 = fp32.infEnc then (r, 5)
      else
        let q := log2Rat n d - 23
        let m := if 0 ≤ q then rheNat n (d * 2 ^ q.toNat) else rheNat (n * 2 ^ (-q).toNat) d
        (r, if q < -149 ∧ (m < 2 ^ 24 ∨ q < -150) then 3 else 1)
  | _ => (r, 0)

/-- A result that may be NaN: invalid where an operand signals, or where no operand is a NaN. -/
def fresult (ops : List Nat) (x : ExactNum) : Nat × Nat :=
  let snan := ops.any isSnan
  if x = .nan then
    (fp32.nanEnc, if snan || !ops.any (fun a => decide (fp32.decode a = .nan)) then 16 else 0)
  else
    let (r, f) := froundFlags x
    (r, f ||| (if snan then 16 else 0))

/-- The square root to 2^-90 of its scale with a sticky bit below, which fixes its rounding. -/
def sqrtNum : ExactNum → ExactNum
  | .nan => .nan
  | .inf s => if s then .nan else .inf false
  | .fin s n d =>
    if n = 0 then .fin s 0 1
    else if s then .nan
    else
      let k := 200
      let v := n * 4 ^ k / d
      let r := isqrt v 300 0
      .fin false (2 * r + (if r * r * d = n * 4 ^ k then 0 else 1)) (2 * 2 ^ k)

/-- FCLASS.S. -/
def fclass (a : Nat) : Nat :=
  let s := a.testBit 31
  match fp32.decode a with
  | .nan => if isSnan a then 256 else 512
  | .inf _ => if s then 1 else 128
  | .fin _ n _ =>
    if n = 0 then (if s then 8 else 16)
    else if bits a 30 23 = 0 then (if s then 4 else 32)
    else (if s then 2 else 64)

/-- FMIN.S and FMAX.S. -/
def fminmax (mx : Bool) (a b : Nat) : Nat × Nat :=
  let nv := if isSnan a || isSnan b then 16 else 0
  let x := fp32.decode a
  let y := fp32.decode b
  if x = .nan ∧ y = .nan then (fp32.nanEnc, nv)
  else if x = .nan then (b, nv)
  else if y = .nan then (a, nv)
  else
    let less := x.lt y || (x.eqv y && a.testBit 31 && !b.testBit 31)
    ((if mx then (if less then b else a) else (if less then a else b)), nv)

/-- FCVT.W.S and FCVT.WU.S: round to nearest even, saturate. -/
def fcvtInt (unsigned : Bool) (a : Nat) : Nat × Nat :=
  let lo : Int := if unsigned then 0 else -(2 ^ 31 : Nat)
  let hi : Int := if unsigned then (2 ^ 32 : Nat) - 1 else (2 ^ 31 : Nat) - 1
  match fp32.decode a with
  | .nan => (ofInt 32 hi, 16)
  | .inf s => (ofInt 32 (if s then lo else hi), 16)
  | .fin s n d =>
    let i := rheRat s n d
    if i < lo then (ofInt 32 lo, 16)
    else if hi < i then (ofInt 32 hi, 16)
    else (ofInt 32 i, if n % d = 0 then 0 else 1)

/-- An operation of opcode 0x53: writes an integer register (`true`) or a floating-point one, its value and flags. -/
def fpOp (w a b xa : Nat) : Bool × Nat × Nat :=
  let x := fp32.decode a
  let y := fp32.decode b
  let fr (p : Nat × Nat) : Bool × Nat × Nat := (false, p)
  let xr (p : Nat × Nat) : Bool × Nat × Nat := (true, p)
  match f7Of w with
  | 0x00 => fr (fresult [a, b] (x.add y))
  | 0x04 => fr (fresult [a, b] (x.add y.negate))
  | 0x08 => fr (fresult [a, b] (x.mul y))
  | 0x0C =>
    let (r, f) := fresult [a, b] (x.div y)
    let dz : Bool := match x, y with | .fin _ n _, .fin _ m _ => n != 0 && m == 0 | _, _ => false
    fr (r, if dz then 8 else f)
  | 0x2C => fr (fresult [a] (sqrtNum x))
  | 0x10 =>
    let s := match f3Of w with | 0 => b.testBit 31 | 1 => !b.testBit 31 | _ => a.testBit 31 != b.testBit 31
    fr (a % 2 ^ 31 + (if s then 2 ^ 31 else 0), 0)
  | 0x14 => fr (fminmax (f3Of w == 1) a b)
  | 0x50 =>
    let nan := decide (x = .nan) || decide (y = .nan)
    (match f3Of w with
    | 2 => xr (b2n (x.eqv y), if isSnan a || isSnan b then 16 else 0)
    | 1 => xr (b2n (x.lt y), if nan then 16 else 0)
    | _ => xr (b2n (x.le y), if nan then 16 else 0))
  | 0x60 => xr (fcvtInt (rs2Of w == 1) a)
  | 0x68 => fr (froundFlags (.ofInt (if rs2Of w = 1 then (xa : Int) else asInt 32 xa)))
  | 0x70 => if f3Of w = 1 then xr (fclass a, 0) else xr (a, 0)
  | _ => fr (xa, 0)

/-- The fused operations: FMADD, FMSUB, FNMSUB, FNMADD. -/
def fmaOp (op a b c : Nat) : Nat × Nat :=
  let p := (fp32.decode a).mul (fp32.decode b)
  let z := fp32.decode c
  let bad := decide (p = .nan) && !decide (fp32.decode a = .nan) && !decide (fp32.decode b = .nan)
  let (r, f) := fresult [a, b, c] (match op with
    | 0x43 => p.add z
    | 0x47 => p.add z.negate
    | 0x4B => p.negate.add z
    | _ => p.negate.add z.negate)
  (r, if bad then f ||| 16 else f)

/-- The value that a CSR instruction writes: from the old value `v` and its operand. -/
def csrNew (f3 v a : Nat) : Nat :=
  match f3 % 4 with
  | 1 => a
  | 2 => v ||| a
  | _ => clearMask v a

/-- A CSR instruction on fflags, frm or fcsr, or a read of a read-only CSR of value `ro` (R274): frm reads as zero. -/
def Oar.csrOp (o : Oar) (w ro : Nat) : Oar :=
  let a := if 4 ≤ f3Of w then rs1Of w else o.rx (rs1Of w)
  let c := csrOf w
  let old := if c = 1 ∨ c = 3 then o.fflags else if c = 2 then 0 else ro
  let o1 : Oar := if csrWrites w ∧ (c = 1 ∨ c = 3) then { o with fflags := csrNew (f3Of w) o.fflags a % 32 } else o
  o1.wx (rdOf w) old

/-- An ordinary instruction `w` of `n` bytes (R276): everything but memory, slivers and ends; `ro` is the value of the
read-only CSR that it names. -/
def Oar.baseOp (o : Oar) (w n ro : Nat) : Oar :=
  let rd := rdOf w
  let a := o.rx (rs1Of w)
  let b := o.rx (rs2Of w)
  match opOf w with
  | 0x37 => (o.wx rd (immU w)).retire n
  | 0x17 => (o.wx rd ((o.pc + immU w) % 2 ^ 32)).retire n
  | 0x6F => (o.wx rd ((o.pc + n) % 2 ^ 32)).jump ((o.pc + immJ w) % 2 ^ 32)
  | 0x67 => (o.wx rd ((o.pc + n) % 2 ^ 32)).jump ((a + immI w) % 2 ^ 32 / 2 * 2)
  | 0x63 => if branchTaken (f3Of w) a b then o.jump ((o.pc + immB w) % 2 ^ 32) else o.retire n
  | 0x13 =>
    let sh := f3Of w == 1 || f3Of w == 5
    (o.wx rd (aluOp (f3Of w) (sh && f7Of w == 0x20) a (if sh then rs2Of w else immI w))).retire n
  | 0x33 => (o.wx rd (if f7Of w = 1 then mulOp (f3Of w) a b else aluOp (f3Of w) (f7Of w == 0x20) a b)).retire n
  | 0x73 => (o.csrOp w ro).retire n
  | 0x53 =>
    let (x, r, f) := fpOp w (o.rf (rs1Of w)) (o.rf (rs2Of w)) a
    ((if x then o.wx rd r else o.wf rd r).flag f).retire n
  | 0x43 | 0x47 | 0x4B | 0x4F =>
    let (r, f) := fmaOp (opOf w) (o.rf (rs1Of w)) (o.rf (rs2Of w)) (o.rf (bits w 31 27))
    ((o.wf rd r).flag f).retire n
  | _ => o.retire n

/-- A byte-wise operation of the sliver extension (R276). -/
def perByte (f : Nat → Nat → Nat) (a b : Nat) : Nat :=
  leNat ((List.range 4).map (fun i => BitVec.ofNat 8 (f (a / 256 ^ i % 256) (b / 256 ^ i % 256))))

/-- The value of a packed byte instruction. -/
def packedOp (k : OarKind) (a b : Nat) : Nat :=
  match k with
  | .pminu => perByte min a b
  | .pmaxu => perByte max a b
  | .paddus => perByte (fun x y => min (x + y) 255) a b
  | .psubus => perByte (fun x y => x - y) a b
  | .pcmpgeu => perByte (fun x y => if y ≤ x then 255 else 0) a b
  | _ => ((List.range 4).map (fun i =>
      let x := a / 256 ^ i % 256
      let y := b / 256 ^ i % 256
      max x y - min x y)).sum

end Sys2Proof.Machine
end

