-- ==== Sys2Proof/Machine/Oar.lean ====
section
/-! DEFINITION. The oars: invocations, accesses, neighbours, barriers, and how an invocation ends; pooling (R41, R158 to R162, R225, R256 to R258, R271 to R280, R354). -/

namespace Sys2Proof.Machine

open Sys2Proof

/-! ### The partition guard -/

/-- The owner that the guard records for an offset of the line store (1), the commons (2) or LPDDR5 (4) (R225). -/
def State.granuleOwner (s : State) (mem off : Nat) : Option Nat :=
  let pk := (allFin 16).filterMap (fun i => (s.cox.packages[i]).map (fun p => (p.partition, p.container)))
  let ports := (allFin 12).map (fun i => (s.partitionOfPort i.val, (s.cams[i]).bufs))
  Config.granuleOwner mem pk ports (off / (match mem with | 1 => 65536 | 2 => 4096 | _ => 2097152))

/-- The owner of a scratch block of a crew (R225): the partition of the heat placed on it; the staging area is no heat's (R159). -/
def State.scratchOwner (s : State) (crew block : Nat) : Option Nat :=
  s.cox.heats.findSome? (fun e =>
    if e.2.started ∧ e.2.holds crew then
      (match s.planOf e.2.req.slot e.2.req.plan, e.2.crews.findIdx? (· == crew) with
      | some (p, _), some r =>
        if block < 376 ∧ (Config.heatBlocks p.container e.2.req.plan (e.2.crews.map s.profile) r).contains block then some e.2.req.partition
        else none
      | _, _ => none)
    else none)

/-! ### Where an oar address lies -/

/-- What an oar address names (R41): its local memory, a tensor of its stroke with the offset in it, or a memory (0 scratch,
1 line store, 2 commons) with the offset. -/
inductive OarPlace where
  | local_ (a : Nat)
  | tensor (n off : Nat)
  | mem (m off : Nat)
deriving DecidableEq, Repr

/-- The oar of a crew and logical number. -/
def State.oar? (s : State) (crew l : Nat) : Option Oar := amGet? s.units.oars (crew * 512 + l)

/-- Set or remove the sliver of an oar. -/
def State.setOar (s : State) (crew l : Nat) (o : Option Oar) : State :=
  { s with units := { s.units with
    oars := match o with
      | some x => amInsert s.units.oars (crew * 512 + l) x
      | none => amErase s.units.oars (crew * 512 + l) } }

/-- The local memory of a logical oar (R280: it stays with the number). -/
def State.oarMem (s : State) (crew l : Nat) : Memory := amGet s.mem.oarLocal (crew * 512 + l) []

/-- Set the local memory of a logical oar. -/
def State.setOarMem (s : State) (crew l : Nat) (m : Memory) : State :=
  s.modMem (fun x => { x with oarLocal := amSet x.oarLocal (crew * 512 + l) m [] })

/-- The tensor of the oar's stroke whose place holds an address (R275). -/
def placedTensor (h : Heat) (p : Package) (b : Bytes) (crew a : Nat) : Option (Nat × Nat) :=
  let rank := (h.crews.findIdx? (· == crew)).getD 0
  h.image.place.findSome? (fun e =>
    if e.1 = rank ∧ (oarInputs b ++ [oarOut b]).contains e.2.1 then
      (match p.td e.2.1 with
      | some t => if e.2.2 ≤ a ∧ a < e.2.2 + t.size then some (e.2.1, a - e.2.2) else none
      | none => none)
    else none)

/-- The heat, package and stroke of a sliver. -/
def State.oarStroke (s : State) (o : Oar) : Option (Nat × Heat × Package × Bytes) :=
  match s.heatOf o.serial with
  | none => none
  | some (k, h) =>
    match s.heatPkg k with
    | none => none
    | some (_, p) => (h.strokeOf p o.stroke).map (fun b => (k, h, p, b))

/-- The place of an access of `n` bytes, none for an access fault (R41, R225, R273). -/
def State.oarPlace (s : State) (crew : Nat) (o : Oar) (a n : Nat) : Option OarPlace :=
  if a + n ≤ 0x3800 then some (.local_ a)
  else
    match s.oarStroke o with
    | none => none
    | some (_, h, p, b) =>
      let guard (m off : Nat) (own : Option Nat) : Option OarPlace :=
        match placedTensor h p b crew a with
        | some (t, q) => some (.tensor t q)
        | none => if own = some h.req.partition then some (.mem m off) else none
      if 0x10000000 ≤ a ∧ a + n ≤ 0x11800000 then
        guard 0 (a - 0x10000000) (s.scratchOwner crew ((a - 0x10000000) / 65536))
      else if 0x20000000 ≤ a ∧ a + n ≤ 0x22000000 then
        guard 1 (a - 0x20000000) (s.granuleOwner 1 (a - 0x20000000))
      else if 0x30000000 ≤ a ∧ a + n ≤ 0x31000000 then
        guard 2 (a - 0x30000000) (s.granuleOwner 2 (a - 0x30000000))
      else none

/-- Read `n` bytes at a place. -/
def State.oarRead (s : State) (crew l : Nat) (o : Oar) (x : OarPlace) (n : Nat) : Bytes :=
  match x with
  | .local_ a => memReadN (s.oarMem crew l) a n
  | .tensor t off => (match s.oarStroke o with | some (_, h, p, _) => slice (s.built h p t) off n | none => zeros n)
  | .mem m off =>
    memReadN (match m with
      | 0 => (match toFin? 6 crew with | some c => s.mem.scratch[c] | none => [])
      | 1 => s.mem.lineStore
      | _ => s.mem.commons) off n

/-- Write bytes at a place. -/
def State.oarWrite (s : State) (crew l : Nat) (o : Oar) (x : OarPlace) (b : Bytes) : State :=
  match x with
  | .local_ a => s.setOarMem crew l (memWriteN (s.oarMem crew l) a b)
  | .tensor t off =>
    (match s.oarStroke o with
    | some (k, h, p, _) =>
      let v := s.built h p t
      s.modHeat k (fun h => { h with building := amInsert h.building t ((putBytes v off b).take v.length) })
    | none => s)
  | .mem m off =>
    s.modMem (fun x =>
      match m with
      | 0 => (match toFin? 6 crew with
        | some c => { x with scratch := x.scratch.set c (memWriteN x.scratch[c] off b) }
        | none => x)
      | 1 => { x with lineStore := memWriteN x.lineStore off b }
      | _ => { x with commons := memWriteN x.commons off b })

/-! ### How an invocation ends -/

/-- The slivers of a KERNEL stroke (R272). -/
def sliverCount (b : Bytes) : Nat := (kernelStroke b).slivers

/-- The crew rank and logical oar of a sliver (R272). -/
def sliverPlace (n ranks i : Nat) : Nat × Nat :=
  let r := ((List.range ranks).find? (fun r => decide (r * n / ranks ≤ i) && decide (i < (r + 1) * n / ranks))).getD 0
  (r, (i - r * n / ranks) % 512)

/-- The sliver of an oar has ended, well or not (R277 to R279): undelivered records go; the last sliver of the invocation
ends its pass. -/
def State.sliverEnds (s : State) (crew l : Nat) (o : Oar) (good : Bool) : State :=
  let s1 := s.setOar crew l none
  let s2 : State := { s1 with units := { s1.units with
    ended := ((o.serial, o.stroke, o.pass, o.sliver), good) :: s1.units.ended
    invocations := if good then wrapAdd 64 s1.units.invocations 1 else s1.units.invocations } }
  match s2.oarStroke o with
  | none => s2
  | some (k, h, _, b) =>
    let mine := s2.units.ended.filter (fun e => e.1.1 == o.serial && e.1.2.1 == o.stroke && e.1.2.2.1 == o.pass)
    if sliverCount b ≤ mine.length then
      let s3 : State := { s2 with units := { s2.units with
        ended := s2.units.ended.filter (fun e => !(e.1.1 == o.serial && e.1.2.1 == o.stroke && e.1.2.2.1 == o.pass)) } }
      if mine.all (·.2) then
        (match h.passOf o.stroke o.pass with | some x => s3.passEnds k x false | none => s3)
      else s3
    else s2

/-- `OAR_LAST_FAULT` (R284): cause, crew, sliver, and the pc or x10. -/
def State.oarLast (s : State) (crew : Nat) (o : Oar) (cause v : Nat) : State :=
  { s with units := { s.units with lastFault := pack [(8, cause), (3, crew), (5, 0), (16, o.sliver), (32, v)] } }

/-- The invocation ends with a fault or an overrun of its budget (R279): a detected error of its stroke. -/
def State.oarFault (s : State) (crew l : Nat) (o : Oar) (cause : Nat) : State :=
  let phys := (s.crew crew).oar l
  let k := match s.heatOf o.serial with | some (k, _) => k | none => 64
  let s1 := ((s.oarLast crew o cause o.pc).lint (if cause = 4 then .OAR_BUDGET else .OAR_FAULT)).sliverEnds crew l o false
  s1.detected k (if cause = 4 then 9 else 8) crew phys o.stroke o.pass false .check (.oar crew phys)

/-- ECALL with x10 ≠ 0 (R279): the heat's outputs are marked INVALID, with no darn. -/
def State.oarKfail (s : State) (crew l : Nat) (o : Oar) : State :=
  let s1 := ((s.oarLast crew o 5 (o.rx 10)).lint .OAR_KFAIL).sliverEnds crew l o false
  match s1.heatOf o.serial with
  | some (k, h) =>
    let e : DetError := ⟨8, crew, (s.crew crew).oar l, o.stroke, o.pass, h.serial, s.cox.period, s.now, true, .kernel⟩
    (s1.modHeat k (fun h => { h with errors := h.errors ++ [e] })).modSaf (fun f => { f with lastErr := some e })
  | none => s1

/-! ### Fetch -/

/-- May the oar execute: no load or SLV.GET is outstanding, and it waits for nothing? -/
def Oar.ready (o : Oar) : Bool :=
  decide (o.wait = .none) && (match o.access with | some a => a.store.isSome | none => true)

/-- Fetch at the pc: the instruction and its length, none for an access fault (R41). -/
def State.oarFetch (s : State) (crew l : Nat) (o : Oar) : Option (Nat × Nat) :=
  match s.oarPlace crew o o.pc 2 with
  | none => none
  | some x =>
    let lo := leNat (s.oarRead crew l o x 2)
    if lo % 4 = 3 then
      (s.oarPlace crew o (o.pc + 2) 2).map (fun y => expand (lo + 65536 * leNat (s.oarRead crew l o y 2)))
    else some (expand lo)

/-- Execute the next instruction of an oar where it is of kind `kind`, by `f` of the sliver, the instruction and its length;
any other instruction is another command's (notes/assumptions/35.md). A fetch that faults ends the invocation. -/
def State.oarStep (s : State) (crew : Fin 6) (l : Fin 512) (kind : OarKind) (f : Oar → Nat → Nat → State) :
    Host.Outcome State Fault Refusal :=
  match s.oar? crew l with
  | none => .next s
  | some o =>
    if !o.ready then .next s
    else
      match s.oarFetch crew l o with
      | none => finish s (s.oarFault crew l o 1)
      | some (w, n) => if kindOf w = kind then finish s (f o w n) else .next s

/-! ### Instructions of the oar alone -/

/-- The oar address of a tensor of the stroke (R275). -/
def Heat.placeOf (h : Heat) (crew n : Nat) : Nat :=
  let rank := (h.crews.findIdx? (· == crew)).getD 0
  match h.image.place.find? (fun e => e.1 == rank && e.2.1 == n) with | some e => e.2.2 | none => 0

/-- The value of a read-only CSR (R274, R275). -/
def State.oarCsr (s : State) (crew : Nat) (o : Oar) (c : Nat) : Nat :=
  if c = 0xC02 then o.instret % 2 ^ 32
  else if c = 0xC82 then o.instret / 2 ^ 32
  else
    match s.oarStroke o with
    | none => 0
    | some (_, h, p, b) =>
      let ks := kernelStroke b
      let n := ks.slivers
      let x0 := o.sliver * ks.sliverW
      let inp (i : Nat) : Nat := dfield b (47 + 16 * i) (32 + 16 * i)
      let addr (t : Nat) : Nat := if t = 0xFFFF then 0 else h.placeOf crew t
      let pitch (t : Nat) : Nat := match p.td t with | some d => d.pitch | none => 0
      let step := match h.req.kind with
        | .fast => (match h.req.swath with | some (_, k) => k % 2 ^ 32 | none => 0)
        | .secondLook => h.req.step % 2 ^ 32 | .retune => h.req.step % 2 ^ 32 | _ => 0
      if c = 0xCC0 then o.sliver
      else if c = 0xCC1 then n
      else if c = 0xCC2 then x0
      else if c = 0xCC3 then min (x0 + ks.sliverW) ks.span - x0
      else if c = 0xCC4 then o.iter
      else if c = 0xCC5 then step
      else if c = 0xCC6 then h.stream % 2 ^ 32
      else if c = 0xCC7 then h.stream / 2 ^ 32
      else if c = 0xCC8 then o.stroke
      else if c = 0xCD5 then addr (oarOut b)
      else if c = 0xCDD then pitch (oarOut b)
      else if c ≤ 0xCD4 then addr (inp (c - 0xCD0))
      else pitch (inp (c - 0xCD8))

/-- OAR_BASE_INSTRUCTION (R96, R274 to R276). -/
def execOarBaseInstruction (crew : Fin 6) (oar : Fin 512) (s : State) : Host.Outcome State Fault Refusal :=
  s.oarStep crew oar .base (fun o w n => s.setOar crew oar (some (o.baseOp w n (s.oarCsr crew o (csrOf w)))))

/-- FRM_WRITE (R274): what is written to frm is ignored; the rest of fcsr takes the value. -/
def execFrmWrite (crew : Fin 6) (oar : Fin 512) (s : State) : Host.Outcome State Fault Refusal :=
  s.oarStep crew oar .frmWrite (fun o w n => s.setOar crew oar (some ((o.csrOp w 0).retire n)))

/-- A packed byte instruction (R276). -/
def State.packedStep (s : State) (crew : Fin 6) (oar : Fin 512) (k : OarKind) : Host.Outcome State Fault Refusal :=
  s.oarStep crew oar k (fun o w n =>
    s.setOar crew oar (some ((o.wx (rdOf w) (packedOp k (o.rx (rs1Of w)) (o.rx (rs2Of w)))).retire n)))

/-- PMINU_B (R276). -/
def execPminuB (crew : Fin 6) (oar : Fin 512) (s : State) : Host.Outcome State Fault Refusal := s.packedStep crew oar .pminu

/-- PMAXU_B (R276). -/
def execPmaxuB (crew : Fin 6) (oar : Fin 512) (s : State) : Host.Outcome State Fault Refusal := s.packedStep crew oar .pmaxu

/-- PADDUS_B (R276). -/
def execPaddusB (crew : Fin 6) (oar : Fin 512) (s : State) : Host.Outcome State Fault Refusal := s.packedStep crew oar .paddus

/-- PSUBUS_B (R276). -/
def execPsubusB (crew : Fin 6) (oar : Fin 512) (s : State) : Host.Outcome State Fault Refusal := s.packedStep crew oar .psubus

/-- PCMPGEU_B (R276). -/
def execPcmpgeuB (crew : Fin 6) (oar : Fin 512) (s : State) : Host.Outcome State Fault Refusal := s.packedStep crew oar .pcmpgeu

/-- PSAD_B (R276). -/
def execPsadB (crew : Fin 6) (oar : Fin 512) (s : State) : Host.Outcome State Fault Refusal := s.packedStep crew oar .psad

/-- A conversion from a 16-bit format into FP32 (R276). -/
def State.widenStep (s : State) (crew : Fin 6) (oar : Fin 512) (k : OarKind) (f : FloatFmt) : Host.Outcome State Fault Refusal :=
  s.oarStep crew oar k (fun o w n =>
    s.setOar crew oar (some ((o.wf (rdOf w) (fp32.encode false (f.decode (o.rx (rs1Of w) % 65536)))).retire n)))

/-- A conversion from FP32 into a 16-bit format, by R100 with SAT 0 (R276). -/
def State.narrowStep (s : State) (crew : Fin 6) (oar : Fin 512) (k : OarKind) (f : FloatFmt) : Host.Outcome State Fault Refusal :=
  s.oarStep crew oar k (fun o w n =>
    s.setOar crew oar (some ((o.wx (rdOf w) (f.encode false (fp32.decode (o.rf (rs1Of w))))).retire n)))

/-- FCVT_S_BF (R276). -/
def execFcvtSBf (crew : Fin 6) (oar : Fin 512) (s : State) : Host.Outcome State Fault Refusal := s.widenStep crew oar .fcvtSBf bf16

/-- FCVT_BF_S (R276). -/
def execFcvtBfS (crew : Fin 6) (oar : Fin 512) (s : State) : Host.Outcome State Fault Refusal := s.narrowStep crew oar .fcvtBfS bf16

/-- FCVT_S_HF (R276). -/
def execFcvtSHf (crew : Fin 6) (oar : Fin 512) (s : State) : Host.Outcome State Fault Refusal := s.widenStep crew oar .fcvtSHf fp16

/-- FCVT_HF_S (R276). -/
def execFcvtHfS (crew : Fin 6) (oar : Fin 512) (s : State) : Host.Outcome State Fault Refusal := s.narrowStep crew oar .fcvtHfS fp16

/-- ECALL (R279). -/
def execEcall (crew : Fin 6) (oar : Fin 512) (s : State) : Host.Outcome State Fault Refusal :=
  s.oarStep crew oar .ecall (fun o _ _ =>
    if o.rx 10 = 0 then s.sliverEnds crew oar o true else s.oarKfail crew oar o)

/-- EBREAK (R279). -/
def execEbreak (crew : Fin 6) (oar : Fin 512) (s : State) : Host.Outcome State Fault Refusal :=
  s.oarStep crew oar .ebreak (fun o _ _ => s.oarFault crew oar o 2)

/-- ILLEGAL_INSTRUCTION (R274 to R276, R279). -/
def execIllegalInstruction (crew : Fin 6) (oar : Fin 512) (s : State) : Host.Outcome State Fault Refusal :=
  s.oarStep crew oar .illegal (fun o _ _ => s.oarFault crew oar o 2)

/-- OAR_BUDGET_EXPIRE (R279). -/
def execOarBudgetExpire (crew : Fin 6) (oar : Fin 512) (s : State) : Host.Outcome State Fault Refusal :=
  match s.oar? crew oar with
  | none => .next s
  | some o => finish s (s.oarFault crew oar o 4)

/-! ### Memory -/

/-- The data that a read delivers, with an error found in it (R155): free bytes where it is uncorrectable. -/
def State.oarData (s : State) (o : Oar) (b : Bytes) (ecc : Option EccError) : State × Bytes :=
  match ecc with
  | none => (s, b)
  | some e =>
    let k := match s.heatOf o.serial with | some (k, _) => k | none => 64
    let s1 := s.eccRead e k o.stroke o.pass
    if e.fatal then (s1.draw, (List.range b.length).map (fun i => Config.freeByte (s.fresh * 64 + i))) else (s1, b)

/-- What a load puts into its register. -/
def Oar.fill (o : Oar) (rd : Nat) (signed fp : Bool) (b : Bytes) : Oar :=
  let v := leNat b
  if fp then o.wf rd v else o.wx rd (if signed then sext (8 * b.length) v else v)

/-- The bytes of an access by the width field. -/
def accessSize (f3 : Nat) : Nat := 2 ^ (f3 % 4)

/-- OAR_LOAD_STORE (R41, R158, R161, R276, R279): a local access completes; another one is issued, a second one waiting for the
one outstanding; `ecc` is an error that a local read finds. A misaligned access is reported before an access fault
(notes/assumptions/32.md). -/
def execOarLoadStore (crew : Fin 6) (oar : Fin 512) (ecc : Option EccError) (s : State) : Host.Outcome State Fault Refusal :=
  s.oarStep crew oar .loadStore (fun o w n =>
    let store := opOf w == 0x23 || opOf w == 0x27
    let fp := opOf w == 0x07 || opOf w == 0x27
    let a := (o.rx (rs1Of w) + (if store then immS w else immI w)) % 2 ^ 32
    let sz := accessSize (f3Of w)
    let v := leBytes sz (if fp then o.rf (rs2Of w) else o.rx (rs2Of w))
    if a % sz ≠ 0 then s.oarFault crew oar o 3
    else
      match s.oarPlace crew o a sz with
      | none => s.oarFault crew oar o 1
      | some (.local_ q) =>
        if store then (s.oarWrite crew oar o (.local_ q) v).setOar crew oar (some (o.retire n))
        else
          let (s1, b) := s.oarData o (s.oarRead crew oar o (.local_ q) sz) ecc
          s1.setOar crew oar (some ((o.fill (rdOf w) (decide (f3Of w < 4)) fp b).retire n))
      | some _ =>
        if o.access.isSome then s
        else
          let acc : OarAccess := ⟨a, sz, if store then some v else none, rdOf w, decide (f3Of w < 4), fp, none, o.pc + n, s.now⟩
          s.setOar crew oar (some (if store then { o.retire n with access := some acc } else { o with access := some acc })))

/-- SLV_GET (R276): 64 bytes from scratch, the line store or the commons to local memory, both at multiples of 64. -/
def execSlvGet (crew : Fin 6) (oar : Fin 512) (s : State) : Host.Outcome State Fault Refusal :=
  s.oarStep crew oar .slvGet (fun o w n =>
    let a := o.rx (rs1Of w)
    let q := o.rx (rs2Of w)
    if a % 64 ≠ 0 ∨ q % 64 ≠ 0 then s.oarFault crew oar o 3
    else
      match s.oarPlace crew o a 64, s.oarPlace crew o q 64 with
      | some (.local_ _), _ => s.oarFault crew oar o 1
      | some _, some (.local_ _) =>
        if o.access.isSome then s
        else s.setOar crew oar (some { o with access := some ⟨a, 64, none, 0, false, false, some q, o.pc + n, s.now⟩ })
      | _, _ => s.oarFault crew oar o 1)

/-- SLV_PUT (R276): 64 bytes from local memory to an oar address. -/
def execSlvPut (crew : Fin 6) (oar : Fin 512) (ecc : Option EccError) (s : State) : Host.Outcome State Fault Refusal :=
  s.oarStep crew oar .slvPut (fun o w n =>
    let a := o.rx (rs1Of w)
    let q := o.rx (rs2Of w)
    if a % 64 ≠ 0 ∨ q % 64 ≠ 0 then s.oarFault crew oar o 3
    else
      match s.oarPlace crew o a 64, s.oarPlace crew o q 64 with
      | some x, some (.local_ y) =>
        let (s1, b) := s.oarData o (s.oarRead crew oar o (.local_ y) 64) ecc
        (match x with
        | .local_ _ => (s1.oarWrite crew oar o x b).setOar crew oar (some (o.retire n))
        | _ =>
          if o.access.isSome then s
          else s1.setOar crew oar (some { o.retire n with
            access := some ⟨a, 64, some b, 0, false, false, none, o.pc + n, s.now⟩ }))
      | _, _ => s.oarFault crew oar o 1)

/-- Is another access of the same gang to the same bank of scratch served before this one (R156, R158)? -/
def State.servedBefore (s : State) (crew l : Nat) (a : OarAccess) : Bool :=
  let scr (x : Nat) : Bool := decide (0x10000000 ≤ x) && decide (x < 0x11800000)
  scr a.addr && s.units.oars.any (fun e =>
    e.1 / 512 == crew && e.1 % 512 / 32 == l / 32 && e.1 % 512 != l &&
      (match e.2.access with
      | some b => scr b.addr && b.addr / 64 % 64 == a.addr / 64 % 64 &&
          (decide (b.issued < a.issued) || (b.issued == a.issued && decide (e.1 % 512 < l)))
      | none => false))

/-- OAR_ACCESS_RETURN (R155, R158, R161): the outstanding access of an oar completes, unless its bank serves another one of the
gang first; `ecc` is an error that the read finds. -/
def execOarAccessReturn (crew : Fin 6) (oar : Fin 512) (ecc : Option EccError) (s : State) : Host.Outcome State Fault Refusal :=
  match s.oar? crew oar with
  | none => .next s
  | some o =>
    match o.access with
    | none => .next s
    | some a =>
      if s.servedBefore crew oar a then .next s
      else
        let o1 : Oar := { o with access := none }
        match s.oarPlace crew o a.addr a.size with
        | none => finish s (s.oarFault crew oar o1 1)
        | some x =>
          match a.store with
          | some b => finish s ((s.oarWrite crew oar o x b).setOar crew oar (some o1))
          | none =>
            let (s1, b) := s.oarData o (s.oarRead crew oar o x a.size) ecc
            let o2 := o1.retire (a.next - o.pc)
            match a.local_ with
            | some q => finish s ((s1.oarWrite crew oar o (.local_ q) b).setOar crew oar (some o2))
            | none => finish s (s1.setOar crew oar (some (o2.fill a.rd a.signed a.fp b)))

/-! ### Neighbours and barriers -/

/-- The neighbour sliver on the left or the right, where it exists (R277). -/
def State.neighbour (s : State) (o : Oar) (right : Bool) : Option Nat :=
  match s.oarStroke o with
  | none => none
  | some (_, _, _, b) =>
    if right then (if o.sliver + 1 < sliverCount b then some (o.sliver + 1) else none)
    else if o.sliver = 0 then none else some (o.sliver - 1)

/-- The crew and logical oar on which a sliver of the same invocation runs, with its state. -/
def State.sliverOar (s : State) (o : Oar) (i : Nat) : Option (Nat × Nat × Oar) :=
  s.units.oars.findSome? (fun e =>
    if e.2.serial = o.serial ∧ e.2.stroke = o.stroke ∧ e.2.pass = o.pass ∧ e.2.sliver = i then
      some (e.1 / 512, e.1 % 512, e.2)
    else none)

/-- The records that sliver `o` has from its left or right neighbour: those in the inbox and those on the way. -/
def Oar.inboxLoad (o : Oar) (right : Bool) : Nat :=
  if right then o.right.length + o.fromRight.length else o.left.length + o.fromLeft.length

/-- A record leaves for the neighbour (R277): it is on the way, or lost with a neighbour that has ended. -/
def State.sendRecord (s : State) (o : Oar) (right : Bool) (rcd : Bytes) : State :=
  match (s.neighbour o right).bind (s.sliverOar o) with
  | some (c, l, q) =>
    s.setOar c l (some (if right then { q with fromLeft := q.fromLeft ++ [rcd] } else { q with fromRight := q.fromRight ++ [rcd] }))
  | none => s

/-- Is the inbox that a send goes to full (R277: four records, those on the way included)? -/
def State.inboxFull (s : State) (o : Oar) (right : Bool) : Bool :=
  match (s.neighbour o right).bind (s.sliverOar o) with
  | some (_, _, q) => decide (4 ≤ q.inboxLoad (!right))
  | none => false

/-- SLV_SEND (R277). A selector other than 0 and 1 is taken as an illegal instruction (notes/assumptions/36.md). -/
def execSlvSend (crew : Fin 6) (oar : Fin 512) (s : State) : Host.Outcome State Fault Refusal :=
  s.oarStep crew oar .slvSend (fun o w n =>
    let sel := o.rx (rs2Of w)
    let a := o.rx (rs1Of w)
    if 1 < sel then s.oarFault crew oar o 2
    else if a % 64 ≠ 0 then s.oarFault crew oar o 3
    else
      match s.oarPlace crew o a 64 with
      | some (.local_ q) =>
        let rcd := memReadN (s.oarMem crew oar) q 64
        if s.inboxFull o (sel == 1) then
          s.setOar crew oar (some { o with wait := .send (sel == 1) rcd (o.pc + n) })
        else (s.setOar crew oar (some (o.retire n))).sendRecord o (sel == 1) rcd
      | _ => s.oarFault crew oar o 1)

/-- SLV_SEND_RESUME (R277). -/
def execSlvSendResume (crew : Fin 6) (oar : Fin 512) (s : State) : Host.Outcome State Fault Refusal :=
  match s.oar? crew oar with
  | none => .next s
  | some o =>
    match o.wait with
    | .send right rcd next =>
      if s.inboxFull o right then .next s
      else finish s ((s.setOar crew oar (some ({ o with wait := .none }.retire (next - o.pc)))).sendRecord o right rcd)
    | _ => .next s

/-- Take the oldest record of an inbox into local memory (R277). -/
def State.takeRecord (s : State) (crew l : Nat) (o : Oar) (right : Bool) (a rd n : Nat) : State :=
  match (if right then o.right else o.left) with
  | [] => s.setOar crew l (some { o with wait := .recv right a rd (o.pc + n) })
  | b :: r =>
    let o1 : Oar := if right then { o with right := r } else { o with left := r }
    (s.setOarMem crew l (memWriteN (s.oarMem crew l) a b)).setOar crew l
      (some (({ o1 with wait := .none }.wx rd 1).retire n))

/-- SLV_RECV (R277). -/
def execSlvRecv (crew : Fin 6) (oar : Fin 512) (s : State) : Host.Outcome State Fault Refusal :=
  s.oarStep crew oar .slvRecv (fun o w n =>
    let sel := o.rx (rs2Of w)
    let a := o.rx (rs1Of w)
    if 1 < sel then s.oarFault crew oar o 2
    else if a % 64 ≠ 0 then s.oarFault crew oar o 3
    else if 0x3800 < a + 64 then s.oarFault crew oar o 1
    else if (s.neighbour o (sel == 1)).isNone then s.setOar crew oar (some ((o.wx (rdOf w) 0).retire n))
    else s.takeRecord crew oar o (sel == 1) a (rdOf w) n)

/-- SLV_RECORD_ARRIVE (R277): the oldest record on the way from the left (`right` false) or right neighbour arrives in the
oar's inbox, and completes a waiting SLV.RECV. -/
def execSlvRecordArrive (crew : Fin 6) (oar : Fin 512) (right : Bool) (s : State) : Host.Outcome State Fault Refusal :=
  match s.oar? crew oar with
  | none => .next s
  | some o =>
    match (if right then o.fromRight else o.fromLeft) with
    | [] => .next s
    | b :: r =>
      let o1 : Oar :=
        if right then { o with fromRight := r, right := o.right ++ [b] } else { o with fromLeft := r, left := o.left ++ [b] }
      match o1.wait with
      | .recv q a rd next =>
        if q = right then finish s (s.takeRecord crew oar o1 right a rd (next - o1.pc))
        else finish s (s.setOar crew oar (some o1))
      | _ => finish s (s.setOar crew oar (some o1))

/-- SLV_BAR (R278). -/
def execSlvBar (crew : Fin 6) (oar : Fin 512) (s : State) : Host.Outcome State Fault Refusal :=
  s.oarStep crew oar .slvBar (fun o _ n =>
    s.setOar crew oar (some { o with wait := .bar (o.pc + n), bars := o.bars + 1 }))

/-- SLV_BAR_COMPLETE (R278): the barrier on which an oar waits completes on every sliver that waits at it, once all slivers of
the invocation have executed it as often, or have ended. -/
def execSlvBarComplete (crew : Fin 6) (oar : Fin 512) (s : State) : Host.Outcome State Fault Refusal :=
  match s.oar? crew oar with
  | none => .next s
  | some o =>
    match o.wait, s.oarStroke o with
    | .bar _, some (_, _, _, b) =>
      let arrived (i : Nat) : Bool :=
        (match s.sliverOar o i with | some (_, _, q) => decide (o.bars ≤ q.bars) | none => false) ||
          s.units.ended.any (fun e => decide (e.1 = (o.serial, o.stroke, o.pass, i)))
      if (List.range (sliverCount b)).all arrived then
        finish s (s.each (List.range (sliverCount b)) (fun s i =>
          match s.sliverOar o i with
          | some (c, l, q) =>
            (match q.wait with
            | .bar next => if q.bars = o.bars then s.setOar c l (some ({ q with wait := .none }.retire (next - q.pc))) else s
            | _ => s)
          | none => s))
      else .next s
    | _, _ => .next s

/-! ### The start of an invocation, and pooling -/

/-- One output element of a POOL stroke (R256 to R258): output row, column, channel. -/
def poolElem (b : Bytes) (t : TensorDesc) (bytes : Bytes) (oy ox c : Nat) : ExactNum :=
  let g := geometry b
  let at_ := (List.range g.kh).flatMap (fun ty => (List.range g.kw).filterMap (fun tx =>
    let y : Int := (oy * g.sh + ty * g.dh : Nat) - (g.padT : Int)
    let x : Int := (ox * g.sw + tx * g.dw : Nat) - (g.padL : Int)
    if 0 ≤ y ∧ y < t.mapH ∧ 0 ≤ x ∧ x < t.mapW then some (t.mapAt bytes y.toNat x.toNat c) else none))
  if dfield b 225 224 = 0 then
    if at_.any (fun v => decide (v = .nan)) then .nan
    else
      match at_ with
      | [] => .fin false 0 1
      | v :: r => r.foldl (fun m v =>
          if m.lt v || (m.eqv v && m.isZero && m.neg? && !v.neg?) then v else m) v
  else
    let n := if bitOf (leNat b) 226 then g.kh * g.kw else at_.length
    match at_ with
    | [] => .fin false 0 1
    | v :: r =>
      match r.foldl ExactNum.add v with
      | .fin s a d => .fin s a (d * n)
      | v => v

/-- A POOL pass (R240, R253, R256 to R258): output rows `m0` to `m0 + rows - 1` of columns `n0` to `n0 + cols - 1`. -/
def State.poolPass (s : State) (k : Nat) (h : Heat) (p : Package) (b : Bytes) (x : Pass) : State :=
  match s.inputMaps h p b with
  | [] => s
  | (t, bytes) :: _ =>
    let l := ((List.range x.rows).map (· + x.m0)).flatMap (fun y => ((List.range x.cols).map (· + x.n0)).flatMap (fun q =>
      (List.range t.mapC).map (fun c => ([y, q, c, 0], poolElem b t bytes y q c))))
    (s.writeTensor k (oarOut b) (bitOf (leNat b) 227) l).passEnds k x false

/-- The draw block header (R354). -/
def State.drawHeader (s : State) (h : Heat) : Bytes :=
  packBytes 32 [(128, leNat (s.byt .DET_RUN_SEED h.req.partition)), (64, h.stream), (4, h.req.kind.code), (4, 1)]

/-- OAR_INVOCATION_START (R162, R256 to R258, R271 to R273, R354): sliver `sliver` of an invocation of a KERNEL stroke; a POOL stroke's pass runs the
pooling program of the firmware as a whole. -/
def execOarInvocationStart (k : Fin 64) (stroke pass : BitVec 32) (sliver : BitVec 16) (s : State) :
    Host.Outcome State Fault Refusal :=
  match s.heatPkg k with
  | none => .next s
  | some (h, p) =>
    match h.passOf stroke.toNat pass.toNat, h.strokeOf p stroke.toNat with
    | some x, some b =>
      if strokeKind b ≠ 3 then .next s
      else if oarOp b = 2 then finish s (s.poolPass k h p b x)
      else if oarOp b ≠ 0 ∨ sliverCount b ≤ sliver.toNat then .next s
      else
        let ks := kernelStroke b
        let (rank, l) := sliverPlace ks.slivers h.crews.length sliver.toNat
        let crew := h.crews.getD rank 0
        if (s.oar? crew l).isSome then .next s
        else
          let code := s.tensor h p ks.tdCode
          let header := decide (code.length ≤ 14304)
          let key := crew * 512 + l
          let s1 :=
            if amGet? s.units.loaded key = some (h.serial, stroke.toNat) then s
            else
              let m := memWriteN (s.oarMem crew l) 0 code
              let m1 := if header then memWriteN m 0x37E0 (s.drawHeader h) else m
              let s0 := s.setOarMem crew l m1
              { s0 with units := { s0.units with loaded := amInsert s0.units.loaded key (h.serial, stroke.toNat) } }
          let x0 : Vector (BitVec 32) 32 := Vector.replicate 32 0
          let regs := ((x0.set 2 (if header then 0x37E0 else 0x3800)).set 10 (BitVec.ofNat 32 sliver.toNat)).set 11
            (BitVec.ofNat 32 x.kb0)
          let o : Oar :=
            { serial := h.serial, stroke := stroke.toNat, pass := pass.toNat, sliver := sliver.toNat, iter := x.kb0
              x := regs, f := Vector.replicate 32 0, pc := ks.entry, fflags := 0, instret := 0, access := none
              wait := .none, left := [], right := [], fromLeft := [], fromRight := [], bars := 0 }
          let s2 : State := { s1 with units := { s1.units with
            ended := s1.units.ended.filter (fun e => !decide (e.1 = (h.serial, stroke.toNat, pass.toNat, sliver.toNat))) } }
          finish s (s2.setOar crew l (some o))
    | _, _ => .next s

end Sys2Proof.Machine
end

