-- ==== Sys2Proof/Machine/Kv.lean ====
section
/-! DEFINITION. The key-value page manager: the pool, the prefix tree, eviction, the second-look queue, and the boundary between steps (R303 to R343, R361, R363). -/

namespace Sys2Proof.Machine

open Sys2Proof

/-! ### The recipe and the pool -/

/-- The SECOND_LOOK record of a recipe (R324). -/
structure SlRecipe where
  lo : Nat
  hi : Nat
  budget : Nat
  rows : Nat
  maxSeq : Nat
  chunk : Nat
  maxJoins : Nat
  maxNew : Nat
  img : Nat
  prefixLen : Nat
  suffixLen : Nat
  evictable : Bool
  pool : Nat
  lowWater : Nat
  decay : Nat
  passTok : Nat
  rejectTok : Nat
  endTok : Nat
  tdStep : Nat
  tdNext : Nat
  tdCrops : Nat
  perSwath : Nat
  tokens : List Nat
deriving DecidableEq, Repr

/-- The fields of R324. -/
def slRecipe (b : Bytes) : SlRecipe :=
  let f (o n : Nat) : Nat := fieldAt b o n
  let pl := f 30 2
  let sl := f 32 2
  ⟨f 8 4, f 12 4, f 16 4, f 20 2, f 22 2, f 24 2, f 26 1, f 27 1, f 28 2, pl, sl, (f 34 1) % 2 == 1, f 36 4, f 40 4, f 44 4, f 48 4,
    f 52 4, f 56 4, f 60 2, f 62 2, f 64 2, f 66 2, (List.range (pl + sl)).map (fun i => f (80 + 4 * i) 4)⟩

/-- PL and T_max (R326). -/
def SlRecipe.prompt (r : SlRecipe) : Nat := r.prefixLen + r.img + r.suffixLen
def SlRecipe.tMax (r : SlRecipe) : Nat := r.prompt + r.maxNew - 1

/-- The pages of a whole sequence (R326). -/
def SlRecipe.seqPages (r : SlRecipe) : Nat := (r.tMax + 255) / 256

/-- The token ID of a prompt position: 0xFFFF_FFFF for an image row (R326, R328). -/
def SlRecipe.tokenAt (r : SlRecipe) (p : Nat) : Nat :=
  if p < r.prefixLen then r.tokens.getD p 0
  else if p < r.prefixLen + r.img then 0xFFFFFFFF
  else r.tokens.getD (p - r.img) 0

/-- The SECOND_LOOK plan of a partition (R339: at most one): slot, package, plan number, plan and recipe. -/
def State.slPlan (s : State) (part : Nat) : Option (Nat × Package × Nat × Plan × SlRecipe) :=
  (allFin 16).findSome? (fun i =>
    match s.cox.packages[i] with
    | some p =>
      if p.partition = part then
        (match p.plans.findIdx? (fun q => decide (q.kind = .secondLook)), p.recipeOf 1 with
        | some k, some r => (p.plans[k]?).map (fun q => (i.val, p, k, q, slRecipe r))
        | _, _ => none)
      else none
    | none => none)

/-- FREE, RESERVED and AVAIL (R309). -/
def KvPart.free (k : KvPart) (r : SlRecipe) : Nat := r.pool - k.pages.length
def KvPart.reserved (k : KvPart) : Nat := (k.seqs.map (fun e => e.2.resv)).sum
def KvPart.avail (k : KvPart) (r : SlRecipe) : Int := (k.free r : Int) - k.reserved

/-- The low-water mark in effect (R340). -/
def State.lowWater (s : State) (part : Nat) (r : SlRecipe) : Nat :=
  let n := s.num .KV_LOW_WATER part
  if n = 0 then r.lowWater else n

/-- Pages without holder or pin are FREE (R306, R308). -/
def KvPart.sweepFree (k : KvPart) : KvPart :=
  { k with pages := k.pages.filter (fun e => e.2.ref != 0 || e.2.pin != 0) }

/-- The lowest FREE page (notes/assumptions/39.md). -/
def KvPart.freePage (k : KvPart) (r : SlRecipe) : Nat := ((List.range r.pool).find? (fun n => (amGet? k.pages n).isNone)).getD 0

/-- Take a fresh page for a sequence's entry `j`, written first in step `step` (R304, R309). -/
def KvPart.takePage (k : KvPart) (r : SlRecipe) (seq j step : Nat) : KvPart × Nat :=
  let n := k.freePage r
  ({ k with pages := amInsert k.pages n ⟨1, 0, j, seq, step, [], []⟩ }, n)

/-- One holder of a page fewer. -/
def KvPart.dropRef (k : KvPart) (n : Nat) : KvPart := k.modPage n (fun g => { g with ref := g.ref - 1 })

/-- Update a sequence. -/
def KvPart.modSeq (k : KvPart) (slot : Nat) (f : KvSeq → KvSeq) : KvPart :=
  match amGet? k.seqs slot with | some q => { k with seqs := amInsert k.seqs slot (f q) } | none => k

/-- A sequence drops the pages of its table; a copy into a page of it is not made any more (R311, R330). -/
def KvPart.dropPages (k : KvPart) (q : KvSeq) : KvPart :=
  let own := q.pages.filterMap id
  let gone := k.copies.filter (fun e => own.contains e.2)
  let k1 := gone.foldl (fun (k : KvPart) e => k.modPage e.1 (fun g => { g with pin := g.pin - 1 })) k
  let k2 : KvPart := { k1 with copies := k1.copies.filter (fun e => !own.contains e.2) }
  own.foldl KvPart.dropRef k2

/-! ### The prefix tree -/

/-- The hash of a node (R313). -/
def nodeHash (parent : Option Nat) (tokens : List Nat) : Nat :=
  crc32c (leBytes 2 (parent.getD 0xFFFF) ++ leBytes 2 tokens.length ++ tokens.flatMap (leBytes 4))

/-- Look a node up (R314): the node, and how many nodes with an equal hash were passed over. -/
def KvPart.lookup (k : KvPart) (parent : Option Nat) (tokens : List Nat) : Option Nat × Nat :=
  let h := nodeHash parent tokens
  let same (e : Nat × KvNode) : Bool := decide (e.2.parent = parent) && decide (e.2.tokens = tokens)
  let cands := k.tree.filter (fun e => nodeHash e.2.parent e.2.tokens == h)
  ((cands.find? same).map (·.1), (cands.filter (fun e => !same e)).length)

/-- The tokens of logical page `j` within the prefix. -/
def SlRecipe.prefixPage (r : SlRecipe) (j : Nat) : List Nat := ((r.tokens.take r.prefixLen).drop (256 * j)).take 256

/-- Walk the tree along the prefix (R316): the nodes matched, and the collisions met; `n` bounds the pages. -/
def KvPart.walk (k : KvPart) (r : SlRecipe) : Nat → Nat → Option Nat → List Nat × Nat
  | 0, _, _ => ([], 0)
  | n + 1, j, parent =>
    let t := r.prefixPage j
    if t.isEmpty then ([], 0)
    else
      match k.lookup parent t with
      | (some x, c) => let (l, d) := k.walk r n (j + 1) (some x); (x :: l, c + d)
      | (none, c) => ([], c)

/-- The pages of the prefix. -/
def SlRecipe.prefixPages (r : SlRecipe) : Nat := (r.prefixLen + 255) / 256

/-- The node is a leaf when no node names it as parent (R312). -/
def KvPart.isLeaf (k : KvPart) (n : Nat) : Bool := !k.tree.any (fun e => decide (e.2.parent = some n))

/-- The leaf that is reclaimed next (R317). -/
def KvPart.reclaimable (k : KvPart) : Option Nat :=
  let l := k.tree.filter (fun e => k.isLeaf e.1 && (match amGet? k.pages e.2.page with | some g => g.ref == 1 | none => true))
  l.foldl (fun (best : Option Nat) e =>
    match best with
    | none => some e.1
    | some b => (match amGet? k.tree b with
      | some x => if e.2.score < x.score then some e.1 else some b
      | none => some e.1)) none

/-- Remove a node and the tree's reference on its page (R317). -/
def KvPart.removeNode (k : KvPart) (n : Nat) : KvPart :=
  match amGet? k.tree n with
  | some x => ({ k with tree := amErase k.tree n }.dropRef x.page).sweepFree
  | none => k

/-- Reclaim one leaf. -/
def State.kvReclaim (s : State) (part n : Nat) : State :=
  (s.modKv part (fun k => k.removeNode n)).lint .KV_TREE_RECLAIM

/-- A tree with 256 nodes reclaims a leaf before an insertion (R315); false where none is reclaimable. -/
def State.treeRoom (s : State) (part : Nat) : State × Bool :=
  let k := s.kvPart part
  if k.tree.length < 256 then (s, true)
  else match k.reclaimable with
    | some n => (s.kvReclaim part n, true)
    | none => (s.lint .KV_TREE_FULL, false)

/-- Insert page `j` of a sequence (R315): a full page, or one that ends with the prefix. -/
def State.treeInsert (s : State) (part slot j step : Nat) (r : SlRecipe) : State :=
  let k := s.kvPart part
  match (amGet? k.seqs slot).bind (fun q => (q.pages.getD j none)) with
  | none => s
  | some pg =>
    let (path, c0) := k.walk r j 0 none
    if path.length < j then s.lintBy .KV_HASH_COLL 0 c0
    else
      let parent := path.getLast?
      let t := r.prefixPage j
      let (hit, c1) := k.lookup parent t
      let s1 := s.lintBy .KV_HASH_COLL 0 (c0 + c1)
      let part_ := decide (t.length < 256)
      if hit.isSome ∨ (part_ ∧ (s1.kvPart part).avail r < 1) then s1
      else
        match s1.treeRoom part with
        | (s2, false) => s2
        | (s2, true) =>
          s2.modKv part (fun k =>
            let n := ((List.range 256).find? (fun n => (amGet? k.tree n).isNone)).getD 0
            let k1 : KvPart := { k with tree := amInsert k.tree n ⟨parent, t, pg, step⟩ }
            let k2 := k1.modPage pg (fun g => { g with ref := g.ref + 1 })
            if part_ then k2.modSeq slot (fun q => { q with resv := q.resv + 1 }) else k2)

/-! ### Verdicts and records of sequences -/

/-- A part's second-look verdict (R333, R467), where its record exists. -/
def State.slVerdict (s : State) (e : KvEntry) (v : Verdict) (c : Cause) (second : Bool) : State :=
  match e.record with
  | some n => s.fireUpdate n v c e.id second
  | none => s

/-- A part's crop in its slot (R325). -/
def Package.cropBytes (p : Package) (r : SlRecipe) (slot : Nat) : Bytes :=
  let n := (match p.td r.tdCrops with | some t => t.size | none => 0) / 1024
  slice (fit (p.stateOf r.tdCrops) (n * 1024)) (slot * n) n

/-- EVICT_CRC (R341): CRC-32C over the evict log. -/
def KvSeq.evictCrc (q : KvSeq) : Nat := crc32c (q.log.flatMap (fun e => leBytes 8 e.1))

/-- The annex of R361. -/
def KvSeq.annex (q : KvSeq) : Bytes :=
  let b := packBytes 32 [(4, 1), (4, 0), (9, q.log.length), (7, q.generated.length), (8, 0), (32, q.evictCrc), (64, q.entry.id),
    (64, q.joinStep), (64, 0)] ++ q.log.flatMap (fun e => leBytes 8 e.1) ++ q.log.flatMap (fun e => leBytes 4 e.2) ++
    q.generated.flatMap (leBytes 4)
  fit b ((b.length + 7) / 8 * 8)

/-- The result record of a sequence that leaves (R333, R361, R582): `h` is the heat of the step that has ended. -/
def State.slResult (s : State) (part : Nat) (q : KvSeq) (h : Option Heat) (status : Nat) (c : Cause) : State :=
  match s.slPlan part with
  | none => s
  | some (slot, p, k, _, r) =>
    let a : Audit := match h with
      | some h => s.heatAudit h
      | none => s.reqAudit ⟨.secondLook, slot, k, part, 0, none, 0, none, false, (s.kvPart part).step, none, false⟩
    let a1 : Audit := { a with
      stream := cropTag q.entry.port q.entry.box q.entry.swath
      inputCrc := crc32c (p.cropBytes r q.entry.crop), seamCrc := 0, roiCrc := 0, cfgCrc := 0 }
    s.addResult ⟨2, status, c, q.entry.id, 0, ⟨0, 0, 0⟩, q.entry.part, a1, q.annex⟩

/-- Is a sequence finished (R333, R355)? -/
def KvSeq.finished (q : KvSeq) (r : SlRecipe) : Bool :=
  match q.generated.getLast? with
  | none => false
  | some t => t == r.endTok || decide (r.maxNew ≤ q.generated.length) || (decide (1 < q.generated.length) && t == 0xFFFFFFFF)

/-- The steps in periods that `k` steps take (R332). -/
def State.workSpan (s : State) (k : PlanKind) (n count : Nat) : Nat := (s.calendar k n count).getLastD n + 1 - n

/-- WC_PERIODS of a plan on crews (R236): the largest calendar span over every window phase, darn reserve included. -/
def State.wcPeriods (s : State) (p : Package) (k : Nat) (pl : Plan) (crews : List Nat) : Nat :=
  let g := s.imageOf p k crews
  let n := g.w + pl.darnPeriods
  if pl.kind = .swatch then n
  else
    let l := Nat.lcm (s.num .COX_SWATCH_EVERY 0) (s.num .COX_RINSE_EVERY 0)
    ((List.range l).filter s.isWork).foldl (fun m a => max m (s.workSpan pl.kind a n)) 0

/-- The crews that R220 would choose now for a plan of a partition. -/
def State.crewsNow (s : State) (part : Nat) (pl : Plan) : List Nat :=
  let us := s.usable part pl
  let m := s.cox.period + 1
  let f := us.filter (fun c => s.freeCrew [] c m m)
  sortNat ((f ++ us.filter (fun c => !f.contains c)).take pl.crews)

/-- `KV_STEP_PERIODS` (R329). -/
def State.stepPeriods (s : State) (part : Nat) : Nat :=
  match s.slPlan part with
  | some (_, p, k, pl, _) => s.wcPeriods p k pl (s.crewsNow part pl) + 11
  | none => 0

/-- Is a deadline period out of reach with `k` steps to go (R332)? A replay has no deadline (R363). -/
def State.infeasible (s : State) (part k : Nat) (e : KvEntry) : Bool :=
  !e.replay && decide (e.deadline < s.cox.period + k * s.stepPeriods part)

/-- A sequence leaves (R330): its pages, its reservation, its slot. -/
def KvPart.leave (k : KvPart) (slot : Nat) : KvPart :=
  match amGet? k.seqs slot with
  | some q => ({ (k.dropPages q) with seqs := amErase k.seqs slot }).sweepFree
  | none => k

/-- Stage 1 (R330, R332, R333, R335): leaves. -/
def State.kvLeaves (s : State) (part : Nat) (r : SlRecipe) (h : Option Heat) : State :=
  s.each (s.kvPart part).seqs (fun s e =>
    let q := e.2
    if q.cancelled then (s.slResult part q h 3 .cancelled).modKv part (fun k => k.leave e.1)
    else if q.finished r then (s.slResult part q h 0 .none).modKv part (fun k => k.leave e.1)
    else if !q.decode && s.infeasible part ((r.prompt - q.nextPos + r.chunk - 1) / r.chunk) q.entry then
      let s1 := ((s.slVerdict q.entry .late .slLate false).lint .KV_LATE).slResult part q h 2 .slLate
      s1.modKv part (fun k => k.leave e.1)
    else s)

/-! ### Provision, eviction, joins -/

/-- The next page of a sequence is made ready: a fresh page at the end of its table, or the copy of a shared tail page (R310,
R311). -/
def State.provideEntry (s : State) (part slot j step : Nat) (r : SlRecipe) : State :=
  let k := s.kvPart part
  match amGet? k.seqs slot with
  | none => s
  | some q =>
    if q.pages.length ≤ j then
      let (k1, n) := k.takePage r q.entry.id j step
      s.modKv part (fun _ => k1.modSeq slot (fun q => { q with pages := q.pages ++ [some n], resv := q.resv - 1 }))
    else
      match (q.pages.getD j none).bind (fun n => (amGet? k.pages n).map (fun g => (n, g))) with
      | some (n, g) =>
        if g.ref > 1 ∧ g.slots.length < 256 then
          let (k1, m) := k.takePage r q.entry.id j step
          let k2 := (k1.modPage n (fun g => { g with ref := g.ref - 1, pin := g.pin + 1 })).modSeq slot
            (fun q => { q with pages := q.pages.set j (some m), resv := q.resv - 1 })
          (s.modKv part (fun _ => { k2 with copies := k2.copies ++ [(n, m)] })).lint .KV_COW
        else s
      | none => s

/-- Stage 2 (R310): every running sequence owns slots for the rows of the next step. -/
def State.provision (s : State) (part step : Nat) (r : SlRecipe) : State :=
  s.each (s.kvPart part).seqs (fun s e =>
    let q := e.2
    if q.cancelled then s
    else
      let n := if q.decode then 1 else min r.chunk (r.prompt - q.nextPos)
      if n = 0 then s
      else
        s.each ((List.range ((q.nextPos + n - 1) / 256 + 1)).filter (fun j => decide (q.nextPos / 256 ≤ j)))
          (fun s j => s.provideEntry part e.1 j step r))

/-- The page score of R318. -/
def KvPage.score (g : KvPage) : Nat := (g.slots.map (fun e => e.2.score)).foldl max 0

/-- The eviction candidates (R319) as (score, priority, sequence number, entry, slot). -/
def KvPart.candidates (k : KvPart) (r : SlRecipe) : List (Nat × Nat × Nat × Nat × Nat) :=
  if !r.evictable then []
  else k.seqs.flatMap (fun e =>
    let q := e.2
    if !q.decode || q.cancelled || q.entry.replay then []
    else
      (q.pages.zip (List.range q.pages.length)).filterMap (fun x =>
        match x.1.bind (amGet? k.pages) with
        | none => none
        | some g =>
          let lo := 256 * x.2
          let tail := (q.nextPos - 1) / 256
          if g.ref = 1 ∧ r.prefixLen ≤ lo ∧ 4 ≤ lo ∧ lo + 256 ≤ q.nextPos - 512 ∧ x.2 < tail then
            some (g.score, q.entry.prio, q.entry.id, x.2, e.1)
          else none))

/-- Is candidate `a` evicted before `b` (R320)? -/
def evictBefore (a b : Nat × Nat × Nat × Nat × Nat) : Bool :=
  if a.1 ≠ b.1 then decide (a.1 < b.1)
  else if a.2.1 ≠ b.2.1 then decide (a.2.1 < b.2.1)
  else if a.2.2.1 ≠ b.2.2.1 then decide (b.2.2.1 < a.2.2.1)
  else decide (a.2.2.2.1 < b.2.2.2.1)

/-- Evict entry `j` of the sequence in a slot (R320, R321). -/
def State.evict (s : State) (part slot j step : Nat) : State :=
  (s.modKv part (fun k =>
    match amGet? k.seqs slot with
    | none => k
    | some q =>
      match q.pages.getD j none with
      | none => k
      | some n =>
        ((k.modSeq slot (fun q => { q with
          pages := q.pages.set j none
          log := q.log ++ [(step / 256 * 256 % 2 ^ 64 + j, q.nextPos)] })).dropRef n).sweepFree)).lint .KV_EVICT

/-- Evict while AVAIL is below the low-water mark and candidates remain (R320). -/
def State.evictPages (s : State) (part step low : Nat) (r : SlRecipe) : Nat → State
  | 0 => s
  | n + 1 =>
    let k := s.kvPart part
    if (low : Int) ≤ k.avail r then s
    else
      match k.candidates r with
      | [] => s
      | c :: l =>
        let b := l.foldl (fun b x => if evictBefore x b then x else b) c
        (s.evict part b.2.2.2.2 b.2.2.2.1 step).evictPages part step low r n

/-- The evictions of replay sequences (R363): at the recorded positions, in log order. -/
def State.replayEvicts (s : State) (part step : Nat) : State :=
  s.each (s.kvPart part).seqs (fun s e =>
    if e.2.entry.replay then
      s.each ((e.2.entry.evicts.drop e.2.log.length).filter (fun x => x.2 == e.2.nextPos)) (fun s x => s.evict part e.1 x.1 step)
    else s)

/-- Reclaim tree pages while AVAIL is below the low-water mark (R317). -/
def State.reclaimTree (s : State) (part low : Nat) (r : SlRecipe) : Nat → State
  | 0 => s
  | n + 1 =>
    let k := s.kvPart part
    if (low : Int) ≤ k.avail r then s
    else match k.reclaimable with
      | some x => (s.kvReclaim part x).reclaimTree part low r n
      | none => s

/-- A flush removes every node (R317). -/
def State.flushTree (s : State) (part : Nat) : State :=
  if (s.kvPart part).flush then
    s.modKv part (fun (k : KvPart) =>
      let dropped : KvPart := k.tree.foldl (fun (k : KvPart) (e : Nat × KvNode) => k.dropRef e.2.page) k
      ({ k with tree := [], flush := false, pages := dropped.pages } : KvPart).sweepFree)
  else s

/-- The tokens of a prompt that the tree already holds, and its full pages (R316, R331, R332). -/
def KvPart.matched (k : KvPart) (r : SlRecipe) : Nat × Nat :=
  let (l, _) := k.walk r r.prefixPages 0 none
  let n := (l.filterMap (amGet? k.tree)).map (fun x => x.tokens.length)
  (n.sum, (n.filter (· == 256)).length)

/-- Queue entries that are infeasible are removed (R332). -/
def State.lateEntries (s : State) (part : Nat) (r : SlRecipe) : State :=
  s.each (s.kvPart part).queue (fun s e =>
    let (m, _) := (s.kvPart part).matched r
    if s.infeasible part ((r.prompt - m + r.chunk - 1) / r.chunk) e then
      ((s.slVerdict e .late .slLate false).lint .KV_LATE).modKv part (fun k => { k with queue := k.queue.filter (fun x => x.id != e.id) })
    else s)

/-- The queue entry that joins next (R330: PRIO, higher first, then SEQ_ID). -/
def KvPart.nextEntry (k : KvPart) : Option KvEntry :=
  match k.queue with
  | [] => none
  | e :: l => some (l.foldl (fun b x => if b.prio < x.prio ∨ (b.prio = x.prio ∧ x.id < b.id) then x else b) e)

/-- A join (R316, R331). -/
def State.join (s : State) (part step : Nat) (r : SlRecipe) (e : KvEntry) : State :=
  let k := s.kvPart part
  let (path, coll) := k.walk r r.prefixPages 0 none
  let nodes := path.filterMap (amGet? k.tree)
  let (m, f) := k.matched r
  let slot := ((List.range 256).find? (fun n => (amGet? k.seqs n).isNone)).getD 0
  let tree := path.foldl (fun (t : AMap KvNode) n => match amGet? t n with
    | some x => amInsert t n { x with score := step } | none => t) k.tree
  let k1 := nodes.foldl (fun (k : KvPart) x => k.modPage x.page (fun g => { g with ref := g.ref + 1 })) { k with tree := tree }
  let q : KvSeq := ⟨e, k.nextJoin, false, m, nodes.map (fun x => some x.page), r.seqPages - f, [], step, [], false, false⟩
  let k2 : KvPart := { k1 with
    seqs := amInsert k1.seqs slot q, nextJoin := k1.nextJoin + 1, queue := k1.queue.filter (fun x => x.id != e.id) }
  ((s.lintBy .KV_HASH_COLL 0 coll).modKv part (fun _ => k2)).provideEntry part slot (m / 256) (step + 1) r

/-- Stage 4 (R330, R331): joins in order, `n` at most; a join that does not fit is deferred with those behind it. -/
def State.joins (s : State) (part step : Nat) (r : SlRecipe) : Nat → State
  | 0 => if (s.kvPart part).queue.isEmpty then s else s.lint .KV_DEFER
  | n + 1 =>
    let k := s.kvPart part
    match k.nextEntry with
    | none => s
    | some e =>
      let need := r.seqPages - (k.matched r).2
      if r.maxSeq ≤ k.seqs.length ∨ k.avail r < need then s.lint .KV_DEFER
      else (s.join part step r e).joins part step r n

/-! ### The step -/

/-- The bytes of a row of TD_STEP_IN (R328). -/
def KvRow.bytes (x : KvRow) : Bytes :=
  packBytes 16 [(32, x.token), (32, x.pos), (8, x.slot), (2, x.kind), (2, 0), (4, 1), (16, x.patch), (10, x.crop), (1, b2n x.emit)]

/-- An unused row. -/
def KvRow.unused : KvRow := ⟨0xFFFFFFFF, 0, 0, 0, 0, 0, false⟩

/-- The rows of a DECODE sequence: one (R327, R328). -/
def KvSeq.decodeRow (q : KvSeq) (slot : Nat) : KvRow := ⟨q.generated.getLastD 0, q.nextPos, slot, 1, 0, q.entry.crop, true⟩

/-- The chunk of a PREFILL sequence in at most `left` rows (R326 to R328). -/
def KvSeq.chunkRows (q : KvSeq) (r : SlRecipe) (slot left : Nat) : List KvRow :=
  let bound := if q.nextPos < r.prefixLen then r.prefixLen else r.prompt
  let n := min r.chunk (min left (bound - q.nextPos))
  (List.range n).map (fun i =>
    let p := q.nextPos + i
    let image := decide (r.prefixLen ≤ p) && decide (p < r.prefixLen + r.img)
    ⟨r.tokenAt p, p, slot, if image then 2 else 1, if image then p - r.prefixLen else 0, q.entry.crop, p + 1 == r.prompt⟩)

/-- Insertion by the order of the joins. -/
def seqIns (e : Nat × KvSeq) : List (Nat × KvSeq) → List (Nat × KvSeq)
  | [] => [e]
  | x :: l => if e.2.order < x.2.order then e :: x :: l else x :: seqIns e l

/-- The rows of the next step (R327). -/
def KvPart.compose (k : KvPart) (r : SlRecipe) : List KvRow :=
  let live := k.seqs.filter (fun e => !e.2.cancelled)
  let d := (live.filter (fun e => e.2.decode)).map (fun e => e.2.decodeRow e.1)
  let pre := (live.filter (fun e => !e.2.decode)).foldr seqIns []
  let l := pre.foldl (fun (acc : List KvRow) e => acc ++ e.2.chunkRows r e.1 (r.rows - acc.length)) (d.take r.rows)
  l ++ List.replicate (r.rows - l.length) KvRow.unused

/-- A STATE tensor of a package slot gets new content. -/
def State.setState (s : State) (slot td : Nat) (b : Bytes) : State :=
  match toFin? 16 slot with
  | some i =>
    s.modCox (fun c => { c with packages := c.packages.set i ((c.packages[i]).map (fun p => { p with states := amInsert p.states td b })) })
  | none => s

/-- Positions advance over the rows of the step that has ended (R326). -/
def KvPart.advance (k : KvPart) : KvPart :=
  k.rows.foldl (fun (k : KvPart) x =>
    if x.kind = 0 then k else k.modSeq x.slot (fun q => { q with nextPos := max q.nextPos (x.pos + 1) })) k

/-- What the ended step's rows give (R326, R333): positions advance, and each EMIT row's token is taken; the first one sets the
part's verdict. -/
def State.emitted (s : State) (part : Nat) (r : SlRecipe) (next : Bytes) : State :=
  let rows := (s.kvPart part).rows
  let s1 := s.modKv part KvPart.advance
  s1.each ((rows.zip (List.range rows.length)).filter (fun e => e.1.emit && decide (e.1.kind ≠ 0))) (fun s e =>
    match amGet? (s.kvPart part).seqs e.1.slot with
    | none => s
    | some q =>
      if q.cancelled then s
      else
        let t := fieldAt next (4 * e.2) 4
        let s2 := s.modKv part (fun k => k.modSeq e.1.slot (fun q =>
          { q with decode := true, generated := q.generated ++ [t], decided := true }))
        if q.generated.isEmpty then
          (if t = r.passTok then s2.slVerdict q.entry .pass .none true
          else if t = r.rejectTok then s2.slVerdict q.entry .reject .none true
          else s2.slVerdict q.entry .undecided .model true)
        else s2)

/-- The scores at a boundary (R318): masses are consumed. -/
def KvPart.rescore (k : KvPart) (decay : Nat) (apply : Bool) : KvPart :=
  let slot (x : KvSlot) : KvSlot :=
    if x.mass = 0 then x
    else if apply then
      { x with score := fadd32 (fmul32 x.score decay) (fp32.encode false (.fin false x.mass (2 ^ 32))), mass := 0 }
    else { x with mass := 0 }
  { k with pages := k.pages.map (fun e => (e.1, { e.2 with slots := e.2.slots.map (fun y => (y.1, slot y.2)) })) }

/-- The masses that other seats report for a step (R337), by sequence slot and position. -/
def State.takeReports (s : State) (part : Nat) : State :=
  let mine := s.squad.reports.filter (fun x => x.1 == part)
  let s1 := s.modSquad (fun q => { q with reports := q.reports.filter (fun x => x.1 != part) })
  s1.modKv part (fun k => (mine.flatMap (fun x => x.2.1)).foldl (fun (k : KvPart) m =>
    match (amGet? k.seqs m.1).bind (fun q => q.pages.getD (m.2.1 / 256) none) with
    | some n => k.modPage n (fun g => match amGet? g.slots (m.2.1 % 256) with
      | some x => { g with slots := amInsert g.slots (m.2.1 % 256) { x with mass := x.mass + m.2.2 } }
      | none => g)
    | none => k) k)

/-- Pins of the heat that has ended drop (R307, R308). -/
def KvPart.dropPins (k : KvPart) : KvPart :=
  let k1 := k.pinned.foldl (fun (k : KvPart) n => k.modPage n (fun g => { g with pin := g.pin - 1 })) k
  ({ k1 with pinned := [] }).sweepFree

/-- The pages that a step heat reads or copies are pinned at its admission (R307). -/
def State.kvPin (s : State) (part : Nat) : State :=
  s.modKv part (fun k =>
    let read := (k.seqs.flatMap (fun e => e.2.pages.filterMap id)).eraseDups
    { (read.foldl (fun (k : KvPart) n => k.modPage n (fun g => { g with pin := g.pin + 1 })) k) with pinned := read })

/-- Sequences of an INVALID step that had a row in it leave (R334). -/
def State.stepInvalid (s : State) (part : Nat) (h : Option Heat) : State :=
  let slots := (((s.kvPart part).rows.filter (fun x => decide (x.kind ≠ 0))).map (·.slot)).eraseDups
  s.each slots (fun s n =>
    match amGet? (s.kvPart part).seqs n with
    | none => s
    | some q =>
      let s1 := if q.decided || q.cancelled then s else s.slVerdict q.entry .invalid .stepInvalid false
      (s1.slResult part q h 1 .stepInvalid).modKv part (fun k => k.leave n))

/-- Pages that became full within the prefix, or end with it, enter the tree (R315). -/
def State.treeInserts (s : State) (part step : Nat) (r : SlRecipe) (before : AMap Nat) : State :=
  s.each (s.kvPart part).seqs (fun s e =>
    let old := amGet before e.1 e.2.nextPos
    s.each ((List.range r.prefixPages).filter (fun j =>
      let stop := min (256 * (j + 1)) r.prefixLen
      decide (old < stop) && decide (stop ≤ e.2.nextPos))) (fun s j => s.treeInsert part e.1 j step r))

/-- The decision of a boundary as other seats apply it (R337): the difference of the manager before and after it. -/
def kvDecision (a b : KvPart) : KvDecision :=
  { leaves := (a.seqs.filter (fun e => match amGet? b.seqs e.1 with | some q => q.entry.id != e.2.entry.id | none => true)).map (·.1)
    appends := b.seqs.flatMap (fun e => (e.2.pages.zip (List.range e.2.pages.length)).filterMap (fun x =>
      match x.1 with
      | some n =>
        let had := match amGet? a.seqs e.1 with | some q => q.entry.id == e.2.entry.id && q.pages.getD x.2 none == some n | none => false
        if had then none else some (e.1, (b.copies.find? (fun y => y.2 == n)).map (·.1), n)
      | none => none))
    evicts := b.seqs.flatMap (fun e =>
      let old := match amGet? a.seqs e.1 with | some q => if q.entry.id = e.2.entry.id then q.log.length else 0 | none => 0
      (e.2.log.drop old).map (fun x => (e.1, x.1 % 256)))
    reclaims := (a.tree.filter (fun e => !decide (amGet? b.tree e.1 = some e.2) && (amGet? b.tree e.1).isNone)).map (·.1)
    joins := (b.seqs.filter (fun e => match amGet? a.seqs e.1 with | some q => q.entry.id != e.2.entry.id | none => true)).map
      (fun e => (e.1, e.2.entry.id))
    rows := b.rows.flatMap KvRow.bytes }

/-- Is this seat one whose manager follows the decisions of another (R337)? -/
def State.kvFollows (s : State) : Bool :=
  decide (s.squad.state = .formed) && decide (s.squad.stroke ≠ some s.seat)

/-- What a seat reports at the end of a step (R337): the masses by sequence slot and position, and the fill counts by slot and entry. -/
def KvPart.report (k : KvPart) : List (Nat × Nat × Nat) × List (Nat × Nat × Nat) :=
  let pages := k.seqs.flatMap (fun e => (e.2.pages.zip (List.range e.2.pages.length)).filterMap (fun x =>
    (x.1.bind (amGet? k.pages)).map (fun g => (e.1, x.2, g))))
  (pages.flatMap (fun x => x.2.2.slots.filterMap (fun y => if y.2.mass = 0 then none else some (x.1, y.2.pos, y.2.mass))),
    pages.map (fun x => (x.1, x.2.1, x.2.2.slots.length)))

/-- After STOP no further step runs (R30): a running sequence leaves, undecided ones with their verdict (notes/assumptions/49.md). -/
def State.stopSeqs (s : State) (part : Nat) (h : Option Heat) : State :=
  s.each (s.kvPart part).seqs (fun s e =>
    let s1 := if e.2.decided || e.2.cancelled then s else s.slVerdict e.2.entry .undecided .stopped false
    (s1.slResult part e.2 h 3 .stopped).modKv part (fun k => k.leave e.1))

/-- The boundary of a partition (R330) after a step that ended as `o` with heat `h`; `none` where no step had run. -/
def State.boundary (s : State) (part : Nat) (slot : Nat) (p : Package) (k : Nat) (pl : Plan) (r : SlRecipe)
    (o : Option StepOutcome) (h : Option Heat) : State :=
  let start := s.kvPart part
  let n := if o.isSome then start.step else start.step - 1
  let before := start.seqs.map (fun e => (e.1, e.2.nextPos))
  let ok := decide (o = some .done)
  let s1 := s.modKv part KvPart.dropPins
  let s2 := if ok then (s1.takeReports part) else s1
  let s3 := s2.modKv part (fun k => k.rescore r.decay ok)
  let s4 := if ok then s3.emitted part r (fit (p.stateOf r.tdNext) (4 * r.rows)) else s3
  let s5 := if ok then s4.treeInserts part n r before else s4
  let s6 := match o with
    | some (.invalid _) => s5.stepInvalid part h
    | some .late => s5.lint .KV_STEP_LATE
    | _ => s5
  let s6b := s6.kvLeaves part r h
  let s7 := if s6b.cox.stopReq then s6b.stopSeqs part h else s6b
  let s8 := s7.applyWaiting (fun key => inGroup 0x28 key && key / 256 == 0x2810 + part)
  let s9 := s8.provision part (n + 1) r
  let low := s9.lowWater part r
  let s10 := (s9.replayEvicts part n).evictPages part n low r 65536
  let s11 := ((s10.flushTree part).reclaimTree part low r 256).lateEntries part r
  let s12 := s11.joins part n r r.maxJoins
  let rows := (s12.kvPart part).compose r
  let s13 := (s12.modKv part (fun k => { k with rows := rows, step := n + 1 })).setState slot r.tdStep (rows.flatMap KvRow.bytes)
  let s14 := if s13.squad.state = .formed then s13.sendAll (.kvDecision part (kvDecision start (s13.kvPart part))) else s13
  if (s14.kvPart part).seqs.isEmpty ∨ !s14.dev.state.runs ∨ s14.cox.stopReq then s14
  else
    let (s15, q) := s14.newReq .secondLook slot k part s14.fabNow (s14.deadlineOf part pl s14.fabNow) none true (n + 1)
    s15.present q

/-- Is a step of a partition still to end: requested, held back, or running? -/
def State.stepOpen (s : State) (part : Nat) : Bool :=
  let mine (q : CoxReq) : Bool := decide (q.kind = .secondLook) && q.partition == part
  s.cox.queue.any mine || s.cox.held.any mine || s.cox.heats.any (fun e => mine e.2.req)

/-- KV_BOUNDARY (R330): the manager of a partition processes the boundary after the step that has ended, or, with no step to
wait for, takes up its queue (notes/assumptions/38.md). A seat that follows the stroke seat reports its step instead (R337). -/
def execKvBoundary (part : Fin 8) (s : State) : Host.Outcome State Fault Refusal :=
  match s.slPlan part with
  | none => .next s
  | some (slot, p, k, pl, r) =>
    let mine (e : StepEnd) : Bool := decide (e.kind = .secondLook) && e.partition == part.val
    match s.cox.stepEnds.find? mine with
    | some e =>
      let s1 := s.modCox (fun c => { c with stepEnds := c.stepEnds.filter (fun x => !mine x) })
      if s1.kvFollows then
        let (m, f) := (s1.kvPart part).report
        let s2 := match s1.squad.stroke with | some x => s1.sendTo x (.kvReport part m f) | none => s1
        let before := (s2.kvPart part).seqs.map (fun x => (x.1, x.2.nextPos))
        let s3 := s2.modKv part (fun k => (k.dropPins).rescore r.decay false)
        if e.outcome = .done then
          finish s ((s3.modKv part KvPart.advance).treeInserts part (s3.kvPart part).step r before)
        else finish s s3
      else finish s (s1.boundary part slot p k pl r (some e.outcome) e.heat)
    | none =>
      if s.stepOpen part || s.kvFollows || !s.dev.state.active then .next s
      else finish s (s.boundary part slot p k pl r none none)

/-! ### The queue, and the objects' actions -/

/-- Is a crop slot held by a queued or running sequence (R322)? -/
def KvPart.cropHeld (k : KvPart) (slot : Nat) : Bool :=
  k.queue.any (fun e => e.crop == slot) || k.seqs.any (fun e => e.2.entry.crop == slot)

/-- What becomes of a part in the doubt band (R322). -/
inductive DoubtFate where
  | stands
  | undecided (c : Cause) (counted : Bool)
  | queued
deriving DecidableEq, Repr

/-- Is a confidence in the doubt band; NaN is taken as in it (R322)? -/
def SlRecipe.inBand (r : SlRecipe) (conf : Nat) : Bool :=
  let c := fp32.decode conf
  decide (c = .nan) || ((fp32.decode r.lo).le c && c.le (fp32.decode r.hi))

/-- The fate of a part with confidence `conf` in box slot `box` of swath `swath` (R322). -/
def State.doubt (s : State) (part : Nat) (r : SlRecipe) (conf box swath : Nat) : DoubtFate :=
  if !r.inBand conf then .stands
  else if fp32.decode conf = .nan then .undecided .nanConf true
  else if !s.flag .SL_ENABLE part then .undecided .slOff false
  else if r.perSwath ≤ box ∨ (s.kvPart part).cropHeld ((swath * r.perSwath + box) % 1024) ∨
      1024 ≤ (s.kvPart part).queue.length then .undecided .queueFull true
  else .queued

/-- The rota period of a swath's close. -/
def State.closePeriod (s : State) (w : Swath) : Nat := ((w.closed.getD s.now) - s.cox.armMono) * 6 / periodCycles

/-- Queue a part (R322, R325): its sequence number. -/
def State.queuePart (s : State) (part : Nat) (r : SlRecipe) (port : Nat) (w : Swath) (prio box partId conf : Nat)
    (record : Option Nat) : State × Nat :=
  let id := (s.kvPart part).nextId
  let t := s.closePeriod w
  let e : KvEntry := ⟨id, port, prio, (w.cnt * r.perSwath + box) % 1024, partId, conf, w.cnt, box, t,
    t + (r.budget * 100 + 191) / 192, record, false, []⟩
  (s.modKv part (fun k => { k with queue := k.queue ++ [e], nextId := id + 1 }), id)

/-- The bytes of a queue entry (R325). -/
def KvEntry.bytes (e : KvEntry) : Bytes :=
  packBytes 64 [(4, 1), (4, e.port), (8, e.prio), (10, e.crop), (6, 0), (32, e.part), (32, e.conf), (32, 0), (64, e.swath), (64, e.id),
    (64, e.trig), (64, e.deadline)]

/-- `KV_QUEUE` (R340): in join order; `n` bounds the entries. -/
def KvPart.queueOrder (k : KvPart) : Nat → List KvEntry
  | 0 => []
  | n + 1 =>
    match k.nextEntry with
    | none => []
    | some e => e :: ({ k with queue := k.queue.filter (fun x => x.id != e.id) } : KvPart).queueOrder n

/-- An entry of `KV_SEQ_TABLE` (R341). -/
def KvPart.seqBytes (k : KvPart) (slot : Nat) : Bytes :=
  match amGet? k.seqs slot with
  | none => packBytes 64 [(64, 0), (4, 1)]
  | some q =>
    packBytes 64 [(64, q.entry.id), (4, 1), (4, if q.decode then 2 else 1), (8, q.entry.prio), (16, 0), (32, q.entry.part),
      (32, q.nextPos), (16, (q.pages.filterMap id).length), (16, q.resv), (16, q.log.length), (8, q.generated.length), (40, 0),
      (64, q.joinStep), (64, q.entry.deadline), (32, q.evictCrc)]

/-- The action of a write to `KV_CANCEL` (R335). -/
def actKvCancel (s : State) (part v : Nat) : Reply :=
  let k := s.kvPart part
  match k.queue.find? (fun e => e.id == v) with
  | some e => Reply.ok ((s.slVerdict e .undecided .cancelled false).modKv part (fun k => { k with queue := k.queue.filter (fun x => x.id != v) }))
  | none =>
    match k.seqs.find? (fun e => e.2.entry.id == v && !e.2.cancelled) with
    | some (slot, q) =>
      let s1 := if q.decided then s else s.slVerdict q.entry .undecided .cancelled false
      Reply.ok (s1.modKv part (fun k =>
        (((k.dropPages q).modSeq slot (fun q => { q with pages := [], resv := 0, cancelled := true }))).sweepFree))
    | none => Reply.range s .KV_CANCEL part 0

/-- The action of a write to `KV_TREE_FLUSH` (R317, R340). -/
def actKvFlush (s : State) (part v : Nat) : Reply :=
  if v = 1 then Reply.ok (s.modKv part (fun k => { k with flush := true })) else Reply.range s .KV_TREE_FLUSH part 0

end Sys2Proof.Machine
end

