-- ==== Sys2Proof/Machine/Heats.lean ====
section
/-! DEFINITION. Heats from start to end: strokes, darns, saves and restores, swatch heats, verdict outputs, and the rinse (R129, R188 to R194, R213 to R216, R223, R228 to R230, R561 to R579). -/

namespace Sys2Proof.Machine

open Sys2Proof

/-! ### Strokes -/

/-- Is stroke `i` of a heat done: every pass of the image has ended, and no error of it is open (R129)? -/
def Heat.strokeReady (h : Heat) (i : Nat) : Bool :=
  (h.image.passes.filter (fun x => x.stroke == i)).all (fun x => h.passesDone.contains (i, x.num)) &&
    !h.errors.any (fun e => e.stroke == i) &&
    (match h.darn with | some d => !d.passes.any (fun x => x.1 == i) | none => true)

/-- STROKE_COMPLETE (R129, R165): the scoreboard marks a stroke complete; what it wrote becomes visible, and its references on
the line store drop. -/
def execStrokeComplete (k : Fin 64) (stroke : BitVec 32) (s : State) : Host.Outcome State Fault Refusal :=
  let i := stroke.toNat
  match s.heatPkg k with
  | none => .next s
  | some (h, p) =>
    match h.strokeOf p i with
    | none => .next s
    | some b =>
      if h.strokesDone.contains i || !h.started || !h.strokeReady i then .next s
      else
        let s1 := (s.dropRefs h [i]).strokeMasses h p i
        let n := strokeOutput b
        finish s (s1.modHeat k (fun h =>
          { h with
            strokesDone := insNat i h.strokesDone
            tensors := match amGet? h.building n with | some x => amInsert h.tensors n x | none => h.tensors
            building := amErase h.building n }))

/-! ### Swatch heats -/

/-- A SWATCH heat that did not complete (R578). -/
def State.swatchMissed (s : State) : State := (s.lint .SAF_SWATCH_MISSED).event 4 []

/-- A seat's part of a spanning heat has ended: the stroke seat learns of it (R405, R416). -/
def State.partDone (s : State) (h : Heat) (invalid : Bool) : State :=
  match h.spanStart, s.squad.stroke with
  | some _, some x =>
    if x = s.seat then s
    else (s.modSquad (fun q => { q with spans := q.spans.filter (fun y => y.serial != h.serial) })).sendTo x (.done h.serial invalid)
  | _, _ => s

/-- Is a heat this seat's part of a spanning heat of another seat (R416)? -/
def State.partOnly (s : State) (h : Heat) : Bool := h.spanStart.isSome && decide (s.squad.stroke ≠ some s.seat)

/-- A heat ends INVALID (R565): on the seat that owns it with its outputs; a part of a spanning heat says so in its DONE
(R568); a SWATCH heat is missed (R578). -/
def State.endInvalid (s : State) (k : Nat) (c : Cause) (e : Option DetError) : State :=
  match amGet? s.cox.heats k with
  | none => s
  | some h =>
    let s0 := match e with | some x => s.modSaf (fun f => { f with lastErr := some x }) | none => s
    if s0.partOnly h then ((s0.freeHeat k).lint .SAF_INVALID).partDone h true
    else
      let s1 := (s0.heatInvalid k c).modSquad (fun q => { q with spans := q.spans.filter (fun x => x.serial != h.serial) })
      if h.req.kind = .swatch then s1.swatchMissed else s1

/-- The SWATCH plans of a partition in the order of R215: package slot, package, plan number, plan. -/
def State.swatchPlans (s : State) (part : Nat) : List (Nat × Package × Nat × Plan) :=
  (allFin 16).flatMap (fun i =>
    match s.cox.packages[i] with
    | some p =>
      if p.partition = part then
        (p.plans.zip (List.range p.plans.length)).filterMap (fun e =>
          if e.1.kind = .swatch then some (i.val, p, e.2, e.1) else none)
      else []
    | none => [])

/-- The SWATCH heats of the window that begins at period `n` (R215). -/
def State.admitSwatch (s : State) (n : Nat) : State :=
  s.each s.crewsIn (fun s c =>
    match s.partitionOfCrew c with
    | none => s
    | some part =>
      let l := s.swatchPlans part
      match l[(n / s.num .COX_SWATCH_EVERY 0) % l.length]? with
      | none => s
      | some (slot, p, k, pl) =>
        let (s1, r) := s.newReq .swatch slot k part s.fabNow none none true 0
        let g := s1.imageOf p k [c]
        let last := n + s.num .COX_SWATCH_LEN 0 - 1
        s1.admitHeat r p pl ⟨n, [c], g, 0, s1.calendar .swatch n g.w, min (n + g.w + pl.darnPeriods - 1) last⟩)

/-- The CRCs of a SWATCH heat's outputs against its block (R577, R578). -/
def State.swatchMatches (s : State) (h : Heat) (p : Package) : Bool :=
  match p.swatch.find? (fun b => b.plan == h.req.plan) with
  | some b => b.outs.all (fun e => crc32c (s.tensor h p e.1) == e.2)
  | none => true

/-- A SWATCH heat completes (R578). -/
def State.swatchDone (s : State) (h : Heat) (p : Package) : State :=
  let a := s.heatAudit h
  if s.swatchMatches h p then s.addResult (blankResult 4 0 .none a)
  else
    let c := h.crews.headD 0
    let e : DetError := ⟨0x0E, c, 0x3FF, 0, 0, h.serial, s.cox.period, s.now, true, .check⟩
    let s1 := (s.addResult (blankResult 4 4 .check a)).lint .SAF_SWATCH_FAIL
    ((s1.modSaf (fun f => { f with lastErr := some e })).target (UnitId.crew c).slices).event 3 [.crew c]

/-! ### The verdict output of a FAST heat (R322, R466, R579) -/

/-- The number of the OUTPUT tensor that a plan's strokes write. -/
def outputOf (p : Package) (pl : Plan) : Option Nat :=
  ((pl.strokeIds.filterMap (fun i => p.strokes[i]?)).map strokeOutput).find? (fun n =>
    match p.td n with | some t => t.kind == 3 | none => false)

/-- The detection list of a FAST heat (R73, R271): TD_OUT of its DETLIST stroke, none without one (notes/assumptions/41.md). -/
def State.detectionsOf (s : State) (h : Heat) (p : Package) : List Box :=
  match (h.plan.strokeIds.filterMap (fun i => p.strokes[i]?)).find? (fun b =>
      strokeKind b == 3 && oarOp b == 0 && (kernelStroke b).detlist) with
  | some b => (readBoxes (s.tensor h p (oarOut b))).boxes
  | none => []

/-- The CLASS of the box entry that a box slot was cut from (R266, R325). -/
def State.boxClass (s : State) (h : Heat) (p : Package) (w : Swath) (slot : Nat) : Nat :=
  match (h.plan.strokeIds.filterMap (fun i => p.strokes[i]?)).find? (fun b => strokeKind b == 3 && oarOp b == 3) with
  | none => 0
  | some b =>
    let l := if (cropStroke b).tdBox = 0xFFFF then (match w.roi with | some x => x.boxes | none => [])
      else (readBoxes (s.tensor h p (cropStroke b).tdBox)).boxes
    match l[slot]? with | some x => x.cls | none => 0

/-- One part of a verdict output (R579). -/
structure PartOut where
  id : Nat
  x0 : Int
  x1 : Int
  yr : Int
  verdict : Option Verdict
  box : Nat
  conf : Nat

/-- An entry of the verdict output: no verdict where it is malformed. -/
def readPart (b : Bytes) : PartOut :=
  let v := leNat b
  let code := bits v 83 80
  let bad := decide (2 < code) || decide (bits v 87 84 ≠ 1) || decide (bits v 127 98 ≠ 0) || decide (bits v 255 160 ≠ 0)
  ⟨bits v 31 0, asInt 16 (bits v 47 32), asInt 16 (bits v 63 48), asInt 16 (bits v 79 64),
    if bad then none else some (if code = 0 then .pass else if code = 1 then .reject else .undecided), bits v 97 88, bits v 159 128⟩

/-- One part: its fate by the doubt band, its record and its fire entry (R322, R466, R579). -/
def State.onePart (s : State) (h : Heat) (p : Package) (port : Nat) (w : Swath) (x : PartOut) : State :=
  let recipe := (s.slPlan h.req.partition).map (fun y => y.2.2.2.2)
  let out (v : Verdict) (c : Cause) (seqId : Nat) (s : State) : State :=
    s.firePart w
      { rcd := { swathLevel := false, verdict := v, outcome := 7, secondLook := false, fireOvf := false, timeUnsync := h.unsync,
                 cause := c, port := port, partId := x.id, swath := w.cnt, recSeq := 0, boxSlot := x.box, noSlot := false,
                 pOn := w.first.pos, verdictTime := s.netTime, conf := x.conf, seqId := seqId, audit := s.heatAudit h }
        x0 := x.x0, x1 := x.x1, yr := some x.yr }
  match x.verdict with
  | none => (out .undecided .badOutput 0 s).lint .REC_BAD_OUTPUT
  | some v =>
    let stands := out v (if v = .undecided then .model else .none) 0
    match recipe with
    | none => stands s
    | some r =>
      match s.doubt h.req.partition r x.conf x.box w.cnt with
      | .stands => stands s
      | .undecided c counted =>
        let s1 := if counted then s.lint .KV_QUEUE_FULL else s
        out .undecided c 0 s1
      | .queued =>
        let n := s.recs.verdictCount
        let id := (s.kvPart h.req.partition).nextId
        ((out .pending .none id s).queuePart h.req.partition r port w (s.boxClass h p w x.box) x.box x.id x.conf (some n)).1

/-- The verdict output of a FAST heat of swath `w` on a port (R466, R579): a malformed header gives one swath-level record. -/
def State.fastOutput (s : State) (h : Heat) (p : Package) (port : Nat) (w : Swath) : State :=
  let b := match outputOf p h.plan with | some n => s.tensor h p n | none => []
  let v := fieldAt b 0 32
  let n := (b.length - 32) / 32
  let good := decide (bits v 3 0 = 1) && decide (bits v 7 4 = 0) && decide (bits v 63 19 = 0) && decide (bits v 255 96 = 0) &&
    decide (bits v 95 64 = w.cnt % 2 ^ 32)
  let parts := (List.range (min (bits v 18 8) n)).map (fun i => readPart (slice b (32 + 32 * i) 32))
  if w.decided then s.lintBy .SAF_SWATH_WD 0 (if good then parts.length else 1)
  else if good then s.each parts (fun s x => s.onePart h p port w x)
  else (s.swathRecord port w .undecided .badOutput (s.heatAudit h) h.unsync).lint .REC_BAD_OUTPUT

/-! ### Completion -/

/-- The STATE tensors that a heat wrote stay with the package (R169); the copy of the tapped tensor becomes readable (R367). -/
def State.keepStates (s : State) (h : Heat) (p : Package) : State :=
  let kept := h.tensors.filter (fun e => match p.td e.1 with | some t => t.kind == 4 | none => false)
  let s1 := s.each kept (fun s e => s.setState h.req.slot e.1 e.2)
  if h.replay then
    match amGet? h.tensors h.tapTensor, toFin? 8 h.req.partition with
    | some b, some i => s1.modDet (fun d => { d with tap := d.tap.set i b })
    | _, _ => s1
  else s1

/-- What a completed heat of a kind other than RETUNE gives (R466, R577 to R579, R582); the entry then waits for the end of its
period (R223). -/
def State.heatOutputs (s : State) (k : Nat) (h : Heat) (p : Package) : State :=
  let s1 := (s.keepStates h p).modHeat k (fun h => { h with imageDone := true, state := .reserve })
  match h.req.kind with
  | .fast =>
    (match h.req.swath with
    | some (port, cnt) =>
      (match s1.swath? port cnt with
      | some w =>
        let s2 := s1.fastOutput h p port w
        (s2.modSwath port cnt (fun w => { w with fate := .completed, detections := some (s.detectionsOf h p) })).swathDecided port cnt
      | none => s1)
    | none => s1)
  | .secondLook => s1.stepEnd .secondLook h.req.partition .done (some h)
  | .swatch => s1.swatchDone h p
  | .background => s1.addResult (blankResult 5 0 .none (s1.heatAudit h))
  | .retune => s1

/-- May a heat complete: every stroke complete, and nothing of it open (R216)? -/
def Heat.completes (h : Heat) : Bool :=
  decide (h.state = .running) && !h.imageDone && h.openStrokes.isEmpty && h.errors.isEmpty && h.darn.isNone

/-- The completion against the last stated one, to the CK_FAB cycle, on one seat (R569). -/
def State.timingCheck (s : State) (h : Heat) (sub : Nat) : State :=
  if h.spanStart.isSome ∨ s.fabNow + sub = h.statedDone then s else (s.lint .SAF_TIMING).event 7 []

/-- HEAT_OVERTIME (R568): a heat at its supervision limit. -/
def State.overtime (s : State) (k : Nat) : State :=
  match amGet? s.cox.heats k with
  | none => s
  | some h =>
    if h.imageDone then s
    else ((s.lint .SAF_OVERTIME).endInvalid k .overtime none).event 6 []

/-! ### Darns (R563, R564) -/

/-- A (stroke, pass) pair as a key. -/
def passKey (x : Nat × Nat) : Nat := x.1 * 2 ^ 32 + x.2

/-- The lowest logical unit of a kind whose physical unit is not `phys` (R563). -/
def State.otherUnit (s : State) (kind crew phys logical : Nat) : Nat :=
  let w := s.crew crew
  match kind with
  | 0 => ((List.range 64).find? (fun l => let q := w.shellMap.getD l 0xFF; q != 0xFF && q != phys)).getD logical
  | 3 => ((List.range 512).find? (fun l => w.oar l != phys)).getD logical
  | _ => logical

/-- The passes that a darn runs again (R563): the failed ones, and those of the same period that read what they wrote. -/
def Heat.darnPasses (h : Heat) (m : Nat) (failed : List (Nat × Nat)) : List (Nat × Nat) :=
  let now := h.image.passes.filter (fun x => h.periods[x.period - h.offset]? == some m && decide (h.offset ≤ x.period))
  (failed ++ (now.filter (fun x => x.reads.any failed.contains)).map (fun x => (x.stroke, x.num))).eraseDups

/-- The errors of period `m` start a darn, or end the heat (R563, R564). -/
def State.darnBegin (s : State) (m k : Nat) (h : Heat) : State :=
  let tries := s.num .SAF_DARN_TRIES 0
  let late := h.errors.find? (fun e => e.noDarn || decide (tries ≤ amGet h.tries (passKey (e.stroke, e.pass)) 0))
  match late with
  | some e => s.endInvalid k e.cause (some e)
  | none =>
    let failed := (h.errors.map (fun e => (e.stroke, e.pass))).eraseDups
    let again := h.darnPasses m failed
    (s.modHeat k (fun h =>
      { h with
        errors := []
        passesDone := h.passesDone.filter (fun x => !again.contains x)
        tries := failed.foldl (fun t x => amInsert t (passKey x) (amGet t (passKey x) 0 + 1)) h.tries
        darn := some ⟨m, again, false⟩
        image := { h.image with passes := h.image.passes.map (fun x =>
          match h.errors.find? (fun e => e.stroke == x.stroke && e.pass == x.num) with
          | some e => { x with unitNo := s.otherUnit x.unitKind e.crew e.unitNo x.unitNo }
          | none => x) } })).lint .SAF_DARN

/-- The slots and tokens that the re-run passes need in period `q`: those of the grants that serve them. -/
def Heat.darnGrants (h : Heat) (d : Darn) : List Grant := h.image.grants.filter (fun g => d.passes.contains (g.stroke, g.pass))

/-- A darn that has not started looks at period `q` (R563, R564): it starts if its slots are FREE and the partition has tokens; the
rest of the image is shifted behind it. -/
def State.darnTry (s : State) (q k : Nat) (h : Heat) (d : Darn) : State :=
  if !(s.isWork q || h.req.kind = .swatch) then s
  else
    let past := h.periods.filter (fun p => decide (p ≤ d.period))
    let rest := h.periods.length - past.length
    let shifted := if rest = 0 then past.dropLast ++ [q] else past ++ s.calendar h.req.kind (q + 1) rest
    let others := (s.cox.heats.filter (fun e => e.1 != k)).flatMap (fun e => e.2.slots)
    let isFree (x : SlotKey) : Bool := !others.contains x && (s.fixedOwner x.1 x.2.1 x.2.2.1 x.2.2.2).isNone
    let restFree := (h.image.slots h.crews h.offset shifted).all (fun x => decide (x.1 ≤ q) || isFree x)
    let last := shifted.getLastD q
    if !restFree ∨ h.reserveEnd < last then s.endInvalid k .check none
    else
      let grants := h.darnGrants d
      let keys := grants.map (fun g => (q, g.slot, physLane h.crews g.lane, g.dir))
      let need := (grants.filter (fun g => g.mem && (g.lane == 20 || g.lane == 21))).length
      let r := s.regulator h.req.partition
      let spare := r.tokens - amGet r.reserved s.cox.window 0 - r.darnUsed
      let go := keys.all isFree && decide (need ≤ spare)
      let s1 := if keys.all isFree ∧ spare < need then s.lintBy .COX_REG_HOLD 0 (need - spare) else s
      let give := h.tokensFrom q
      let s2 := s1.modHeat k (fun h =>
        { h with periods := shifted, statedDone := doneAt h.image shifted, darn := some { d with started := go } })
      let take := match amGet? s2.cox.heats k with | some h2 => h2.tokensFrom (q + 1) | none => []
      let s3 := s2.moveTokens h.req.partition take give
      if go then
        match toFin? 8 h.req.partition with
        | some i => s3.modCox (fun c =>
            let p : Partition := { c.partitions[i] with darnUsed := c.partitions[i].darnUsed + need }
            { c with partitions := c.partitions.set i p })
        | none => s3
      else s3

/-- The heats at the end of period `m`: errors start darns, and a darn whose passes have all ended again is over (R563). -/
def State.darnEnds (s : State) (m : Nat) : State :=
  s.each s.cox.heats (fun s e =>
    match amGet? s.cox.heats e.1 with
    | none => s
    | some h =>
      if !h.errors.isEmpty then s.darnBegin m e.1 h
      else match h.darn with
        | some d =>
          if d.started && d.passes.all h.passesDone.contains then s.modHeat e.1 (fun h => { h with darn := none })
          else s
        | none => s)

/-- Darns that wait look at the period that begins. -/
def State.darnTries (s : State) (q : Nat) : State :=
  s.each s.cox.heats (fun s e =>
    match (amGet? s.cox.heats e.1).bind (fun h => h.darn.map (fun d => (h, d))) with
    | some (h, d) => if d.started then s else s.darnTry q e.1 h d
    | none => s)

/-! ### Saves and restores (R191 to R194, R228, R230) -/

/-- A draining heat's passes have ended with period `m`: its crews are saved one at a time. -/
def State.drainEnds (s : State) (m : Nat) : State :=
  s.each s.cox.heats (fun s e =>
    match amGet? s.cox.heats e.1 with
    | none => s
    | some h =>
      if h.state = .draining then
        let past := (h.periods.filter (fun p => decide (p ≤ m))).length
        (s.modHeat e.1 (fun h => { h with state := .saving, offset := h.offset + past, periods := [], sections := [] })).modCox
          (fun c => { c with saves := c.saves ++ h.toSave.map (fun x => (e.1, x)) })
      else s)

/-- The transfer that starts at a period boundary: the first save, else the first restore (R193, R228, R230). -/
def State.transferStart (s : State) : State :=
  s.modCox (fun c => { c with transfer := c.transfer || !c.saves.isEmpty || !c.restores.isEmpty })

/-- The section of a crew (R192): its live blocks in ascending order with their CRC. -/
def State.section_ (s : State) (h : Heat) (c : Nat) : SaveSection :=
  let m := match toFin? 6 c with | some i => s.mem.scratch[i] | none => []
  let blocks := (h.liveAt c s.cox.period).map (fun b => (b, memReadN m (65536 * b) 65536))
  ⟨c, h.stream % 2 ^ 32, h.image.nextStroke.getD (h.offset - 1) 0, crc32c (blocks.flatMap (·.2)), blocks⟩

/-- SAVE_DONE (R193, R228, R230): the save in progress has been written; with the last crew the heat is SAVED and asks to resume. -/
def execSaveDone (s : State) : Host.Outcome State Fault Refusal :=
  match s.cox.transfer, s.cox.saves with
  | true, (k, c) :: rest =>
    match amGet? s.cox.heats k with
    | none => .next s
    | some h =>
      let s1 := (s.modHeat k (fun x =>
        { x with sections := x.sections ++ [s.section_ h c], toSave := x.toSave.filter (· != c) })).modCox
          (fun q => { q with saves := rest, transfer := false })
      if rest.any (fun x => x.1 == k) then finish s s1
      else
        let s2 := s1.modHeat k (fun x => { x with state := .saved })
        finish s (s2.enqueue { h.req with resume := some k, eligible := true }).1
  | _, _ => .next s

/-- The sections of a heat by crew rank. -/
def Heat.sectionAt (h : Heat) (rank : Nat) : Option SaveSection :=
  let order := sortNat (h.sections.map (·.crew))
  (order[rank]?).bind (fun c => h.sections.find? (fun x => x.crew == c))

/-- RESTORE_DONE (R193, R194, R230): the restore in progress has ended; `good` is false where a group of the section was
uncorrectable. The CRC is checked; a failure is a detected error that no darn mends. -/
def execRestoreDone (good : Bool) (s : State) : Host.Outcome State Fault Refusal :=
  match s.cox.transfer, s.cox.saves, s.cox.restores with
  | true, [], (k, c) :: rest =>
    match amGet? s.cox.heats k with
    | none => .next s
    | some h =>
      let rank := (h.crews.findIdx? (· == c)).getD 0
      let s1 := s.modCox (fun q => { q with restores := rest, transfer := false })
      match h.sectionAt rank with
      | none => finish s s1
      | some sec =>
        if good && decide (crc32c (sec.blocks.flatMap (·.2)) = sec.check) then
          let s2 := match toFin? 6 c with
            | some i =>
              let m := sec.blocks.foldl (fun (m : Memory) (b : Nat × Bytes) => memWriteN m (65536 * b.1) b.2) s1.mem.scratch[i]
              { s1 with mem := { s1.mem with scratch := s1.mem.scratch.set i m } }
            | none => s1
          finish s (s2.modHeat k (fun x => { x with toRestore := x.toRestore.filter (· != c) }))
        else
          let e : DetError := ⟨0x0C, c, 0x3FF, sec.nextStroke, 0, h.serial, s.cox.period, s.now, true, .check⟩
          finish s ((s1.lint .SAVE_CHECK).endInvalid k .check (some e))
  | _, _, _ => .next s

/-! ### The rinse (R571 to R575) -/

/-- The length of a slice in µs (R571; notes/assumptions/40.md). -/
def Slice.length : Slice → Nat
  | .crew _ i => [18, 18, 18, 18, 12, 16, 20, 20, 20, 20, 10, 8].getD i 20
  | .shared i => [10, 10, 8].getD i 10

/-- The crew whose slices these are; none for the shared ones. -/
def Slice.lane : Slice → Option Nat
  | .crew c _ => some c
  | .shared _ => none

/-- The end of the rinse window that holds period `n`, in CK_FAB cycles from ARM. -/
def State.rinseEnd (s : State) (n : Nat) : Nat :=
  (n - n % s.num .COX_RINSE_EVERY 0 + s.num .COX_RINSE_PHASE 0 + s.num .COX_RINSE_LEN 0) * periodCycles

/-- A slice that would start at time `t` ends at least 2 µs before the window does (R574). -/
def State.sliceFits (s : State) (x : Slice) (t : Nat) : Bool :=
  decide (t + x.length * 2400 + 4800 ≤ s.rinseEnd s.cox.period)

/-- The next slice of a crew, or of the shared ones: targeted first, then round-robin (R573); whether it is a regular one. -/
def State.nextSlice (s : State) (lane : Option Nat) : Slice × Bool :=
  match s.saf.nextTargeted.find? (fun x => decide (x.lane = lane)) with
  | some x => (x, false)
  | none =>
    match lane with
    | some c => (.crew c (match toFin? 6 c with | some i => s.saf.rinsePos[i] | none => 0), true)
    | none => (.shared s.saf.sharedPos, true)

/-- Is a crew settling, saving or restoring (R574)? -/
def State.rinseBusy (s : State) (c : Nat) : Bool :=
  s.isSettling c || (s.cox.saves ++ s.cox.restores).any (fun x => x.2 == c)

/-- Start the next slice of a lane at time `t`, or defer it (R573, R574). -/
def State.rinseStart (s : State) (t : Nat) (lane : Option Nat) : State :=
  let (x, regular) := s.nextSlice lane
  let busy := match lane with | some c => s.rinseBusy c | none => false
  if busy || !s.sliceFits x t then s.lint .SAF_RINSE_DEFER
  else
    s.modSaf (fun f =>
      let f1 : Safety := { f with running := f.running ++ [x] }
      if regular then
        match lane with
        | some c => (match toFin? 6 c with
          | some i => { f1 with rinsePos := f1.rinsePos.set i ((f1.rinsePos[i] + 1) % 12) }
          | none => f1)
        | none => { f1 with sharedPos := (f1.sharedPos + 1) % 3 }
      else { f1 with nextTargeted := f1.nextTargeted.filter (fun y => !(y == x)) })

/-- A rinse window begins with period `n` (R573): slices targeted since the window before, then the round of every crew in
service and of the shared slices. -/
def State.rinseWindow (s : State) (n : Nat) : State :=
  let s0 := s.applyWaiting (fun k => k == Ent.SAF_RINSE_LIMIT.key 0 0)
  let s1 := s0.modSaf (fun f =>
    { f with nextTargeted := (f.nextTargeted ++ f.targeted).eraseDups, targeted := [], running := [] })
  (s1.crewsIn.map some ++ [none]).foldl (fun s lane => s.rinseStart (n * periodCycles) lane) s1

/-- RINSE_SLICE_DONE (R572, R573): a running slice ends; `failed` are the units on which it failed, `block` a heat-table entry
whose block slice 11 found uncorrectable. -/
def State.sliceDone (s : State) (x : Slice) (failed : List UnitId) (block : Option Nat) : State :=
  if !s.saf.running.contains x then s
  else
    let s1 := s.modSaf (fun f =>
      { f with
        running := f.running.filter (fun y => !(y == x))
        status := if failed.isEmpty then (if h : x.num < 75 then f.status.set x.num s.now else f.status) else f.status })
    let s2 := if failed.isEmpty then s1
      else
        let u := failed.headD (.shared 0)
        let (c, n) := match u with
          | .shell c p => (c, p) | .oar c p => (c, p) | .scull c => (c, 0x3FF) | .sweep c => (c, 0x3FF)
          | .catchUnit c _ => (c, 0x3FF) | .crew c => (c, 0x3FF) | .shared _ => (0, 0x3FF)
        let e : DetError := ⟨0x0D, c, n, 0, 0, 0, s.cox.period, s.now, true, .check⟩
        ((s1.lint .SAF_RINSE_FAIL).modSaf (fun f => { f with lastErr := some e })).event 2 failed
    let s3 := match x, block with
      | .crew _ 11, some k => s2.endInvalid k .check none
      | _, _ => s2
    if s3.dev.state.active && s3.inRinse s3.cox.period then s3.rinseStart s3.fabNow x.lane else s3

/-! ### The period boundary (R182, R213 to R230) -/

/-- Heats that reach their start (R216, R230). -/
def State.heatStarts (s : State) (n : Nat) : State :=
  s.each s.cox.heats (fun s e =>
    match amGet? s.cox.heats e.1 with
    | none => s
    | some h =>
      let ready := decide (h.state = .admitted) || (decide (h.state = .restoring) && h.toRestore.isEmpty)
      if ready && decide (h.periods.headD (n + 1) ≤ n) then
        s.modHeat e.1 (fun h => { h with state := .running, started := true, sections := [] })
      else s)

/-- Heats whose image is complete release what they hold (R200, R223); a SWATCH heat still running at the end of its window ends
INVALID (R215). -/
def State.heatEnds (s : State) (n : Nat) : State :=
  s.each s.cox.heats (fun s e =>
    match amGet? s.cox.heats e.1 with
    | none => s
    | some h =>
      if h.imageDone then s.freeHeat e.1
      else if h.req.kind = .swatch ∧ h.started ∧ ¬ s.inSwatch n then s.endInvalid e.1 .overtime none
      else s)

/-- Producers that were held back present their requests again (R233). -/
def State.presentHeld (s : State) : State :=
  (s.modCox (fun c => { c with held := [] })).each s.cox.held (fun s r => s.present r)

/-- What admission does beside the table: page pins of second-look heats (R307), and ADMIT to the other seats (R416). -/
def State.admitted (s t : State) : State :=
  t.each (t.cox.heats.filter (fun e => !s.cox.heats.any (fun x => x.2.serial == e.2.serial))) (fun s e =>
    let h := e.2
    let s1 := if h.req.kind = .secondLook then s.kvPin h.req.partition else s
    if s1.spans h.req.partition h.req.kind then
      let start := s1.nowNs + 1920 + s1.num .SQD_LEAD_US 0 * 1000
      let others := s1.squad.members - 2 ^ s1.seat
      let s2 := s1.modHeat e.1 (fun h => { h with spanStart := some start })
      (s2.modSquad (fun q => { q with
        spans := q.spans ++ [⟨h.serial, h.req.slot, h.req.plan, start, others ||| 2 ^ s1.seat, false, true, []⟩] })).sendAll
          (.admitHeat h.serial h.req.slot h.req.plan start)
    else s1)

/-- ROTA_PERIOD_BOUNDARY (R182, R213 to R230, R563): period n ends and the next one begins. -/
def State.periodBoundary (s : State) : State :=
  let m := s.cox.period
  let n := m + 1
  let s1 := ((s.darnEnds m).heatEnds n).drainEnds m
  let s2 := s1.modCox (fun c => { c with period := n })
  let s3 := s2.applyWaiting (fun k => inGroup 0x25 k || inGroup 0x26 k)
  let s4 := ((s3.heatStarts n).darnTries n).transferStart
  let s5 := if s4.inSwatch (n + 1) ∧ ¬ s4.inSwatch n then s4.admitSwatch (n + 1) else s4
  let s6 := if s5.inRinse n ∧ ¬ s5.inRinse m then s5.rinseWindow n
    else if s5.inRinse n then s5 else s5.modSaf (fun f => { f with running := [] })
  if (s6.cox.admitting || s6.cox.stopReq) && s6.dev.state.runs then
    let s7 := s6.presentHeld
    s7.admitted (s7.evaluate n)
  else s6

/-- REGULATOR_WINDOW (R226): the buckets at the start of the next 1 µs window. -/
def execRegulatorWindow (s : State) : Host.Outcome State Fault Refusal :=
  if !s.dev.state.active then .next s
  else
    let w := s.cox.window
    let next (i : Nat) (p : Partition) : Partition :=
      let used := amGet p.reserved w 0 + p.darnUsed
      { tokens := min (s.num .PART_DEPTH i) (p.tokens - used + s.num .PART_RATE i), darnUsed := 0
        reserved := p.reserved.filter (fun e => decide (w < e.1)) }
    settled (s.modCox (fun c =>
      { c with window := w + 1, partitions := Vector.ofFn (fun i => next i.val c.partitions[i]) }))

/-- SETTLE_COMPLETE (R212): the crew takes new heats again; the duration in whole µs. -/
def execSettleComplete (crew : Fin 6) (s : State) : Host.Outcome State Fault Refusal :=
  match amGet? s.cox.settling crew with
  | none => .next s
  | some t => settled (s.modCox (fun c =>
      { c with settling := amErase c.settling crew, settleLast := (s.now - t) / 400 % 2 ^ 32 }))

end Sys2Proof.Machine
end

