-- ==== Sys2Proof/Machine/Draws.lean ====
section
/-! DEFINITION. The generator and its draws, and the actions that bring a replay in (R350 to R358, R363 to R369). -/

namespace Sys2Proof.Machine

open Sys2Proof

/-! ### The generator (R351) -/

/-- A word rotated left (R351). -/
def rotl32 (v n : Nat) : Nat := (v * 2 ^ n + v / 2 ^ (32 - n)) % 2 ^ 32

/-- One round (R351) on the four words. -/
def drawRound (k : List Nat) (r : Nat) (x : Nat × Nat × Nat × Nat) : Nat × Nat × Nat × Nat :=
  let (x0, x1, x2, x3) := x
  let t0 := x0 ^^^ ((k.getD (r % 4) 0 + r * 0x7F4A7C15) % 2 ^ 32)
  let t1 := x1 ^^^ ((k.getD ((r + 1) % 4) 0 + r * 0x6C078965) % 2 ^ 32)
  let p := t0 * 0xD1B54A33
  let q := t1 * 0x8F2C6E57
  ((q >>> 32) ^^^ x2 ^^^ rotl32 x3 7, (p >>> 32) ^^^ x3 ^^^ rotl32 x2 13, q % 2 ^ 32, p % 2 ^ 32)

/-- A draw block (R351): run seed, stream, kind, stroke field, index. -/
def drawBlock (seed : Bytes) (stream kind f index : Nat) : List Nat :=
  let w (i : Nat) : Nat := fieldAt seed (4 * i) 4
  let k := [w 0 ^^^ stream % 2 ^ 32, w 1 ^^^ (stream >>> 32) % 2 ^ 32, w 2, w 3]
  let (a, b, c, d) := (List.range 12).foldl (fun x r => drawRound k r x)
    (index % 2 ^ 32, (index >>> 32) % 2 ^ 32, f ||| kind * 2 ^ 24, 1)
  [a, b, c, d]

/-- An integer below `n` from a word (R353). -/
def drawBelow (w n : Nat) : Nat := (w * n) >>> 32

/-- The permutation of epoch `e` over `n` samples (R357). -/
def permutation (seed : Bytes) (e n : Nat) : List Nat :=
  ((List.range (n - 1)).map (fun x => n - 1 - x)).foldl (fun (l : List Nat) i =>
    let j := drawBelow ((drawBlock seed e 3 0 i).getD 0 0) (i + 1)
    (l.set i (l.getD j 0)).set j (l.getD i 0)) (List.range n)

/-- The action of a write to `DET_GEN_IN` (R351, R368). -/
def actGenIn (s : State) (b : Bytes) : Reply :=
  let d := fieldAt b 24 1
  if b.length ≠ 36 ∨ 16 ≤ d then Reply.range s .DET_GEN_IN 0 0
  else
    let w := drawBlock (slice b 0 16) (fieldAt b 16 8) d (fieldAt b 25 3) (fieldAt b 28 8)
    Reply.ok (s.modDet (fun x => { x with genOut := w.flatMap (leBytes 4) }))

/-! ### Replay (R363 to R366) -/

/-- A rejected replay write (R364, R366). -/
def Reply.replay (s : State) (e : Ent) (part : Nat) : Reply := Reply.range (s.lint .DET_REPLAY) e part 0

/-- An accepted replay image or sequence is counted (R369). -/
def State.replayed (s : State) (part : Nat) : State :=
  match toFin? 8 part with
  | some i => s.modDet (fun d => { d with replays := d.replays.set i ((d.replays[i] + 1) % 2 ^ 32) })
  | none => s

/-- The time fields of a swath record (R57). -/
def readTime (v hi lo : Nat) : NetTime :=
  let x := bits v hi lo
  ⟨x % 2 ^ 64, (x >>> 64) % 2 ^ 32, (x >>> 96) % 2 ^ 16⟩

/-- The samples of a row in the byte order of PIXEL_CRC. -/
def readSamples (depth : Nat) (b : Bytes) : List Nat :=
  if depth = 8 then b.map BitVec.toNat else (List.range (b.length / 2)).map (fun i => fieldAt b (2 * i) 2)

/-- Cut bytes into rows of `n` bytes. -/
def rowsOf (n : Nat) (b : Bytes) : List Bytes := (List.range (b.length / max n 1)).map (fun i => slice b (i * n) n)

/-- A replay image cut into its parts (R364): port, BOX_LEN, SEAM_LEN and the record; none where the header is malformed. -/
def replayHeader (b : Bytes) : Option (Nat × Nat × Nat) :=
  let v := fieldAt b 64 16
  if b.length < 80 ∨ bits v 3 0 ≠ 1 ∨ bits v 31 8 ≠ 0 ∨ bits v 127 96 ≠ 0 then none
  else some (bits v 7 4, bits v 63 32, bits v 95 64)

/-- The swath that a replay image gives a port (R364): SWATH_CNT, positions, times and STATUS of its record. -/
def State.replaySwath (s : State) (p : Fin 12) (b : Bytes) (boxLen seamLen buf : Nat) : Swath :=
  let v := fieldAt b 0 64
  let depth := sampleDepth (s.num .CAM_PACKING p)
  let w := s.camW p
  let size := if depth = 8 then 1 else 2
  let cnt := bits v 95 32
  let g := s.mglCfg p
  let ov := s.num .CAM_OVERLAP p
  let row := w * (outBytes g.outFmt depth 0).length
  let seams := rowsOf row (slice b (80 + boxLen) seamLen)
  let px := (rowsOf (w * size) (b.drop (80 + boxLen + seamLen))).map (readSamples depth)
  let first := bits v 375 352
  let rows : List Row := (px.zip (List.range px.length)).map (fun e => ⟨(first + e.2) % 2 ^ 24, e.1⟩)
  { cnt := cnt, flags := bits v 31 16, first := ⟨readTime v 207 96, s.now, asInt 64 (bits v 287 224)⟩, encCh := bits v 210 208
    last := asInt 64 (bits v 351 288), lineFirst := first, buf := some buf, lines := s.camL p, total := s.camL p, width := w
    depth := depth, packing := s.num .CAM_PACKING p, crc := bits v 447 416, nCrc := bits v 463 448, nMissing := bits v 479 464
    nLate := bits v 495 480, nLength := bits v 511 496, rows := rows
    seam := if seamLen = 0 then [] else (List.range g.selected.length).map (fun i => (seams.drop (i * ov)).take ov)
    planes := none, roi := if boxLen = 0 then none else some (readBoxes (slice b 80 boxLen)), detections := none, fate := .notHanded
    began := s.dev.state, fire := s.fireSet p, closed := some s.now, rowRefs := List.replicate (ov + s.camL p) 1, released := false
    statedDone := none, decided := false, lost := false, seamDue := false, stopped := s.cox.stopReq
    mgl := { g with roi := g.roi && decide (boxLen = 0) }, rawSeam := [] }

/-- The action of a write to `DET_REPLAY_SWATH` (R364): checked against the port, it closes a swath of the replay partition. -/
def actReplaySwath (s : State) (part : Nat) (b : Bytes) : Reply :=
  if !s.flag .DET_REPLAY_ENABLE part || !s.dev.state.active then Reply.err s .state
  else
    match replayHeader b with
    | none => Reply.replay s .DET_REPLAY_SWATH part
    | some (port, boxLen, seamLen) =>
      match toFin? 12 port with
      | none => Reply.replay s .DET_REPLAY_SWATH part
      | some p =>
        let depth := sampleDepth (s.num .CAM_PACKING p)
        let size := if depth = 8 then 1 else 2
        let v := fieldAt b 0 64
        let g := s.mglCfg p
        let seamRows := g.selected.length * s.num .CAM_OVERLAP p * (s.camW p * (outBytes g.outFmt depth 0).length)
        let samples := b.drop (80 + boxLen + seamLen)
        let good := (s.num .PART_CAM_MASK part).testBit port &&
          decide (bits v 415 400 = s.num .CAM_LINE_WIDTH p) && decide (bits v 399 384 = s.camL p) &&
          (decide (seamLen = 0) || decide (seamLen = seamRows)) &&
          decide (samples.length = s.camL p * s.camW p * size) && decide (crc32c samples = bits v 447 416)
        if !good then Reply.replay s .DET_REPLAY_SWATH part
        else
          match s.cams[p].free with
          | [] => Reply.err s .busy
          | buf :: rest =>
            let w := s.replaySwath p b boxLen seamLen buf
            let s1 := s.modCam p (fun c =>
              { c with
                free := rest, swathCnt := w.cnt, lastSwath := w.cnt
                closed := keepClosed (s.num .CAM_SWATH_BUFS p) (w :: c.closed) })
            Reply.ok ((s1.handOff p w).replayed part)

/-- The package of a partition that holds a STATE tensor (R365): slot, package, size. -/
def State.stateTensor (s : State) (part td : Nat) : Option (Nat × Nat) :=
  (allFin 16).findSome? (fun i =>
    match s.cox.packages[i] with
    | some p =>
      (match p.td td with
      | some t => if p.partition = part ∧ t.kind = 4 then some (i.val, t.size) else none
      | none => none)
    | none => none)

/-- The action of a write to `DET_REPLAY_STATE` (R365). -/
def actReplayState (s : State) (part : Nat) (b : Bytes) : Reply :=
  if !s.flag .DET_REPLAY_ENABLE part ∨ s.dev.state ≠ .armed then Reply.err s .state
  else
    let td := fieldAt b 0 2
    match s.stateTensor part td with
    | some (slot, n) =>
      if b.length = 4 + n ∧ fieldAt b 2 2 = 0 then Reply.ok (s.setState slot td (b.drop 4))
      else Reply.range s .DET_REPLAY_STATE part 0
    | none => Reply.range s .DET_REPLAY_STATE part 0

/-- The action of a write to `DET_REPLAY_SEQ` (R366): a SECOND_LOOK result record with its annex, then the crop. -/
def actReplaySeq (s : State) (part : Nat) (b : Bytes) : Reply :=
  if !s.flag .DET_REPLAY_ENABLE part then Reply.err s .state
  else
    match s.slPlan part with
    | none => Reply.replay s .DET_REPLAY_SEQ part
    | some (slot, p, _, _, r) =>
      let len := fieldAt b 4 4
      let crop := b.drop len
      let n := (match p.td r.tdCrops with | some t => t.size | none => 0) / 1024
      let a := fieldAt b 256 32
      let evicts := bits a 16 8
      let log := slice b 288 (8 * evicts)
      let pos := slice b (288 + 8 * evicts) (4 * evicts)
      let good := decide (288 ≤ len) && decide (fieldAt b 0 1 % 256 = 0x21) && decide (crop.length = n) &&
        decide (crc32c crop = fieldAt b 88 4) && decide (crc32c log = bits a 63 32) && decide ((s.kvPart part).queue.length < 1024)
      if !good then Reply.replay s .DET_REPLAY_SEQ part
      else
        let tag := fieldAt b 80 8
        let swath := tag % 2 ^ 50
        let box := bits tag 59 50
        let place := (swath * r.perSwath + box) % 1024
        let id := (s.kvPart part).nextId
        let e : KvEntry := ⟨id, tag / 2 ^ 60, 0, place, fieldAt b 40 4, 0, swath, box, s.cox.period, s.cox.period, none, true,
          (List.range evicts).map (fun i => (fieldAt log (8 * i) 1, fieldAt pos (4 * i) 4))⟩
        let old := fit (p.stateOf r.tdCrops) (n * 1024)
        let s1 := s.setState slot r.tdCrops (putBytes old (place * n) crop)
        Reply.ok ((s1.modKv part (fun k => { k with queue := k.queue ++ [e], nextId := id + 1 })).replayed part)

end Sys2Proof.Machine
end

