-- ==== Sys2Proof/Machine/Retune.lean ====
section
/-! DEFINITION. The retune service: the reference store, the decode pipeline, the steps and their update, and the generations (R424 to R447). -/

namespace Sys2Proof.Machine

open Sys2Proof

/-- The RETUNE section of a package (R444). -/
structure RtSec where
  adamw : Bool
  decodePlan : Nat
  stepPlan : Nat
  batch : Nat
  inH : Nat
  inW : Nat
  inC : Nat
  tdRing : Nat
  tdLabels : Nat
  capBytes : Nat
  capPixels : Nat
  capSymbols : Nat
  qSymbols : Nat
  qPixels : Nat
  store : Nat
  cache : Nat
  lr : Nat
  beta1 : Nat
  beta2 : Nat
  eps : Nat
  wd : Nat

/-- The fields of a RETUNE section. -/
def rtSec (b : Bytes) : RtSec :=
  let v := leNat (fit b 64)
  let n := bits v 307 288
  ⟨bits v 7 4 == 1, bits v 13 8, bits v 19 14, bits v 31 24 + 1, bits v 47 32, bits v 63 48, bits v 65 64, bits v 95 80, bits v 111 96,
    bits v 159 128, bits v 191 160, bits v 223 192, bits v 255 224, bits v 287 256, if n = 0 then 2 ^ 20 else n, bits v 328 308,
    bits v 383 352, bits v 415 384, bits v 447 416, bits v 479 448, bits v 511 480⟩

/-- The bytes of a decoded sample (R426). -/
def RtSec.pixels (r : RtSec) : Nat := r.inH * r.inW * r.inC

/-- The package of a partition that holds a RETUNE section: slot, package, section. -/
def State.rtPkg (s : State) (part : Nat) : Option (Nat × Package × RtSec) :=
  (allFin 16).findSome? (fun i =>
    match s.cox.packages[i] with
    | some p => if p.partition = part then p.retune.map (fun b => (i.val, p, rtSec b)) else none
    | none => none)

/-- Update the retune state of a partition. -/
def State.modRt (s : State) (part : Nat) (f : Retune → Retune) : State :=
  match toFin? 8 part with | some i => { s with retune := s.retune.set i (f s.retune[i]) } | none => s

/-- The retune state of a partition. -/
def State.rt (s : State) (part : Nat) : Retune := match toFin? 8 part with | some i => s.retune[i] | none => Retune.init

/-! ### The store (R424, R425, R427) -/

/-- The action of a write to `RT_ADD` (R424, R425). -/
def actRtAdd (s : State) (part : Nat) (b : Bytes) : Reply :=
  match s.rtPkg part with
  | none => Reply.err s .state
  | some (_, _, r) =>
    let v := fieldAt b 0 16
    let data := b.drop 16
    let good := decide (16 ≤ b.length) && decide (bits v 3 0 = 1) && decide (bits v 7 4 ≤ 1) && decide (bits v 15 8 = 0) &&
      decide (bits v 31 16 ≠ 0xFFFF) && decide (1 ≤ bits v 63 32) && decide (bits v 63 32 ≤ 16777216) && decide (bits v 127 96 = 0) &&
      decide (data.length = bits v 63 32) && decide (crc32c data = bits v 95 64)
    if !good then Reply.range s .RT_ADD part 0
    else if r.store ≤ (s.rt part).samples.length then Reply.err s .busy
    else Reply.ok (s.modRt part (fun t =>
      { t with samples := t.samples ++ [⟨bits v 7 4 == 0, bits v 31 16, bits v 95 64, data⟩], last := some t.samples.length }))

/-- The action of a write to `RT_REMOVE` (R427). -/
def actRtRemove (s : State) (part v : Nat) : Reply :=
  if (s.rtPkg part).isNone then Reply.err s .state
  else if (s.rt part).samples.length ≤ v then Reply.range s .RT_REMOVE part 0
  else Reply.ok (s.modRt part (fun t => { t with removed := if t.removed.contains v then t.removed else insNat v t.removed }))

/-- `RT_BAD_SET` (R430, R445): two bits per index. -/
def Retune.badSet (t : Retune) : Bytes :=
  let code (i : Nat) : Nat := if t.removed.contains i then 3 else amGet t.bad i 0
  let n := t.samples.length
  (List.range ((n + 3) / 4)).map (fun j =>
    BitVec.ofNat 8 (((List.range 4).map (fun k => if 4 * j + k < n then code (4 * j + k) * 4 ^ k else 0)).sum))

/-! ### The decode pipeline (R426 to R435) -/

/-- What decoding a sample gives: its pixel values, or the reason it is bad (1 CORRUPT, 2 OVER_WORK), and the symbols and pixel
values it costs (notes/assumptions/42.md). -/
structure Decoded where
  pixels : Option Bytes
  reason : Nat
  symbols : Nat
  values : Nat

/-- Decode a sample (R428, R429, R431): `fw` the firmware version, `unread` whether its data could not be read. -/
def RtSec.decode (r : RtSec) (fw : Nat) (cached : Option Bytes) (x : Sample) (unread : Bool) : Decoded :=
  match cached with
  | some b => ⟨some b, 0, 0, r.pixels⟩
  | none =>
    if r.capBytes < x.data.length then ⟨none, 2, 0, 0⟩
    else if unread ∨ crc32c x.data ≠ x.crc then ⟨none, 1, 0, 0⟩
    else if x.jpeg then
      let j := Config.jpegDecode fw x.data r.inH r.inW r.inC
      match j.frame with
      | none => ⟨none, 1, 0, 0⟩
      | some n =>
        if r.capPixels < n then ⟨none, 2, 0, 0⟩
        else if !j.sized then ⟨none, 1, 0, 0⟩
        else if r.capSymbols < j.symbols then ⟨none, 2, r.capSymbols + 1, 0⟩
        else
          match j.pixels with
          | some b => ⟨some (fit b r.pixels), 0, j.symbols, r.pixels⟩
          | none => ⟨none, 1, j.symbols, 0⟩
    else if r.capPixels < x.data.length then ⟨none, 2, 0, 0⟩
    else if x.data.length ≠ r.pixels then ⟨none, 1, 0, 0⟩
    else ⟨some x.data, 0, 0, r.pixels⟩

/-- The batch being filled, and the complete ones before it. -/
def Retune.filling (t : Retune) : List Nat :=
  match t.ring.getLast? with
  | some b => if b.complete then [] else b.samples
  | none => []

/-- The complete batches (`RT_READY`). -/
def Retune.ready (t : Retune) : Nat := (t.ring.filter (·.complete)).length

/-- A tensor's row of `n` bytes is replaced (R433). -/
def State.putRow (s : State) (slot td row n : Nat) (b : Bytes) : State :=
  match (toFin? 16 slot).bind (fun i => s.cox.packages[i]) with
  | some p =>
    let size := match p.td td with | some t => t.size | none => 0
    s.setState slot td (putBytes (fit (p.stateOf td) size) (row * n) (fit b n))
  | none => s

/-- Append a decoded sample to the batch being filled (R432, R433); a full batch is complete. -/
def State.rtAppend (s : State) (part slot : Nat) (r : RtSec) (i label : Nat) (px : Bytes) : State :=
  let t := s.rt part
  let cur := t.filling
  let num := if cur.isEmpty then t.nextBatch else (t.ring.getLast?.map (·.num)).getD 0
  let old := if cur.isEmpty then t.ring else t.ring.dropLast
  let b : Batch := ⟨num, cur ++ [i], decide (cur.length + 1 = r.batch)⟩
  let row := num % 8 * r.batch + cur.length
  ((s.putRow slot r.tdRing row r.pixels px).putRow slot r.tdLabels row 2 (leBytes 2 label)).modRt part (fun t =>
    { t with ring := old ++ [b], nextBatch := if cur.isEmpty then num + 1 else t.nextBatch })

/-- The end of an epoch (R432): its short last batch is kept, padded, or discarded. -/
def State.rtEpochEnd (s : State) (part slot : Nat) (r : RtSec) : State :=
  let t := s.rt part
  let cur := t.filling
  let s1 :=
    if cur.isEmpty then s
    else if s.flag .RT_KEEP_SHORT part then
      let num := (t.ring.getLast?.map (·.num)).getD 0
      let pad := (List.range (r.batch - cur.length)).map (fun k => num % 8 * r.batch + cur.length + k)
      (s.each pad (fun s row =>
        (s.putRow slot r.tdRing row r.pixels (zeros r.pixels)).putRow slot r.tdLabels row 2 (leBytes 2 0xFFFF))).modRt part (fun t =>
          { t with ring := t.ring.dropLast ++ [⟨num, cur, true⟩] })
    else s.modRt part (fun t => { t with ring := t.ring.dropLast, nextBatch := t.nextBatch - 1 })
  s1.modRt part (fun t => { t with epoch := (t.epoch + 1) % 2 ^ 32, epochN := 0, epochRemoved := [], place := 0 })

/-- Sample `i` has been decoded as `d` (R428 to R431). -/
def State.rtDecoded (s : State) (part slot : Nat) (r : RtSec) (i : Nat) (d : Decoded) : State :=
  match (s.rt part).samples[i]?, d.pixels with
  | some x, some px =>
    let s1 := s.modRt part (fun t =>
      { t with cache := if (amGet? t.cache i).isNone ∧ t.cache.length < r.cache then amInsert t.cache i px else t.cache })
    s1.rtAppend part slot r i x.label px
  | _, _ =>
    let s1 := s.modRt part (fun t => { t with bad := amInsert t.bad i d.reason })
    if d.reason = 1 then s1.lint .RT_CORRUPT else s1.lint .RT_OVER_WORK

/-- The pipeline runs over `sym` symbols and `val` pixel values (R432, R435): `n` bounds its turns. A sample whose work exceeds
what is left carries the rest over. It stops while the ring holds eight complete batches. -/
def State.rtRun (s : State) (part slot : Nat) (r : RtSec) (fw : Nat) (seed : Bytes) (unread : List Nat) : Nat → Nat → Nat → State
  | 0, _, _ => s
  | n + 1, sym, val =>
    let t := s.rt part
    if 8 ≤ t.ready ∨ t.samples.isEmpty then s
    else if t.epochN = 0 then
      (s.modRt part (fun t => { t with epochN := t.samples.length, epochRemoved := t.removed, place := 0 })).rtRun part slot r fw seed
        unread n sym val
    else if t.epochN ≤ t.place then (s.rtEpochEnd part slot r).rtRun part slot r fw seed unread n sym val
    else
      let i := (permutation seed t.epoch t.epochN).getD t.place 0
      let on (s : State) : State := s.modRt part (fun t => { t with place := t.place + 1, carry := none })
      if t.epochRemoved.contains i || ((amGet? t.bad i).isSome && t.carry.isNone) then
        (on s).rtRun part slot r fw seed unread n sym val
      else
        match t.samples[i]? with
        | none => (on s).rtRun part slot r fw seed unread n sym val
        | some x =>
          let d := r.decode fw (amGet? t.cache i) x (unread.contains i)
          let (ns, nv) := match t.carry with | some (_, a, b) => (a, b) | none => (d.symbols, d.values)
          if ns ≤ sym ∧ nv ≤ val then
            (on (s.rtDecoded part slot r i d)).rtRun part slot r fw seed unread n (sym - ns) (val - nv)
          else s.modRt part (fun t => { t with carry := some (i, ns - sym, nv - val) })

/-- A decode heat has completed (R435): one quantum of the pipeline; `unread` are the samples whose data could not be read. -/
def State.decodeDone (s : State) (part : Nat) (unread : List Nat) : State :=
  match s.rtPkg part with
  | none => s
  | some (slot, _, r) =>
    let fw := match s.boot.running with | some f => f.version | none => 0
    s.rtRun part slot r fw (s.byt .DET_RUN_SEED part) unread (4 * ((s.rt part).samples.length + 8 * r.batch) + 16) r.qSymbols r.qPixels

/-! ### Steps and updates (R436 to R440) -/

/-- An FP32 word of a tensor at coordinates. -/
def Package.word (p : Package) (n : Nat) (c : List Nat) : Nat :=
  match p.td n with | some t => fp32.encode false (t.get (fit (p.stateOf n) t.size) c) | none => 0

/-- FP32 square root (R439). -/
def fsqrt32 (a : Nat) : Nat := fp32.encode false (sqrtNum (fp32.decode a))

/-- One element of the update (R439): the new w, m1 and m2; `p1` and `p2` are the powers after this step. -/
def RtSec.element (r : RtSec) (p1 p2 w g m1 m2 : Nat) : Nat × Nat × Nat :=
  let one := 0x3F800000
  if r.adamw then
    let m1' := fadd32 (fmul32 r.beta1 m1) (fmul32 (fsub32 one r.beta1) g)
    let m2' := fadd32 (fmul32 r.beta2 m2) (fmul32 (fsub32 one r.beta2) (fmul32 g g))
    let mh := fdiv32 m1' (fsub32 one p1)
    let vh := fdiv32 m2' (fsub32 one p2)
    let u := fadd32 (fdiv32 mh (fadd32 (fsqrt32 vh) r.eps)) (fmul32 r.wd w)
    (fsub32 w (fmul32 r.lr u), m1', m2')
  else
    let g' := fadd32 g (fmul32 r.wd w)
    let m1' := fadd32 (fmul32 r.beta1 m1) g'
    (fsub32 w (fmul32 r.lr m1'), m1', m2)

/-- A tensor of FP32 words made from its coordinates. -/
def Package.words (p : Package) (n : Nat) (f : List Nat → Nat) : Bytes :=
  match p.td n with | some t => t.build false (fun c => fp32.decode (f c)) | none => []

/-- The package in a slot. -/
def State.pkg? (s : State) (slot : Nat) : Option Package := (toFin? 16 slot).bind (fun i => s.cox.packages[i])

/-- The UPDATE program on one layer (R439). -/
def State.updateLayer (s : State) (slot : Nat) (r : RtSec) (p1 p2 : Nat) (l : List Nat) : State :=
  match s.pkg? slot with
  | none => s
  | some p =>
    let td (i : Nat) : Nat := l.getD i 0
    let e (c : List Nat) : Nat × Nat × Nat :=
      r.element p1 p2 (p.word (td 2) c) (p.word (td 5) c) (p.word (td 3) c) (p.word (td 4) c)
    let w := p.words (td 2) (fun c => (e c).1)
    let m1 := p.words (td 3) (fun c => (e c).2.1)
    let m2 := p.words (td 4) (fun c => (e c).2.2)
    ((s.setState slot (td 2) w).setState slot (td 3) m1).setState slot (td 4) m2

/-! ### Generations (R441, R442) -/

/-- Does an admitted heat read working copy `copy` of a partition (R441)? -/
def State.copyRead (s : State) (part copy : Nat) : Bool :=
  s.cox.heats.any (fun e => decide (e.2.req.kind = .fast) && e.2.req.partition == part && e.2.retuneGen % 2 == copy)

/-- Publish (R441): the master copies, converted, become the current working copy under the next generation. -/
def State.publish (s : State) (part slot : Nat) : State :=
  match s.pkg? slot with
  | none => s
  | some p =>
    let g := ((s.rt part).generation + 1) % 2 ^ 32
    let s1 := s.each p.layers (fun s l =>
      let n := l.getD (g % 2) 0
      match p.td n, p.td (l.getD 2 0) with
      | some t, some m => s.setState slot n (t.build true (fun c => m.get (fit (p.stateOf (l.getD 2 0)) m.size) c))
      | _, _ => s)
    let s2 := s1.modRt part (fun t => { t with generation := g, holding := false })
    match toFin? 8 part with
    | some i => s2.modCox (fun c => { c with gens := c.gens.set i g })
    | none => s2

/-- A publication is due: at once, or when its idle copy is free (R441). -/
def State.publishDue (s : State) (part slot : Nat) : State :=
  let t := s.rt part
  if s.copyRead part ((t.generation + 1) % 2) then
    if t.holding then s else (s.modRt part (fun t => { t with holding := true })).lint .RT_PUBLISH_HOLD
  else s.publish part slot

/-- A restart (R442). -/
def State.rtRestart (s : State) (part slot : Nat) : State :=
  match s.pkg? slot with
  | none => s
  | some p =>
    let s1 := s.each (p.layers.flatMap (fun l => ((l.drop 2).take 3))) (fun s n =>
      s.setState slot n (Config.layerInit p.container n))
    (s1.modRt part (fun t =>
      { t with
        epoch := 0, epochN := 0, epochRemoved := [], place := 0, carry := none, ring := [], nextBatch := t.steps, t := 0
        p1 := 0x3F800000, p2 := 0x3F800000, restartReq := false })).publishDue part slot

/-- A retune heat of a partition is admitted. -/
def State.rtHeat (s : State) (part : Nat) : Bool :=
  s.cox.heats.any (fun e => decide (e.2.req.kind = .retune) && e.2.req.partition == part && !e.2.imageDone)

/-- A step has completed (R436 to R442, R447): its record, the update, the batch consumed, publications and a restart that
wait for a step end, and the waiting changes of the partition. -/
def State.stepDone (s : State) (part : Nat) (h : Heat) : State :=
  match s.rtPkg part with
  | none => s
  | some (slot, p, r) =>
    let t := s.rt part
    let s1 := s.addResult (blankResult 3 0 .none (s.heatAudit h))
    let p1 := if r.adamw then fmul32 t.p1 r.beta1 else t.p1
    let p2 := if r.adamw then fmul32 t.p2 r.beta2 else t.p2
    let s2 := s1.each p.layers (fun s l => s.updateLayer slot r p1 p2 l)
    let n := t.steps
    let s3 := s2.modRt part (fun t =>
      { t with steps := n + 1, t := t.t + 1, p1 := p1, p2 := p2, ring := t.ring.filter (fun b => b.num != n) })
    let every := s3.num .RT_PUBLISH_EVERY part
    let due := t.publishReq || (decide (every ≠ 0) && decide ((n + 1) % every = 0))
    let s4 := if due then (s3.modRt part (fun t => { t with publishReq := false })).publishDue part slot else s3
    let s5 := if t.restartReq then s4.rtRestart part slot else s4
    let s6 := s5.applyWaiting (fun key => inGroup 0x2B key && key / 256 == 0x2B10 + part)
    let next := (s6.rt part).ring.any (fun b => b.num == n + 1 && b.complete)
    if next || !s6.flag .RT_ENABLE part then s6 else s6.lint .RT_STALL

/-- A completed RETUNE heat (R435 to R439). -/
def State.retuneDone (s : State) (h : Heat) (unread : List Nat) : State :=
  match s.rtPkg h.req.partition with
  | none => s
  | some (_, _, r) =>
    if h.req.plan = r.decodePlan then s.decodeDone h.req.partition unread else s.stepDone h.req.partition h

/-- The action of a write to `RT_PUBLISH` (R442, R445). -/
def actRtPublish (s : State) (part v : Nat) : Reply :=
  if (s.rtPkg part).isNone then Reply.err s .state
  else if v ≠ 1 then Reply.range s .RT_PUBLISH part 0
  else Reply.ok (s.modRt part (fun t => { t with publishReq := true }))

/-- The action of a write to `RT_RESTART` (R442, R445). -/
def actRtRestart (s : State) (part v : Nat) : Reply :=
  match s.rtPkg part with
  | none => Reply.err s .state
  | some (slot, _, _) =>
    if v ≠ 1 then Reply.range s .RT_RESTART part 0
    else if s.rtHeat part then Reply.ok (s.modRt part (fun t => { t with restartReq := true }))
    else Reply.ok (s.rtRestart part slot)

/-- `RT_EXPORT` (R443): the current working copies, each under the number of its layer's first copy (notes/assumptions/45.md). -/
def State.rtExport (s : State) (part : Nat) : Bytes :=
  match s.rtPkg part with
  | none => []
  | some (_, p, _) =>
    let g := (s.rt part).generation
    leBytes 4 g ++ leBytes 2 p.layers.length ++ [1#8] ++ zeros 9 ++ p.layers.flatMap (fun l =>
      let n := l.getD (g % 2) 0
      let size := match p.td n with | some t => t.size | none => 0
      leBytes 2 (l.getD 0 0) ++ zeros 2 ++ fit (p.stateOf n) size)

/-! ### Requests (R435, R436, R438, R441) -/

/-- Is a heat of a plan requested, held back or admitted? -/
def State.planOpen (s : State) (part plan : Nat) : Bool :=
  let mine (q : CoxReq) : Bool := decide (q.kind = .retune) && q.partition == part && q.plan == plan
  s.cox.queue.any mine || s.cox.held.any mine || s.cox.heats.any (fun e => mine e.2.req && !e.2.imageDone)

/-- May the service of a partition ask for heats (R438)? -/
def State.rtAsks (s : State) (part : Nat) : Bool :=
  s.flag .RT_ENABLE part && s.dev.state.runs && !s.cox.stopReq

/-- Request a retune heat of a plan with a step number. -/
def State.rtRequest (s : State) (part slot plan step : Nat) : State :=
  let (s1, q) := s.newReq .retune slot plan part s.fabNow none none true step
  s1.present q

/-- DECODE_REQUEST (R435): the ring holds fewer than `RT_RUNAHEAD` batches, complete or in progress. -/
def execDecodeRequest (part : Fin 8) (s : State) : Host.Outcome State Fault Refusal :=
  match s.rtPkg part with
  | none => .next s
  | some (slot, _, r) =>
    let t := s.rt part
    if s.rtAsks part && !s.planOpen part r.decodePlan && decide (t.ring.length < s.num .RT_RUNAHEAD part) then
      settled (s.rtRequest part slot r.decodePlan (if t.filling.isEmpty then t.nextBatch else t.nextBatch - 1))
    else .next s

/-- RETUNE_STEP_REQUEST (R436): step n − 1 has completed and batch n is complete. -/
def execRetuneStepRequest (part : Fin 8) (s : State) : Host.Outcome State Fault Refusal :=
  match s.rtPkg part with
  | none => .next s
  | some (slot, _, r) =>
    let t := s.rt part
    if s.rtAsks part && !s.planOpen part r.stepPlan && t.ring.any (fun b => b.num == t.steps && b.complete) then
      settled (s.rtRequest part slot r.stepPlan t.steps)
    else .next s

/-- PUBLICATION_RELEASE (R441): the idle copy that a publication waited for is read no longer. -/
def execPublicationRelease (part : Fin 8) (s : State) : Host.Outcome State Fault Refusal :=
  match s.rtPkg part with
  | none => .next s
  | some (slot, _, _) =>
    let t := s.rt part
    if t.holding && !s.copyRead part ((t.generation + 1) % 2) then settled (s.publish part slot) else .next s

end Sys2Proof.Machine
end

