-- ==== Sys2Proof/Machine/CoxRows.lean ====
section
/-! DEFINITION. The rows of the cox and of the safety supervisor that end in outputs and events (R216, R561, R568 to R575, R586). -/

namespace Sys2Proof.Machine

open Sys2Proof

/-- The spanning heat of a serial. -/
def State.span? (s : State) (serial : Nat) : Option Span := s.squad.spans.find? (fun x => x.serial == serial)

/-- What a completed heat gives (R216). -/
def State.complete_ (s : State) (k : Nat) (h : Heat) (p : Package) (unread : List Nat) : State :=
  let s1 := s.heatOutputs k h p
  if h.req.kind = .retune then s1.retuneDone h unread else s1

/-- The stroke seat's spanning heat completes when it has every DONE, its own included (R416). -/
def State.spanEnds (s : State) (serial : Nat) : State :=
  match s.span? serial, s.heatOf serial with
  | some x, some (k, h) =>
    if x.waiting ≠ 0 then s
    else
      let s1 := s.modSquad (fun q => { q with spans := q.spans.filter (fun y => y.serial != serial) })
      if x.invalid then s1.endInvalid k .check none
      else match s1.heatPkg k with
        | some (_, p) => s1.complete_ k h p x.unread
        | none => s1
  | _, _ => s

/-- HEAT_COMPLETE (R216, R569): `sub` is the CK_FAB cycle within the CK_TS cycle, `unread` the samples whose data a decode heat could
not read (R429). A part of a spanning heat is reported to the stroke seat (R416). -/
def execHeatComplete (k : Fin 64) (sub : Fin 6) (unread : List (BitVec 32)) (s : State) : Host.Outcome State Fault Refusal :=
  match s.heatPkg k with
  | none => .next s
  | some (h, p) =>
    if !h.completes then .next s
    else
      let u := unread.map BitVec.toNat
      let s1 := s.timingCheck h sub
      if (amGet? s1.cox.heats k).isNone then finish s s1
      else if s.partOnly h then
        finish s ((s1.modHeat k (fun h => { h with imageDone := true, state := .reserve })).partDone h false)
      else if h.spanStart.isSome then
        let s2 := s1.modHeat k (fun h => { h with state := .reserve })
        let s3 := s2.modSquad (fun q => { q with spans := q.spans.map (fun x =>
          if x.serial = h.serial then { x with waiting := clearMask x.waiting (2 ^ s.seat), unread := u } else x) })
        finish s (s3.spanEnds h.serial)
      else finish s (s1.complete_ k h p u)

/-- ROTA_PERIOD_BOUNDARY (R182): the rota runs in ARMED, RUN and DEGRADED (R26). -/
def execRotaPeriodBoundary (s : State) : Host.Outcome State Fault Refusal :=
  if s.dev.state.active then finish s s.periodBoundary else .next s

/-- HEAT_OVERTIME (R568). -/
def execHeatOvertime (k : Fin 64) (s : State) : Host.Outcome State Fault Refusal := finish s (s.overtime k)

/-- SWATH_WATCHDOG (R570): a swath that the supervisor still expects gets a LATE record and its entry. -/
def execSwathWatchdog (port : Fin 12) (cnt : BitVec 64) (s : State) : Host.Outcome State Fault Refusal :=
  if !s.saf.expected.contains (port.val, cnt.toNat) then .next s
  else
    match s.swath? port cnt.toNat with
    | none => settled (s.swathDecided port cnt.toNat)
    | some w =>
      let s1 := (s.swathHeatless port w .late .supervisor).swathDecided port cnt.toNat
      finish s ((s1.lint .SAF_SWATH_WD).event 8 [])

/-- RINSE_SLICE_DONE (R572). -/
def execRinseSliceDone (slice : Slice) (failed : List UnitId) (block : Option (Fin 64)) (s : State) :
    Host.Outcome State Fault Refusal :=
  finish s (s.sliceDone slice failed (block.map (·.val)))

/-- RINSE_OVERDUE (R575): OUT_OF_SERVICE takes the slice's crew out; for a shared slice it acts as SAFE. -/
def execRinseOverdue (slice : Slice) (s : State) : Host.Outcome State Fault Refusal :=
  if !(s.supervised.contains slice && s.overdue slice) then .next s
  else
    let s1 := s.lint .SAF_RINSE_OVERDUE
    match slice with
    | .crew c _ => finish s (s1.event 1 [.crew c])
    | .shared _ =>
      let s2 := s1.event 1 []
      if s1.numAt .SAF_ACTION 0 0 = 1 then
        finish s ((s2.modSaf (fun f => { f with safeEvent := 1 })).safeCause 5)
      else finish s s2

/-- Does a mismatch on a swath of a port give its record (R60, R561)? -/
def State.mismatchDue (s : State) (p : Fin 12) (w : Swath) : Bool :=
  w.began.runs && !w.decided && !w.stopped && (s.fastPlan p).isSome && s.dev.state.runs

/-- A closed swath that waits is not handed on (R561): its record, and its request leaves the queue. -/
def State.mangleClosed (s : State) (p : Fin 12) (cnt : Nat) : State :=
  match s.swath? p cnt with
  | some w =>
    if w.fate = .waiting ∧ s.mismatchDue p w then
      let s1 := (s.swathHeatless p w .undecided .engine).swathDecided p cnt
      (s1.swathEnds p cnt .undecided).modCox (fun c =>
        { c with queue := c.queue.filter (fun r => !decide (r.swath = some (p.val, cnt))) })
    else s
  | none => s

/-- The mangle's swath is not handed on (R561). -/
def State.mangleMismatch (s : State) (p : Fin 12) (cnt : Nat) : State :=
  match s.cams[p].opened with
  | some w =>
    if w.cnt = cnt then
      (if s.mismatchDue p w then
        (s.swathHeatless p w .undecided .engine).modCam p (fun c =>
          { c with opened := c.opened.map (fun w => { w with decided := true }) })
      else s)
    else s.mangleClosed p cnt
  | none => s.mangleClosed p cnt

/-- A mismatch of the crop-and-resize engine or the press is a detected error of the stroke (R561). -/
def State.engineError (s : State) (k stroke pass : Nat) (u : UnitId) : State :=
  match amGet? s.cox.heats k with
  | none => s
  | some h =>
    let crew := match h.passOf stroke pass with | some x => h.crews.getD x.rank 0 | none => h.crews.headD 0
    s.detected k 0x0F crew 0x3FF stroke pass false .check u

/-- ENGINE_MISMATCH (R561). -/
def execEngineMismatch (what : Mismatch) (s : State) : Host.Outcome State Fault Refusal :=
  let s1 := match what with
    | .mangle p cnt => s.mangleMismatch p cnt.toNat
    | .crop k stroke pass => s.engineError k stroke.toNat pass.toNat (.shared 0)
    | .press k stroke pass => s.engineError k stroke.toNat pass.toNat (.shared 1)
  finish s (s1.event 0x0B [])

/-- CONTROL_MISMATCH (R561, R584): its only action is SAFE. -/
def execControlMismatch (s : State) : Host.Outcome State Fault Refusal := finish s (s.event 0x0C [])

/-- LOST_TIME_STORE (R586). -/
def execLostTimeStore (s : State) : Host.Outcome State Fault Refusal :=
  match s.dev.state with
  | .inert | .armed | .run | .degraded | .safe => settled s.writeStored
  | _ => .next s

end Sys2Proof.Machine
end

