-- ==== Sys2Proof/Machine/Load.lean ====
section
/-! DEFINITION. Run packages: the container, the checks of a load in their order, loading, unloading, and requests for BACKGROUND plans (R43, R149, R163, R168, R171, R178, R199 to R208, R233 to R236, R245 to R247, R264 to R271, R283, R302, R303, R323, R324, R339, R412, R434, R444, R465, R577, R579, R603, R604, R607). -/

namespace Sys2Proof.Machine

open Sys2Proof

/-! ### Signatures and counters -/

/-- The value of an anti-rollback counter (R607): the index of the lowest unblown bit of a field of the fuse block. -/
def rollback (field : Nat) : Nat := ((List.range 64).find? (fun i => !field.testBit i)).getD 64

/-- The 64 bytes of a SHA-512 digest. -/
def sha512Bytes (b : Bytes) : Bytes := beBytes 64 (Config.sha512 b).toNat

/-- Is one certificate of a chain well formed (R603): its usage, and every field that must be zero? -/
def certForm (b : Bytes) (usage : Nat) : Bool :=
  let v := fieldAt b 0 16
  decide (bits v 3 0 = 1) && decide (bits v 7 4 = usage) && decide (bits v 31 10 = 0) && decide (bits v 127 64 = 0) &&
    (decide (usage = 0) || decide (bits v 9 8 = 0)) && (decide (usage ≠ 0) || allZero (slice b 528 512))

/-- The modulus of a certificate. -/
def certModulus (b : Bytes) : Bytes := slice b 16 512

/-- The hash that the fuses hold for a key slot: Knallavor, or owner (R605). -/
def State.keyHash (s : State) (owner : Bool) (k : Nat) : Bytes := memReadN s.boot.fuses ((if owner then 256 else 0) + 64 * k) 64

/-- Is a key slot programmed and not revoked (R604, R605)? -/
def State.keyGood (s : State) (owner : Bool) (k : Nat) : Bool :=
  !allZero (s.keyHash owner k) && !(s.fuse 512 1).testBit ((if owner then 4 else 0) + k)

/-- Each later certificate verifies under its predecessor's key; a middle one is a CA, the last has the usage (R604). -/
def chainLinks (usage : Nat) : List Bytes → Bool
  | [] => true
  | [_] => true
  | a :: b :: r =>
    certForm b (if r.isEmpty then usage else 1) && Config.pssVerify (certModulus a) (slice b 0 528) (slice b 528 512) &&
      chainLinks usage (b :: r)

/-- A certificate chain under the fuses (R604): the key slot of its root and the modulus of its last certificate. -/
def State.chain (s : State) (owner : Bool) (usage : Nat) (b : Bytes) : Option (Nat × Bytes) :=
  let certs := chunksOf 1040 5 b
  let root := certs.headD []
  let k := bits (fieldAt root 0 4) 9 8
  let good := decide (b.length = 1040 * certs.length) && decide (2 ≤ certs.length) && decide (certs.length ≤ 4) && certForm root 0 &&
    s.keyGood owner k && decide (sha512Bytes (certModulus root) = s.keyHash owner k) && chainLinks usage certs
  if good then some (k, certModulus (certs.getLastD [])) else none

/-! ### The container (R202 to R206) -/

/-- A section entry (R203). -/
structure Sec where
  ty : Nat
  raw : Nat
  count : Nat
  offset : Nat
  size : Nat

/-- The section table of a container. -/
def sections (c : Bytes) : List Sec :=
  (List.range (fieldAt c 6 2)).map (fun i =>
    let v := fieldAt c (32 + 32 * i) 32
    ⟨bits v 7 0, v, bits v 63 32, bits v 127 64, bits v 191 128⟩)

/-- The bytes of an entry of a section, where it has entries; 0 for CONST, SWATCH_DATA and the opaque sections. -/
def secEntry (ty : Nat) : Nat :=
  match ty with | 1 => 32 | 2 => 32 | 3 => 64 | 4 => 64 | 5 => 64 | 0x0A => 1040 | _ => 0

/-- Is a section entry valid (R203, R204)? -/
def Sec.valid (x : Sec) : Bool :=
  decide (1 ≤ x.ty) && decide (x.ty ≤ 0x0B) && decide (bits x.raw 11 8 = 1) && decide (bits x.raw 31 12 = 0) && decide (bits x.raw 255 192 = 0) &&
    decide (x.offset % 64 = 0) &&
    (if secEntry x.ty = 0 then decide (x.count = 0) else decide (x.size = x.count * secEntry x.ty)) &&
    (decide (x.ty ≠ 1) || decide (x.count = 1)) && (decide (x.ty ≠ 0x0B) || decide (x.size = 512))

/-- A section's bytes, empty where it is absent. -/
def secBytes (c : Bytes) (ty : Nat) : Bytes :=
  match (sections c).find? (fun x => x.ty == ty) with
  | some x => slice c x.offset x.size
  | none => []

/-- The entries of a section. -/
def secEntries (c : Bytes) (ty : Nat) : List Bytes := rowsOf (secEntry ty) (secBytes c ty)

/-- Check 0x01 of R207. -/
def headerOk (c : Bytes) : Bool :=
  let v := fieldAt c 0 32
  decide (32 ≤ c.length) && decide (bits v 31 0 = 0x5052485A) && decide (bits v 35 32 = 1) && decide (bits v 39 36 = 1) && decide (bits v 47 40 = 0) &&
    decide (bits v 255 128 = 0) && decide (bits v 127 64 = c.length)

/-- The first section entry that check 0x02 fails on; the number of sections where the table as a whole fails. -/
def tableFault (c : Bytes) : Option (Nat × Nat) :=
  let l := sections c
  let at_ (i : Nat) : Nat := match l[i]? with | some x => x.offset + x.size | none => 0
  let bad (e : Sec × Nat) : Bool :=
    !e.1.valid || decide (e.1.offset < (if e.2 = 0 then 32 + 32 * l.length else at_ (e.2 - 1))) || decide (c.length < e.1.offset + e.1.size) ||
      (l.take e.2).any (fun x => x.ty == e.1.ty) || (decide (e.1.ty = 0x0B) && (decide (e.2 + 1 ≠ l.length) || decide (e.1.offset + e.1.size ≠ c.length)))
  if l.length < 5 ∨ 64 < l.length then some (0, l.length)
  else
    match (l.zip (List.range l.length)).find? bad with
    | some e => some (e.1.ty, e.2)
    | none => if [1, 2, 4, 5, 0x0A, 0x0B].all (fun t => l.any (fun x => x.ty == t)) then none else some (0, l.length)

/-- Check 0x03 of R207: the CERT chain under the owner's keys, and the SIGNATURE. -/
def State.signedOk (s : State) (c : Bytes) : Option Nat :=
  match s.chain true 3 (secBytes c 0x0A) with
  | some (k, m) => if Config.pssVerify m (c.take (c.length - 512)) (secBytes c 0x0B) then some k else none
  | none => none

/-- A tensor descriptor from its bytes (R169). -/
def tensorDesc (b : Bytes) : TensorDesc :=
  let v := leNat (fit b 32)
  ⟨bits v 7 4, bits v 11 8, bits v 13 12, bits v 15 14, [bits v 17 16, bits v 19 18, bits v 21 20, bits v 23 22], bits v 27 24,
    [bits v 63 32, bits v 95 64, bits v 127 96, bits v 159 128], bits v 223 160, bits v 227 224, bits v 230 228⟩

/-- A stream descriptor from its bytes (R172). -/
def streamDesc (b : Bytes) : StreamDesc :=
  let v := leNat (fit b 64)
  let d (i : Nat) : StreamDim := ⟨asInt 32 (bits v (95 + 80 * i) (64 + 80 * i)), bits v (127 + 80 * i) (96 + 80 * i), asInt 16 (bits v (143 + 80 * i) (128 + 80 * i))⟩
  ⟨bits v 7 4 == 1, bits v 23 8, bits v 27 24, v.testBit 28, v.testBit 29, bits v 31 30, bits v 63 32, [d 0, d 1, d 2, d 3]⟩

/-- The kind of a code (R199). -/
def planKind (c : Nat) : PlanKind :=
  match c with | 0 => .fast | 1 => .secondLook | 2 => .retune | 3 => .swatch | _ => .background

/-- A plan entry from its bytes (R206). -/
def planEntry (b : Bytes) : Plan :=
  let v := leNat (fit b 64)
  ⟨planKind (bits v 7 4), v.testBit 8, v.testBit 9, bits v 18 16, bits v 23 20, bits v 27 24, bits v 55 32, bits v 79 56, bits v 95 80, bits v 127 96,
    bits v 143 128⟩

/-- The blocks of a SWATCH_DATA section (R577), with whether they fill it exactly; `fuel` bounds the blocks. -/
def swatchBlocks : Nat → Bytes → List SwatchBlock × Bool
  | 0, b => ([], b.isEmpty)
  | f + 1, b =>
    if b.isEmpty then ([], true)
    else
      let v := fieldAt b 0 16
      let n := bits v 71 64
      let es := (List.range n).map (fun i => fieldAt b (16 + 16 * i) 16)
      let good := decide (16 + 16 * n ≤ b.length) && decide (bits v 3 0 = 1) && decide (bits v 7 4 = 0) && decide (bits v 15 14 = 0) &&
        decide (bits v 127 72 = 0) && decide (1 ≤ n) && decide (n ≤ 64) && es.all (fun e => decide (bits e 31 16 = 0) && decide (bits e 127 64 = 0))
      if good then
        let (l, ok) := swatchBlocks f (b.drop (16 + 16 * n))
        (⟨bits v 13 8, bits v 31 16, bits v 63 32, es.map (fun e => (bits e 15 0, bits e 63 32))⟩ :: l, ok)
      else ([], false)

/-- The records of a RECIPE section (R323), with whether they fill it; `fuel` bounds the records. -/
def recipeRecords : Nat → Bytes → List Bytes × Bool
  | 0, b => ([], b.isEmpty)
  | f + 1, b =>
    if b.isEmpty then ([], true)
    else
      let v := fieldAt b 0 8
      let n := bits v 63 32
      if 8 ≤ n ∧ n % 8 = 0 ∧ n ≤ b.length ∧ bits v 11 8 = 1 ∧ bits v 31 12 = 0 ∧ (bits v 7 0 = 1 ∨ bits v 7 0 = 2) then
        let (l, ok) := recipeRecords f (b.drop n)
        (b.take n :: l, ok)
      else ([], false)

/-- The package of a container whose table is good. -/
def packageOf (c : Bytes) (key : Nat) : Package :=
  let m := leNat (fit (secBytes c 1) 32)
  { container := c, digest := sha512Bytes c, partition := bits m 10 8, minCrews := bits m 18 16, secVersion := bits m 63 32, lpddrBytes := bits m 127 64
    lsBytes := bits m 159 128, cmnBytes := bits m 191 160, camPorts := bits m 203 192, ownerKey := key
    tensors := (secEntries c 2).map tensorDesc, streams := (secEntries c 3).map streamDesc, strokes := secEntries c 4
    plans := (secEntries c 5).map planEntry, consts := secBytes c 6, swatch := (swatchBlocks 64 (secBytes c 7)).1
    recipe := (recipeRecords 3 (secBytes c 8)).1
    retune := if (sections c).any (fun x => x.ty == 9) then some (secBytes c 9) else none
    states := [] }

/-! ### The part (check 0x05) -/

/-- Granules of usable LPDDR5 outside the firmware region (R43, R235). -/
def State.granules (s : State) : Nat := if s.small then 31488 else 63232

/-- The camera ports that the SWATH tensors of a package's strokes read (R205). -/
def Package.readPorts (p : Package) : List Nat :=
  (p.strokes.flatMap strokeInputs).filterMap (fun n => (p.td n).bind (fun t => if t.kind = 1 then some t.srcPort else none))

/-- Check 0x05 of R207. -/
def State.manifestOk (s : State) (c : Bytes) (p : Package) : Bool :=
  let m := leNat (fit (secBytes c 1) 32)
  decide (bits m 3 0 = 1) && decide (bits m 7 4 = 0) && decide (bits m 15 11 = 0) && decide (bits m 31 19 = 0) && decide (bits m 255 204 = 0) &&
    decide (1 ≤ p.minCrews) && decide (p.minCrews ≤ 6) && p.readPorts.all p.camPorts.testBit && s.flag .PART_ENABLE p.partition &&
    decide (p.minCrews ≤ s.crewsIn.length) && decide (p.lpddrBytes ≤ s.granules * 2097152) &&
    decide (p.camPorts &&& s.num .PART_CAM_MASK p.partition = p.camPorts)

/-! ### Tensors and streams (checks 0x06, 0x07) -/

/-- Does the tensor hold `n` elements along its innermost storage position and no others? -/
def TensorDesc.flat (t : TensorDesc) (n : Nat) : Bool := decide (t.ext 0 = n) && decide (t.count = n)

/-- Is a SWATH tensor of the extents and format that its port gives (R171)? -/
def State.swathTensorOk (s : State) (t : TensorDesc) : Bool :=
  let p := t.srcPort
  let rows := s.num .CAM_OVERLAP p + s.camL p
  let w := s.camW p
  let wide := sampleDepth (s.num .CAM_PACKING p) ≠ 8
  decide (p < 12) &&
    (if t.srcPlane = 5 then
      s.flag .CAM_KEEP_RAW p && decide (t.fmt = 1) && decide (t.dims = [rows, if wide then 2 * w else w, 1, 1])
    else decide (t.fmt = s.num .MGL_OUT_FMT p) && decide (t.dims = [rows, w, 1, 1]))

/-- R171 for one descriptor. -/
def State.tensorOk (s : State) (consts : Bytes) (b : Bytes) : Bool :=
  let v := leNat (fit b 32)
  let t := tensorDesc b
  let rank := t.rankM1 + 1
  decide (bits v 3 0 = 1) && decide (t.kind ≤ 5) && decide (t.fmt ≤ 0xA) && decide (t.srcPlane ≤ 5) && decide (6 ≤ t.alignLog2) && decide (t.alignLog2 ≤ 12) &&
    decide (bits v 31 28 = 0) && decide (bits v 255 231 = 0) && (decide (t.kind = 0) || decide (t.constOfs = 0)) &&
    (decide (t.kind = 1) || (decide (t.srcPort = 0) && decide (t.srcPlane = 0))) &&
    (List.range 4).all (fun i => if i < rank then (t.order.take rank).contains i else decide (t.order.getD i 9 = i)) &&
    t.dims.all (fun d => decide (d ≤ 16777216)) && (List.range 4).all (fun i => decide (i < rank) || decide (t.dims.getD i 0 = 1)) &&
    decide (t.blkDim < rank) && (!isZb t.fmt || decide (t.at 0 = t.blkDim)) && (decide (t.kind ≠ 1) || s.swathTensorOk t) &&
    (decide (t.kind ≠ 0) || decide (t.constOfs + t.size ≤ consts.length))

/-- Is an FP32 word a NaN? -/
def nan32 (v : Nat) : Bool := decide (fp32.decode v = .nan)

/-- R178 for one descriptor. -/
def streamOk (p : Package) (b : Bytes) : Bool :=
  let v := leNat (fit b 64)
  let x := streamDesc b
  decide (bits v 3 0 = 1) && decide (bits v 7 4 ≤ 1) && decide (x.fmtUnit ≤ 0xA) && decide (x.padMode ≤ 2) && decide (bits v 511 384 = 0) &&
    x.dims.all (fun d => decide (d.count ≤ 16777216)) &&
    (match p.td x.td with
    | none => false
    | some t =>
      (!x.write || (decide (t.kind ≠ 0) && decide (t.kind ≠ 1))) &&
        (List.range 4).all (fun i => decide (i ≤ t.rankM1) || decide (x.dims.getD i ⟨1, 0, 0⟩ = ⟨0, 1, 0⟩)) &&
        (!x.write || x.dims.any (fun d => d.count == 0) ||
          (List.range 4).all (fun i =>
            let d := x.dims.getD i ⟨0, 1, 0⟩
            let inside (c : Int) : Bool := decide (0 ≤ c) && decide (c < (t.dims.getD i 1 : Nat))
            inside d.start && inside (d.start + d.step * ((d.count : Int) - 1)))) &&
        (!x.xpose || decide (1 ≤ t.rankM1)) &&
        !(nan32 x.padValue && (decide (x.fmtUnit ≤ 2) || isZb x.fmtUnit)))

/-! ### Strokes (check 0x08) -/

/-- The plans of a package that run stroke `i`. -/
def Package.plansOf (p : Package) (i : Nat) : List Plan := p.plans.filter (fun q => decide (q.firstStroke ≤ i) && decide (i < q.firstStroke + q.strokes))

/-- Are the bits `hi` to `lo` of a descriptor zero? -/
def dzero (b : Bytes) (hi lo : Nat) : Bool := decide (dfield b hi lo = 0)

/-- The readout records of a MATMUL or GROUPED stroke (R148, R149). -/
def Package.rparOk (p : Package) (m : MatStroke) : Bool :=
  decide (m.tdRpar = 0xFFFF) ||
    match p.td m.tdRpar with
    | some t =>
      decide (t.kind = 0) && decide (t.fmt = 1) && t.flat (12 * m.n) &&
        (List.range m.n).all (fun i =>
          let v := fieldAt p.consts (t.constOfs + 12 * i) 12
          decide (bits v 83 80 = 1) && decide (bits v 95 84 = 0))
    | none => false

/-- R149 for one descriptor. -/
def Package.matOk (p : Package) (b : Bytes) : Bool :=
  let m := matStroke b
  let v := leNat b
  let ca := fmtClass m.fmtA
  let dims (n : Nat) (d0 d1 : Nat) : Bool := match p.td n with | some t => decide (t.dims = [d0, d1, 1, 1]) | none => false
  let blk (n d : Nat) : Bool := match p.td n with | some t => decide (t.blkDim = d) | none => false
  dzero b 31 21 && dzero b 111 105 && dzero b 255 248 && dzero b 511 272 &&
    decide (m.fmtA ≤ 0xA) && decide (m.fmtW ≤ 0xA) && decide (m.fmtOut ≤ 0xA) && decide (ca ≠ .none_) && decide (ca = fmtClass m.fmtW) &&
    decide (bits v 104 80 ≤ 16777216) && !nan32 m.lo && !nan32 m.hi && (fp32.decode m.lo).le (fp32.decode m.hi) &&
    dims m.tdA m.m (if m.grouped then m.taps * m.n else m.k) && dims m.tdW m.k m.n && dims m.tdOut m.m m.n &&
    (!isZb m.fmtA || blk m.tdA 1) && (!isZb m.fmtW || blk m.tdW 0) && (!isZb m.fmtOut || blk m.tdOut 1) &&
    (!m.grouped || decide (ca ≠ .block) || decide (m.group = 32)) &&
    (match p.td m.tdOut with | some t => decide (t.fmt = m.fmtOut) | none => false) && p.rparOk m &&
    (if m.grouped then
      [1, 2, 4, 8, 16, 32].contains m.group && decide (m.n % m.group = 0) && decide (m.k = m.group * m.taps) && decide (ca ≠ .half)
    else decide (m.group = 1) && decide (m.taps = 0))

/-- May keys of format `k` be swept for queries of format `q` (R107)? -/
def sweepPair (q k : Nat) : Bool :=
  match fmtClass q with
  | .half => decide (k ≤ 0xA) && decide (k ≠ 7)
  | .f8 => k == 3 || k == 4 || k == 2
  | .integer => decide (k ≤ 2)
  | .block => isZb k || k == 0 || k == 2
  | .none_ => false

/-- A KVPAGE tensor as R302 gives it. -/
def kvTensorOk (t : TensorDesc) : Bool :=
  let d (i : Nat) : Nat := t.dims.getD i 0
  decide (t.kind = 5) && decide (1 ≤ d 0) && decide (d 0 ≤ 256) && decide (1 ≤ d 1) && decide (d 1 ≤ 64) && [32, 64, 128, 256].contains (d 2) && decide (d 3 = 1) &&
    decide (t.blkDim = 2) && decide (t.order = [2, 1, 0, 3]) && decide (t.alignLog2 = 6)

/-- The SECOND_LOOK record of a package. -/
def Package.sl (p : Package) : Option SlRecipe := (p.recipeOf 1).map slRecipe

/-- The first rows of R339 for one SWEEP descriptor, stroke `i` of the package. -/
def Package.sweepOk (p : Package) (b : Bytes) (i : Nat) : Bool :=
  let w := sweepStroke b
  let others := (p.strokes.zip (List.range p.strokes.length)).filter (fun e => strokeKind e.1 == 2 && e.2 != i)
  let ext (n d0 d1 : Nat) : Bool := match p.td n with | some t => decide (t.dims = [d0, d1, 1, 1]) | none => false
  dzero b 15 12 && dzero b 31 28 && dzero b 63 56 && dzero b 511 176 && decide (w.spread ≤ 2) && decide (w.blkLog2 ≤ 6) &&
    (decide (w.spread = 2) || decide (w.blkLog2 = 0)) && decide (w.fmtQ ≤ 0xA) && decide (w.fmtOut ≤ 0xA) && decide (w.fmtQ ≠ 7) &&
    (match p.td w.tdKv with
    | none => false
    | some t =>
      let d := t.dims.getD 2 0
      kvTensorOk t && sweepPair w.fmtQ t.fmt && decide (w.hkv = t.dims.getD 1 0) && decide (w.hq % w.hkv = 0) && decide (w.hq / w.hkv ≤ 64) &&
        decide (w.layer < t.dims.getD 0 0) &&
        (match p.sl with
        | none => true
        | some r =>
          ext w.tdQ r.rows (w.hq * d) && ext w.tdK r.rows (w.hkv * d) && ext w.tdV r.rows (w.hkv * d) && ext w.tdOut r.rows (w.hq * d) &&
            (match p.td w.tdOut with | some o => decide (o.fmt = w.fmtOut) | none => false))) &&
    (p.plansOf i).all (fun q => decide (q.kind = .secondLook)) && !(p.plansOf i).isEmpty &&
    others.all (fun e => let x := sweepStroke e.1; decide (x.tdKv = w.tdKv) && decide (x.layer ≠ w.layer))

/-- Is a tensor a feature map (R242)? -/
def TensorDesc.isMap (t : TensorDesc) : Bool := decide (t.rankM1 = 1) || decide (t.rankM1 = 2)

/-- Is a tensor a box list for `n` boxes (R265)? -/
def TensorDesc.isBoxList (t : TensorDesc) (n : Nat) : Bool := decide (t.fmt = 1) && t.flat (16 + 16 * n)

/-- Do the inputs of an operator agree as feature maps (R242)? -/
def mapsAgree (l : List TensorDesc) : Bool :=
  l.all (fun t => t.isMap && decide (t.fmt = (l.headD ⟨0, 0, 0, 0, [], 0, [], 0, 0, 0⟩).fmt) &&
    decide (t.dims.take 2 = (l.headD ⟨0, 0, 0, 0, [], 0, [], 0, 0, 0⟩).dims.take 2))

/-- The geometry of R243, with `k` the largest kernel. -/
def Geometry.inRange (g : Geometry) (k : Nat) : Bool :=
  decide (1 ≤ g.kh) && decide (g.kh ≤ k) && decide (1 ≤ g.kw) && decide (g.kw ≤ k) && decide (1 ≤ g.sh) && decide (1 ≤ g.sw) && decide (1 ≤ g.dh) &&
    decide (g.dh ≤ 4096) && decide (1 ≤ g.dw) && decide (g.dw ≤ 4096)

/-- Is a window view read only as R247 allows, by every stroke of the package? -/
def Package.viewReads (p : Package) (n k taps ct : Nat) : Bool :=
  p.strokes.all (fun b =>
    !(strokeInputs b).contains n ||
      (decide (strokeKind b ≤ 1) &&
        (let m := matStroke b
         decide (m.tdA = n) && decide (m.tdW ≠ n) && decide (m.tdRpar ≠ n) &&
          (if m.grouped then decide (m.taps = taps) && decide (m.n = ct) else decide (m.k = k)))))

/-- R283 for a WINDOW or a POOL. -/
def Package.windowOk (p : Package) (b : Bytes) (ins : List TensorDesc) (o : TensorDesc) : Bool :=
  let win := oarOp b == 1
  let g := geometry b
  let t := ins.headD o
  let h := t.dims.getD 0 0
  let w := t.dims.getD 1 0
  let ct := (ins.map (fun t => t.dims.getD 2 1)).sum
  let ho := g.ho h
  let wo := g.wo w
  let fitsIn : Bool := decide (g.dh * (g.kh - 1) + 1 ≤ h + g.padT + g.padB) && decide (g.dw * (g.kw - 1) + 1 ≤ w + g.padL + g.padR)
  g.inRange (if win then 32 else 255) && mapsAgree ins && fitsIn && decide (ho * wo ≤ 16777216) && decide (g.kh * g.kw * ct ≤ 16777216) &&
    (if win then
      dzero b 231 226 && dzero b 511 264 && decide (dfield b 225 224 ≤ 2) &&
        decide (o.kind = 2) && decide (o.dims = [(ho * wo).toNat, g.kh * g.kw * ct, 1, 1]) && decide (o.fmt = t.fmt) &&
        p.viewReads (oarOut b) (g.kh * g.kw * ct) (g.kh * g.kw) ct &&
        !(nan32 (dfield b 263 232) && (decide (t.fmt ≤ 2) || isZb t.fmt)) &&
        (!isZb t.fmt || ins.all (fun t => decide (t.blkDim = 2) && decide (t.dims.getD 2 1 % 32 = 0)))
    else
      dzero b 511 228 && decide (dfield b 225 224 ≤ 1) && decide (ins.length = 1) && o.isMap &&
        decide (o.dims = [ho.toNat, wo.toNat, ct, 1]))

/-- R283 for a CROP, stroke `i` of the package. -/
def Package.cropOk (p : Package) (b : Bytes) (i : Nat) (ins : List TensorDesc) (o : TensorDesc) : Bool :=
  let c := cropStroke b
  let ct := (ins.map (fun t => t.dims.getD 2 1)).sum
  dzero b 511 174 && decide (c.mode ≤ 1) && decide (1 ≤ c.outH) && decide (c.outH ≤ 1024) && decide (1 ≤ c.outW) && decide (c.outW ≤ 1024) &&
    decide (1 ≤ c.maxBox) && decide (c.maxBox ≤ 1024) && mapsAgree ins &&
    (decide (ins.length = 1) || ins.all (fun t => decide (t.kind = 1))) &&
    (if c.tdBox = 0xFFFF then (p.plansOf i).all (fun q => decide (q.kind = .fast))
     else match p.td c.tdBox with | some t => t.isBoxList c.maxBox | none => false) &&
    decide (o.dims = [c.maxBox, c.outH, c.outW, ct])

/-- R283 for a KERNEL, stroke `i` of the package. -/
def Package.kernelOk (p : Package) (b : Bytes) (i : Nat) (o : TensorDesc) : Bool :=
  let k := kernelStroke b
  let rawW := dfield b 159 144
  dzero b 511 206 &&
    (match p.td k.tdCode with
    | some t => decide (t.kind = 0) && decide (t.fmt = 1) && t.flat t.count && decide (t.count ≤ 14336) && decide (k.entry % 2 = 0) && decide (k.entry < t.count)
    | none => false) &&
    (decide (rawW = 0) || (decide (16 ≤ rawW) && decide (rawW ≤ 4096) && decide (rawW % 16 = 0))) && decide (k.span ≤ 32768) &&
    decide (1 ≤ k.cycles) && decide (k.cycles ≤ 2240) && decide (1 ≤ k.iters) &&
    (!k.seam || (p.plansOf i).all (fun q => decide (k.slivers ≤ 512 * q.crews))) &&
    (!k.detlist ||
      ((p.plansOf i).all (fun q => decide (q.kind = .fast) &&
          (q.strokeIds.filter (fun j => match p.strokes[j]? with | some x => strokeKind x == 3 && oarOp x == 0 && (kernelStroke x).detlist | none => false)) == [i]) &&
        (List.range 1024).any (fun n => o.isBoxList (n + 1))))

/-- R283 for one OAR descriptor, stroke `i` of the package. -/
def Package.oarOk (p : Package) (b : Bytes) (i : Nat) : Bool :=
  let fields := [dfield b 47 32, dfield b 63 48, dfield b 79 64, dfield b 95 80, dfield b 111 96]
  let ins := (oarInputs b).filterMap p.td
  decide (oarOp b ≤ 4) && dzero b 15 12 &&
    decide (fields.headD 0xFFFF ≠ 0xFFFF) && decide ((fields.dropWhile (· != 0xFFFF)).all (· == 0xFFFF)) && decide (ins.length = (oarInputs b).length) &&
    (match p.td (oarOut b) with
    | none => false
    | some o =>
      match oarOp b with
      | 0 => p.kernelOk b i o
      | 3 => p.cropOk b i ins o
      | 4 =>
        dzero b 511 114 && decide (dfield b 113 112 ≠ 0) && decide (ins.length = 1) &&
          ins.all (fun t => [0, 1, 3, 4, 5, 6].contains t.fmt && decide (o.dims = t.dims) && decide (o.fmt = t.fmt))
      | _ => p.windowOk b ins o)

/-- Check 0x08 for stroke `i`. -/
def Package.strokeOk (p : Package) (b : Bytes) (i : Nat) : Bool :=
  dzero b 3 1 && decide (dfield b 3 0 = 1) &&
    match strokeKind b with
    | 0 => p.matOk b
    | 1 => p.matOk b
    | 2 => p.sweepOk b i
    | 3 => p.oarOk b i
    | _ => false

/-! ### The graph (check 0x09) -/

/-- Does stroke `i` of a plan read only what R207 allows, and write a tensor that a stroke can write? -/
def Package.readsOk (p : Package) (q : Plan) (i : Nat) : Bool :=
  match p.strokes[i]? with
  | none => true
  | some b =>
    let earlier := (q.strokeIds.filter (· < i)).filterMap (fun j => (p.strokes[j]?).map strokeOutput)
    (strokeInputs b).all (fun n =>
      earlier.contains n || (match p.td n with | some t => t.kind == 0 || t.kind == 1 || t.kind == 4 | none => false)) &&
    (match p.td (strokeOutput b) with | some t => t.kind != 0 && t.kind != 1 | none => false)

/-- The OUTPUT tensors that a plan writes. -/
def Package.outputs (p : Package) (q : Plan) : List Nat :=
  ((q.strokeIds.filterMap (fun j => (p.strokes[j]?).map strokeOutput)).filter (fun n =>
    match p.td n with | some t => t.kind == 3 | none => false)).eraseDups

/-- The verdict output of a FAST plan (R579). -/
def Package.verdictOutOk (p : Package) (q : Plan) : Bool :=
  match p.outputs q with
  | [n] => (match p.td n with | some t => decide (t.fmt = 1) && (List.range 1024).any (fun k => t.flat (64 + 32 * k)) | none => false)
  | _ => false

/-- The place of the first failure of check 0x09: section type and entry. -/
def Package.graphFault (p : Package) : Option (Nat × Nat) :=
  (p.plans.zip (List.range p.plans.length)).findSome? (fun e =>
    match e.1.strokeIds.find? (fun i => !p.readsOk e.1 i) with
    | some i => some (4, i)
    | none => if e.1.kind = .fast ∧ ¬ p.verdictOutOk e.1 then some (5, e.2) else none)

/-! ### The plans and their sections (check 0x0A) -/

/-- R206 and R199 for one plan entry, and the parts of check 0x0A that concern it; `loaded` the other packages. -/
def Package.planOk (p : Package) (loaded : List Package) (b : Bytes) (i : Nat) : Bool :=
  let v := leNat (fit b 64)
  let q := planEntry b
  let code := bits v 7 4
  decide (bits v 3 0 = 1) && decide (code ≤ 4) && decide (bits v 15 10 = 0) && !v.testBit 19 && decide (bits v 31 28 = 0) && decide (bits v 511 144 = 0) &&
    decide (1 ≤ q.crews) && decide (q.crews ≤ 6) && decide (1 ≤ q.maxConc) && (decide (code = 0) || decide (q.port = 0)) && decide (q.port ≤ 11) &&
    decide (1 ≤ q.strokes) && decide (1 ≤ q.scrQuota) && decide (q.scrQuota ≤ 376) && (decide (q.deadlineUs ≠ 0) || code == 2 || code == 4) &&
    decide (q.darnPeriods ≤ 4096) && (!q.borrow || q.preempt) && (!q.preempt || (code != 0 && code != 3)) && decide (q.crews ≤ p.minCrews) &&
    decide (q.firstStroke + q.strokes ≤ p.strokes.length) &&
    (decide (code ≠ 0) ||
      (p.camPorts.testBit q.port &&
        !((p.plans.zip (List.range p.plans.length)).any (fun e => decide (e.1.kind = .fast) && e.1.port == q.port && e.2 != i)) &&
        !loaded.any (fun o => o.plans.any (fun r => decide (r.kind = .fast) && r.port == q.port)))) &&
    (decide (code ≠ 3) || decide (q.crews = 1)) &&
    (decide (code ≠ 0) || p.plans.any (fun r => decide (r.kind = .swatch))) &&
    (decide (code ≠ 1) ||
      (decide (q.maxConc = 1) && p.sl.isSome &&
        !(p.plans.zip (List.range p.plans.length)).any (fun e => decide (e.1.kind = .secondLook) && e.2 != i) &&
        !loaded.any (fun o => o.partition == p.partition && o.plans.any (fun r => decide (r.kind = .secondLook)))))

/-- The stored bytes of a CONST tensor. -/
def Package.constBytes (p : Package) (t : TensorDesc) : Bytes := slice p.consts t.constOfs t.size

/-- R577 for one block. -/
def Package.blockOk (p : Package) (l : List SwatchBlock) (e : SwatchBlock × Nat) : Bool :=
  (match p.plans[e.1.plan]? with
  | some q =>
    decide (q.kind = .swatch) && e.1.outs.all (fun o => (p.outputs q).contains o.1) &&
      (match p.td e.1.tdIn with | some t => decide (t.kind = 0) && decide (crc32c (p.constBytes t) = e.1.inCrc) | none => false)
  | none => false) &&
  (l.take e.2).all (fun x => decide (x.plan < e.1.plan))

/-- The first block of the SWATCH_DATA section that breaks R577. -/
def Package.swatchFault (p : Package) : Option (Nat × Nat) :=
  let l := (swatchBlocks 64 (secBytes p.container 7))
  match (l.1.zip (List.range l.1.length)).find? (fun e => !p.blockOk l.1 e) with
  | some e => some (7, e.2)
  | none =>
    if l.2 ∧ (List.range p.plans.length).all (fun i => match p.plans[i]? with
      | some q => decide (q.kind ≠ .swatch) || l.1.any (fun b => b.plan == i) | none => true) then none
    else some (7, l.1.length)

/-- The bytes of a key-value pool (R303). -/
def poolBytes (t : TensorDesc) (pages : Nat) : Nat :=
  let page := 4160 + t.dims.getD 0 0 * t.dims.getD 1 0 * 2 * ((256 * rowBytes t.fmt (t.dims.getD 2 0) + 63) / 64) * 64
  roundUp page 1984 * pages

/-- Is a tensor a STATE UINT8 tensor of `n` bytes? -/
def Package.stateU8 (p : Package) (td n : Nat) : Bool :=
  match p.td td with | some t => decide (t.kind = 4) && decide (t.fmt = 1) && t.flat n | none => false

/-- R324 and the last rows of R339 for the SECOND_LOOK record. -/
def Package.slOk (p : Package) (b : Bytes) : Bool :=
  let r := slRecipe b
  let f := fp32.decode
  let n := 80 + 4 * (r.prefixLen + r.suffixLen)
  let pow2 (x : Nat) : Bool := (List.range 11).any (fun k => x == 2 ^ k)
  let writes (q : Plan) (td : Nat) : Bool := q.strokeIds.any (fun j => match p.strokes[j]? with | some x => strokeOutput x == td | none => false)
  decide (n ≤ b.length) && allZero (b.drop n) && decide (64 ≤ r.rows) && decide (r.rows ≤ 4096) && decide (1 ≤ r.maxSeq) && decide (r.maxSeq ≤ 256) &&
    decide (1 ≤ r.chunk) && decide (r.chunk ≤ 256) && decide (1 ≤ r.maxJoins) && decide (r.maxJoins ≤ 16) && decide (1 ≤ r.maxNew) && decide (r.maxNew ≤ 64) &&
    decide (r.img ≤ 4096) && decide (r.prefixLen ≤ 4096) && decide (r.suffixLen ≤ 1024) && decide (bits (fieldAt b 34 2) 15 1 = 0) && pow2 r.perSwath &&
    allZero (slice b 68 12) && !nan32 r.lo && !nan32 r.hi && (f r.lo).le (f r.hi) && (f 0).le (f r.decay) && (f r.decay).le (f 0x3F800000) &&
    decide (r.tMax ≤ 65536) && p.stateU8 r.tdStep (16 * r.rows) && p.stateU8 r.tdNext (4 * r.rows) &&
    (match p.td r.tdCrops with | some t => decide (t.kind = 4) && decide (t.size % 1024 = 0) | none => false) &&
    p.plans.any (fun q => decide (q.kind = .fast) && writes q r.tdCrops) && decide (r.lowWater ≤ r.pool) && decide (r.maxSeq * r.seqPages ≤ r.pool) &&
    p.strokes.all (fun x => strokeKind x != 2 ||
      (match p.td (sweepStroke x).tdKv with | some t => decide (poolBytes t r.pool ≤ p.lpddrBytes) | none => false))

/-- R465 for the FIRE record. -/
def fireRecordOk (b : Bytes) : Bool :=
  let es := (rowsOf 16 (b.drop 8)).map leNat
  decide ((b.length - 8) % 16 = 0) &&
    (es.zip (List.range es.length)).all (fun e =>
      let v := e.1
      decide (bits v 3 0 ≤ 11) && decide (bits v 7 4 = 1) && decide (bits v 15 9 = 0) && decide (bits v 21 16 + bits v 27 22 + 1 ≤ 48) && decide (bits v 31 28 = 0) &&
        decide (1 ≤ bits v 95 64) && decide (bits v 127 96 = 0) && (es.take e.2).all (fun x => decide (bits x 3 0 ≠ bits v 3 0)))

/-- The first record of the RECIPE section that breaks R323, R324, R339 or R465. -/
def Package.recipeFault (p : Package) : Option (Nat × Nat) :=
  let l := recipeRecords 3 (secBytes p.container 8)
  let ty (b : Bytes) : Nat := fieldAt b 0 1
  let bad (e : Bytes × Nat) : Bool :=
    (l.1.take e.2).any (fun x => ty x == ty e.1) || !(if ty e.1 = 1 then p.slOk e.1 else fireRecordOk e.1)
  match (l.1.zip (List.range l.1.length)).find? bad with
  | some e => some (8, e.2)
  | none => if l.2 then none else some (8, l.1.length)

/-- Does an FP32 word lie in [0, 1]? -/
def unit32 (v : Nat) : Bool := (fp32.decode 0).le (fp32.decode v) && (fp32.decode v).le (fp32.decode 0x3F800000)

/-- R434 and R444 for the RETUNE section. Of each layer's six tensors the two working copies share one format and the other four are FP32
(notes/assumptions/46.md). -/
def Package.retuneOk (p : Package) (b : Bytes) : Bool :=
  let v := leNat (fit b 64)
  let r := rtSec b
  let n := bits v 23 20 + 1
  let layers := rowsOf 16 (b.drop 64)
  let plan (i : Nat) : Bool := match p.plans[i]? with | some q => decide (q.kind = .retune) && decide (q.maxConc = 1) && decide (q.deadlineUs = 0) | none => false
  let fin (x : Nat) : Bool := match fp32.decode x with | .fin _ _ _ => true | _ => false
  let ring := 8 * r.batch * r.pixels
  let layer (x : Bytes) : Bool :=
    let ts := (List.range 6).map (fun i => p.td (fieldAt x (2 * i) 2))
    let t0 := (ts.getD 0 none)
    decide (bits (leNat x) 99 96 = 1) && decide (bits (leNat x) 127 100 = 0) &&
      ts.all (fun t => match t, t0 with | some t, some u => decide (t.kind = 4) && decide (t.dims = u.dims) | _, _ => false) &&
      (ts.drop 2).all (fun t => match t with | some t => decide (t.fmt = 7) | none => false) &&
      (match t0, ts.getD 1 none with | some a, some c => decide (a.fmt = c.fmt) && [3, 4, 5, 6, 8, 9, 10].contains a.fmt | _, _ => false)
  decide (b.length = 64 + 16 * n) && decide (bits v 3 0 = 1) && decide (bits v 7 4 ≤ 1) && plan r.decodePlan && plan r.stepPlan &&
    decide (1 ≤ r.inH) && decide (r.inH ≤ 4096) && decide (1 ≤ r.inW) && decide (r.inW ≤ 4096) && (r.inC == 1 || r.inC == 3) && decide (bits v 79 66 = 0) &&
    decide (bits v 127 112 = 0) && decide (bits v 351 329 = 0) && p.stateU8 r.tdRing ring &&
    (match p.td r.tdLabels with | some t => decide (t.kind = 4) && decide (t.size ≥ 16 * r.batch) | none => false) &&
    decide (1 ≤ r.qSymbols) && decide (r.pixels ≤ r.qPixels) && decide (r.cache ≤ r.store) && fin r.lr && (fp32.decode 0).le (fp32.decode r.lr) &&
    unit32 r.beta1 && (!r.adamw || (unit32 r.beta2 && (fp32.decode 0).lt (fp32.decode r.eps))) && unit32 r.wd && layers.all layer &&
    decide (16 * r.store + r.cache * r.pixels + ring ≤ p.lpddrBytes)

/-- The place of the first failure of check 0x0A. -/
def Package.planFault (p : Package) (loaded : List Package) : Option (Nat × Nat) :=
  let raw := secEntries p.container 5
  if 64 < raw.length then some (5, 64)
  else
    match (raw.zip (List.range raw.length)).find? (fun e => !p.planOk loaded e.1 e.2) with
    | some e => some (5, e.2)
    | none =>
      match p.recipeFault with
      | some x => some x
      | none =>
        match p.retune with
        | some b => if p.retuneOk b then p.swatchFault else some (9, 0)
        | none => p.swatchFault

/-! ### The load -/

/-- A refusal of R207: code, section type and entry index, and the response. -/
structure LoadFault where
  code : Nat
  sec : Nat
  entry : Nat
  status : Status
deriving DecidableEq, Repr

/-- `RP_LAST_FAULT` of a refusal (R234). -/
def LoadFault.word (f : LoadFault) : Nat := f.code + f.sec * 2 ^ 8 + (f.entry % 2 ^ 24) * 2 ^ 32

/-- The loaded packages. -/
def State.loaded (s : State) : List Package := (allFin 16).filterMap (fun i => s.cox.packages[i])

/-- The first entry of a list that fails. -/
def firstFail {α : Type} (l : List α) (ok : α → Nat → Bool) : Option Nat :=
  ((l.zip (List.range l.length)).find? (fun e => !ok e.1 e.2)).map (·.2)

/-- Checks 0x06 to 0x0A of R207 in their order. -/
def State.contentFault (s : State) (c : Bytes) (p : Package) : Option LoadFault :=
  match firstFail (secEntries c 2) (fun b _ => s.tensorOk p.consts b) with
  | some i => some ⟨6, 2, i, .range⟩
  | none =>
    match firstFail (secEntries c 3) (fun b _ => streamOk p b) with
    | some i => some ⟨7, 3, i, .range⟩
    | none =>
      match firstFail p.strokes p.strokeOk with
      | some i => some ⟨8, 4, i, .range⟩
      | none =>
        match p.graphFault with
        | some (t, i) => some ⟨9, t, i, .range⟩
        | none => (p.planFault s.loaded).map (fun x => ⟨0x0A, x.1, x.2, .range⟩)

/-- The lowest free package slot. -/
def State.freeSlot (s : State) : Option (Fin 16) := (allFin 16).find? (fun i => (s.cox.packages[i]).isNone)

/-- Check 0x0B of R207. -/
def State.capacityFault (s : State) (p : Package) : Option LoadFault :=
  let mem := ((s.loaded.filter (fun q => q.partition == p.partition)).map (·.lpddrBytes)).sum
  let cmn := (s.loaded.map (·.cmnBytes)).sum
  if s.freeSlot.isNone then some ⟨0x0B, 0, 0, .busy⟩
  else if s.num .PART_MEM_QUOTA p.partition * 2097152 < mem + p.lpddrBytes ∨ 7340032 < cmn + p.cmnBytes then some ⟨0x0B, 1, 0, .range⟩
  else none

/-- The checks of R207: the refusal, or the package that loads. A container that is loaded already is answered before (R201). -/
def State.loadCheck (s : State) (c : Bytes) : LoadFault ⊕ Package :=
  match tableFault c with
  | some (t, i) => .inl ⟨2, t, i, .range⟩
  | none =>
    match s.signedOk c with
    | none => .inl ⟨3, 0x0A, 0, .auth⟩
    | some k =>
      let p := packageOf c k
      if p.secVersion < rollback (s.fuse 521 8) then .inl ⟨4, 1, 0, .auth⟩
      else if !s.manifestOk c p then .inl ⟨5, 1, 0, .range⟩
      else
        match s.contentFault c p with
        | some f => .inl f
        | none => (match s.capacityFault p with | some f => .inl f | none => .inr p)

/-- A load is refused: `RP_LAST_FAULT` and the counter (R207, R238). -/
def State.refuseLoad (s : State) (f : LoadFault) : State := (s.modCox (fun c => { c with lastFault := f.word })).lint .RP_REFUSED

/-- A package goes into a slot: its retuned layers hold the package's values, and its partition's retune state begins (R424, R432). -/
def State.place (s : State) (i : Fin 16) (p : Package) : State :=
  let s1 := s.modCox (fun c => { c with packages := c.packages.set i (some p), lastSlot := i.val })
  match p.retune with
  | none => s1
  | some _ =>
    let tds := p.layers.flatMap (fun l => l.take 5)
    (s1.each tds (fun s n => s.setState i.val n (Config.layerInit p.container n))).modRt p.partition (fun _ => Retune.init)

/-- Load a container into a free slot (R201, R207): the state after it, and the refusal. -/
def State.loadAt (s : State) (slot : Option (Fin 16)) (c : Bytes) : State × Option LoadFault :=
  let refuse (f : LoadFault) : State × Option LoadFault := (s.refuseLoad f, some f)
  if !headerOk c then refuse ⟨1, 0, 0, .range⟩
  else
    match (allFin 16).find? (fun i => match s.cox.packages[i] with | some p => p.digest == sha512Bytes c | none => false) with
    | some i => (s.modCox (fun x => { x with lastSlot := i.val }), none)
    | none =>
      match s.loadCheck c, slot.filter (fun i => (s.cox.packages[i]).isNone) with
      | .inl f, _ => refuse f
      | .inr p, some i => (s.place i p, none)
      | .inr _, none => refuse ⟨0x0B, 0, 0, .busy⟩

/-- Load a container on this seat: the lowest free slot takes it. -/
def State.loadHere (s : State) (c : Bytes) : State × Option LoadFault := s.loadAt s.freeSlot c

/-- Does a partition hold packages loaded through the stroke seat alone (R412)? -/
def State.squadPart (s : State) (p : Nat) : Bool :=
  (decide (s.squad.state = .formed) || decide (s.squad.state = .broken)) && (s.num .SQD_PART_MASK 0).testBit p

/-- Is this seat the stroke seat of a squad? -/
def State.isStroke (s : State) : Bool := decide (s.squad.stroke = some s.seat)

/-- The partition that a container's manifest names. -/
def containerPart (c : Bytes) : Nat := bits (leNat (fit (secBytes c 1) 32)) 10 8

/-- A slot becomes empty, and everything the package holds goes (R208, R424). -/
def State.unload (s : State) (i : Fin 16) : State :=
  match s.cox.packages[i] with
  | none => s
  | some p =>
    let s1 := s.modCox (fun c => { c with packages := c.packages.set i none })
    let s2 := if p.retune.isSome then s1.modRt p.partition (fun _ => Retune.init) else s1
    if p.plans.any (fun q => decide (q.kind = .secondLook)) then s2.modKv p.partition (fun _ => KvPart.init) else s2

/-- The end of a load that every seat of the squad took part in (R412). -/
def State.squadLoadEnds (s : State) (l : SqdLoad) : State × Status :=
  let low := l.refused.foldl (fun (m : Option (Nat × Nat × Nat)) x => match m with | some y => if x.1 < y.1 then some x else some y | none => some x) none
  let s0 := s.modSquad (fun q => { q with load := none })
  match low with
  | none => (s0.modSquad (fun q => { q with loadSeat := none }), .ok)
  | some (seat, code, fault) =>
    let s1 := s0.each ((List.range 32).filter (fun x => l.loaded.testBit x && x != s.seat)) (fun s x => s.sendTo x (.unload l.slot))
    let s2 := if l.loaded.testBit s.seat then (match toFin? 16 l.slot with | some i => s1.unload i | none => s1) else s1
    let st := ([Status.range, .auth, .busy, .state].find? (fun x => x.code == code)).getD .range
    ((s2.modCox (fun c => { c with lastFault := fault })).modSquad (fun q => { q with loadSeat := some seat }), st)

/-- The action of a write to `RP_LOAD` (R201, R207, R412). -/
def actRpLoad (s : State) (o : Origin) (c : Bytes) : Reply :=
  if s.dev.state ≠ .inert then Reply.err s .state
  else if headerOk c && s.squadPart (containerPart c) then
    if !s.isStroke || decide (s.squad.state ≠ .formed) then Reply.err s .state
    else if s.squad.load.isSome then Reply.err s .busy
    else
      let slot := match s.freeSlot with | some i => i.val | none => 16
      let (s1, f) := s.loadHere c
      let others := s.otherMembers
      let l : SqdLoad := ⟨slot, (others.map (2 ^ ·)).sum, if f.isNone then 2 ^ s.seat else 0,
        (match f with | some f => [(s.seat, f.status.code, f.word)] | none => []), o⟩
      if others.isEmpty then
        let (s2, st) := s1.squadLoadEnds l
        ⟨s2, st, [], false⟩
      else Reply.wait ((s1.modSquad (fun q => { q with load := some l })).sendAll (.load slot c))
  else
    match s.loadHere c with
    | (s1, none) => Reply.ok s1
    | (s1, some f) => Reply.err s1 f.status

/-- The action of a write to `RP_UNLOAD` (R208, R412). -/
def actRpUnload (s : State) (v : Nat) : Reply :=
  match toFin? 16 v with
  | none => Reply.range s .RP_UNLOAD 0 0
  | some i =>
    match s.cox.packages[i] with
    | none => Reply.range s .RP_UNLOAD 0 0
    | some p =>
      if s.dev.state ≠ .inert then Reply.err s .state
      else if s.squadPart p.partition then
        if s.isStroke then Reply.ok ((s.unload i).sendAll (.unload v)) else Reply.err s .state
      else Reply.ok (s.unload i)

/-- The action of a write to `COX_BG_REQUEST` (R234): a BACKGROUND request is queued with the present as its trigger time. -/
def actBgRequest (s : State) (v : Nat) : Reply :=
  let slot := bits v 3 0
  let plan := bits v 9 4
  match s.planOf slot plan with
  | none => Reply.range s .COX_BG_REQUEST 0 0
  | some (p, pl) =>
    if pl.kind ≠ .background then Reply.range s .COX_BG_REQUEST 0 0
    else if !s.dev.state.runs || s.cox.stopReq then Reply.err s .state
    else
      let trig := s.fabNow
      let (s1, r) := s.newReq .background slot plan p.partition trig (s.deadlineOf p.partition pl trig) none true 0
      let (s2, ok) := s1.enqueue r
      if ok then Reply.ok s2 else Reply.err s2 .busy

/-! ### What the entries show (R183, R231, R236, R237) -/

/-- The largest calendar span of a plan over every window phase, darn reserve included, and its image, on the crews that R220 would choose
now (R236). -/
def State.planSpan (s : State) (p : Package) (k : Nat) (pl : Plan) : Nat × Image :=
  let crews := s.crewsNow p.partition pl
  (s.wcPeriods p k pl crews, s.imageOf p k crews)

/-- An entry of `RP_PLANS` (R236); `chain` gives WC_CHAIN_US. -/
def State.planStatus (s : State) (p : Package) (k : Nat) (pl : Plan) (chain : Nat) : Bytes :=
  let (wc, g) := s.planSpan p k pl
  packBytes 32 [(8, k), (4, 1), (4, 0), (16, g.power.foldl max 0), (32, g.w), (13, g.t), (3, 0), (32, wc), (32, if pl.kind = .fast then chain else 0)]

/-- An entry of `COX_HEAT_TABLE` (R237). -/
def State.heatEntry (s : State) (k : Nat) : Bytes :=
  match amGet? s.cox.heats k with
  | none => packBytes 32 [(64, 0), (4, 1)]
  | some h =>
    let dl := match h.req.deadline with | some d => d / periodCycles | none => 0xFFFFFFFF
    packBytes 32 [(64, h.serial), (4, 1), (4, h.state.code), (3, h.req.partition), (1, 0), (4, h.req.slot), (8, h.req.plan),
      (6, (h.crews.map (2 ^ ·)).sum), (2, h.req.kind.cls), (32, h.periods.headD 0), (32, h.statedDone / periodCycles), (13, h.statedDone % periodCycles),
      (19, 0), (32, dl)]

end Sys2Proof.Machine
end

