-- ==== Sys2Proof/Machine/OdCheck.lean ====
section
/-! DEFINITION. The checks of the object dictionary: reserved bits and ranges of every entry at a write, the checks of a group at a commit, and the map entries of the cyclic image (R512, R520 step 6, R528, R529, R532 and the group check of every chapter). -/

namespace Sys2Proof.Machine

open Sys2Proof

/-- The reserved bits of a scalar entry (R512, and the field maps of R75, R78, R151, R235, R236, R393, R475, R532). -/
def Ent.rsv (e : Ent) : Nat :=
  match e with
  | .CAM_SPOIL_MASK => 0xFF00
  | .MGL_MOS_SITES => 0xFFFF000000000000
  | .MGL_PLANES => 0xE0
  | .SHELL_FORCE_HI => 0xF0
  | .PART_CREW_MASK => 0xC0
  | .PART_CAM_MASK => 0xF000
  | .COX_BG_REQUEST => 0xFC00
  | .NL_INJECT => 0xFFFFFF00
  | .FIO_OUT => 0xFFFF000000000000
  | .CYC_TX_MAP => 0xFFFF0000F0000000
  | .CYC_RX_MAP => 0xFFFF0000F0000000
  | _ => 0

/-- Is `v` in the closed range? -/
def within (lo hi v : Nat) : Bool := decide (lo ≤ v) && decide (v ≤ hi)

/-- The actions an event allows (R584): 0 WARN, 1 OUT_OF_SERVICE, 2 SAFE. -/
def safActions (elem : Nat) : List Nat :=
  match elem with
  | 0 => [0, 1, 2]
  | 1 => [1, 2]
  | 2 => [1, 2]
  | 4 => [1, 2]
  | 11 => [2]
  | _ => [0, 2]

/-- A gate control list of up to 32 entries (R489, R508). -/
def qbvListOk (b : Bytes) : Bool :=
  decide (b.length % 8 = 0) &&
    (List.range (b.length / 8)).all (fun i => decide (fieldAt b (8 * i) 4 < 16))

/-- The range of a scalar entry's value, as its chapter states it (R529). -/
def Ent.numOk (e : Ent) (inst elem v : Nat) : Bool :=
  match e with
  | .CAM_PACKING => within 0 3 v
  | .CAM_EDGE => within 0 1 v
  | .CAM_LINE_WIDTH => v == 0 || within 8 32768 v
  | .CAM_SWATH_LINES => within 16 4096 v
  | .CAM_OVERLAP => within 0 32 v
  | .CAM_TRIG_SRC => within 0 2 v
  | .CAM_ENC_SRC => within 0 7 v
  | .CAM_TRIG_WIDTH => decide (1 ≤ v)
  | .CAM_SWATH_BUFS => within 2 4 v
  | .MGL_MOS_ROW_OFS => within 0 3 v
  | .MGL_MOS_COL_OFS => within 0 3 v
  | .MGL_OUT_FMT => v == 1 || v == 6
  | .ROI_FALLBACK => within 0 1 v
  | .CREW_MIN_SHELLS => within 1 64 v
  | .MEM_SCRUB_PERIOD => within 0 8760 v
  | .COX_SWATCH_EVERY => decide (2 ≤ v)
  | .COX_RINSE_EVERY => decide (2 ≤ v)
  | .COX_SWATCH_LEN => decide (1 ≤ v)
  | .COX_RINSE_LEN => decide (1 ≤ v)
  | .PWR_LIMIT => within 1000 4200 v
  | .PART_RATE => within 0 179 v
  | .PART_DEPTH => within 1 4096 v
  | .SQD_SEAT => within 0 31 v
  | .SQD_SIZE => within 1 32 v
  | .SQD_SHAPE => within 0 3 v
  | .SQD_FORM_TIMEOUT => within 10 60000 v
  | .SQD_LOSS_ACTION => within 0 1 v
  | .SQD_HEARTBEAT_US => within 20 10000 v
  | .SQD_LEAD_US => within 10 5000 v
  | .SQD_TIME_SOURCE => within 0 31 v || v == 0xFF
  | .SQD_TIME_INTERVAL_US => within 100 1000000 v
  | .NL_CLK_MODE => within 0 1 v
  | .NL_FOM_MIN => decide (1 ≤ v)
  | .NL_REPLAY_TIMEOUT => within 2000 65000 v
  | .NL_REPLAY_LIMIT => within 1 16 v
  | .NL_TEST_MODE => within 0 4 v
  | .NL_PATTERN => within 0 5 v
  | .NL_INJECT_PERIOD => decide (64 ≤ v)
  | .RT_RUNAHEAD => within 1 8 v
  | .FIO_RETRY => within 0 10000 v
  | .FIO_MODE => within 0 5 v
  | .FIO_FILT => within 0 10000 v
  | .FIO_TRIG_SLOT => within 0 31 v
  | .FIRE_STOP_CH => within 0 47 v || v == 0xFF
  | .ENC_MODE => within 0 4 v
  | .ENC_FILT => within 0 15 v
  | .ENC_TOOTH_N => within 1 2 v
  | .DIV_SRC => within 0 7 v
  | .DIV_N => within 1 16777216 v
  | .DIV_M => within 1 16777216 v
  | .DIV_OUT_MODE => if inst < 12 then v == 0 else within 0 1 v
  | .DIV_WIDTH => decide (1 ≤ v)
  | .TRG_SRC => within 0 1 v
  | .TRG_CHANNEL => within 0 7 v
  | .TRG_WIDTH => decide (1 ≤ v)
  | .FIRE_AGE_LIMIT => decide (1 ≤ v)
  | .FIRE_FB_UNDECIDED => within 0 2 v
  | .FIRE_FB_LATE => within 0 2 v
  | .FIRE_FB_INVALID => within 0 2 v
  | .TS_SOURCE => within 0 2 v
  | .TS_FREQ_MAX => within 1 500000 v
  | .TS_LOCK_NS => within 1 1000000 v
  | .TS_HOLDOVER_MS => within 1 3600000 v
  | .PTP_DOMAIN => within 0 127 v
  | .PTP_LOG_SYNC => decide (-5 ≤ asInt 8 v) && decide (asInt 8 v ≤ 0)
  | .PTP_LOG_PDELAY => decide (-5 ≤ asInt 8 v) && decide (asInt 8 v ≤ 3)
  | .PTP_PORT_CFG => within 1 3 v
  | .FNET_MODE => within 0 1 v
  | .FNET_VID => within 0 4094 v
  | .FNET_PCP_CYC => within 0 7 v
  | .FNET_PCP_OD => within 0 7 v
  | .QBV_CYCLE_NS => within 1000 1000000000 v
  | .QBV_LEN => within 1 32 v
  | .OD_SESSION_TIMEOUT => within 100 60000 v
  | .CYC_PORT => within 0 1 v
  | .CYC_PEER_MAC => decide (v < 2 ^ 48)
  | .CYC_PERIOD_NS => within 50000 1000000000 v
  | .CYC_WD_ACTION => within 0 1 v
  | .PCI_BULK_PART => within 0 7 v || v == 0xFF
  | .PCI_ARCH_MIB => within 0 16384 v
  | .SAF_LINE_RUN_CH => within 0 47 v || v == 0xFF
  | .SAF_RINSE_LIMIT => within 10 60000 v
  | .SAF_DARN_TRIES => within 1 8 v
  | .SAF_UNIT_ERR_LIMIT => decide (1 ≤ v)
  | .SAF_UNIT_ERR_WINDOW => within 1 31536000 v
  | .SAF_SWATH_WD_US => within 1 100000 v
  | .SAF_ACTION => (safActions elem).contains v
  | .THERM_THROTTLE => within 600 1050 v
  | .THERM_SLOPE => within 10 4200 v
  | .DEV_COMMAND => within 0 8 v
  | _ => true

/-- The range of a DOMAIN entry's value (R489, R508, R531). -/
def Ent.bytesOk (e : Ent) (b : Bytes) : Bool :=
  match e with
  | .QBV_LIST => qbvListOk b
  | .QBV_BASE => decide (fieldAt b 8 4 < 1000000000)
  | .CYC_BASE => decide (fieldAt b 8 4 < 1000000000)
  | _ => true

/-- Does a value pass the reserved bits of its entry (R512)? -/
def Ent.rsvOk (e : Ent) : OdVal → Bool
  | .num v => v &&& e.rsv == 0
  | .bytes _ => true

/-- Does a value pass the range of its entry (R512, R529)? -/
def Ent.rangeOk (e : Ent) (inst elem : Nat) : OdVal → Bool
  | .num v => (e.row.ty != .boolean || decide (v ≤ 1)) && e.numOk inst elem v
  | .bytes b => e.bytesOk b

/-- The enable that locks an entry (R511). -/
def Ent.lockedBy (e : Ent) : Ent :=
  match e with
  | .CAM_EDGE => .CAM_ENABLE
  | .FNET_MODE => .FNET_ENABLE
  | .CYC_PORT => .CYC_ENABLE
  | .NL_CLK_MODE => .NL_ENABLE
  | .TRG_SRC => .TRG_ENABLE
  | .TRG_CHANNEL => .TRG_ENABLE
  | .TRG_START => .TRG_ENABLE
  | .TRG_PERIOD => .TRG_ENABLE
  | .TRG_WIDTH => .TRG_ENABLE
  | .TRG_WIDTH_CNT => .TRG_ENABLE
  | _ => .ENC_ENABLE

/-- The state check of a write that INERT-only and locked markings give (R511). -/
def State.writeAllowed (s : State) (e : Ent) (inst : Nat) : Bool :=
  (!e.row.inertOnly || decide (s.dev.state = .inert)) && (!e.row.locked || !s.flag e.lockedBy inst)

/-- The state with the commits that wait and the pending shadows of a group in effect, on which the group check works
(R528). -/
def State.overlay (s : State) (g : Nat) : State :=
  (s.applyWaiting (inGroup g)).each (s.od.shadows.filter (fun e => inGroup g e.1)) (fun s e => s.setKey e.1 e.2)

/-- What a scalar object of the dictionary is to a map (R532): its size, whether it can be read, and whether it is RW and
LIVE. -/
def Obj.mapInfo : Obj → Option (Nat × Bool × Bool)
  | .ent e _ _ =>
    let r := e.row
    if r.ty = .domain then none else some (r.ty.size, r.acc == .ro || r.acc == .rw, r.acc == .rw && r.live)
  | .lint _ _ => some (2, true, false)
  | .lintRc _ _ => some (2, false, false)
  | .sub0 _ => some (1, true, false)
  | .commit _ => some (1, false, false)
  | .status _ => some (1, true, false)

/-- The fields of a map entry (R532): index, subindex and offset. -/
def mapIndex (v : Nat) : Nat := bits v 15 0
def mapSub (v : Nat) : Nat := bits v 23 16
def mapOfs (v : Nat) : Nat := bits v 47 32

/-- The bytes that a used map entry covers in the image, where the entry is sound by itself (R532). -/
def mapSpan (crews : Nat) (rx : Bool) (v : Nat) : Option (Nat × Nat) :=
  if bits v 27 24 = 1 ∧ bits v 31 28 = 0 ∧ bits v 63 48 = 0 then
    match (resolve crews (mapIndex v) (mapSub v)).bind Obj.mapInfo with
    | some (n, rd, live) =>
      if (if rx then live else rd) ∧ mapOfs v + n ≤ 1024 then some (mapOfs v, n) else none
    | none => none
  else none

/-- The used map entries of a map. -/
def State.mapUsed (s : State) (rx : Bool) : List (Nat × Nat) :=
  ((List.range 64).map (fun k => (k, s.numAt (if rx then .CYC_RX_MAP else .CYC_TX_MAP) 0 k))).filter (fun e => e.2 != 0)

/-- The first map entry that breaks R532. -/
def State.mapBroken (s : State) (rx : Bool) : Option Nat :=
  let used := s.mapUsed rx
  let clash (a b : Nat × Nat) : Bool := decide (a.1 < b.1 + b.2) && decide (b.1 < a.1 + a.2)
  (used.find? (fun e =>
    match mapSpan s.crewCount rx e.2 with
    | none => true
    | some x => used.any (fun o => o.1 != e.1 &&
        (match mapSpan s.crewCount rx o.2 with | some y => clash x y | none => false)))).map (·.1)

/-- The length of an image (R532): the end of its last value. -/
def State.mapLen (s : State) (rx : Bool) : Nat :=
  (s.mapUsed rx).foldl (fun m e => match mapSpan s.crewCount rx e.2 with | some x => max m (x.1 + x.2) | none => m) 0

/-- Why a commit is refused (R529): ERR_RANGE naming an entry, or ERR_STATE. -/
inductive CommitFault where
  | range (index sub : Nat)
  | state
deriving DecidableEq, Repr

/-- An entry named by a failed check. -/
def nameOf (e : Ent) (inst elem : Nat) : CommitFault := .range (e.row.index + inst) (e.row.sub + elem)

/-- The first condition of a list that fails. -/
def firstBad : List (Bool × CommitFault) → Option CommitFault
  | [] => none
  | (bad, f) :: r => if bad then some f else firstBad r

/-- The cyclic group (R537). -/
def checkCyc (t : State) : Option CommitFault :=
  firstBad
    [(!decide (t.num .CYC_TX_OFS_NS 0 < t.num .CYC_PERIOD_NS 0), nameOf .CYC_PERIOD_NS 0 0),
      ((t.mapBroken false).isSome, nameOf .CYC_TX_MAP 0 ((t.mapBroken false).getD 0)),
      ((t.mapBroken true).isSome, nameOf .CYC_RX_MAP 0 ((t.mapBroken true).getD 0))]

/-- The camera group (R75, R77): `s` is the state before the commit. -/
def checkCam (s t : State) : Option CommitFault :=
  firstBad ((List.range 12).flatMap (fun p =>
    let code := t.num .CAM_PACKING p
    [(t.num .CAM_EDGE p == 1 && decide (code < 2), nameOf .CAM_PACKING p 0),
      (!decide (t.num .CAM_FILL p < 2 ^ sampleDepth code), nameOf .CAM_PACKING p 0),
      (!decide (t.num .CAM_OVERLAP p < t.num .CAM_SWATH_LINES p), nameOf .CAM_SWATH_LINES p 0)]) ++
    [((allFin 12).any (fun p => s.dev.state.active && !s.flag .CAM_ENABLE p.val && t.flag .CAM_ENABLE p.val &&
        decide ((s.cams[p]).bufs = 0)), .state)])

/-- The mangle group (R70, R71, R78). -/
def checkMgl (t : State) : Option CommitFault :=
  firstBad ((List.range 12).flatMap (fun p =>
    let g := t.mglCfg p
    let size (n : Nat) : Bool := n == 1 || n == 2 || n == 4
    let inMosaic (c : Nat) : Bool := g.has c
    [(g.selected.any (fun c => !inMosaic c), nameOf .MGL_PLANES p 0),
      (g.irEnable && !inMosaic 4, nameOf .MGL_IR_ENABLE p 0),
      (!size g.pw || !size g.ph || inMosaic 5 || inMosaic 6, nameOf .MGL_MOS_SIZE p 0),
      (!decide (bits g.histWin 31 16 < t.camW p) || !decide (bits g.histWin 63 48 < t.camL p), nameOf .MGL_HIST_WIN p 0)]))

/-- Would crew `c` be in service under the committed values of `t` once the patch maps follow (R144, R153, R280)? -/
def State.crewWould (t : State) (c : Nat) : Bool :=
  decide (c < t.crewCount) && !t.heldOut (.crew c) && !t.flag .CREW_FORCE c &&
    decide (t.num .CREW_MIN_SHELLS 0 ≤ min 64 ((List.range 68).filter (fun p => !t.shellOos c p)).length) &&
    decide (t.oarsOos c ≤ 16)

/-- The force entry with the highest index among those a commit changes (R153, R288). -/
def State.highestForce (s : State) (g : Nat) (other : CommitFault) : CommitFault :=
  let force (key : Nat) : Bool :=
    match findEnt (key / 256) (key % 256) with
    | some (.ent .SHELL_FORCE_LO _ _) => true
    | some (.ent .SHELL_FORCE_HI _ _) => true
    | some (.ent .SCULL_FORCE _ _) => true
    | some (.ent .CREW_FORCE _ _) => true
    | some (.ent .OAR_FORCE _ _) => true
    | _ => false
  match ((s.od.shadows.map (·.1)).filter (fun k => inGroup g k && force k)).getLast? with
  | some k => .range (k / 256) (k % 256)
  | none => other

/-- The crew group (R153) and the oar group (R288). -/
def checkForce (s t : State) (g : Nat) (other : CommitFault) : Option CommitFault :=
  if (List.range 6).any t.crewWould then none else some (s.highestForce g other)

/-- The cox group (R239): conditions 1 to 6 in order. -/
def checkCox (s t : State) : Option CommitFault :=
  let parts := List.range 8
  let on := parts.filter (fun p => t.flag .PART_ENABLE p)
  let crew (p : Nat) : Nat := t.num .PART_CREW_MASK p
  let cam (p : Nat) : Nat := t.num .PART_CAM_MASK p
  let shares (f : Nat → Nat) (p : Nat) : Bool := on.contains p && on.any (fun q => q != p && f p &&& f q != 0)
  let sum (e : Ent) : Nat := (on.map (t.num e)).sum
  let lowest : Nat := on.headD 0
  let preempt := s.loaded.any (fun p => p.plans.any (·.preempt))
  let se := t.num .COX_SWATCH_EVERY 0
  let sl := t.num .COX_SWATCH_LEN 0
  let re := t.num .COX_RINSE_EVERY 0
  let rl := t.num .COX_RINSE_LEN 0
  let ph := t.num .COX_RINSE_PHASE 0
  let holds (p : Nat) : Bool := s.loaded.any (fun x => x.partition == p)
  firstBad (parts.flatMap (fun p =>
      [(shares crew p || crew p &&& t.crewMask != crew p, nameOf .PART_CREW_MASK p 0), (shares cam p, nameOf .PART_CAM_MASK p 0)]) ++
    parts.map (fun p => (t.num .PART_LEND_MASK p &&& crew p != t.num .PART_LEND_MASK p, nameOf .PART_CREW_MASK p 0)) ++
    [(decide ((if preempt then 145 else 179) < sum .PART_RATE), nameOf .PART_RATE lowest 0),
      (decide (t.granules < sum .PART_MEM_QUOTA), nameOf .PART_MEM_QUOTA lowest 0),
      (se % re != 0, nameOf .COX_SWATCH_EVERY 0 0), (decide (ph < sl), nameOf .COX_SWATCH_LEN 0 0),
      (decide (re < ph + rl), nameOf .COX_RINSE_EVERY 0 0), (decide (se ≤ sl + se / re * rl), nameOf .COX_SWATCH_EVERY 0 0),
      (decide (t.num .PWR_LIMIT 0 < t.num .PWR_P0_RESERVE 0 + t.num .PWR_BASE 0), nameOf .PWR_LIMIT 0 0),
      (parts.any (fun p => s.flag .PART_ENABLE p && !t.flag .PART_ENABLE p && holds p), .state)])

/-- The key-value group (R343). -/
def checkKv (t : State) : Option CommitFault :=
  firstBad ((List.range 8).map (fun p =>
    let pool : Nat := match t.slPlan p with | some (_, _, _, _, r) => r.pool | none => 0
    (decide (pool < t.num .KV_LOW_WATER p), nameOf .KV_LOW_WATER p 0)))

/-- The determinism group (R371). -/
def checkDet (t : State) : Option CommitFault :=
  let replay (p : Nat) : Bool := t.flag .DET_REPLAY_ENABLE p
  let cam (p : Nat) : Nat := t.num .PART_CAM_MASK p
  let tapOk (p : Nat) : Bool :=
    let n := t.num .DET_TAP_TENSOR p
    n == 0xFFFF || t.loaded.any (fun x => x.partition == p &&
      (match x.td n with | some d => decide (d.size ≤ 2 ^ 26) | none => false))
  firstBad ((List.range 8).flatMap (fun p =>
    [(replay p && (List.range 8).any (fun q => !replay q && cam p &&& cam q != 0), nameOf .DET_REPLAY_ENABLE p 0),
      (!tapOk p, nameOf .DET_TAP_TENSOR p 0)]))

/-- Does a size fit a shape (R400)? -/
def shapeFits (shape size : Nat) : Bool :=
  match shape with
  | 0 => within 1 32 size
  | 1 => size == 2
  | 2 => within 3 9 size
  | _ => [2, 4, 8, 16, 32].contains size

/-- The squad group (R423), with the state checks of R391. -/
def checkSqd (s t : State) : Option CommitFault :=
  let size := t.num .SQD_SIZE 0
  let src := t.num .SQD_TIME_SOURCE 0
  let modeKey (p : Nat) : Bool := (amGet? s.od.shadows (Ent.NL_TEST_MODE.key p 0)).isSome
  firstBad
    [(!shapeFits (t.num .SQD_SHAPE 0) size, nameOf .SQD_SIZE 0 0),
      (!(src == 0xFF || decide (src < size)), nameOf .SQD_SIZE 0 0),
      (t.flag .SQD_ENABLE 0 && (List.range 8).any (fun p => t.num .NL_TEST_MODE p != 0), nameOf .SQD_ENABLE 0 0),
      ((List.range 8).any (fun p => modeKey p && (!decide (s.dev.state = .inert) || s.onRoute p)), .state),
      ((List.range 8).any (fun p => s.flag .NL_ENABLE p && !t.flag .NL_ENABLE p && s.onRoute p), .state)]

/-- The encoder, divider and trigger group (R460, R480, R484). -/
def checkEnc (t : State) : Option CommitFault :=
  let startOk (n : Nat) : Bool :=
    if t.num .TRG_SRC n = 0 then decide (fieldAt (t.byt .TRG_START n) 8 4 < 1000000000)
    else decide (fieldAt (t.byt .TRG_START n) 8 4 = 0)
  firstBad ((List.range 16).map (fun d => (decide (t.num .DIV_M d < t.num .DIV_N d), nameOf .DIV_N d 0)) ++
    (List.range 32).map (fun n =>
      (!startOk n || (t.flag .TRG_WIDTH_CNT n && t.num .TRG_SRC n == 0), nameOf .TRG_SRC n 0)))

/-- The time group (R510). -/
def checkTime (s t : State) : Option CommitFault :=
  let sum (p : Nat) : Option Nat :=
    let n := t.num .QBV_LEN p
    let b := t.byt .QBV_LIST p
    if 8 * n ≤ b.length then some ((List.range n).map (fun i => fieldAt b (8 * i + 4) 4)).sum else none
  firstBad
    ([(t.num .TS_SOURCE 0 == 1 && !t.flag .PTP_ENABLE 0 && !t.flag .PTP_ENABLE 1, nameOf .TS_SOURCE 0 0)] ++
      (List.range 2).map (fun p => (!decide (sum p = some (t.num .QBV_CYCLE_NS p)), nameOf .QBV_CYCLE_NS p 0)) ++
      [(!t.flag .FNET_ENABLE 0 && !t.flag .FNET_ENABLE 1, .state),
        ((List.range 2).any (fun p => s.flag .FNET_ENABLE p && s.num .FNET_MODE p != t.num .FNET_MODE p), .state)])

/-- The check of a group with its pending shadows (R528): what it refuses. -/
def State.commitFault (s : State) (g : Nat) : Option CommitFault :=
  let t := s.overlay g
  match g with
  | 0x16 => checkCyc t
  | 0x22 => checkCam s t
  | 0x23 => checkMgl t
  | 0x24 => checkForce s t 0x24 (nameOf .CREW_MIN_SHELLS 0 0)
  | 0x26 => checkCox s t
  | 0x27 => checkForce s t 0x27 (nameOf .OAR_FORCE 0 0)
  | 0x28 => checkKv t
  | 0x29 => checkDet t
  | 0x2A => checkSqd s t
  | 0x2D => checkEnc t
  | 0x2E => checkTime s t
  | _ => none

end Sys2Proof.Machine
end

