-- ==== Sys2Proof/Machine/OdRead.lean ====
section
/-! DEFINITION. What the read-only entries of the object dictionary show, the reads of the other objects, and the description of an entry (R511, R515, R523, R527 and the entry tables of every chapter). -/

namespace Sys2Proof.Machine

open Sys2Proof

/-- The bytes of a row of one plane in a swath buffer: its pitch (R55). -/
def pitch64 (n : Nat) : Nat := (n + 63) / 64 * 64

/-- The line-store bytes of the swath buffers of a port with `n` buffers (R55). -/
def State.bufBytes (s : State) (p n : Nat) : Nat :=
  let w := s.camW p
  let planes := ((List.range 5).filter (fun i => (s.num .MGL_PLANES p).testBit i)).length
  let elem : Nat := if s.num .MGL_OUT_FMT p = 1 then 1 else 2
  let raw : Nat := if s.flag .CAM_KEEP_RAW p then pitch64 (w * (if sampleDepth (s.num .CAM_PACKING p) = 8 then 1 else 2)) else 0
  n * ((s.camL p + s.num .CAM_OVERLAP p) * (planes * pitch64 (w * elem) + raw))

/-- The number of swath buffers a port holds. -/
def State.bufsOf (s : State) (p : Nat) : Nat := match toFin? 12 p with | some i => s.cams[i].bufs | none => 0

/-- The line-store bytes that loaded packages declare (R55, R163). -/
def State.lsPackages (s : State) : Nat := (s.loaded.map (·.lsBytes)).sum

/-- The line store's size (R9, R55). -/
def lineStoreBytes : Nat := 33554432

/-- `MEM_LS_FREE` (R195). -/
def State.lsFree (s : State) : Nat :=
  lineStoreBytes - (((List.range 12).map (fun p => s.bufBytes p (s.bufsOf p))).sum + s.lsPackages)

/-- `MEM_CMN_PLAN` (R195). -/
def State.cmnPlan (s : State) : Nat := (s.loaded.map (·.cmnBytes)).sum

/-- The word of a rota entry (R183). -/
def rotaWord (owner part k grant kind : Nat) : Nat := pack [(4, owner), (3, part), (1, 0), (6, k), (2, 0), (8, grant), (2, kind), (4, 1)]

/-- The entry of a slot in the active rota (R181 to R183). -/
def State.rotaEntry (s : State) (slot lane dir : Nat) : Nat :=
  let n := s.cox.period
  let heat := s.cox.heats.findSome? (fun e =>
    (((List.range e.2.image.grants.length).zip e.2.image.grants).find? (fun g =>
        decide (e.2.state ≠ .saved) && decide (e.2.state ≠ .draining) && decide (e.2.state ≠ .saving) &&
        decide (e.2.offset ≤ g.2.period) && decide (e.2.periods[g.2.period - e.2.offset]? = some n) && g.2.slot == slot &&
        physLane e.2.crews g.2.lane == lane && g.2.dir == dir)).map (fun g => (e, g)))
  match heat with
  | some (e, g) => rotaWord 1 e.2.req.partition e.1 (g.1 % 256) (if g.2.mem then 1 else 0)
  | none =>
    if !s.dev.state.active then rotaWord 0 0 0 0 0
    else match s.fixedOwner n slot lane dir with
      | some .oar => rotaWord 3 0 0 0 2
      | some .coachHost => rotaWord 2 0 0 0 1
      | some .save => rotaWord 4 0 0 0 1
      | _ => rotaWord 0 0 0 0 0

/-- `ROTA_TABLE` (R183, R195). -/
def State.rotaTable (s : State) : Bytes :=
  (List.range 288).flatMap (fun slot => (List.range 31).flatMap (fun lane => (List.range 2).flatMap (fun dir =>
    leBytes 4 (s.rotaEntry slot lane dir))))

/-- The sum of R231 in units of 1/6 ns: the mangle bound, the list, evaluation and start, the reclaim delay where the partition
lends crews (R229), and the plan's worst-case span. -/
def State.fastChain (s : State) (p : Package) (k : Nat) (pl : Plan) : Nat :=
  let reclaim : Nat := if s.num .PART_LEND_MASK p.partition = 0 then 0 else 6 * (1920 + 381320 * pl.crews)
  5 * (3 * s.camW pl.port + 2112) + 36576 + 23040 + reclaim +
    11520 * s.wcPeriods p k pl (s.crewsNow p.partition pl)

/-- WC_CHAIN_US (R231, R236). -/
def State.chainUs (s : State) (p : Package) (k : Nat) (pl : Plan) : Nat := (s.fastChain p k pl + 5999) / 6000

/-- `RP_PLANS` of a slot (R236). -/
def State.rpPlans (s : State) (slot : Nat) : Bytes :=
  match (toFin? 16 slot).bind (fun i => s.cox.packages[i]) with
  | some p => ((List.range p.plans.length).zip p.plans).flatMap (fun e => s.planStatus p e.1 e.2 (s.chainUs p e.1 e.2))
  | none => []

/-- `PWR_BASE` (R636): the fused idle power and what every enabled interface adds. -/
def State.powerBase (s : State) : Nat :=
  let on (e : Ent) (n : Nat) : Nat := ((List.range n).filter (s.flag e)).length
  (Config.fusedIdle (memReadN s.boot.fuses 586 128)).toNat + 10 * on .NL_ENABLE 8 + (if s.pci.rate = 0 then 0 else 25) +
    5 * on .FNET_ENABLE 2 + 5 * on .CAM_ENABLE 12 + (if s.field.rigLink then 30 else 0)

/-- The fuse block as `BOOT_FUSES` returns it (R605): the wrap key reads as zero. -/
def State.fuseBytes (s : State) : Bytes :=
  memReadN s.boot.fuses 0 554 ++ zeros 32 ++ memReadN s.boot.fuses 586 438

/-- `BOOT_KEY_STATE` (R619): 0 unprogrammed, 1 valid, 2 revoked. -/
def State.keyState (s : State) : Nat :=
  ((List.range 8).map (fun i =>
    let owner := decide (4 ≤ i)
    let v : Nat := if (s.fuse 512 1).testBit i then 2 else if allZero (s.keyHash owner (i % 4)) then 0 else 1
    v * 4 ^ i)).sum

/-- `BOOT_PKG_STORED` (R619). -/
def State.pkgStored (s : State) : Nat :=
  ((List.range 16).map (fun i =>
    match s.boot.flash.store.find? (fun x => x.slot == i) with
    | some x => 2 ^ i + (if x.quarantined then 2 ^ (16 + i) else 0)
    | none => 0)).sum

/-- `BOOT_STORE_FREE` (R595, R619). -/
def State.storeFree (s : State) : Nat := 40828928 - (s.boot.flash.store.map (fun x => x.container.length)).sum

/-- `SUP_STATUS` (R638): bit 10 also requires the rigger link. -/
def State.supStatus (s : State) : Nat :=
  ((allFin 11).map (fun i => b2n (s.dev.supplyOk[i] && (i.val != 10 || s.field.rigLink)) * 2 ^ i.val)).sum +
    ((allFin 6).map (fun g => b2n s.dev.fieldOk[g] * 2 ^ (11 + g.val))).sum

/-- `THERM_TJ_MAX` (R638): the highest of the hull sensors. -/
def State.tjMax (s : State) : Int := (s.dev.sensors.toList.take 32).foldl max (s.dev.sensors.toList.headD 0)

/-- `SQD_ROUTES` (R402, R420): the route of every seat, its hops and its replay bound. -/
def State.routeTable (s : State) : Bytes :=
  (List.range 32).flatMap (fun d =>
    match amGet? s.squad.routes d with
    | some (next, mask, hops, bound) => packBytes 12 [(5, next), (3, 0), (8, mask), (4, 1), (12, 0), (8, hops), (24, 0), (32, bound)]
    | none => packBytes 12 [(5, s.seat), (3, 0), (8, 0), (4, 1)])

/-- `SQD_TOPOLOGY` (R420). -/
def State.topoTable (s : State) : Bytes :=
  (List.range 32).flatMap (fun d => (List.range 8).flatMap (fun p =>
    match (amGet s.squad.topo d []).find? (fun l => l.port == p) with
    | some l => packBytes 2 [(5, l.peer), (3, l.peerPort), (8, 1)]
    | none => zeros 2))

/-- The recipe of a partition's second look. -/
def State.slOf (s : State) (part : Nat) : Option SlRecipe := (s.slPlan part).map (fun x => x.2.2.2.2)

/-- The entries of the camera, mangle, crew and oar ranges (R75, R78, R150, R151, R284, R286). -/
def State.readCamCrew (s : State) (e : Ent) (i : Nat) : OdVal :=
  let n (v : Nat) : OdVal := .num v
  match e with
  | .CAM_TP_BITS | .CAM_TP_BITS_RC => n (match toFin? 12 i with | some p => s.cams[p].tpBits | none => 0)
  | .CAM_LAST_SWATH => n (match toFin? 12 i with | some p => s.cams[p].lastSwath | none => 0)
  | .CAM_RECORD => .bytes (match toFin? 12 i with | some p => s.camRecord p | none => [])
  | .CAM_STATUS => n (match toFin? 12 i with | some p => s.camStatus p | none => 0)
  | .MGL_STATS => .bytes (match toFin? 12 i with | some p => (s.cams[p].stats.take (s.num .CAM_SWATH_BUFS i)).flatten | none => [])
  | .CREW_COUNT => n s.crewCount
  | .CREW_SERVICE_MASK => n s.serviceMask
  | .CREW_IN_SERVICE => n (b2n (s.crewIn i))
  | .CREW_SHELLS_ACTIVE => n (s.shellsActive i)
  | .CREW_PATCH_FREE => n (s.freeShells i).length
  | .SHELL_MAP => .bytes ((s.crew i).shellMap.map (BitVec.ofNat 8))
  | .SHELL_OOS_LO => n ((List.range 64).map (fun p => b2n (s.shellOos i p) * 2 ^ p)).sum
  | .SHELL_OOS_HI => n ((List.range 4).map (fun p => b2n (s.shellOos i (64 + p)) * 2 ^ p)).sum
  | .SCULL_IN_SERVICE => n (b2n (s.scullIn i))
  | .CREW_PASSES => n (s.crew i).passes
  | .OAR_COUNT => n (s.crewsIn.map s.oarsActive).sum
  | .OAR_INVOCATIONS => n s.units.invocations
  | .OAR_LAST_FAULT => n s.units.lastFault
  | .PRESS_BLOCKS => n s.units.pressBlocks
  | .CROP_SLOTS => n s.units.cropSlots
  | .OAR_ACTIVE => n (s.oarsActive i)
  | .OAR_PATCH_FREE => n (s.freeOars i).length
  | .OAR_MAP => .bytes ((List.range 512).flatMap (fun l => leBytes 2 ((s.crew i).oar l)))
  | .OAR_OOS => .bytes (leBytes 66 ((List.range 528).map (fun p => b2n (s.oarOos i p) * 2 ^ p)).sum)
  | _ => s.val e i 0

/-- The entries of the memory, cox, key-value and determinism ranges (R195, R234 to R236, R340, R368, R369). -/
def State.readCox (s : State) (e : Ent) (i : Nat) : OdVal :=
  let n (v : Nat) : OdVal := .num v
  let slot? : Option Package := (toFin? 16 i).bind (fun j => s.cox.packages[j])
  let kv := s.kvPart i
  match e with
  | .MEM_LPDDR_SIZE => n s.lpddrSize
  | .MEM_LS_FREE => n s.lsFree
  | .MEM_CMN_PLAN => n s.cmnPlan
  | .MEM_SAVE_SLOTS => n (if s.cox.saveSlots then 64 else 0)
  | .MEM_SAVE_RESERVED => n s.cox.saveReserved
  | .ROTA_PERIODS => n s.cox.period
  | .ROTA_TABLE => .bytes s.rotaTable
  | .MEM_LAST_ERR => n s.mem.lastErr
  | .COX_HEATS => n s.cox.heats.length
  | .COX_QUEUE_LEN => n s.cox.queue.length
  | .COX_NEXT_SERIAL => n s.nextSerial
  | .PWR_ADMITTED => n (s.powerAdmitted s.cox.period)
  | .COX_SETTLING => n (s.cox.settling.map (fun c => 2 ^ c.1)).sum
  | .COX_SETTLE_LAST => n s.cox.settleLast
  | .COX_HEAT_TABLE => .bytes ((List.range 64).flatMap s.heatEntry)
  | .RP_LAST_SLOT => n s.cox.lastSlot
  | .RP_LAST_FAULT => n s.cox.lastFault
  | .PART_HEATS => n (s.cox.heats.filter (fun h => h.2.req.partition == i)).length
  | .PART_SCR_HELD => n (s.scratchHeld [] i s.cox.period s.cox.period)
  | .PART_TOKENS => n (s.regulator i).tokens
  | .RP_STATE => n (b2n slot?.isSome)
  | .RP_DIGEST => .bytes (match slot? with | some p => p.digest | none => zeros 64)
  | .RP_PARTITION => n (match slot? with | some p => p.partition | none => 0)
  | .RP_PLANS => .bytes (s.rpPlans i)
  | .KV_POOL_PAGES => n (match s.slOf i with | some r => r.pool | none => 0)
  | .KV_FREE => n (match s.slOf i with | some r => kv.free r | none => 0)
  | .KV_RESERVED => n kv.reserved
  | .KV_AVAIL => n (match s.slOf i with | some r => ofInt 32 (kv.avail r) | none => 0)
  | .KV_RUNNING => n kv.seqs.length
  | .KV_QUEUED => n kv.queue.length
  | .KV_STEP => n kv.step
  | .KV_STEP_PERIODS => n (s.stepPeriods i)
  | .KV_TREE_NODES => n kv.tree.length
  | .KV_SEQ_TABLE => .bytes (match s.slOf i with | some r => (List.range r.maxSeq).flatMap kv.seqBytes | none => [])
  | .KV_QUEUE => .bytes ((kv.queueOrder kv.queue.length).flatMap KvEntry.bytes)
  | .KV_EVICT_LOG => .bytes (kv.seqs.flatMap (fun q => q.2.log.flatMap (fun x => leBytes 8 x.1)))
  | .DET_GEN_VERSION => n 1
  | .DET_PATCH_EPOCH => n s.det.epoch
  | .DET_PATCH_JOURNAL =>
    .bytes (s.det.journal.flatten ++ (List.range (64 - s.det.journal.length)).flatMap (fun _ => packBytes 80 [(32, 0), (4, 1)]))
  | .DET_GEN_OUT => .bytes s.det.genOut
  | .DET_CFG_CRC => .bytes ((List.range 12).flatMap (fun p => leBytes 4 (s.cfgCrc p)))
  | .DET_TAP_DATA => .bytes (match toFin? 8 i with | some p => s.det.tap[p] | none => [])
  | .DET_REPLAYS => n (match toFin? 8 i with | some p => s.det.replays[p] | none => 0)
  | _ => s.val e i 0

/-- The entries of the squad, link and retune ranges (R420, R421, R445). -/
def State.readSquad (s : State) (e : Ent) (i : Nat) : OdVal :=
  let n (v : Nat) : OdVal := .num v
  let port : NlPort := match toFin? 8 i with | some p => s.squad.ports[p] | none => NlPort.init
  let lanes (f : NlLane → Bytes) : OdVal := .bytes (port.lanes.toList.flatMap f)
  let t := s.rt i
  match e with
  | .SQD_STATE => n s.squad.state.code
  | .SQD_STROKE_SEAT => n (if s.squad.state = .formed then s.squad.stroke.getD 0xFF else 0xFF)
  | .SQD_MEMBERS => n s.squad.members
  | .SQD_VERSION => n s.squad.version
  | .SQD_EPOCH => n s.squad.epoch
  | .SQD_FORM_FAULT => n s.squad.formFault
  | .SQD_ROUTES => .bytes s.routeTable
  | .SQD_TOPOLOGY => .bytes s.topoTable
  | .SQD_LOAD_SEAT => n (s.squad.loadSeat.getD 0xFF)
  | .SQD_CMD_FAULT_SEAT => n (s.squad.cmdFaultSeat.getD 0xFF)
  | .NL_STATE => n port.state.code
  | .NL_FAIL_CAUSE => n port.failCause
  | .NL_PEER => n port.peerWord
  | .NL_PEER_ID => n port.peerId
  | .NL_VERSION => n port.version
  | .NL_LANE_MAP => n port.mapWord
  | .NL_TAPS => lanes (fun l => leBytes 1 l.cm1 ++ leBytes 1 l.cp1)
  | .NL_FOM => lanes (fun l => leBytes 1 l.fom)
  | .NL_DELAY => n (ofInt 64 port.delay)
  | .NL_OFFSET => n (ofInt 64 port.offset)
  | .NL_INJECTED => n port.injected
  | .NL_CHK_ERRORS => lanes (fun l => leBytes 4 l.errors)
  | .NL_CHK_BITS => lanes (fun l => leBytes 8 l.bitsSeen)
  | .RT_LAST_INDEX => n (t.last.getD 0xFFFFFFFF)
  | .RT_SAMPLES => n t.samples.length
  | .RT_BAD_SET => .bytes t.badSet
  | .RT_EPOCH => n t.epoch
  | .RT_STEP => n t.steps
  | .RT_READY => n t.ready
  | .RT_GENERATION => n t.generation
  | .RT_EXPORT => .bytes (s.rtExport i)
  | _ => s.val e i 0

/-- The entries of the field, encoder, fire, time and network ranges (R474 to R482, R506 to R508). -/
def State.readField (s : State) (e : Ent) (i : Nat) : OdVal :=
  let n (v : Nat) : OdVal := .num v
  let enc : Encoder := match toFin? 8 i with | some c => s.field.encs[c] | none => Encoder.init
  let port : FnetPort := match toFin? 2 i with | some p => s.fnet.ports[p] | none => FnetPort.init
  match e with
  | .FIO_IN => n s.fioIn
  | .FIO_COMMON_FAULT => n (b2n s.commonFault)
  | .FIO_SUPPLY_MV => .bytes (s.field.supplyMv.toList.flatMap (leBytes 2))
  | .FIO_STATUS => n (match toFin? 48 i with | some c => s.fioStatus c | none => 0)
  | .FIRE_PENDING => n s.field.fire.pending.length
  | .FIRE_STOP_LATCHED => n (b2n s.field.fire.stopLatched)
  | .ENC_POS => n (ofInt 64 enc.pos)
  | .ENC_REF_POS => n (ofInt 64 enc.refPos)
  | .ENC_REF_CNT => n enc.refCnt
  | .ENC_STATUS => n enc.status
  | .FIRE_LAST => n (match toFin? 12 i with | some p => s.field.fire.last[p] | none => 0)
  | .TS_TIME => .bytes s.netTime.toBytes
  | .TS_MONO => n s.now
  | .TS_STATE => n s.tu.state.code
  | .TS_OFFSET => n (ofInt 64 s.tu.offset)
  | .TS_RATE => n (ofInt 64 s.tu.rate)
  | .PTP_CLOCK_ID => n s.clockId
  | .PTP_GM_ID => n s.fnet.gmId
  | .TS_UTC_OFFSET => n (match s.fnet.utcOffset with | some v => v | none => s.num .TS_UTC_OFFSET 0)
  | .FNET_STATUS => n port.status
  | .FNET_MAC => n (s.mac i)
  | .PTP_PORT_STATE => n port.ptpState
  | .PTP_LINK_DELAY => n (ofInt 64 port.linkDelay)
  | .PTP_NRR => n (ofInt 32 port.nrr)
  | .PTP_AS_CAPABLE => n (b2n port.asCapable)
  | .TS_TXQ => .bytes (port.txq.flatMap TxStamp.bytes)
  | .QBV_OPER_BASE =>
    .bytes (match port.gate with
      | some g => leBytes 8 (g.base / 1000000000) ++ leBytes 4 (g.base % 1000000000)
      | none => zeros 12)
  | _ => s.val e i 0

/-- The entries of the device, session, cyclic, PCIe, safety, record, boot, clock and power ranges (R36, R537, R557, R589, R591,
R619, R638). -/
def State.readDevice (s : State) (e : Ent) (i : Nat) : OdVal :=
  let n (v : Nat) : OdVal := .num v
  match e with
  | .DEV_STATE => n s.dev.state.code
  | .DEV_SAFE_CAUSE => n s.dev.safeCause
  | .DEV_ARM_FAULT => n s.dev.armFault
  | .ID_PART => n s.part
  | .ID_DEVICE => .bytes (memReadN s.boot.fuses 529 16)
  | .ID_MAC_BASE => n (s.fuse 545 6)
  | .ID_STEPPING => n (s.fuse 552 1)
  | .ID_CREW_FUSED => n (s.fuse 553 1)
  | .OD_CONTROL => n s.control
  | .OD_SESSIONS => .bytes ((List.range 16).flatMap (fun j => s.sessionEntry (16 * i + j)))
  | .CYC_TX_LEN => n (s.mapLen false)
  | .CYC_RX_LEN => n (s.mapLen true)
  | .CYC_RX_LAST => n s.cyc.lastCycle
  | .PCI_LINK => n (s.pci.rate % 8 + 8 * (s.pci.width % 16))
  | .PCI_XL_ACTIVE => n s.pci.lists.length
  | .PCI_XL_FAULT => n s.pci.fault
  | .PCI_ARCH_STATUS => .bytes (leBytes 8 s.pci.archive.written ++ leBytes 8 s.pci.archive.read)
  | .SAF_EVENTS => n s.safEvents
  | .SAF_SAFE_EVENT => n s.saf.safeEvent
  | .SAF_LOST_US => n s.lostUs
  | .SAF_RINSE_STATUS => .bytes (s.saf.status.toList.flatMap (leBytes 8))
  | .SAF_LAST_ERR => .bytes s.lastErrBytes
  | .REC_VERDICT_COUNT => n s.recs.verdictCount
  | .REC_VERDICT_RING => .bytes (s.recs.verdicts.flatMap (fun r => r.2.bytes))
  | .REC_RESULT_COUNT => n s.recs.resultCount
  | .REC_RESULT_RING => .bytes (s.recs.results.flatMap ResultRec.bytes)
  | .REC_PORT_SEQ => n (match toFin? 12 i with | some p => s.recs.portSeq[p] | none => 0)
  | .BOOT_FW_VERSION => n (match s.boot.running with | some f => f.version | none => 0)
  | .BOOT_ROM_VERSION => n s.boot.romVersion
  | .BOOT_COUNT => n s.boot.record.bootCount
  | .BOOT_CAUSE => n s.boot.record.cause
  | .BOOT_LEDGER => .bytes (s.boot.flash.lastBoots.flatMap LedgerRec.bytes)
  | .BOOT_FW_STATUS => n s.boot.fwStatus
  | .BOOT_FW_STAGED => n (match s.boot.staged with | some f => f.version | none => 0)
  | .BOOT_FW_CTR => n (rollback (s.fuse 513 8))
  | .BOOT_RP_CTR => n (rollback (s.fuse 521 8))
  | .BOOT_KEY_STATE => n s.keyState
  | .BOOT_ATTEST_REPORT => .bytes s.boot.attestReport
  | .BOOT_DEV_CERT => .bytes (Config.deviceChain s.boot.flash.factory)
  | .BOOT_PKG_STORED => n s.pkgStored
  | .BOOT_STORE_FREE => n s.storeFree
  | .BOOT_FUSES => .bytes s.fuseBytes
  | .CLK_ROOT_LOCK => n (b2n s.dev.pllLocked)
  | .THERM_TJ_MAX => n (ofInt 16 s.tjMax)
  | .THERM_SENSORS => .bytes (s.dev.sensors.toList.flatMap (fun t => leBytes 2 (ofInt 16 t)))
  | .THERM_ADMIT_LIMIT => n s.dev.admitLimit
  | .PWR_BASE_FUSED => n (Config.fusedIdle (memReadN s.boot.fuses 586 128)).toNat
  | .PWR_MEASURED => n s.dev.measured
  | .PWR_RAIL => .bytes (s.dev.rails.toList.flatMap (leBytes 4))
  | .SUP_STATUS => n s.supStatus
  | _ => s.val e i 0

/-- The value a read of an entry gives (R527): what the machine shows for an RO or RC entry, the committed value of any other. -/
def State.readEnt (s : State) (e : Ent) (inst elem : Nat) : OdVal :=
  let r := e.row
  if r.acc = .rw then
    (if e = .TS_UTC_OFFSET then s.readField e inst else s.val e inst elem)
  else
    let c := r.index / 256
    if c = 0x22 ∨ c = 0x23 ∨ c = 0x24 ∨ c = 0x27 then s.readCamCrew e inst
    else if c = 0x25 ∨ c = 0x26 ∨ c = 0x28 ∨ c = 0x29 then s.readCox e inst
    else if c = 0x2A ∨ c = 0x2B then s.readSquad e inst
    else if c = 0x2C ∨ c = 0x2D ∨ c = 0x2E then s.readField e inst
    else s.readDevice e inst

/-- Does a group hold a pending shadow, and does a commit of it wait (R526)? -/
def State.groupStatus (s : State) (g : Nat) : Nat :=
  b2n (s.od.shadows.any (fun e => inGroup g e.1)) + 2 * b2n (s.od.waiting.any (fun e => inGroup g e.1))

/-- The scalar that a read of an object returns (R511, R526). -/
def State.readObj (s : State) (o : Obj) : OdVal :=
  match o with
  | .ent e inst elem => s.readEnt e inst elem
  | .lint l inst => .num (s.lintVal l inst)
  | .lintRc l inst => .num (s.lintVal l inst)
  | .sub0 index => .num (highestSub index)
  | .commit _ => .num 0
  | .status g => .num (s.groupStatus g)

/-- The bytes of a value of an object (R512). -/
def OdVal.enc (v : OdVal) (size : Nat) : Bytes :=
  match v with
  | .num n => leBytes size n
  | .bytes b => b

/-- The type, the access and the markings of an object (R511, R515). -/
def Obj.ty : Obj → OdType
  | .ent e _ _ => e.row.ty
  | .lint _ _ => .uns16
  | .lintRc _ _ => .uns16
  | .sub0 _ => .uns8
  | .commit _ => .uns8
  | .status _ => .uns8

/-- The access code of an object. -/
def Obj.access : Obj → Access
  | .ent e _ _ => e.row.acc
  | .lint _ _ => .ro
  | .lintRc _ _ => .rc
  | .sub0 _ => .ro
  | .commit _ => .wo
  | .status _ => .ro

/-- Bit 0 LIVE, bit 1 INERT only, bit 2 locked while enabled, bit 3 stored of byte 2 of INFO (R515). -/
def Obj.marks : Obj → Nat
  | .ent e _ _ => b2n e.row.live + 2 * b2n e.row.inertOnly + 4 * b2n e.row.locked + 8 * b2n e.row.stored
  | .commit _ => 1
  | _ => 0

/-- The largest DOMAIN an entry takes (R512, R524). `RP_LOAD` takes the LPDDR5 that no loaded package and save section holds. -/
def State.maxLen (s : State) (e : Ent) : Nat :=
  if e = .RP_LOAD then
    s.granules * 2097152 - (s.loaded.map (fun p => p.container.length + p.lpddrBytes)).sum - s.cox.saveReserved
  else e.row.maxLen

/-- The name of an object in ASCII, padded to 32 bytes (R515). -/
def nameBytes (n : String) : Bytes := fit (n.toList.map (fun c => BitVec.ofNat 8 c.toNat)) 32

/-- The name of an element of an entry: the names of the black levels differ by plane (R78). -/
def Ent.elemName (e : Ent) (elem : Nat) : String :=
  match e with
  | .MGL_BLACK => "MGL_BLACK_" ++ ["R", "G", "B", "C", "I"].getD elem ""
  | e => e.row.name

/-- The name bytes of an object (R515): the manual's, or what the device gives an object without a name in the manual
(notes/assumptions/11.md). -/
def Obj.nameOf (o : Obj) (index sub : Nat) : Bytes :=
  match o with
  | .ent e _ elem => nameBytes (e.elemName elem)
  | .lint l _ => nameBytes l.row.name
  | .commit g => nameBytes (commitName g)
  | _ => leBytes 32 (Config.unnamedEntry (index * 256 + sub)).toNat

/-- The default of an object's value, zero-extended to 8 bytes (R515). -/
def State.dfltOf (s : State) (o : Obj) : Nat :=
  match o with
  | .ent e inst elem => (e.dflt s.part inst elem).toNat
  | .sub0 index => highestSub index
  | _ => 0

/-- The 48 bytes of an INFO response (R515). -/
def State.infoBytes (s : State) (o : Obj) (index sub : Nat) : Bytes :=
  let tx : Bool := match o.mapInfo with | some (_, rd, _) => rd | none => false
  let rx : Bool := match o.mapInfo with | some (_, _, live) => live | none => false
  let len : Nat := match o with | .ent e _ _ => (if e.row.ty = .domain then s.maxLen e else 0) | _ => 0
  leBytes 1 o.ty.code ++ leBytes 1 o.access.code ++ leBytes 1 (o.marks + 16 * b2n tx + 32 * b2n rx) ++ [0#8] ++
    leBytes 8 (s.dfltOf o) ++ leBytes 4 len ++ o.nameOf index sub

end Sys2Proof.Machine
end

