-- ==== Sys2Proof/Machine/Clock.lean ====
section
/-! DEFINITION. What a cycle of CK_TS does by itself (R16, R492, R494, R586). -/

namespace Sys2Proof.Machine

open Sys2Proof

/-- Does lost time grow by the device state (R586): the field input of `SAF_LINE_RUN_CH` reads on outside RUN and DEGRADED? -/
def State.lineLost (s : State) : Bool :=
  !s.dev.state.runs &&
    (let n := s.num .SAF_LINE_RUN_CH 0
    decide (n < 48) && s.fioIn.testBit n)

/-- One cycle of CK_TS on a device that is powered and out of RESET: the counters of the time unit advance, and lost time with
them. Every other happening that takes time is a command of its own. -/
def State.idleCycle (s : State) : State :=
  match s.dev.state with
  | .off | .reset => s
  | _ =>
    let s1 := s.modTu TimeUnit.tick
    if s.lineLost then s1.modSaf (fun f => { f with lostTs := f.lostTs + 1 }) else s1

end Sys2Proof.Machine
end

