-- ==== Sys2Proof/Machine/DevCmd.lean ====
section
/-! DEFINITION. The commands of the device: ARM with its checks, DISARM, START, STOP, SAFE, SAFE_ACK, WARM_RESTART and RESET, alone and across a squad (R28 to R40, R408, R610). -/

namespace Sys2Proof.Machine

open Sys2Proof

/-! ### The checks of ARM -/

/-- The word of `DEV_ARM_FAULT` (R36). -/
def armName (e : Ent) (inst : Nat) : Nat := (e.row.index + inst) * 2 ^ 16 + e.row.sub

/-- The ports whose enable is 1. -/
def State.enabledPorts (t : State) : List Nat := (List.range 12).filter (t.flag .CAM_ENABLE)

/-- The lowest enabled port whose buffers do not fit the line store (R55). -/
def State.armBuffers (t : State) : Option Nat :=
  (t.enabledPorts.find? (fun p =>
    decide (lineStoreBytes < t.lsPackages +
      ((t.enabledPorts.filter (· ≤ p)).map (fun q => t.bufBytes q (t.num .CAM_SWATH_BUFS q))).sum))).map
    (armName .CAM_SWATH_BUFS)

/-- The run-package region of the commons (R168). -/
def State.armCommons (t : State) : Option Nat := if 7 * 2 ^ 20 < t.cmnPlan then some (armName .MEM_CMN_PLAN 0) else none

/-- The lowest enabled port that feeds a loaded plan and fails R166. -/
def State.armLines (t : State) : Option Nat :=
  (t.enabledPorts.find? (fun p =>
    match t.fastPlan p with
    | some (_, k, pkg, _) =>
      decide ((t.num .CAM_SWATH_BUFS p - 1) * t.camL p * Config.planLineNs pkg.container k < Config.planCloseNs pkg.container k)
    | none => false)).map (armName .CAM_SWATH_BUFS)

/-- The plans of the loaded packages, with their packages and numbers. -/
def State.allPlans (t : State) : List (Package × Nat × Plan) :=
  t.loaded.flatMap (fun p => ((List.range p.plans.length).zip p.plans).map (fun e => (p, e.1, e.2)))

/-- A SWATCH plan longer than the window (R239). -/
def State.armSwatch (t : State) : Option Nat :=
  if t.allPlans.any (fun (x : Package × Nat × Plan) => decide (x.2.2.kind = .swatch) &&
      decide (t.num .COX_SWATCH_LEN 0 < (t.planSpan x.1 x.2.1 x.2.2).2.w)) then
    some (armName .COX_SWATCH_LEN 0)
  else none

/-- A FAST plan of a partition that lends crews and fails R231. -/
def State.armChain (t : State) : Option Nat :=
  (t.allPlans.find? (fun (x : Package × Nat × Plan) =>
    decide (x.2.2.kind = .fast) && t.num .PART_LEND_MASK x.1.partition != 0 && x.2.2.deadlineUs != 0 &&
      decide (6000 * x.2.2.deadlineUs < t.fastChain x.1 x.2.1 x.2.2))).map (fun x => armName .PART_LEND_MASK x.1.partition)

/-- SPREAD by head over more seats than HKV (R339). -/
def State.armSpread (t : State) : Option Nat :=
  (t.loaded.find? (fun p => p.strokes.any (fun b =>
    strokeKind b == 2 && (sweepStroke b).spread == 1 && decide ((sweepStroke b).hkv < t.spreadPlace.1)))).map
    (fun p => armName .KV_POOL_PAGES p.partition)

/-- Does a port meet a condition of R484 under which ARM fails? -/
def State.armFirePort (t : State) (p : Nat) : Bool :=
  t.flag .FIRE_ENABLE p &&
    (match (t.fastPlan p).bind (fun f => f.2.2.1.fireCfg p) with
    | none => true
    | some c =>
      let valves := (List.range c.valves).map (· + c.base)
      let other (q : Nat) : List Nat :=
        match (t.fastPlan q).bind (fun f => f.2.2.1.fireCfg q) with
        | some d => (List.range d.valves).map (· + d.base)
        | none => []
      let stop := t.num .FIRE_STOP_CH 0
      valves.any (fun v => t.fioMode v != 3) ||
        ((List.range 12).filter (fun q => q != p && t.flag .FIRE_ENABLE q)).any (fun q => valves.any (other q).contains) ||
        !t.flag .ENC_ENABLE (t.num .CAM_ENC_SRC p) ||
        ([Ent.FIRE_FB_UNDECIDED, .FIRE_FB_LATE, .FIRE_FB_INVALID].any (fun e => t.num e p != 0) &&
          !(decide (stop < 48) && t.fioMode stop == 5)))

/-- The lowest port that fails R484. -/
def State.armFire (t : State) : Option Nat := ((List.range 12).find? t.armFirePort).map (armName .FIRE_ENABLE)

/-- The archive ring does not fit in the granules that no quota claims (R553). -/
def State.armArchive (t : State) : Option Nat :=
  let claimed := (((List.range 8).filter (t.flag .PART_ENABLE)).map (t.num .PART_MEM_QUOTA)).sum
  if 2 * (t.granules - claimed) < t.num .PCI_ARCH_MIB 0 then some (armName .PCI_ARCH_MIB 0) else none

/-- The rinse does not fit its window or its limit (R576). -/
def State.armRinse (t : State) : Option Nat :=
  if t.num .COX_RINSE_LEN 0 * 192 < 2200 ∨ t.num .SAF_RINSE_LIMIT 0 * 100000 < 24 * 192 * t.num .COX_RINSE_EVERY 0 then
    some (armName .COX_RINSE_LEN 0)
  else none

/-- The minimum of the part's temperature grade in 0.1 °C (R1, R637). -/
def State.gradeMin (t : State) : Int := if t.part.testBit 2 then -400 else 0

/-- The rigger supply and link (R626), and the temperature (R637). -/
def State.armSupply (t : State) : Option Nat :=
  if !t.supStatus.testBit 10 then some (armName .SUP_STATUS 0)
  else if t.tjMax < t.gradeMin then some (armName .THERM_TJ_MAX 0) else none

/-- The first entry that makes ARM fail (R36, R38, R39); the manual gives no order among the checks (notes/assumptions/50.md).
The values that take effect at ARM are in effect in the checks. -/
def State.armCheck (s : State) : Option Nat :=
  match s.od.shadows.head? with
  | some e => some (e.1 / 256 * 2 ^ 16 + e.1 % 256)
  | none =>
    let t := s.applyWaiting (fun _ => true)
    [t.armBuffers, t.armCommons, t.armLines, t.armSwatch, t.armChain, t.armSpread, t.armFire, t.armArchive, t.armRinse,
      t.armSupply].findSome? id

/-! ### ARMED is reached -/

/-- Does a waiting change of this key take effect at ARM (R77, R153, R196, R239, R288, R343, R371, R477, R484, R553, R593)? The
tapped tensor waits for an admission (R371). -/
def armKey (k : Nat) : Bool :=
  let g := groupOf (k / 256)
  ((decide (0x22 ≤ g) && decide (g ≤ 0x2D)) || g == 0x2F || g == 0x30 || g == 0x31) &&
    !((List.range 8).any (fun p => k == Ent.DET_TAP_TENSOR.key p 0))

/-- The save-section bytes that ARM reserves (R191, R227). -/
def State.saveBytes (s : State) : Nat :=
  (s.allPlans.map (fun (x : Package × Nat × Plan) =>
    if x.2.2.preempt then x.2.2.maxConc * x.2.2.crews * ((1 + (65536 * x.2.2.scrQuota + 1983) / 1984) * 1984) else 0)).sum

/-- A port at ARM: its buffers, and the enable in effect (R55, R77). -/
def CamPort.arm (c : CamPort) (on : Bool) (n : Nat) : CamPort :=
  { c with
    on := on, bufs := n, free := List.range n, nextBuf := none, firstDone := false, afterOverrun := false
    closed := c.closed.map (fun w => { w with released := true, rowRefs := w.rowRefs.map (fun _ => 0) }) }

/-- The records region at ARM: the counts and the sequence of every port restart, and the rings stay (R583, R591); the numbers of
older records move out of the way of the new ones. -/
def Records.arm (r : Records) : Records :=
  { r with
    verdicts := r.verdicts.map (fun e => (e.1 + 2 ^ 64, e.2)), verdictCount := 0, resultCount := 0
    portSeq := Vector.replicate 12 0 }

/-- The cox at ARM: the rota, full buckets, the save slots, and the first period (R181, R182, R226, R227). -/
def State.armCox (s : State) : State :=
  s.modCox (fun c =>
    { c with
      period := 0, armMono := s.now, window := 0, admitting := false, stopReq := false, heats := [], queue := [], held := []
      saves := [], restores := [], transfer := false, stepEnds := [], settling := []
      partitions := Vector.ofFn (fun i => ⟨s.num .PART_DEPTH i, 0, []⟩)
      saveSlots := s.allPlans.any (fun (x : Package × Nat × Plan) => x.2.2.preempt), saveReserved := s.saveBytes })

/-- ARMED is reached (R28, R39): what was committed for ARM is in effect, the rota begins with its first swatch window, and the
records, buffers and rings of this ARM begin. -/
def State.armNow (s : State) : State :=
  let s1 := (s.applyWaiting armKey).armCox
  let s2 := (s1.setNum .PWR_BASE 0 s1.powerBase).atAdmission
  let s3 := s2.each (allFin 12) (fun s p =>
    let on := s.flag .CAM_ENABLE p
    s.modCam p (fun c => c.arm on (if on then s.num .CAM_SWATH_BUFS p else 0)))
  let a : Archive := ⟨s3.num .PCI_ARCH_MIB 0 * 2 ^ 20, [], 0, 0⟩
  let s4 : State :=
    { s3 with
      kv := Vector.replicate 8 KvPart.init, recs := s3.recs.arm, pci := { s3.pci with archive := a }
      det := { s3.det with replays := Vector.replicate 8 0 } }
  let s5 := (s4.modSaf (fun f => { f with running := [], expected := [] })).syncEnables
  ((s5.modDev (fun d => { d with state := .armed, arming := none })).admitSwatch 0).heatStarts 0

/-- The ARM in progress ends (R39). -/
def State.armEnds (s : State) : State :=
  match s.dev.arming with
  | none => s
  | some (o, f) =>
    match f.or s.armCheck with
    | some w => s.armFails (some w)
    | none => (s.armNow).answer o .ok 0

/-! ### STOP -/

/-- A partition's second-look parts at STOP (R30): queued ones are UNDECIDED, and running sequences leave where no step runs. -/
def State.stopParts (s : State) (part : Nat) : State :=
  let s1 := s.each (s.kvPart part).queue (fun s e => s.slVerdict e .undecided .stopped false)
  let s2 := s1.modKv part (fun k => { k with queue := [] })
  if s2.stepOpen part then s2 else s2.stopSeqs part none

/-- A queued request at STOP (R30): a FAST one leaves its swath UNDECIDED, a BACKGROUND one is CANCELLED. -/
def State.stopReq_ (s : State) (r : CoxReq) : State :=
  match r.kind with
  | .fast =>
    (match r.swath with
    | some (port, cnt) =>
      (match s.swath? port cnt with
      | some w => ((s.swathHeatless port w .undecided .stopped).swathDecided port cnt).swathEnds port cnt .undecided
      | none => s)
    | none => s)
  | .background => s.addResult (blankResult 5 3 .stopped (s.reqAudit r))
  | _ => s

/-- The command STOP (R30): nothing more is admitted but heats that resume. -/
def State.stopNow (s : State) : State :=
  let gone := s.cox.queue.filter (fun r => r.resume.isNone)
  let s1 := s.modCox (fun c => { c with
    stopReq := true, admitting := false, queue := c.queue.filter (fun r => r.resume.isSome), held := [] })
  (s1.each gone State.stopReq_).each (List.range 8) State.stopParts

/-- STOP completes (R28, R30). -/
def State.stopEnds (s : State) : State :=
  if s.cox.stopReq ∧ s.otherHeats = 0 ∧ s.dev.state.runs then
    (s.modDev (fun d => { d with state := .armed })).modCox (fun c => { c with stopReq := false })
  else s

/-! ### WARM_RESTART -/

/-- The retune state that a warm restart keeps: store, bad set, cache and generation (R610). -/
def Retune.warm (t : Retune) : Retune :=
  { Retune.init with
    samples := t.samples, last := t.last, bad := t.bad, removed := t.removed, cache := t.cache, generation := t.generation }

/-- WARM_RESTART (R35, R610). -/
def State.warmRestart (s : State) : State :=
  let s1 := ((s.armFails none).outputsOff).writeStored
  let slots := (List.range 16).filter (fun i => ((toFin? 16 i).bind (fun j => s1.cox.packages[j])).isSome)
  let kept := s1.od.committed.filter (fun e =>
    (decide (0x2610 ≤ e.1 / 256) && decide (e.1 / 256 < 0x2618)) || (decide (0x2910 ≤ e.1 / 256) && decide (e.1 / 256 < 0x2918)))
  let w := s1.enterBoot 5
  { w with
    cox := { w.cox with packages := s1.cox.packages, gens := s1.cox.gens }
    retune := s1.retune.map Retune.warm
    mem := { w.mem with lpddr := s1.mem.lpddr, lpddrErr := s1.mem.lpddrErr }
    od := { w.od with committed := kept }
    boot := { w.boot with warm := true, slotTable := some ⟨true, slots⟩, selfRefresh := true } }

/-! ### The commands -/

/-- Is a command valid in a device state (R38)? -/
def DevState.allows (d : DevState) (code : Nat) : Bool :=
  match code with
  | 1 => decide (d = .inert)
  | 2 => decide (d = .armed)
  | 3 => decide (d = .armed)
  | 4 => d.runs
  | 5 => decide (d = .inert) || d.active
  | 6 => decide (d = .safe)
  | 7 => decide (d = .inert) || d.active || decide (d = .safe)
  | _ => true

/-- Is a transition in progress (R38)? -/
def State.transition (s : State) : Bool := s.dev.arming.isSome || s.cox.stopReq || s.squad.cmd.isSome

/-- The effect of a command that is accepted on this seat (R38). The answer to WARM_RESTART and RESET leaves before the sessions
close. -/
def State.devDo (s : State) (o : Origin) (code : Nat) : Reply :=
  match code with
  | 1 => .wait (s.modDev (fun d => { d with arming := some (o, s.armCheck) }))
  | 2 => .ok s.toInert
  | 3 =>
    .ok ((s.modDev (fun d => { d with state := if s.anyOos then .degraded else .run })).modCox (fun c => { c with admitting := true }))
  | 4 => .ok s.stopNow
  | 5 => .ok (s.enterSafe 6)
  | 6 => if s.ackable then .ok s.toInert else .err s .state
  | 7 => .wait ((s.complete o .ok []).warmRestart)
  | 8 => .wait ((s.complete o .ok []).toReset 4)
  | _ => .ok s

/-- The stroke seat carries a command to every seat of the squad (R408); its own DISARM comes last, since it ends its links (R32). -/
def State.carry (s : State) (o : Origin) (code : Nat) : Reply :=
  let s1 := (s.modSquad (fun q => { q with cmd := some ⟨code, q.members, [], 0, o⟩ })).sendAll (.command code)
  if code = 2 then .wait s1
  else
    let r := s1.devDo (.squad 0) code
    .wait (if r.later then r.state else r.state.seatResult s.seat r.status.code 0)

/-- A write to `DEV_COMMAND` (R38, R408, R616): state before progress. SAFE and RESET override a transition in progress. -/
def State.devCommand (s : State) (o : Origin) (code : Nat) : Reply :=
  let member := match o with | .squad _ => true | _ => false
  if 8 < code then .range s .DEV_COMMAND 0 0
  else if !s.dev.state.allows code then .err s .state
  else if s.transition && code != 5 && code != 8 then .err s .busy
  else if (code = 7 ∨ code = 8) ∧ s.boot.fwStatus = 2 then .err s .busy
  else if s.squad.state = .formed && within 1 4 code && !member then
    (if s.isStroke then s.carry o code else .err s .state)
  else s.devDo o code

/-- The failing answer of the lowest seat (R408). -/
def SqdCmd.fault (c : SqdCmd) : Option (Nat × Nat × Nat) :=
  c.failed.foldl (fun (b : Option (Nat × Nat × Nat)) x =>
    match b with | some y => if x.1 < y.1 then some x else b | none => some x) none

/-- The status of a response code (R516). -/
def statusOf (code : Nat) : Status :=
  ([Status.ok, .dup, .access, .type, .range, .reserved, .state, .busy, .stale, .auth, .noobj][code]?).getD .state

/-- The squad's command ends once every seat has answered (R408). -/
def State.cmdSettle (s : State) : State :=
  match s.squad.cmd with
  | none => s
  | some c =>
    let own := 2 ^ s.seat
    if c.waiting = 0 ∨ (c.code = 2 ∧ c.waiting = own) then
      let s1 := s.modSquad (fun q => { q with cmd := none })
      match c.fault with
      | none =>
        let s2 := s1.complete c.reply .ok []
        if c.code = 2 then s2.toInert else s2
      | some (seat, code, fault) =>
        let s2 := s1.modSquad (fun q => { q with cmdFaultSeat := some seat })
        if c.code = 1 then
          let armed := (List.range 32).filter (fun x => c.armed.testBit x)
          let s3 := s2.modDev (fun d => { d with armFault := fault })
          let s4 := (s3.each (armed.filter (· != s3.seat)) (fun s x => s.sendTo x (.command 2))).complete c.reply (statusOf code) []
          if armed.contains s4.seat then s4.toInert else s4
        else
          let s3 := s2.complete c.reply (statusOf code) []
          if c.code = 2 then s3.toInert else s3
    else s

end Sys2Proof.Machine
end

