-- ==== Sys2Proof/Machine/BootSec.lean ====
section
/-! DEFINITION. Firmware images, updates, attestation, the fuses and the package store (R602 to R609, R612 to R616, R619). -/

namespace Sys2Proof.Machine

open Sys2Proof

/-! ### Firmware images -/

/-- Is the header of an image valid (R602)? -/
def fwFormOk (b : Bytes) : Bool :=
  let v := fieldAt b 0 64
  let len := bits v 159 128
  let inside (ofs n : Nat) : Bool := decide (64 ≤ ofs) && decide (ofs + n + 512 ≤ len)
  decide (576 ≤ b.length) && decide (bits v 31 0 = 0x5746485A) && decide (bits v 35 32 = 1) && decide (bits v 39 36 = 1) &&
    decide (bits v 63 40 = 0) && decide (len = b.length) && decide (len ≤ 25165824) && decide (bits v 191 160 % 64 = 0) &&
    inside (bits v 191 160) (bits v 223 192) && inside (bits v 255 224) (bits v 287 256) && decide (bits v 287 256 % 1040 = 0) &&
    decide (bits v 319 288 < bits v 223 192) && decide (bits v 511 320 = 0)

/-- What step 5 finds of an image (R604, R607). -/
inductive FwCheck where
  | good (f : FwImage)
  | format
  | verification
  | rollback
deriving DecidableEq, Repr

/-- The checks of an image (R602, R604, R607). -/
def State.fwCheck (s : State) (b : Bytes) : FwCheck :=
  if !fwFormOk b then .format
  else
    let v := fieldAt b 0 64
    match s.chain false 2 (slice b (bits v 255 224) (bits v 287 256)) with
    | none => .verification
    | some (k, m) =>
      let n := b.length - 512
      if !Config.pssVerify m (b.take n) (b.drop n) then .verification
      else if bits v 127 96 < rollback (s.fuse 513 8) then .rollback
      else .good ⟨bits v 95 64, bits v 127 96, sha512Bytes b, k, b⟩

/-- Is an install in progress (R616)? -/
def State.installing (s : State) : Bool := s.boot.fwStatus == 2

/-- May an image be staged in this state (R615)? -/
def State.mayStage (s : State) : Bool := decide (s.dev.state = .inert) || s.dev.state.active || decide (s.dev.state = .safe)

/-- The action of a write to `BOOT_FW_IMAGE` (R615). During an install the staged image is the one it compares with
(notes/assumptions/52.md). -/
def actFwImage (s : State) (b : Bytes) : Reply :=
  if !s.mayStage then .err s .state
  else if s.installing then .err s .busy
  else
    match s.fwCheck b with
    | .good f => .ok (s.modBoot (fun x => { x with staged := some f, fwStatus := 1 }))
    | .format => .err (s.lint .BOOT_FW_REJECT) .range
    | _ => .err (s.lint .BOOT_FW_REJECT) .auth

/-- The image area from the erase of an install on (R616, steps 1 and 2): what it holds before the readback is open
(notes/assumptions/52.md). -/
def State.installBegin (s : State) (f : FwImage) : State :=
  let s1 := (s.modRecord (fun r => { r with update := 1, updVersion := f.version })).ledger
  (s1.modBoot (fun b =>
    { b with
      fwStatus := 2, installTries := 0
      flash := { b.flash with image := Config.partialImage b.flash.image f.bytes s1.fresh } })).draw

/-- The action of a write to `BOOT_FW_INSTALL` (R616, R619). -/
def actFwInstall (s : State) (v : Nat) : Reply :=
  if v ≠ 1 then .range s .BOOT_FW_INSTALL 0 0
  else
    match s.boot.staged with
    | some f => if s.boot.fwStatus = 1 then .ok (s.installBegin f) else .err s .state
    | none => .err s .state

/-- The readback of an install (R616, steps 3 and 4): it is retried once. -/
def State.installEnd (s : State) (f : FwImage) (good : Bool) : State :=
  if good then
    let s1 := s.modBoot (fun b => { b with fwStatus := 3, flash := { b.flash with image := f.bytes } })
    (s1.modRecord (fun r => { r with update := 2, consecFail := 0 })).ledger
  else if s.boot.installTries = 0 then s.modBoot (fun b => { b with installTries := 1 })
  else (s.modBoot (fun b => { b with fwStatus := 4 })).lint .BOOT_FLASH_ERR

/-! ### Fuses -/

/-- Blow bits of a field of the fuse block: a fuse never returns to 0. -/
def State.blow (s : State) (o n v : Nat) : State :=
  s.modBoot (fun b => { b with fuses := memWriteN b.fuses o (leBytes n (leNat (memReadN b.fuses o n) ||| v)) })

/-- The action of a write to `BOOT_RB_ADVANCE` (R607). -/
def actRbAdvance (s : State) (b : Bytes) : Reply :=
  let ctr := fieldAt b 0 1
  let new := fieldAt b 1 1
  let ofs : Nat := if ctr = 0 then 513 else 521
  let now := rollback (s.fuse ofs 8)
  let above : Bool :=
    if ctr = 0 then ([s.boot.running, s.boot.staged].filterMap id).any (fun f => decide (f.secVersion < new))
    else s.loaded.any (fun p => decide (p.secVersion < new)) ||
      s.boot.flash.store.any (fun x => decide ((packageOf x.container 0).secVersion < new))
  if 1 < ctr ∨ new < now ∨ 64 < new then .range s .BOOT_RB_ADVANCE 0 0
  else if !s.writeAllowed .BOOT_RB_ADVANCE 0 || above then .err s .state
  else .ok (s.blow ofs 8 (2 ^ new - 1))

/-- The action of a write to `BOOT_OWNER_KEY` (R608). -/
def actOwnerKey (s : State) (b : Bytes) : Reply :=
  let k := fieldAt b 0 1
  if fieldAt b 1 3 ≠ 0 then .err s .reserved
  else if 4 ≤ k then .range s .BOOT_OWNER_KEY 0 0
  else if !s.writeAllowed .BOOT_OWNER_KEY 0 || !allZero (s.keyHash true k) then .err s .state
  else .ok (s.blow (256 + 64 * k) 64 (fieldAt b 4 64))

/-- The owner slot that the CERT chain of a container names (R603, R604). -/
def ownerSlot (c : Bytes) : Nat := bits (fieldAt (secBytes c 0x0A) 0 4) 9 8

/-- The action of a write to `BOOT_REVOKE` (R608). -/
def actRevoke (s : State) (v : Nat) : Reply :=
  let root : Bool := match s.boot.running with | some f => v.testBit f.rootSlot | none => false
  let used : Bool := s.loaded.any (fun p => v.testBit (4 + p.ownerKey)) ||
    s.boot.flash.store.any (fun x => v.testBit (4 + ownerSlot x.container))
  if !s.writeAllowed .BOOT_REVOKE 0 || root || used then .err s .state else .ok (s.blow 512 1 v)

/-! ### Attestation (R612 to R614) -/

/-- The action of a write to `BOOT_ATTEST_NONCE` (R614); one report is made at a time (notes/assumptions/53.md). -/
def actAttestNonce (s : State) (o : Origin) (b : Bytes) : Reply :=
  if !Config.factoryGood s.boot.flash.factory then .err s .state
  else if s.boot.attestWaiting.isSome then .err s .busy
  else .wait (s.modBoot (fun x => { x with attestNonce := b, attestWaiting := some o, attestReport := [] }))

/-- The attestation report (R613). -/
def State.attestReport (s : State) : Bytes :=
  let f : FwImage := match s.boot.running with | some x => x | none => ⟨0, 0, zeros 64, 0, []⟩
  let pkg (i : Fin 16) : Bytes := match s.cox.packages[i] with | some p => fit p.digest 64 | none => zeros 64
  let mask := ((allFin 16).map (fun i => b2n (s.cox.packages[i]).isSome * 2 ^ i.val)).sum
  let head := packBytes 160 [(4, 1), (4, 0), (8, s.dev.state.code), (16, mask), (32, f.version), (32, f.secVersion),
    (8, rollback (s.fuse 513 8)), (8, rollback (s.fuse 521 8)), (2, f.rootSlot), (14, 0),
    (128, leNat (memReadN s.boot.fuses 529 16)), (256, leNat s.boot.attestNonce), (512, leNat f.digest),
    (112, leNat s.netTime.toBytes), (16, 0), (64, s.boot.record.bootCount), (64, 0)]
  let body := head ++ (allFin 16).flatMap pkg
  body ++ beBytes 512 (Config.attestSign body s.boot.flash.factory).toNat

/-- The report is ready (R614). -/
def State.attestReady (s : State) : State :=
  match s.boot.attestWaiting with
  | none => s
  | some o => (s.modBoot (fun b => { b with attestWaiting := none, attestReport := s.attestReport })).complete o .ok []

/-! ### The package store (R609) -/

/-- Is a key one of the entries that the store keeps with a package: 0x2610 + p and 0x2910 + p? -/
def partKey (p k : Nat) : Bool := k / 256 == 0x2610 + p || k / 256 == 0x2910 + p

/-- The action of a write to `BOOT_PKG_STORE` (R609). -/
def actPkgStore (s : State) (v : Nat) : Reply :=
  match (toFin? 16 v).bind (fun i => s.cox.packages[i]) with
  | none => .range s .BOOT_PKG_STORE 0 0
  | some p =>
    let others := s.boot.flash.store.filter (fun x => x.slot != v)
    if 40828928 < (others.map (fun x => x.container.length)).sum + p.container.length then .range s .BOOT_PKG_STORE 0 0
    else if !s.writeAllowed .BOOT_PKG_STORE 0 then .err s .state
    else
      let kept := s.boot.flash.storeEntries.filter (fun e => !partKey p.partition e.1)
      let entries := (s.od.committed.filter (fun e => partKey p.partition e.1)).foldl (fun m e => amInsert m e.1 e.2) kept
      .ok (s.modBoot (fun b => { b with flash := { b.flash with
        store := others ++ [⟨v, p.container, p.partition, false⟩], storeEntries := entries } }))

/-- The action of a write to `BOOT_PKG_UNSTORE` (R609); a slot that holds nothing is out of range (notes/assumptions/54.md). -/
def actPkgUnstore (s : State) (v : Nat) : Reply :=
  if !s.boot.flash.store.any (fun x => x.slot == v) then .range s .BOOT_PKG_UNSTORE 0 0
  else if !s.writeAllowed .BOOT_PKG_UNSTORE 0 then .err s .state
  else .ok (s.modBoot (fun b => { b with flash := { b.flash with store := b.flash.store.filter (fun x => x.slot != v) } }))

end Sys2Proof.Machine
end

