-- ==== Sys2Proof/Machine/SquadBase.lean ====
section
/-! DEFINITION. The squad: HELLO and TOPOLOGY, the checks of formation, routes, FORM, heartbeats, and lost members (R400 to R411). -/

namespace Sys2Proof.Machine

open Sys2Proof

/-! ### What a seat tells of itself -/

/-- Is a port's link up, its power state EASY and a RETRAIN included (R379, R385, R389)? -/
def NlPort.linked (c : NlPort) : Bool := decide (c.state = .up) || decide (c.state = .easy) || decide (c.state = .retrain)

/-- The linked ports. -/
def State.linkedPorts (s : State) : List (Fin 8) := (allFin 8).filter (fun p => s.squad.ports[p].linked)

/-- The own UP ports as TOPOLOGY reports them (R405). -/
def State.ownLinks (s : State) : List TopoLink :=
  s.linkedPorts.filterMap (fun p =>
    match s.squad.ports[p].peer with
    | some (seat, port, true) => some ⟨p.val, seat, port⟩
    | _ => none)

/-- PART_CRC (R406). -/
def State.partCrc (s : State) : Nat :=
  crc32c (((List.range 8).filter (s.num .SQD_PART_MASK 0).testBit).flatMap (fun p =>
    [1, 2, 3, 5, 6, 7, 8].flatMap (fun sub =>
      match findEnt (0x2610 + p) sub with
      | some (.ent e i k) => (s.val e i k).enc e.row.ty.size
      | _ => [])))

/-- The own HELLO (R406). -/
def State.ownHello (s : State) : HelloInfo :=
  ⟨1, s.seat, 1, s.num .SQD_SHAPE 0, s.num .SQD_SIZE 0, (s.linkedPorts.map (fun p => 2 ^ p.val)).sum, s.num .SQD_PART_MASK 0, s.devId,
    (match s.boot.running with | some f => f.version | none => 0), s.partCrc⟩

/-- The seat behind a port, as its TRAIN blocks gave it (R380). -/
def NlPort.peerSeat (c : NlPort) : Nat := match c.peer with | some (x, _, _) => x | none => 0

/-- HELLO to the neighbour behind a port (R406). -/
def State.helloOn (s : State) (p : Fin 8) : State := s.sendOn p s.squad.ports[p].peerSeat (.hello s.ownHello)

/-- TOPOLOGY of a seat on every linked port but one (R405: flooding). -/
def State.flood (s : State) (seat : Nat) (links : List TopoLink) (from_ : Option (Fin 8)) : State :=
  s.each (s.linkedPorts.filter (fun p => from_ != some p)) (fun s p => s.sendOn p s.squad.ports[p].peerSeat (.topology seat links))

/-- The own TOPOLOGY as it stands now. -/
def State.ownTopo (s : State) : State := s.modSquad (fun q => { q with topo := amInsert q.topo s.seat s.ownLinks })

/-! ### Routes (R401, R402) -/

/-- The neighbours of a seat by port, over links that both ends report. -/
def neighbours (t : AMap (List TopoLink)) (a : Nat) : List (Nat × Nat) :=
  ((amGet t a []).filter (fun l => (amGet t l.peer []).any (fun m => m.port == l.peerPort && m.peer == a && m.peerPort == l.port))).map
    (fun l => (l.port, l.peer))

/-- Hop counts to a seat, one more hop a round. -/
def hopRounds (t : AMap (List TopoLink)) : Nat → Nat → AMap Nat → AMap Nat
  | 0, _, m => m
  | n + 1, k, m =>
    let new := t.filter (fun e => (amGet? m e.1).isNone && (neighbours t e.1).any (fun x => (amGet? m x.2).isSome))
    hopRounds t n (k + 1) (new.foldl (fun m e => amInsert m e.1 k) m)

/-- The hop count of the shortest path from every seat to a seat. -/
def hopsTo (t : AMap (List TopoLink)) (d : Nat) : AMap Nat := hopRounds t 32 1 [(d, 0)]

/-- The least of a list. -/
def leastOf : List Nat → Option Nat
  | [] => none
  | x :: l => some (l.foldl min x)

/-- The route of a seat to another (R401): next seat, port mask, hops. -/
def routeTo (t : AMap (List TopoLink)) (a b : Nat) : Option (Nat × Nat × Nat) :=
  let m := hopsTo t b
  match amGet? m a with
  | some (k + 1) =>
    let near := (neighbours t a).filter (fun x => decide (amGet? m x.2 = some k))
    (leastOf (near.map (·.2))).map (fun x => (x, ((near.filter (fun y => y.2 == x)).map (fun y => 2 ^ y.1)).sum, k + 1))
  | _ => none

/-- The seats of a mask, ascending. -/
def seatsOf (mask : Nat) : List Nat := (List.range 32).filter mask.testBit

/-- The route table of a seat (R401): destination, next seat, port mask, hops. -/
def routesOf (t : AMap (List TopoLink)) (members a : Nat) : List (Nat × Nat × Nat × Nat) :=
  ((seatsOf members).filter (· != a)).filterMap (fun b => (routeTo t a b).map (fun r => (b, r)))

/-- The replay bound of a link crossing in ns (R398). -/
def State.linkBound (s : State) (p : Nat) : Nat := s.num .NL_REPLAY_LIMIT p * (s.num .NL_REPLAY_TIMEOUT p + 16700) + 20000

/-- The own route table with the replay bounds (R398); a seat knows the settings of its own ports alone
(notes/assumptions/57.md). -/
def State.setRoutes (s : State) (l : List (Nat × Nat × Nat × Nat)) : State :=
  let low (m : Nat) : Nat := ((List.range 8).find? m.testBit).getD 0
  s.modSquad (fun q => { q with
    routes := l.foldl (fun (m : AMap (Nat × Nat × Nat × Nat)) e =>
      amInsert m e.1 (e.2.1, e.2.2.1, e.2.2.2, e.2.2.2 * s.linkBound (low e.2.2.1))) [] })

/-! ### The checks of formation (R400, R407) -/

/-- Is a link as the shape wires it (R400)? -/
def wired (shape size seat : Nat) (l : TopoLink) : Bool :=
  match shape with
  | 1 => l.peer == 1 - seat && l.peerPort == l.port
  | 2 => decide (l.port + 2 ≤ size) && l.peer == (seat + l.port + 1) % size && l.peerPort == size - 2 - l.port
  | 3 =>
    let k := Nat.log2 size
    if l.port < k then l.peer == seat ^^^ 2 ^ l.port && l.peerPort == l.port
    else decide (l.port - k < min k (8 - k)) && l.peer == seat ^^^ 2 ^ (l.port - k) && l.peerPort == l.port
  | _ => true

/-- The first check of R407 that what this seat knows fails: code, seat, port. The stroke seat also counts the members and
looks whether each can be reached. -/
def State.formCheck (s : State) (stroke : Bool) : Option (Nat × Nat × Nat) :=
  let q := s.squad
  let me := s.ownHello
  let hs := (q.hellos.map (·.2)).filter (fun h => h.seat != me.seat)
  let bad (code : Nat) (f : HelloInfo → Bool) : Option (Nat × Nat × Nat) := (hs.find? f).map (fun h => (code, h.seat, 0))
  let dup := (q.dup.map (fun x => (2, x, 0))).or (((q.hellos.map (·.2)).find? (fun h => h.seat == me.seat)).map (fun h => (2, h.seat, 0)))
  let size := if stroke && decide (q.topo.length ≠ me.size) then some (3, me.seat, 0) else bad 3 (fun h => h.size != me.size)
  let wiring := q.topo.findSome? (fun e => (e.2.find? (fun l => !wired me.shape me.size e.1 l)).map (fun l => (4, e.1, l.port)))
  let lend := (List.range 8).any (fun p => me.partMask.testBit p && s.num .PART_LEND_MASK p != 0)
  let far := if stroke then (q.topo.find? (fun e => e.1 != me.seat && (routeTo q.topo me.seat e.1).isNone)).map (fun e => (8, e.1, 0)) else none
  dup.or (size.or ((bad 4 (fun h => h.shape != me.shape)).or (wiring.or ((bad 5 (fun h => h.gen != me.gen || h.fw != me.fw)).or
    ((bad 6 (fun h => h.verMax == 0)).or ((bad 7 (fun h => h.partMask != me.partMask || h.partCrc != me.partCrc)).or
      ((if lend then some (7, me.seat, 0) else none).or far)))))))

/-- Formation fails (R407). -/
def State.formFail (s : State) (f : Nat × Nat × Nat) : State :=
  s.modSquad (fun q => { q with state := .failed, formFault := f.1 + f.2.1 * 2 ^ 8 + f.2.2 * 2 ^ 13 })

/-- The squad is FORMED on this seat: every other member's heartbeat is awaited from now. -/
def State.formed (s : State) : State :=
  s.modSquad (fun q => { q with
    state := .formed, lost := 0
    beats := ((seatsOf q.members).filter (· != s.seat)).foldl (fun m x => amInsert m x ⟨3, 2, 0, s.now⟩) [] })

/-- The stroke seat sends FORM to the members, nearest first, with a new epoch (R401, R407, R411). -/
def State.sendForms (s : State) (members version : Nat) : State :=
  let t := s.squad.topo
  let own := routesOf t members s.seat
  let s1 := (s.modSquad (fun q => { q with
    stroke := some s.seat, members := members, version := version, epoch := wrapAdd 32 q.epoch 1
    acks := clearMask members (2 ^ s.seat) })).setRoutes own
  s1.each (List.range 33) (fun s k => s.each (own.filter (fun e => e.2.2.2 == k)) (fun s e =>
    s.sendTo e.1 (.form members version s.squad.epoch (routesOf t members e.1))))

/-- The stroke seat forms the squad once it has TOPOLOGY from every seat (R407). -/
def State.tryForm (s : State) : State :=
  let q := s.squad
  if q.state = .forming ∧ q.members = 0 ∧ leastOf (q.topo.map (·.1)) = some s.seat ∧ s.num .SQD_SIZE 0 ≤ q.topo.length then
    match s.formCheck true with
    | some f => s.formFail f
    | none =>
      let s1 := s.sendForms ((q.topo.map (fun e => 2 ^ e.1)).sum) ((q.hellos.map (fun e => e.2.verMax)).foldl min 1)
      if s1.squad.acks = 0 then s1.formed else s1
  else s

/-- Formation starts (R404): HELLO and every TOPOLOGY known on every linked port. What neighbours have told since INERT was
entered stays. -/
def State.startForm (s : State) : State :=
  let keep := decide (s.squad.state = .none)
  let s1 := s.modSquad (fun q =>
    { Squad.init with
      ports := q.ports, state := .forming, epoch := q.epoch, formFault := 0, inbox := q.inbox
      hellos := if keep then q.hellos else [], topo := if keep then q.topo else [], dup := if keep then q.dup else none })
  let s2 := s1.ownTopo
  let s3 := s2.each s2.linkedPorts State.helloOn
  (s3.each s3.squad.topo (fun s e => s.flood e.1 e.2 none)).tryForm

/-- HELLO has come (R406): two devices of one seat are remembered. -/
def State.onHello (s : State) (h : HelloInfo) : State :=
  let other := match amGet? s.squad.hellos h.seat with | some x => decide (x.devId ≠ h.devId) | none => false
  s.modSquad (fun q => { q with hellos := amInsert q.hellos h.seat h, dup := if other then some h.seat else q.dup })

/-- Can every member be reached from this seat over the links known? -/
def State.allReached (s : State) : Bool :=
  ((seatsOf s.squad.members).filter (· != s.seat)).all (fun x => (routeTo s.squad.topo s.seat x).isSome)

/-- New routes after a link has failed (R411): from the stroke seat, while all members remain reachable. -/
def State.reroute (s : State) : State :=
  if s.squad.state = .formed ∧ s.isStroke ∧ s.allReached then
    (s.sendForms s.squad.members s.squad.version).lint .SQD_ROUTE_CHANGE
  else s

/-- TOPOLOGY of a seat has come on a port (R405, R407, R411). In a formed squad links only leave. -/
def State.onTopology (s : State) (p : Fin 8) (seat : Nat) (links : List TopoLink) : State :=
  let old := amGet? s.squad.topo seat
  match s.squad.state with
  | .formed =>
    let l := (old.getD []).filter links.contains
    if some l = old then s
    else ((s.modSquad (fun q => { q with topo := amInsert q.topo seat l })).flood seat links (some p)).reroute
  | .broken => s
  | .failed => s
  | st =>
    if old = some links ∨ seat = s.seat then s
    else
      let clash := match old with
        | some o => o.any (fun x => links.any (fun y => x.port == y.port && !decide (x = y)))
        | none => false
      let s1 := s.modSquad (fun q => { q with topo := amInsert q.topo seat links, dup := if clash then some seat else q.dup })
      if st = .forming then (s1.flood seat links (some p)).tryForm else s1

/-- FORM has come (R407, R411): the seat checks what it knows, takes the routes, and answers. -/
def State.onForm (s : State) (members version epoch : Nat) (routes : List (Nat × Nat × Nat × Nat)) : State :=
  let st := s.squad.state
  if ¬ members.testBit s.seat ∨ (st ≠ .forming ∧ st ≠ .formed) ∨ (st = .formed ∧ epoch = s.squad.epoch) then s
  else
    match leastOf (seatsOf members) with
    | none => s
    | some stroke =>
      let s1 := (s.modSquad (fun q => { q with members := members, version := version, epoch := epoch, stroke := some stroke })).setRoutes routes
      if st = .formed then s1.sendTo stroke (.formAck epoch 0)
      else match s1.formCheck false with
        | some f => (s1.sendTo stroke (.formAck epoch f.1)).formFail f
        | none => s1.formed.sendTo stroke (.formAck epoch 0)

/-- FORM_ACK has come (R407). -/
def State.onFormAck (s : State) (seat epoch fault : Nat) : State :=
  if ¬ s.isStroke ∨ epoch ≠ s.squad.epoch ∨ ¬ s.squad.acks.testBit seat then s
  else
    let s1 := s.modSquad (fun q => { q with acks := clearMask q.acks (2 ^ seat) })
    if fault ≠ 0 then s1.formFail (fault, seat, 0)
    else if s1.squad.acks = 0 ∧ s1.squad.state = .forming then s1.formed else s1

/-! ### Lost members (R408 to R412) -/

/-- A command or a load that a lost seat cannot answer ends for it with ERR_STATE (notes/assumptions/56.md). -/
def State.lostAnswers (s : State) (seat : Nat) : State :=
  let s1 := s.seatResult seat Status.state.code 0
  let s2 := s1.modSquad (fun q => { q with load := q.load.map (fun l =>
    if l.waiting.testBit seat then { l with waiting := clearMask l.waiting (2 ^ seat), refused := l.refused ++ [(seat, Status.state.code, 0)] }
    else l) })
  match s2.squad.load with
  | some l =>
    if l.waiting = 0 then
      let (s3, st) := s2.squadLoadEnds l
      s3.complete l.reply st []
    else s2
  | none => s2

/-- A member is lost (R409, R410): BROKEN, once for each seat, and SAFE where `SQD_LOSS_ACTION` is 1. -/
def State.memberLost (s : State) (seat cause : Nat) : State :=
  let q := s.squad
  if (q.state ≠ .formed ∧ q.state ≠ .broken) ∨ ¬ q.members.testBit seat ∨ q.lost.testBit seat then s
  else
    let s1 := (s.modSquad (fun q => { q with lost := q.lost ||| 2 ^ seat, state := .broken })).lint .SQD_SEAT_LOST
    let s2 := ((s1.sendAll (.broken seat cause)).lostAnswers seat).cmdSettle
    if q.state = .formed ∧ s2.num .SQD_LOSS_ACTION 0 = 1 then s2.safeCause 5 else s2

/-- HEARTBEAT has come (R409): a member in SAFE, or one that has left FORMED, is lost. -/
def State.onBeat (s : State) (seat devState sqdState crews : Nat) : State :=
  if (s.squad.state ≠ .formed ∧ s.squad.state ≠ .broken) ∨ ¬ s.squad.members.testBit seat ∨ seat = s.seat then s
  else
    let s1 := s.modSquad (fun q => { q with beats := amInsert q.beats seat ⟨devState, sqdState, crews, s.now⟩ })
    if s1.squad.state ≠ .formed then s1
    else if devState = 7 then s1.memberLost seat 1
    else if sqdState ≠ 2 then s1.memberLost seat 2
    else s1

/-- The ports of a row before and after it: a port that reaches UP tells its neighbour and floods what is known (R404, R406); a
link that is lost leaves the topology (R411). -/
def State.nlSettle (s t : State) : State :=
  t.each (allFin 8) (fun t p =>
    let a := s.squad.ports[p]
    let b := t.squad.ports[p]
    if a.state = .handshake ∧ b.state = .up then
      if ¬ t.flag .SQD_ENABLE 0 then t
      else
        let t1 := t.helloOn p
        if t1.squad.state = .forming then
          let t2 := t1.ownTopo
          let t3 := t2.flood t2.seat t2.ownLinks none
          (t3.each (t3.squad.topo.filter (fun e => e.1 != t3.seat)) (fun t e => t.sendOn p b.peerSeat (.topology e.1 e.2))).tryForm
        else t1
    else if a.linked ∧ ¬ b.linked ∧ b.state ≠ .rack ∧ t.squad.state = .formed then
      let old := amGet t.squad.topo t.seat []
      let l := old.filter (fun x => x.port != p.val)
      if l = old then t
      else ((t.modSquad (fun q => { q with topo := amInsert q.topo t.seat l })).flood t.seat l none).reroute
    else t)

/-- A CTRL message is taken up: the oldest one of its seat and type leaves the messages that have arrived. -/
def State.takeCtrl (s : State) (seat mtype : Nat) : State :=
  s.modSquad (fun q => { q with
    inbox := match q.inbox.findIdx? (fun e => e.1 == seat && fieldAt e.2 0 1 == mtype) with
      | some i => q.inbox.eraseIdx i
      | none => q.inbox })

end Sys2Proof.Machine
end

