-- ==== Sys2Proof/Machine/Commit.lean ====
section
/-! DEFINITION. Commits: the group check, the boundary at which each group's changes take effect, and what the blocks do when they do (R526 to R529 and the commit rule of every chapter). -/

namespace Sys2Proof.Machine

open Sys2Proof

/-- Is the device in INERT, or still in BOOT, where changes wait for ARM as those of INERT do? -/
def State.inertNow (s : State) : Bool := decide (s.dev.state = .inert) || decide (s.dev.state = .boot)

/-- Is the key one of an entry's instances? -/
def Ent.isKey (e : Ent) (k : Nat) : Bool := (List.range e.row.insts).any (fun i => k == e.key i 0)

/-- Is a camera port disabled, or between swaths (R77; notes/assumptions/55.md)? -/
def State.portIdle (s : State) (p : Nat) : Bool :=
  match toFin? 12 p with
  | some i => !s.cams[i].on || s.cams[i].opened.isNone
  | none => true

/-- Does PTP run on a port (R501)? -/
def State.ptpRuns (s : State) (p : Nat) : Bool :=
  match toFin? 2 p with
  | some i => s.fnet.ports[i].on && s.fnet.ports[i].linkUp && s.flag .PTP_ENABLE p
  | none => false

/-- Does a retune heat of a partition hold an entry of the heat table (R447)? -/
def State.retuneRuns (s : State) (part : Nat) : Bool :=
  s.cox.heats.any (fun e => decide (e.2.req.kind = .retune) && e.2.req.partition == part)

/-- Is a committed change of key `k` to value `v` at its block's boundary now (R77, R153, R196, R239, R288, R343, R371, R423,
R447, R477, R484, R510, R537, R559, R593, R640)? -/
def State.nowKey (s : State) (k : Nat) (v : OdVal) : Bool :=
  let i := k / 256
  match groupOf i with
  | 0x11 => true
  | 0x16 => !s.flag .CYC_ENABLE 0
  | 0x22 => s.portIdle (i - 0x2210) && (!Ent.CAM_ENABLE.isKey k || s.dev.state.active || decide (v = .num 0))
  | 0x23 => s.portIdle (i - 0x2310)
  | 0x28 => !s.inertNow && (s.kvPart (i - 0x2810)).seqs.isEmpty
  | 0x2A => true
  | 0x2B => !s.inertNow && !s.retuneRuns (i - 0x2B10)
  | 0x2D =>
    if Ent.FIRE_ENABLE.isKey k then s.dev.state.active && s.portIdle (i - 0x2D50)
    else if 0x2D50 ≤ i then s.portIdle (i - 0x2D50)
    else if Ent.ENC_ENABLE.isKey k || Ent.DIV_ENABLE.isKey k || Ent.TRG_ENABLE.isKey k then !s.inertNow
    else true
  | 0x2E =>
    if servoKey k then false
    else if 0x2E20 ≤ i then Ent.QBV_ENABLE.isKey k
    else if gptpKey 0 k && gptpKey 1 k then !s.ptpRuns 0 && !s.ptpRuns 1
    else if gptpKey (i - 0x2E10) k then !s.ptpRuns (i - 0x2E10)
    else true
  | 0x2F => !Ent.PCI_ARCH_MIB.isKey k
  | 0x30 => !s.inertNow && !Ent.SAF_RINSE_LIMIT.isKey k
  | 0x31 => !s.inertNow
  | _ => false

/-- A change of the squad's entries (R404, R423): ports start and stop, and formation begins or the squad ends. `k` are the keys
changed. -/
def State.squadChanged (s : State) (k : List Nat) : State :=
  let s1 := s.each (allFin 8) (fun s p => s.nlCommit p)
  let st := s1.squad.state
  if s1.dev.state ≠ .inert then s1
  else if s1.flag .SQD_ENABLE 0 then
    if k.contains (Ent.SQD_ENABLE.key 0 0) ∨ (st ≠ .forming ∧ st ≠ .formed) then s1.startForm else s1
  else if st = .none then s1 else s1.squadNone

/-- A change of the field network's entries (R498, R510): `a` is the state before it. -/
def State.timeChanged (a s : State) : State :=
  let s1 := s.each (allFin 2) (fun s p =>
    let t := if a.num .FNET_MODE p.val ≠ s.num .FNET_MODE p.val ∨ a.flag .FNET_ENABLE p.val ≠ s.flag .FNET_ENABLE p.val then s.fnetRestart p
      else s
    if t.flag .PTP_ENABLE p.val then t else t.modFnet p FnetPort.ptpDown)
  s1.tsSourceChange a.tsSource

/-- A change of camera enables (R77): a port that is enabled after ARM runs from now, one that is disabled stops. -/
def State.camChanged (s : State) : State :=
  s.each (allFin 12) (fun s p =>
    let want := s.flag .CAM_ENABLE p.val
    if s.dev.state.active ∧ want ≠ s.cams[p].on ∧ s.portIdle p.val then
      s.modCam p (fun c => if want then { c with on := true } else c.stopPort)
    else s)

/-- The cyclic image begins when it is enabled (R531, R535, R536). -/
def State.cycChanged (a s : State) : State :=
  if s.flag .CYC_ENABLE 0 ∧ ¬ a.flag .CYC_ENABLE 0 then { s with cyc := ⟨false, 0, none, 0, false, false, 0, false⟩ } else s

/-- The base power follows the enables (R238). -/
def State.powerChanged (a s : State) : State :=
  let n (t : State) : List Bool := (List.range 12).map (t.flag .CAM_ENABLE) ++ (List.range 8).map (t.flag .NL_ENABLE) ++
    (List.range 2).map (t.flag .FNET_ENABLE)
  if n a = n s then s else s.setNum .PWR_BASE 0 s.powerBase

/-- The changes of a group that are at their boundary take effect together (R528). -/
def State.takeEffect (s : State) (g : Nat) : State :=
  let now := s.od.waiting.filter (fun e => inGroup g e.1 && s.nowKey e.1 e.2)
  if now.isEmpty then s
  else
    let keys := now.map (·.1)
    let s1 := s.applyWaiting (fun k => keys.contains k)
    let s2 := match g with
      | 0x16 => s.cycChanged s1
      | 0x22 => s1.camChanged
      | 0x2A => s1.squadChanged keys
      | 0x2D => if s1.inertNow then s1 else s1.syncEnables
      | 0x2E => s.timeChanged s1
      | _ => s1
    s.powerChanged s2

/-- A commit that sets a gate control list gives it its start (R491). -/
def State.gatesCommitted (s : State) (keys : List Nat) : State :=
  s.each (allFin 2) (fun s p =>
    let mine (k : Nat) : Bool := k / 256 == 0x2E20 + p.val && !Ent.QBV_ENABLE.isKey k
    if keys.any mine then s.gateCommit p ((s.applyWaiting mine).gateList p.val) else s)

/-- The commit of a group (R526, R528, R529, R601): its shadows are checked as a whole, and then wait for their boundary. -/
def actCommit (s : State) (g : Nat) : Reply :=
  match s.commitFault g with
  | some (.range i sub) => ⟨s, .range, entryName i sub, false⟩
  | some .state => .err s .state
  | none =>
    let new := s.od.shadows.filter (fun e => inGroup g e.1)
    let s1 : State := { s with od := { s.od with
      shadows := s.od.shadows.filter (fun e => !inGroup g e.1)
      waiting := new.foldl (fun w e => amInsert w e.1 e.2) s.od.waiting } }
    let s2 := s1.gatesCommitted (new.map (·.1))
    let s3 := if new.any (fun e => storedKey e.1 && !decide ((s.setKey e.1 e.2).od.committed = s.od.committed)) then s2.writeStored else s2
    .ok (s3.takeEffect g)

/-- The discard of a group's shadows (R526). -/
def actDiscard (s : State) (g : Nat) : Reply :=
  .ok { s with od := { s.od with shadows := s.od.shadows.filter (fun e => !inGroup g e.1) } }

end Sys2Proof.Machine
end

