-- ==== Sys2Proof/Machine/Od.lean ====
section
/-! DEFINITION. The object dictionary server: sessions, the duplicate window, the order of checks, reads, writes and INFO, domain values, and the execution of requests one at a time (R513 to R529). -/

namespace Sys2Proof.Machine

open Sys2Proof

/-! ### Writes -/

/-- The key of an object by its place. -/
def placeKey (index sub : Nat) : Nat := index * 256 + sub

/-- Does access, role or mapping allow a write (R518, R520, R532, R547)? -/
def State.writeAccess (s : State) (itf : Nat) (control : Bool) (ob : Obj) (index sub : Nat) : Bool :=
  let mapped := s.flag .CYC_ENABLE 0 && (s.mapUsed true).any (fun e => mapIndex e.2 == index && mapSub e.2 == sub)
  let submit := match ob with | .ent .PCI_XL_SUBMIT _ _ => true | _ => false
  (ob.access == .rw || ob.access == .wo) && control && !mapped && (!submit || itf == 2)

/-- What a whole value's length fails (R512, R524). -/
def State.lengthFault (s : State) (ob : Obj) (n : Nat) : Option Status :=
  match ob with
  | .ent e _ _ =>
    if e.row.ty = .domain then
      (if e.row.exactLen then (if n = e.row.maxLen then none else some .type) else if n ≤ s.maxLen e then none else some .range)
    else if n = e.row.ty.size then none else some .type
  | ob => if n = ob.ty.size then none else some .type

/-- An ERR_RANGE that names a place (R529). -/
def Reply.rangeAt (s : State) (index sub : Nat) : Reply := ⟨s, .range, entryName index sub, false⟩

/-- A refusal by a status; ERR_RANGE names the place. -/
def Reply.refuse (s : State) (st : Status) (index sub : Nat) : Reply :=
  if st = .range then .rangeAt s index sub else .err s st

/-- The state check at the first segment of a value (R524, R549). -/
def State.firstState (s : State) (ob : Obj) : Bool :=
  match ob with
  | .ent .RP_LOAD _ _ => decide (s.dev.state = .inert)
  | .ent .BOOT_FW_IMAGE _ _ => s.mayStage
  | .ent e i _ => s.writeAllowed e i
  | _ => true

/-- Does an assembly of `RP_LOAD` exist on the device beside the session's or the list's own (R524, R549)? -/
def State.loadAssembly (s : State) (h : Option Nat) (id : Option Nat) : Bool :=
  let key := Ent.RP_LOAD.key 0 0
  (List.range 48).any (fun k => h != some k &&
    (match s.session? k with
    | some x => (match x.assembly with | some (a, _) => a == key | none => false)
    | none => false)) ||
  s.pci.lists.any (fun l => id != some l.id && !l.run.isEmpty &&
    (match l.entries[l.pos]? with | some e => placeKey e.index e.sub == key | none => false))

/-! ### Transfer lists (R547, R548) -/

/-- An entry of a transfer list, where its reserved fields are zero and its fields are defined (R547 to R549). -/
def readXlEntry (b : Bytes) : Option XlEntry :=
  let v := fieldAt b 0 32
  let op := bits v 7 4
  let e : XlEntry := ⟨op, v.testBit 8, bits v 31 16, bits v 39 32, bits v 127 64, bits v 159 128, bits v 255 192⟩
  let od := op == 1 || op == 2
  if bits v 3 0 = 1 ∧ 1 ≤ op ∧ op ≤ 5 ∧ bits v 15 9 = 0 ∧ bits v 63 40 = 0 ∧ bits v 191 160 = 0 ∧ (¬ e.more ∨ op = 1) ∧
      (od ∨ (e.index = 0 ∧ e.sub = 0)) ∧ (op = 3 ∨ op = 4 ∨ e.bulk = 0) ∧ e.host % 4 = 0 ∧ e.len % 4 = 0 ∧ 4 ≤ e.len then some e
  else none

/-- Do the runs of OD_WRITE entries close (R547)? -/
def runsOk : List XlEntry → Bool
  | [] => true
  | [e] => !e.more
  | e :: f :: l => (!e.more || (f.op == 1 && f.index == e.index && f.sub == e.sub)) && runsOk (f :: l)

/-- A list as R547 accepts it. -/
def readXl (b : Bytes) (reqId : Nat) : Option (Nat × Bool × List XlEntry) :=
  let v := fieldAt b 0 32
  let n := bits v 16 8
  let es := (List.range n).filterMap (fun i => readXlEntry (slice b (32 + 32 * i) 32))
  if bits v 3 0 = 1 ∧ bits v 7 4 = 0 ∧ bits v 31 17 = 0 ∧ bits v 255 129 = 0 ∧ bits v 63 32 = reqId ∧ bits v 127 64 % 16 = 0 ∧
      1 ≤ n ∧ n ≤ 256 ∧ b.length = 32 + 32 * n ∧ es.length = n ∧ runsOk es then
    some (bits v 127 64, v.testBit 128, es)
  else none

/-- The action of a write to `PCI_XL_SUBMIT` (R547). -/
def actSubmit (s : State) (h reqId : Nat) (b : Bytes) : Reply :=
  match readXl b reqId with
  | none => .range s .PCI_XL_SUBMIT 0 0
  | some (compl, irq, es) =>
    if 4 ≤ s.pci.lists.length then .err s .busy
    else
      let l : XList := ⟨reqId, h, compl, irq, es, 0, [], 0, false, false, none, false⟩
      .ok { s with pci := { s.pci with lists := s.pci.lists ++ [l] } }

/-- The action of a write to `PCI_XL_ABORT` (R552). -/
def actAbort (s : State) (v : Nat) : Reply :=
  match s.xlist? v with
  | some _ => .ok (s.modList v (fun l => { l with abort := true }))
  | none => .range s .PCI_XL_ABORT 0 0

/-! ### The actions -/

/-- What a write to a WO entry does: `o` is who waits for its answer, `h` and `reqId` the session and the request, where one wrote. -/
def State.writeAct (s : State) (o : Origin) (h reqId : Option Nat) (e : Ent) (i : Nat) (v : OdVal) : Reply :=
  let n := v.toNat
  let b := v.toBytes
  match e with
  | .DEV_COMMAND => s.devCommand o n
  | .RP_LOAD => actRpLoad s o b
  | .RP_UNLOAD => actRpUnload s n
  | .COX_BG_REQUEST => actBgRequest s n
  | .KV_CANCEL => actKvCancel s i n
  | .KV_TREE_FLUSH => actKvFlush s i n
  | .DET_GEN_IN => actGenIn s b
  | .DET_REPLAY_SWATH => actReplaySwath s i b
  | .DET_REPLAY_SEQ => actReplaySeq s i b
  | .DET_REPLAY_STATE => actReplayState s i b
  | .NL_POWER_CMD => (match toFin? 8 i with | some p => actNlPower s p n | none => .err s .noobj)
  | .NL_INJECT => (match toFin? 8 i with | some p => actNlInject s p n | none => .err s .noobj)
  | .RT_ADD => actRtAdd s i b
  | .RT_REMOVE => actRtRemove s i n
  | .RT_PUBLISH => actRtPublish s i n
  | .RT_RESTART => actRtRestart s i n
  | .FIO_ACK => actFioAck s i n
  | .FIRE_STOP_ACK => actFireStopAck s n
  | .ENC_ACK => actEncAck s i n
  | .TS_SET => actTsSet s b
  | .PCI_XL_SUBMIT => (match h, reqId with | some x, some r => actSubmit s x r b | _, _ => .range s .PCI_XL_SUBMIT 0 0)
  | .PCI_XL_ABORT => actAbort s n
  | .SAF_EVENT_ACK => actSafAck s n
  | .BOOT_FW_IMAGE => actFwImage s b
  | .BOOT_FW_INSTALL => actFwInstall s n
  | .BOOT_RB_ADVANCE => actRbAdvance s b
  | .BOOT_OWNER_KEY => actOwnerKey s b
  | .BOOT_REVOKE => actRevoke s n
  | .BOOT_ATTEST_NONCE => actAttestNonce s o b
  | .BOOT_PKG_STORE => actPkgStore s n
  | .BOOT_PKG_UNSTORE => actPkgUnstore s n
  | _ => .err s .access

/-- A write of a whole value to an object whose access and length are in order: reserved bits, range, state, and then the write
(R520 step 6, R522, R525, R526). -/
def State.writeObj (s : State) (o : Origin) (h reqId : Option Nat) (index sub : Nat) (ob : Obj) (data : Bytes) : Reply :=
  match ob with
  | .commit g =>
    (match leNat data with
    | 1 => actCommit s g
    | 2 => actDiscard s g
    | _ => .rangeAt s index sub)
  | .ent e i k =>
    let v : OdVal := if e.row.ty = .domain then .bytes data else .num (leNat data)
    if !e.rsvOk v then .err s .reserved
    else if !e.rangeOk i k v then .range s e i k
    else if e.row.acc = .wo then s.writeAct o h reqId e i v
    else if !s.writeAllowed e i then .err s .state
    else if e.row.live then .ok (s.setVal e i k v)
    else .ok { s with od := { s.od with shadows := amInsert s.od.shadows (e.key i k) v } }
  | _ => .err s .access

/-- The assembly of a session ends. -/
def State.dropAssembly (s : State) (h : Nat) : State := s.modSession h (fun x => { x with assembly := none })

/-- The bytes that a session holds of the value at a place, which a segment at an offset joins (R524): none for a segment that joins
nothing. -/
def Session.assembled (x : Session) (key ofs : Nat) : Option Bytes :=
  if ofs = 0 then some []
  else match x.assembly with
    | some (k, b) => if k = key ∧ ofs = b.length then some b else none
    | none => none

/-- A segment of a DOMAIN value (R524). -/
def State.writeSegment (s : State) (h : Nat) (r : Request) (x : Session) (ob : Obj) : Reply :=
  let index := r.index.toNat
  let sub := r.sub.toNat
  let key := placeKey index sub
  let ofs := r.offset.toNat
  match x.assembled key ofs with
  | none => .rangeAt (s.dropAssembly h) index sub
  | some b0 =>
    let b := b0 ++ r.data
    let s0 := s.dropAssembly h
    let exact : Bool := match ob with | .ent e _ _ => e.row.exactLen | _ => false
    let fault : Option Status :=
      if r.env.last then s.lengthFault ob b.length
      else match ob with
        | .ent e _ _ => if s.maxLen e < b.length then some (if exact then .type else .range) else none
        | _ => none
    match fault with
    | some st => .refuse s0 st index sub
    | none =>
      let load := key == Ent.RP_LOAD.key 0 0
      if ofs = 0 ∧ ¬ s.firstState ob ∧ ¬ r.env.last then .err s0 .state
      else if ofs = 0 ∧ load ∧ s.firstState ob ∧ s.loadAssembly (some h) none then .err s0 .busy
      else if r.env.last then s0.writeObj (.session h r.env.reqId.toNat) (some h) (some r.env.reqId.toNat) index sub ob b
      else .ok (s0.modSession h (fun x => { x with assembly := some (key, b) }))

/-- A WRITE of a session (R520 step 6). -/
def State.doWrite (s : State) (h : Nat) (x : Session) (r : Request) : Reply :=
  let index := r.index.toNat
  let sub := r.sub.toNat
  match resolve s.crewCount index sub with
  | none => .err s .noobj
  | some ob =>
    if !s.writeAccess (handleItf h) (x.role == 1) ob index sub then .err s .access
    else if ob.ty = .domain then s.writeSegment h r x ob
    else match s.lengthFault ob r.data.length with
      | some st => .refuse s st index sub
      | none =>
        if r.offset ≠ 0 then .rangeAt s index sub
        else s.writeObj (.session h r.env.reqId.toNat) (some h) (some r.env.reqId.toNat) index sub ob r.data

/-! ### Reads -/

/-- The value that a read returns, and the state after it (R8, R527): a read of an RC entry clears it. -/
def State.takeValue (s : State) (ob : Obj) (shadow : Bool) : State × OdVal :=
  let v := s.readObj ob
  match ob with
  | .lintRc l i => (s.lintClear l i, v)
  | .ent .CAM_TP_BITS_RC i _ =>
    (match toFin? 12 i with | some p => s.modCam p (fun c => { c with tpBits := 0 }) | none => s, v)
  | .ent e i k => (s, if shadow && decide (e.row.acc = .rw) then amGet s.od.shadows (e.key i k) v else v)
  | _ => (s, v)

/-- A READ of a session (R514, R520, R523, R527): the answer, and LAST. -/
def State.doRead (s : State) (h : Nat) (x : Session) (r : Request) : Reply × Bool :=
  let index := r.index.toNat
  let sub := r.sub.toNat
  match resolve s.crewCount index sub with
  | none => (.err s .noobj, false)
  | some ob =>
    if ob.access = .wo then (.err s .access, false)
    else if ob.ty ≠ .domain then
      if r.offset ≠ 0 ∨ r.length ≠ 0 then (.rangeAt s index sub, false)
      else
        let (s1, v) := s.takeValue ob r.env.shadow
        (⟨s1, .ok, v.enc ob.ty.size, false⟩, false)
    else
      let ofs := r.offset.toNat
      let n := min r.length.toNat 1424
      if ofs = 0 then
        let (s1, v) := s.takeValue ob r.env.shadow
        let b := v.toBytes
        (⟨s1.modSession h (fun x => { x with snapshot := some (placeKey index sub, b) }), .ok, b.take n, false⟩, decide (b.length ≤ n))
      else match x.snapshot with
        | some (k, b) =>
          if k ≠ placeKey index sub then (.err s .state, false)
          else if b.length < ofs then (.rangeAt s index sub, false)
          else (⟨s, .ok, (b.drop ofs).take n, false⟩, decide (b.length ≤ ofs + n))
        | none => (.err s .state, false)

/-- An INFO of a session (R515). -/
def State.doInfo (s : State) (r : Request) : Reply :=
  match resolve s.crewCount r.index.toNat r.sub.toNat with
  | none => .err s .noobj
  | some ob => ⟨s, .ok, s.infoBytes ob r.index.toNat r.sub.toNat, false⟩

/-! ### Execution (R521) -/

/-- A request of a session executes (R514): the answer, and LAST. -/
def State.perform (s : State) (h : Nat) (x : Session) (r : Request) : Reply × Bool :=
  match r.op.toNat with
  | 4 => if r.data ≠ [] then (.err s .type, false) else s.doRead h x r
  | 5 => (s.doWrite h x r, false)
  | 6 => (if r.data ≠ [] then .err s .type else s.doInfo r, false)
  | _ => (if r.data ≠ [] then .err s .type else .ok s, false)

/-- The first request of a session's queue is executed whole (R521). -/
def State.runReq (s : State) (h : Nat) : State :=
  match s.session? h with
  | none => s
  | some x =>
    match x.queue with
    | [] => s
    | r :: l =>
      let s1 := s.modSession h (fun x => { x with executing := some r, queue := l })
      let (p, last) := s1.perform h x r
      if p.later then p.state
      else
        let s2 := (p.state.modSession h (fun x => { x with executing := none })).respond h r p.status p.data last
        if r.op = 2 ∧ p.status = .ok then s2.closeSession h else s2

/-- A session that has a request waiting and none executing. -/
def State.idleWork (s : State) : Option Nat :=
  (List.range 48).find? (fun h => match s.session? h with | some x => x.executing.isNone && !x.queue.isEmpty | none => false)

/-- Run what can run, `n` requests at most. -/
def State.drainN (s : State) : Nat → State
  | 0 => s
  | n + 1 => match s.idleWork with
    | some h => (s.runReq h).drainN n
    | none => s

/-- The requests that wait in all sessions. -/
def State.waitingReqs (s : State) : Nat :=
  ((List.range 48).map (fun h => match s.session? h with | some x => x.queue.length | none => 0)).sum

/-- Run every request that can run (R521). -/
def State.drainAll (s : State) : State := s.drainN s.waitingReqs

/-! ### Arrival (R518 to R520) -/

/-- Does an interface carry messages: its port is on, or the PCIe link is up? -/
def State.itfUp (s : State) (i : Fin 3) : Bool :=
  match i with
  | 0 => s.fnet.ports[(0 : Fin 2)].on
  | 1 => s.fnet.ports[(1 : Fin 2)].on
  | 2 => s.pci.rate != 0

/-- The request cell of a PCIe message is free again without an answer. -/
def State.freeCell (s : State) (e : Envelope) : State :=
  if e.itf = 2 then
    match s.pci.busy.find? (fun b => b.1 == mailboxOf e && b.2.2 == e.reqId.toNat) with
    | some b => { s with pci := { s.pci with busy := s.pci.busy.filter (fun x => !decide (x = b)) } }
    | none => s
  else s

/-- Step 1 of R520: CHECK, KIND, VERSION, LENGTH. -/
def Request.good (r : Request) : Bool :=
  decide (r.env.check.toNat = requestCrc r) && r.env.kind == 0 && r.env.version == 1 && decide (r.data.length ≤ 1424)

/-- Is a session bound to the interface and the peer of a message (R518)? -/
def boundTo (h : Nat) (x : Session) (e : Envelope) : Bool :=
  handleItf h == e.itf.val && (if e.itf = 2 then h == 32 + mailboxOf e else x.peer == e.peer.toNat)

/-- ERR_AUTH (R518): with the SESSION and TAG of the request. -/
def State.authFail (s : State) (r : Request) : State :=
  (s.lint .OD_AUTH).respondBare r r.env.session.toNat r.env.tag.toNat .auth []

/-- The slot that an OPEN takes (R518, R543). -/
def State.openSlot (s : State) (e : Envelope) : Option Nat :=
  if e.itf = 2 then (if (s.session? (32 + mailboxOf e)).isNone then some (32 + mailboxOf e) else none)
  else ((List.range 16).map (· + 16 * e.itf.val)).find? (fun h => (s.session? h).isNone)

/-- OPEN (R517, R518). -/
def State.onOpen (s : State) (r : Request) : State :=
  let e := r.env
  let refuse (st : Status) : State := s.respondBare r 0xFFFF 0 st []
  if e.session ≠ 0xFFFF ∨ e.tag ≠ 0 then s.authFail r
  else
    let same := (List.range 48).find? (fun h =>
      match s.session? h with | some x => boundTo h x e && x.openReq == e.reqId.toNat | none => false)
    match same.bind (fun h => (s.session? h).map (fun x => (h, x))) with
    | some (h, x) => s.deliver e (responseBytes r x.version h x.tag true false .ok x.openData)
    | none =>
      match s.openSlot e with
      | none => refuse .busy
      | some h =>
        let b := r.data
        let top := fieldAt b 1 1
        if !reservedZero e then refuse .reserved
        else if r.index ≠ 0 ∨ r.sub ≠ 0 ∨ r.offset ≠ 0 then refuse .range
        else if b.length ≠ 8 then refuse .type
        else if 16 ≤ top ∨ fieldAt b 4 4 ≠ 0 then refuse .reserved
        else if 1 < fieldAt b 0 1 ∨ top = 0 then refuse .range
        else if fieldAt b 0 1 = 1 ∧ s.control ≠ 0xFFFF then refuse .busy
        else
          let tag := (Config.tagSeed s.fresh).val + 1
          let ms := if fieldAt b 2 2 = 0 then s.num .OD_SESSION_TIMEOUT 0 else fieldAt b 2 2
          let v := min top 1
          let data := packBytes 16 [(16, h), (8, v), (8, fieldAt b 0 1), (32, tag), (8, 64), (8, 8), (16, 1424), (16, ms), (16, 0)]
          let x : Session := ⟨fieldAt b 0 1, v, e.peer.toNat, tag, ms, s.now, e.reqId.toNat, e.reqId.toNat, data, [], none, [], none, none⟩
          (s.draw.setSession h (some x)).deliver e (responseBytes r v h tag false false .ok data)

/-- Step 5 of R520: reserved header fields, a reserved OP, and fields that an operation does not use (R514). -/
def Request.fieldFault (r : Request) : Option Status :=
  let used := r.op = 4 ∨ r.op = 5 ∨ r.op = 6
  if !reservedZero r.env then some .reserved
  else if r.op = 0 ∨ 6 < r.op.toNat then some .range
  else if (¬ used ∧ (r.index ≠ 0 ∨ r.sub ≠ 0)) ∨ (¬ (r.op = 4 ∨ r.op = 5) ∧ r.offset ≠ 0) then some .range
  else none

/-- A request of an open session that its window accepts as new (R519, R520 steps 4 and 5). -/
def State.accept (s : State) (h : Nat) (x : Session) (r : Request) : State :=
  let id := r.env.reqId.toNat
  if 8 ≤ x.queue.length + b2n x.executing.isSome then (s.lint .OD_BUSY).respond h r .busy [] false
  else
    let high := if 0 < reqDist id x.high then id else x.high
    let s1 := s.modSession h (fun x => { x with high := high, stored := x.stored.filter (fun e => inWindow e.1 high) })
    match Request.fieldFault r with
    | some st => s1.respond h r st [] false
    | none => s1.modSession h (fun x => { x with queue := x.queue ++ [r] })

/-- A message of an open session (R519). -/
def State.onSession (s : State) (h : Nat) (x : Session) (r : Request) : State :=
  let id := r.env.reqId.toNat
  let d := reqDist id x.high
  let open_ := (match x.executing with | some q => q.env.reqId.toNat == id | none => false) || x.queue.any (fun q => q.env.reqId.toNat == id)
  if inWindow id x.high then
    match x.stored.find? (fun e => e.1 == id) with
    | some e => s.deliver r.env (withDup e.2)
    | none => if open_ then s.respond h r .dup [] false else s.accept h x r
  else if 0 < d then s.accept h x r
  else (s.lint .OD_STALE).respond h r .stale [] false

/-- A message arrives (R520). Nothing is served before boot step 8 or on an interface that is down. -/
def State.receive (s : State) (r : Request) : State :=
  if !s.boot.serverUp || !s.itfUp r.env.itf then s
  else if !Request.good r then (s.freeCell r.env).lint .OD_CHECK
  else if r.op = 1 then s.onOpen r
  else
    let h := r.env.session.toNat
    match s.session? h with
    | none => s.authFail r
    | some x =>
      if boundTo h x r.env && x.tag == r.env.tag.toNat then
        let s1 := s.modSession h (fun x => { x with lastMsg := s.now })
        (s1.onSession h x r).drainAll
      else s.authFail r

end Sys2Proof.Machine
end

