-- ==== Sys2Proof/Machine/Operands.lean ====
section
/-! DEFINITION. How the operands of a row of the object dictionary become its request (R513 to R517). -/

namespace Sys2Proof.Machine

open Sys2Proof

/-- A request as its message carries it (R513). -/
def mkReq (e : Envelope) (op index sub offset length : Nat) (data : Bytes) : Request :=
  ⟨e, BitVec.ofNat 8 op, BitVec.ofNat 16 index, BitVec.ofNat 8 sub, BitVec.ofNat 64 offset, BitVec.ofNat 16 length, data⟩

/-- A WRITE of a scalar entry. -/
def wrNum (e : Envelope) (x : Ent) (inst v : Nat) : Request :=
  mkReq e 5 (x.row.index + inst) x.row.sub 0 x.row.ty.size (leBytes x.row.ty.size v)

/-- A WRITE of a segment of a DOMAIN entry. -/
def wrSeg (e : Envelope) (x : Ent) (inst : Nat) (offset : BitVec 64) (data : Bytes) : Request :=
  mkReq e 5 (x.row.index + inst) x.row.sub offset.toNat data.length data

end Sys2Proof.Machine
end

