-- ==== Sys2Proof/Machine/OdRows.lean ====
section
/-! DEFINITION. The rows of the object dictionary protocol: the commands of the device, sessions, reads, writes, commits, and the entries whose writes act (R8, R38, R513 to R529, and the rule of each action). -/

namespace Sys2Proof.Machine

open Sys2Proof

/-- The end of a row that may have changed ports, answered a seat, or freed a session: the ports' news go out (R404, R411), the
squad's command settles (R408), and every session that can runs its requests (R521). -/
def lateEnd (s t : State) : Host.Outcome State Fault Refusal := finish s ((s.nlSettle t).cmdSettle.drainAll)

/-- A request arrives. -/
def odRow (s : State) (r : Request) : Host.Outcome State Fault Refusal := lateEnd s (s.receive r)

/-! ### Commands of the device (R38) -/

/-- NONE (R38): no action. -/
def execNone (e : Envelope) (s : State) : Host.Outcome State Fault Refusal := odRow s (wrNum e .DEV_COMMAND 0 0)

/-- ARM (R38, R39): ARM begins; ARM_DONE ends it. -/
def execArm (e : Envelope) (s : State) : Host.Outcome State Fault Refusal := odRow s (wrNum e .DEV_COMMAND 0 1)

/-- DISARM (R32, R38, R408): INERT. -/
def execDisarm (e : Envelope) (s : State) : Host.Outcome State Fault Refusal := odRow s (wrNum e .DEV_COMMAND 0 2)

/-- START (R28, R38): RUN or DEGRADED. -/
def execStart (e : Envelope) (s : State) : Host.Outcome State Fault Refusal := odRow s (wrNum e .DEV_COMMAND 0 3)

/-- STOP (R30, R38): admission ends; STOP_TO_ARMED completes it. -/
def execStop (e : Envelope) (s : State) : Host.Outcome State Fault Refusal := odRow s (wrNum e .DEV_COMMAND 0 4)

/-- SAFE (R33, R38): SAFE, cause FORCED. -/
def execSafe (e : Envelope) (s : State) : Host.Outcome State Fault Refusal := odRow s (wrNum e .DEV_COMMAND 0 5)

/-- SAFE_ACK (R38, R40): INERT, where every cause is gone. -/
def execSafeAck (e : Envelope) (s : State) : Host.Outcome State Fault Refusal := odRow s (wrNum e .DEV_COMMAND 0 6)

/-- WARM_RESTART (R35, R610): BOOT with what a warm restart keeps. -/
def execWarmRestart (e : Envelope) (s : State) : Host.Outcome State Fault Refusal := odRow s (wrNum e .DEV_COMMAND 0 7)

/-- RESET (R28, R38): RESET. -/
def execReset (e : Envelope) (s : State) : Host.Outcome State Fault Refusal := odRow s (wrNum e .DEV_COMMAND 0 8)

/-- ARM_DONE (R39): the ARM in progress ends. -/
def execArmDone (s : State) : Host.Outcome State Fault Refusal := lateEnd s s.armEnds

/-- STOP_TO_ARMED (R30): STOP completes once no heat but SWATCH heats remains. -/
def execStopToArmed (s : State) : Host.Outcome State Fault Refusal := lateEnd s s.stopEnds

/-! ### Sessions and entries -/

/-- OPEN (R517, R518). -/
def execOpen (e : Envelope) (data : Bytes) (s : State) : Host.Outcome State Fault Refusal :=
  odRow s (mkReq e 1 0 0 0 data.length data)

/-- CLOSE (R518). -/
def execClose (e : Envelope) (s : State) : Host.Outcome State Fault Refusal := odRow s (mkReq e 2 0 0 0 0 [])

/-- KEEPALIVE (R514). -/
def execKeepalive (e : Envelope) (s : State) : Host.Outcome State Fault Refusal := odRow s (mkReq e 3 0 0 0 0 [])

/-- READ (R514, R523, R527). -/
def execRead (e : Envelope) (index : BitVec 16) (sub : BitVec 8) (offset : BitVec 64) (length : BitVec 16) (s : State) :
    Host.Outcome State Fault Refusal := odRow s ⟨e, 4, index, sub, offset, length, []⟩

/-- WRITE (R514, R522, R524, R525). -/
def execWrite (e : Envelope) (index : BitVec 16) (sub : BitVec 8) (offset : BitVec 64) (data : Bytes) (s : State) :
    Host.Outcome State Fault Refusal := odRow s ⟨e, 5, index, sub, offset, BitVec.ofNat 16 data.length, data⟩

/-- INFO (R515). -/
def execInfo (e : Envelope) (index : BitVec 16) (sub : BitVec 8) (s : State) : Host.Outcome State Fault Refusal :=
  odRow s ⟨e, 6, index, sub, 0, 0, []⟩

/-- READ_AND_CLEAR (R8): a READ; an RC entry clears in the same access. -/
def execReadAndClear (e : Envelope) (index : BitVec 16) (sub : BitVec 8) (s : State) : Host.Outcome State Fault Refusal :=
  odRow s ⟨e, 4, index, sub, 0, 0, []⟩

/-- SESSION_TIMEOUT (R518). -/
def execSessionTimeout (handle : Fin 48) (s : State) : Host.Outcome State Fault Refusal :=
  match s.session? handle with
  | some _ => lateEnd s ((s.lint .OD_TIMEOUT).closeSession handle)
  | none => .next s

/-- COMMIT (R526, R528, R529). -/
def execCommit (e : Envelope) (group : BitVec 8) (s : State) : Host.Outcome State Fault Refusal :=
  odRow s (mkReq e 5 (group.toNat * 256 + 0xFF) 1 0 1 [1#8])

/-- DISCARD (R526). -/
def execDiscard (e : Envelope) (group : BitVec 8) (s : State) : Host.Outcome State Fault Refusal :=
  odRow s (mkReq e 5 (group.toNat * 256 + 0xFF) 1 0 1 [2#8])

/-- COMMIT_TAKE_EFFECT (R528): what is at its boundary now takes effect. -/
def execCommitTakeEffect (group : BitVec 8) (s : State) : Host.Outcome State Fault Refusal :=
  lateEnd s (s.takeEffect group.toNat)

/-! ### Entries whose writes act -/

/-- RP_LOAD (R201 to R207, R412): a segment of its value (R524). -/
def execRpLoad (e : Envelope) (offset : BitVec 64) (data : Bytes) (s : State) : Host.Outcome State Fault Refusal :=
  odRow s (wrSeg e .RP_LOAD 0 offset data)

/-- RP_UNLOAD (R208, R412). -/
def execRpUnload (e : Envelope) (value : BitVec 8) (s : State) : Host.Outcome State Fault Refusal :=
  odRow s (wrNum e .RP_UNLOAD 0 value.toNat)

/-- COX_BG_REQUEST (R234). -/
def execCoxBgRequest (e : Envelope) (value : BitVec 16) (s : State) : Host.Outcome State Fault Refusal :=
  odRow s (wrNum e .COX_BG_REQUEST 0 value.toNat)

/-- KV_CANCEL (R335). -/
def execKvCancel (e : Envelope) (partition : Fin 8) (value : BitVec 64) (s : State) : Host.Outcome State Fault Refusal :=
  odRow s (wrNum e .KV_CANCEL partition.val value.toNat)

/-- KV_TREE_FLUSH (R317). -/
def execKvTreeFlush (e : Envelope) (partition : Fin 8) (value : BitVec 8) (s : State) : Host.Outcome State Fault Refusal :=
  odRow s (wrNum e .KV_TREE_FLUSH partition.val value.toNat)

/-- DET_GEN_IN (R351): a segment of its value (R524). -/
def execDetGenIn (e : Envelope) (offset : BitVec 64) (data : Bytes) (s : State) : Host.Outcome State Fault Refusal :=
  odRow s (wrSeg e .DET_GEN_IN 0 offset data)

/-- DET_REPLAY_SWATH (R364): a segment of its value (R524). -/
def execDetReplaySwath (e : Envelope) (partition : Fin 8) (offset : BitVec 64) (data : Bytes) (s : State) : Host.Outcome State Fault Refusal :=
  odRow s (wrSeg e .DET_REPLAY_SWATH partition.val offset data)

/-- DET_REPLAY_SEQ (R366): a segment of its value (R524). -/
def execDetReplaySeq (e : Envelope) (partition : Fin 8) (offset : BitVec 64) (data : Bytes) (s : State) : Host.Outcome State Fault Refusal :=
  odRow s (wrSeg e .DET_REPLAY_SEQ partition.val offset data)

/-- DET_REPLAY_STATE (R365): a segment of its value (R524). -/
def execDetReplayState (e : Envelope) (partition : Fin 8) (offset : BitVec 64) (data : Bytes) (s : State) : Host.Outcome State Fault Refusal :=
  odRow s (wrSeg e .DET_REPLAY_STATE partition.val offset data)

/-- RACK (R390). -/
def execRack (e : Envelope) (port : Fin 8) (s : State) : Host.Outcome State Fault Refusal :=
  odRow s (wrNum e .NL_POWER_CMD port.val 1)

/-- WAKE (R390). -/
def execWake (e : Envelope) (port : Fin 8) (s : State) : Host.Outcome State Fault Refusal :=
  odRow s (wrNum e .NL_POWER_CMD port.val 2)

/-- INJECT_SINGLE (R393). -/
def execInjectSingle (e : Envelope) (port : Fin 8) (lanes : BitVec 4) (s : State) : Host.Outcome State Fault Refusal :=
  odRow s (wrNum e .NL_INJECT port.val (lanes.toNat + 16))

/-- INJECT_PERIODIC (R393). -/
def execInjectPeriodic (e : Envelope) (port : Fin 8) (lanes : BitVec 4) (s : State) : Host.Outcome State Fault Refusal :=
  odRow s (wrNum e .NL_INJECT port.val (lanes.toNat + 32))

/-- INJECT_STOP (R393). -/
def execInjectStop (e : Envelope) (port : Fin 8) (lanes : BitVec 4) (s : State) : Host.Outcome State Fault Refusal :=
  odRow s (wrNum e .NL_INJECT port.val (lanes.toNat + 0))

/-- RT_ADD (R425): a segment of its value (R524). -/
def execRtAdd (e : Envelope) (partition : Fin 8) (offset : BitVec 64) (data : Bytes) (s : State) : Host.Outcome State Fault Refusal :=
  odRow s (wrSeg e .RT_ADD partition.val offset data)

/-- RT_REMOVE (R427). -/
def execRtRemove (e : Envelope) (partition : Fin 8) (value : BitVec 32) (s : State) : Host.Outcome State Fault Refusal :=
  odRow s (wrNum e .RT_REMOVE partition.val value.toNat)

/-- RT_PUBLISH (R442). -/
def execRtPublish (e : Envelope) (partition : Fin 8) (value : BitVec 8) (s : State) : Host.Outcome State Fault Refusal :=
  odRow s (wrNum e .RT_PUBLISH partition.val value.toNat)

/-- RT_RESTART (R442). -/
def execRtRestart (e : Envelope) (partition : Fin 8) (value : BitVec 8) (s : State) : Host.Outcome State Fault Refusal :=
  odRow s (wrNum e .RT_RESTART partition.val value.toNat)

/-- FIO_ACK (R452). -/
def execFioAck (e : Envelope) (n : Fin 48) (value : BitVec 8) (s : State) : Host.Outcome State Fault Refusal :=
  odRow s (wrNum e .FIO_ACK n.val value.toNat)

/-- FIO_FORCE_OFF (R449). -/
def execFioForceOff (e : Envelope) (value : BitVec 64) (s : State) : Host.Outcome State Fault Refusal :=
  odRow s (wrNum e .FIO_FORCE_OFF 0 value.toNat)

/-- ENC_ACK (R459). -/
def execEncAck (e : Envelope) (n : Fin 8) (value : BitVec 8) (s : State) : Host.Outcome State Fault Refusal :=
  odRow s (wrNum e .ENC_ACK n.val value.toNat)

/-- FIRE_STOP_ACK (R469). -/
def execFireStopAck (e : Envelope) (value : BitVec 8) (s : State) : Host.Outcome State Fault Refusal :=
  odRow s (wrNum e .FIRE_STOP_ACK 0 value.toNat)

/-- TS_SET (R499): a segment of its value (R524). -/
def execTsSet (e : Envelope) (offset : BitVec 64) (data : Bytes) (s : State) : Host.Outcome State Fault Refusal :=
  odRow s (wrSeg e .TS_SET 0 offset data)

/-- SAF_EVENT_ACK (R589). -/
def execSafEventAck (e : Envelope) (value : BitVec 32) (s : State) : Host.Outcome State Fault Refusal :=
  odRow s (wrNum e .SAF_EVENT_ACK 0 value.toNat)

/-- BOOT_FW_IMAGE (R615): a segment of its value (R524). -/
def execBootFwImage (e : Envelope) (offset : BitVec 64) (data : Bytes) (s : State) : Host.Outcome State Fault Refusal :=
  odRow s (wrSeg e .BOOT_FW_IMAGE 0 offset data)

/-- BOOT_FW_INSTALL (R616). -/
def execBootFwInstall (e : Envelope) (value : BitVec 8) (s : State) : Host.Outcome State Fault Refusal :=
  odRow s (wrNum e .BOOT_FW_INSTALL 0 value.toNat)

/-- BOOT_RB_ADVANCE (R607): a segment of its value (R524). -/
def execBootRbAdvance (e : Envelope) (offset : BitVec 64) (data : Bytes) (s : State) : Host.Outcome State Fault Refusal :=
  odRow s (wrSeg e .BOOT_RB_ADVANCE 0 offset data)

/-- BOOT_OWNER_KEY (R608): a segment of its value (R524). -/
def execBootOwnerKey (e : Envelope) (offset : BitVec 64) (data : Bytes) (s : State) : Host.Outcome State Fault Refusal :=
  odRow s (wrSeg e .BOOT_OWNER_KEY 0 offset data)

/-- BOOT_REVOKE (R608). -/
def execBootRevoke (e : Envelope) (value : BitVec 8) (s : State) : Host.Outcome State Fault Refusal :=
  odRow s (wrNum e .BOOT_REVOKE 0 value.toNat)

/-- BOOT_ATTEST_NONCE (R614): a segment of its value (R524). -/
def execBootAttestNonce (e : Envelope) (offset : BitVec 64) (data : Bytes) (s : State) : Host.Outcome State Fault Refusal :=
  odRow s (wrSeg e .BOOT_ATTEST_NONCE 0 offset data)

/-- BOOT_PKG_STORE (R609). -/
def execBootPkgStore (e : Envelope) (value : BitVec 8) (s : State) : Host.Outcome State Fault Refusal :=
  odRow s (wrNum e .BOOT_PKG_STORE 0 value.toNat)

/-- BOOT_PKG_UNSTORE (R609). -/
def execBootPkgUnstore (e : Envelope) (value : BitVec 8) (s : State) : Host.Outcome State Fault Refusal :=
  odRow s (wrNum e .BOOT_PKG_UNSTORE 0 value.toNat)

/-- PCI_XL_SUBMIT (R547): a segment of its value (R524). -/
def execPciXlSubmit (e : Envelope) (offset : BitVec 64) (data : Bytes) (s : State) : Host.Outcome State Fault Refusal :=
  odRow s (wrSeg e .PCI_XL_SUBMIT 0 offset data)

/-- PCI_XL_ABORT (R552). -/
def execPciXlAbort (e : Envelope) (value : BitVec 32) (s : State) : Host.Outcome State Fault Refusal :=
  odRow s (wrNum e .PCI_XL_ABORT 0 value.toNat)

/-- ATTEST_REPORT_READY (R614). -/
def execAttestReportReady (s : State) : Host.Outcome State Fault Refusal := lateEnd s s.attestReady

end Sys2Proof.Machine
end

