-- ==== Sys2Proof/Machine/LinkRows.lean ====
section
/-! DEFINITION. The rows of the Nuord ports and of the time exchange over a link (R373 to R396, R417 to R419). -/

namespace Sys2Proof.Machine

open Sys2Proof

/-- A good block on a lane ends its run of block errors (R373, R385). -/
def State.goodBlock (s : State) (p : Fin 8) (l : Fin 4) : State := s.modLane p l (fun x => { x with blockErrs := 0 })

/-- A good control block on all four lanes (R375). -/
def State.goodBlocks (s : State) (p : Fin 8) : State := s.each (allFin 4) (fun s l => s.goodBlock p l)

/-- SQUELCH_OPEN (R379, R389, R390): the squelch detectors of the port open. -/
def execSquelchOpen (port : Fin 8) (s : State) : Host.Outcome State Fault Refusal := lateEnd s (s.squelch port)

/-- COMMA_BLOCK (R374, R375, R379, R381): a comma on a lane, `gap` block times after the lane's last, `skewPs` behind the first
lane's. -/
def execCommaBlock (port : Fin 8) (lane : Fin 4) (inverted : Bool) (gap skewPs : BitVec 32) (s : State) :
    Host.Outcome State Fault Refusal :=
  lateEnd s ((s.goodBlock port lane).commaIn port lane inverted gap.toNat skewPs.toNat)

/-- TRAIN_BLOCK (R375, R380 to R384): a control block of type TRAIN on a lane; any other byte 0 is a block error (R373). -/
def execTrainBlock (port : Fin 8) (lane : Fin 4) (payload : BitVec 128) (s : State) : Host.Outcome State Fault Refusal :=
  lateEnd s
    (if payload.toNat % 256 = 0x1E then (s.goodBlock port lane).trainIn port lane payload.toNat
    else (s.modLane port lane (fun x => { x with blockErrs := x.blockErrs + 1 })).lintAt .NL_BLOCK port.val)

/-- EQUALIZE_EVALUATION (R382, R383): the receiver has measured an eye of `height` µV by `width` thousandths of a UI. -/
def execEqualizeEvaluation (port : Fin 8) (lane : Fin 4) (height width : BitVec 32) (s : State) :
    Host.Outcome State Fault Refusal :=
  lateEnd s (s.evaluateLane port lane height.toNat width.toNat)

/-- SKIP_BLOCK (R377): the elastic buffers take it; the cell layer never sees it. -/
def execSkipBlock (port : Fin 8) (s : State) : Host.Outcome State Fault Refusal := lateEnd s (s.goodBlocks port)

/-- EASY_BLOCK (R388): the receiver holds its recovered phase and its block counters. -/
def execEasyBlock (port : Fin 8) (s : State) : Host.Outcome State Fault Refusal :=
  lateEnd s
    (if s.squad.ports[port].state = .up ∨ s.squad.ports[port].state = .easy then s.modPort port (fun c => { c with easyRx := true })
    else s)

/-- RACK_BLOCK (R390): the far end enters RACK. -/
def execRackBlock (port : Fin 8) (s : State) : Host.Outcome State Fault Refusal :=
  lateEnd s
    (if s.squad.ports[port].state = .up ∨ s.squad.ports[port].state = .easy then
      (s.goodBlocks port).modPort port (fun c => { c with farRack := true })
    else s)

/-- BRINGUP_TIMEOUT (R379, R386): the state of the port has lasted its limit. -/
def execBringupTimeout (port : Fin 8) (s : State) : Host.Outcome State Fault Refusal := lateEnd s (s.bringupTimeout port)

/-- FAILED_RETRY (R386): an enabled FAILED port starts again from DETECT; its last cause stays. -/
def execFailedRetry (port : Fin 8) (s : State) : Host.Outcome State Fault Refusal :=
  lateEnd s
    (if s.squad.ports[port].state = .failed ∧ s.flag .NL_ENABLE port.val then s.modPort port NlPort.toDetect else s)

/-- COMMA_MISSING (R385): no comma where the lane's next one was expected. -/
def execCommaMissing (port : Fin 8) (lane : Fin 4) (s : State) : Host.Outcome State Fault Refusal :=
  lateEnd s (s.commaMissing port lane)

/-- EASY_IDLE_EXPIRE (R388): no DATA or CTRL cell for `NL_EASY_IDLE`. -/
def execEasyIdleExpire (port : Fin 8) (s : State) : Host.Outcome State Fault Refusal := lateEnd s (s.easyEnter port)

/-- EASY is left, and what the port owes its receiver is sent (R389, R395). -/
def State.easyLeave (s : State) (p : Fin 8) : State :=
  if s.squad.ports[p].state = .easy then
    let s1 := s.easyExit p
    let s2 := if s1.squad.ports[p].nak.isSome then s1.sendPlain p 4 [] else s1
    if 0 < s2.squad.ports[p].unacked then s2.sendPlain p 3 [] else s2
  else s

/-- EASY_EXIT (R389): a port in EASY has a cell to send. -/
def execEasyExit (port : Fin 8) (s : State) : Host.Outcome State Fault Refusal := lateEnd s (s.easyLeave port)

/-- PERIODIC_INJECTION (R393): `NL_INJECT_PERIOD` bits have passed. -/
def execPeriodicInjection (port : Fin 8) (s : State) : Host.Outcome State Fault Refusal := lateEnd s (s.injectTick port)

/-- PATTERN_CHECKER_SYNC (R391, R392): bits at the checker of a lane, the first received first. -/
def execPatternCheckerSync (port : Fin 8) (lane : Fin 4) (rx : List Bool) (s : State) : Host.Outcome State Fault Refusal :=
  lateEnd s (s.checkBits port lane rx)

/-- CELL_RECEIVE (R373, R374, R376, R394 to R399): the eight blocks of a cell on each of the four physical lanes; `full` where the
receive buffer of 1,024 cells is full. -/
def execCellReceive (port : Fin 8) (blocks : List (List RxBlock)) (full : Bool) (s : State) :
    Host.Outcome State Fault Refusal :=
  lateEnd s (s.cellIn port blocks full)

/-- REPLAY_TIMEOUT (R396, R398): `NL_REPLAY_TIMEOUT` without an advance of ACK_SEQ. -/
def execReplayTimeout (port : Fin 8) (s : State) : Host.Outcome State Fault Refusal :=
  lateEnd s
    (match s.squad.ports[port].replay with
    | e :: _ => if s.squad.ports[port].sends then s.replayFrom port e.1 else s
    | [] => s)

/-- NAK_EXPIRE (R395): `NL_REPLAY_TIMEOUT` has passed since the NAK was sent. -/
def execNakExpire (port : Fin 8) (s : State) : Host.Outcome State Fault Refusal :=
  lateEnd s (s.modPort port (fun c => { c with nak := none }))

/-- ACK_DUE (R395): an accepted cell has waited 0.5 µs for its acknowledgement. -/
def execAckDue (port : Fin 8) (s : State) : Host.Outcome State Fault Refusal :=
  lateEnd s
    (if 0 < s.squad.ports[port].unacked then
      (if s.squad.ports[port].state = .easy then s.easyLeave port else s.sendPlain port 3 [])
    else s)

/-! ### Time over the links (R417 to R419) -/

/-- The body of a TIME cell (R418). -/
def timeBody (kind exchId : Nat) (t2 t3 : NetTime) : Bytes :=
  packBytes 8 [(4, 1), (4, kind), (8, 0), (16, exchId), (32, 0)] ++ t2.toBytes ++ t3.toBytes

/-- A time of R492 read from 14 bytes. -/
def timeAt (b : Bytes) (o : Nat) : NetTime := ⟨fieldAt b o 8, fieldAt b (o + 8) 4, fieldAt b (o + 12) 2⟩

/-- The port to the parent of this seat in a formed squad: the lowest of the route to the time source (R417). -/
def State.timeParent (s : State) : Option (Fin 8) :=
  if s.squadTime then
    let src := s.num .SQD_TIME_SOURCE 0
    (s.routePorts (if src = 0xFF then s.squad.stroke.getD 0xFF else src)).head?
  else none

/-- The exchange in progress on a port ends without a result (R419). -/
def State.dropExch (s : State) (p : Fin 8) : State :=
  if s.squad.ports[p].exch.isSome then (s.modPort p (fun c => { c with exch := none })).lintAt .NL_TIME_DROP p.val else s

/-- TIME_EXCHANGE_START (R417, R418): a request to the parent, which leaves `phase` steps of 312.5 ps after the clock edge. An
exchange that got no response is discarded (R419). -/
def execTimeExchangeStart (phase : Fin 8) (s : State) : Host.Outcome State Fault Refusal :=
  lateEnd s
    (match s.timeParent with
    | none => s
    | some p =>
      let s1 := (s.dropExch p).easyLeave p
      let id : Nat := wrapAdd 16 (s1.squad.ports[p]).exchId 1
      if s1.squad.ports[p].sends then
        (s1.modPort p (fun c =>
          { c with exchId := id, exch := some (id, capture s1.netTime phase.val), disturbed := false })).sendPlain p 5
            (timeBody 0 id ⟨0, 0, 0⟩ ⟨0, 0, 0⟩)
      else s1.lintAt .NL_TIME_DROP p.val)

/-- TIME_REQUEST (R418): a request arrives `phase` steps of 312.5 ps after the clock edge, and the response leaves `turn` steps
later. -/
def execTimeRequest (port : Fin 8) (body : Bytes) (phase : Fin 8) (turn : BitVec 16) (s : State) :
    Host.Outcome State Fault Refusal :=
  lateEnd s
    (let v : Nat := fieldAt body 0 1
    if v ≠ 0x01 then s
    else
      let t2 := capture s.netTime phase.val
      (s.easyLeave port).sendPlain port 5
        (timeBody 1 (fieldAt body 2 2) (NetTime.of16 t2) (NetTime.of16 (t2 + turn.toNat * 20480))))

/-- Half of a path asymmetry of `a` ps in units of 2^-16 ns: exact where it is a whole number, else one of the two whole numbers
beside it (notes/assumptions/61.md). -/
def halfAsym (a : Int) : Int :=
  if a * 4096 % 125 = 0 then a * 4096 / 125 else a * 4096 / 125 + (if Config.asymUp a then 1 else 0)

/-- TIME_RESPONSE (R418, R419): the parent's response arrives `phase` steps of 312.5 ps after the clock edge; `good` where its cell
passed its CRC. -/
def execTimeResponse (port : Fin 8) (body : Bytes) (phase : Fin 8) (good : Bool) (s : State) :
    Host.Outcome State Fault Refusal :=
  lateEnd s
    (let c := s.squad.ports[port]
    match c.exch with
    | none => s
    | some (id, t1) =>
      let t4 := capture s.netTime phase.val
      let v : Nat := fieldAt body 0 1
      if good ∧ (v ≠ 0x11 ∨ fieldAt body 2 2 ≠ id) then s
      else if ¬ good ∨ c.disturbed ∨ 10000 * 65536 < t4 - t1 then s.dropExch port
      else
        let t2 := (timeAt body 8).to16
        let t3 := (timeAt body 22).to16
        let s1 := s.modPort port (fun c =>
          { c with
            exch := none, delay := ((t2 - t1) + (t4 - t3)) / 2
            offset := ((t2 - t1) - (t4 - t3)) / 2 - halfAsym (s.sint .NL_TIME_ASYM port.val) })
        if s.timeParent = some port then s1.measure s1.squad.ports[port].offset else s1)

/-- HOLDOVER_EXPIRE (R498, R584): network time is LOST, and event TIME_LOST arises. -/
def execHoldoverExpire (s : State) : Host.Outcome State Fault Refusal :=
  lateEnd s
    (if s.tu.state = .holdover then
      ((s.lint .TS_UNLOCK).modTu (fun t => { t with state := .lost, good := 0 })).event 0xA []
    else s)

end Sys2Proof.Machine
end

