-- ==== Sys2Proof/Machine/SquadRows.lean ====
section
/-! DEFINITION. The rows of the squad: its messages, formation, lost members, spanning heats, decisions of the page manager, and loads (R404 to R416, R337). -/

namespace Sys2Proof.Machine

open Sys2Proof

/-! ### Formation and members -/

/-- HELLO (R406): from the neighbour that tells it. -/
def execHello (h : HelloInfo) (s : State) : Host.Outcome State Fault Refusal := lateEnd s ((s.takeCtrl h.seat 1).onHello h)

/-- TOPOLOGY (R405, R407, R411): the UP ports of a seat, on the port from which it came. -/
def execTopology (port : Fin 8) (seat : Fin 32) (links : List TopoLink) (s : State) : Host.Outcome State Fault Refusal :=
  lateEnd s ((s.takeCtrl (s.squad.ports[port]).peerSeat 2).onTopology port seat.val links)

/-- FORM (R407, R411): from the stroke seat, the lowest member. -/
def execForm (members version epoch : BitVec 32) (routes : List (Nat × Nat × Nat × Nat)) (s : State) :
    Host.Outcome State Fault Refusal :=
  lateEnd s ((s.takeCtrl ((leastOf (seatsOf members.toNat)).getD 0) 3).onForm members.toNat version.toNat epoch.toNat routes)

/-- FORM_ACK (R407). -/
def execFormAck (seat : Fin 32) (epoch : BitVec 32) (fault : BitVec 8) (s : State) : Host.Outcome State Fault Refusal :=
  lateEnd s ((s.takeCtrl seat.val 4).onFormAck seat.val epoch.toNat fault.toNat)

/-- FORM_TIMEOUT (R407): `SQD_FORM_TIMEOUT` has passed. -/
def execFormTimeout (s : State) : Host.Outcome State Fault Refusal :=
  lateEnd s (if s.squad.state = .forming then s.formFail (1, 0, 0) else s)

/-- HEARTBEAT_SEND (R409, R416). -/
def execHeartbeatSend (s : State) : Host.Outcome State Fault Refusal :=
  lateEnd s
    (if s.squad.state = .formed ∨ s.squad.state = .broken then
      s.sendAll (.heartbeat s.dev.state.code s.squad.state.code s.crewsIn.length)
    else s)

/-- HEARTBEAT (R409): a member's states and its crews in service. -/
def execHeartbeat (seat : Fin 32) (devState sqdState crews : BitVec 8) (s : State) : Host.Outcome State Fault Refusal :=
  lateEnd s ((s.takeCtrl seat.val 5).onBeat seat.val devState.toNat sqdState.toNat crews.toNat)

/-- MEMBER_LOST (R409): no HEARTBEAT of a member for 4 × `SQD_HEARTBEAT_US`. -/
def execMemberLost (seat : Fin 32) (s : State) : Host.Outcome State Fault Refusal :=
  lateEnd s (if seat.val = s.seat then s else s.memberLost seat.val 0)

/-- BROKEN (R409, R410): a seat tells which one is lost, and why. -/
def execBroken (sender lost : Fin 32) (cause : BitVec 8) (s : State) : Host.Outcome State Fault Refusal :=
  lateEnd s ((s.takeCtrl sender.val 0xE).memberLost lost.val cause.toNat)

/-! ### Commands -/

/-- Is this seat a member that follows another seat's stroke (R401)? -/
def State.follows (s : State) : Option Nat := s.squad.stroke.filter (· != s.seat)

/-- COMMAND (R38, R408): a command carried from the stroke seat; the answer to DISARM leaves before INERT ends the links. -/
def execCommand (code : BitVec 8) (s : State) : Host.Outcome State Fault Refusal :=
  lateEnd s
    (match s.follows with
    | none => s
    | some x =>
      let s1 := s.takeCtrl x 6
      let r := s1.devCommand (.squad 0) code.toNat
      if code = 2 ∧ r.status = .ok then (s1.answer (.squad 0) .ok 0).toInert
      else if r.later then r.state
      else r.state.answer (.squad 0) r.status 0)

/-- COMMAND_DONE (R408): a seat's answer to the command under way. -/
def execCommandDone (seat : Fin 32) (status : BitVec 8) (armFault : BitVec 32) (s : State) :
    Host.Outcome State Fault Refusal :=
  lateEnd s ((s.takeCtrl seat.val 7).seatResult seat.val status.toNat armFault.toNat)

/-! ### Spanning heats -/

/-- ADMIT (R410, R416): a spanning heat that this seat takes part in. -/
def execAdmit (serial : BitVec 64) (slot : Fin 16) (plan : BitVec 8) (start : Nat) (s : State) :
    Host.Outcome State Fault Refusal :=
  lateEnd s
    (match s.follows with
    | none => s
    | some x =>
      let s1 := s.takeCtrl x 8
      if s1.squad.state = .formed then
        s1.modSquad (fun q => { q with spans := q.spans ++ [⟨serial.toNat, slot.val, plan.toNat, start, 0, false, false, []⟩] })
      else s1)

/-- The step that a seat's part of a spanning heat works on (R337, R436). -/
def State.partStep (s : State) (kind : PlanKind) (part : Nat) : Nat :=
  match kind, toFin? 8 part with
  | .secondLook, some _ => (s.kvPart part).step
  | .retune, some i => s.retune[i].steps
  | _, _ => 0

/-- This seat's part of a spanning heat starts in the current period, where its crews are free (R415, R416). -/
def State.spanStarts (s : State) (x : Span) : State :=
  match s.planOf x.slot x.plan with
  | none => s
  | some (p, pl) =>
    let n := s.cox.period
    let (s1, r) := s.newReq pl.kind x.slot x.plan p.partition s.fabNow none none true (s.partStep pl.kind p.partition)
    let f := s1.layout r p pl (sortNat (((s1.usable p.partition pl).filter (fun c => s1.freeCrew [] c n n)).take pl.crews)) n
    let k := s1.freeEntry
    if f.crews.length < pl.crews ∨ 64 ≤ k then s
    else
      let s2 := (s1.admitHeat r p pl f).modHeat k (fun h =>
        { h with serial := x.serial, spanStart := some x.start, state := .running, started := true })
      let s3 := s2.modCox (fun c => { c with nextSerial := s1.cox.nextSerial })
      let s4 := if pl.kind = .secondLook then s3.kvPin p.partition else s3
      s4.modSquad (fun q => { q with spans := q.spans.map (fun y => if y.serial = x.serial then { y with begun := true } else y) })

/-- SPAN_PART_START (R416): the first work period at or after the start time, the crews of the spanning heat before it released. -/
def execSpanPartStart (serial : BitVec 64) (s : State) : Host.Outcome State Fault Refusal :=
  lateEnd s
    (match s.follows, s.span? serial.toNat with
    | some _, some x =>
      if x.begun || !s.dev.state.runs || !s.isWork s.cox.period || decide (s.nowNs < x.start) then s else s.spanStarts x
    | _, _ => s)

/-- DONE (R416): a seat's part of a spanning heat has ended. -/
def execDone (seat : Fin 32) (serial : BitVec 64) (invalid : Bool) (s : State) : Host.Outcome State Fault Refusal :=
  let s1 := s.takeCtrl seat.val 9
  let s2 := s1.modSquad (fun q => { q with spans := q.spans.map (fun x =>
    if x.serial = serial.toNat then { x with waiting := clearMask x.waiting (2 ^ seat.val), invalid := x.invalid || invalid } else x) })
  lateEnd s (if s.isStroke then s2.spanEnds serial.toNat else s1)

/-! ### Decisions of the page manager (R337) -/

/-- A row of TD_STEP_IN read from its bytes (R328). -/
def readRow (b : Bytes) : KvRow :=
  let v := leNat (fit b 16)
  ⟨bits v 31 0, bits v 63 32, bits v 71 64, bits v 73 72, bits v 95 80, bits v 105 96, v.testBit 106⟩

/-- The rows of a decision. -/
def readRows (b : Bytes) : List KvRow := (List.range (b.length / 16)).map (fun i => readRow ((b.drop (16 * i)).take 16))

/-- One page that a sequence takes by decision: a page in use is shared; another is fresh, or the copy of one that the sequence
gives up. -/
def KvPart.takeDecided (k : KvPart) (slot : Nat) (src : Option Nat) (page : Nat) : KvPart :=
  match amGet? k.seqs slot with
  | none => k
  | some q =>
    let fresh : KvPage := ⟨1, 0, q.pages.length, q.entry.id, k.step + 1, [], []⟩
    match src with
    | some n =>
      let at_ := q.pages.findIdx? (fun x => decide (x = some n))
      let j := at_.getD q.pages.length
      let k1 : KvPart := { k with pages := amInsert k.pages page { fresh with logical := j }, copies := k.copies ++ [(n, page)] }
      let k2 := k1.modPage n (fun g => { g with ref := if at_.isSome then g.ref - 1 else g.ref, pin := g.pin + 1 })
      k2.modSeq slot (fun q => { q with pages := if at_.isSome then q.pages.set j (some page) else q.pages ++ [some page], resv := q.resv - 1 })
    | none =>
      if (amGet? k.pages page).isSome then
        (k.modPage page (fun g => { g with ref := g.ref + 1 })).modSeq slot (fun q => { q with pages := q.pages ++ [some page] })
      else
        ({ k with pages := amInsert k.pages page fresh }).modSeq slot (fun q => { q with pages := q.pages ++ [some page], resv := q.resv - 1 })

/-- A sequence joins by decision (R316, R331): what the seat knows of it is its number, and its crop from the step's rows. -/
def KvPart.joinDecided (k : KvPart) (r : SlRecipe) (rows : List KvRow) (slot id : Nat) : KvPart :=
  let crop := match rows.find? (fun x => x.slot == slot && decide (x.kind ≠ 0)) with | some x => x.crop | none => 0
  let (path, _) := k.walk r r.prefixPages 0 none
  let (m, f) := k.matched r
  let tree := path.foldl (fun (t : AMap KvNode) n => match amGet? t n with
    | some x => amInsert t n { x with score := k.step } | none => t) k.tree
  let e : KvEntry := ⟨id, 0, 0, crop, 0, 0, 0, 0, 0, 0, none, false, []⟩
  { k with
    tree := tree, nextJoin := k.nextJoin + 1
    seqs := amInsert k.seqs slot ⟨e, k.nextJoin, false, m, [], r.seqPages - f, [], k.step, [], false, false⟩ }

/-- The decisions of a boundary, applied in order (R330, R337): leaves, the pages of running sequences, evictions, reclaims, joins with
their pages, and the next step's rows. -/
def State.applyDecision (s : State) (part : Nat) (d : KvDecision) : State :=
  match s.slPlan part with
  | none => s
  | some (pslot, _, _, _, r) =>
    let rows := readRows d.rows
    let joining (e : Nat × Option Nat × Nat) : Bool := d.joins.any (fun j => j.1 == e.1)
    let take (l : List (Nat × Option Nat × Nat)) (k : KvPart) : KvPart := l.foldl (fun (k : KvPart) e => k.takeDecided e.1 e.2.1 e.2.2) k
    let s1 := s.modKv part (fun k => take (d.appends.filter (fun e => !joining e)) (d.leaves.foldl KvPart.leave k))
    let s2 := s1.each d.evicts (fun s e => s.evict part e.1 e.2 (s.kvPart part).step)
    let s3 := s2.each d.reclaims (fun s n => s.kvReclaim part n)
    let s4 := s3.modKv part (fun k =>
      let k1 := d.joins.foldl (fun (k : KvPart) j => k.joinDecided r rows j.1 j.2) k
      let k2 := take (d.appends.filter joining) k1
      let k3 := rows.foldl (fun (k : KvPart) x =>
        if x.kind = 0 then k else k.modSeq x.slot (fun q => { q with decode := q.decode || decide (r.prompt ≤ x.pos) })) k2
      { k3 with rows := rows, step := k.step + 1 })
    s4.setState pslot r.tdStep d.rows

/-- KV_DECISION (R337): the stroke seat's decisions, on a seat that follows it. -/
def execKvDecision (part : Fin 8) (d : KvDecision) (s : State) : Host.Outcome State Fault Refusal :=
  lateEnd s
    (match s.follows with
    | none => s
    | some x => if s.kvFollows then (s.takeCtrl x 0xA).applyDecision part.val d else s.takeCtrl x 0xA)

/-- KV_REPORT (R337): the masses and fill counts of a seat, kept until the boundary. -/
def execKvReport (seat : Fin 32) (part : Fin 8) (masses fills : List (Nat × Nat × Nat)) (s : State) :
    Host.Outcome State Fault Refusal :=
  let s1 := s.takeCtrl seat.val 0xB
  lateEnd s
    (if s.isStroke then s1.modSquad (fun q => { q with reports := q.reports ++ [(part.val, masses, fills)] }) else s1)

/-! ### Loads (R412) -/

/-- LOAD (R412): a container for a slot, or the order to unload one (notes/assumptions/25.md). A seat that is not INERT refuses it as
`RP_LOAD` does (R207). -/
def execLoad (slot : Fin 16) (container : Bytes) (unload : Bool) (s : State) : Host.Outcome State Fault Refusal :=
  lateEnd s
    (match s.follows with
    | none => s
    | some x =>
      let s1 := s.takeCtrl x 0xC
      if unload then s1.unload slot
      else if s1.dev.state ≠ .inert then s1.sendTo x (.loadResult Status.state.code s1.cox.lastFault)
      else
        match s1.loadAt (some slot) container with
        | (s2, none) => s2.sendTo x (.loadResult 0 0)
        | (s2, some f) => s2.sendTo x (.loadResult f.status.code f.word))

/-- LOAD_RESULT (R412): a seat's answer to the load under way. -/
def execLoadResult (seat : Fin 32) (status : BitVec 8) (fault : BitVec 32) (s : State) : Host.Outcome State Fault Refusal :=
  let s1 := s.takeCtrl seat.val 0xD
  lateEnd s
    (match s1.squad.load with
    | none => s1
    | some l =>
      if !l.waiting.testBit seat.val then s1
      else
        let good := decide (status = 0)
        let l2 : SqdLoad :=
          { l with
            waiting := clearMask l.waiting (2 ^ seat.val)
            loaded := if good then l.loaded ||| 2 ^ seat.val else l.loaded
            refused := if good then l.refused else l.refused ++ [(seat.val, status.toNat, fault.toNat)] }
        if l2.waiting = 0 then
          let (s2, st) := s1.squadLoadEnds l2
          s2.complete l2.reply st []
        else s1.modSquad (fun q => { q with load := some l2 }))

end Sys2Proof.Machine
end

