-- ==== Sys2Proof/Machine/BootRows.lean ====
section
/-! DEFINITION. Power, reset, supplies, temperature, the boot steps, and recovery (R9, R11, R12, R19, R28, R34, R562, R595 to R611, R616 to R618, R625 to R640). -/

namespace Sys2Proof.Machine

open Sys2Proof

/-! ### Power and reset (R28) -/

/-- Is the device powered and out of RESET? -/
def State.awake (s : State) : Bool := decide (s.dev.state ≠ .off) && decide (s.dev.state ≠ .reset)

/-- A device in RESET that nothing holds there leaves it (R28, R625). -/
def State.leaveReset (s : State) : State :=
  if s.dev.state = .reset ∧ s.mayBoot then s.enterBoot s.boot.record.cause else s

/-- POWER_UP (R28): the hull supplies come up while PORST_N is low. -/
def execPowerUp (s : State) : Host.Outcome State Fault Refusal :=
  lateEnd s
    (if s.dev.state = .off then
      (s.modDev (fun d =>
        { d with porstLow := true, brownOut := false, supplyOk := Vector.ofFn (fun i => decide (i.val < 10) || d.supplyOk[i]) })).toReset 0
    else s)

/-- PORST_N_ASSERT (R28). -/
def execPorstNAssert (s : State) : Host.Outcome State Fault Refusal :=
  let s1 := s.modDev (fun d => { d with porstLow := true })
  lateEnd s (if s.dev.state = .off then s1 else s1.toReset 1)

/-- PORST_N_RELEASE (R28): the cause of the boot is that of the RESET that ends. -/
def execPorstNRelease (s : State) : Host.Outcome State Fault Refusal :=
  lateEnd s (s.modDev (fun d => { d with porstLow := false })).leaveReset

/-- JTAG_RESET (R28, R631). -/
def execJtagReset (s : State) : Host.Outcome State Fault Refusal :=
  lateEnd s (if s.dev.state = .off then s else s.toReset 2)

/-- SUPPLY_LOSS (R28): OFF. What is not in the flash or the fuses is lost. -/
def execSupplyLoss (s : State) : Host.Outcome State Fault Refusal :=
  lateEnd s
    (if s.dev.state = .off then s
    else (s.wipe .off).modDev (fun d =>
      { d with brownOut := false, supplyOk := Vector.ofFn (fun i => decide (i.val = 10) && d.supplyOk[i]) }))

/-! ### Supplies (R624 to R626) -/

/-- The windows of the supplies in µV, in the order of R624 (`VFLDg` apart). -/
def supplyWindow : List (Nat × Nat) :=
  [(727500, 772500), (776000, 824000), (824500, 875500), (833000, 867000), (1140000, 1260000), (1710000, 1890000), (1710000, 1890000),
    (1018500, 1081500), (873000, 927000), (485000, 515000), (19200000, 30000000)]

/-- Is a reading of a supply in its window? -/
def inSupplyWindow (rail : Fin 11) (uv : Nat) : Bool :=
  let w := supplyWindow.getD rail.val (0, 0)
  decide (w.1 ≤ uv) && decide (uv ≤ w.2)

/-- Is a reading below the brown-out level of its supply (R625)? -/
def brownLevel (rail : Fin 11) (uv : Nat) : Bool :=
  (decide (rail.val = 0) && decide (uv < 650000)) || (decide (rail.val = 5) && decide (uv < 1550000))

/-- A supply is in its window, or not. -/
def State.setSupply (s : State) (rail : Fin 11) (ok : Bool) : State :=
  s.modDev (fun d => { d with supplyOk := d.supplyOk.set rail ok })

/-- A brown-out (R625). -/
def State.brownOut (s : State) (rail : Fin 11) : State :=
  ((s.setSupply rail false).modDev (fun d => { d with brownOut := true })).toReset 7

/-- SUPPLY_BROWNOUT (R625): `VDD_CORE`, or else `VDD_IO18`, has been at a level for 1 µs. -/
def execSupplyBrownout (io18 : Bool) (uv : BitVec 32) (s : State) : Host.Outcome State Fault Refusal :=
  let rail : Fin 11 := if io18 then 5 else 0
  lateEnd s (if s.dev.state ≠ .off ∧ brownLevel rail uv.toNat then s.brownOut rail else s)

/-- The rigger's supply or link is lost (R625): SAFE where the link has once been up since BOOT. -/
def State.riggerLost (s : State) : State := if s.field.rigOnceUp then s.safeCause 4 else s

/-- SUPPLY_OUT_OF_WINDOW (R624, R625, R634): a supply has stood at a level outside its window for more than 2 µs; with a level inside,
it has been back for 10 ms. The first matching row of R625 applies; VRIG gives cause RIGGER (notes/assumptions/63.md). -/
def execSupplyOutOfWindow (rail : Fin 11) (uv : BitVec 32) (s : State) : Host.Outcome State Fault Refusal :=
  lateEnd s
    (if s.dev.state = .off then s
    else if inSupplyWindow rail uv.toNat then (s.setSupply rail true).leaveReset
    else if brownLevel rail uv.toNat then s.brownOut rail
    else
      let s1 := s.setSupply rail false
      if !s1.awake then s1
      else if rail.val = 10 then s1.riggerLost
      else (s1.lint .SUP_GLITCH).safeCause 3)

/-- SUPPLY_GLITCH (R625): 100 ns to 2 µs outside the window. -/
def execSupplyGlitch (rail : Fin 11) (s : State) : Host.Outcome State Fault Refusal :=
  lateEnd s (if s.awake && decide (rail.val ≤ 10) then s.lint .SUP_GLITCH else s)

/-- RIGGER_LINK_LOSS (R625): `VRIG` outside its window, or the isolator link down. -/
def execRiggerLinkLoss (vrig : Bool) (s : State) : Host.Outcome State Fault Refusal :=
  lateEnd s
    (if s.dev.state = .off then s
    else
      let s1 := if vrig then s.setSupply 10 false else s.modField (fun f => { f with rigLink := false })
      if s1.awake then s1.riggerLost else s1)

/-- RIGGER_LINK_UP (R626): `VRIG` is applied and the link comes up, from boot step 2 on, with every output off. -/
def execRiggerLinkUp (s : State) : Host.Outcome State Fault Refusal :=
  lateEnd s
    (let s1 := s.setSupply 10 true
    if s1.awake && !(decide (s1.dev.state = .boot) && decide (s1.boot.record.lastStep < 2)) then
      s1.modField (fun f => { f with rigLink := true, rigOnceUp := true })
    else s1)

/-- RIGGER_HEARTBEAT_LOSS (R11, R40): every field output goes off and ENCO0 to ENCO3 are held low; the cause of SAFE is RIGGER. -/
def execRiggerHeartbeatLoss (s : State) : Host.Outcome State Fault Refusal :=
  lateEnd s
    (if s.dev.state = .off then s
    else
      let s1 := s.modField (fun f => { f with rigHold := true })
      if s1.awake then s1.safeCause 4 else s1)

/-- RIGGER_HEARTBEAT_RETURN (R11): the coach releases the hold. -/
def execRiggerHeartbeatReturn (s : State) : Host.Outcome State Fault Refusal :=
  lateEnd s (s.modField (fun f => { f with rigHold := false }))

/-- INTERNAL_RESET_RELEASE (R625): `VDD_CORE` and `VDD_IO18` have been back in their windows for 1 ms. -/
def execInternalResetRelease (s : State) : Host.Outcome State Fault Refusal :=
  lateEnd s
    (if s.dev.brownOut then (((s.setSupply 0 true).setSupply 5 true).modDev (fun d => { d with brownOut := false })).leaveReset else s)

/-! ### Clock, temperature, and the coach (R19, R562, R597, R634, R635) -/

/-- ROOT_PLL_UNLOCK (R19). -/
def execRootPllUnlock (s : State) : Host.Outcome State Fault Refusal :=
  lateEnd s (if s.awake then (s.modDev (fun d => { d with pllLocked := false })).safeCause 1 else s)

/-- What L_T falls by in 0.1 W for `d` tenths of a degree above `THERM_THROTTLE` (R635): exact where it is a whole number, else one of the
two beside it (notes/assumptions/62.md). -/
def thermFall (slope d : Nat) : Nat :=
  let x := slope * d
  if x % 10 = 0 then x / 10 else x / 10 + b2n (Config.thermUp x)

/-- L_T in 0.1 W (R635). -/
def State.thermLimit (s : State) : Nat :=
  let d := s.tjMax - s.sint .THERM_THROTTLE 0
  if d ≤ 0 then 4200 else max (s.num .PWR_BASE 0) (4200 - thermFall (s.num .THERM_SLOPE 0) d.toNat)

/-- THERM_SAMPLE (R634, R635, R638): the sensors in 0.1 °C, the power in 0.1 W and the currents in mA. -/
def execThermSample (temps : Vector (BitVec 16) 34) (power : BitVec 16) (rails : Vector (BitVec 32) 12) (s : State) :
    Host.Outcome State Fault Refusal :=
  lateEnd s
    (if !s.awake then s
    else
      let s1 := s.modDev (fun d =>
        { d with sensors := temps.map BitVec.toInt, measured := power.toNat, rails := rails.map BitVec.toNat })
      let s2 := s1.modDev (fun d => { d with admitLimit := s1.thermLimit })
      if s2.dev.sensors.toList.any (fun t => decide (1150 ≤ t)) then s2.safeCause 0 else s2)

/-- COACH_WATCHDOG_EXPIRY (R28, R597): the ledger keeps the boot step in progress. -/
def execCoachWatchdogExpiry (s : State) : Host.Outcome State Fault Refusal :=
  lateEnd s (if s.awake then s.toReset 3 else s)

/-- COACH_HEARTBEAT_MISS (R562): two heartbeats of a pair in a row are missing. The pairs check each other from boot step 6 on. -/
def execCoachHeartbeatMiss (pair : Fin 2) (s : State) : Host.Outcome State Fault Refusal :=
  lateEnd s
    (if s.awake && !(decide (s.dev.state = .boot) && decide (s.boot.record.lastStep < 6)) && decide (pair.val < 2) then s.safeCause 7
    else s)

/-- LOCKSTEP_MISMATCH (R562). -/
def execLockstepMismatch (pair : Fin 2) (s : State) : Host.Outcome State Fault Refusal :=
  lateEnd s (if s.awake && decide (pair.val < 2) then s.safeCause 2 else s)

/-! ### The boot steps (R596 to R611) -/

/-- The ledger record that a boot begins (R598 to R600): an update that was begun and not done stays noted. -/
def State.newRecord (s : State) : State :=
  let p := s.boot.flash.newest
  s.modRecord (fun r =>
    { LedgerRec.init with
      cause := r.cause, lastStep := r.lastStep
      bootCount := (match p with | some x => x.bootCount | none => 0) + 1
      consecFail := match p with | some x => if x.result = 0 then 0 else min 255 (x.consecFail + 1) | none => 0
      update := match p with | some x => if x.update = 1 then 1 else 0 | none => 0
      updVersion := match p with | some x => if x.update = 1 then x.updVersion else 0 | none => 0 })

/-- The device enters RECOVERY from a step with a failure code (R28, R597, R617): the record is appended; FNET0 runs in the stored mode where the
stored entries are good. -/
def State.enterRecovery (s : State) (step code : Nat) : State :=
  let s0 := if s.boot.record.bootCount = 0 then s.newRecord else s
  let s1 := (s0.modRecord (fun r => { r with result := 1, failStep := step, failCode := code })).ledger
  let mode := (s1.boot.flash.copyA.or s1.boot.flash.copyB).bind (fun c => amGet? c.values (Ent.FNET_MODE.key 0 0))
  let s2 := match mode with | some v => s1.setVal .FNET_MODE 0 0 v | none => s1
  (s2.modFnet 0 (fun f => { f with on := true })).modDev (fun d => { d with state := .recovery })

/-- A step that fails otherwise leads to RESET (R597). -/
def State.stepFails (s : State) (code : Nat) : State := (s.bootFail code).toReset 3

/-- A step begins: from step 3 on its record is appended (R599). -/
def State.beginStep (s : State) (n item : Nat) : State :=
  let s1 := s.modRecord (fun r => { r with lastStep := n, item := item })
  if 3 < n then s1.ledger else s1

/-- Step 1 (R606): the fuse words. -/
def State.bootStep1 (s : State) (r : StepReport) : State :=
  let s1 := s.lintBy .BOOT_FUSE_CE 0 r.corrected.toNat
  if r.fuseBad then s1.enterRecovery 1 3 else if r.good then s1 else s1.stepFails 0

/-- Step 2 (R18, R626): the root PLL locks; the rigger link comes up where `VRIG` stands in its window. -/
def State.bootStep2 (s : State) (r : StepReport) : State :=
  if r.good then
    let up := s.dev.supplyOk[10]
    (s.modDev (fun d => { d with pllLocked := true })).modField (fun f => { f with rigLink := up, rigOnceUp := up })
  else (s.modDev (fun d => { d with pllLocked := false })).stepFails 0

/-- Step 3 (R599, R600): the path of this boot. -/
def State.bootStep3 (s : State) : State :=
  let p := s.boot.flash.newest
  let s1 := (s.newRecord).ledger
  match p with
  | none => s1
  | some x =>
    let open_ := decide (x.result = 2)
    if 3 ≤ x.consecFail + 1 ∧ x.result ≠ 0 then s1.enterRecovery 3 0
    else if x.update = 1 then s1.modBoot (fun b => { b with checkFlash := true })
    else if (open_ ∧ x.lastStep = 4) ∨ x.failStep = 4 then s1.modBoot (fun b => { b with fullTrain := true })
    else if open_ ∧ x.lastStep = 8 then s1.modBoot (fun b => { b with skipCrew := some x.item })
    else if open_ ∧ x.lastStep = 9 then
      s1.modBoot (fun b =>
        { b with
          skipSlot := some x.item
          flash := { b.flash with store := b.flash.store.map (fun q => if q.slot = x.item then { q with quarantined := true } else q) } })
    else s1

/-- Step 4 (R596, R600): full training clears LPDDR5, or self-refresh ends. -/
def State.bootStep4 (s : State) (r : StepReport) : State :=
  let full := !s.boot.warm || s.boot.fullTrain
  let s1 := s.modRecord (fun x => { x with fullTrain := full })
  if !r.good then s1.stepFails 4
  else if full then { s1 with mem := { s1.mem with lpddr := Mem.init.lpddr, lpddrErr := Mem.init.lpddrErr } }
  else s1

/-- The image in the flash: its area up to the length that its header gives (R602). -/
def Flash.fwImage (f : Flash) : Bytes := f.image.take (fieldAt f.image 16 4)

/-- Step 5 (R600, R604, R607): the firmware image. -/
def State.bootStep5 (s : State) : State :=
  match s.fwCheck s.boot.flash.fwImage with
  | .good f =>
    let s1 := (s.modBoot (fun b => { b with running := some f })).modRecord (fun r => { r with fwVersion := f.version })
    if s1.boot.checkFlash then (s1.modRecord (fun r => { r with update := 2, updDone := true })).ledger else s1
  | .rollback => s.enterRecovery 5 2
  | _ => s.enterRecovery 5 1

/-- The copy of the stored entries that is used (R601), and whether it is copy B. -/
def Flash.usedCopy (f : Flash) : Option (StoredCopy × Bool) :=
  match f.copyA, f.copyB with
  | some a, some b => some (if b.seq ≤ a.seq then (a, false) else (b, true))
  | some a, none => some (a, false)
  | none, some b => some (b, true)
  | none, none => none

/-- Stored values come into effect (R601). -/
def State.restoreStored (s : State) (m : AMap OdVal) : State :=
  let k := Ent.SAF_LOST_US.key 0 0
  let s1 := s.modSaf (fun f => { f with storedLostUs := match amGet? m k with | some (.num n) => n | _ => 0 })
  s1.each (m.filter (fun e => e.1 != k)) (fun s e => s.setKey e.1 e.2)

/-- Step 7 (R488, R601): the stored entries, the object dictionary server, FNET0 and FNET1; a bad copy is written again from the
other. -/
def State.bootStep7 (s : State) (r : StepReport) : State :=
  if !r.good then s.stepFails 5
  else
    let s1 := match s.boot.flash.usedCopy with
      | some (c, b) =>
        let fix (f : Flash) : Flash := { f with copyA := some (f.copyA.getD c), copyB := some (f.copyB.getD c) }
        ((s.modRecord (fun r => { r with copyB := b })).restoreStored c.values).modBoot (fun x => { x with flash := fix x.flash })
      | none => s.modRecord (fun r => { r with defaults := true })
    let s2 := s1.modBoot (fun b => { b with serverUp := true })
    let s3 := s2.each (allFin 2) (fun s p => s.fnetRestart p)
    { s3 with fnet := { s3.fnet with gmId := s3.clockId } }

/-- Step 8 (R571, R596, R600): the full rinse; units that fail are taken out of service. -/
def State.bootStep8 (s : State) (r : StepReport) : State :=
  if !r.good then s.stepFails 7
  else
    let s1 := match s.boot.skipCrew with | some c => s.takeOut (.crew c) | none => s
    let s2 := s1.each r.failed State.takeOut
    s2.each s2.supervised (fun s x =>
      s.modSaf (fun f => { f with status := if h : x.num < 75 then f.status.set x.num s.now else f.status }))

/-- A package does not survive the boot (R609, R611). -/
def State.dropPackage (s : State) (i : Fin 16) : State := (s.unload i).lint .BOOT_PKG_DROP

/-- A stored package is quarantined (R600, R609). -/
def State.quarantine (s : State) (slot : Nat) : State :=
  s.modBoot (fun b => { b with flash := { b.flash with
    store := b.flash.store.map (fun q => if q.slot = slot then { q with quarantined := true } else q) } })

/-- Step 9 of a cold boot (R609): the entries of the stored packages, and the packages in ascending slot order. -/
def State.reloadStored (s : State) : State :=
  let s1 := s.each s.boot.flash.storeEntries (fun s e => s.setKey e.1 e.2)
  s1.each (allFin 16) (fun s i =>
    match s.boot.flash.store.find? (fun q => q.slot == i.val && !q.quarantined) with
    | none => s
    | some q =>
      if s.boot.skipSlot = some i.val then s
      else match s.loadAt (some i) q.container with
        | (t, none) => t
        | (t, some _) => (t.quarantine i.val).lint .BOOT_PKG_DROP)

/-- Is the package of a slot kept through a warm boot (R600, R611)? -/
def State.keeps (s : State) (r : StepReport) (i : Fin 16) (p : Package) : Bool :=
  let table := match s.boot.slotTable with | some t => t.good && t.slots.contains i.val | none => false
  table && s.boot.selfRefresh && !s.boot.fullTrain && s.boot.skipSlot != some i.val && !r.lost.contains i &&
    !(s.fuse 512 1).testBit (4 + p.ownerKey) && decide (rollback (s.fuse 521 8) ≤ p.secVersion) &&
    decide (p.minCrews ≤ s.crewsIn.length)

/-- Step 9 of a warm boot (R610, R611): packages are kept or unloaded; the entries of partitions without one return to their defaults. -/
def State.keepPackages (s : State) (r : StepReport) : State :=
  let s1 := s.each (allFin 16) (fun s i =>
    match s.cox.packages[i] with
    | some p => if s.keeps r i p then s else s.dropPackage i
    | none => s)
  let has (p : Nat) : Bool := s1.loaded.any (fun q => q.partition == p)
  let gone (k : Nat) : Bool := (List.range 8).any (fun p => partKey p k && !has p)
  let s2 : State := { s1 with od := { s1.od with committed := s1.od.committed.filter (fun e => !gone e.1) } }
  s2.modRecord (fun x => { x with kept := !s2.loaded.isEmpty })

/-- Step 9 (R609 to R611). -/
def State.bootStep9 (s : State) (r : StepReport) : State :=
  if !r.good then s.stepFails 6 else if s.boot.warm then s.keepPackages r else s.reloadStored

/-- Step 10 (R28, R34, R598): INERT, or SAFE where THERM or RIGGER is latched. -/
def State.bootStep10 (s : State) : State :=
  let s1 := (s.modRecord (fun r => { r with result := 0, consecFail := 0 })).ledger
  let s2 := (s1.modBoot (fun b => { b with warm := false, slotTable := none, selfRefresh := false })).modDev (fun d => { d with state := .inert })
  if s2.dev.safeCause = 0 then s2 else s2.enterSafe (if s2.dev.safeCause.testBit 0 then 0 else 4)

/-- The crew or the slot that a step names as in progress when it begins (R598; notes/assumptions/64.md). -/
def State.stepItem (s : State) (n : Nat) : Nat :=
  match n with
  | 8 => ((List.range s.crewCount).find? (fun c => s.boot.skipCrew != some c)).getD 0xFF
  | 9 =>
    ((List.range 16).find? (fun i =>
      if s.boot.warm then ((toFin? 16 i).bind (fun j => s.cox.packages[j])).isSome
      else s.boot.flash.store.any (fun q => q.slot == i && !q.quarantined))).getD 0xFF
  | _ => 0xFF

/-- BOOT_STEP (R596): the next step of BOOT begins, and does its work with what it meets. -/
def execBootStep (r : StepReport) (s : State) : Host.Outcome State Fault Refusal :=
  if s.dev.state ≠ .boot then .next s
  else
    let n := s.boot.record.lastStep + 1
    let s1 := s.beginStep n (s.stepItem n)
    lateEnd s
      (match n with
      | 1 => s1.bootStep1 r
      | 2 => s1.bootStep2 r
      | 3 => s1.bootStep3
      | 4 => s1.bootStep4 r
      | 5 => s1.bootStep5
      | 6 => if r.good then s1 else s1.stepFails 0
      | 7 => s1.bootStep7 r
      | 8 => s1.bootStep8 r
      | 9 => s1.bootStep9 r
      | _ => s1.bootStep10)

/-! ### The boot flash from outside (R12, R595) -/

/-- Bytes written over a list from an offset on; a gap reads as blank flash (notes/assumptions/4.md). -/
def overlay (b : Bytes) (o : Nat) (d : Bytes) : Bytes :=
  fit b o ++ d ++ b.drop (o + d.length)

/-- Bytes written over a ring of ledger records from an offset on: the records touched, one after the other. -/
def ringWrite (m : AMap Bytes) (o : Nat) (d : Bytes) : AMap Bytes :=
  if d.isEmpty then m
  else ((List.range ((o + d.length - 1) / 64 + 1 - o / 64)).map (· + o / 64)).foldl (fun (m : AMap Bytes) k =>
    let lo := max o (64 * k)
    let hi := min (o + d.length) (64 * k + 64)
    amInsert m k (fit (overlay (fit (amGet m k []) 64) (lo - 64 * k) (slice d (lo - o) (hi - lo))) 64)) m

/-- The part of a write at `a` that falls into the area from `lo` up to `hi`: its offset in the area and its bytes. -/
def areaPart (a : Nat) (d : Bytes) (lo hi : Nat) : Option (Nat × Bytes) :=
  let x := max a lo
  let y := min (a + d.length) hi
  if x < y then some (x - lo, slice d (x - a) (y - x)) else none

/-- A write through the external interface, area by area (R595). -/
def Flash.programmed (f : Flash) (a : Nat) (d : Bytes) (draw : Nat) : Flash :=
  let at_ (lo hi : Nat) (g : Flash → Nat → Bytes → Flash) (f : Flash) : Flash :=
    match areaPart a d lo hi with | some (o, b) => g f o b | none => f
  let f1 := at_ 0 0x10000 (fun f o b => { f with factory := overlay f.factory o b }) f
  let f2 := at_ 0x10000 0x50000 (fun f o b => { f with ledgerA := ringWrite f.ledgerA o b }) f1
  let f3 := at_ 0x50000 0x90000 (fun f o b => { f with ledgerB := ringWrite f.ledgerB o b }) f2
  let f4 := at_ 0x90000 0xD0000 (fun f o b => { f with copyA := Config.copyAfter f.copyA o b draw }) f3
  let f5 := at_ 0xD0000 0x110000 (fun f o b => { f with copyB := Config.copyAfter f.copyB o b draw }) f4
  let f6 := at_ 0x110000 0x1910000 (fun f o b => { f with image := overlay f.image o b }) f5
  at_ 0x1910000 0x4000000 (fun f o b => { f with store := Config.storeAfter f.store o b draw }) f6

/-- BOARD_PROGRAMMER_FLASH_WRITE (R12, R595): the interface reaches the flash while the device is held in RESET; elsewhere its pins are
high-impedance. -/
def execBoardProgrammerFlashWrite (addr : BitVec 32) (data : Bytes) (s : State) : Host.Outcome State Fault Refusal :=
  if s.dev.state ≠ .reset then .next s
  else if 0x4000000 < addr.toNat + data.length then .fault (.noSuchFlashAddress (max addr.toNat 0x4000000))
  else settled ((s.modBoot (fun b => { b with flash := b.flash.programmed addr.toNat data s.fresh })).draw)

/-! ### Recovery (R617, R618) -/

/-- Update recovery. -/
def State.modRecovery (s : State) (f : Recovery → Recovery) : State := s.modBoot (fun b => { b with recovery := f b.recovery })

/-- The bytes of a recovery response (R513, R617): KIND 0x3, SESSION 0xFFFF, TAG 0. -/
def recoveryBytes (r : Request) (st : Status) (data : Bytes) : Bytes :=
  let f (c : Nat) := packBytes 40 [(4, 1), (4, 3), (8, r.op.toNat), (1, 0), (1, 0), (1, 0), (5, 0), (8, st.code), (16, 0xFFFF), (16, 0),
    (32, r.env.reqId.toNat), (16, r.index.toNat), (8, r.sub.toNat), (8, 0), (64, r.offset.toNat), (16, data.length), (16, 0), (32, 0),
    (32, c), (32, 0)]
  f (crc32c (f 0 ++ data)) ++ data

/-- A recovery message leaves: on PCIe into cell 0 of mailbox 0 (R543, R617), on the field network by queue Q0 (R487). -/
def State.recoverySend (s : State) (itf peer reqId : Nat) (msg : Bytes) : State :=
  let s1 := s.emit (.response itf peer msg)
  if itf = 2 then { s1 with pci := { s1.pci with cells := amInsert s1.pci.cells 0 (reqId, msg) } }
  else s1.queueMessage 0 itf peer msg

/-- Answer the owner: the response is kept where R516 says so (R519). -/
def State.recoveryAnswer (s : State) (r : Request) (st : Status) (data : Bytes) : State :=
  let msg := recoveryBytes r st data
  let id := r.env.reqId.toNat
  let s1 := s.modRecovery (fun x =>
    let l := x.stored.filter (fun e => inWindow e.1 x.high && e.1 != id)
    { x with stored := if st.kept then (id, msg) :: l else l })
  s1.recoverySend r.env.itf.val r.env.peer.toNat id msg

/-- Is a recovery message good (R513, R617)? -/
def Request.recoveryGood (r : Request) : Bool :=
  decide (r.env.check.toNat = requestCrc r) && r.env.kind == 3 && r.env.version == 1 && r.env.session == 0xFFFF && r.env.tag == 0 &&
    reservedZero r.env && decide (r.data.length ≤ 1424) && decide (r.length.toNat = r.data.length)

/-- Does a message come on an interface of R617: FNET0 over Ethertype 0x88B5, or mailbox 0 of PCIe? -/
def State.recoveryItf (s : State) (e : Envelope) : Bool :=
  (e.itf == 0 && decide (e.peer.toNat / 2 ^ 48 = 0)) || (e.itf == 2 && mailboxOf e == 0 && s.pci.rate != 0)

/-- The image that recovery holds, where a fuse block without an uncorrectable word lets one pass (R606). -/
def State.recoveryCheck (s : State) (b : Bytes) : FwCheck :=
  match s.fwCheck b with
  | .good f => if s.boot.record.failCode = 3 then .verification else .good f
  | c => c

/-- DATA (R524, R618). -/
def State.recoveryData (s : State) (r : Request) : State :=
  let x := s.boot.recovery
  let ofs := r.offset.toNat
  let have_ : Bytes := if ofs = 0 then [] else x.assembly
  if x.installing.isSome then s.recoveryAnswer r .busy []
  else if ofs ≠ have_.length ∨ 25165824 < ofs + r.data.length ∨ (ofs ≠ 0 ∧ x.complete) then
    (s.modRecovery (fun x => { x with assembly := [], complete := false })).recoveryAnswer r .range []
  else (s.modRecovery (fun x => { x with assembly := have_ ++ r.data, complete := r.env.last })).recoveryAnswer r .ok []

/-- INSTALL (R615, R616, R618): the answer follows the readback. -/
def State.recoveryInstall (s : State) (r : Request) : State :=
  let x := s.boot.recovery
  if x.installing.isSome then s.recoveryAnswer r .busy []
  else
    match s.recoveryCheck (if x.complete then x.assembly else []) with
    | .good f =>
      ((s.modBoot (fun b => { b with staged := some f, fwStatus := 1 })).installBegin f).modRecovery (fun x =>
        { x with installing := some r.env.reqId.toNat })
    | .format => s.recoveryAnswer r .range []
    | _ => s.recoveryAnswer r .auth []

/-- A message of the owner (R519, R618). -/
def State.recoveryOwn (s : State) (r : Request) : State :=
  let x := s.boot.recovery
  let id := r.env.reqId.toNat
  let d := reqDist id x.high
  match (x.stored.find? (fun e => e.1 == id)).filter (fun _ => inWindow id x.high) with
  | some e => s.recoverySend r.env.itf.val r.env.peer.toNat id (withDup e.2)
  | none =>
    if x.installing = some id then s.recoverySend r.env.itf.val r.env.peer.toNat id (recoveryBytes r .dup [])
    else if r.op = 1 then
      let led := match s.boot.flash.newest with | some l => l.bytes | none => zeros 64
      (s.modRecovery (fun x => { x with high := id })).recoveryAnswer r .ok (led ++ memReadN s.boot.fuses 529 16)
    else if d ≤ -64 then s.recoveryAnswer r .stale []
    else
      let s1 := s.modRecovery (fun x => { x with high := if 0 < d then id else x.high })
      if r.op = 2 then s1.recoveryData r
      else if r.op = 3 then s1.recoveryInstall r
      else if r.op = 4 then
        (if x.installed then (s1.recoveryAnswer r .ok []).enterBoot 6 else s1.recoveryAnswer r .state [])
      else s1.recoveryAnswer r .range []

/-- A recovery message arrives (R617, R618). Before any HELLO nobody owns recovery (notes/assumptions/65.md). -/
def State.recoveryMsg (s : State) (r : Request) : State :=
  if s.dev.state ≠ .recovery ∨ ¬ s.recoveryItf r.env ∨ ¬ Request.recoveryGood r then s
  else
    let me := (r.env.peer.toNat, r.env.itf.val)
    let bare (st : Status) : State := s.recoverySend r.env.itf.val r.env.peer.toNat r.env.reqId.toNat (recoveryBytes r st [])
    match s.boot.recovery.owner with
    | some o => if o = me then s.recoveryOwn r else bare .busy
    | none =>
      if r.op = 1 then
        (s.modRecovery (fun x => { x with owner := some me, high := r.env.reqId.toNat, stored := [] })).recoveryOwn r
      else bare .state

/-- A recovery request as its message carries it. -/
def recReq (e : Envelope) (op : BitVec 8) (offset : BitVec 64) (data : Bytes) : Request :=
  ⟨e, op, 0, 0, offset, BitVec.ofNat 16 data.length, data⟩

/-- RECOVERY_HELLO (R618), or a message with a reserved OP, which is answered ERR_RANGE. -/
def execRecoveryHello (e : Envelope) (op : BitVec 8) (s : State) : Host.Outcome State Fault Refusal :=
  lateEnd s (s.recoveryMsg (recReq e op 0 []))

/-- RECOVERY_DATA (R524, R618). -/
def execRecoveryData (e : Envelope) (offset : BitVec 64) (data : Bytes) (s : State) : Host.Outcome State Fault Refusal :=
  lateEnd s (s.recoveryMsg (recReq e 2 offset data))

/-- RECOVERY_INSTALL (R616, R618). -/
def execRecoveryInstall (e : Envelope) (s : State) : Host.Outcome State Fault Refusal :=
  lateEnd s (s.recoveryMsg (recReq e 3 0 []))

/-- RECOVERY_BOOT (R618). -/
def execRecoveryBoot (e : Envelope) (s : State) : Host.Outcome State Fault Refusal :=
  lateEnd s (s.recoveryMsg (recReq e 4 0 []))

/-- RECOVERY_OWNER_TIMEOUT (R618): 60 s without a message of the owner. -/
def execRecoveryOwnerTimeout (s : State) : Host.Outcome State Fault Refusal :=
  lateEnd s
    (if s.dev.state = .recovery then s.modRecovery (fun x => { x with owner := none, stored := [] }) else s)

/-- The install of recovery has ended: its owner is answered (R618). -/
def State.recoveryInstalled (s : State) : State :=
  let x := s.boot.recovery
  match x.installing, x.owner with
  | some id, some (peer, itf) =>
    if s.boot.fwStatus = 2 then s
    else
      let good := decide (s.boot.fwStatus = 3)
      let st : Status := if good then .ok else if Config.recoveryRange s.fresh then .range else .auth
      let s1 := if good then s else s.draw
      let e : Envelope := ⟨if itf = 2 then 2 else 0, BitVec.ofNat 64 peer, 1, 3, false, false, false, 0, 0, 0xFFFF, 0, BitVec.ofNat 32 id, 0, 0, 0, 0, 0⟩
      (s1.modRecovery (fun x => { x with installing := none, installed := good })).recoveryAnswer (recReq e 3 0 []) st []
  | some _, none =>
    if s.boot.fwStatus = 2 then s
    else s.modRecovery (fun x => { x with installing := none, installed := decide (s.boot.fwStatus = 3) })
  | none, _ => s

/-- INSTALL_COMPLETE (R616, R618): the readback has ended; `good` if it compares equal. -/
def execInstallComplete (good : Bool) (s : State) : Host.Outcome State Fault Refusal :=
  match s.boot.staged with
  | some f => if s.installing then lateEnd s (s.installEnd f good).recoveryInstalled else .next s
  | none => .next s

end Sys2Proof.Machine
end

