-- ==== Sys2Proof/Machine/PciRows.lean ====
section
/-! DEFINITION. The cyclic image, the mailboxes, the bulk aperture, the transfer lists and the reset of the PCIe function (R531 to R556). -/

namespace Sys2Proof.Machine

open Sys2Proof

/-! ### The cyclic image (R531 to R536) -/

/-- Update the cyclic image. -/
def State.modCyc (s : State) (f : Cyclic → Cyclic) : State := { s with cyc := f s.cyc }

/-- A value of the image is written as a LIVE write (R535); false where it fails its entry's checks. -/
def State.imageWrite (s : State) (v : Nat) (data : Bytes) : State × Bool :=
  match resolve s.crewCount (mapIndex v) (mapSub v) with
  | some (.ent e i k) =>
    let x : OdVal := .num (leNat data)
    if e.rsvOk x && e.rangeOk i k x && s.writeAllowed e i then (s.setVal e i k x, true) else (s, false)
  | _ => (s, false)

/-- The latest accepted image is applied in map order (R535). -/
def State.applyImage (s : State) : State :=
  match s.cyc.latest with
  | none => s
  | some b =>
    let s1 := s.each (s.mapUsed true) (fun s e =>
      match mapSpan s.crewCount true e.2 with
      | some (ofs, n) =>
        let (t, ok) := s.imageWrite e.2 (slice b ofs n)
        if ok then t else t.lint .CYC_RX_REJECT
      | none => s)
    s1.modCyc (fun c => { c with latest := none, wdFlag := false })

/-- The start time in nanoseconds of cycle 0 (R531). -/
def State.cycBase (s : State) : Nat :=
  let b := s.byt .CYC_BASE 0
  fieldAt b 0 8 * 1000000000 + fieldAt b 8 4

/-- CYCLE_START (R531, R535, R536): committed cyclic changes take effect, the latest image is applied, and the cycle start without a new
image is counted. -/
def execCycleStart (s : State) : Host.Outcome State Fault Refusal :=
  let s1 := s.applyWaiting (inGroup 0x16)
  if !s1.flag .CYC_ENABLE 0 || decide (s1.nowNs < s1.cycBase) then lateEnd s s1
  else
    let k := (s1.nowNs - s1.cycBase) / s1.num .CYC_PERIOD_NS 0
    let s2 := (s1.applyImage).modCyc (fun c => { c with cycle := k % 2 ^ 32, started := true, missed := c.missed + 1 })
    lateEnd s s2

/-- The TX image (R532, R534): every mapped value at its place, zero elsewhere. -/
def State.txImage (s : State) : Bytes :=
  (s.mapUsed false).foldl (fun (b : Bytes) e =>
    match mapSpan s.crewCount false e.2, resolve s.crewCount (mapIndex e.2) (mapSub e.2) with
    | some (ofs, n), some ob => b.take ofs ++ fit ((s.readObj ob).enc n) n ++ b.drop (ofs + n)
    | _, _ => b) (zeros (s.mapLen false))

/-- A cyclic header with its CHECK (R533). -/
def cycFrame (dir : Bool) (image : Bytes) (cycle state : Nat) (fault unsync wd : Bool) : Bytes :=
  let h (c : Nat) := packBytes 16 [(4, 1), (4, 2), (1, b2n dir), (7, 0), (16, image.length), (32, cycle), (8, state), (1, b2n fault),
    (1, b2n unsync), (1, b2n wd), (21, 0), (32, c)]
  h (crc32c (h 0 ++ image)) ++ image

/-- TX_IMAGE_SNAPSHOT (R534): the image of the cycle in progress is read at one instant and queued in Q3. -/
def execTxImageSnapshot (s : State) : Host.Outcome State Fault Refusal :=
  match toFin? 2 (s.num .CYC_PORT 0) with
  | some p =>
    if s.flag .CYC_ENABLE 0 && s.cyc.started && s.fnet.ports[p].on then
      let fault : Bool := match s.readField .FIO_COMMON_FAULT 0 with | .num n => n != 0 | .bytes _ => false
      let b := cycFrame false s.txImage s.cyc.cycle s.dev.state.code fault s.unsync s.cyc.wdFlag
      let peer := s.num .CYC_PEER_MAC 0
      settled (s.queueFrame p 3 (s.ethOut p (if peer = 0 then bcastAddr else peer) (some (s.num .FNET_PCP_CYC p.val)) 0x88B5 b) none)
    else .next s
  | none => .next s

/-- Is a received image accepted (R535)? -/
def State.imageGood (s : State) (port : Fin 2) (f : EthFrame) : Bool :=
  let b := f.payload
  let h := fieldAt b 0 16
  let n := bits h 31 16
  let peer := s.num .CYC_PEER_MAC 0
  s.flag .CYC_ENABLE 0 && port.val == s.num .CYC_PORT 0 && (peer == 0 || f.src == peer) && f.etype == 0x88B5 &&
    bits h 3 0 == 1 && bits h 7 4 == 2 && h.testBit 8 && n == s.mapLen true && decide (16 + n ≤ b.length) &&
    crc32c (slice b 0 12 ++ zeros 4 ++ slice b 16 n) == bits h 127 96 &&
    (!s.cyc.anyAccepted || decide (0 < asInt 32 ((bits h 63 32 + 2 ^ 32 - s.cyc.lastCycle) % 2 ^ 32)))

/-- RX_IMAGE_RECEIVE (R486, R535): an image frame with a good FCS. -/
def execRxImageReceive (port : Fin 2) (frame : Bytes) (s : State) : Host.Outcome State Fault Refusal :=
  if ¬ s.fnet.ports[port].on then .next s
  else if ¬ s.accepts port frame then settled (s.dropFrame port true)
  else
    let f := ethFrame frame
    if s.imageGood port f then
      settled (s.modCyc (fun c =>
        { c with
          anyAccepted := true, lastCycle := bits (fieldAt f.payload 0 16) 63 32, missed := 0, tripped := false
          latest := some (slice f.payload 16 (s.mapLen true)) }))
    else settled (s.lint .CYC_RX_DROP)

/-- WATCHDOG_TRIP (R536): once, after `CYC_WD_CYCLES` cycle starts without an accepted image. -/
def execWatchdogTrip (s : State) : Host.Outcome State Fault Refusal :=
  let n := s.num .CYC_WD_CYCLES 0
  if !s.flag .CYC_ENABLE 0 || n == 0 || s.cyc.tripped || decide (s.cyc.missed < n) then .next s
  else
    let s1 := (s.modCyc (fun c => { c with tripped := true, wdFlag := true })).lint .CYC_WD
    if s1.num .CYC_WD_ACTION 0 = 1 then
      lateEnd s (s1.each (s1.mapUsed true) (fun s e =>
        match resolve s.crewCount (mapIndex e.2) (mapSub e.2) with
        | some (.ent x i k) => s.setVal x i k (x.dflt s.part i k)
        | _ => s))
    else lateEnd s s1

/-! ### Mailboxes (R542, R543) -/

/-- The request in a cell of a mailbox (R513, R542). -/
def readRequest (mailbox : Nat) (m : Bytes) : Request :=
  let v := fieldAt m 0 40
  let f (hi lo : Nat) : Nat := bits v hi lo
  let e : Envelope := ⟨2, BitVec.ofNat 64 mailbox, BitVec.ofNat 4 (f 3 0), BitVec.ofNat 4 (f 7 4), v.testBit 16, v.testBit 17, v.testBit 18,
    BitVec.ofNat 5 (f 23 19), BitVec.ofNat 8 (f 31 24), BitVec.ofNat 16 (f 47 32), BitVec.ofNat 16 (f 63 48), BitVec.ofNat 32 (f 95 64),
    BitVec.ofNat 8 (f 127 120), BitVec.ofNat 16 (f 223 208), BitVec.ofNat 32 (f 255 224), BitVec.ofNat 32 (f 287 256),
    BitVec.ofNat 32 (f 319 288)⟩
  let n := f 207 192
  ⟨e, BitVec.ofNat 8 (f 15 8), BitVec.ofNat 16 (f 111 96), BitVec.ofNat 8 (f 119 112), BitVec.ofNat 64 (f 191 128), BitVec.ofNat 16 n,
    if f 15 8 = 4 then [] else slice m 40 n⟩

/-- GO_WORD_WRITE (R543). -/
def execGoWordWrite (mailbox : Fin 16) (cell : Fin 8) (message : Bytes) (go : BitVec 32) (s : State) : Host.Outcome State Fault Refusal :=
  if !s.boot.serverUp || s.pci.rate == 0 then .next s
  else if s.pci.busy.any (fun b => b.1 == mailbox.val && b.2.1 == cell.val) then settled (s.lint .PCI_GO_BUSY)
  else
    let r := readRequest mailbox.val message
    if r.env.reqId ≠ go then settled (s.lint .OD_CHECK)
    else
      let s1 : State := { s with pci := { s.pci with busy := (mailbox.val, cell.val, go.toNat) :: s.pci.busy } }
      lateEnd s (s1.receive r)

/-! ### The bulk aperture (R544, R545) -/

/-- Why an aperture access is refused (R544): 1 Unsupported Request, 4 Completer Abort. -/
def State.apertureFault (s : State) (write : Bool) (ofs len : Nat) : Option Nat :=
  let size := s.lpddrSize
  let part := s.num .PCI_BULK_PART 0
  let granules := (List.range ((ofs + len - 1) / 2097152 + 1 - ofs / 2097152)).map (· + ofs / 2097152)
  if size < ofs + len ∨ size ≤ ofs then some 1
  else if size < ofs + len + 536870912 then some 4
  else if part = 0xFF ∨ granules.any (fun g => !decide (s.granuleOwner 4 (g * 2097152) = some part)) then some 4
  else if write ∧ s.dev.state ≠ .inert ∧ s.dev.state ≠ .armed then some 4
  else none

/-- The groups that a range of LPDDR5 touches. -/
def groupsOf (ofs len : Nat) : List Nat :=
  if len = 0 then [] else (List.range ((ofs + len - 1) / 1984 + 1 - ofs / 1984)).map (· + ofs / 1984)

/-- Read a range of LPDDR5 group by group (R186, R545). -/
def State.bulkRead (s : State) (ofs len : Nat) : State × Bytes :=
  let (t, b) := (groupsOf ofs len).foldl (fun (acc : State × Bytes) g =>
    let (t, d, _, _) := acc.1.readGroup g []
    (t, acc.2 ++ d)) (s, [])
  (t, slice b (ofs % 1984) len)

/-- Write a range of LPDDR5: whole groups, and a group in part by a read and a write of it (R187). -/
def State.bulkWrite (s : State) (ofs : Nat) (data : Bytes) : State :=
  s.each (groupsOf ofs data.length) (fun s g =>
    let lo := max ofs (1984 * g)
    let hi := min (ofs + data.length) (1984 * g + 1984)
    let piece := slice data (lo - ofs) (hi - lo)
    if hi - lo = 1984 then s.writeGroup g piece
    else
      let (t, d, _, _) := s.readGroup g []
      t.writeGroup g (d.take (lo - 1984 * g) ++ piece ++ d.drop (hi - 1984 * g)))

/-- BULK_APERTURE_READ (R540, R544). -/
def execBulkApertureRead (offset : BitVec 64) (length : BitVec 32) (s : State) : Host.Outcome State Fault Refusal :=
  if s.pci.rate = 0 ∨ length = 0 then .next s
  else if s.dev.state = .recovery then settled (s.emit (.aperture 1 []))
  else match s.apertureFault false offset.toNat length.toNat with
    | some c => settled ((s.lint .PCI_BULK_REFUSED).emit (.aperture c []))
    | none =>
      let (t, b) := s.bulkRead offset.toNat length.toNat
      finish s (t.emit (.aperture 0 b))

/-- BULK_APERTURE_WRITE (R540, R544): a refused write is reported as a Completer Abort. -/
def execBulkApertureWrite (offset : BitVec 64) (data : Bytes) (s : State) : Host.Outcome State Fault Refusal :=
  if s.pci.rate = 0 ∨ data = [] then .next s
  else if s.dev.state = .recovery then settled (s.emit (.aperture 1 []))
  else match s.apertureFault true offset.toNat data.length with
    | some _ => settled ((s.lint .PCI_BULK_REFUSED).emit (.aperture 4 []))
    | none => finish s (s.bulkWrite offset.toNat data)

/-! ### Transfer lists (R549 to R552) -/

/-- The entry of a list that may run now, where its OP is the row's. -/
def State.listEntry (s : State) (id op : Nat) : Option (XList × XlEntry) :=
  match s.xlist? id with
  | none => none
  | some l =>
    match l.entries[l.pos]? with
    | some e => if e.op = op ∧ l.result.isNone ∧ ¬ l.waits ∧ ¬ l.abort then some (l, e) else none
    | none => none

/-- The entry in progress has been executed: its response code and the bytes it moved. -/
def State.entryDone (s : State) (id code bytes : Nat) : State :=
  s.modList id (fun l => { l with result := some code, lastBytes := bytes, run := if code = 0 then l.run else [] })

/-- A host read of an entry has failed (R550). -/
def State.hostError (s : State) (id bytes : Nat) : State := (s.lint .PCI_DMA_ERR).entryDone id Status.access.code bytes

/-- What an OD_WRITE entry's checks find before its value is whole (R520 step 6, R549). -/
def State.runStart (s : State) (l : XList) (e : XlEntry) (ob : Obj) : Option Status :=
  let control : Bool := match s.session? l.session with | some x => x.role == 1 | none => false
  let load := placeKey e.index e.sub == Ent.RP_LOAD.key 0 0
  if !s.writeAccess 2 control ob e.index e.sub then some .access
  else if !l.run.isEmpty then none
  else if e.more && !s.firstState ob then some .state
  else if load && s.firstState ob && s.loadAssembly none (some l.id) then some .busy
  else none

/-- OD_WRITE (R549, R550): `host` is what the host memory delivered, `good` unless the read ended in an error. -/
def execOdWrite (list : BitVec 32) (host : Bytes) (good : Bool) (s : State) : Host.Outcome State Fault Refusal :=
  let id := list.toNat
  match s.listEntry id 1 with
  | none => .next s
  | some (l, e) =>
    match resolve s.crewCount e.index e.sub with
    | none => lateEnd s (s.entryDone id Status.noobj.code 0)
    | some ob =>
      match s.runStart l e ob with
      | some st => lateEnd s (s.entryDone id st.code 0)
      | none =>
        if !good then lateEnd s (s.hostError id (min host.length e.len))
        else
          let b := l.run ++ fit host e.len
          let long : Bool := match ob with | .ent x _ _ => decide (x.row.ty = .domain) && decide (s.maxLen x < b.length) | _ => false
          if e.more then
            if long then lateEnd s (s.entryDone id Status.range.code e.len)
            else lateEnd s ((s.modList id (fun l => { l with run := b })).entryDone id 0 e.len)
          else
            let s1 := s.modList id (fun l => { l with run := [], lastBytes := e.len })
            match s1.lengthFault ob b.length with
            | some st => lateEnd s (s1.entryDone id st.code e.len)
            | none =>
              let p := s1.writeObj (.list id) (some l.session) none e.index e.sub ob b
              if p.later then lateEnd s (p.state.modList id (fun l => { l with waits := true }))
              else lateEnd s (p.state.entryDone id p.status.code e.len)

/-- OD_READ (R549). -/
def execOdRead (list : BitVec 32) (s : State) : Host.Outcome State Fault Refusal :=
  let id := list.toNat
  match s.listEntry id 2 with
  | none => .next s
  | some (_, e) =>
    match resolve s.crewCount e.index e.sub with
    | none => lateEnd s (s.entryDone id Status.noobj.code 0)
    | some ob =>
      if ob.access = .wo then lateEnd s (s.entryDone id Status.access.code 0)
      else
        let (t, v) := s.takeValue ob false
        let b := v.enc ob.ty.size
        if e.len < b.length then lateEnd s (s.entryDone id Status.range.code 0)
        else lateEnd s ((t.emit (.hostWrite e.host b)).entryDone id 0 b.length)

/-- The bytes of a transfer that come before the first 4 KiB that R544 refuses (R550), and whether there is such a piece. -/
def State.bulkAllowed (s : State) (write : Bool) (ofs len : Nat) : Nat × Bool :=
  match (List.range ((len + 4095) / 4096)).find? (fun i => (s.apertureFault write (ofs + 4096 * i) (min 4096 (len - 4096 * i))).isSome) with
  | some i => (4096 * i, true)
  | none => (len, false)

/-- A bulk entry ends: refused at some piece with a status that the manual does not name (notes/assumptions/59.md), or done. -/
def State.bulkDone (s : State) (id n : Nat) (refused : Bool) : State :=
  if refused then ((s.lint .PCI_BULK_REFUSED).draw).entryDone id ((Config.bulkEntryStatus s.fresh).val + 1) n
  else s.entryDone id 0 n

/-- BULK_IN (R544, R549). -/
def execBulkIn (list : BitVec 32) (host : Bytes) (good : Bool) (s : State) : Host.Outcome State Fault Refusal :=
  let id := list.toNat
  match s.listEntry id 3 with
  | none => .next s
  | some (_, e) =>
    let len := if good then e.len else min host.length e.len
    let (n, refused) := s.bulkAllowed true e.bulk len
    let t := s.bulkWrite e.bulk ((fit host e.len).take n)
    if !good && !refused then lateEnd s (t.hostError id n) else lateEnd s (t.bulkDone id n refused)

/-- BULK_OUT (R544, R549). -/
def execBulkOut (list : BitVec 32) (s : State) : Host.Outcome State Fault Refusal :=
  let id := list.toNat
  match s.listEntry id 4 with
  | none => .next s
  | some (_, e) =>
    let (n, refused) := s.bulkAllowed false e.bulk e.len
    let (t, b) := s.bulkRead e.bulk n
    lateEnd s ((if n = 0 then t else t.emit (.hostWrite e.host b)).bulkDone id n refused)

/-- The whole unread records, oldest first, that `n` bytes hold. -/
def recordsIn : Nat → List Bytes → List Bytes
  | _, [] => []
  | n, r :: l => if r.length ≤ n then r :: recordsIn (n - r.length) l else []

/-- ARCHIVE (R549, R553). -/
def execArchive (list : BitVec 32) (s : State) : Host.Outcome State Fault Refusal :=
  let id := list.toNat
  match s.listEntry id 5 with
  | none => .next s
  | some (_, e) =>
    let l := recordsIn e.len s.pci.archive.unread
    let b := l.flatten
    let s1 : State := { s with pci := { s.pci with archive := { s.pci.archive with
      unread := s.pci.archive.unread.drop l.length, read := s.pci.archive.read + l.length } } }
    lateEnd s ((if l.isEmpty then s1 else s1.emit (.hostWrite e.host b)).entryDone id 0 b.length)

/-- A list ends (R551, R552): its completion record, and vector 1; nothing where its session has closed. -/
def State.listEnds (s : State) (l : XList) (st failed done : Nat) : State :=
  let s1 : State := { s with pci := { s.pci with lists := s.pci.lists.filter (fun x => x.id != l.id) } }
  if l.silent then s1
  else
    let record := packBytes 16 [(4, 1), (4, 0), (8, st), (16, failed), (32, l.id), (9, done), (23, 0), (32, l.lastBytes)]
    let s2 := s1.emit (.hostWrite l.compl record)
    if l.irq then s2.emit (.msix 1) else s2

/-- XL_ENTRY_COMPLETE (R550 to R552): the list goes to its next entry, or ends. -/
def execXlEntryComplete (list : BitVec 32) (s : State) : Host.Outcome State Fault Refusal :=
  match s.xlist? list.toNat with
  | none => .next s
  | some l =>
    match l.result with
    | none =>
      if l.abort && !l.waits then lateEnd s ((if l.silent then s else s.lint .PCI_XL_ABORT).listEnds l Status.state.code 0xFFFF l.pos) else .next s
    | some 0 =>
      if l.pos + 1 = l.entries.length then lateEnd s (s.listEnds l 0 0xFFFF (l.pos + 1))
      else if l.abort then
        lateEnd s ((if l.silent then s else s.lint .PCI_XL_ABORT).listEnds l Status.state.code 0xFFFF (l.pos + 1))
      else lateEnd s (s.modList l.id (fun l => { l with pos := l.pos + 1, result := none, waits := false }))
    | some c =>
      let s1 : State := { s with pci := { s.pci with fault := l.id + l.pos * 2 ^ 32 + c * 2 ^ 48 } }
      lateEnd s (s1.listEnds l c l.pos l.pos)

/-! ### The PCIe function (R540, R556) -/

/-- PCIE_FUNCTION_RESET (R540, R556, R557): the sessions of interface 2 close and the lists stop; the link then stands at a rate and a
width, or is down (rate 0). It is served from the boot step that starts the server, and in RECOVERY. -/
def execPcieFunctionReset (rate width : BitVec 4) (s : State) : Host.Outcome State Fault Refusal :=
  let up := (s.boot.serverUp || decide (s.dev.state = .recovery)) && decide (1 ≤ rate.toNat) && decide (rate.toNat ≤ 5) &&
    (width == 1 || width == 2 || width == 4 || width == 8)
  let s1 := s.each ((List.range 16).map (· + 32)) (fun s h => if (s.session? h).isSome then s.closeSession h else s)
  lateEnd s { s1 with pci := { s1.pci with
    rate := if up then rate.toNat else 0, width := if up then width.toNat else 0, busy := [], cells := [], lists := [] } }

end Sys2Proof.Machine
end

