-- ==== Sys2Proof/Machine/Dispatch.lean ====
section
/-! DEFINITION. One arm for each command: its meaning, or its rejection by name. -/

namespace Sys2Proof.Machine

open Sys2Proof

def exec (i : Instr) (s : State) : Host.Outcome State Fault Refusal :=
  match i with
  | .powerUp => Sys2Proof.Machine.execPowerUp s
  | .porstNAssert => Sys2Proof.Machine.execPorstNAssert s
  | .porstNRelease => Sys2Proof.Machine.execPorstNRelease s
  | .jtagReset => Sys2Proof.Machine.execJtagReset s
  | .supplyLoss => Sys2Proof.Machine.execSupplyLoss s
  | .supplyBrownout io18 uv => Sys2Proof.Machine.execSupplyBrownout io18 uv s
  | .supplyOutOfWindow rail uv => Sys2Proof.Machine.execSupplyOutOfWindow rail uv s
  | .supplyGlitch rail => Sys2Proof.Machine.execSupplyGlitch rail s
  | .riggerLinkLoss vrig => Sys2Proof.Machine.execRiggerLinkLoss vrig s
  | .riggerLinkUp => Sys2Proof.Machine.execRiggerLinkUp s
  | .riggerHeartbeatLoss => Sys2Proof.Machine.execRiggerHeartbeatLoss s
  | .riggerHeartbeatReturn => Sys2Proof.Machine.execRiggerHeartbeatReturn s
  | .rootPllUnlock => Sys2Proof.Machine.execRootPllUnlock s
  | .thermSample temps power rails => Sys2Proof.Machine.execThermSample temps power rails s
  | .coachWatchdogExpiry => Sys2Proof.Machine.execCoachWatchdogExpiry s
  | .coachHeartbeatMiss pair => Sys2Proof.Machine.execCoachHeartbeatMiss pair s
  | .lockstepMismatch pair => Sys2Proof.Machine.execLockstepMismatch pair s
  | .bootStep r => Sys2Proof.Machine.execBootStep r s
  | .commandNone e => Sys2Proof.Machine.execNone e s
  | .arm e => Sys2Proof.Machine.execArm e s
  | .armDone => Sys2Proof.Machine.execArmDone s
  | .disarm e => Sys2Proof.Machine.execDisarm e s
  | .start e => Sys2Proof.Machine.execStart e s
  | .stop e => Sys2Proof.Machine.execStop e s
  | .stopToArmed => Sys2Proof.Machine.execStopToArmed s
  | .safe e => Sys2Proof.Machine.execSafe e s
  | .safeAck e => Sys2Proof.Machine.execSafeAck e s
  | .warmRestart e => Sys2Proof.Machine.execWarmRestart e s
  | .reset e => Sys2Proof.Machine.execReset e s
  | .openSession e data => Sys2Proof.Machine.execOpen e data s
  | .closeSession e => Sys2Proof.Machine.execClose e s
  | .keepalive e => Sys2Proof.Machine.execKeepalive e s
  | .read e index sub offset length => Sys2Proof.Machine.execRead e index sub offset length s
  | .write e index sub offset data => Sys2Proof.Machine.execWrite e index sub offset data s
  | .info e index sub => Sys2Proof.Machine.execInfo e index sub s
  | .readAndClear e index sub => Sys2Proof.Machine.execReadAndClear e index sub s
  | .sessionTimeout handle => Sys2Proof.Machine.execSessionTimeout handle s
  | .commit e group => Sys2Proof.Machine.execCommit e group s
  | .discard e group => Sys2Proof.Machine.execDiscard e group s
  | .commitTakeEffect group => Sys2Proof.Machine.execCommitTakeEffect group s
  | .cycleStart => Sys2Proof.Machine.execCycleStart s
  | .txImageSnapshot => Sys2Proof.Machine.execTxImageSnapshot s
  | .rxImageReceive port frame => Sys2Proof.Machine.execRxImageReceive port frame s
  | .watchdogTrip => Sys2Proof.Machine.execWatchdogTrip s
  | .goWordWrite mailbox cell message go => Sys2Proof.Machine.execGoWordWrite mailbox cell message go s
  | .bulkApertureRead offset length => Sys2Proof.Machine.execBulkApertureRead offset length s
  | .bulkApertureWrite offset data => Sys2Proof.Machine.execBulkApertureWrite offset data s
  | .pciXlSubmit e offset data => Sys2Proof.Machine.execPciXlSubmit e offset data s
  | .pciXlAbort e value => Sys2Proof.Machine.execPciXlAbort e value s
  | .odWrite list host good => Sys2Proof.Machine.execOdWrite list host good s
  | .odRead list => Sys2Proof.Machine.execOdRead list s
  | .bulkIn list host good => Sys2Proof.Machine.execBulkIn list host good s
  | .bulkOut list => Sys2Proof.Machine.execBulkOut list s
  | .archive list => Sys2Proof.Machine.execArchive list s
  | .xlEntryComplete list => Sys2Proof.Machine.execXlEntryComplete list s
  | .pcieFunctionReset rate width => Sys2Proof.Machine.execPcieFunctionReset rate width s
  | .camLineEnd port beats fval lost time mono pos => Sys2Proof.Machine.execCamLineEnd port beats fval lost time mono pos s
  | .camTriggerTimeout port => Sys2Proof.Machine.execCamTriggerTimeout port s
  | .camTrigDeferred port => Sys2Proof.Machine.execCamTrigDeferred port s
  | .blankingPeriodEnd port beats => Sys2Proof.Machine.execBlankingPeriodEnd port beats s
  | .swathClose port => Sys2Proof.Machine.execSwathClose port s
  | .mangleSwathDone port => Sys2Proof.Machine.execMangleSwathDone port s
  | .roiListBuild port => Sys2Proof.Machine.execRoiListBuild port s
  | .swathBufferRelease port => Sys2Proof.Machine.execSwathBufferRelease port s
  | .rpLoad e offset data => Sys2Proof.Machine.execRpLoad e offset data s
  | .rpUnload e value => Sys2Proof.Machine.execRpUnload e value s
  | .coxBgRequest e value => Sys2Proof.Machine.execCoxBgRequest e value s
  | .rotaPeriodBoundary => Sys2Proof.Machine.execRotaPeriodBoundary s
  | .saveDone => Sys2Proof.Machine.execSaveDone s
  | .restoreDone good => Sys2Proof.Machine.execRestoreDone good s
  | .settleComplete crew => Sys2Proof.Machine.execSettleComplete crew s
  | .regulatorWindow => Sys2Proof.Machine.execRegulatorWindow s
  | .refreshSlot channel => Sys2Proof.Machine.execRefreshSlot channel s
  | .scrubGroup group flips => Sys2Proof.Machine.execScrubGroup group flips s
  | .lpddrGroupRead group flips k crew stroke pass bad => Sys2Proof.Machine.execLpddrGroupRead group flips k crew stroke pass bad s
  | .lpddrGroupWrite group offset data => Sys2Proof.Machine.execLpddrGroupWrite group offset data s
  | .streamTransfer k sd crew stroke pass data ecc bad => Sys2Proof.Machine.execStreamTransfer k sd crew stroke pass data ecc bad s
  | .weightTileLoad crew shell sub pass kblock packet => Sys2Proof.Machine.execWeightTileLoad crew shell sub pass kblock packet s
  | .wavefrontEnter crew shell sub pass kblock row packet upset rails => Sys2Proof.Machine.execWavefrontEnter crew shell sub pass kblock row packet upset rails s
  | .heldPacketRelease crew shell sub => Sys2Proof.Machine.execHeldPacketRelease crew shell sub s
  | .rowReadout crew shell row upset differ => Sys2Proof.Machine.execRowReadout crew shell row upset differ s
  | .foldPass k stroke pass differ => Sys2Proof.Machine.execFoldPass k stroke pass differ s
  | .scullPass k stroke pass error => Sys2Proof.Machine.execScullPass k stroke pass error s
  | .sweepPass k stroke pass error => Sys2Proof.Machine.execSweepPass k stroke pass error s
  | .cropCut k stroke pass => Sys2Proof.Machine.execCropCut k stroke pass s
  | .pressEncode k stroke pass row block => Sys2Proof.Machine.execPressEncode k stroke pass row block s
  | .pressDecode k stroke block => Sys2Proof.Machine.execPressDecode k stroke block s
  | .strokeComplete k stroke => Sys2Proof.Machine.execStrokeComplete k stroke s
  | .heatComplete k sub unread => Sys2Proof.Machine.execHeatComplete k sub unread s
  | .publicationRelease part => Sys2Proof.Machine.execPublicationRelease part s
  | .decodeRequest part => Sys2Proof.Machine.execDecodeRequest part s
  | .retuneStepRequest part => Sys2Proof.Machine.execRetuneStepRequest part s
  | .oarInvocationStart k stroke pass sliver => Sys2Proof.Machine.execOarInvocationStart k stroke pass sliver s
  | .oarLoadStore crew oar ecc => Sys2Proof.Machine.execOarLoadStore crew oar ecc s
  | .oarAccessReturn crew oar ecc => Sys2Proof.Machine.execOarAccessReturn crew oar ecc s
  | .slvGet crew oar => Sys2Proof.Machine.execSlvGet crew oar s
  | .slvPut crew oar ecc => Sys2Proof.Machine.execSlvPut crew oar ecc s
  | .slvSend crew oar => Sys2Proof.Machine.execSlvSend crew oar s
  | .slvSendResume crew oar => Sys2Proof.Machine.execSlvSendResume crew oar s
  | .slvRecv crew oar => Sys2Proof.Machine.execSlvRecv crew oar s
  | .slvRecordArrive crew oar right => Sys2Proof.Machine.execSlvRecordArrive crew oar right s
  | .slvBar crew oar => Sys2Proof.Machine.execSlvBar crew oar s
  | .slvBarComplete crew oar => Sys2Proof.Machine.execSlvBarComplete crew oar s
  | .pminuB crew oar => Sys2Proof.Machine.execPminuB crew oar s
  | .pmaxuB crew oar => Sys2Proof.Machine.execPmaxuB crew oar s
  | .paddusB crew oar => Sys2Proof.Machine.execPaddusB crew oar s
  | .psubusB crew oar => Sys2Proof.Machine.execPsubusB crew oar s
  | .pcmpgeuB crew oar => Sys2Proof.Machine.execPcmpgeuB crew oar s
  | .psadB crew oar => Sys2Proof.Machine.execPsadB crew oar s
  | .fcvtSBf crew oar => Sys2Proof.Machine.execFcvtSBf crew oar s
  | .fcvtBfS crew oar => Sys2Proof.Machine.execFcvtBfS crew oar s
  | .fcvtSHf crew oar => Sys2Proof.Machine.execFcvtSHf crew oar s
  | .fcvtHfS crew oar => Sys2Proof.Machine.execFcvtHfS crew oar s
  | .frmWrite crew oar => Sys2Proof.Machine.execFrmWrite crew oar s
  | .ecall crew oar => Sys2Proof.Machine.execEcall crew oar s
  | .ebreak crew oar => Sys2Proof.Machine.execEbreak crew oar s
  | .illegalInstruction crew oar => Sys2Proof.Machine.execIllegalInstruction crew oar s
  | .oarBudgetExpire crew oar => Sys2Proof.Machine.execOarBudgetExpire crew oar s
  | .kvBoundary part => Sys2Proof.Machine.execKvBoundary part s
  | .kvCancel e partition value => Sys2Proof.Machine.execKvCancel e partition value s
  | .kvTreeFlush e partition value => Sys2Proof.Machine.execKvTreeFlush e partition value s
  | .detGenIn e offset data => Sys2Proof.Machine.execDetGenIn e offset data s
  | .detReplaySwath e partition offset data => Sys2Proof.Machine.execDetReplaySwath e partition offset data s
  | .detReplaySeq e partition offset data => Sys2Proof.Machine.execDetReplaySeq e partition offset data s
  | .detReplayState e partition offset data => Sys2Proof.Machine.execDetReplayState e partition offset data s
  | .squelchOpen port => Sys2Proof.Machine.execSquelchOpen port s
  | .commaBlock port lane inverted gap skewPs => Sys2Proof.Machine.execCommaBlock port lane inverted gap skewPs s
  | .trainBlock port lane payload => Sys2Proof.Machine.execTrainBlock port lane payload s
  | .equalizeEvaluation port lane height width => Sys2Proof.Machine.execEqualizeEvaluation port lane height width s
  | .skipBlock port => Sys2Proof.Machine.execSkipBlock port s
  | .easyBlock port => Sys2Proof.Machine.execEasyBlock port s
  | .rackBlock port => Sys2Proof.Machine.execRackBlock port s
  | .bringupTimeout port => Sys2Proof.Machine.execBringupTimeout port s
  | .failedRetry port => Sys2Proof.Machine.execFailedRetry port s
  | .commaMissing port lane => Sys2Proof.Machine.execCommaMissing port lane s
  | .easyIdleExpire port => Sys2Proof.Machine.execEasyIdleExpire port s
  | .easyExit port => Sys2Proof.Machine.execEasyExit port s
  | .rack e port => Sys2Proof.Machine.execRack e port s
  | .wake e port => Sys2Proof.Machine.execWake e port s
  | .injectSingle e port lanes => Sys2Proof.Machine.execInjectSingle e port lanes s
  | .injectPeriodic e port lanes => Sys2Proof.Machine.execInjectPeriodic e port lanes s
  | .injectStop e port lanes => Sys2Proof.Machine.execInjectStop e port lanes s
  | .periodicInjection port => Sys2Proof.Machine.execPeriodicInjection port s
  | .cellReceive port blocks full => Sys2Proof.Machine.execCellReceive port blocks full s
  | .replayTimeout port => Sys2Proof.Machine.execReplayTimeout port s
  | .nakExpire port => Sys2Proof.Machine.execNakExpire port s
  | .ackDue port => Sys2Proof.Machine.execAckDue port s
  | .timeExchangeStart phase => Sys2Proof.Machine.execTimeExchangeStart phase s
  | .timeRequest port body phase turn => Sys2Proof.Machine.execTimeRequest port body phase turn s
  | .timeResponse port body phase good => Sys2Proof.Machine.execTimeResponse port body phase good s
  | .hello h => Sys2Proof.Machine.execHello h s
  | .topology port seat links => Sys2Proof.Machine.execTopology port seat links s
  | .form members version epoch routes => Sys2Proof.Machine.execForm members version epoch routes s
  | .formAck seat epoch fault => Sys2Proof.Machine.execFormAck seat epoch fault s
  | .formTimeout => Sys2Proof.Machine.execFormTimeout s
  | .heartbeatSend => Sys2Proof.Machine.execHeartbeatSend s
  | .heartbeat seat devState sqdState crews => Sys2Proof.Machine.execHeartbeat seat devState sqdState crews s
  | .memberLost seat => Sys2Proof.Machine.execMemberLost seat s
  | .broken sender lost cause => Sys2Proof.Machine.execBroken sender lost cause s
  | .command code => Sys2Proof.Machine.execCommand code s
  | .commandDone seat status armFault => Sys2Proof.Machine.execCommandDone seat status armFault s
  | .admitHeat serial slot plan start => Sys2Proof.Machine.execAdmit serial slot plan start s
  | .spanPartStart serial => Sys2Proof.Machine.execSpanPartStart serial s
  | .done seat serial invalid => Sys2Proof.Machine.execDone seat serial invalid s
  | .kvDecision part d => Sys2Proof.Machine.execKvDecision part d s
  | .kvReport seat part masses fills => Sys2Proof.Machine.execKvReport seat part masses fills s
  | .load slot container unload => Sys2Proof.Machine.execLoad slot container unload s
  | .loadResult seat status fault => Sys2Proof.Machine.execLoadResult seat status fault s
  | .filterTick mv hot wire => Sys2Proof.Machine.execFilterTick mv hot wire s
  | .overload n => Sys2Proof.Machine.execOverload n s
  | .overtemp n => Sys2Proof.Machine.execOvertemp n s
  | .groupLimit g ma => Sys2Proof.Machine.execGroupLimit g ma s
  | .openLoad n => Sys2Proof.Machine.execOpenLoad n s
  | .openWire n => Sys2Proof.Machine.execOpenWire n s
  | .fieldSupplyFault g mv => Sys2Proof.Machine.execFieldSupplyFault g mv s
  | .fieldSupplyClear g mv => Sys2Proof.Machine.execFieldSupplyClear g mv s
  | .faultRetry n => Sys2Proof.Machine.execFaultRetry n s
  | .fioAck e n value => Sys2Proof.Machine.execFioAck e n value s
  | .fioForceOff e value => Sys2Proof.Machine.execFioForceOff e value s
  | .encCount n a b dt => Sys2Proof.Machine.execEncCount n a b dt s
  | .divPulseDeferred e => Sys2Proof.Machine.execDivPulseDeferred e s
  | .fireOffTime id => Sys2Proof.Machine.execFireOffTime id s
  | .encReference n => Sys2Proof.Machine.execEncReference n s
  | .wireFault n => Sys2Proof.Machine.execWireFault n s
  | .quadFault n => Sys2Proof.Machine.execQuadFault n s
  | .overspeedFault n => Sys2Proof.Machine.execOverspeedFault n s
  | .encAck e n value => Sys2Proof.Machine.execEncAck e n value s
  | .timeSlotEvent n => Sys2Proof.Machine.execTimeSlotEvent n s
  | .pulseWidthEnd out => Sys2Proof.Machine.execPulseWidthEnd out s
  | .fireStopAck e value => Sys2Proof.Machine.execFireStopAck e value s
  | .fnetLinkChange port up rate => Sys2Proof.Machine.execFnetLinkChange port up rate s
  | .ptpMessage port frame fcs phase => Sys2Proof.Machine.execPtpMessage port frame fcs phase s
  | .ptpMessageInterval port kind => Sys2Proof.Machine.execPtpMessageInterval port kind s
  | .tsMeasurementMissing => Sys2Proof.Machine.execTsMeasurementMissing s
  | .holdoverExpire => Sys2Proof.Machine.execHoldoverExpire s
  | .tsSet e offset data => Sys2Proof.Machine.execTsSet e offset data s
  | .arpRequest port frame fcs => Sys2Proof.Machine.execArpRequest port frame fcs s
  | .icmpEcho port frame fcs => Sys2Proof.Machine.execIcmpEcho port frame fcs s
  | .gateCycleStart port => Sys2Proof.Machine.execGateCycleStart port s
  | .frameTransmit port phase => Sys2Proof.Machine.execFrameTransmit port phase s
  | .heatOvertime k => Sys2Proof.Machine.execHeatOvertime k s
  | .swathWatchdog port cnt => Sys2Proof.Machine.execSwathWatchdog port cnt s
  | .rinseSliceDone slice failed block => Sys2Proof.Machine.execRinseSliceDone slice failed block s
  | .rinseOverdue slice => Sys2Proof.Machine.execRinseOverdue slice s
  | .engineMismatch what => Sys2Proof.Machine.execEngineMismatch what s
  | .controlMismatch => Sys2Proof.Machine.execControlMismatch s
  | .safEventAck e value => Sys2Proof.Machine.execSafEventAck e value s
  | .lostTimeStore => Sys2Proof.Machine.execLostTimeStore s
  | .bootFwImage e offset data => Sys2Proof.Machine.execBootFwImage e offset data s
  | .bootFwInstall e value => Sys2Proof.Machine.execBootFwInstall e value s
  | .installComplete good => Sys2Proof.Machine.execInstallComplete good s
  | .bootRbAdvance e offset data => Sys2Proof.Machine.execBootRbAdvance e offset data s
  | .bootOwnerKey e offset data => Sys2Proof.Machine.execBootOwnerKey e offset data s
  | .bootRevoke e value => Sys2Proof.Machine.execBootRevoke e value s
  | .bootAttestNonce e offset data => Sys2Proof.Machine.execBootAttestNonce e offset data s
  | .attestReportReady => Sys2Proof.Machine.execAttestReportReady s
  | .bootPkgStore e value => Sys2Proof.Machine.execBootPkgStore e value s
  | .bootPkgUnstore e value => Sys2Proof.Machine.execBootPkgUnstore e value s
  | .recoveryHello e op => Sys2Proof.Machine.execRecoveryHello e op s
  | .recoveryData e offset data => Sys2Proof.Machine.execRecoveryData e offset data s
  | .recoveryInstall e => Sys2Proof.Machine.execRecoveryInstall e s
  | .recoveryBoot e => Sys2Proof.Machine.execRecoveryBoot e s
  | .recoveryOwnerTimeout => Sys2Proof.Machine.execRecoveryOwnerTimeout s
  | .rtAdd e partition offset data => Sys2Proof.Machine.execRtAdd e partition offset data s
  | .rtRemove e partition value => Sys2Proof.Machine.execRtRemove e partition value s
  | .rtPublish e partition value => Sys2Proof.Machine.execRtPublish e partition value s
  | .rtRestart e partition value => Sys2Proof.Machine.execRtRestart e partition value s
  | .internalResetRelease => Sys2Proof.Machine.execInternalResetRelease s
  | .openWireClear n => Sys2Proof.Machine.execOpenWireClear n s
  | .openLoadClear n => Sys2Proof.Machine.execOpenLoadClear n s
  | .oarBaseInstruction crew oar => Sys2Proof.Machine.execOarBaseInstruction crew oar s
  | .patternCheckerSync port lane rx => Sys2Proof.Machine.execPatternCheckerSync port lane rx s
  | .fnetFrameDiscard port frame fcs full => Sys2Proof.Machine.execFnetFrameDiscard port frame fcs full s
  | .boardProgrammerFlashWrite addr data => Sys2Proof.Machine.execBoardProgrammerFlashWrite addr data s

end Sys2Proof.Machine
end

