-- ==== Sys2Proof/Machine/Step.lean ====
section
/-! DEFINITION. One step of the machine: the command at the front of the queue, or one cycle of CK_TS. -/

namespace Sys2Proof.Machine

open Sys2Proof

/-- The machine as a waiting command finds it: the queue without that command. -/
def State.popped (s : State) (q : List Instr) : State := { s with pending := q }

/-- A step: with a command waiting, its effect on the machine with the queue's rest; with none, one cycle of CK_TS passes
(notes/assumptions/1.md). -/
def step (s : State) : Host.Outcome State Fault Refusal :=
  match s.pending with
  | c :: q => exec c (s.popped q)
  | [] => .next s.idleCycle

/-- The command that a word spells, put at the front of the queue; no row of the table gives bits, so no word spells one. -/
def State.withFetchWord (s : State) (nbits w : Nat) : State :=
  match decodeTableWord nbits w with
  | some c => { s with pending := c :: s.pending }
  | none => s

end Sys2Proof.Machine
end

