-- ==== Sys2Proof/Safety.lean ====
section
/-! DEFINITION. What counts as a good state, in the terms that claims use. -/

namespace Sys2Proof.Machine

open Sys2Proof

/-- RUN is held exactly while every unit is in service, DEGRADED while one is not (R28: the ZH680 is in DEGRADED while it is
admitting and any unit is out of service). -/
def State.Graded (s : State) : Prop :=
  (s.dev.state = .run → s.anyOos = false) ∧ (s.dev.state = .degraded → s.anyOos = true)

/-- Nothing waits beside the queue of commands: no session has a request that could run, and no command of the squad is under way
(R408, R521). -/
def State.Settled (s : State) : Prop := s.idleWork = none ∧ s.squad.cmd = none

/-- The states in which a cause of SAFE leads to SAFE (R28, R33), with no transition of ARM under way and nothing waiting. -/
structure State.Guarded (s : State) : Prop where
  state : s.dev.state = .inert ∨ s.dev.state.active = true
  arming : s.dev.arming = none
  settled : s.Settled

/-- The device `t` has entered SAFE from `s` with a cause (R26, R31, R33, R40): the fire list is empty and the cause is latched beside
those before. -/
def State.SafeFrom (t s : State) (cause : Nat) : Prop :=
  t.dev.state = .safe ∧ t.dev.safeCause = setBit s.dev.safeCause cause true ∧ t.field.fire.entries = [] ∧ t.cox.heats = []

/-- What no entry into RESET or BOOT touches: the flash, the fuses and the queue. -/
def State.KeepsFlash (t s : State) : Prop :=
  t.boot.flash = s.boot.flash ∧ t.boot.fuses = s.boot.fuses ∧ t.pending = s.pending

/-- What BOOT begins with (R492, R518, R530, R596): no step has run, the entries stand at their defaults, no session is open, no package is
loaded, and network time and TS_MONO are 0. -/
def State.Fresh (t : State) : Prop :=
  t.dev.state = .boot ∧ t.boot.record.lastStep = 0 ∧ t.od.committed = [] ∧ t.od.shadows = [] ∧
    t.od.sessions = Vector.replicate 48 none ∧ t.cox.packages = Vector.replicate 16 none ∧ t.tu = TimeUnit.init

/-- The request `r` reaches its session `x` in its turn, and is executed at once: boot step 8 is past and its interface is up, its
CHECK, KIND, VERSION and LENGTH are right (R520 step 1), its session, binding and TAG too (R518), its REQ_ID is above H (R519), no request
of the session waits or executes (R521), and its header holds no field that its operation does not use (R520 step 5). -/
structure State.Takes (s : State) (x : Session) (r : Request) : Prop where
  up : s.boot.serverUp = true
  itf : s.itfUp r.env.itf = true
  good : Request.good r = true
  op : r.op ≠ 1
  session : s.session? r.env.session.toNat = some x
  bound : boundTo r.env.session.toNat x r.env = true
  tag : x.tag = r.env.tag.toNat
  new : 0 < reqDist r.env.reqId.toNat x.high
  free : x.executing = none
  first : x.queue = []
  fields : Request.fieldFault r = none

/-- The request `r` of session `x` may write the object `ob` that it names (R518, R520 steps 1 to 4): it is taken, the object exists, access,
role and mapping allow it, and nothing else waits. -/
structure State.MayWrite (s : State) (x : Session) (r : Request) (ob : Obj) : Prop where
  takes : s.Takes x r
  settled : s.Settled
  object : resolve s.crewCount r.index.toNat r.sub.toNat = some ob
  access : s.writeAccess (handleItf r.env.session.toNat) (x.role == 1) ob r.index.toNat r.sub.toNat = true

/-- The segment `r` joins the bytes `b` that its session holds of the value at its place (R524): none for a segment at offset 0. -/
def Session.Holds (x : Session) (r : Request) (b : Bytes) : Prop :=
  (r.offset = 0 ∧ b = []) ∨ (x.assembly = some (placeKey r.index.toNat r.sub.toNat, b) ∧ r.offset.toNat = b.length)

/-- The response to `r` with a status has left the device (R513, R516): STATUS is byte 3 of the header, REQ_ID bytes 8 to 11. -/
def State.Answered (t : State) (r : Request) (st : Status) : Prop :=
  ∃ msg, Out.response r.env.itf.val r.env.peer.toNat msg ∈ t.sent ∧ fieldAt msg 3 1 = st.code ∧
    fieldAt msg 8 4 = r.env.reqId.toNat

/-- The response to `r` has left the device with a status and these bytes as its data (R513, R516): the data follows the 40 bytes of the header. -/
def State.AnsweredWith (t : State) (r : Request) (st : Status) (data : Bytes) : Prop :=
  ∃ msg, Out.response r.env.itf.val r.env.peer.toNat msg ∈ t.sent ∧ fieldAt msg 3 1 = st.code ∧
    fieldAt msg 8 4 = r.env.reqId.toNat ∧ msg.drop 40 = data

/-- One more error attributed to the unit `u` stays under the limit of R566. -/
def State.UnderLimit (s : State) (u : UnitId) : Prop :=
  ((s.saf.errors.filter (fun x => decide (s.now ≤ x.2 + s.errWindow))).filter (fun x => decide (x.1 = u))).length + 1 <
    s.num .SAF_UNIT_ERR_LIMIT 0

/-- Pass `x` of a stroke, whose descriptor is `b`, belongs to the heat `h` at entry `k` of the heat table, of package `p` (R206, R209). -/
structure State.AtPass (s : State) (k stroke pass : Nat) (h : Heat) (p : Package) (x : Pass) (b : Bytes) : Prop where
  heat : s.heatPkg k = some (h, p)
  pass : h.passOf stroke pass = some x
  stroke : h.strokeOf p stroke = some b

/-- An error that a unit has detected (R129, R563, R590): it is the last error, and it waits with its heat for the crew scoreboard. Nothing
outside the engines has changed. -/
structure State.Detects (s t : State) (k kind crew unitNo stroke pass : Nat) : Prop where
  error : ∃ e, t.saf.lastErr = some e ∧ e.kind = kind ∧ e.crew = crew ∧ e.unitNo = unitNo ∧ e.stroke = stroke ∧ e.pass = pass ∧
    ∀ h, amGet? s.cox.heats k = some h → e.serial = h.serial ∧ amGet? t.cox.heats k = some { h with errors := h.errors ++ [e] }
  others : t.field = s.field ∧ t.cams = s.cams ∧ t.boot = s.boot ∧ t.kv = s.kv ∧ t.mem = s.mem ∧ t.retune = s.retune ∧ t.det = s.det ∧
    t.squad = s.squad ∧ t.fnet = s.fnet ∧ t.pci = s.pci ∧ t.tu = s.tu ∧ t.crews = s.crews ∧ t.od.committed = s.od.committed

/-- The field network without the frames in its transmit queues. -/
def FieldNet.unqueued (f : FieldNet) : FieldNet := { f with ports := f.ports.map (fun p => { p with queues := Vector.replicate 4 [] }) }

/-- A state without what a response to a request changes: the sessions, the cells of the mailboxes, the frames in the transmit queues, and what
has left the device; and without the device state. -/
def State.bare (s : State) : State :=
  { s with
    dev := { s.dev with state := .off }, od := { s.od with sessions := Vector.replicate 48 none }
    pci := { s.pci with busy := [], cells := [] }, fnet := s.fnet.unqueued, sent := [] }

/-- The state `t` is what `u` becomes when a request has been answered: the response has left, and everything but sessions, mailboxes, transmit queues and
the grade of RUN and DEGRADED is that of `u`. -/
structure State.RespondsAs (u t : State) (r : Request) (st : Status) : Prop where
  answered : t.Answered r st
  rest : t.bare = u.bare
  state : u.dev.state.runs = false → t.dev.state = u.dev.state
  runs : u.dev.state.runs = true → t.dev.state.runs = true

/-- The state `t` is what `u` becomes when a row ends without a new CREWS_SHORT: RUN and DEGRADED follow the units (R28), and signals may
have left (R555). Everything else is that of `u`. -/
def State.EndsAs (u t : State) : Prop :=
  ∃ d l, t = { u with dev := { u.dev with state := d }, sent := l ++ u.sent } ∧
    (u.dev.state.runs = false → d = u.dev.state) ∧ (u.dev.state.runs = true → d.runs = true)

/-- The oar `l` of crew `crew` runs the sliver `o`, waits for nothing, and the instruction at its pc is `w` (in its 32-bit form), of `n` bytes and of
kind `k` (R273 to R276). -/
structure State.OarAt (s : State) (crew : Fin 6) (l : Fin 512) (o : Oar) (w n : Nat) (k : OarKind) : Prop where
  oar : s.oar? crew l = some o
  ready : o.ready = true
  fetch : s.oarFetch crew l o = some (w, n)
  kind : kindOf w = k

/-- A new message `r` of the owner of recovery (R513, R519, R617, R618): the device is in RECOVERY, the message is good and comes on an
interface of recovery, its sender owns recovery, and its REQ_ID is neither answered nor in its turn nor stale. -/
structure State.Owned (s : State) (r : Request) : Prop where
  state : s.dev.state = .recovery
  itf : s.recoveryItf r.env = true
  good : Request.recoveryGood r = true
  owner : s.boot.recovery.owner = some (r.env.peer.toNat, r.env.itf.val)
  new : ∀ e ∈ s.boot.recovery.stored, e.1 ≠ r.env.reqId.toNat
  idle : s.boot.recovery.installing = none
  order : -64 < reqDist r.env.reqId.toNat s.boot.recovery.high
  settled : s.Settled

/-- What the end of a row and the crews in service depend on. -/
structure Kernel where
  dev : Device
  fuses : Memory
  committed : AMap OdVal
  sessions : Vector (Option Session) 48
  held : List UnitId
  crews : Vector Crew 6
  packages : Vector (Option Package) 16
  squad : Squad
  pending : List Instr

/-- The kernel of a state: a state with the same kernel has the same device state, the same units in service, the same sessions and the same squad. -/
def State.kernel (s : State) : Kernel :=
  ⟨s.dev, s.boot.fuses, s.od.committed, s.od.sessions, s.saf.held, s.crews, s.cox.packages, s.squad, s.pending⟩

end Sys2Proof.Machine
end

