-- ==== Sys2Proof/Certificates/Slice0/Obligations.lean ====
section
/-! DEFINITION. The statements about the model. Each names the rules that it is about; where it rests on a choice of the model it says so. -/

open Sys2Proof Sys2Proof.Machine

/-- The block's queue: a step with a command waiting is that command's effect on the machine with the rest of the queue. -/
def Obligations.StepRunsFrontCommand : Prop :=
  ∀ (s : State) (c : Instr) (q : List Instr), s.pending = c :: q → step s = exec c (s.popped q)

/-- A step with nothing waiting is one cycle of CK_TS (the model's choice: notes/assumptions/1.md): while the device is powered and out of RESET, `TS_MONO` rises
by one (R492), lost time rises with it where the line runs and the device does not (R586), and nothing but the time unit and lost time changes; in OFF and
RESET nothing changes. -/
def Obligations.IdleStep : Prop :=
  ∀ s : State, s.pending = [] →
    (s.dev.state = .off ∨ s.dev.state = .reset → step s = .next s) ∧
    (s.dev.state ≠ .off → s.dev.state ≠ .reset → ∃ t, step s = .next t ∧ t.now = s.now + 1 ∧
      t.saf = { s.saf with lostTs := s.saf.lostTs + if s.lineLost then 1 else 0 } ∧ t = { s with tu := t.tu, saf := t.saf })

/-- R8, R23, R492, R525, R530: what reset leaves. The device is in BOOT with no cause of SAFE; every entry reads its default, no shadow and no commit waits, every lint
counter is 0, and no session is open; the time counts from 0; every field output is off and the fire list is empty; no package is loaded, no heat runs, and the
first heat will have the serial 1. The queue of commands is empty (the model's own field). -/
def Obligations.ResetValues : Prop :=
  State.reset.dev.state = .boot ∧ State.reset.dev.safeCause = 0 ∧ State.reset.dev.armFault = 0 ∧
  (∀ E i k, State.reset.val E i k = E.dflt State.reset.part i k) ∧ State.reset.od.shadows = [] ∧ State.reset.od.waiting = [] ∧
  (∀ l i, State.reset.lintVal l i = 0) ∧ (∀ h, State.reset.session? h = none) ∧
  State.reset.now = 0 ∧ State.reset.netTime = ⟨0, 0, 0⟩ ∧ State.reset.tu.servoI = 0 ∧ State.reset.tu.rate = 0 ∧
  (∀ n, State.reset.driveOn n = false) ∧ State.reset.field.fire.entries = [] ∧
  (∀ i : Fin 16, State.reset.cox.packages[i] = none) ∧ State.reset.cox.heats = [] ∧ State.reset.cox.nextSerial = 1 ∧
  State.reset.pending = []

/-- R28 holds at reset, and every memory is in its canonical form there (what a byte that nothing has written reads as is the model's choice:
notes/assumptions/2.md). -/
def Obligations.ResetIsGood : Prop :=
  State.reset.Graded ∧ State.reset.boot.fuses.wf = true ∧ State.reset.mem.lpddr.wf = true ∧ State.reset.mem.commons.wf = true ∧
  State.reset.mem.lineStore.wf = true ∧ ∀ c : Fin 6, State.reset.mem.scratch[c].wf = true

/-- R28: RUN is held only while every unit is in service and DEGRADED only while one is not. Every step of every command, and every idle step, keeps this. -/
def Obligations.StepKeepsGrade : Prop :=
  ∀ s t : State, s.Graded → step s = .next t → t.Graded

/-- Every command completes: whatever the state, each row answers a next state, but for a write of the board programmer past the end of the flash while the
device is held in RESET, which stops on the address that does not exist. No step is ever refused. -/
def Obligations.EveryCommandCompletes : Prop :=
  (∀ (c : Instr) (s : State), (∀ a d, c = .boardProgrammerFlashWrite a d → s.dev.state = .reset → a.toNat + d.length ≤ 0x4000000) → ∃ t, exec c s = .next t) ∧
  (∀ (s : State) (f : Fault), step s = .fault f → s.dev.state = .reset ∧
    ∃ a d q, s.pending = .boardProgrammerFlashWrite a d :: q ∧ 0x4000000 < a.toNat + d.length ∧ f = .noSuchFlashAddress (max a.toNat 0x4000000)) ∧
  ∀ (s : State) (r : Refusal), step s ≠ .refused r

/-- R185, R186: the check bits of an LPDDR5 burst. A burst without an error decodes as it was written; an error in one data bit, in one Hamming bit or in the
parity bit is corrected; two wrong data bits, and an error in one slice bit, are uncorrectable. -/
def Obligations.BurstCode : Prop :=
  ∀ d < 2 ^ 512,
    decodeBurst d (checkOf d) = ⟨d, false, false⟩ ∧
    (∀ j < 512, decodeBurst (d ^^^ 2 ^ j) (checkOf d) = ⟨d, true, false⟩) ∧
    (∀ h < 11, decodeBurst d (checkOf d ^^^ 2 ^ h) = ⟨d, true, false⟩) ∧
    (∀ j < 512, ∀ k < 512, j ≠ k → (decodeBurst (d ^^^ 2 ^ j ^^^ 2 ^ k) (checkOf d)).bad = true) ∧
    ∀ h < 5, (decodeBurst d (checkOf d ^^^ 2 ^ (11 + h))).bad = true

/-- R37: the codes of `DEV_STATE`, which reads as the code of the device's state; the codes from 0x09 are used by no state. -/
def Obligations.StateCodes : Prop :=
  (DevState.off.code = 0x00 ∧ DevState.reset.code = 0x01 ∧ DevState.boot.code = 0x02 ∧ DevState.inert.code = 0x03 ∧ DevState.armed.code = 0x04 ∧
    DevState.run.code = 0x05 ∧ DevState.degraded.code = 0x06 ∧ DevState.safe.code = 0x07 ∧ DevState.recovery.code = 0x08) ∧
  (∀ d : DevState, d.code ≤ 0x08) ∧ ∀ s : State, s.readDevice .DEV_STATE 0 = .num s.dev.state.code

/-- R90 (and R88, R109): the state of a reduction of an exact class. After the last product it is NaN if NAN is set or both PINF and NINF are, else an infinity if
one of them is, else the finite value ACC × 2^-a, where a zero sum is +0. The order in which the products are added does not change it. -/
def Obligations.Reductions : Prop :=
  (∀ (a : LongAcc) (an : Nat),
    (a.nan = true ∨ a.pinf = true ∧ a.ninf = true → a.value an = .nan) ∧
    (a.nan = false → a.pinf = true → a.ninf = false → a.value an = .inf false) ∧
    (a.nan = false → a.pinf = false → a.ninf = true → a.value an = .inf true) ∧
    (a.nan = false → a.pinf = false → a.ninf = false → a.value an = .scaled (decide (a.acc < 0)) a.acc.natAbs (-(an : Int))) ∧
    (a.nan = false → a.pinf = false → a.ninf = false → a.acc = 0 → ∃ d, a.value an = .fin false 0 d)) ∧
  ∀ (g1 g2 : Nat) (l m : List (ExactNum × ExactNum)), l.Perm m → ∀ a : LongAcc,
    l.foldl (fun a p => a.mac g1 g2 p.1 p.2) a = m.foldl (fun a p => a.mac g1 g2 p.1 p.2) a

/-- R28: power, PORST_N, JTAG and the loss of supply lead to OFF, RESET and BOOT from every state that the rule names; what stands in the
flash and the fuses stays. BOOT follows RESET at once where PORST_N is high and every hull supply stands in its window. -/
def Obligations.ResetAndPower : Prop :=
  ∀ s : State,
    (s.dev.state = .off → ∃ t, exec .powerUp s = .next t ∧ t.dev.state = .reset ∧ t.dev.porstLow = true ∧ t.boot.record.cause = 0 ∧
      t.KeepsFlash s) ∧
    (s.dev.state ≠ .off → ∃ t, exec .porstNAssert s = .next t ∧ t.dev.state = .reset ∧ t.dev.porstLow = true ∧ t.boot.record.cause = 1 ∧
      t.KeepsFlash s) ∧
    (s.dev.state = .reset → s.dev.brownOut = false → s.hullOk = true → ∃ t, exec .porstNRelease s = .next t ∧ t.Fresh ∧
      t.dev.porstLow = false ∧ t.boot.record.cause = s.boot.record.cause ∧ t.KeepsFlash s) ∧
    (s.dev.state ≠ .off → ∃ t, exec .jtagReset s = .next t ∧ t.boot.record.cause = 2 ∧ t.KeepsFlash s ∧
      (s.mayBoot = true → t.Fresh) ∧ (s.mayBoot = false → t.dev.state = .reset)) ∧
    (s.dev.state ≠ .off → ∃ t, exec .supplyLoss s = .next t ∧ t.dev.state = .off ∧ t.KeepsFlash s)

/-- R597, R625: the coach's watchdog and a brown-out of VDD_CORE (below 0.650 V) or VDD_IO18 (below 1.550 V) lead to RESET; the reset of a
brown-out is held until it is released, and BOOT follows then. -/
def Obligations.WatchdogAndBrownout : Prop :=
  ∀ (s : State) (uv : BitVec 32),
    (s.dev.state ≠ .off → s.dev.state ≠ .reset → ∃ t, exec .coachWatchdogExpiry s = .next t ∧ t.boot.record.cause = 3 ∧ t.KeepsFlash s ∧
      (s.mayBoot = true → t.Fresh) ∧ (s.mayBoot = false → t.dev.state = .reset)) ∧
    (s.dev.state ≠ .off → uv.toNat < 650000 → ∃ t, exec (.supplyBrownout false uv) s = .next t ∧ t.dev.state = .reset ∧
      t.dev.brownOut = true ∧ t.boot.record.cause = 7 ∧ t.KeepsFlash s) ∧
    (s.dev.state ≠ .off → uv.toNat < 1550000 → ∃ t, exec (.supplyBrownout true uv) s = .next t ∧ t.dev.state = .reset ∧
      t.dev.brownOut = true ∧ t.boot.record.cause = 7 ∧ t.KeepsFlash s) ∧
    (s.dev.state = .reset → s.dev.brownOut = true → s.dev.porstLow = false → ((s.setSupply 0 true).setSupply 5 true).hullOk = true →
      ∃ t, exec .internalResetRelease s = .next t ∧ t.Fresh ∧ t.dev.brownOut = false ∧ t.KeepsFlash s)

/-- R19, R33, R562, R625: what the supervisor's monitors see enters SAFE from INERT, ARMED, RUN or DEGRADED, each with its cause bit of
R40: CLOCK 1, LOCKSTEP 2, SUPPLY 3, RIGGER 4, FIRMWARE 7. The loss of the rigger's heartbeat holds every output (R11); its cause RIGGER is
the model's reading (notes/assumptions/66.md). -/
def Obligations.CausesOfSafe : Prop :=
  ∀ (s : State) (pair : Fin 2) (rail : Fin 11) (uv : BitVec 32) (vrig : Bool), s.Guarded →
    (∃ t, exec .rootPllUnlock s = .next t ∧ t.SafeFrom s 1 ∧ t.dev.pllLocked = false) ∧
    (∃ t, exec (.lockstepMismatch pair) s = .next t ∧ t.SafeFrom s 2) ∧
    (∃ t, exec (.coachHeartbeatMiss pair) s = .next t ∧ t.SafeFrom s 7) ∧
    (rail.val < 10 → inSupplyWindow rail uv.toNat = false → brownLevel rail uv.toNat = false →
      ∃ t, exec (.supplyOutOfWindow rail uv) s = .next t ∧ t.SafeFrom s 3 ∧ t.dev.supplyOk[rail] = false) ∧
    (s.field.rigOnceUp = true → ∃ t, exec (.riggerLinkLoss vrig) s = .next t ∧ t.SafeFrom s 4 ∧
      (vrig = true → t.dev.supplyOk[10] = false) ∧ (vrig = false → t.field.rigLink = false)) ∧
    (∃ t, exec .riggerHeartbeatLoss s = .next t ∧ t.SafeFrom s 4 ∧ t.field.rigHold = true)

/-- R11, R625, R626, R635: supplies, the rigger's link and the temperatures outside SAFE: a glitch only counts, the link comes up, the hold of
the outputs ends, and a sample of the sensors and the power is taken; one at 115 °C or more enters SAFE with cause THERM. -/
def Obligations.RiggerAndTemperature : Prop :=
  ∀ (s : State) (rail : Fin 11) (temps : Vector (BitVec 16) 34) (power : BitVec 16) (rails : Vector (BitVec 32) 12), s.Settled →
    (s.awake = true → ∃ t, exec (.supplyGlitch rail) s = .next t ∧ t.lintVal .SUP_GLITCH 0 = satInc (s.lintVal .SUP_GLITCH 0) 1 ∧
      t.field = s.field ∧ t.boot = s.boot) ∧
    (s.awake = true → s.dev.state ≠ .boot → ∃ t, exec .riggerLinkUp s = .next t ∧ t.field = { s.field with rigLink := true, rigOnceUp := true } ∧
      t.dev.supplyOk[10] = true) ∧
    (∃ t, exec .riggerHeartbeatReturn s = .next t ∧ t.field = { s.field with rigHold := false }) ∧
    (s.awake = true → (∀ i : Fin 34, temps[i].toInt < 1150) → ∃ t, exec (.thermSample temps power rails) s = .next t ∧
      t.dev.sensors = temps.map BitVec.toInt ∧ t.dev.measured = power.toNat ∧ t.dev.rails = rails.map BitVec.toNat ∧ t.field = s.field) ∧
    (s.Guarded → (∃ i : Fin 34, 1150 ≤ temps[i].toInt) → ∃ t, exec (.thermSample temps power rails) s = .next t ∧ t.SafeFrom s 0 ∧
      t.dev.sensors = temps.map BitVec.toInt)

/-- R596 to R601: what the boot steps 1 to 6 do. A step begins when the step before it has ended; step 1 counts the corrected fuse words and
an uncorrectable one leads to RECOVERY; step 2 brings up the root PLL and, where `VRIG` stands in its window, the link to the rigger; step 3
starts the ledger record of this boot, 1 above the newest one's count (1 where there is none); step 4 of a cold boot clears LPDDR5; step 5 runs
the good image of the flash, and a bad one or one below the rollback counter leads to RECOVERY. -/
def Obligations.FirstBootSteps : Prop :=
  ∀ (s : State) (r : StepReport), s.dev.state = .boot → s.Settled →
    (s.boot.record.lastStep = 0 → r.good = true → r.fuseBad = false → ∃ t, exec (.bootStep r) s = .next t ∧ t.dev.state = .boot ∧
      t.boot.record.lastStep = 1 ∧ (r.corrected ≠ 0 → t.lintVal .BOOT_FUSE_CE 0 = satInc (s.lintVal .BOOT_FUSE_CE 0) r.corrected.toNat)) ∧
    (s.boot.record.lastStep = 0 → r.fuseBad = true → ∃ t, exec (.bootStep r) s = .next t ∧ t.dev.state = .recovery ∧
      t.boot.record.failStep = 1 ∧ t.boot.record.failCode = 3 ∧ t.boot.record.result = 1) ∧
    (s.boot.record.lastStep = 1 → r.good = true → ∃ t, exec (.bootStep r) s = .next t ∧ t.dev.state = .boot ∧ t.boot.record.lastStep = 2 ∧
      t.dev.pllLocked = true ∧ t.field.rigLink = s.dev.supplyOk[10] ∧ t.field.rigOnceUp = s.dev.supplyOk[10]) ∧
    (s.boot.record.lastStep = 2 → s.boot.flash.newest = none → ∃ t, exec (.bootStep r) s = .next t ∧ t.dev.state = .boot ∧
      t.boot.record.lastStep = 3 ∧ t.boot.record.bootCount = 1 ∧ t.boot.record.cause = s.boot.record.cause ∧
      t.boot.flash.head = (s.boot.flash.head + 1) % 4096) ∧
    (s.boot.record.lastStep = 3 → s.boot.warm = false → r.good = true → ∃ t, exec (.bootStep r) s = .next t ∧ t.dev.state = .boot ∧
      t.boot.record.lastStep = 4 ∧ t.boot.record.fullTrain = true ∧ t.mem.lpddr = Mem.init.lpddr) ∧
    (∀ f, s.boot.record.lastStep = 4 → s.fwCheck s.boot.flash.fwImage = .good f → ∃ t, exec (.bootStep r) s = .next t ∧
      t.dev.state = .boot ∧ t.boot.record.lastStep = 5 ∧ t.boot.running = some f ∧ t.boot.record.fwVersion = f.version) ∧
    (s.boot.record.lastStep = 4 → s.boot.record.bootCount ≠ 0 → s.fwCheck s.boot.flash.fwImage = .rollback →
      ∃ t, exec (.bootStep r) s = .next t ∧ t.dev.state = .recovery ∧ t.boot.record.failStep = 5 ∧ t.boot.record.failCode = 2) ∧
    (s.boot.record.lastStep = 4 → s.boot.record.bootCount ≠ 0 → s.fwCheck s.boot.flash.fwImage = .verification →
      ∃ t, exec (.bootStep r) s = .next t ∧ t.dev.state = .recovery ∧ t.boot.record.failStep = 5 ∧ t.boot.record.failCode = 1) ∧
    (s.boot.record.lastStep = 5 → r.good = true → ∃ t, exec (.bootStep r) s = .next t ∧ t.dev.state = .boot ∧ t.boot.record.lastStep = 6)

/-- R488, R596, R598, R601: what the boot steps 7 to 10 do. Step 7 takes the entries' defaults where neither stored copy is good, and starts
the server of the object dictionary; step 8 stores the time of the full rinse for every slice that is supervised; step 9 of a cold boot
without stored packages loads none; step 10 closes the ledger record and leads to INERT where no cause of SAFE is latched. -/
def Obligations.LastBootSteps : Prop :=
  ∀ (s : State) (r : StepReport), s.dev.state = .boot → s.Settled →
    (s.boot.record.lastStep = 6 → r.good = true → s.boot.flash.copyA = none → s.boot.flash.copyB = none →
      ∃ t, exec (.bootStep r) s = .next t ∧ t.dev.state = .boot ∧ t.boot.record.lastStep = 7 ∧ t.boot.record.defaults = true ∧
        t.boot.serverUp = true ∧ t.od.committed = s.od.committed) ∧
    (s.boot.record.lastStep = 7 → r.good = true → r.failed = [] → s.boot.skipCrew = none →
      ∃ t, exec (.bootStep r) s = .next t ∧ t.dev.state = .boot ∧ t.boot.record.lastStep = 8 ∧
        (∀ i : Fin 3, t.saf.status[72 + i.val] = s.now) ∧ t.saf.held = s.saf.held) ∧
    (s.boot.record.lastStep = 8 → r.good = true → s.boot.warm = false → s.boot.flash.store = [] → s.boot.flash.storeEntries = [] →
      ∃ t, exec (.bootStep r) s = .next t ∧ t.dev.state = .boot ∧ t.boot.record.lastStep = 9 ∧ t.cox.packages = s.cox.packages) ∧
    (s.boot.record.lastStep = 9 → s.dev.safeCause = 0 → ∃ t, exec (.bootStep r) s = .next t ∧ t.dev.state = .inert ∧
      t.boot.record.lastStep = 10 ∧ t.boot.record.result = 0 ∧ t.boot.record.consecFail = 0)

/-- R12, R595: the external interface reaches the boot flash while the device is held in RESET, and only then. A write that lies in the image
area, or in the factory area, sets the bytes there and leaves every other area as it was; a write past the flash's 64 MiB stops on an address
that the flash does not have. -/
def Obligations.BoardProgrammer : Prop :=
  ∀ (s : State) (addr : BitVec 32) (data : Bytes),
    (s.dev.state ≠ .reset → exec (.boardProgrammerFlashWrite addr data) s = .next s) ∧
    (s.dev.state = .reset → 0x4000000 < addr.toNat + data.length →
      exec (.boardProgrammerFlashWrite addr data) s = .fault (.noSuchFlashAddress (max addr.toNat 0x4000000))) ∧
    (s.dev.state = .reset → data ≠ [] → 0x110000 ≤ addr.toNat → addr.toNat + data.length ≤ 0x1910000 →
      ∃ t, exec (.boardProgrammerFlashWrite addr data) s = .next t ∧ t.dev = s.dev ∧ t.boot.fuses = s.boot.fuses ∧
        t.boot.flash = { s.boot.flash with image := t.boot.flash.image } ∧
        slice t.boot.flash.image (addr.toNat - 0x110000) data.length = data ∧
        t.boot.flash.image.drop (addr.toNat - 0x110000 + data.length) = s.boot.flash.image.drop (addr.toNat - 0x110000 + data.length) ∧
        (addr.toNat - 0x110000 ≤ s.boot.flash.image.length →
          t.boot.flash.image.take (addr.toNat - 0x110000) = s.boot.flash.image.take (addr.toNat - 0x110000))) ∧
    (s.dev.state = .reset → data ≠ [] → addr.toNat + data.length ≤ 0x10000 →
      ∃ t, exec (.boardProgrammerFlashWrite addr data) s = .next t ∧ t.dev = s.dev ∧ t.boot.fuses = s.boot.fuses ∧
        t.boot.flash = { s.boot.flash with factory := t.boot.flash.factory } ∧
        slice t.boot.flash.factory addr.toNat data.length = data)

/-- R617, R618: recovery. HELLO makes its sender the owner where there is none and answers OK; DATA joins the image that is sent in order;
INSTALL of a good image begins the install of R616; BOOT after an install leads to BOOT with cause 6; 60 s without a message of the owner end
its ownership. -/
def Obligations.Recovery : Prop :=
  (∀ (s : State) (e : Envelope), s.dev.state = .recovery → s.Settled → s.recoveryItf e = true →
    Request.recoveryGood (recReq e 1 0 []) = true → s.boot.recovery.owner = none → s.boot.recovery.installing = none →
      ∃ t, exec (.recoveryHello e 1) s = .next t ∧ t.Answered (recReq e 1 0 []) .ok ∧ t.dev.state = .recovery ∧
        t.boot.recovery.owner = some (e.peer.toNat, e.itf.val) ∧ t.boot.recovery.high = e.reqId.toNat ∧ t.boot.flash = s.boot.flash) ∧
  (∀ (s : State) (e : Envelope) (o : BitVec 64) (d : Bytes), s.Owned (recReq e 2 o d) →
    (o = 0 ∨ (o.toNat = s.boot.recovery.assembly.length ∧ s.boot.recovery.complete = false ∧ o.toNat + d.length ≤ 25165824)) →
      ∃ t, exec (.recoveryData e o d) s = .next t ∧ t.Answered (recReq e 2 o d) .ok ∧ t.dev.state = .recovery ∧
        t.boot.recovery.assembly = (if o = 0 then [] else s.boot.recovery.assembly) ++ d ∧ t.boot.recovery.complete = e.last ∧
        t.boot.flash = s.boot.flash) ∧
  (∀ (s : State) (e : Envelope) (f : FwImage), s.Owned (recReq e 3 0 []) → s.boot.recovery.complete = true →
    s.boot.record.failCode ≠ 3 → s.fwCheck s.boot.recovery.assembly = .good f →
      ∃ t, exec (.recoveryInstall e) s = .next t ∧ t.dev.state = .recovery ∧ t.boot.staged = some f ∧ t.boot.fwStatus = 2 ∧
        t.boot.recovery.installing = some e.reqId.toNat ∧ t.boot.record.update = 1 ∧ t.boot.record.updVersion = f.version) ∧
  (∀ (s : State) (e : Envelope), s.Owned (recReq e 4 0 []) → s.boot.recovery.installed = true →
      ∃ t, exec (.recoveryBoot e) s = .next t ∧ t.Answered (recReq e 4 0 []) .ok ∧ t.Fresh ∧ t.boot.record.cause = 6 ∧ t.KeepsFlash s) ∧
  (∀ (s : State), s.dev.state = .recovery → s.Settled →
      ∃ t, exec .recoveryOwnerTimeout s = .next t ∧ t.boot.recovery.owner = none ∧ t.dev.state = .recovery ∧ t.boot.flash = s.boot.flash)

/-- R616: an install that reads back equal ends with the staged image in the image area and status 3; a first bad readback is tried again,
and a second one ends with status 4 and counts a flash error. -/
def Obligations.InstallEnds : Prop :=
  ∀ (s : State) (f : FwImage), s.Settled → s.boot.staged = some f → s.boot.fwStatus = 2 → s.boot.recovery.installing = none →
    (∃ t, exec (.installComplete true) s = .next t ∧ t.boot.fwStatus = 3 ∧ t.boot.flash.image = f.bytes ∧ t.boot.record.update = 2 ∧
      t.boot.record.consecFail = 0 ∧ t.boot.fuses = s.boot.fuses) ∧
    (s.boot.installTries = 0 → ∃ t, exec (.installComplete false) s = .next t ∧ t.boot.fwStatus = 2 ∧ t.boot.installTries = 1 ∧
      t.boot.flash = s.boot.flash) ∧
    (s.boot.installTries ≠ 0 → ∃ t, exec (.installComplete false) s = .next t ∧ t.boot.fwStatus = 4 ∧
      t.lintVal .BOOT_FLASH_ERR 0 = satInc (s.lintVal .BOOT_FLASH_ERR 0) 1 ∧ t.boot.flash = s.boot.flash)

/-- R38: the commands NONE, ARM, START, STOP and SAFE_ACK of a device that no squad's stroke seat leads, with no transition in progress. NONE
changes nothing; ARM begins the checks and answers when ARM_DONE ends it; START enters RUN where every unit is in service, else DEGRADED; SAFE_ACK
leads from SAFE to INERT where every latched cause may be acknowledged. -/
def Obligations.DeviceCommands : Prop :=
  ∀ (s : State) (x : Session) (e : Envelope), s.transition = false → s.squad.state ≠ .formed →
    (s.MayWrite x (wrNum e .DEV_COMMAND 0 0) (.ent .DEV_COMMAND 0 0) →
      ∃ t, exec (.commandNone e) s = .next t ∧ s.RespondsAs t (wrNum e .DEV_COMMAND 0 0) .ok) ∧
    (s.MayWrite x (wrNum e .DEV_COMMAND 0 1) (.ent .DEV_COMMAND 0 0) → s.dev.state = .inert →
      ∃ t f, exec (.arm e) s = .next t ∧ t.dev.arming = some (.session e.session.toNat e.reqId.toNat, f) ∧ t.dev.state = .inert ∧
        t.field = s.field ∧ t.cox = s.cox ∧ t.cams = s.cams) ∧
    (s.MayWrite x (wrNum e .DEV_COMMAND 0 3) (.ent .DEV_COMMAND 0 0) → s.dev.state = .armed →
      ∃ t, exec (.start e) s = .next t ∧ t.Answered (wrNum e .DEV_COMMAND 0 3) .ok ∧
        t.dev.state = (if s.anyOos then .degraded else .run) ∧ t.cox.admitting = true ∧ t.field = s.field ∧ t.cams = s.cams)

/-- R28, R30 to R33, R38 to R40: the transitions. ARM_DONE ends an ARM: with a fault `DEV_ARM_FAULT` names it and the answer is ERR_STATE, and
the device stays INERT; without one it is ARMED and the answer is OK. DISARM leads from ARMED to INERT, and clears the fire list and every
enable of R32. STOP ends admission, and STOP_TO_ARMED leads to ARMED once no heat but SWATCH heats remains. SAFE leads to SAFE with cause FORCED.
SAFE_ACK leads to INERT and clears the causes. (No partition becomes short of crews by an ARM: where one does, the event of R584 follows.) -/
def Obligations.Transitions : Prop :=
  (∀ (s : State) (y : Session) (r : Request) (f : Nat) (h : Nat), s.Settled → s.session? h = some y → y.executing = some r → y.queue = [] →
    s.dev.state = .inert → s.dev.arming = some (.session h r.env.reqId.toNat, some f) →
      ∃ t, exec .armDone s = .next t ∧ t.Answered r .state ∧ t.dev = { s.dev with arming := none, armFault := f }) ∧
  (∀ (s : State) (y : Session) (r : Request) (h : Nat), s.Settled → s.session? h = some y → y.executing = some r → y.queue = [] →
    s.dev.state = .inert → s.dev.arming = some (.session h r.env.reqId.toNat, none) → s.armCheck = none →
    (s.armNow.crewsShort = true → s.crewsShort = true) →
      ∃ t, exec .armDone s = .next t ∧ t.Answered r .ok ∧ t.dev = { s.dev with state := .armed, arming := none }) ∧
  (∀ (s : State) (x : Session) (e : Envelope), s.transition = false → s.squad.state ≠ .formed → s.squad.load = none →
    (s.MayWrite x (wrNum e .DEV_COMMAND 0 2) (.ent .DEV_COMMAND 0 0) → s.dev.state = .armed →
      ∃ t, exec (.disarm e) s = .next t ∧ t.Answered (wrNum e .DEV_COMMAND 0 2) .ok ∧ t.dev.state = .inert ∧
        t.field.fire.entries = [] ∧ ∀ a ∈ inertEnables, ∀ i < a.2, t.num a.1 i = 0) ∧
    (s.MayWrite x (wrNum e .DEV_COMMAND 0 4) (.ent .DEV_COMMAND 0 0) → s.dev.state.runs = true →
      ∃ t, exec (.stop e) s = .next t ∧ t.Answered (wrNum e .DEV_COMMAND 0 4) .ok ∧ t.dev.state.runs = true ∧ t.cox.stopReq = true ∧
        t.cox.admitting = false ∧ t.cox.queue = s.cox.queue.filter (fun r => r.resume.isSome) ∧ t.cox.heats = s.cox.heats) ∧
    (s.MayWrite x (wrNum e .DEV_COMMAND 0 5) (.ent .DEV_COMMAND 0 0) → s.dev.state = .inert ∨ s.dev.state.active = true →
      ∃ t, exec (.safe e) s = .next t ∧ t.Answered (wrNum e .DEV_COMMAND 0 5) .ok ∧ t.SafeFrom s 6) ∧
    (s.MayWrite x (wrNum e .DEV_COMMAND 0 6) (.ent .DEV_COMMAND 0 0) → s.dev.state = .safe → s.ackable = true →
      ∃ t, exec (.safeAck e) s = .next t ∧ t.Answered (wrNum e .DEV_COMMAND 0 6) .ok ∧ t.dev.state = .inert ∧ t.dev.safeCause = 0)) ∧
  (∀ (s : State), s.Settled → s.dev.state.runs = true → s.cox.stopReq = true → s.otherHeats = 0 →
      ∃ t, exec .stopToArmed s = .next t ∧ t.dev.state = .armed ∧ t.cox = { s.cox with stopReq := false } ∧ t.field = s.field)

/-- R28, R35, R38, R610: WARM_RESTART and RESET. Both are answered OK before the sessions close. A warm restart writes the stored entries,
notes the loaded packages in the slot table, puts LPDDR5 into self-refresh, and enters BOOT with cause 5; packages and LPDDR5 contents stay. RESET
leads to RESET with cause 4, and to BOOT from there where PORST_N and the supplies let it. -/
def Obligations.Restarts : Prop :=
  ∀ (s : State) (x : Session) (e : Envelope), s.transition = false → s.boot.fwStatus ≠ 2 →
    (s.MayWrite x (wrNum e .DEV_COMMAND 0 7) (.ent .DEV_COMMAND 0 0) →
      s.dev.state = .inert ∨ s.dev.state.active = true ∨ s.dev.state = .safe →
      ∃ t, exec (.warmRestart e) s = .next t ∧ t.Answered (wrNum e .DEV_COMMAND 0 7) .ok ∧ t.dev.state = .boot ∧
        t.boot.record.cause = 5 ∧ t.boot.warm = true ∧ t.boot.selfRefresh = true ∧
        (∃ k, t.boot.slotTable = some ⟨true, k⟩ ∧ ∀ i : Fin 16, i.val ∈ k ↔ (s.cox.packages[i]).isSome = true) ∧
        t.cox.packages = s.cox.packages ∧ t.mem.lpddr = s.mem.lpddr ∧ t.od.sessions = Vector.replicate 48 none ∧ t.field.fire.entries = []) ∧
    (s.MayWrite x (wrNum e .DEV_COMMAND 0 8) (.ent .DEV_COMMAND 0 0) →
      ∃ t, exec (.reset e) s = .next t ∧ t.Answered (wrNum e .DEV_COMMAND 0 8) .ok ∧ t.boot.record.cause = 4 ∧ t.KeepsFlash s ∧
        (s.mayBoot = true → t.Fresh) ∧ (s.mayBoot = false → t.dev.state = .reset))

/-- R514, R517, R518: sessions. OPEN takes a free slot of its interface, answers OK, and the session holds the role asked for, version 1, a TAG that is
not 0, H at the REQ_ID of the OPEN, and the timeout asked for; CLOSE answers OK and frees the slot; KEEPALIVE answers OK; a session whose timeout
has passed is closed and counted in LINT_OD_TIMEOUT. No other session changes, and nothing outside the sessions. -/
def Obligations.Sessions : Prop :=
  ∀ (s : State) (e : Envelope), s.Settled →
    (∀ (data : Bytes) (h : Nat), s.boot.serverUp = true → s.itfUp e.itf = true → Request.good (mkReq e 1 0 0 0 data.length data) = true →
      e.session = 0xFFFF → e.tag = 0 → reservedZero e = true → data.length = 8 → fieldAt data 0 1 ≤ 1 →
      (fieldAt data 0 1 = 1 → s.control = 0xFFFF) → 1 ≤ fieldAt data 1 1 → fieldAt data 1 1 < 16 → fieldAt data 4 4 = 0 →
      (∀ k x, s.session? k = some x → boundTo k x e = true → x.openReq ≠ e.reqId.toNat) → s.openSlot e = some h →
      ∃ t x, exec (.openSession e data) s = .next t ∧ t.Answered (mkReq e 1 0 0 0 data.length data) .ok ∧ t.session? h = some x ∧
        x.role = fieldAt data 0 1 ∧ x.version = 1 ∧ x.tag ≠ 0 ∧ x.high = e.reqId.toNat ∧ x.peer = e.peer.toNat ∧
        x.timeoutMs = (if fieldAt data 2 2 = 0 then s.num .OD_SESSION_TIMEOUT 0 else fieldAt data 2 2) ∧ x.queue = [] ∧
        (∀ k, k ≠ h → t.session? k = s.session? k) ∧ t.bare = s.draw.bare) ∧
    (∀ x, s.Takes x (mkReq e 2 0 0 0 0 []) →
      ∃ t, exec (.closeSession e) s = .next t ∧ t.Answered (mkReq e 2 0 0 0 0 []) .ok ∧ t.session? e.session.toNat = none ∧
        (∀ k, k ≠ e.session.toNat → t.session? k = s.session? k) ∧ t.bare = (s.closeSession e.session.toNat).bare) ∧
    (∀ x, s.Takes x (mkReq e 3 0 0 0 0 []) →
      ∃ t, exec (.keepalive e) s = .next t ∧ s.RespondsAs t (mkReq e 3 0 0 0 0 []) .ok) ∧
    (∀ (n : Fin 48) x, s.session? n = some x →
      ∃ t, exec (.sessionTimeout n) s = .next t ∧ t.session? n = none ∧ t.lintVal .OD_TIMEOUT 0 = satInc (s.lintVal .OD_TIMEOUT 0) 1 ∧
        (∀ k, k ≠ n.val → t.session? k = s.session? k) ∧ ((s.lint .OD_TIMEOUT).closeSession n).EndsAs t)

/-- R8, R514, R523, R527: reads. A READ of a scalar object that may be read answers OK with as many bytes as its type has; of a writable entry
(TS_UTC_OFFSET beside, which shows what the time source gives) it returns the committed value, or with SHADOW the pending one; of a lint counter its
count. A READ of a DOMAIN entry that is writable returns the first bytes of its value, as many as it asks for and at most 1424. A READ of the RC
subindex of a lint counter returns the count and clears it, one of CAM_TP_BITS_RC the bits and clears them. INFO returns the 48 bytes that
describe an object. Beside a cleared entry nothing changes but the session's bookkeeping. -/
def Obligations.Reads : Prop :=
  ∀ (s : State) (x : Session) (e : Envelope) (index : BitVec 16) (sub : BitVec 8), s.Settled →
    (∀ ob, s.Takes x ⟨e, 4, index, sub, 0, 0, []⟩ → resolve s.crewCount index.toNat sub.toNat = some ob → ob.access ≠ .wo → ob.ty ≠ .domain →
      (ob.access ≠ .rc →
        ∃ t v, exec (.read e index sub 0 0) s = .next t ∧ s.RespondsAs t ⟨e, 4, index, sub, 0, 0, []⟩ .ok ∧
          t.AnsweredWith ⟨e, 4, index, sub, 0, 0, []⟩ .ok (v.enc ob.ty.size) ∧
          (∀ E i k, ob = .ent E i k → E.row.acc = .rw → E ≠ .TS_UTC_OFFSET →
            v = if e.shadow then amGet s.od.shadows (E.key i k) (s.val E i k) else s.val E i k) ∧
          (∀ l i, ob = .lint l i → v = .num (s.lintVal l i)) ∧
          ∀ g, ob = .status g → v = .num (s.groupStatus g)) ∧
      (∀ l i, ob = .lintRc l i →
        ∃ t, exec (.readAndClear e index sub) s = .next t ∧ (s.lintClear l i).RespondsAs t ⟨e, 4, index, sub, 0, 0, []⟩ .ok ∧
          t.AnsweredWith ⟨e, 4, index, sub, 0, 0, []⟩ .ok (leBytes 2 (s.lintVal l i)) ∧ t.lintVal l i = 0) ∧
      (∀ (p : Fin 12) k, ob = .ent .CAM_TP_BITS_RC p k →
        ∃ t, exec (.readAndClear e index sub) s = .next t ∧
          (s.modCam p (fun c => { c with tpBits := 0 })).RespondsAs t ⟨e, 4, index, sub, 0, 0, []⟩ .ok ∧
          t.AnsweredWith ⟨e, 4, index, sub, 0, 0, []⟩ .ok (leBytes 4 s.cams[p].tpBits) ∧ t.cams[p].tpBits = 0)) ∧
    (∀ E i k (len : BitVec 16), s.Takes x ⟨e, 4, index, sub, 0, len, []⟩ → resolve s.crewCount index.toNat sub.toNat = some (.ent E i k) →
      E.row.ty = .domain → E.row.acc = .rw → e.shadow = false →
      ∃ t, exec (.read e index sub 0 len) s = .next t ∧ s.RespondsAs t ⟨e, 4, index, sub, 0, len, []⟩ .ok ∧
        t.AnsweredWith ⟨e, 4, index, sub, 0, len, []⟩ .ok ((s.val E i k).toBytes.take (min len.toNat 1424))) ∧
    (∀ ob, s.Takes x ⟨e, 6, index, sub, 0, 0, []⟩ → resolve s.crewCount index.toNat sub.toNat = some ob →
      ∃ t, exec (.info e index sub) s = .next t ∧ s.RespondsAs t ⟨e, 6, index, sub, 0, 0, []⟩ .ok ∧
        t.AnsweredWith ⟨e, 6, index, sub, 0, 0, []⟩ .ok (s.infoBytes ob index.toNat sub.toNat))

/-- R514, R522, R524, R525, R526: writes. A WRITE of a writable scalar entry that is LIVE takes effect at once; one of an entry that is not LIVE, or the
last segment of a writable DOMAIN entry, is held as its group's shadow; a segment before the last is held by the session. -/
def Obligations.Writes : Prop :=
  ∀ (s : State) (x : Session) (e : Envelope) (index : BitVec 16) (sub : BitVec 8) (E : Ent) (i k : Nat),
    (∀ d : Bytes, d.length < 2 ^ 16 → s.MayWrite x ⟨e, 5, index, sub, 0, BitVec.ofNat 16 d.length, d⟩ (.ent E i k) → E.row.ty ≠ .domain → d.length = E.row.ty.size →
      E.row.acc = .rw → E.rsvOk (.num (leNat d)) = true → E.rangeOk i k (.num (leNat d)) = true → s.writeAllowed E i = true →
      (E.row.live = true → ((s.setVal E i k (.num (leNat d))).crewsShort = true → s.crewsShort = true) →
        ∃ t, exec (.write e index sub 0 d) s = .next t ∧ t.val E i k = .num (leNat d) ∧
          (s.setVal E i k (.num (leNat d))).RespondsAs t ⟨e, 5, index, sub, 0, BitVec.ofNat 16 d.length, d⟩ .ok) ∧
      (E.row.live = false →
        ∃ t, exec (.write e index sub 0 d) s = .next t ∧
          ({ s with od := { s.od with shadows := amInsert s.od.shadows (E.key i k) (.num (leNat d)) } } : State).RespondsAs t
            ⟨e, 5, index, sub, 0, BitVec.ofNat 16 d.length, d⟩ .ok)) ∧
    (∀ (ofs : BitVec 64) (b d : Bytes), s.MayWrite x ⟨e, 5, index, sub, ofs, BitVec.ofNat 16 d.length, d⟩ (.ent E i k) → E.row.ty = .domain →
      x.Holds ⟨e, 5, index, sub, ofs, BitVec.ofNat 16 d.length, d⟩ b → (placeKey index.toNat sub.toNat == Ent.RP_LOAD.key 0 0) = false →
      (e.last = false → (b ++ d).length ≤ s.maxLen E → ofs ≠ 0 ∨ s.firstState (.ent E i k) = true →
        ∃ t, exec (.write e index sub ofs d) s = .next t ∧ s.RespondsAs t ⟨e, 5, index, sub, ofs, BitVec.ofNat 16 d.length, d⟩ .ok) ∧
      (e.last = true → E.row.acc = .rw → E.row.live = false → s.lengthFault (.ent E i k) (b ++ d).length = none → E.rangeOk i k (.bytes (b ++ d)) = true →
        s.writeAllowed E i = true →
        ∃ t, exec (.write e index sub ofs d) s = .next t ∧
          ({ s with od := { s.od with shadows := amInsert s.od.shadows (E.key i k) (.bytes (b ++ d)) } } : State).RespondsAs t
            ⟨e, 5, index, sub, ofs, BitVec.ofNat 16 d.length, d⟩ .ok))

/-- R526, R528, R529: commits. A COMMIT of a group whose values stand its check takes the group's shadows, and they wait until their boundary; a
DISCARD drops them; at COMMIT_TAKE_EFFECT the group's values that are at their boundary take effect together, and wait no longer. (Groups whose
blocks do more when a commit takes effect, 0x16, 0x22, 0x2A, 0x2D and 0x2E, have that stated elsewhere.) -/
def Obligations.Commits : Prop :=
  ∀ (s : State) (x : Session) (e : Envelope) (g : BitVec 8),
    (s.MayWrite x (mkReq e 5 (g.toNat * 256 + 0xFF) 1 0 1 [1#8]) (.commit g.toNat) → s.commitFault g.toNat = none → g ≠ 0x2E →
      ∀ w, w = (s.od.shadows.filter (fun e => inGroup g.toNat e.1)).foldl (fun w e => amInsert w e.1 e.2) s.od.waiting →
      (∀ a ∈ w, inGroup g.toNat a.1 = true → s.nowKey a.1 a.2 = false) →
      ∃ t, exec (.commit e g) s = .next t ∧ t.Answered (mkReq e 5 (g.toNat * 256 + 0xFF) 1 0 1 [1#8]) .ok ∧
        t.od.shadows = s.od.shadows.filter (fun e => !inGroup g.toNat e.1) ∧ t.od.waiting = w ∧ t.od.committed = s.od.committed ∧
        t.field = s.field ∧ t.cox = s.cox ∧ t.cams = s.cams ∧ t.fnet = s.fnet ∧ t.mem = s.mem) ∧
    (s.MayWrite x (mkReq e 5 (g.toNat * 256 + 0xFF) 1 0 1 [2#8]) (.commit g.toNat) →
      ∃ t, exec (.discard e g) s = .next t ∧
        ({ s with od := { s.od with shadows := s.od.shadows.filter (fun e => !inGroup g.toNat e.1) } } : State).RespondsAs t
          (mkReq e 5 (g.toNat * 256 + 0xFF) 1 0 1 [2#8]) .ok) ∧
    (g ≠ 0x16 → g ≠ 0x22 → g ≠ 0x2A → g ≠ 0x2D → g ≠ 0x2E → s.Settled →
      ∀ now, now = s.od.waiting.filter (fun a => inGroup g.toNat a.1 && s.nowKey a.1 a.2) →
      ((s.applyWaiting (fun k => (now.map (·.1)).contains k)).crewsShort = true → s.crewsShort = true) →
      ∃ t, exec (.commitTakeEffect g) s = .next t ∧ (s.applyWaiting (fun k => (now.map (·.1)).contains k)).EndsAs t ∧
        ∀ a ∈ now, ∀ b ∈ t.od.waiting, b.1 ≠ a.1)

/-- R531, R532, R534, R535, R536: the cyclic image. At a cycle start that is due the cycle in progress is numbered, the latest accepted image is
applied, and the start counts as one without a new image. The TX image of the cycle in progress goes to queue 3 of CYC_PORT. An accepted RX image is
kept until the next start, any other one is counted in LINT_CYC_RX_DROP. The watchdog trips once, and is counted; with CYC_WD_ACTION 1 every entry of
the RX map is written with its default. -/
def Obligations.CyclicImage : Prop :=
  ∀ (s : State),
    (∀ u, s.Settled → u = s.applyWaiting (inGroup 0x16) → (u.crewsShort = true → s.crewsShort = true) → u.flag .CYC_ENABLE 0 = true →
      u.cycBase ≤ u.nowNs → u.cyc.latest = none →
      ∃ t, exec .cycleStart s = .next t ∧ ({ u with cyc := { u.cyc with
        cycle := (u.nowNs - u.cycBase) / u.num .CYC_PERIOD_NS 0 % 2 ^ 32, started := true, missed := u.cyc.missed + 1 } } : State).EndsAs t) ∧
    (∀ u m v b ofs n E i k, s.Settled → u = s.applyWaiting (inGroup 0x16) → u.flag .CYC_ENABLE 0 = true → u.cycBase ≤ u.nowNs →
      u.cyc.latest = some b → u.mapUsed true = [(m, v)] → mapSpan u.crewCount true v = some (ofs, n) →
      resolve u.crewCount (mapIndex v) (mapSub v) = some (.ent E i k) →
      ((E.rsvOk (.num (leNat (slice b ofs n))) && E.rangeOk i k (.num (leNat (slice b ofs n))) && u.writeAllowed E i) = true →
        ((u.setVal E i k (.num (leNat (slice b ofs n)))).crewsShort = true → s.crewsShort = true) →
        ∃ t, exec .cycleStart s = .next t ∧ t.val E i k = .num (leNat (slice b ofs n)) ∧ t.cyc.latest = none ∧ t.cyc.wdFlag = false ∧
          t.cyc.missed = u.cyc.missed + 1 ∧ t.field = s.field ∧ t.cams = s.cams) ∧
      ((E.rsvOk (.num (leNat (slice b ofs n))) && E.rangeOk i k (.num (leNat (slice b ofs n))) && u.writeAllowed E i) = false →
        (u.crewsShort = true → s.crewsShort = true) →
        ∃ t, exec .cycleStart s = .next t ∧ t.val E i k = u.val E i k ∧ t.lintVal .CYC_RX_REJECT 0 = satInc (s.lintVal .CYC_RX_REJECT 0) 1 ∧
          t.cyc.latest = none)) ∧
    (∀ (p : Fin 2), s.num .CYC_PORT 0 = p.val → s.flag .CYC_ENABLE 0 = true → s.cyc.started = true → s.fnet.ports[p].on = true →
      ∃ t image, exec .txImageSnapshot s = .next t ∧
        (s.queueFrame p 3 (s.ethOut p (if s.num .CYC_PEER_MAC 0 = 0 then bcastAddr else s.num .CYC_PEER_MAC 0) (some (s.num .FNET_PCP_CYC p.val)) 0x88B5 image) none).EndsAs t ∧
        image.drop 16 = s.txImage ∧ (s.cyc.cycle < 2 ^ 32 → fieldAt image 4 4 = s.cyc.cycle) ∧ fieldAt image 8 1 = s.dev.state.code) ∧
    (∀ (p : Fin 2) (f : Bytes), s.fnet.ports[p].on = true → s.accepts p f = true →
      (s.imageGood p (ethFrame f) = true →
        ∃ t, exec (.rxImageReceive p f) s = .next t ∧ ({ s with cyc := { s.cyc with
          anyAccepted := true, lastCycle := bits (fieldAt (ethFrame f).payload 0 16) 63 32, missed := 0, tripped := false
          latest := some (slice (ethFrame f).payload 16 (s.mapLen true)) } } : State).EndsAs t) ∧
      (s.imageGood p (ethFrame f) = false →
        ∃ t, exec (.rxImageReceive p f) s = .next t ∧ (s.lint .CYC_RX_DROP).EndsAs t)) ∧
    (s.Settled → s.flag .CYC_ENABLE 0 = true → s.num .CYC_WD_CYCLES 0 ≠ 0 → s.cyc.tripped = false → s.num .CYC_WD_CYCLES 0 ≤ s.cyc.missed →
      (s.num .CYC_WD_ACTION 0 ≠ 1 →
        ∃ t, exec .watchdogTrip s = .next t ∧
          (({ s with cyc := { s.cyc with tripped := true, wdFlag := true } } : State).lint .CYC_WD).EndsAs t) ∧
      (s.num .CYC_WD_ACTION 0 = 1 → ∀ m v E i k, s.mapUsed true = [(m, v)] → resolve s.crewCount (mapIndex v) (mapSub v) = some (.ent E i k) →
        ((s.setVal E i k (E.dflt s.part i k)).crewsShort = true → s.crewsShort = true) →
        ∃ t, exec .watchdogTrip s = .next t ∧ t.val E i k = E.dflt s.part i k ∧ t.cyc.tripped = true ∧
          t.lintVal .CYC_WD 0 = satInc (s.lintVal .CYC_WD 0) 1 ∧ t.field = s.field))

/-- R540, R542 to R545, R556: the mailboxes, the bulk aperture and the reset of the PCIe function. A go word starts the request in its cell; one to a
cell that is in use is counted in LINT_PCI_GO_BUSY, one that is not the REQ_ID in LINT_OD_CHECK. An aperture access that the rule allows reads or
writes LPDDR5; a refused one is counted and reported. A reset of the function closes the sessions of interface 2, stops the lists, and empties the
mailboxes; the link then stands at its rate and width. -/
def Obligations.PcieFunction : Prop :=
  ∀ (s : State),
    (∀ (m : Fin 16) (c : Fin 8) (msg : Bytes) (go : BitVec 32), s.boot.serverUp = true → s.pci.rate ≠ 0 →
      (s.pci.busy.any (fun b => b.1 == m.val && b.2.1 == c.val) = true →
        ∃ t, exec (.goWordWrite m c msg go) s = .next t ∧ (s.lint .PCI_GO_BUSY).EndsAs t) ∧
      (s.pci.busy.any (fun b => b.1 == m.val && b.2.1 == c.val) = false → (readRequest m.val msg).env.reqId ≠ go →
        ∃ t, exec (.goWordWrite m c msg go) s = .next t ∧ (s.lint .OD_CHECK).EndsAs t) ∧
      (s.pci.busy.any (fun b => b.1 == m.val && b.2.1 == c.val) = false → (readRequest m.val msg).env.reqId = go →
        (readRequest m.val msg).op = 3 → (readRequest m.val msg).data = [] → s.Settled → ∀ x,
        ({ s with pci := { s.pci with busy := (m.val, c.val, go.toNat) :: s.pci.busy } } : State).Takes x (readRequest m.val msg) →
        ∃ t, exec (.goWordWrite m c msg go) s = .next t ∧ s.RespondsAs t (readRequest m.val msg) .ok)) ∧
    (∀ (ofs : BitVec 64) (len : BitVec 32), s.pci.rate ≠ 0 → len ≠ 0 → s.dev.state ≠ .recovery →
      (s.apertureFault false ofs.toNat len.toNat = none →
        ∃ t, exec (.bulkApertureRead ofs len) s = .next t ∧
          ((s.bulkRead ofs.toNat len.toNat).1.emit (.aperture 0 (s.bulkRead ofs.toNat len.toNat).2)).EndsAs t) ∧
      (∀ c, s.apertureFault false ofs.toNat len.toNat = some c →
        ∃ t, exec (.bulkApertureRead ofs len) s = .next t ∧ ((s.lint .PCI_BULK_REFUSED).emit (.aperture c [])).EndsAs t)) ∧
    (∀ (ofs : BitVec 64) (data : Bytes), s.pci.rate ≠ 0 → data ≠ [] → s.dev.state ≠ .recovery →
      (s.apertureFault true ofs.toNat data.length = none →
        ∃ t, exec (.bulkApertureWrite ofs data) s = .next t ∧ (s.bulkWrite ofs.toNat data).EndsAs t) ∧
      (∀ c, s.apertureFault true ofs.toNat data.length = some c →
        ∃ t, exec (.bulkApertureWrite ofs data) s = .next t ∧ ((s.lint .PCI_BULK_REFUSED).emit (.aperture 4 [])).EndsAs t)) ∧
    (∀ (rate width : BitVec 4), s.Settled →
      ∃ t, exec (.pcieFunctionReset rate width) s = .next t ∧ t.pci.busy = [] ∧ t.pci.cells = [] ∧ t.pci.lists = [] ∧
        (∀ k, 32 ≤ k → k < 48 → t.session? k = none) ∧ (∀ k, k < 32 → t.session? k = s.session? k) ∧
        (s.boot.serverUp = true → rate.toNat ∈ [1, 2, 3, 4, 5] → width.toNat ∈ [1, 2, 4, 8] → t.pci.rate = rate.toNat ∧ t.pci.width = width.toNat) ∧
        t.pci.archive = s.pci.archive ∧ t.field = s.field ∧ t.cox = s.cox ∧ t.cams = s.cams ∧ t.mem = s.mem)

/-- R547, R552: a transfer list that PCI_XL_SUBMIT accepts joins the lists in progress; PCI_XL_ABORT marks one to stop at its next entry boundary. -/
def Obligations.ListRequests : Prop :=
  ∀ (s : State) (x : Session) (e : Envelope),
    (∀ (ofs : BitVec 64) (b d : Bytes) compl irq es, s.MayWrite x (wrSeg e .PCI_XL_SUBMIT 0 ofs d) (.ent .PCI_XL_SUBMIT 0 0) →
      x.Holds (wrSeg e .PCI_XL_SUBMIT 0 ofs d) b → e.last = true → (b ++ d).length ≤ Ent.PCI_XL_SUBMIT.row.maxLen →
      readXl (b ++ d) e.reqId.toNat = some (compl, irq, es) → s.pci.lists.length < 4 →
      ∃ t, exec (.pciXlSubmit e ofs d) s = .next t ∧
        ({ s with pci := { s.pci with lists := s.pci.lists ++
          [⟨e.reqId.toNat, e.session.toNat, compl, irq, es, 0, [], 0, false, false, none, false⟩] } } : State).RespondsAs t (wrSeg e .PCI_XL_SUBMIT 0 ofs d) .ok) ∧
    (∀ (v : BitVec 32) l, s.MayWrite x (wrNum e .PCI_XL_ABORT 0 v.toNat) (.ent .PCI_XL_ABORT 0 0) → s.xlist? v.toNat = some l →
      ∃ t, exec (.pciXlAbort e v) s = .next t ∧
        (s.modList v.toNat (fun l => { l with abort := true })).RespondsAs t (wrNum e .PCI_XL_ABORT 0 v.toNat) .ok)

/-- R549 to R553: the entries of a transfer list. OD_WRITE takes what host memory delivers: a segment before the last joins the run, the last one
writes the value. OD_READ writes the value of an entry to host memory; BULK_IN and BULK_OUT move bytes between host memory and LPDDR5; ARCHIVE
writes the whole unread records that fit, and they are read. A list whose entry is done goes on to the next one; after the last one, or a failed one,
it ends with its completion record, and a failed one is noted in PCI_XL_FAULT. -/
def Obligations.TransferLists : Prop :=
  ∀ (s : State) (id : BitVec 32) (l : XList) (e : XlEntry), s.Settled →
    (∀ host E i k, s.listEntry id.toNat 1 = some (l, e) → s.xlist? id.toNat = some l → resolve s.crewCount e.index e.sub = some (.ent E i k) →
      s.runStart l e (.ent E i k) = none →
      (e.more = true → E.row.ty = .domain → (l.run ++ fit host e.len).length ≤ s.maxLen E →
        ∃ t, exec (.odWrite id host true) s = .next t ∧ t.xlist? id.toNat = some { l with run := l.run ++ fit host e.len, result := some 0, lastBytes := e.len } ∧
          t.field = s.field ∧ t.cox = s.cox ∧ t.od = s.od) ∧
      (e.more = false → l.run = [] → E.row.ty ≠ .domain → e.len = E.row.ty.size → E.row.acc = .rw → E.row.live = true → host.length = e.len →
        E.rsvOk (.num (leNat host)) = true → E.rangeOk i k (.num (leNat host)) = true → s.writeAllowed E i = true →
        ((s.setVal E i k (.num (leNat host))).crewsShort = true → s.crewsShort = true) →
        ∃ t, exec (.odWrite id host true) s = .next t ∧ t.val E i k = .num (leNat host) ∧
          t.xlist? id.toNat = some { l with run := [], result := some 0, lastBytes := e.len } ∧ t.field = s.field ∧ t.cox = s.cox) ∧
      (∃ t, exec (.odWrite id host false) s = .next t ∧ (s.hostError id.toNat (min host.length e.len)).EndsAs t)) ∧
    (∀ E i k, s.listEntry id.toNat 2 = some (l, e) → s.xlist? id.toNat = some l → resolve s.crewCount e.index e.sub = some (.ent E i k) →
      E.row.acc = .rw → E ≠ .TS_UTC_OFFSET → ((s.val E i k).enc E.row.ty.size).length ≤ e.len →
      ∃ t, exec (.odRead id) s = .next t ∧ Out.hostWrite e.host ((s.val E i k).enc E.row.ty.size) ∈ t.sent ∧
        t.xlist? id.toNat = some { l with result := some 0, lastBytes := ((s.val E i k).enc E.row.ty.size).length, run := l.run } ∧
        t.field = s.field ∧ t.cox = s.cox ∧ t.od = s.od) ∧
    (∀ host, s.listEntry id.toNat 3 = some (l, e) → s.bulkAllowed true e.bulk e.len = (e.len, false) →
      ∃ t, exec (.bulkIn id host true) s = .next t ∧ ((s.bulkWrite e.bulk ((fit host e.len).take e.len)).entryDone id.toNat 0 e.len).EndsAs t) ∧
    (s.listEntry id.toNat 4 = some (l, e) → e.len ≠ 0 → s.bulkAllowed false e.bulk e.len = (e.len, false) →
      ∃ t, exec (.bulkOut id) s = .next t ∧
        (((s.bulkRead e.bulk e.len).1.emit (.hostWrite e.host (s.bulkRead e.bulk e.len).2)).entryDone id.toNat 0 e.len).EndsAs t) ∧
    (s.listEntry id.toNat 5 = some (l, e) → s.xlist? id.toNat = some l →
      ∃ t, exec (.archive id) s = .next t ∧ t.pci.archive.unread = s.pci.archive.unread.drop (recordsIn e.len s.pci.archive.unread).length ∧
        t.pci.archive.read = s.pci.archive.read + (recordsIn e.len s.pci.archive.unread).length ∧ t.pci.archive.written = s.pci.archive.written ∧
        (recordsIn e.len s.pci.archive.unread ≠ [] → Out.hostWrite e.host (recordsIn e.len s.pci.archive.unread).flatten ∈ t.sent) ∧
        t.field = s.field ∧ t.cox = s.cox ∧ t.od = s.od) ∧
    (s.xlist? id.toNat = some l → l.id = id.toNat →
      (l.result = some 0 → l.abort = false → l.pos + 1 < l.entries.length →
        ∃ t, exec (.xlEntryComplete id) s = .next t ∧ t.xlist? id.toNat = some { l with pos := l.pos + 1, result := none, waits := false } ∧
          t.field = s.field ∧ t.cox = s.cox ∧ t.od = s.od) ∧
      (l.result = some 0 → l.pos + 1 = l.entries.length → l.silent = false →
        ∃ t rec, exec (.xlEntryComplete id) s = .next t ∧ t.xlist? id.toNat = none ∧ Out.hostWrite l.compl rec ∈ t.sent ∧
          fieldAt rec 1 1 = Status.ok.code ∧ fieldAt rec 4 4 = id.toNat ∧ (l.irq = true → Out.msix 1 ∈ t.sent) ∧ t.pci.fault = s.pci.fault) ∧
      (∀ c, l.result = some (c + 1) → c + 1 < 256 → l.silent = false →
        ∃ t rec, exec (.xlEntryComplete id) s = .next t ∧ t.xlist? id.toNat = none ∧ Out.hostWrite l.compl rec ∈ t.sent ∧
          fieldAt rec 1 1 = c + 1 ∧ fieldAt rec 4 4 = id.toNat ∧ t.pci.fault = l.id + l.pos * 2 ^ 32 + (c + 1) * 2 ^ 48))

/-- R49 to R53, R62: lines and triggers of a port that runs. A line whose header is the expected one is stored with the oldest trigger's data, and a
bad CRC is marked and counted; a line that a fill line has replaced is only counted. A timed-out trigger leaves with a fill line that takes the
expected counter, or silently before the first line. A deferred pulse leaves, and its trigger is queued. A blanking period with wrong pattern beats is
counted, and the wrong lanes are kept. -/
def Obligations.CameraLines : Prop :=
  ∀ (s : State) (p : Fin 12), s.camRuns p = true →
    (∀ head px tr time mono pos w t r e (bad : Bool), s.cams[p].opened = some w → w.lines < w.total → s.cams[p].trigs = t :: r → s.cams[p].expected = some e →
      s.num .CAM_LATE_LIMIT p = 0 → bits (BitVec.toNat head) 27 24 = 1 → bits (BitVec.toNat head) 31 28 = 0 → BitVec.toNat head % 2 ^ 24 = e →
      s.cams[p].consumed.contains e = false →
      px.length = (s.camW p + beatPixels (s.num .CAM_PACKING p) - 1) / beatPixels (s.num .CAM_PACKING p) →
      bad = decide (crc16 ((BitVec.toNat head :: px.map BitVec.toNat).flatMap (leBytes 4)) ≠ BitVec.toNat tr % 65536) →
      ∃ u v, exec (.camLineEnd p (head :: (px ++ [tr])) false false time mono pos) s = .next u ∧
        v = (s.modCam p (fun _ => { s.cams[p] with
          pclk := true, trigs := r, expected := some ((e + 1) % 2 ^ 24)
          opened := some { w with
            lines := w.lines + 1, last := t.pos, flags := w.flags ||| b2n bad, nCrc := satInc w.nCrc (b2n bad), nMissing := satInc w.nMissing 0
            nLate := satInc w.nLate 0, nLength := satInc w.nLength 0
            rows := w.rows ++ [⟨e, linePixels (s.num .CAM_PACKING p) (s.camW p) (s.num .CAM_FILL p) (px.map BitVec.toNat)⟩] } })) ∧
        (if bad then v.lintAt .CAM_CRC p else v).EndsAs u) ∧
    (∀ head rest fval lost time mono pos e, s.cams[p].expected = some e → bits (BitVec.toNat head) 27 24 = 1 → bits (BitVec.toNat head) 31 28 = 0 →
      s.cams[p].consumed.contains (BitVec.toNat head % 2 ^ 24) = true → s.cams[p].openNow = none →
      ∃ u, exec (.camLineEnd p (head :: rest) fval lost time mono pos) s = .next u ∧
        ((s.modCam p (fun _ => { s.cams[p] with pclk := true, pendFlags := s.cams[p].pendFlags ||| 4, pendLate := s.cams[p].pendLate + 1 })).lintAt .CAM_LATE p).EndsAs u) ∧
    (∀ t r, s.num .CAM_TRIG_SRC p ≠ 0 → s.num .CAM_LATE_LIMIT p ≠ 0 → s.cams[p].trigs = t :: r →
      (s.cams[p].expected = none →
        ∃ u, exec (.camTriggerTimeout p) s = .next u ∧ (s.modCam p (fun _ => { s.cams[p] with trigs := r })).EndsAs u) ∧
      (∀ e w, s.cams[p].expected = some e → s.cams[p].opened = some w → w.lines < w.total →
        ∃ u, exec (.camTriggerTimeout p) s = .next u ∧ ((s.modCam p (fun _ => { s.cams[p] with
          trigs := r, expected := some ((e + 1) % 2 ^ 24), consumed := (e :: s.cams[p].consumed).take 256
          opened := some { w with
            lines := w.lines + 1, last := t.pos, flags := w.flags ||| 2, nCrc := satInc w.nCrc 0, nMissing := satInc w.nMissing 1
            nLate := satInc w.nLate 0, nLength := satInc w.nLength 0
            rows := w.rows ++ [⟨e, List.replicate (s.camW p) (s.num .CAM_FILL p)⟩] } })).lintAt .CAM_MISSING p).EndsAs u)) ∧
    (∀ n, s.cams[p].deferred = n + 1 → s.cams[p].pulse = false →
      (s.num .CAM_TRIG_SRC p = 0 →
        ∃ u, exec (.camTrigDeferred p) s = .next u ∧
          ((s.modCam p (fun _ => { s.cams[p] with deferred := n, pulse := true })).emit (.camTrig p s.netTime)).EndsAs u) ∧
      (s.num .CAM_TRIG_SRC p ≠ 0 → s.cams[p].trigs.length < 16 →
        ∃ u, exec (.camTrigDeferred p) s = .next u ∧
          ((s.modCam p (fun _ => { s.cams[p] with deferred := n, pulse := true, trigs := s.cams[p].trigs ++ [⟨s.netTime, s.now, s.encPos (s.num .CAM_ENC_SRC p)⟩] })).emit (.camTrig p s.netTime)).EndsAs u)) ∧
    (∀ a b c d : BitVec 32, s.flag .CAM_TP_ENABLE p = true → s.cams[p].openNow = none →
      ∀ wrong, wrong = (a.toNat ^^^ 0x55555555) ||| (b.toNat ^^^ 0xAAAAAAAA) ||| c.toNat ||| (d.toNat ^^^ 0xFFFFFFFF) →
      (wrong ≠ 0 →
        ∃ u, exec (.blankingPeriodEnd p [a, b, c, d]) s = .next u ∧
          ((s.modCam p (fun _ => { s.cams[p] with
            pendFlags := s.cams[p].pendFlags ||| 0x40, tpBits := s.cams[p].tpBits ||| wrong })).lintAt .CAM_TESTPAT p).EndsAs u) ∧
      (wrong = 0 → exec (.blankingPeriodEnd p [a, b, c, d]) s = .next s))

/-- R59, R60, R164: SWATH_CLOSE after the last line of a swath. The record is readable with its CRC, the next buffer is allocated, and no swath is
open; a swath of a port with a FAST plan is handed on as a FAST request, unless STOP or its status keeps it. A port whose enable a commit has
cleared stops. -/
def Obligations.SwathClose : Prop :=
  ∀ (s : State) (p : Fin 12) (w done : Swath) (c : CamPort), s.cams[p].opened = some w → w.lines = w.total →
    (∀ a ∈ s.od.waiting, a.1 / 256 ≠ 0x2210 + p.val ∧ a.1 / 256 ≠ 0x2310 + p.val ∧ a.1 / 256 ≠ 0x2D50 + p.val) →
    done = { w with crc := pixelCrc w.depth w.rows, rows := if w.buf.isNone then [] else w.rows, closed := some s.now } →
    c = { s.cams[p] with opened := none, lastSwath := w.cnt, afterOverrun := w.buf.isNone, nextBuf := s.cams[p].free.head?, free := s.cams[p].free.tail
                         closed := keepClosed (s.num .CAM_SWATH_BUFS p) (done :: s.cams[p].closed) } →
    ((s.fastPlan p = none ∨ w.stopped = true ∨ w.decided = true) →
      ∃ t, exec (.swathClose p) s = .next t ∧ (s.modCam p (fun _ => if s.flag .CAM_ENABLE p then c else c.stopPort)).EndsAs t) ∧
    (∀ slot k pkg pl, s.fastPlan p = some (slot, k, pkg, pl) → w.stopped = false → w.decided = false → s.cox.stopReq = false → s.dev.state.runs = true →
      s.spoiled p w = false → (s.cox.queue.filter (fun x => x.resume.isNone)).length < 128 → s.flag .CAM_ENABLE p = true →
      ∃ t r, exec (.swathClose p) s = .next t ∧ r.kind = .fast ∧ r.slot = slot ∧ r.plan = k ∧ r.swath = some (p.val, w.cnt) ∧ r.trig = s.fabNow ∧
        t.cox.queue = queueIns r s.cox.queue ∧ t.cams[p].opened = none ∧ t.cams[p].lastSwath = w.cnt ∧ t.field = s.field ∧ t.od = s.od)

/-- R56, R65 to R74, R164, R165, R217: what follows a closed swath. The mangle makes the planes and the statistics of the oldest swath that has none;
the region-of-interest list of a swath is carried from the swath before it, or is the fallback of R74; a buffer whose rows nothing reads returns to
the port's free buffers. -/
def Obligations.SwathWork : Prop :=
  ∀ (s : State) (p : Fin 12) (w : Swath),
    (s.cams[p].toMangle = some w → w ∈ s.cams[p].closed →
      ∃ t x, exec (.mangleSwathDone p) s = .next t ∧ x ∈ t.cams[p].closed ∧ x.cnt = w.cnt ∧ x.planes = some (w.mgl.selected.map w.planeRows) ∧
        t.cams[p].stats = (w.stats p :: s.cams[p].stats).take (s.num .CAM_SWATH_BUFS p) ∧
        (∀ q, q ≠ p → t.cams[q] = s.cams[q]) ∧ t.field = s.field ∧ t.od = s.od ∧ t.mem = s.mem) ∧
    (s.cams[p].toList = some w → w ∈ s.cams[p].closed → s.fastPlan p = none →
      ((s.cams[p].swath? (w.cnt - 1)).bind (carryList w) = none → w.mgl.fallback = 0 →
        ∃ t x, exec (.roiListBuild p) s = .next t ∧ x ∈ t.cams[p].closed ∧ x.cnt = w.cnt ∧
          x.roi = some ⟨true, w.cnt, [⟨0, w.width, 0, w.total, 0, false, 0, 0⟩]⟩ ∧
          t.lintVal .ROI_FALLBACK p = satInc (s.lintVal .ROI_FALLBACK p) 1 ∧ t.field = s.field ∧ (∀ q, q ≠ p → t.cams[q] = s.cams[q])) ∧
      (∀ l, (s.cams[p].swath? (w.cnt - 1)).bind (carryList w) = some l → l.length ≤ 1024 →
        ∃ t x, exec (.roiListBuild p) s = .next t ∧ x ∈ t.cams[p].closed ∧ x.cnt = w.cnt ∧ x.roi = some ⟨false, w.cnt, l⟩ ∧
          t.field = s.field ∧ (∀ q, q ≠ p → t.cams[q] = s.cams[q]))) ∧
    (s.cams[p].returnable = some w → (s.cams[p].firstDone && s.cams[p].on && s.cams[p].nextBuf.isNone && s.cams[p].openNow.isNone) = false →
      (match w.statedDone with | some d => decide (d < s.fabNow) | none => false) = false →
      ∃ t, exec (.swathBufferRelease p) s = .next t ∧ (s.modCam p (fun c => { c with
        closed := c.closed.map (fun x => if x.cnt = w.cnt then { x with released := true } else x), free := c.free ++ [w.buf.getD 0] })).EndsAs t)

/-- R154, R155, R184 to R190: the rows of LPDDR5. A refresh changes nothing. A read of a group decodes every burst with the errors of its bits, counts
what it corrected and what it could not, and puts the data before the hub; a scrub writes back only what was corrected and holds nothing
uncorrectable; a write merges its bytes with what the group holds, and the group holds no error after it. -/
def Obligations.LpddrGroups : Prop :=
  (∀ (s : State) (c : Fin 32), exec (.refreshSlot c) s = .next s) ∧
  ∀ (s : State) (g : BitVec 32) (flips : List (BitVec 14)) (d : Bytes) (n m : Nat) (tag : Bool), s.dev.state.live = true → g.toNat < s.groups →
    decodeGroup g.toNat (s.groupData g.toNat) (s.groupFlips g.toNat flips) = (d, n, m, tag) →
    (s.num .MEM_SCRUB_PERIOD 0 ≠ 0 → ∃ t, exec (.scrubGroup g flips) s = .next t ∧ t.cox = s.cox ∧ t.field = s.field ∧ t.crews = s.crews ∧
      (0 < n → t.lintVal .LPDDR_CE 0 = satInc (s.lintVal .LPDDR_CE 0) n) ∧
      (0 < m + b2n tag → t.lintVal .LPDDR_UE 0 = satInc (s.lintVal .LPDDR_UE 0) (m + b2n tag) ∧ t.mem.lpddr = s.mem.lpddr) ∧
      (0 < n → m + b2n tag = 0 → t.mem.lpddr = memWriteN s.mem.lpddr (1984 * g.toNat) (fit d 1984) ∧ amGet? t.mem.lpddrErr g.toNat = none) ∧
      (n = 0 → t.mem.lpddr = s.mem.lpddr)) ∧
    (∀ (k : Fin 64) (crew : Fin 6) (stroke pass : BitVec 32), ∃ t, exec (.lpddrGroupRead g flips k crew stroke pass false) s = .next t ∧
      t.mem.hub = some (g.toNat, d) ∧ t.mem.lpddr = s.mem.lpddr ∧ t.field = s.field ∧ t.crews = s.crews ∧
      (0 < n → t.lintVal .LPDDR_CE 0 = satInc (s.lintVal .LPDDR_CE 0) n) ∧
      (0 < m + b2n tag → t.lintVal .LPDDR_UE 0 = satInc (s.lintVal .LPDDR_UE 0) (m + b2n tag) ∧
        ∀ h, amGet? s.cox.heats k = some h → ∃ h' e, amGet? t.cox.heats k = some h' ∧ h'.errors = h.errors ++ [e] ∧ e.serial = h.serial) ∧
      (m + b2n tag = 0 → t.cox = s.cox)) ∧
    (∀ (o : Fin 1984) (b : Bytes), ∃ t, exec (.lpddrGroupWrite g o b) s = .next t ∧ t.cox = s.cox ∧ t.field = s.field ∧ t.crews = s.crews ∧ t.od = s.od ∧
      amGet? t.mem.lpddrErr g.toNat = none ∧
      (flips = [] → t.mem.lpddr = memWriteN s.mem.lpddr (1984 * g.toNat) (fit (putBytes d o.val b) 1984)))

/-- R22, R111 to R121, R125 to R129: a shell. A good weight packet whose step is free loads its buffer; a wavefront with the tile of its tag adds the
sums of its columns to the foot, and takes its set's time; a packet that fails R22, a wavefront without its tile, a failed check of the sums, of the
foot or of the readout is a detected error; a held packet acts when its step allows it; a row that is complete leaves the foot as outputs. -/
def Obligations.Shells : Prop :=
  ∀ (s : State) (c : Fin 6) (sh : Fin 68) (sub : Fin 3) (k stroke pass : Nat) (h : Heat) (p : Package) (x : Pass) (b : Bytes),
    s.AtPass k stroke pass h p x b →
    (∀ (pb kb : BitVec 32) (q : Packet), pb.toNat = pass → s.heatOf q.serial = some (k, h) → q.stroke = stroke →
      (s.packetGood q = false → s.UnderLimit (.crew c.val) →
        ∃ t, exec (.weightTileLoad c sh sub pb kb q) s = .next t ∧ s.Detects t k 1 c.val 0x3FF stroke pass) ∧
      (∀ i : Fin 2, i.val = (if q.wset = 0 then 0 else 1) → s.packetGood q = true → (s.shell c sh).held = [] → (s.shell c sh).freeAt[i] ≤ s.shCycle sub →
        ∃ t, exec (.weightTileLoad c sh sub pb kb q) s = .next t ∧ (s.modShell c sh (fun y => { y with bufs := y.bufs.set i (some
          ⟨q.serial, stroke, pass, kb.toNat, tileCols (matStroke b) x kb.toNat q.payload,
            tileCheck (if (matStroke b).grouped then 32 else (matStroke b).blk) (tileCols (matStroke b) x kb.toNat q.payload), s.shCycle sub + 15⟩) })).EndsAs t)) ∧
    (∀ (pb kb : BitVec 32) (row : Fin 64) (q : Packet) (i : Fin 2), i.val = (if q.wset = 0 then 0 else 1) → pb.toNat = pass → s.heatOf q.serial = some (k, h) →
      q.stroke = stroke → s.packetGood q = true → (s.shell c sh).held = [] → (s.shell c sh).refused.contains (q.serial, stroke) = false →
      (∀ (u : Option (Nat × Int)) (r : Bool), (s.shell c sh).bufs[i] = none → s.UnderLimit (.shell c sh) →
        ∃ t, exec (.wavefrontEnter c sh sub pb kb row q u r) s = .next t ∧ s.Detects t k 5 c.val sh.val stroke pass) ∧
      (∀ (y : Tile) (sums : List ColSum), (s.shell c sh).bufs[i] = some y → y.loaded < s.shCycle sub →
        y.serial = q.serial → y.stroke = stroke → y.pass = pass → y.kblock = kb.toNat →
        sums = (List.range 32).map (fun j => colSum (matStroke b) (wavePairs (s.waveElems h p (matStroke b) x kb.toNat row.val q.payload) (y.cols.getD j [])) 0) →
        (sums.map (·.res)).sum % 65535 = waveCheck (s.waveElems h p (matStroke b) x kb.toNat row.val q.payload) y.check →
        ∃ t f, exec (.wavefrontEnter c sh sub pb kb row q none false) s = .next t ∧ amGet? (t.shell c sh).foot row.val = some f ∧
          f.blocks = ((s.shell c sh).footRow row q.serial stroke pass).blocks + 1 ∧
          f.cols = (((s.shell c sh).footRow row q.serial stroke pass).cols.zip sums).map (fun e => e.1.add (matStroke b) e.2) ∧
          (t.shell c sh).freeAt[i] = s.shCycle sub + 32 * (matStroke b).interval + 8 ∧ t.cox = s.cox ∧ t.saf = s.saf ∧ t.field = s.field ∧ t.mem = s.mem)) ∧
    ((s.shell c sh).held = [] → exec (.heldPacketRelease c sh sub) s = .next s) ∧
    (∀ (y : HeldPacket) (r : List HeldPacket) (s1 : State), (s.shell c sh).held = y :: r → s.shellTake c sh (s.shCycle sub) y = .acted s1 → s1.kernel = s.kernel →
      ∃ t, exec (.heldPacketRelease c sh sub) s = .next t ∧ (s1.modShell c sh (fun q => { q with held := r })).EndsAs t) ∧
    (∀ (row : Fin 64) (f : FootRow) (s1 s2 : State), amGet? (s.shell c sh).foot row = some f → s.heatOf f.serial = some (k, h) → f.stroke = stroke → f.pass = pass →
      f.blocks = x.kbs → f.cols.length = 32 → s1 = s.modShell c sh (fun q => { q with foot := amErase q.foot row }) →
      (∀ e ∈ f.cols, (matStroke b).isHalf = true ∨ rhoAt e.acc.acc (matStroke b).anchor = e.res) →
      (s.UnderLimit (.shell c sh) → ∃ t, exec (.rowReadout c sh row none true) s = .next t ∧ s.Detects t k 4 c.val sh.val stroke pass ∧
        amGet? (t.shell c sh).foot row = none) ∧
      (x.isPartial (matStroke b) = false →
        s2 = s1.readOut k (matStroke b) (((f.cols).zip (List.range 32)).map (fun e => (x.m0 + row.val, x.n0 + e.2, e.1))) →
        row.val + 1 ≠ x.rows → ∃ t, exec (.rowReadout c sh row none false) s = .next t ∧ s2.EndsAs t) ∧
      (x.isPartial (matStroke b) = true → row.val + 1 ≠ x.rows → ∃ t, exec (.rowReadout c sh row none false) s = .next t ∧
        (s1.modHeat k (fun h => { h with partials := h.partials ++ [⟨stroke, pass, row.val, f.cols.map (·.word (matStroke b))⟩] })).EndsAs t))

/-- R22, R104, R122, R130 to R133, R155, R172 to R175, R259 to R264, R289, R295 to R298, R301, R338: the other units of a crew and the streams. A pass
without an error writes what its unit forms, and ends; a press block writes what it decodes to, and is counted; a difference or an error that
a unit's checks find is a detected error, with nothing written. -/
def Obligations.Engines : Prop :=
  ∀ (s : State) (k : Fin 64) (st ps : BitVec 32) (h : Heat) (p : Package) (x : Pass) (b : Bytes), s.AtPass k st.toNat ps.toNat h p x b →
    (strokeKind b ≤ 1 → x.fold = true →
      (∀ g : Nat → List FootEntry, (∀ r < x.rows, s.foldRow h (matStroke b) x r s.squad.arrived = (g r, true, s.squad.arrived)) →
        ∃ t, exec (.foldPass k st ps false) s = .next t ∧ ((s.readOut k (matStroke b) ((List.range x.rows).flatMap (fun r =>
          ((g r).zip (List.range x.cols)).map (fun y => (x.m0 + r, x.n0 + y.2, y.1))))).passEnds k x true).EndsAs t) ∧
      (x.unitKind ≠ 0 → s.UnderLimit (.scull (h.crews.getD x.rank 0)) →
        ∃ t, exec (.foldPass k st ps true) s = .next t ∧ s.Detects t k 6 (h.crews.getD x.rank 0) 0x3FF st.toNat ps.toNat)) ∧
    (strokeKind b ≤ 1 → x.fold = false → x.unitKind = 1 →
      (x.isPartial (matStroke b) = false →
        ∃ t, exec (.scullPass k st ps false) s = .next t ∧ ((s.readOut k (matStroke b) ((List.range x.rows).flatMap (fun r =>
          (List.range x.cols).map (fun c => (x.m0 + r, x.n0 + c, s.entry h p (matStroke b) (x.m0 + r) (x.n0 + c) x.kb0 x.kbs))))).passEnds k x true).EndsAs t) ∧
      (s.UnderLimit (.scull (h.crews.getD x.rank 0)) →
        ∃ t, exec (.scullPass k st ps true) s = .next t ∧ s.Detects t k 6 (h.crews.getD x.rank 0) 0x3FF st.toNat ps.toNat)) ∧
    (∀ u, strokeKind b = 2 → u = s.sweepAppend k h p st.toNat (sweepStroke b) →
      (x.fold = false → ∃ t, exec (.sweepPass k st ps false) s = .next t ∧
        ((u.sweepOut k h p (sweepStroke b) x ((u.passRows h (sweepStroke b) x).map (fun e =>
          ⟨st.toNat, ps.toNat, e.1, e.2, u.nodeState h p (sweepStroke b) x e.1 e.2⟩))).passEnds k x false).EndsAs t) ∧
      (u.UnderLimit (.sweep (h.crews.getD x.rank 0)) → ∃ t, exec (.sweepPass k st ps true) s = .next t ∧
        u.Detects t k 7 (h.crews.getD x.rank 0) 0x3FF st.toNat ps.toNat)) ∧
    (strokeKind b = 3 → oarOp b = 3 → ∃ t, exec (.cropCut k st ps) s = .next t ∧ t.field = s.field ∧ t.cams = s.cams ∧ t.kv = s.kv ∧ t.mem = s.mem ∧ t.crews = s.crews ∧
      ∀ hh, amGet? s.cox.heats k = some hh → ∃ h2, amGet? t.cox.heats k = some h2 ∧ h2.passesDone = (x.stroke, x.num) :: hh.passesDone) ∧
    (∀ (row block : BitVec 32) (t0 : TensorDesc) (e : Bytes) (nan : Bool) (y z : State), strokeKind b = 3 → oarOp b = 4 → p.td ((oarInputs b).headD 0) = some t0 →
      (t0.pressCoords row.toNat block.toNat).isEmpty = false →
      pressEncode (pressRate b) ((t0.pressCoords row.toNat block.toNat).map (t0.get (s.tensor h p ((oarInputs b).headD 0)))) = (e, nan) →
      y = (if nan then s.lint .PRESS_NAN else s) → z = { y with units := { y.units with pressBlocks := wrapAdd 64 y.units.pressBlocks 1 } } →
      row.toNat + 1 ≠ x.m0 + x.rows →
      ∃ t, exec (.pressEncode k st ps row block) s = .next t ∧
        (z.writeTensor k (oarOut b) true ((t0.pressCoords row.toNat block.toNat).zip (pressDecode (pressRate b) t0.fmt e))).EndsAs t) ∧
    (∀ (block : Bytes), strokeKind b = 3 → oarOp b = 4 → ∃ t, exec (.pressDecode k st block) s = .next t ∧
      (s.modHeat k (fun h' => { h' with delivered := amInsert h'.delivered 0x10000 (unitBytes (p.fmtOf (oarOut b)) true 32 (pressDecode (pressRate b) (p.fmtOf (oarOut b)) block)) })).EndsAs t) ∧
    (∀ (sd : BitVec 16) (c : Fin 6) (data : Bytes) (d : StreamDesc) (td : TensorDesc), p.streams[sd.toNat]? = some d → p.td d.td = some td → (d.coords td).isEmpty = false →
      (d.write = true → ∃ t, exec (.streamTransfer k sd c st ps data none false) s = .next t ∧
        (s.writeTensor k d.td d.sat (((d.coords td).map (fun c => c.map Int.toNat)).zip (unitValues d.fmtUnit (d.inner td) data))).EndsAs t) ∧
      (d.write = false → ∃ t, exec (.streamTransfer k sd c st ps data none false) s = .next t ∧
        (s.modHeat k (fun h' => { h' with delivered := amInsert h'.delivered sd.toNat (unitBytes d.fmtUnit d.sat (d.inner td) (d.values td (s.tensor h p d.td))) })).EndsAs t))

/-- R129, R165, R192 to R194, R216, R228, R230, R568, R569: heats. A stroke whose passes have ended is marked complete and what it wrote becomes visible; a
heat whose strokes are complete gives its outputs, and its entry waits for the end of its period; a heat at its supervision limit ends INVALID and
is counted; a save ends with its section, and the last one leaves the heat SAVED with a request to resume; a restore writes the blocks of a
section whose CRC is right, and any other ends the heat. -/
def Obligations.Heats : Prop :=
  (∀ (s : State) (k : Fin 64) (st : BitVec 32) (h : Heat) (p : Package) (b : Bytes), s.heatPkg k = some (h, p) → h.strokeOf p st.toNat = some b →
    h.strokesDone.contains st.toNat = false → h.started = true → h.strokeReady st.toNat = true →
    ∃ t h', exec (.strokeComplete k st) s = .next t ∧ amGet? t.cox.heats k = some h' ∧ h'.strokesDone = insNat st.toNat h.strokesDone ∧
      (∀ x, amGet? h.building (strokeOutput b) = some x → h'.tensors = amInsert h.tensors (strokeOutput b) x) ∧
      t.field = s.field ∧ t.od = s.od ∧ t.mem = s.mem ∧ t.crews = s.crews ∧ t.squad = s.squad ∧ t.saf = s.saf ∧ t.recs = s.recs) ∧
  (∀ (s u : State) (k : Fin 64) (sub : Fin 6) (l : List (BitVec 32)) (h : Heat) (p : Package), s.heatPkg k = some (h, p) → h.completes = true →
    h.spanStart = none → s.fabNow + sub.val = h.statedDone → u = s.complete_ k h p (l.map BitVec.toNat) → (u.crewsShort = true → s.crewsShort = true) →
    ∃ t, exec (.heatComplete k sub l) s = .next t ∧ u.EndsAs t ∧
      (h.req.kind = .background → h.tensors = [] → h.replay = false → t.cox.heats = amInsert s.cox.heats k { h with imageDone := true, state := .reserve } ∧
        t.recs.resultCount = s.recs.resultCount + 1 ∧ t.field = s.field ∧ t.boot = s.boot ∧ t.mem = s.mem)) ∧
  (∀ (s u : State) (k : Fin 64) (h : Heat), amGet? s.cox.heats k = some h → h.imageDone = false →
    u = ((s.lint .SAF_OVERTIME).endInvalid k .overtime none).event 6 [] → (u.crewsShort = true → s.crewsShort = true) →
    ∃ t, exec (.heatOvertime k) s = .next t ∧ u.EndsAs t) ∧
  (∀ (s : State) (k c : Nat) (rest : List (Nat × Nat)) (h : Heat), s.cox.transfer = true → s.cox.saves = (k, c) :: rest → amGet? s.cox.heats k = some h →
    (rest.any (fun x => x.1 == k) = true → ∃ t, exec .saveDone s = .next t ∧
      amGet? t.cox.heats k = some { h with sections := h.sections ++ [s.section_ h c], toSave := h.toSave.filter (· != c) } ∧
      t.cox.saves = rest ∧ t.cox.transfer = false ∧ t.mem = s.mem ∧ t.field = s.field ∧ t.od = s.od) ∧
    (rest.any (fun x => x.1 == k) = false → ∃ t, exec .saveDone s = .next t ∧
      amGet? t.cox.heats k = some { h with sections := h.sections ++ [s.section_ h c], toSave := h.toSave.filter (· != c), state := .saved } ∧
      t.cox.saves = rest ∧ t.cox.transfer = false ∧ t.mem = s.mem ∧ t.field = s.field)) ∧
  (∀ (s : State) (k : Nat) (c : Fin 6) (rest : List (Nat × Nat)) (h : Heat) (sec : SaveSection), s.cox.transfer = true → s.cox.saves = [] →
    s.cox.restores = (k, c.val) :: rest → amGet? s.cox.heats k = some h → h.sectionAt ((h.crews.findIdx? (· == c.val)).getD 0) = some sec →
    (crc32c (sec.blocks.flatMap (·.2)) = sec.check → ∃ t, exec (.restoreDone true) s = .next t ∧
      amGet? t.cox.heats k = some { h with toRestore := h.toRestore.filter (· != c.val) } ∧ t.cox.restores = rest ∧ t.cox.transfer = false ∧
      t.mem.scratch = s.mem.scratch.set c (sec.blocks.foldl (fun m b => memWriteN m (65536 * b.1) b.2) s.mem.scratch[c]) ∧ t.field = s.field ∧ t.od = s.od) ∧
    (∀ (good : Bool) (u : State) (e : DetError), good = false ∨ crc32c (sec.blocks.flatMap (·.2)) ≠ sec.check →
      e = ⟨0x0C, c.val, 0x3FF, sec.nextStroke, 0, h.serial, s.cox.period, s.now, true, .check⟩ →
      u = ((s.modCox (fun q => { q with restores := rest, transfer := false })).lint .SAVE_CHECK).endInvalid k .check (some e) →
      (u.crewsShort = true → s.crewsShort = true) → ∃ t, exec (.restoreDone good) s = .next t ∧ u.EndsAs t))

/-- R182, R212, R213 to R218, R223, R226: the rota, the power buckets and the settling of crews. The rota runs in ARMED, RUN and DEGRADED alone: there
a period boundary ends a period, and with no heat to begin, nothing to move and nothing to rinse that is all it does. A window of the regulator refills every
bucket by its rate up to its depth, less what was used. A crew that has settled takes heats again. -/
def Obligations.Rota : Prop :=
  (∀ s : State, s.dev.state.active = false → exec .rotaPeriodBoundary s = .next s) ∧
  (∀ s u : State, s.dev.state.active = true → u = s.periodBoundary → (u.crewsShort = true → s.crewsShort = true) →
    ∃ t, exec .rotaPeriodBoundary s = .next t ∧ u.EndsAs t ∧
      (s.cox.heats = [] → s.od.waiting = [] → s.cox.saves = [] → s.cox.restores = [] → s.cox.admitting = false → s.cox.stopReq = false →
        s.inSwatch (s.cox.period + 2) = false → s.inRinse (s.cox.period + 1) = false →
        t.cox = { s.cox with period := s.cox.period + 1 } ∧ t.saf = { s.saf with running := [] } ∧ t.field = s.field ∧ t.od = s.od ∧ t.mem = s.mem)) ∧
  (∀ s : State, s.dev.state.active = false → exec .regulatorWindow s = .next s) ∧
  (∀ s : State, s.dev.state.active = true → ∃ t, exec .regulatorWindow s = .next t ∧ t.cox.window = s.cox.window + 1 ∧ t.field = s.field ∧ t.od = s.od ∧
    ∀ i : Fin 8, t.cox.partitions[i].darnUsed = 0 ∧ t.cox.partitions[i].tokens = min (s.num .PART_DEPTH i)
      (s.cox.partitions[i].tokens - (amGet s.cox.partitions[i].reserved s.cox.window 0 + s.cox.partitions[i].darnUsed) + s.num .PART_RATE i)) ∧
  (∀ (s : State) (c : Fin 6), amGet? s.cox.settling c = none → exec (.settleComplete c) s = .next s) ∧
  (∀ (s : State) (c : Fin 6) (n : Nat), amGet? s.cox.settling c = some n → ∃ t, exec (.settleComplete c) s = .next t ∧
    amGet? t.cox.settling c = none ∧ t.cox.settleLast = (s.now - n) / 400 % 2 ^ 32 ∧ t.cox.heats = s.cox.heats ∧ t.field = s.field ∧ t.od = s.od)

/-- R561, R566, R570 to R575, R584, R586, R588: the safety supervisor. A slice that passes stamps its status; a slice that fails is counted and is the last error; an
overdue slice raises RINSE_OVERDUE, which takes the crew of the slice out where its action says so; a swath that the supervisor still expects
gets a LATE record of its own; a mismatch raises its event; every event is latched. The store of lost time writes the stored entries. -/
def Obligations.Supervision : Prop :=
  (∀ (s : State) (x : Slice) (hx : x.num < 75), s.saf.running.contains x = true → (s.dev.state.active && s.inRinse s.cox.period) = false →
    ∃ t, exec (.rinseSliceDone x [] none) s = .next t ∧
      (s.modSaf (fun f => { f with running := f.running.filter (fun y => !(y == x)), status := f.status.set x.num s.now })).EndsAs t) ∧
  (∀ (s : State) (x : Slice) (c p : Nat) (r : List UnitId) (b : Option (Fin 64)), s.saf.running.contains x = true → s.dev.state = .armed →
    s.inRinse s.cox.period = false → s.numAt .SAF_ACTION 0 1 = 0 → b = none →
    ∃ t e, exec (.rinseSliceDone x (.shell c p :: r) b) s = .next t ∧ t.saf.latched = setBit s.saf.latched 2 true ∧ t.saf.status = s.saf.status ∧
      t.saf.lastErr = some e ∧ e.kind = 0x0D ∧ e.crew = c ∧ e.unitNo = p ∧ t.lintVal .SAF_RINSE_FAIL 0 = satInc (s.lintVal .SAF_RINSE_FAIL 0) 1 ∧
      t.cox = s.cox ∧ t.field = s.field) ∧
  (∀ (s : State) (x : Slice), (s.supervised.contains x && s.overdue x) = false → exec (.rinseOverdue x) s = .next s) ∧
  (∀ (s u : State) (c i : Nat), s.supervised.contains (.crew c i) = true → s.overdue (.crew c i) = true → u = (s.lint .SAF_RINSE_OVERDUE).event 1 [.crew c] →
    (u.crewsShort = true → s.crewsShort = true) → ∃ t, exec (.rinseOverdue (.crew c i)) s = .next t ∧ u.EndsAs t ∧
      (s.numAt .SAF_ACTION 0 0 = 1 → t.saf.held.contains (.crew c) = true ∧ t.saf.latched = setBit s.saf.latched 1 true)) ∧
  (∀ (s : State) (p : Fin 12) (n : BitVec 64), s.saf.expected.contains (p.val, n.toNat) = false → exec (.swathWatchdog p n) s = .next s) ∧
  (∀ (s u : State) (p : Fin 12) (n : BitVec 64) (w : Swath), s.saf.expected.contains (p.val, n.toNat) = true → s.swath? p.val n.toNat = some w →
    u = ((((s.swathHeatless p.val w .late .supervisor).swathDecided p.val n.toNat).lint .SAF_SWATH_WD).event 8 []) →
    (u.crewsShort = true → s.crewsShort = true) → ∃ t, exec (.swathWatchdog p n) s = .next t ∧ u.EndsAs t) ∧
  (∀ (s : State) (p : Fin 12) (n : BitVec 64), s.cams[p].opened = none → s.swath? p.val n.toNat = none → s.dev.state = .armed → s.numAt .SAF_ACTION 0 10 = 0 →
    ∃ t, exec (.engineMismatch (.mangle p n)) s = .next t ∧ (s.modSaf (fun f => { f with latched := setBit f.latched 0x0B true })).EndsAs t) ∧
  (∀ s : State, (s.dev.state = .inert ∨ s.dev.state.active = true) → s.dev.arming = none → s.numAt .SAF_ACTION 0 11 = 2 →
    ∃ t, exec .controlMismatch s = .next t ∧ t.SafeFrom s 5 ∧ t.saf.latched = setBit s.saf.latched 0x0C true ∧ t.saf.safeEvent = 0x0C) ∧
  (∀ s : State, (s.dev.state = .inert ∨ s.dev.state = .safe ∨ s.dev.state.active = true) → ∃ t, exec .lostTimeStore s = .next t ∧ s.writeStored.EndsAs t) ∧
  (∀ s : State, s.dev.state = .boot → exec .lostTimeStore s = .next s)

/-- R424, R425, R427, R435, R436, R438, R441, R442, R445: the retune service. RT_ADD appends a sample whose header and CRC are right, and RT_REMOVE marks one; RT_PUBLISH asks
for a publication at the end of a step; RT_RESTART waits for a retune heat to end, and is done at once where there is none. A partition asks for a
decode while its ring is short, and for a step when its batch is complete; a publication held back by readers of the idle copy is made when they
are gone, under the next generation. -/
def Obligations.Retuning : Prop :=
  ∀ (s : State) (x : Session) (e : Envelope) (q : Fin 8) (slot : Nat) (p : Package) (r : RtSec), s.rtPkg q.val = some (slot, p, r) →
    (∀ (ofs : BitVec 64) (b d data : Bytes) (v : Nat), s.MayWrite x (wrSeg e .RT_ADD q.val ofs d) (.ent .RT_ADD q.val 0) →
      x.Holds (wrSeg e .RT_ADD q.val ofs d) b → e.last = true → (b ++ d).length ≤ Ent.RT_ADD.row.maxLen →
      v = fieldAt (b ++ d) 0 16 → data = (b ++ d).drop 16 → 16 ≤ (b ++ d).length → bits v 3 0 = 1 → bits v 7 4 ≤ 1 → bits v 15 8 = 0 → bits v 31 16 ≠ 0xFFFF →
      1 ≤ bits v 63 32 → bits v 63 32 ≤ 16777216 → bits v 127 96 = 0 → data.length = bits v 63 32 → crc32c data = bits v 95 64 →
      (s.rt q.val).samples.length < r.store →
      ∃ t, exec (.rtAdd e q ofs d) s = .next t ∧ (s.modRt q.val (fun t => { t with
        samples := t.samples ++ [⟨bits v 7 4 == 0, bits v 31 16, bits v 95 64, data⟩], last := some t.samples.length })).RespondsAs t (wrSeg e .RT_ADD q.val ofs d) .ok) ∧
    (∀ v : BitVec 32, s.MayWrite x (wrNum e .RT_REMOVE q.val v.toNat) (.ent .RT_REMOVE q.val 0) → v.toNat < (s.rt q.val).samples.length →
      ∃ t, exec (.rtRemove e q v) s = .next t ∧ (s.modRt q.val (fun t => { t with
        removed := if t.removed.contains v.toNat then t.removed else insNat v.toNat t.removed })).RespondsAs t (wrNum e .RT_REMOVE q.val v.toNat) .ok) ∧
    (s.MayWrite x (wrNum e .RT_PUBLISH q.val 1) (.ent .RT_PUBLISH q.val 0) →
      ∃ t, exec (.rtPublish e q 1) s = .next t ∧ (s.modRt q.val (fun t => { t with publishReq := true })).RespondsAs t (wrNum e .RT_PUBLISH q.val 1) .ok) ∧
    (s.MayWrite x (wrNum e .RT_RESTART q.val 1) (.ent .RT_RESTART q.val 0) →
      (s.rtHeat q.val = true → ∃ t, exec (.rtRestart e q 1) s = .next t ∧
        (s.modRt q.val (fun t => { t with restartReq := true })).RespondsAs t (wrNum e .RT_RESTART q.val 1) .ok) ∧
      (s.rtHeat q.val = false → ((s.rtRestart q.val slot).crewsShort = true → s.crewsShort = true) → ∃ t, exec (.rtRestart e q 1) s = .next t ∧
        (s.rtRestart q.val slot).RespondsAs t (wrNum e .RT_RESTART q.val 1) .ok)) ∧
    (s.rtAsks q.val = true → s.planOpen q.val r.decodePlan = false → (s.rt q.val).ring.length < s.num .RT_RUNAHEAD q.val →
      ((s.cox.queue.filter (fun x => x.resume.isNone)).length - ((s.cox.queue.filter (fun x => x.resume.isNone)).filter CoxReq.fast).length) +
        (((s.cox.queue.filter (fun x => x.resume.isNone)).filter CoxReq.fast).length - 48) < 80 →
      ∃ t c, exec (.decodeRequest q) s = .next t ∧ t.cox.queue = queueIns c s.cox.queue ∧ c.kind = .retune ∧ c.plan = r.decodePlan ∧ c.slot = slot ∧
        c.partition = q.val ∧ c.trig = s.fabNow ∧ c.deadline = none ∧ c.step = (if (s.rt q.val).filling = [] then (s.rt q.val).nextBatch else (s.rt q.val).nextBatch - 1) ∧
        t.field = s.field ∧ t.od = s.od ∧ t.retune = s.retune) ∧
    (s.rtAsks q.val = true → s.planOpen q.val r.stepPlan = false → (∃ b ∈ (s.rt q.val).ring, b.num = (s.rt q.val).steps ∧ b.complete = true) →
      ((s.cox.queue.filter (fun x => x.resume.isNone)).length - ((s.cox.queue.filter (fun x => x.resume.isNone)).filter CoxReq.fast).length) +
        (((s.cox.queue.filter (fun x => x.resume.isNone)).filter CoxReq.fast).length - 48) < 80 →
      ∃ t c, exec (.retuneStepRequest q) s = .next t ∧ t.cox.queue = queueIns c s.cox.queue ∧ c.kind = .retune ∧ c.plan = r.stepPlan ∧ c.slot = slot ∧
        c.partition = q.val ∧ c.trig = s.fabNow ∧ c.deadline = none ∧ c.step = (s.rt q.val).steps ∧ t.field = s.field ∧ t.od = s.od ∧ t.retune = s.retune) ∧
    ((s.rt q.val).holding = true → s.copyRead q.val (((s.rt q.val).generation + 1) % 2) = false → s.pkg? slot = some p →
      ∃ t, exec (.publicationRelease q) s = .next t ∧ (s.publish q.val slot).EndsAs t ∧ (t.rt q.val).generation = ((s.rt q.val).generation + 1) % 2 ^ 32 ∧
        (t.rt q.val).holding = false ∧ t.cox.gens[q] = ((s.rt q.val).generation + 1) % 2 ^ 32 ∧ t.field = s.field ∧ t.od = s.od) ∧
    ((s.rt q.val).holding = false → exec (.publicationRelease q) s = .next s)

/-- R201, R207, R208, R217, R234: packages and requests by the catalogue. RP_LOAD in INERT, of a container that every check accepts, fills the lowest free slot; a container
that is loaded already names its slot and changes nothing else. RP_UNLOAD in INERT empties a slot. COX_BG_REQUEST queues a request of a BACKGROUND plan with
the present as its trigger time. -/
def Obligations.Packages : Prop :=
  ∀ (s : State) (x : Session) (e : Envelope),
    (∀ (ofs : BitVec 64) (b d : Bytes), s.MayWrite x (wrSeg e .RP_LOAD 0 ofs d) (.ent .RP_LOAD 0 0) → x.Holds (wrSeg e .RP_LOAD 0 ofs d) b → e.last = true →
      (b ++ d).length ≤ s.maxLen .RP_LOAD → s.loadAssembly (some e.session.toNat) none = false → s.dev.state = .inert → headerOk (b ++ d) = true →
      s.squadPart (containerPart (b ++ d)) = false →
      (∀ (i : Fin 16) (p : Package), (∀ (j : Nat) (q : Package), s.cox.packages[j]? = some (some q) → q.digest ≠ sha512Bytes (b ++ d)) → s.loadCheck (b ++ d) = .inr p → s.freeSlot = some i →
        ((s.place i p).crewsShort = true → s.crewsShort = true) →
        ∃ t, exec (.rpLoad e ofs d) s = .next t ∧ (s.place i p).RespondsAs t (wrSeg e .RP_LOAD 0 ofs d) .ok) ∧
      (∀ i : Fin 16, (allFin 16).find? (fun i => match s.cox.packages[i] with | some p => p.digest == sha512Bytes (b ++ d) | none => false) = some i →
        ∃ t, exec (.rpLoad e ofs d) s = .next t ∧ (s.modCox (fun c => { c with lastSlot := i.val })).RespondsAs t (wrSeg e .RP_LOAD 0 ofs d) .ok)) ∧
    (∀ (v : BitVec 8) (i : Fin 16) (p : Package), s.MayWrite x (wrNum e .RP_UNLOAD 0 v.toNat) (.ent .RP_UNLOAD 0 0) → v.toNat = i.val → s.cox.packages[i] = some p →
      s.dev.state = .inert → s.squadPart p.partition = false →
      ∃ t, exec (.rpUnload e v) s = .next t ∧ (s.unload i).RespondsAs t (wrNum e .RP_UNLOAD 0 v.toNat) .ok ∧ t.cox.packages[i] = none) ∧
    (∀ (v : BitVec 16) (p : Package) (pl : Plan), s.MayWrite x (wrNum e .COX_BG_REQUEST 0 v.toNat) (.ent .COX_BG_REQUEST 0 0) → bits v.toNat 15 10 = 0 →
      s.planOf (bits v.toNat 3 0) (bits v.toNat 9 4) = some (p, pl) → pl.kind = .background → s.dev.state.runs = true → s.cox.stopReq = false →
      ((s.cox.queue.filter (fun x => x.resume.isNone)).length - ((s.cox.queue.filter (fun x => x.resume.isNone)).filter CoxReq.fast).length) +
        (((s.cox.queue.filter (fun x => x.resume.isNone)).filter CoxReq.fast).length - 48) < 80 →
      ∃ t, exec (.coxBgRequest e v) s = .next t ∧ (s.modCox (fun c => { c with nextOrder := c.nextOrder + 1, queue := queueIns ⟨.background, bits v.toNat 3 0, bits v.toNat 9 4, p.partition, s.fabNow, s.deadlineOf p.partition pl s.fabNow, s.cox.nextOrder, none, true, 0, none, false⟩ c.queue })).RespondsAs t (wrNum e .COX_BG_REQUEST 0 v.toNat) .ok)

/-- R351, R363 to R366, R368, R369: DET_GEN_IN makes the draw block of its operands and puts it into DET_GEN_OUT; a replay image that agrees with its port closes a swath of
the replay partition, which is handed on; a STATE tensor of the right size is replaced in ARMED; a sequence image puts its crop into its slot and queues
its part. What is accepted is counted. -/
def Obligations.Determinism : Prop :=
  ∀ (s : State) (x : Session) (e : Envelope) (q : Fin 8) (ofs : BitVec 64) (b d v : Bytes), v = b ++ d → e.last = true →
    (s.MayWrite x (wrSeg e .DET_GEN_IN 0 ofs d) (.ent .DET_GEN_IN 0 0) → x.Holds (wrSeg e .DET_GEN_IN 0 ofs d) b → v.length = 36 → fieldAt v 24 1 < 16 →
      ∃ t, exec (.detGenIn e ofs d) s = .next t ∧ (s.modDet (fun y => { y with
        genOut := (drawBlock (slice v 0 16) (fieldAt v 16 8) (fieldAt v 24 1) (fieldAt v 25 3) (fieldAt v 28 8)).flatMap (leBytes 4) })).RespondsAs t
          (wrSeg e .DET_GEN_IN 0 ofs d) .ok) ∧
    (∀ slot n, s.MayWrite x (wrSeg e .DET_REPLAY_STATE q.val ofs d) (.ent .DET_REPLAY_STATE q.val 0) → x.Holds (wrSeg e .DET_REPLAY_STATE q.val ofs d) b →
      v.length ≤ Ent.DET_REPLAY_STATE.row.maxLen → s.flag .DET_REPLAY_ENABLE q.val = true → s.dev.state = .armed →
      s.stateTensor q.val (fieldAt v 0 2) = some (slot, n) → v.length = 4 + n → fieldAt v 2 2 = 0 →
      ((s.setState slot (fieldAt v 0 2) (v.drop 4)).crewsShort = true → s.crewsShort = true) →
      ∃ t, exec (.detReplayState e q ofs d) s = .next t ∧
        (s.setState slot (fieldAt v 0 2) (v.drop 4)).RespondsAs t (wrSeg e .DET_REPLAY_STATE q.val ofs d) .ok) ∧
    (∀ slot p k pl r len n a evicts place tag (u : State), s.MayWrite x (wrSeg e .DET_REPLAY_SEQ q.val ofs d) (.ent .DET_REPLAY_SEQ q.val 0) →
      x.Holds (wrSeg e .DET_REPLAY_SEQ q.val ofs d) b → v.length ≤ Ent.DET_REPLAY_SEQ.row.maxLen → s.flag .DET_REPLAY_ENABLE q.val = true →
      s.slPlan q.val = some (slot, p, k, pl, r) → len = fieldAt v 4 4 → n = (match p.td r.tdCrops with | some t => t.size | none => 0) / 1024 →
      a = fieldAt v 256 32 → evicts = bits a 16 8 → 288 ≤ len → fieldAt v 0 1 % 256 = 0x21 → (v.drop len).length = n → crc32c (v.drop len) = fieldAt v 88 4 →
      crc32c (slice v 288 (8 * evicts)) = bits a 63 32 → (s.kvPart q.val).queue.length < 1024 →
      tag = fieldAt v 80 8 → place = (tag % 2 ^ 50 * r.perSwath + bits tag 59 50) % 1024 →
      u = s.setState slot r.tdCrops (putBytes (fit (p.stateOf r.tdCrops) (n * 1024)) (place * n) (v.drop len)) → (u.crewsShort = true → s.crewsShort = true) →
      ∃ t c, exec (.detReplaySeq e q ofs d) s = .next t ∧ c.id = (s.kvPart q.val).nextId ∧ c.port = tag / 2 ^ 60 ∧ c.swath = tag % 2 ^ 50 ∧ c.crop = place ∧
        c.part = fieldAt v 40 4 ∧ ((u.modKv q.val (fun y => { y with queue := y.queue ++ [c], nextId := (s.kvPart q.val).nextId + 1 })).replayed q.val).RespondsAs t
          (wrSeg e .DET_REPLAY_SEQ q.val ofs d) .ok) ∧
    (∀ (p : Fin 12) boxLen seamLen buf rest depth size g (w : Swath) (u : State), s.MayWrite x (wrSeg e .DET_REPLAY_SWATH q.val ofs d) (.ent .DET_REPLAY_SWATH q.val 0) →
      x.Holds (wrSeg e .DET_REPLAY_SWATH q.val ofs d) b → v.length ≤ Ent.DET_REPLAY_SWATH.row.maxLen → s.flag .DET_REPLAY_ENABLE q.val = true → s.dev.state.runs = true →
      s.cox.stopReq = false → replayHeader v = some (p.val, boxLen, seamLen) → depth = sampleDepth (s.num .CAM_PACKING p) → size = (if depth = 8 then 1 else 2) →
      g = s.mglCfg p → (s.num .PART_CAM_MASK q.val).testBit p.val = true → bits (fieldAt v 0 64) 415 400 = s.num .CAM_LINE_WIDTH p →
      bits (fieldAt v 0 64) 399 384 = s.camL p →
      seamLen = 0 ∨ seamLen = g.selected.length * s.num .CAM_OVERLAP p * (s.camW p * (outBytes g.outFmt depth 0).length) →
      (v.drop (80 + boxLen + seamLen)).length = s.camL p * s.camW p * size → crc32c (v.drop (80 + boxLen + seamLen)) = bits (fieldAt v 0 64) 447 416 →
      s.cams[p].free = buf :: rest → w = s.replaySwath p v boxLen seamLen buf →
      u = s.modCam p (fun c => { c with free := rest, swathCnt := w.cnt, lastSwath := w.cnt, closed := keepClosed (s.num .CAM_SWATH_BUFS p) (w :: c.closed) }) →
      (s.fastPlan p ≠ none → u.spoiled p w = false ∧ (s.cox.queue.filter (fun x => x.resume.isNone)).length < 128) →
      ∃ t, exec (.detReplaySwath e q ofs d) s = .next t ∧ ((u.handOff p w).replayed q.val).RespondsAs t (wrSeg e .DET_REPLAY_SWATH q.val ofs d) .ok)

/-- R310, R317, R330, R335, R337: after a step has ended, the manager of a partition processes the boundary, and with no step under way it takes up
its queue; a seat that follows the stroke seat reports its masses and its fill, and only advances. A cancelled entry of the queue leaves
at once as UNDECIDED; a cancelled sequence drops its pages at once and keeps its slot up to the next boundary. A flush is done at the next boundary. -/
def Obligations.Pages : Prop :=
  ∀ (s : State) (q : Fin 8),
    (s.slPlan q.val = none → exec (.kvBoundary q) s = .next s) ∧
    (∀ slot p k pl r, s.slPlan q.val = some (slot, p, k, pl, r) →
      (∀ (e : StepEnd) (u : State), s.cox.stepEnds.find? (fun e => decide (e.kind = .secondLook) && e.partition == q.val) = some e →
        u = s.modCox (fun c => { c with stepEnds := c.stepEnds.filter (fun x => !(decide (x.kind = .secondLook) && x.partition == q.val)) }) →
        (s.kvFollows = false → ((u.boundary q slot p k pl r (some e.outcome) e.heat).crewsShort = true → s.crewsShort = true) →
          ∃ t, exec (.kvBoundary q) s = .next t ∧ (u.boundary q slot p k pl r (some e.outcome) e.heat).EndsAs t) ∧
        (∀ x, s.kvFollows = true → s.squad.stroke = some x → e.outcome ≠ .done →
          ∃ t, exec (.kvBoundary q) s = .next t ∧
            ((u.sendTo x (.kvReport q (s.kvPart q).report.1 (s.kvPart q).report.2)).modKv q (fun y => y.dropPins.rescore r.decay false)).EndsAs t) ∧
        (∀ x (w : State), s.kvFollows = true → s.squad.stroke = some x → e.outcome = .done →
          w = (u.sendTo x (.kvReport q (s.kvPart q).report.1 (s.kvPart q).report.2)).modKv q (fun y => y.dropPins.rescore r.decay false) →
          ∃ t, exec (.kvBoundary q) s = .next t ∧
            ((w.modKv q KvPart.advance).treeInserts q (w.kvPart q).step r ((s.kvPart q).seqs.map (fun y => (y.1, y.2.nextPos)))).EndsAs t)) ∧
      (s.cox.stepEnds.find? (fun e => decide (e.kind = .secondLook) && e.partition == q.val) = none →
        (s.stepOpen q = false → s.kvFollows = false → s.dev.state.active = true →
          ((s.boundary q slot p k pl r none none).crewsShort = true → s.crewsShort = true) →
          ∃ t, exec (.kvBoundary q) s = .next t ∧ (s.boundary q slot p k pl r none none).EndsAs t) ∧
        (s.stepOpen q = true ∨ s.kvFollows = true → exec (.kvBoundary q) s = .next s))) ∧
    (∀ (x : Session) (e : Envelope),
      (∀ v : BitVec 64, s.MayWrite x (wrNum e .KV_CANCEL q.val v.toNat) (.ent .KV_CANCEL q.val 0) →
        (∀ y, (s.kvPart q).queue.find? (fun y => y.id == v.toNat) = some y → ∃ t, exec (.kvCancel e q v) s = .next t ∧
          ((s.slVerdict y .undecided .cancelled false).modKv q (fun k => { k with queue := k.queue.filter (fun z => z.id != v.toNat) })).RespondsAs t
            (wrNum e .KV_CANCEL q.val v.toNat) .ok) ∧
        (∀ n y, (s.kvPart q).queue.find? (fun y => y.id == v.toNat) = none →
          (s.kvPart q).seqs.find? (fun z => z.2.entry.id == v.toNat && !z.2.cancelled) = some (n, y) → ∃ t, exec (.kvCancel e q v) s = .next t ∧
          ((if y.decided then s else s.slVerdict y.entry .undecided .cancelled false).modKv q (fun k =>
            ((k.dropPages y).modSeq n (fun z => { z with pages := [], resv := 0, cancelled := true })).sweepFree)).RespondsAs t
              (wrNum e .KV_CANCEL q.val v.toNat) .ok)) ∧
      (s.MayWrite x (wrNum e .KV_TREE_FLUSH q.val 1) (.ent .KV_TREE_FLUSH q.val 0) → ∃ t, exec (.kvTreeFlush e q 1) s = .next t ∧
        (s.modKv q (fun k => { k with flush := true })).RespondsAs t (wrNum e .KV_TREE_FLUSH q.val 1) .ok))

/-- R379, R386, R388 to R390: the squelch detectors start a bring-up from DETECT and end RACK and EASY; an EASY block and a RACK block set what the far end has entered;
a port with nothing to send enters EASY, and leaves it for a cell; RACK and WAKE are written; a state that outlasts its limit fails the port with
its cause, and a FAILED port that is enabled starts again from DETECT. -/
def Obligations.LinkPower : Prop :=
  ∀ (s : State) (p : Fin 8) (c : NlPort), c = s.squad.ports[p] →
    (s.Settled →
      (c.state = .detect → ∃ t, exec (.squelchOpen p) s = .next t ∧
        (s.modPort p (fun c => { c with state := .align, lanes := c.lanes.map NlLane.realign })).EndsAs t) ∧
      (c.state = .rack → ∃ t, exec (.squelchOpen p) s = .next t ∧
        (s.modPort p (fun c => { c with state := .align, skipEq := true, farRack := false, lanes := c.lanes.map NlLane.realign })).EndsAs t) ∧
      (c.state = .easy → ∃ t, exec (.squelchOpen p) s = .next t ∧
        ((s.modPort p (fun c => { c with state := .up, easyTx := false, easyRx := false, disturbed := true })).flushCells p).EndsAs t) ∧
      (c.state = .up → ∃ t, exec (.squelchOpen p) s = .next t ∧
        (s.modPort p (fun c => { c with easyRx := false, farRack := false, disturbed := c.disturbed || c.easyRx })).EndsAs t) ∧
      (c.state = .up ∨ c.state = .easy → (∃ t, exec (.easyBlock p) s = .next t ∧ (s.modPort p (fun c => { c with easyRx := true })).EndsAs t) ∧
        (∃ t, exec (.rackBlock p) s = .next t ∧ ((s.goodBlocks p).modPort p (fun c => { c with farRack := true })).EndsAs t)) ∧
      (c.state = .up → s.num .NL_EASY_IDLE p ≠ 0 → c.replay = [] → c.waiting = [] → s.squad.spans = [] → ∃ t, exec (.easyIdleExpire p) s = .next t ∧
        ((s.sendCtrl p (ctrlBlock 0x4B)).modPort p (fun c => { c with state := .easy, easyTx := true })).EndsAs t) ∧
      (c.state = .up → s.num .NL_EASY_IDLE p = 0 ∨ c.replay ≠ [] ∨ c.waiting ≠ [] ∨ s.squad.spans ≠ [] → ∃ t, exec (.easyIdleExpire p) s = .next t ∧ s.EndsAs t) ∧
      (c.state = .easy → c.nak = none → c.unacked = 0 → ∃ t, exec (.easyExit p) s = .next t ∧
        (((s.sendCtrl p (List.replicate 8 0#8 ++ List.replicate 8 0xFF#8)).modPort p (fun c => { c with state := .up, easyTx := false, disturbed := true })).flushCells p).EndsAs t) ∧
      (c.state = .easy → ∃ t, exec (.easyExit p) s = .next t ∧ (s.easyLeave p).EndsAs t ∧ t.squad.ports[p].state = .up) ∧
      (∀ cause, (c.inAlign = true ∧ cause = 1) ∨ (c.inDeskew = true ∧ cause = if c.allLanes (·.commaSeen) then 8 else 4) ∨
          ((c.inHandshake = true ∨ c.state = .equalize) ∧ cause = 8) → ∃ t, exec (.bringupTimeout p) s = .next t ∧ (s.nlSettle (s.nlFail p cause)).EndsAs t) ∧
      (c.state = .failed → s.flag .NL_ENABLE p = true → ∃ t, exec (.failedRetry p) s = .next t ∧ (s.modPort p NlPort.toDetect).EndsAs t)) ∧
    (∀ (x : Session) (e : Envelope),
      (s.MayWrite x (wrNum e .NL_POWER_CMD p.val 1) (.ent .NL_POWER_CMD p.val 0) → s.onRoute p = false → c.state = .up ∨ c.state = .easy →
        ∃ t, exec (.rack e p) s = .next t ∧ ((s.sendCtrl p (ctrlBlock 0x66)).modPort p (fun c => { c with state := .rack, easyTx := false, easyRx := false })).RespondsAs t
          (wrNum e .NL_POWER_CMD p.val 1) .ok) ∧
      (s.MayWrite x (wrNum e .NL_POWER_CMD p.val 2) (.ent .NL_POWER_CMD p.val 0) → c.state = .rack →
        ∃ t, exec (.wake e p) s = .next t ∧ (s.modPort p (fun c => { c with state := .align, skipEq := true, lanes := c.lanes.map NlLane.realign })).RespondsAs t
          (wrNum e .NL_POWER_CMD p.val 2) .ok))

/-- R373 to R375, R379 to R385: a comma restarts the lane's descrambler; two commas 65 block times apart in either polarity align a lane, and the last lane of the port ends ALIGN; in
DESKEW a skew beyond 16 ns fails the port, and the last lane's comma fixes the lane map or fails the port; TRAIN blocks carry what the far end
asks for, has applied and has done; an evaluation measures a setting and asks for the next one or ends EQUALIZE; two missing commas in a row start RETRAIN. -/
def Obligations.LinkTraining : Prop :=
  ∀ (s : State) (p : Fin 8) (l : Fin 4) (c : NlPort) (x : NlLane) (a u : State), s.Settled → c = s.squad.ports[p] → x = c.lanes[l] →
    a = s.modLane p l (fun x => { x with blockErrs := 0 }) →
    (∀ inv gap skew, c.inAlign = true → u = a.modLane p l (fun x => { x with
        commas := (if gap.toNat = 65 ∧ x.inverted = inv then x.commas + 1 else 1), inverted := inv
        aligned := x.aligned || decide (2 ≤ (if gap.toNat = 65 ∧ x.inverted = inv then x.commas + 1 else 1)), rx := laneSeed l }) →
      (u.squad.ports[p].allLanes (·.aligned) = false → ∃ t, exec (.commaBlock p l inv gap skew) s = .next t ∧ (s.nlSettle u).EndsAs t) ∧
      (u.squad.ports[p].allLanes (·.aligned) = true → c.state = .retrain → ∃ t, exec (.commaBlock p l inv gap skew) s = .next t ∧ (s.nlSettle (u.modPort p (fun c => { c with sub := 1 }))).EndsAs t) ∧
      (u.squad.ports[p].allLanes (·.aligned) = true → c.state = .align → c.skipEq = true → ∃ t, exec (.commaBlock p l inv gap skew) s = .next t ∧
        (s.nlSettle (u.modPort p (fun c => { c with state := .deskew }))).EndsAs t) ∧
      (u.squad.ports[p].allLanes (·.aligned) = true → c.state = .align → c.skipEq = false → ∃ t, exec (.commaBlock p l inv gap skew) s = .next t ∧
        (s.nlSettle (u.alignDone p)).EndsAs t)) ∧
    (∀ inv gap skew, c.inDeskew = true →
      (16000 < skew.toNat → ∃ t, exec (.commaBlock p l inv gap skew) s = .next t ∧ (s.nlSettle (a.nlFail p 4)).EndsAs t) ∧
      (skew.toNat ≤ 16000 → u = a.modLane p l (fun x => { x with commaSeen := true, inverted := inv, rx := laneSeed l }) →
        (u.squad.ports[p].allLanes (·.commaSeen) = false → ∃ t, exec (.commaBlock p l inv gap skew) s = .next t ∧ (s.nlSettle u).EndsAs t) ∧
        (u.squad.ports[p].allLanes (·.commaSeen) = true → u.squad.ports[p].laneMap = none → ∃ t, exec (.commaBlock p l inv gap skew) s = .next t ∧
          (s.nlSettle (u.nlFail p 3)).EndsAs t) ∧
        (∀ rev, u.squad.ports[p].allLanes (·.commaSeen) = true → u.squad.ports[p].laneMap = some rev → ∃ t, exec (.commaBlock p l inv gap skew) s = .next t ∧
          (s.nlSettle ((u.modPort p (fun c => { c with reversed := rev, state := (if c.state = .retrain then .retrain else .handshake), sub := (if c.state = .retrain then 2 else 0) })).each
            (allFin 4) (fun s l => s.emit (.block p l (s.trainBytes p l 3 0 0 0 0))))).EndsAs t))) ∧
    (∀ inv gap skew, c.inAlign = false → c.inDeskew = false → ∃ t, exec (.commaBlock p l inv gap skew) s = .next t ∧
      (s.nlSettle (a.modLane p l (fun x => { x with missed := 0, rx := laneSeed l }))).EndsAs t) ∧
    (∀ v : BitVec 128, v.toNat % 256 ≠ 0x1E → ∃ t, exec (.trainBlock p l v) s = .next t ∧
      (s.nlSettle ((s.modLane p l (fun x => { x with blockErrs := x.blockErrs + 1 })).lintAt .NL_BLOCK p)).EndsAs t) ∧
    (∀ (v : BitVec 128) (r : Train), v.toNat % 256 = 0x1E → r = readTrain v.toNat →
      (c.inAlign = false → c.inDeskew = false → c.inHandshake = false → c.state ≠ .equalize → ∃ t, exec (.trainBlock p l v) s = .next t ∧ (s.nlSettle a).EndsAs t) ∧
      (c.inAlign = true ∨ c.inDeskew = true ∨ c.inHandshake = true ∨ c.state = .equalize →
        u = (a.modLane p l (fun x => { x with laneNo := some r.lane, farSaved := r.saved })).modPort p (fun c => { c with
          peer := some (r.seat, r.port, r.seatValid), peerId := r.devId, peerEmbedded := r.embedded, peerVer := r.verMax }) →
        (∀ cm1 cp1, r.phase = 1 → (preset r.preset = some (cm1, cp1) ∨ (r.preset = 0xF ∧ tapsOk r.cm1 r.cp1 = true ∧ cm1 = r.cm1 ∧ cp1 = r.cp1) ∨
            (preset r.preset = none ∧ ¬ (r.preset = 0xF ∧ tapsOk r.cm1 r.cp1 = true) ∧ cm1 = x.cm1 ∧ cp1 = x.cp1)) →
          ∃ t, exec (.trainBlock p l v) s = .next t ∧ (s.nlSettle ((u.modLane p l (fun x => { x with cm1 := cm1, cp1 := cp1 })).emit (.block p l
            ((u.modLane p l (fun x => { x with cm1 := cm1, cp1 := cp1 })).trainBytes p l 2 (if r.preset ≤ 10 then r.preset else 0xF) cm1 cp1 r.token)))).EndsAs t) ∧
        (r.phase = 2 → ∃ t, exec (.trainBlock p l v) s = .next t ∧
          (s.nlSettle (u.modLane p l (fun x => if r.token = x.token then { x with applied := true } else x))).EndsAs t) ∧
        (∀ w : State, r.phase = 3 → w = u.modLane p l (fun x => { x with farDone := true }) →
          (w.squad.ports[p].inHandshake = false ∨ w.squad.ports[p].allLanes (·.farDone) = false → ∃ t, exec (.trainBlock p l v) s = .next t ∧ (s.nlSettle w).EndsAs t) ∧
          (w.squad.ports[p].inHandshake = true → w.squad.ports[p].allLanes (·.farDone) = true → r.embedded ≠ s.nlEmbedded p ∨ (s.nlEmbedded p = true ∧ s.flag .CLK_REFCLK_SSC 0 = true) →
            ∃ t, exec (.trainBlock p l v) s = .next t ∧ (s.nlSettle (w.nlFail p 5)).EndsAs t) ∧
          (w.squad.ports[p].inHandshake = true → w.squad.ports[p].allLanes (·.farDone) = true → r.embedded = s.nlEmbedded p → s.nlEmbedded p = false ∨ s.flag .CLK_REFCLK_SSC 0 = false →
            (r.verMax = 0 → ∃ t, exec (.trainBlock p l v) s = .next t ∧ (s.nlSettle (w.nlFail p 6)).EndsAs t) ∧
            (r.verMax ≠ 0 → c.state = .handshake → ∃ t, exec (.trainBlock p l v) s = .next t ∧
              (s.nlSettle ((w.modPort p (fun c => { c with state := .up, sub := 0, version := min 1 r.verMax, skipEq := false, easyTx := false, easyRx := false })).flushCells p)).EndsAs t) ∧
            (∀ z : State, r.verMax ≠ 0 → c.state = .retrain →
              z = w.modPort p (fun c => { c with state := .up, sub := 0, version := min 1 r.verMax, skipEq := false, easyTx := false, easyRx := false }) →
              ∃ t, exec (.trainBlock p l v) s = .next t ∧ (s.nlSettle ((z.squad.ports[p].replay.foldl (fun s e => s.putCell p e.2 e.1) z).flushCells p)).EndsAs t))))) ∧
    (∀ h w : BitVec 32, (c.state ≠ .equalize ∨ x.applied = false → ∃ t, exec (.equalizeEvaluation p l h w) s = .next t ∧ (s.nlSettle s).EndsAs t) ∧
      (∀ f, c.state = .equalize → x.applied = true → f = figureOfMerit h.toNat w.toNat →
        (x.stage = .final → f < s.num .NL_FOM_MIN p → ∃ t, exec (.equalizeEvaluation p l h w) s = .next t ∧
          (s.nlSettle ((s.modLane p l (fun x => { x with stage := .done, fom := f })).nlFail p 2)).EndsAs t) ∧
        (x.stage = .saved ∨ (x.stage = .final ∧ s.num .NL_FOM_MIN p ≤ f) → ∃ t, exec (.equalizeEvaluation p l h w) s = .next t ∧
          (s.nlSettle ((s.modLane p l (fun x => { x with stage := .done, fom := f })).eqEnd p)).EndsAs t) ∧
        (∀ k b1 b2, x.stage = .preset k → u = (if x.bestFom < f ∨ k = 0 then s.modLane p l (fun x => { x with bestFom := f, bestCm1 := x.askCm1, bestCp1 := x.askCp1 }) else s) →
          preset (k + 1) = some (b1, b2) → ∃ t, exec (.equalizeEvaluation p l h w) s = .next t ∧ (s.nlSettle (u.ask p l (.preset (k + 1)) b1 b2)).EndsAs t) ∧
        (∀ k n y r, (x.stage = .trial k ∧ n = k + 1 ∧ u = (if x.bestFom < f then s.modLane p l (fun x => { x with bestFom := f, bestCm1 := x.askCm1, bestCp1 := x.askCp1 }) else s)) ∨
            (x.stage = .preset k ∧ preset (k + 1) = none ∧ n = 0 ∧
              u = (if x.bestFom < f ∨ k = 0 then s.modLane p l (fun x => { x with bestFom := f, bestCm1 := x.askCm1, bestCp1 := x.askCp1 }) else s)) →
          y = u.squad.ports[p].lanes[l] → r = nextTrial 4 n y.bestCm1 y.bestCp1 →
          ∃ t, exec (.equalizeEvaluation p l h w) s = .next t ∧ (s.nlSettle (u.ask p l r.1 r.2.1 r.2.2)).EndsAs t))) ∧
    (∃ t, exec (.skipBlock p) s = .next t ∧ (s.goodBlocks p).EndsAs t) ∧
    (c.state ≠ .up ∨ c.farRack = true ∨ c.easyRx = true → ∃ t, exec (.commaMissing p l) s = .next t ∧ s.EndsAs t) ∧
    (c.state = .up → c.farRack = false → c.easyRx = false → x.missed = 0 → ∃ t, exec (.commaMissing p l) s = .next t ∧
      (s.modLane p l (fun x => { x with missed := 1 })).EndsAs t) ∧
    (c.state = .up → c.farRack = false → c.easyRx = false → 1 ≤ x.missed → ∃ t, exec (.commaMissing p l) s = .next t ∧ (s.nlSettle (s.nlRetrain p)).EndsAs t)

/-- R373, R376, R385, R394 to R399: a cell is descrambled and checked; block errors are counted, and eight in a row on a lane start RETRAIN; a bad cell is answered by a NAK; a good one
takes its acknowledgement; a NAK replays; a sequenced cell is delivered in order, refused where the buffer is full, acknowledged again where it is a duplicate, else a
NAK. A replay sends every cell from its number on; at the limit of replays from one number the port enters RETRAIN. -/
def Obligations.LinkCells : Prop :=
  ∀ (s : State) (p : Fin 8) (c : NlPort), s.Settled → c = s.squad.ports[p] →
    (∀ blocks full, c.state ≠ .up → c.state ≠ .easy → ∃ t, exec (.cellReceive p blocks full) s = .next t ∧ s.EndsAs t) ∧
    (∀ blocks full (a : State), c.state = .up ∨ c.state = .easy →
      a = (s.modPort p (fun y => y.afterBlocks (c.cellBytes blocks).2)).lintBy .NL_BLOCK p (((c.cellBytes blocks).2.map (·.2.2)).foldl (· + ·) 0) →
      ((∃ x ∈ (c.cellBytes blocks).2, 8 ≤ x.2.1) → ∃ t, exec (.cellReceive p blocks full) s = .next t ∧ (s.nlSettle (a.nlRetrain p)).EndsAs t) ∧
      (∀ (r : RxCell) (b : State), (∀ x ∈ (c.cellBytes blocks).2, x.2.1 < 8) → r = readCell (c.cellBytes blocks).1 →
        b = (if r.ackValid then a.ackTo p r.ack else a) →
        (r.good = false → ∃ t, exec (.cellReceive p blocks full) s = .next t ∧ (s.nlSettle ((a.sendNak p false).lintAt .NL_CRC p)).EndsAs t) ∧
        (r.good = true → r.cell.ty ≠ 1 → r.cell.ty ≠ 2 →
          (r.cell.ty = 4 → r.ackValid = true → ∃ t, exec (.cellReceive p blocks full) s = .next t ∧ (s.nlSettle (b.replayFrom p r.ack)).EndsAs t) ∧
          (r.cell.ty ≠ 4 ∨ r.ackValid = false → ∃ t, exec (.cellReceive p blocks full) s = .next t ∧ (s.nlSettle b).EndsAs t)) ∧
        (∀ e n (d : State), r.good = true → r.cell.ty = 1 ∨ r.cell.ty = 2 → e = b.squad.ports[p].expect → n = b.squad.ports[p].unacked + 1 →
          d = (b.modPort p (fun c => { c with expect := wrapAdd 24 e 1, nak := if c.nak = some e then none else c.nak, unacked := n })).takeCell p r.cell →
          (r.seq = e → full = true → ∃ t, exec (.cellReceive p blocks full) s = .next t ∧ (s.nlSettle ((b.sendNak p true).lintAt .NL_RXFULL p)).EndsAs t) ∧
          (r.seq = e → full = false → n < 16 → ∃ t, exec (.cellReceive p blocks full) s = .next t ∧ (s.nlSettle d).EndsAs t) ∧
          (r.seq = e → full = false → 16 ≤ n → ∃ t, exec (.cellReceive p blocks full) s = .next t ∧ (s.nlSettle (d.sendPlain p 3 [])).EndsAs t) ∧
          (r.seq ≠ e → (e + 2 ^ 24 - r.seq) % 2 ^ 24 ≤ 2 ^ 23 → ∃ t, exec (.cellReceive p blocks full) s = .next t ∧
            (s.nlSettle ((b.sendPlain p 3 []).lintAt .NL_DUP p)).EndsAs t) ∧
          (r.seq ≠ e → 2 ^ 23 < (e + 2 ^ 24 - r.seq) % 2 ^ 24 → ∃ t, exec (.cellReceive p blocks full) s = .next t ∧ (s.nlSettle (b.sendNak p false)).EndsAs t)))) ∧
    (∀ e l n (u : State), c.replay = e :: l → c.state = .up → c.easyTx = false → n = (if c.replayFrom = some e.1 then c.replayCount + 1 else 1) →
      u = (s.modPort p (fun c => { c with replayFrom := some e.1, replayCount := n, disturbed := true })).lintAt .NL_REPLAY p →
      (n < s.num .NL_REPLAY_LIMIT p → ∃ t, exec (.replayTimeout p) s = .next t ∧ (u.each (e :: l) (fun s x => s.putCell p x.2 x.1)).EndsAs t) ∧
      (s.num .NL_REPLAY_LIMIT p ≤ n → ∃ t, exec (.replayTimeout p) s = .next t ∧
        (s.nlSettle ((u.modPort p (fun c => { c with replayFrom := none, replayCount := 0 })).nlRetrain p)).EndsAs t)) ∧
    (c.replay = [] ∨ c.state ≠ .up ∨ c.easyTx = true → ∃ t, exec (.replayTimeout p) s = .next t ∧ s.EndsAs t) ∧
    (∃ t, exec (.nakExpire p) s = .next t ∧ (s.modPort p (fun c => { c with nak := none })).EndsAs t) ∧
    (0 < c.unacked → c.state ≠ .easy → ∃ t, exec (.ackDue p) s = .next t ∧ (s.sendPlain p 3 []).EndsAs t) ∧
    (0 < c.unacked → c.state = .easy → ∃ t, exec (.ackDue p) s = .next t ∧ (s.easyLeave p).EndsAs t) ∧
    (c.unacked = 0 → ∃ t, exec (.ackDue p) s = .next t ∧ s.EndsAs t)

/-- R391 to R393: an injection inverts a bit of each selected lane, at once in TEST and with the next cell in UP; periodic injection runs in TEST until it is stopped; each bit
inverted is counted. A checker in TEST takes the bits received, and a checker that is idle takes none. -/
def Obligations.LinkTests : Prop :=
  ∀ (s : State) (p : Fin 8) (c : NlPort), c = s.squad.ports[p] →
    (∀ (x : Session) (e : Envelope) (m : BitVec 4),
      (s.MayWrite x (wrNum e .NL_INJECT p.val (m.toNat + 16)) (.ent .NL_INJECT p.val 0) →
        (c.state = .test → ∃ t, exec (.injectSingle e p m) s = .next t ∧
          (s.modPort p (fun c => { c with injected := (c.injected + ((allFin 4).filter (fun l => m.toNat.testBit l.val)).length) % 2 ^ 32 })).RespondsAs t
            (wrNum e .NL_INJECT p.val (m.toNat + 16)) .ok) ∧
        (c.state = .up → ∃ t, exec (.injectSingle e p m) s = .next t ∧
          (s.modPort p (fun c => { c with lanes := Vector.ofFn (fun i => if m.toNat.testBit i.val then { c.lanes[i] with injectOne := true } else c.lanes[i]) })).RespondsAs t
            (wrNum e .NL_INJECT p.val (m.toNat + 16)) .ok)) ∧
      (s.MayWrite x (wrNum e .NL_INJECT p.val (m.toNat + 32)) (.ent .NL_INJECT p.val 0) → c.state = .test → ∃ t, exec (.injectPeriodic e p m) s = .next t ∧
        (s.modPort p (fun c => { c with lanes := Vector.ofFn (fun i => if m.toNat.testBit i.val then { c.lanes[i] with injectPeriodic := true } else c.lanes[i]) })).RespondsAs t
          (wrNum e .NL_INJECT p.val (m.toNat + 32)) .ok) ∧
      (s.MayWrite x (wrNum e .NL_INJECT p.val m.toNat) (.ent .NL_INJECT p.val 0) → ∃ t, exec (.injectStop e p m) s = .next t ∧
        (s.modPort p (fun c => { c with lanes := Vector.ofFn (fun i => { c.lanes[i] with injectPeriodic := false }) })).RespondsAs t
          (wrNum e .NL_INJECT p.val m.toNat) .ok)) ∧
    (s.Settled →
      (c.state = .test → ∃ t, exec (.periodicInjection p) s = .next t ∧
        (s.modPort p (fun c => { c with injected := (c.injected + (c.lanes.toList.filter (·.injectPeriodic)).length) % 2 ^ 32 })).EndsAs t) ∧
      (c.state ≠ .test → ∃ t, exec (.periodicInjection p) s = .next t ∧ s.EndsAs t) ∧
      (∀ (l : Fin 4) rx,
        (c.state ≠ .test ∨ (l = 0 ∧ s.num .NL_TEST_MODE p = 4) → ∃ t, exec (.patternCheckerSync p l rx) s = .next t ∧ s.EndsAs t) ∧
        (c.state = .test → l ≠ 0 ∨ s.num .NL_TEST_MODE p ≠ 4 → ∃ t, exec (.patternCheckerSync p l rx) s = .next t ∧
          (s.modLane p l (fun x => rx.foldl (NlLane.checkBit (s.num .NL_PATTERN p) (s.num .NL_USER_PATTERN p)) x)).EndsAs t)))

/-- R417 to R419: a time exchange asks the parent with a new number and its departure time, after the exchange before it is dropped; a request is answered with its arrival and its
departure; the response gives the link's delay and offset, and the parent's offset is a measurement of network time. An exchange that is bad, late or disturbed is dropped and counted. -/
def Obligations.LinkTime : Prop :=
  ∀ (s : State), s.Settled →
    (∀ f : Fin 8, s.timeParent = none → ∃ t, exec (.timeExchangeStart f) s = .next t ∧ s.EndsAs t) ∧
    (∀ (f : Fin 8) p (a : State) id, s.timeParent = some p → a = (s.dropExch p).easyLeave p → id = wrapAdd 16 a.squad.ports[p].exchId 1 →
      (a.squad.ports[p].sends = true → ∃ t, exec (.timeExchangeStart f) s = .next t ∧
        ((a.modPort p (fun c => { c with exchId := id, exch := some (id, capture s.netTime f), disturbed := false })).sendPlain p 5
          (timeBody 0 id ⟨0, 0, 0⟩ ⟨0, 0, 0⟩)).EndsAs t) ∧
      (a.squad.ports[p].sends = false → ∃ t, exec (.timeExchangeStart f) s = .next t ∧ (a.lintAt .NL_TIME_DROP p).EndsAs t)) ∧
    (∀ p b (f : Fin 8) (turn : BitVec 16),
      (fieldAt b 0 1 ≠ 1 → ∃ t, exec (.timeRequest p b f turn) s = .next t ∧ s.EndsAs t) ∧
      (fieldAt b 0 1 = 1 → ∃ t, exec (.timeRequest p b f turn) s = .next t ∧
        ((s.easyLeave p).sendPlain p 5 (timeBody 1 (fieldAt b 2 2) (NetTime.of16 (capture s.netTime f)) (NetTime.of16 (capture s.netTime f + turn.toNat * 20480)))).EndsAs t)) ∧
    (∀ p b (f : Fin 8) good,
      (s.squad.ports[p].exch = none → ∃ t, exec (.timeResponse p b f good) s = .next t ∧ s.EndsAs t) ∧
      (∀ id t1, s.squad.ports[p].exch = some (id, t1) →
        (good = true → fieldAt b 0 1 ≠ 0x11 ∨ fieldAt b 2 2 ≠ id → ∃ t, exec (.timeResponse p b f good) s = .next t ∧ s.EndsAs t) ∧
        (good = false ∨ (fieldAt b 0 1 = 0x11 ∧ fieldAt b 2 2 = id ∧ (s.squad.ports[p].disturbed = true ∨ 10000 * 65536 < capture s.netTime f - t1)) →
          ∃ t, exec (.timeResponse p b f good) s = .next t ∧ ((s.modPort p (fun c => { c with exch := none })).lintAt .NL_TIME_DROP p).EndsAs t) ∧
        (∀ t2 t3 t4 (u : State), good = true → fieldAt b 0 1 = 0x11 → fieldAt b 2 2 = id → s.squad.ports[p].disturbed = false → t4 = capture s.netTime f →
          t4 - t1 ≤ 10000 * 65536 → t2 = (timeAt b 8).to16 → t3 = (timeAt b 22).to16 →
          u = s.modPort p (fun c => { c with exch := none, delay := ((t2 - t1) + (t4 - t3)) / 2, offset := ((t2 - t1) - (t4 - t3)) / 2 - halfAsym (s.sint .NL_TIME_ASYM p) }) →
          (s.timeParent ≠ some p → ∃ t, exec (.timeResponse p b f good) s = .next t ∧ u.EndsAs t) ∧
          (s.timeParent = some p → ((u.measure u.squad.ports[p].offset).crewsShort = true → s.crewsShort = true) →
            ∃ t, exec (.timeResponse p b f good) s = .next t ∧ (u.measure u.squad.ports[p].offset).EndsAs t))))

/-- R496 to R502: a measurement missing from LOCKED starts HOLDOVER, and HOLDOVER ends in LOST with event TIME_LOST; a write to TS_SET steps network time; a gPTP message that is accepted changes
the PTP ports, the grandmaster and the UTC offset as the instance says, and feeds the servo while the source is FNET; at its intervals a MASTER port sends Sync and
Announce, and every enabled port asks for its link delay. -/
def Obligations.NetworkTime : Prop :=
  ∀ (s : State),
    (s.tu.state = .locked → ∃ t, exec .tsMeasurementMissing s = .next t ∧ (s.modTu (fun t => { t with state := .holdover, good := 0 })).EndsAs t) ∧
    (s.tu.state ≠ .locked → ∃ t, exec .tsMeasurementMissing s = .next t ∧ s.EndsAs t) ∧
    (s.Settled → s.tu.state ≠ .holdover → ∃ t, exec .holdoverExpire s = .next t ∧ s.EndsAs t) ∧
    (∀ a : State, s.Settled → s.tu.state = .holdover → a = (s.lint .TS_UNLOCK).modTu (fun t => { t with state := .lost, good := 0 }) →
      (s.dev.state = .boot ∨ s.dev.state = .recovery → ∃ t, exec .holdoverExpire s = .next t ∧ a.EndsAs t) ∧
      (s.dev.state = .inert ∨ s.dev.state = .safe ∨ s.dev.state.active = true → s.numAt .SAF_ACTION 0 9 = 0 ∨ s.numAt .SAF_ACTION 0 9 = 1 →
        ∃ t, exec .holdoverExpire s = .next t ∧ (a.modSaf (fun f => { f with latched := setBit f.latched 10 true })).EndsAs t) ∧
      (s.dev.state = .inert ∨ s.dev.state.active = true → s.dev.arming = none → s.numAt .SAF_ACTION 0 9 = 2 →
        ∃ t, exec .holdoverExpire s = .next t ∧ t.SafeFrom s 5 ∧ t.saf.latched = setBit s.saf.latched 10 true ∧ t.saf.safeEvent = 10)) ∧
    (∀ (x : Session) (e : Envelope) ofs b d v target, v = b ++ d → s.MayWrite x (wrSeg e .TS_SET 0 ofs d) (.ent .TS_SET 0 0) → x.Holds (wrSeg e .TS_SET 0 ofs d) b → e.last = true →
      v.length = Ent.TS_SET.row.maxLen → fieldAt v 8 4 ≤ 999999999 → s.num .TS_SOURCE 0 = 0 → target = fieldAt v 0 8 * secUnit + fieldAt v 8 4 * nsUnit →
      ∃ t, exec (.tsSet e ofs d) s = .next t ∧ (if s.tu.total < target then ((s.lint .TS_STEP).modTu (fun t => { t.setTotal target with rate := t.servoI })).tsSkips.gateRestart
        else ((s.lint .TS_STEP).modTu (fun t => { t.setTotal target with rate := t.servoI })).gateRestart).RespondsAs t (wrSeg e .TS_SET 0 ofs d) .ok ∧
        t.netTime = ⟨fieldAt v 0 8, fieldAt v 8 4, 0⟩) ∧
    (∀ (p : Fin 2) frame (ph : BitVec 3) m, s.fnet.ports[p].on = true → s.accepts p frame = true → (ethFrame frame).etype = 0x88F7 → m = (ethFrame frame).payload →
      (s.flag .PTP_ENABLE p = false ∨ fieldAt m 4 1 ≠ s.num .PTP_DOMAIN 0 → ∃ t, exec (.ptpMessage p frame true ph) s = .next t ∧ (s.lint .PTP_DISCARD).EndsAs t) ∧
      (∀ g (u : State), s.flag .PTP_ENABLE p = true → fieldAt m 4 1 = s.num .PTP_DOMAIN 0 → 34 ≤ m.length →
        g = Config.gptp s.gptpView p m (NetTime.of16 (capture s.netTime ph.toNat - ps16 (s.num .FNET_RX_LAT p))) → g.discard = false → g.utc = none → g.respond = none →
        u = { (s.modFnet 0 (fun f => f.take g.port0)).modFnet 1 (fun f => f.take g.port1) with
          fnet := { ((s.modFnet 0 (fun f => f.take g.port0)).modFnet 1 (fun f => f.take g.port1)).fnet with gmId := g.gm.getD s.clockId } } →
        (g.theta = none ∨ u.tsReselect.tsSource ≠ 1 → ∃ t, exec (.ptpMessage p frame true ph) s = .next t ∧ u.tsReselect.EndsAs t) ∧
        (∀ th, g.theta = some th → u.tsReselect.tsSource = 1 → ∃ t, exec (.ptpMessage p frame true ph) s = .next t ∧ (u.tsReselect.measure th).EndsAs t))) ∧
    (∀ (p : Fin 2) (u : State), s.fnet.ports[p].on = true → s.flag .PTP_ENABLE p = true → s.fnet.ports[p].linkUp = true → (s.ptpSettings p).flag .PTP_ENABLE p = true →
      u = (s.ptpSettings p).readStamps p →
      (∀ k : Fin 3, k ≠ 1 → u.fnet.ports[p].ptpState ≠ 1 → ∃ t, exec (.ptpMessageInterval p k) s = .next t ∧ u.EndsAs t) ∧
      (u.fnet.ports[p].ptpState = 1 →
        (∃ t, exec (.ptpMessageInterval p 0) s = .next t ∧
          ((u.queueGptp p .sync u.fnet.ports[p].syncSeq u.netTime).modFnet p (fun f => { f with syncSeq := wrapAdd 16 f.syncSeq 1 })).EndsAs t) ∧
        (∃ t, exec (.ptpMessageInterval p 2) s = .next t ∧
          ((u.queueGptp p .announce u.fnet.ports[p].announceSeq u.netTime).modFnet p (fun f => { f with announceSeq := wrapAdd 16 f.announceSeq 1 })).EndsAs t)) ∧
      (∃ t, exec (.ptpMessageInterval p 1) s = .next t ∧
        ((u.queueGptp p .pdelayReq u.fnet.ports[p].pdelaySeq u.netTime).modFnet p (fun f => { f with pdelaySeq := wrapAdd 16 f.pdelaySeq 1 })).EndsAs t))

/-- R485 to R491, R503, R504, R507: a link change is reported with its rate; a frame with a bad FCS, one not accepted, or one too many is discarded and counted; ARP and ICMP echo are answered; a gate
control list comes into force where its cycle is due; the first queue in strict priority whose head fits its window is sent, with its timestamp where it is an event
message, and a frame that fits no window is discarded. -/
def Obligations.FieldNetwork : Prop :=
  ∀ (s : State) (p : Fin 2),
    (s.fnet.ports[p].on = false → (∀ up r, exec (.fnetLinkChange p up r) s = .next s) ∧ (∀ f c k, exec (.fnetFrameDiscard p f c k) s = .next s) ∧
      (∀ f c, exec (.arpRequest p f c) s = .next s) ∧ (∀ f c, exec (.icmpEcho p f c) s = .next s) ∧ (∀ x, exec (.frameTransmit p x) s = .next s)) ∧
    (s.fnet.ports[p].on = true →
      (∀ r : BitVec 2, ∃ t, exec (.fnetLinkChange p true r) s = .next t ∧
        (s.modFnet p (fun f => { f with linkUp := true, rate := if s.num .FNET_MODE p = 0 then 3 else min r.toNat 2 })).EndsAs t) ∧
      (∀ r : BitVec 2, ∃ t, exec (.fnetLinkChange p false r) s = .next t ∧
        (s.modFnet p (fun f => { f with linkUp := false, rate := 0, ptpState := 0, asCapable := false, linkDelay := 0, nrr := 0 })).EndsAs t) ∧
      (∀ f k, ∃ t, exec (.fnetFrameDiscard p f false k) s = .next t ∧ (s.lintAt .FNET_FCS p).EndsAs t) ∧
      (∀ f k, s.accepts p f = false → ∃ t, exec (.fnetFrameDiscard p f true k) s = .next t ∧ (s.lintAt .FNET_DROP p).EndsAs t) ∧
      (∀ f, s.accepts p f = true → ∃ t, exec (.fnetFrameDiscard p f true true) s = .next t ∧ (s.lintAt .FNET_RXFULL p).EndsAs t) ∧
      (∀ f a, s.accepts p f = true → (ethFrame f).etype = 0x0806 → a = (ethFrame f).payload → beNat (slice a 0 8) = 0x0001080006040001 →
        ∃ t, exec (.arpRequest p f true) s = .next t ∧
          (s.queueFrame p 0 (s.ethOut p (beNat (slice a 8 6)) (some (s.num .FNET_PCP_OD p)) 0x0806
            (beBytes 8 0x0001080006040002 ++ beBytes 6 (s.mac p) ++ beBytes 4 (s.num .FNET_IPV4 p) ++ slice a 8 10)) none).EndsAs t) ∧
      (∀ f src icmp c, s.accepts p f = true → (ethFrame f).etype = 0x0800 → s.ipv4 p (ethFrame f).payload = some (1, src, icmp) → c = inetSum (beBytes 2 0 ++ beBytes 2 0 ++ icmp.drop 4) →
        ∃ t, exec (.icmpEcho p f true) s = .next t ∧
          (s.queueFrame p 0 (s.ethOut p (ethFrame f).src (some (s.num .FNET_PCP_OD p)) 0x0800
            (ipv4Packet (s.num .FNET_IPV4 p) src 1 (beBytes 2 0 ++ beBytes 2 c ++ icmp.drop 4))) none).EndsAs t)) ∧
    (∀ start g, s.fnet.ports[p].nextGate = some (start, g) →
      (start ≤ s.nowNs → ∃ t, exec (.gateCycleStart p) s = .next t ∧
        ((s.applyWaiting (fun k => k / 256 == 0x2E20 + p.val)).modFnet p (fun f => { f with gate := some g, nextGate := none })).EndsAs t) ∧
      (s.nowNs < start → exec (.gateCycleStart p) s = .next s)) ∧
    (∀ (ph : BitVec 3) (q : Fin 4) h l (u : State), s.fnet.ports[p].on = true → s.fnet.ports[p].linkUp = true → (∀ k : Fin 4, q < k → s.txChoice p k = .wait) →
      s.fnet.ports[p].queues[q] = h :: l → u = s.modFnet p (fun f => { f with queues := f.queues.set q l }) →
      (s.txChoice p q = .discard → ∃ t, exec (.frameTransmit p ph) s = .next t ∧ (u.lintAt .FNET_QBV_DROP p).EndsAs t) ∧
      (s.txChoice p q = .send → h.event = none → ∃ t, exec (.frameTransmit p ph) s = .next t ∧ (u.emit (.frame p q h.bytes)).EndsAs t) ∧
      (∀ ev, s.txChoice p q = .send → h.event = some ev → s.fnet.ports[p].txq.length < 16 → ∃ t, exec (.frameTransmit p ph) s = .next t ∧
        ((u.emit (.frame p q h.bytes)).modFnet p (fun f => { f with
          txq := f.txq ++ [⟨ev.1, ev.2.1, ev.2.2, f.txqOvf, NetTime.of16 (capture s.netTime ph.toNat + ps16 (s.num .FNET_TX_LAT p))⟩], txqOvf := false })).EndsAs t) ∧
      (∀ ev, s.txChoice p q = .send → h.event = some ev → 16 ≤ s.fnet.ports[p].txq.length → ∃ t, exec (.frameTransmit p ph) s = .next t ∧
        (((u.emit (.frame p q h.bytes)).lintAt .TS_TXQ_OVF p).modFnet p (fun f => { f with txqOvf := true })).EndsAs t)) ∧
    (∀ ph : BitVec 3, s.fnet.ports[p].on = true → (∀ k : Fin 4, s.txChoice p k = .wait) → exec (.frameTransmit p ph) s = .next s)

/-- R404 to R411: a HELLO is kept, and two devices of one seat are remembered; a TOPOLOGY is kept and flooded, and the stroke seat forms the squad once it has all of them; a member takes the routes of FORM and
answers, with the check that fails where one does; FORMED follows the last FORM_ACK, FAILED a fault or the time-out. A heartbeat is kept; a member that has left
FORMED, is in SAFE, or is silent is lost: the squad is BROKEN, the other members are told, and SQD_LOSS_ACTION 1 leads to SAFE. -/
def Obligations.SquadForms : Prop :=
  ∀ (s a : State), s.Settled →
    (∀ h other, a = s.takeCtrl h.seat 1 → other = (match amGet? s.squad.hellos h.seat with | some x => decide (x.devId ≠ h.devId) | none => false) →
      ∃ t, exec (.hello h) s = .next t ∧
        (a.modSquad (fun q => { q with hellos := amInsert q.hellos h.seat h, dup := if other then some h.seat else q.dup })).EndsAs t) ∧
    (∀ (p : Fin 8) (n : Fin 32) l old, a = s.takeCtrl s.squad.ports[p].peerSeat 2 → old = amGet? s.squad.topo n.val →
      (s.squad.state = .broken ∨ s.squad.state = .failed → ∃ t, exec (.topology p n l) s = .next t ∧ a.EndsAs t) ∧
      (∀ k, s.squad.state = .formed → k = (old.getD []).filter l.contains →
        (some k = old → ∃ t, exec (.topology p n l) s = .next t ∧ a.EndsAs t) ∧
        (some k ≠ old → ∃ t, exec (.topology p n l) s = .next t ∧
          ((a.modSquad (fun q => { q with topo := amInsert q.topo n k })).flood n l (some p)).reroute.EndsAs t)) ∧
      (s.squad.state = .none ∨ s.squad.state = .forming → (old = some l ∨ n.val = s.seat → ∃ t, exec (.topology p n l) s = .next t ∧ a.EndsAs t) ∧
        (∀ clash (u : State), old ≠ some l → n.val ≠ s.seat →
          clash = (match old with | some o => o.any (fun x => l.any (fun y => x.port == y.port && !decide (x = y))) | none => false) →
          u = a.modSquad (fun q => { q with topo := amInsert q.topo n l, dup := if clash then some n.val else q.dup }) →
          (s.squad.state = .none → ∃ t, exec (.topology p n l) s = .next t ∧ u.EndsAs t) ∧
          (s.squad.state = .forming → ∃ t, exec (.topology p n l) s = .next t ∧ (u.flood n l (some p)).tryForm.EndsAs t)))) ∧
    (∀ (m v ep : BitVec 32) r stroke (u : State), leastOf (seatsOf m.toNat) = some stroke → a = s.takeCtrl stroke 3 →
      u = (a.modSquad (fun q => { q with members := m.toNat, version := v.toNat, epoch := ep.toNat, stroke := some stroke })).setRoutes r →
      (m.toNat.testBit s.seat = false ∨ (s.squad.state ≠ .forming ∧ s.squad.state ≠ .formed) ∨ (s.squad.state = .formed ∧ ep.toNat = s.squad.epoch) →
        ∃ t, exec (.form m v ep r) s = .next t ∧ a.EndsAs t) ∧
      (m.toNat.testBit s.seat = true → s.squad.state = .formed → ep.toNat ≠ s.squad.epoch → ∃ t, exec (.form m v ep r) s = .next t ∧
        (u.sendTo stroke (.formAck ep.toNat 0)).EndsAs t) ∧
      (m.toNat.testBit s.seat = true → s.squad.state = .forming →
        (u.formCheck false = none → ∃ t, exec (.form m v ep r) s = .next t ∧ (u.formed.sendTo stroke (.formAck ep.toNat 0)).EndsAs t) ∧
        (∀ f, u.formCheck false = some f → ∃ t, exec (.form m v ep r) s = .next t ∧
          ((u.sendTo stroke (.formAck ep.toNat f.1)).modSquad (fun q => { q with state := .failed, formFault := f.1 + f.2.1 * 2 ^ 8 + f.2.2 * 2 ^ 13 })).EndsAs t))) ∧
    (∀ (n : Fin 32) (ep : BitVec 32) (f : BitVec 8) (u : State), a = s.takeCtrl n 4 → u = a.modSquad (fun q => { q with acks := clearMask q.acks (2 ^ n.val) }) →
      (s.isStroke = false ∨ ep.toNat ≠ s.squad.epoch ∨ s.squad.acks.testBit n = false → ∃ t, exec (.formAck n ep f) s = .next t ∧ a.EndsAs t) ∧
      (s.isStroke = true → ep.toNat = s.squad.epoch → s.squad.acks.testBit n = true →
        (f ≠ 0 → ∃ t, exec (.formAck n ep f) s = .next t ∧ (u.modSquad (fun q => { q with state := .failed, formFault := f.toNat + n.val * 2 ^ 8 })).EndsAs t) ∧
        (f = 0 → s.squad.state = .forming → clearMask s.squad.acks (2 ^ n.val) = 0 → ∃ t, exec (.formAck n ep f) s = .next t ∧ u.formed.EndsAs t) ∧
        (f = 0 → s.squad.state ≠ .forming ∨ clearMask s.squad.acks (2 ^ n.val) ≠ 0 → ∃ t, exec (.formAck n ep f) s = .next t ∧ u.EndsAs t))) ∧
    (s.squad.state = .forming → ∃ t, exec .formTimeout s = .next t ∧ (s.modSquad (fun q => { q with state := .failed, formFault := 1 })).EndsAs t) ∧
    (s.squad.state ≠ .forming → ∃ t, exec .formTimeout s = .next t ∧ s.EndsAs t) ∧
    (s.squad.state = .formed ∨ s.squad.state = .broken → ∃ t, exec .heartbeatSend s = .next t ∧
      (s.sendAll (.heartbeat s.dev.state.code s.squad.state.code s.crewsIn.length)).EndsAs t) ∧
    (∀ (n : Fin 32) (d q c : BitVec 8), a = s.takeCtrl n 5 → s.squad.state = .formed → s.squad.members.testBit n = true → n.val ≠ s.seat →
      (d.toNat ≠ 7 → q.toNat = 2 → ∃ t, exec (.heartbeat n d q c) s = .next t ∧
        (a.modSquad (fun x => { x with beats := amInsert x.beats n ⟨d.toNat, q.toNat, c.toNat, s.now⟩ })).EndsAs t) ∧
      (∀ cause, (d.toNat = 7 ∧ cause = 1) ∨ (d.toNat ≠ 7 ∧ q.toNat ≠ 2 ∧ cause = 2) → s.squad.load = none → s.squad.lost.testBit n = false → s.num .SQD_LOSS_ACTION 0 ≠ 1 →
        ∃ t, exec (.heartbeat n d q c) s = .next t ∧
          ((((a.modSquad (fun x => { x with beats := amInsert x.beats n ⟨d.toNat, q.toNat, c.toNat, s.now⟩ })).modSquad
            (fun q => { q with lost := q.lost ||| 2 ^ n.val, state := .broken })).lint .SQD_SEAT_LOST).sendAll (.broken n cause)).EndsAs t)) ∧
    (∀ (n m : Fin 32) (c : BitVec 8) (u : State), s.squad.state = .formed ∨ s.squad.state = .broken → s.squad.load = none → s.squad.members.testBit n = true → s.squad.lost.testBit n = false →
      (s.squad.state = .formed → s.num .SQD_LOSS_ACTION 0 ≠ 1) →
      (n.val ≠ s.seat → ∃ t, exec (.memberLost n) s = .next t ∧
        (((s.modSquad (fun q => { q with lost := q.lost ||| 2 ^ n.val, state := .broken })).lint .SQD_SEAT_LOST).sendAll (.broken n 0)).EndsAs t) ∧
      (a = s.takeCtrl m 0xE → ∃ t, exec (.broken m n c) s = .next t ∧
        (((a.modSquad (fun q => { q with lost := q.lost ||| 2 ^ n.val, state := .broken })).lint .SQD_SEAT_LOST).sendAll (.broken n c.toNat)).EndsAs t)) ∧
    (∀ n : Fin 32, s.Guarded → s.squad.state = .formed → s.squad.load = none → s.squad.members.testBit n = true → s.squad.lost.testBit n = false → n.val ≠ s.seat → s.num .SQD_LOSS_ACTION 0 = 1 →
      ∃ t, exec (.memberLost n) s = .next t ∧ t.SafeFrom s 5 ∧ t.squad.state = .broken)

/-- R30, R38, R408, R410, R412, R416, R337: the work of a squad. A command that the stroke seat carries acts as on the seat's own entry, and its result goes back:
ARM begins, START and STOP take effect, and a command out of place answers ERR_STATE. The stroke seat counts the answers: the last one, all good, ends
the command with OK; otherwise the first failing answer by seat is the response, and `SQD_CMD_FAULT_SEAT` names the seat. Loads are counted in the same way. A
container from the stroke seat is loaded, or refused, and the result goes back; the order to unload empties the slot. ADMIT is kept; a part of a
spanning heat starts where its time has come and its crews are free; DONE is counted. A seat that follows applies the page manager's decisions; the
stroke seat keeps what seats report. -/
def Obligations.SquadWork : Prop :=
  ∀ (s a : State),
    (∀ x, s.Settled → s.squad.stroke = some x → x ≠ s.seat → s.squad.members.testBit x = true →
      (∀ c : BitVec 8, a = s.takeCtrl x 6 → 1 ≤ c.toNat → c.toNat ≤ 4 →
        (s.dev.state.allows c.toNat = false → ∃ t, exec (.command c) s = .next t ∧ (a.sendTo x (.commandDone Status.state.code 0)).EndsAs t) ∧
        (c = 1 → s.dev.state = .inert → s.transition = false → ∃ t, exec (.command c) s = .next t ∧
          (a.modDev (fun d => { d with arming := some (.squad 0, a.armCheck) })).EndsAs t) ∧
        (c = 3 → s.dev.state = .armed → s.transition = false → ∃ t, exec (.command c) s = .next t ∧
          (((a.modDev (fun d => { d with state := if a.anyOos then .degraded else .run })).modCox (fun c => { c with admitting := true })).sendTo x
            (.commandDone Status.ok.code 0)).EndsAs t) ∧
        (c = 2 → s.dev.state = .armed → s.squad.load = none → s.transition = false → ∃ t, exec (.command c) s = .next t ∧ t.dev.state = .inert ∧
          t.field.fire.entries = [] ∧ ∀ e ∈ inertEnables, ∀ i < e.2, t.num e.1 i = 0) ∧
        (c = 4 → s.dev.state.runs = true → s.transition = false → ∃ t, exec (.command c) s = .next t ∧
          (a.stopNow.sendTo x (.commandDone Status.ok.code 0)).EndsAs t)) ∧
      (∀ (n : BitVec 64) (slot : Fin 16) (plan : BitVec 8) start, a = s.takeCtrl x 8 →
        (s.squad.state = .formed → ∃ t, exec (.admitHeat n slot plan start) s = .next t ∧
          (a.modSquad (fun q => { q with spans := q.spans ++ [⟨n.toNat, slot.val, plan.toNat, start, 0, false, false, []⟩] })).EndsAs t) ∧
        (s.squad.state ≠ .formed → ∃ t, exec (.admitHeat n slot plan start) s = .next t ∧ a.EndsAs t)) ∧
      (∀ (part : Fin 8) (d : KvDecision), a = s.takeCtrl x 0xA →
        (s.kvFollows = true → ∃ t, exec (.kvDecision part d) s = .next t ∧ (a.applyDecision part.val d).EndsAs t) ∧
        (s.kvFollows = false → ∃ t, exec (.kvDecision part d) s = .next t ∧ a.EndsAs t)) ∧
      (∀ (i : Fin 16) (b : Bytes), a = s.takeCtrl x 0xC →
        (((a.unload i).crewsShort = true → s.crewsShort = true) → ∃ t, exec (.load i b true) s = .next t ∧ (a.unload i).EndsAs t) ∧
        (s.dev.state ≠ .inert → ∃ t, exec (.load i b false) s = .next t ∧ (a.sendTo x (.loadResult Status.state.code s.cox.lastFault)).EndsAs t) ∧
        (∀ (u : State) f, s.dev.state = .inert → a.loadAt (some i) b = (u, f) → (u.crewsShort = true → s.crewsShort = true) →
          ∃ t, exec (.load i b false) s = .next t ∧
            (u.sendTo x (match f with | some f => .loadResult f.status.code f.word | none => .loadResult 0 0)).EndsAs t))) ∧
    (∀ (n : Fin 32) (st : BitVec 8) (af : BitVec 32), a = s.takeCtrl n 7 →
      (s.Settled → ∃ t, exec (.commandDone n st af) s = .next t ∧ a.EndsAs t) ∧
      (∀ c d : SqdCmd, s.idleWork = none → s.squad.cmd = some c → c.waiting.testBit n = true →
        d = ⟨c.code, clearMask c.waiting (2 ^ n.val), if st = 0 then c.failed else c.failed ++ [(n.val, st.toNat, af.toNat)], if st = 0 then c.armed ||| 2 ^ n.val else c.armed, c.reply⟩ →
        (d.waiting ≠ 0 → ¬ (c.code = 2 ∧ d.waiting = 2 ^ s.seat) →
          ∃ t, exec (.commandDone n st af) s = .next t ∧ (a.modSquad (fun q => { q with cmd := some d })).EndsAs t) ∧
        (∀ h y r, c.reply = .session h r.env.reqId.toNat → s.session? h = some y → y.executing = some r → y.queue = [] →
          d.waiting = 0 → c.code = 3 ∨ c.code = 4 →
          (d.fault = none → ∃ t, exec (.commandDone n st af) s = .next t ∧ t.Answered r .ok ∧ t.squad = { a.squad with cmd := none }) ∧
          (∀ f k w, d.fault = some (f, k, w) → ∃ t, exec (.commandDone n st af) s = .next t ∧ t.Answered r (statusOf k) ∧
            t.squad = { a.squad with cmd := none, cmdFaultSeat := some f })))) ∧
    (∀ (n : Fin 32) (st : BitVec 8) (w : BitVec 32), a = s.takeCtrl n 0xD → s.Settled →
      (s.squad.load = none → ∃ t, exec (.loadResult n st w) s = .next t ∧ a.EndsAs t) ∧
      (∀ c d : SqdLoad, s.squad.load = some c → c.waiting.testBit n = true →
        d = ⟨c.slot, clearMask c.waiting (2 ^ n.val), if st = 0 then c.loaded ||| 2 ^ n.val else c.loaded, if st = 0 then c.refused else c.refused ++ [(n.val, st.toNat, w.toNat)], c.reply⟩ →
        (d.waiting ≠ 0 → ∃ t, exec (.loadResult n st w) s = .next t ∧ (a.modSquad (fun q => { q with load := some d })).EndsAs t) ∧
        (∀ h y r, c.reply = .session h r.env.reqId.toNat → s.session? h = some y → y.executing = some r → y.queue = [] →
          d.waiting = 0 → d.refused = [] → ∃ t, exec (.loadResult n st w) s = .next t ∧ t.Answered r .ok ∧
            t.squad = { a.squad with load := none, loadSeat := none }))) ∧
    (∀ (n : BitVec 64), s.Settled →
      (s.follows = none ∨ s.span? n.toNat = none → ∃ t, exec (.spanPartStart n) s = .next t ∧ s.EndsAs t) ∧
      (∀ x, s.span? n.toNat = some x →
        (x.begun = true ∨ s.dev.state.runs = false ∨ s.isWork s.cox.period = false ∨ s.nowNs < x.start →
          ∃ t, exec (.spanPartStart n) s = .next t ∧ s.EndsAs t) ∧
        (∀ f p pl k, s.follows = some k → x.begun = false → s.dev.state.runs = true → s.isWork s.cox.period = true → x.start ≤ s.nowNs →
          s.planOf x.slot x.plan = some (p, pl) →
          f = (s.newReq pl.kind x.slot x.plan p.partition s.fabNow none none true (s.partStep pl.kind p.partition)).1.layout
            (s.newReq pl.kind x.slot x.plan p.partition s.fabNow none none true (s.partStep pl.kind p.partition)).2 p pl
            (sortNat (((s.usable p.partition pl).filter (fun c => s.freeCrew [] c s.cox.period s.cox.period)).take pl.crews)) s.cox.period →
          (f.crews.length < pl.crews ∨ 64 ≤ s.freeEntry → ∃ t, exec (.spanPartStart n) s = .next t ∧ s.EndsAs t) ∧
          (pl.crews ≤ f.crews.length → s.freeEntry < 64 → ((s.spanStarts x).crewsShort = true → s.crewsShort = true) →
            ∃ t h, exec (.spanPartStart n) s = .next t ∧ amGet? t.cox.heats s.freeEntry = some h ∧ h.serial = x.serial ∧ h.state = .running ∧
              h.spanStart = some x.start ∧ h.crews = f.crews ∧ h.image = f.image ∧
              t.squad = { s.squad with spans := s.squad.spans.map (fun y => if y.serial = x.serial then { y with begun := true } else y) })))) ∧
    (∀ (n : Fin 32) (i : BitVec 64) (bad : Bool) (u : State), s.Settled → a = s.takeCtrl n 9 →
      u = a.modSquad (fun q => { q with spans := q.spans.map (fun x =>
        if x.serial = i.toNat then { x with waiting := clearMask x.waiting (2 ^ n.val), invalid := x.invalid || bad } else x) }) →
      (s.isStroke = false → ∃ t, exec (.done n i bad) s = .next t ∧ a.EndsAs t) ∧
      (s.isStroke = true → (∀ x, u.span? i.toNat = some x → x.waiting ≠ 0) → ∃ t, exec (.done n i bad) s = .next t ∧ u.EndsAs t) ∧
      (∀ x k h p v, s.isStroke = true → u.span? i.toNat = some x → x.waiting = 0 → u.heatOf i.toNat = some (k, h) → s.heatPkg k = some (h, p) →
        v = u.modSquad (fun q => { q with spans := q.spans.filter (fun y => y.serial != i.toNat) }) →
        h.req.kind ≠ .swatch →
        (x.invalid = true → ∃ t, exec (.done n i bad) s = .next t ∧ (v.endInvalid k .check none).EndsAs t) ∧
        (x.invalid = false → h.req.kind = .background ∨ h.req.kind = .secondLook → ((v.heatOutputs k h p).crewsShort = true → s.crewsShort = true) → ∃ t, exec (.done n i bad) s = .next t ∧ (v.heatOutputs k h p).EndsAs t))) ∧
    (∀ (n : Fin 32) (part : Fin 8) m f, s.Settled → a = s.takeCtrl n 0xB →
      (s.isStroke = false → ∃ t, exec (.kvReport n part m f) s = .next t ∧ a.EndsAs t) ∧
      (s.isStroke = true → ∃ t, exec (.kvReport n part m f) s = .next t ∧ (a.modSquad (fun q => { q with reports := q.reports ++ [(part.val, m, f)] })).EndsAs t))

/-- R96, R100, R274, R276: the instructions of an oar that act on its registers alone. An ordinary instruction has the effect that the RISC-V standard
gives it, and changes no integer register but rd, x0 never; a packed byte instruction works byte by byte, or sums the differences of the bytes; a
conversion between FP32 and a 16-bit format rounds by R100 with SAT 0; what is written to frm is ignored, and frm reads as zero. Memory and the other
oars stay as they are. -/
def Obligations.OarRegisters : Prop :=
  ∀ (s : State) (c : Fin 6) (l : Fin 512) (o : Oar) (w n : Nat),
    (s.OarAt c l o w n .base → ∃ t, exec (.oarBaseInstruction c l) s = .next t ∧ (s.setOar c l (some (o.baseOp w n (s.oarCsr c o (csrOf w))))).EndsAs t) ∧
    (s.OarAt c l o w n .base → ∀ t, exec (.oarBaseInstruction c l) s = .next t → ∃ q, t.oar? c l = some q ∧
      (∀ r, r ≠ rdOf w ∨ r = 0 → q.rx r = o.rx r) ∧ (∀ r, r ≠ rdOf w → q.rf r = o.rf r) ∧ q.wait = o.wait ∧ q.access = o.access ∧
      q.sliver = o.sliver ∧ q.serial = o.serial ∧ q.stroke = o.stroke ∧ q.pass = o.pass ∧ q.left = o.left ∧ q.right = o.right ∧ q.bars = o.bars ∧
      q.instret = wrapAdd 64 o.instret 1 ∧ t.mem = s.mem ∧ t.cox = s.cox ∧
      (opOf w = 0x37 → q = (o.wx (rdOf w) (immU w)).retire n) ∧
      (opOf w = 0x17 → q = (o.wx (rdOf w) ((o.pc + immU w) % 2 ^ 32)).retire n) ∧
      (opOf w = 0x6F → q = (o.wx (rdOf w) ((o.pc + n) % 2 ^ 32)).jump ((o.pc + immJ w) % 2 ^ 32)) ∧
      (opOf w = 0x67 → q = (o.wx (rdOf w) ((o.pc + n) % 2 ^ 32)).jump ((o.rx (rs1Of w) + immI w) % 2 ^ 32 / 2 * 2)) ∧
      (opOf w = 0x63 → f3Of w = 0 → q = if o.rx (rs1Of w) = o.rx (rs2Of w) then o.jump ((o.pc + immB w) % 2 ^ 32) else o.retire n) ∧
      (opOf w = 0x13 → f3Of w = 0 → q = (o.wx (rdOf w) ((o.rx (rs1Of w) + immI w) % 2 ^ 32)).retire n) ∧
      (opOf w = 0x33 → f3Of w = 0 → f7Of w = 1 → q = (o.wx (rdOf w) (o.rx (rs1Of w) * o.rx (rs2Of w) % 2 ^ 32)).retire n)) ∧
    (∀ f : Nat → Nat → Nat, ∀ i k, (i, k, f) ∈ [(Instr.pminuB c l, OarKind.pminu, min), (.pmaxuB c l, .pmaxu, max), (.paddusB c l, .paddus, fun x y => min (x + y) 255),
        (.psubusB c l, .psubus, fun x y => x - y), (.pcmpgeuB c l, .pcmpgeu, fun x y => if y ≤ x then 255 else 0)] → s.OarAt c l o w n k →
      ∃ t, exec i s = .next t ∧ (s.setOar c l (some ((o.wx (rdOf w) (leNat ((List.range 4).map (fun j =>
        BitVec.ofNat 8 (f (o.rx (rs1Of w) / 256 ^ j % 256) (o.rx (rs2Of w) / 256 ^ j % 256)))))).retire n))).EndsAs t) ∧
    (s.OarAt c l o w n .psad → ∃ t, exec (.psadB c l) s = .next t ∧ (s.setOar c l (some ((o.wx (rdOf w) ((List.range 4).map (fun j =>
      max (o.rx (rs1Of w) / 256 ^ j % 256) (o.rx (rs2Of w) / 256 ^ j % 256) - min (o.rx (rs1Of w) / 256 ^ j % 256) (o.rx (rs2Of w) / 256 ^ j % 256))).sum).retire n))).EndsAs t) ∧
    (s.OarAt c l o w n .fcvtSBf → ∃ t, exec (.fcvtSBf c l) s = .next t ∧
      (s.setOar c l (some ((o.wf (rdOf w) (fp32.encode false (bf16.decode (o.rx (rs1Of w) % 65536)))).retire n))).EndsAs t) ∧
    (s.OarAt c l o w n .fcvtBfS → ∃ t, exec (.fcvtBfS c l) s = .next t ∧
      (s.setOar c l (some ((o.wx (rdOf w) (bf16.encode false (fp32.decode (o.rf (rs1Of w))))).retire n))).EndsAs t) ∧
    (s.OarAt c l o w n .fcvtSHf → ∃ t, exec (.fcvtSHf c l) s = .next t ∧
      (s.setOar c l (some ((o.wf (rdOf w) (fp32.encode false (fp16.decode (o.rx (rs1Of w) % 65536)))).retire n))).EndsAs t) ∧
    (s.OarAt c l o w n .fcvtHfS → ∃ t, exec (.fcvtHfS c l) s = .next t ∧
      (s.setOar c l (some ((o.wx (rdOf w) (fp16.encode false (fp32.decode (o.rf (rs1Of w))))).retire n))).EndsAs t) ∧
    (s.OarAt c l o w n .frmWrite →
      (csrOf w = 2 → ∃ t, exec (.frmWrite c l) s = .next t ∧ (s.setOar c l (some ((o.wx (rdOf w) 0).retire n))).EndsAs t) ∧
      (csrOf w = 3 → csrWrites w = true → ∃ t, exec (.frmWrite c l) s = .next t ∧ (s.setOar c l (some ((Oar.wx { o with
        fflags := csrNew (f3Of w) o.fflags (if 4 ≤ f3Of w then rs1Of w else o.rx (rs1Of w)) % 32 } (rdOf w) o.fflags).retire n))).EndsAs t))

/-- R41, R155, R158, R161, R276, R279: the memory accesses of an oar. A misaligned access and one without a place end the invocation with a detected
error. A local access completes at once; another is issued, and completes when it returns: a load fills its register and retires, a store writes,
SLV.GET copies 64 bytes into local memory; an access that finds its place gone is an access fault; one whose bank serves another first waits. -/
def Obligations.OarMemory : Prop :=
  ∀ (s : State) (c : Fin 6) (l : Fin 512) (o : Oar) (w n : Nat) (e : Option EccError),
    (∀ st a sz, st = (opOf w == 0x23 || opOf w == 0x27) → a = (o.rx (rs1Of w) + (if st then immS w else immI w)) % 2 ^ 32 → sz = accessSize (f3Of w) →
      s.OarAt c l o w n .loadStore →
      (a % sz ≠ 0 ∨ s.oarPlace c o a sz = none → s.UnderLimit (.oar c.val ((s.crew c).oar l)) → ∀ k h, s.heatOf o.serial = some (k, h) →
        ∃ t, exec (.oarLoadStore c l e) s = .next t ∧ s.Detects t k 8 c.val ((s.crew c).oar l) o.stroke o.pass ∧ t.oar? c l = none) ∧
      (∀ q, a % sz = 0 → s.oarPlace c o a sz = some (.local_ q) →
        (st = true → ∃ t, exec (.oarLoadStore c l e) s = .next t ∧ ((s.setOarMem c l (memWriteN (s.oarMem c l) q (leBytes sz
          (if opOf w = 0x27 then o.rf (rs2Of w) else o.rx (rs2Of w))))).setOar c l (some (o.retire n))).EndsAs t) ∧
        (st = false → e = none → ∃ t, exec (.oarLoadStore c l e) s = .next t ∧
          (s.setOar c l (some ((o.fill (rdOf w) (decide (f3Of w < 4)) (opOf w == 0x07) (memReadN (s.oarMem c l) q sz)).retire n))).EndsAs t)) ∧
      (∀ x, a % sz = 0 → s.oarPlace c o a sz = some x → (∀ q, x ≠ .local_ q) → o.access = none →
        (st = true → ∃ t, exec (.oarLoadStore c l e) s = .next t ∧ (s.setOar c l (some { o.retire n with access := some ⟨a, sz, some (leBytes sz (if opOf w = 0x27 then o.rf (rs2Of w) else o.rx (rs2Of w))), rdOf w, decide (f3Of w < 4), opOf w == 0x27, none, o.pc + n, s.now⟩ })).EndsAs t) ∧
        (st = false → ∃ t, exec (.oarLoadStore c l e) s = .next t ∧ (s.setOar c l (some { o with access := some ⟨a, sz, none, rdOf w, decide (f3Of w < 4), opOf w == 0x07, none, o.pc + n, s.now⟩ })).EndsAs t))) ∧
    (s.OarAt c l o w n .slvGet → o.rx (rs1Of w) % 64 = 0 → o.rx (rs2Of w) % 64 = 0 → ∀ x q, s.oarPlace c o (o.rx (rs1Of w)) 64 = some x → (∀ q, x ≠ .local_ q) →
      s.oarPlace c o (o.rx (rs2Of w)) 64 = some (.local_ q) → o.access = none → ∃ t, exec (.slvGet c l) s = .next t ∧
        (s.setOar c l (some { o with access := some ⟨o.rx (rs1Of w), 64, none, 0, false, false, some (o.rx (rs2Of w)), o.pc + n, s.now⟩ })).EndsAs t) ∧
    (s.OarAt c l o w n .slvPut → o.rx (rs1Of w) % 64 = 0 → o.rx (rs2Of w) % 64 = 0 → e = none → ∀ x q, s.oarPlace c o (o.rx (rs1Of w)) 64 = some x →
      s.oarPlace c o (o.rx (rs2Of w)) 64 = some (.local_ q) →
      (∀ p, x = .local_ p → ∃ t, exec (.slvPut c l e) s = .next t ∧
        ((s.setOarMem c l (memWriteN (s.oarMem c l) p (memReadN (s.oarMem c l) q 64))).setOar c l (some (o.retire n))).EndsAs t) ∧
      ((∀ p, x ≠ .local_ p) → o.access = none → ∃ t, exec (.slvPut c l e) s = .next t ∧
        (s.setOar c l (some { o.retire n with access := some ⟨o.rx (rs1Of w), 64, some (memReadN (s.oarMem c l) q 64), 0, false, false, none, o.pc + n, s.now⟩ })).EndsAs t)) ∧
    (∀ k i, (i, k) ∈ [(Instr.slvGet c l, OarKind.slvGet), (.slvPut c l e, .slvPut)] → s.OarAt c l o w n k → o.rx (rs1Of w) % 64 ≠ 0 ∨ o.rx (rs2Of w) % 64 ≠ 0 →
      s.UnderLimit (.oar c.val ((s.crew c).oar l)) → ∀ j h, s.heatOf o.serial = some (j, h) →
        ∃ t, exec i s = .next t ∧ s.Detects t j 8 c.val ((s.crew c).oar l) o.stroke o.pass ∧ t.oar? c l = none) ∧
    (∀ a : OarAccess, s.oar? c l = some o → o.access = some a →
      (s.servedBefore c l a = true → exec (.oarAccessReturn c l e) s = .next s) ∧
      (s.servedBefore c l a = false → ∀ x, s.oarPlace c o a.addr a.size = some x →
        (∀ b, a.store = some b → ((s.oarWrite c l o x b).crewsShort = true → s.crewsShort = true) → ∃ t, exec (.oarAccessReturn c l e) s = .next t ∧
          ((s.oarWrite c l o x b).setOar c l (some { o with access := none })).EndsAs t) ∧
        (a.store = none → e = none → a.local_ = none → ∃ t, exec (.oarAccessReturn c l e) s = .next t ∧
          (s.setOar c l (some (({ o with access := none } : Oar).retire (a.next - o.pc) |>.fill a.rd a.signed a.fp (s.oarRead c l o x a.size)))).EndsAs t) ∧
        (∀ q, a.store = none → e = none → a.local_ = some q → ∃ t, exec (.oarAccessReturn c l e) s = .next t ∧
          ((s.setOarMem c l (memWriteN (s.oarMem c l) q (s.oarRead c l o x a.size))).setOar c l
            (some (({ o with access := none } : Oar).retire (a.next - o.pc)))).EndsAs t))) ∧
    (∀ a, s.oar? c l = some o → o.access = some a → s.servedBefore c l a = false → s.oarPlace c o a.addr a.size = none →
      s.UnderLimit (.oar c.val ((s.crew c).oar l)) → ∀ k h, s.heatOf o.serial = some (k, h) →
      ∃ t, exec (.oarAccessReturn c l e) s = .next t ∧ s.Detects t k 8 c.val ((s.crew c).oar l) o.stroke o.pass ∧ t.oar? c l = none)

/-- R276 to R278: neighbours and barriers. SLV.SEND puts its record on the way to the neighbour, waits while that neighbour's inbox is full, and sends nothing where
there is none; SLV.RECV takes the oldest record of its inbox, waits for one, or sets rd to 0 where there is no neighbour; a record that arrives completes a
waiting SLV.RECV. SLV.BAR waits; the barrier completes once every sliver has executed it as often, or has ended. -/
def Obligations.OarNeighbours : Prop :=
  ∀ (s : State) (c : Fin 6) (l : Fin 512) (o : Oar) (w n : Nat),
    (∀ q, s.OarAt c l o w n .slvSend → o.rx (rs2Of w) ≤ 1 → o.rx (rs1Of w) % 64 = 0 → s.oarPlace c o (o.rx (rs1Of w)) 64 = some (.local_ q) →
      (s.inboxFull o (o.rx (rs2Of w) == 1) = true → ∃ t, exec (.slvSend c l) s = .next t ∧
        (s.setOar c l (some { o with wait := .send (o.rx (rs2Of w) == 1) (memReadN (s.oarMem c l) q 64) (o.pc + n) })).EndsAs t) ∧
      (s.inboxFull o (o.rx (rs2Of w) == 1) = false → s.neighbour o (o.rx (rs2Of w) == 1) = none → ∃ t, exec (.slvSend c l) s = .next t ∧
        (s.setOar c l (some (o.retire n))).EndsAs t) ∧
      (∀ i c2 l2 y, s.inboxFull o (o.rx (rs2Of w) == 1) = false → s.neighbour o (o.rx (rs2Of w) == 1) = some i →
        (s.setOar c l (some (o.retire n))).sliverOar o i = some (c2, l2, y) →
        ∃ t, exec (.slvSend c l) s = .next t ∧ ((s.setOar c l (some (o.retire n))).setOar c2 l2 (some (if o.rx (rs2Of w) = 1 then
          { y with fromLeft := y.fromLeft ++ [memReadN (s.oarMem c l) q 64] } else { y with fromRight := y.fromRight ++ [memReadN (s.oarMem c l) q 64] }))).EndsAs t)) ∧
    (∀ right b next, s.oar? c l = some o → o.wait = .send right b next →
      (s.inboxFull o right = true → exec (.slvSendResume c l) s = .next s) ∧
      (s.inboxFull o right = false → ∃ t, exec (.slvSendResume c l) s = .next t ∧
        ((s.setOar c l (some (({ o with wait := .none } : Oar).retire (next - o.pc)))).sendRecord o right b).EndsAs t)) ∧
    (s.OarAt c l o w n .slvRecv → o.rx (rs2Of w) ≤ 1 → o.rx (rs1Of w) % 64 = 0 → o.rx (rs1Of w) + 64 ≤ 0x3800 →
      (s.neighbour o (o.rx (rs2Of w) == 1) = none → ∃ t, exec (.slvRecv c l) s = .next t ∧ (s.setOar c l (some ((o.wx (rdOf w) 0).retire n))).EndsAs t) ∧
      (∀ i inbox, s.neighbour o (o.rx (rs2Of w) == 1) = some i → inbox = (if o.rx (rs2Of w) = 1 then o.right else o.left) →
        (inbox = [] → ∃ t, exec (.slvRecv c l) s = .next t ∧
          (s.setOar c l (some { o with wait := .recv (o.rx (rs2Of w) == 1) (o.rx (rs1Of w)) (rdOf w) (o.pc + n) })).EndsAs t) ∧
        (∀ b r, inbox = b :: r → ∃ t, exec (.slvRecv c l) s = .next t ∧
          ((s.setOarMem c l (memWriteN (s.oarMem c l) (o.rx (rs1Of w)) b)).setOar c l (some ((Oar.wx (if o.rx (rs2Of w) = 1 then
            { o with right := r, wait := .none } else { o with left := r, wait := .none }) (rdOf w) 1).retire n))).EndsAs t))) ∧
    (∀ k i, (i, k) ∈ [(Instr.slvSend c l, OarKind.slvSend), (.slvRecv c l, .slvRecv)] → s.OarAt c l o w n k → 1 < o.rx (rs2Of w) ∨ o.rx (rs1Of w) % 64 ≠ 0 →
      s.UnderLimit (.oar c.val ((s.crew c).oar l)) → ∀ j h, s.heatOf o.serial = some (j, h) →
        ∃ t, exec i s = .next t ∧ s.Detects t j 8 c.val ((s.crew c).oar l) o.stroke o.pass ∧ t.oar? c l = none) ∧
    (∀ right, s.oar? c l = some o →
      ((if right then o.fromRight else o.fromLeft) = [] → exec (.slvRecordArrive c l right) s = .next s) ∧
      (∀ b r (q : Oar), (if right then o.fromRight else o.fromLeft) = b :: r →
        q = (if right then { o with fromRight := r, right := o.right ++ [b] } else { o with fromLeft := r, left := o.left ++ [b] }) →
        ((∀ a rd next, o.wait ≠ .recv right a rd next) → ∃ t, exec (.slvRecordArrive c l right) s = .next t ∧ (s.setOar c l (some q)).EndsAs t) ∧
        (∀ a rd next b2 r2, o.wait = .recv right a rd next → (if right then q.right else q.left) = b2 :: r2 → ∃ t, exec (.slvRecordArrive c l right) s = .next t ∧
          ((s.setOarMem c l (memWriteN (s.oarMem c l) a b2)).setOar c l (some ((Oar.wx (if right then
            { q with right := r2, wait := .none } else { q with left := r2, wait := .none }) rd 1).retire (next - q.pc)))).EndsAs t))) ∧
    (s.OarAt c l o w n .slvBar → ∃ t, exec (.slvBar c l) s = .next t ∧ (s.setOar c l (some { o with wait := .bar (o.pc + n), bars := o.bars + 1 })).EndsAs t) ∧
    (∀ next k h p b, s.oar? c l = some o → o.wait = .bar next → s.oarStroke o = some (k, h, p, b) →
      ((∃ i < sliverCount b, (∀ c2 l2 y, s.sliverOar o i = some (c2, l2, y) → y.bars < o.bars) ∧ (∀ e ∈ s.units.ended, e.1 ≠ (o.serial, o.stroke, o.pass, i))) →
        exec (.slvBarComplete c l) s = .next s) ∧
      ((∀ i < sliverCount b, (∃ c2 l2 y, s.sliverOar o i = some (c2, l2, y) ∧ o.bars ≤ y.bars) ∨ (∃ e ∈ s.units.ended, e.1 = (o.serial, o.stroke, o.pass, i))) →
        ∃ t, exec (.slvBarComplete c l) s = .next t ∧ (s.each (List.range (sliverCount b)) (fun s i =>
          match s.sliverOar o i with
          | some (c, l, q) =>
            (match q.wait with
            | .bar next => if q.bars = o.bars then s.setOar c l (some ({ q with wait := .none }.retire (next - q.pc))) else s
            | _ => s)
          | none => s)).EndsAs t))

/-- R272, R273, R277, R279, R280, R354: invocations. A sliver starts at the entry of its code with x2 at the top of its local memory, x10 its index and x11 the
number of the invocation, and everything else 0; the code and the draw block header are loaded before the first invocation of the stroke on its oar.
ECALL with x10 = 0 ends the sliver well, and the last sliver ends the pass; with another x10 the heat has an error with no darn. EBREAK, an illegal
instruction, a fetch without a place, and a budget that expires end it with a detected error. -/
def Obligations.OarInvocations : Prop :=
  (∀ (s : State) (k : Fin 64) (st ps : BitVec 32) (i : BitVec 16) (h : Heat) (p : Package) (x : Pass) (b : Bytes), s.AtPass k st.toNat ps.toNat h p x b →
    strokeKind b = 3 →
    (oarOp b = 2 → ∃ t, exec (.oarInvocationStart k st ps i) s = .next t ∧ (s.poolPass k h p b x).EndsAs t) ∧
    (∀ c l code, oarOp b = 0 → i.toNat < sliverCount b → sliverPlace (sliverCount b) h.crews.length i.toNat = (c, l) → s.oar? (h.crews.getD c 0) l = none →
      code = s.tensor h p (kernelStroke b).tdCode →
      ∃ t o, exec (.oarInvocationStart k st ps i) s = .next t ∧ t.oar? (h.crews.getD c 0) l = some o ∧
        o.serial = h.serial ∧ o.stroke = st.toNat ∧ o.pass = ps.toNat ∧ o.sliver = i.toNat ∧ o.pc = (kernelStroke b).entry ∧ o.fflags = 0 ∧ o.instret = 0 ∧
        o.f = Vector.replicate 32 0 ∧ o.left = [] ∧ o.right = [] ∧ o.ready = true ∧
        (∀ r : Fin 32, o.x[r] = if r.val = 2 then (if code.length ≤ 14304 then 0x37E0 else 0x3800) else if r.val = 10 then BitVec.ofNat 32 i.toNat
          else if r.val = 11 then BitVec.ofNat 32 x.kb0 else 0) ∧
        (amGet? s.units.loaded ((h.crews.getD c 0) * 512 + l) = some (h.serial, st.toNat) → t.mem = s.mem) ∧
        (amGet? s.units.loaded ((h.crews.getD c 0) * 512 + l) ≠ some (h.serial, st.toNat) →
          t.mem = (s.setOarMem (h.crews.getD c 0) l (if code.length ≤ 14304 then memWriteN (memWriteN (s.oarMem (h.crews.getD c 0) l) 0 code) 0x37E0 (s.drawHeader h)
            else memWriteN (s.oarMem (h.crews.getD c 0) l) 0 code)).mem))) ∧
  (∀ (s : State) (c : Fin 6) (l : Fin 512) (o : Oar) (w n : Nat),
    (s.OarAt c l o w n .ecall → o.rx 10 = 0 → ∃ t, exec (.ecall c l) s = .next t ∧ (s.sliverEnds c l o true).EndsAs t ∧ t.oar? c l = none ∧
      t.units.invocations = wrapAdd 64 s.units.invocations 1) ∧
    (∀ k h, s.OarAt c l o w n .ecall → o.rx 10 ≠ 0 → s.heatOf o.serial = some (k, h) → amGet? s.cox.heats k = some h →
      ∃ t e, exec (.ecall c l) s = .next t ∧ t.oar? c l = none ∧ t.lintVal .OAR_KFAIL 0 = satInc (s.lintVal .OAR_KFAIL 0) 1 ∧
        amGet? t.cox.heats k = some { h with errors := h.errors ++ [e] } ∧ e.noDarn = true ∧ e.cause = .kernel ∧ e.stroke = o.stroke ∧
        t.units.lastFault = pack [(8, 5), (3, c.val), (5, 0), (16, o.sliver), (32, o.rx 10)]) ∧
    (∀ k i, (i, k) ∈ [(Instr.ebreak c l, OarKind.ebreak), (.illegalInstruction c l, .illegal)] → s.OarAt c l o w n k → s.UnderLimit (.oar c.val ((s.crew c).oar l)) →
      ∀ j h, s.heatOf o.serial = some (j, h) →
        ∃ t, exec i s = .next t ∧ s.Detects t j 8 c.val ((s.crew c).oar l) o.stroke o.pass ∧ t.oar? c l = none ∧
          t.units.lastFault = pack [(8, 2), (3, c.val), (5, 0), (16, o.sliver), (32, o.pc)]) ∧
    (∀ i ∈ [Instr.oarBaseInstruction c l, .ecall c l, .ebreak c l, .illegalInstruction c l], s.oar? c l = some o → o.ready = true → s.oarFetch c l o = none →
      s.UnderLimit (.oar c.val ((s.crew c).oar l)) → ∀ j h, s.heatOf o.serial = some (j, h) →
        ∃ t, exec i s = .next t ∧ s.Detects t j 8 c.val ((s.crew c).oar l) o.stroke o.pass ∧ t.oar? c l = none ∧
          t.units.lastFault = pack [(8, 1), (3, c.val), (5, 0), (16, o.sliver), (32, o.pc)]) ∧
    (s.oar? c l = some o → s.UnderLimit (.oar c.val ((s.crew c).oar l)) → ∀ j h, s.heatOf o.serial = some (j, h) →
      ∃ t, exec (.oarBudgetExpire c l) s = .next t ∧ s.Detects t j 9 c.val ((s.crew c).oar l) o.stroke o.pass ∧ t.oar? c l = none ∧
        t.units.lastFault = pack [(8, 4), (3, c.val), (5, 0), (16, o.sliver), (32, o.pc)]))

/-- R448 to R453, R459, R474: the field channels. A filter tick samples every input: the level, held between the thresholds, moves the counter up or down within
the depth, and the counter at an end decides the filtered value. A fault of a driver switches its channel off, drops the holds on it and is latched and
counted; a group above its limit loses channels in descending number; a supply out of its window switches off its group, whose inputs read off; an open
load or wire is flagged while it lasts. OVERLOAD and GROUP are retried where `FIO_RETRY` is not 0. -/
def Obligations.FieldChannels : Prop :=
  (∀ (c : FieldCh) (d mv : Nat),
    (c.sample d mv).level = (if c.supply = true ∨ mv ≤ 5000 then false else if 11000 ≤ mv then true else c.level) ∧
    (c.sample d mv).count = (if (c.sample d mv).level = true then min (min c.count d + 1) d else min c.count d - 1) ∧
    (c.sample d mv).count ≤ d ∧
    (d = 0 → (c.sample d mv).filt = (c.sample d mv).level) ∧
    (d ≠ 0 → (c.sample d mv).filt = (if (c.sample d mv).count = d then true else if (c.sample d mv).count = 0 then false else c.filt))) ∧
  ∀ s : State,
    (∀ (mv : Vector (BitVec 16) 48) (hot : BitVec 48) (wire : BitVec 8),
      (s.dev.state = .off ∨ s.dev.state = .reset ∨ s.dev.state = .boot ∨ s.dev.state = .recovery → exec (.filterTick mv hot wire) s = .next s) ∧
      (∀ u, s.dev.state = .inert ∨ s.dev.state = .safe ∨ s.dev.state.active = true →
        u = (if s.dev.state = .inert then s else s.applyWaiting (inGroup 0x2C)) →
        ∃ t C E, exec (.filterTick mv hot wire) s = .next t ∧ (u.modField (fun f => { f with chans := C, encs := E })).EndsAs t ∧
          (∀ n : Fin 48, t.field.chans[n] = if u.fioMode n = 1 then ({ u.field.chans[n] with hot := hot[n] } : FieldCh).sample (u.num .FIO_FILT n) mv[n].toNat
            else { u.field.chans[n] with hot := hot[n] }) ∧
          ∀ n : Fin 8, t.field.encs[n] = { u.field.encs[n] with wireNow := wire[n] })) ∧
    (∀ n : Fin 48,
      (s.driveOn n = true → ∃ t, exec (.overload n) s = .next t ∧
        (((s.dropHolds [n.val]).modChan n (fun c => { c with overload := true })).lint .FIO_OVERLOAD).EndsAs t ∧ t.field.chans[n].overload = true) ∧
      (s.driveOn n = false → exec (.overload n) s = .next s) ∧
      (s.isOutput n = true → s.field.chans[n].overtemp = false → ∃ t, exec (.overtemp n) s = .next t ∧
        (((s.dropHolds [n.val]).modChan n (fun c => { c with overtemp := true, hot := true })).lint .FIO_OVERTEMP).EndsAs t) ∧
      (s.isOutput n = false ∨ s.field.chans[n].overtemp = true → ∃ t, exec (.overtemp n) s = .next t ∧ (s.modChan n (fun c => { c with hot := true })).EndsAs t) ∧
      (s.isOutput n = true → s.flag .FIO_DIAG n = true → s.field.chans[n].openLoad = false → ∃ t, exec (.openLoad n) s = .next t ∧
        ((s.modChan n (fun c => { c with openLoad := true })).lint .FIO_OPEN).EndsAs t) ∧
      (s.isOutput n = false ∨ s.flag .FIO_DIAG n = false ∨ s.field.chans[n].openLoad = true → exec (.openLoad n) s = .next s) ∧
      (∃ t, exec (.openLoadClear n) s = .next t ∧ (s.modChan n (fun c => { c with openLoad := false })).EndsAs t) ∧
      (s.fioMode n = 1 → s.flag .FIO_DIAG n = true → s.field.chans[n].openWire = false → ∃ t, exec (.openWire n) s = .next t ∧
        ((s.modChan n (fun c => { c with openWire := true })).lint .FIO_OPEN).EndsAs t) ∧
      (s.fioMode n ≠ 1 ∨ s.flag .FIO_DIAG n = false ∨ s.field.chans[n].openWire = true → exec (.openWire n) s = .next s) ∧
      (∃ t, exec (.openWireClear n) s = .next t ∧ (s.modChan n (fun c => { c with openWire := false })).EndsAs t) ∧
      (s.num .FIO_RETRY 0 ≠ 0 → ∃ t, exec (.faultRetry n) s = .next t ∧ (s.modChan n (fun c => { c with overload := false, group := false })).EndsAs t) ∧
      (s.num .FIO_RETRY 0 = 0 → exec (.faultRetry n) s = .next s)) ∧
    (∀ (g : Option (Fin 6)) (ma : Vector (BitVec 16) 48) (l : List (Fin 48)) (cut : List Nat),
      l = (allFin 48).reverse.filter (fun n : Fin 48 => s.driveOn n && (match g with | some k => n.val / 8 == k.val | none => true)) →
      cut = groupCut (if g.isSome then 2500 else 12000) (l.map (fun n : Fin 48 => (n.val, (ma[n]).toNat))) →
      (((l.map (fun n : Fin 48 => (ma[n]).toNat)).sum ≤ (if g.isSome then 2500 else 12000)) → exec (.groupLimit g ma) s = .next s) ∧
      (cut ≠ [] → ∃ t C, exec (.groupLimit g ma) s = .next t ∧ (((s.dropHolds cut).lint .FIO_LIMIT).modField (fun f => { f with chans := C })).EndsAs t ∧
        (∀ n : Fin 48, t.field.chans[n] = if cut.contains n.val then { s.field.chans[n] with group := true } else s.field.chans[n]) ∧
        ((l.filter (fun n : Fin 48 => !cut.contains n.val)).map (fun n : Fin 48 => (ma[n]).toNat)).sum ≤ (if g.isSome then 2500 else 12000))) ∧
    (∀ (g : Fin 6) (mv : BitVec 16),
      (mv.toNat < 18000 ∨ 32000 < mv.toNat → ∃ t C, exec (.fieldSupplyFault g mv) s = .next t ∧
        ((((s.setVfld g mv false).dropHolds ((groupChans g).map (·.val))).lint .FIO_SUPPLY).modField (fun f => { f with chans := C })).EndsAs t ∧
        ∀ n : Fin 48, t.field.chans[n] = if n.val / 8 = g.val then { s.field.chans[n] with supply := true, level := false, filt := false, count := 0 } else s.field.chans[n]) ∧
      (18000 ≤ mv.toNat → mv.toNat ≤ 32000 → ∃ t, exec (.fieldSupplyFault g mv) s = .next t ∧ (s.modField (fun f => { f with supplyMv := f.supplyMv.set g mv.toNat })).EndsAs t) ∧
      (19200 ≤ mv.toNat → mv.toNat ≤ 30000 → ∃ t C, exec (.fieldSupplyClear g mv) s = .next t ∧
        ((s.setVfld g mv true).modField (fun f => { f with chans := C })).EndsAs t ∧
        ∀ n : Fin 48, t.field.chans[n] = if n.val / 8 = g.val then { s.field.chans[n] with supply := false } else s.field.chans[n]) ∧
      (mv.toNat < 19200 ∨ 30000 < mv.toNat → ∃ t, exec (.fieldSupplyClear g mv) s = .next t ∧ (s.modField (fun f => { f with supplyMv := f.supplyMv.set g mv.toNat })).EndsAs t))

/-- R454 to R459: the encoder channels. Of A and B in quadrature QUAD_X4 counts one forward for each step in which A leads, and one back for each step the other way, which
`ENC_INVERT` turns round; a tooth mode counts every edge of A forward, and takes a long interval as the reference after missing teeth, a short one
as the extra tooth. A count moves the position, and never the highest value back. A reference latches the position, and one at the wrong distance is a REF fault.
A fault puts the channel in FAULT, is counted, and resolves the pending entries on it. -/
def Obligations.EncoderChannels : Prop :=
  (∀ q : Int, quadCount 2 (grayState q).1 (grayState q).2 (grayState (q + 1)).1 (grayState (q + 1)).2 = 1 ∧
    quadCount 2 (grayState (q + 1)).1 (grayState (q + 1)).2 (grayState q).1 (grayState q).2 = -1) ∧
  (∀ a b : Bool, quadCount 1 a b (!a) b = (if a = b then 1 else -1) ∧ quadCount 1 a b a (!b) = 0 ∧ quadCount 0 a b a (!b) = 0 ∧
    quadCount 0 a b (!a) b = (if b then 0 else if a then -1 else 1)) ∧
  ∀ (s : State) (n : Fin 8) (old : Encoder), old = s.field.encs[n] →
    (old.enabled = false → ∀ a b dt, ∀ i ∈ [Instr.encCount n a b dt, .encReference n, .wireFault n, .quadFault n, .overspeedFault n], exec i s = .next s) ∧
    (∀ (a b : Bool) (dt : BitVec 32) (u : State), old.enabled = true → u = s.modEnc n (fun e => { e with a := a, b := b }) →
      (s.quad n = true → old.a ≠ a → old.b ≠ b → ∃ t, exec (.encCount n a b dt) s = .next t ∧ u.EndsAs t) ∧
      (∀ d, s.quad n = true → old.a = a ∨ old.b = b →
        d = (if s.flag .ENC_INVERT n then -quadCount (s.num .ENC_MODE n) old.a old.b a b else quadCount (s.num .ENC_MODE n) old.a old.b a b) →
        (d = 0 → ∃ t, exec (.encCount n a b dt) s = .next t ∧ u.EndsAs t) ∧
        (d ≠ 0 → ∃ t, exec (.encCount n a b dt) s = .next t ∧
          ((u.modEnc n (fun e => { e with pos := old.pos + d, high := max old.high (old.pos + d), lastReverse := decide (d < 0) })).moved n old.pos).EndsAs t)) ∧
      (s.quad n = false → old.a = true ∨ a = false → ∃ t, exec (.encCount n a b dt) s = .next t ∧ u.EndsAs t) ∧
      (s.quad n = false → old.a = false → a = true →
        (old.edgeSeen = false → ∃ t, exec (.encCount n a b dt) s = .next t ∧
          ((u.modEnc n (fun e => { e with edgeSeen := true, interval := none })).encStep n 1 false).EndsAs t) ∧
        (old.edgeSeen = true →
          (old.interval = none → ∃ t, exec (.encCount n a b dt) s = .next t ∧ ((u.modEnc n (fun e => { e with interval := some dt.toNat })).encStep n 1 false).EndsAs t) ∧
          (∀ p v, old.interval = some p →
            (s.num .ENC_MODE n = 3 → 3 * p < 2 * dt.toNat → v = (u.modEnc n (fun e => { e with interval := none })).encStep n (1 + s.num .ENC_TOOTH_N n) false →
              ∃ t, exec (.encCount n a b dt) s = .next t ∧ (v.encReference n v.field.encs[n].pos).EndsAs t) ∧
            (s.num .ENC_MODE n ≠ 3 → 2 * dt.toNat < p → ∃ t, exec (.encCount n a b dt) s = .next t ∧
              ((u.modEnc n (fun e => { e with interval := none })).encReference n old.pos).EndsAs t) ∧
            ((s.num .ENC_MODE n = 3 ∧ 2 * dt.toNat ≤ 3 * p) ∨ (s.num .ENC_MODE n ≠ 3 ∧ p ≤ 2 * dt.toNat) → ∃ t, exec (.encCount n a b dt) s = .next t ∧
              ((u.modEnc n (fun e => { e with interval := some dt.toNat })).encStep n 1 false).EndsAs t))))) ∧
    (∀ (u : State) bad, u = s.modEnc n (fun e => { e with refPos := old.pos, refCnt := (old.refCnt + 1) % 2 ^ 32 }) →
      bad = (s.num .ENC_REF_PERIOD n ≠ 0 ∧ old.refCnt ≠ 0 ∧ (s.num .ENC_REF_PERIOD n + s.num .ENC_REF_TOL n < (old.pos - old.refPos).natAbs ∨
        (old.pos - old.refPos).natAbs + s.num .ENC_REF_TOL n < s.num .ENC_REF_PERIOD n)) →
      old.enabled = true → s.quad n = true → s.flag .ENC_Z_USED n = true →
      (¬ bad → ∃ t, exec (.encReference n) s = .next t ∧ u.EndsAs t) ∧
      (bad → ∃ t, exec (.encReference n) s = .next t ∧ (((u.modEnc n (fun e => { e with ref := true, fault := true })).lint .ENC_FAULT).fireChannelFault n).EndsAs t)) ∧
    (s.quad n = false ∨ s.flag .ENC_Z_USED n = false → exec (.encReference n) s = .next s) ∧
    (old.enabled = true →
      (∃ t, exec (.wireFault n) s = .next t ∧ (((s.modEnc n (fun e => { e with wire := true, wireNow := true, fault := true })).lint .ENC_FAULT).fireChannelFault n).EndsAs t) ∧
      (s.quad n = true → ∃ t, exec (.quadFault n) s = .next t ∧
        (((s.modEnc n (fun e => { e with a := !e.a, b := !e.b, quad := true, fault := true })).lint .ENC_FAULT).fireChannelFault n).EndsAs t) ∧
      (s.quad n = false → exec (.quadFault n) s = .next s) ∧
      (∃ t, exec (.overspeedFault n) s = .next t ∧ (((s.modEnc n (fun e => { e with overspeed := true, fault := true })).lint .ENC_FAULT).fireChannelFault n).EndsAs t))

/-- R49, R461, R463, R470: pulses. A pulse that waits for the output of a divider is issued after it; the event of a TIME slot starts or restarts its pulse, and
triggers a TIMED camera port; a pulse ends when its width has elapsed; an entry whose off point is in time releases its valves, and no other entry changes. -/
def Obligations.Pulses : Prop :=
  ∀ s : State,
    (∀ (e : Fin 4) (d : Fin 16), d.val = 12 + e.val →
      (s.field.divs[d].deferred ≠ 0 → s.field.divs[d].pulse = false → s.num .DIV_OUT_MODE d = 0 → ∃ t, exec (.divPulseDeferred e) s = .next t ∧
        (((s.modDiv d (fun v => { v with deferred := v.deferred - 1 })).modDiv d (fun v => { v with pulse := true })).encoPins e true false).EndsAs t) ∧
      (s.field.divs[d].deferred = 0 ∨ s.field.divs[d].pulse = true → exec (.divPulseDeferred e) s = .next s) ∧
      (s.field.divs[d].pulse = true → ∃ t, exec (.pulseWidthEnd (.enco e)) s = .next t ∧ ((s.modDiv d (fun v => { v with pulse := false })).encoPins e false false).EndsAs t) ∧
      (s.field.divs[d].pulse = false → exec (.pulseWidthEnd (.enco e)) s = .next s)) ∧
    (∀ (n : Fin 32) (u : State), u = s.modSlot n (fun v => { v with
        pulse := some (if s.flag .TRG_WIDTH_CNT n then .position (s.num .TRG_WIDTH n) else .cycles), next := v.next + 1 }) →
      (s.slotMore n = false ∨ s.num .TRG_SRC n ≠ 0 ∨ s.dev.state.active = false → exec (.timeSlotEvent n) s = .next s) ∧
      (s.slotMore n = true → s.num .TRG_SRC n = 0 → s.dev.state.active = true →
        (12 ≤ n.val ∨ s.num .CAM_TRIG_SRC n ≠ 2 → ∃ t, exec (.timeSlotEvent n) s = .next t ∧ u.EndsAs t) ∧
        (∀ p : Fin 12, p.val = n.val → s.num .CAM_TRIG_SRC n = 2 → ∃ t, exec (.timeSlotEvent n) s = .next t ∧ (u.camTrigger p).EndsAs t)) ∧
      (∃ t, exec (.pulseWidthEnd (.slot n)) s = .next t ∧
        (s.modSlot n (fun v => if v.pulse = some .cycles then { v with pulse := none } else v)).EndsAs t)) ∧
    (∀ p : Fin 12,
      (s.cams[p].pulse = true → ∃ t, exec (.pulseWidthEnd (.cam p)) s = .next t ∧ ((s.modCam p (fun c => { c with pulse := false })).emit (.camTrigEnd p)).EndsAs t) ∧
      (s.cams[p].pulse = false → exec (.pulseWidthEnd (.cam p)) s = .next s)) ∧
    (∀ id, ∃ t, exec (.fireOffTime id) s = .next t ∧
      t.field = { s.field with fire := { s.field.fire with entries := s.field.fire.entries.filter (fun e => !(e.id == id && e.held.isSome && decide (e.off = .time))) } } ∧
      (s.modFire (fun f => { f with entries := f.entries.filter (fun e => !(e.id == id && e.held.isSome && decide (e.off = .time))) })).EndsAs t)

/-- R449, R452, R459, R469, R589: the requests of the field side. A channel's acknowledgement clears its latched flags, OVERTEMP only where the junction is
cool; `FIO_FORCE_OFF` switches off each channel whose bit is set, in every mode; an encoder's acknowledgement clears FAULT and its units resume from the
position it finds, is refused while the condition remains, and does nothing where there is no FAULT; a stop is released only while the device is ARMED, RUN or
DEGRADED; an acknowledged event is cleared unless it is still present. -/
def Obligations.FieldRequests : Prop :=
  ∀ (s : State) (x : Session) (e : Envelope),
    (∀ n : Fin 48, s.MayWrite x (wrNum e .FIO_ACK n 1) (.ent .FIO_ACK n 0) →
      ∃ t, exec (.fioAck e n 1) s = .next t ∧
        (s.modChan n (fun c => { c with
          overload := c.overload && decide (s.num .FIO_RETRY 0 ≠ 0), group := c.group && decide (s.num .FIO_RETRY 0 ≠ 0)
          overtemp := c.overtemp && c.hot })).RespondsAs t (wrNum e .FIO_ACK n 1) .ok) ∧
    (∀ v : BitVec 64, s.MayWrite x (wrNum e .FIO_FORCE_OFF 0 v.toNat) (.ent .FIO_FORCE_OFF 0 0) →
      ((s.setVal .FIO_FORCE_OFF 0 0 (.num v.toNat)).crewsShort = true → s.crewsShort = true) →
      ∃ t, exec (.fioForceOff e v) s = .next t ∧ (s.setVal .FIO_FORCE_OFF 0 0 (.num v.toNat)).RespondsAs t (wrNum e .FIO_FORCE_OFF 0 v.toNat) .ok ∧
        t.num .FIO_FORCE_OFF 0 = v.toNat ∧ ∀ n : Fin 48, v.toNat.testBit n = true → t.driveOn n = false) ∧
    (∀ n : Fin 8, s.MayWrite x (wrNum e .ENC_ACK n 1) (.ent .ENC_ACK n 0) →
      (s.field.encs[n].fault = false → ∃ t, exec (.encAck e n 1) s = .next t ∧ s.RespondsAs t (wrNum e .ENC_ACK n 1) .ok) ∧
      (s.field.encs[n].fault = true → s.field.encs[n].wireNow = true →
        ∃ t, exec (.encAck e n 1) s = .next t ∧ s.RespondsAs t (wrNum e .ENC_ACK n 1) .state) ∧
      (s.field.encs[n].fault = true → s.field.encs[n].wireNow = false →
        ∀ u, u = (s.modEnc n (fun e => { e with fault := false, wire := false, quad := false, overspeed := false, ref := false })).each (s.divsOf n)
          (fun w d => w.modDiv d (fun y => { y with p0 := s.field.encs[n].pos, next := 1 })) →
        ∃ t, exec (.encAck e n 1) s = .next t ∧ (u.each (s.slotsOf n) (fun u k => u.slotSkip k)).RespondsAs t (wrNum e .ENC_ACK n 1) .ok ∧
          t.field.encs[n].fault = false ∧
          ∀ d : Fin 16, (t.field.divs[d]).p0 = if d ∈ s.divsOf n then s.field.encs[n].pos else (s.field.divs[d]).p0)) ∧
    (s.MayWrite x (wrNum e .FIRE_STOP_ACK 0 1) (.ent .FIRE_STOP_ACK 0 0) →
      (s.dev.state.active = true → ∃ t, exec (.fireStopAck e 1) s = .next t ∧
        (s.modFire (fun f => { f with stopLatched := false })).RespondsAs t (wrNum e .FIRE_STOP_ACK 0 1) .ok) ∧
      (s.dev.state.active = false → ∃ t, exec (.fireStopAck e 1) s = .next t ∧ s.RespondsAs t (wrNum e .FIRE_STOP_ACK 0 1) .state)) ∧
    (∀ v : BitVec 32, s.MayWrite x (wrNum e .SAF_EVENT_ACK 0 v.toNat) (.ent .SAF_EVENT_ACK 0 0) →
      ∃ t, exec (.safEventAck e v) s = .next t ∧
        (s.modSaf (fun f => { f with latched := clearMask f.latched (clearMask v.toNat s.present_) })).RespondsAs t (wrNum e .SAF_EVENT_ACK 0 v.toNat) .ok)

/-- R607 to R609, R613 to R616: the requests of boot and security. A staged image passes the checks of step 5 or is refused by what it fails; an install opens
the ledger's UPDATE BEGIN and programs the image area; an advanced counter, an owner key and a revocation blow fuses, in INERT alone, and are refused where
the image that runs, one that is staged, or a package that is loaded or stored depends on the opposite; the nonce of an attestation is kept and answered when
its report is ready; a package is stored with the entries of its partition, and unstored. -/
def Obligations.BootRequests : Prop :=
  ∀ (s : State) (x : Session) (e : Envelope),
    (∀ (ofs : BitVec 64) (b d : Bytes), s.MayWrite x (wrSeg e .BOOT_FW_IMAGE 0 ofs d) (.ent .BOOT_FW_IMAGE 0 0) → x.Holds (wrSeg e .BOOT_FW_IMAGE 0 ofs d) b →
      e.last = true → (b ++ d).length ≤ 25165824 → s.mayStage = true → s.boot.fwStatus ≠ 2 →
      ∃ t, exec (.bootFwImage e ofs d) s = .next t ∧
        (∀ f, s.fwCheck (b ++ d) = .good f →
          (s.modBoot (fun x => { x with staged := some f, fwStatus := 1 })).RespondsAs t (wrSeg e .BOOT_FW_IMAGE 0 ofs d) .ok) ∧
        (s.fwCheck (b ++ d) = .format → (s.lint .BOOT_FW_REJECT).RespondsAs t (wrSeg e .BOOT_FW_IMAGE 0 ofs d) .range) ∧
        (s.fwCheck (b ++ d) = .verification ∨ s.fwCheck (b ++ d) = .rollback → (s.lint .BOOT_FW_REJECT).RespondsAs t (wrSeg e .BOOT_FW_IMAGE 0 ofs d) .auth)) ∧
    (s.MayWrite x (wrNum e .BOOT_FW_INSTALL 0 1) (.ent .BOOT_FW_INSTALL 0 0) →
      (∀ f, s.boot.staged = some f → s.boot.fwStatus = 1 → ∃ t, exec (.bootFwInstall e 1) s = .next t ∧
        (s.installBegin f).RespondsAs t (wrNum e .BOOT_FW_INSTALL 0 1) .ok ∧ t.boot.fwStatus = 2 ∧ t.boot.record.update = 1 ∧
        t.boot.record.updVersion = f.version) ∧
      (s.boot.staged = none ∨ s.boot.fwStatus ≠ 1 → ∃ t, exec (.bootFwInstall e 1) s = .next t ∧ s.RespondsAs t (wrNum e .BOOT_FW_INSTALL 0 1) .state)) ∧
    (∀ (ofs : BitVec 64) (b d : Bytes) (new o : Nat), s.MayWrite x (wrSeg e .BOOT_RB_ADVANCE 0 ofs d) (.ent .BOOT_RB_ADVANCE 0 0) →
      x.Holds (wrSeg e .BOOT_RB_ADVANCE 0 ofs d) b → e.last = true → (b ++ d).length = 2 → new = fieldAt (b ++ d) 1 1 →
      (fieldAt (b ++ d) 0 1 = 0 ∧ o = 513 ∧ (∀ f, s.boot.running = some f ∨ s.boot.staged = some f → new ≤ f.secVersion) ∨
        fieldAt (b ++ d) 0 1 = 1 ∧ o = 521 ∧ (∀ p ∈ s.loaded, new ≤ p.secVersion) ∧
          ∀ y ∈ s.boot.flash.store, new ≤ (packageOf y.container 0).secVersion) →
      rollback (s.fuse o 8) ≤ new → new ≤ 64 →
      (s.dev.state = .inert → ∃ t, exec (.bootRbAdvance e ofs d) s = .next t ∧
        (s.blow o 8 (2 ^ new - 1)).RespondsAs t (wrSeg e .BOOT_RB_ADVANCE 0 ofs d) .ok ∧ t.fuse o 8 = s.fuse o 8 ||| (2 ^ new - 1)) ∧
      (s.dev.state ≠ .inert → ∃ t, exec (.bootRbAdvance e ofs d) s = .next t ∧ s.RespondsAs t (wrSeg e .BOOT_RB_ADVANCE 0 ofs d) .state)) ∧
    (∀ (ofs : BitVec 64) (b d : Bytes) (k : Nat), s.MayWrite x (wrSeg e .BOOT_OWNER_KEY 0 ofs d) (.ent .BOOT_OWNER_KEY 0 0) →
      x.Holds (wrSeg e .BOOT_OWNER_KEY 0 ofs d) b → e.last = true → (b ++ d).length = 68 → k = fieldAt (b ++ d) 0 1 → k < 4 → fieldAt (b ++ d) 1 3 = 0 →
      (s.dev.state = .inert → allZero (s.keyHash true k) = true → ∃ t, exec (.bootOwnerKey e ofs d) s = .next t ∧
        (s.blow (256 + 64 * k) 64 (fieldAt (b ++ d) 4 64)).RespondsAs t (wrSeg e .BOOT_OWNER_KEY 0 ofs d) .ok ∧
        t.fuse (256 + 64 * k) 64 = s.fuse (256 + 64 * k) 64 ||| fieldAt (b ++ d) 4 64) ∧
      (s.dev.state ≠ .inert ∨ allZero (s.keyHash true k) = false →
        ∃ t, exec (.bootOwnerKey e ofs d) s = .next t ∧ s.RespondsAs t (wrSeg e .BOOT_OWNER_KEY 0 ofs d) .state)) ∧
    (∀ v : BitVec 8, s.MayWrite x (wrNum e .BOOT_REVOKE 0 v.toNat) (.ent .BOOT_REVOKE 0 0) →
      (s.dev.state = .inert → (∀ f, s.boot.running = some f → v.toNat.testBit f.rootSlot = false) →
        (∀ p ∈ s.loaded, v.toNat.testBit (4 + p.ownerKey) = false) → (∀ y ∈ s.boot.flash.store, v.toNat.testBit (4 + ownerSlot y.container) = false) →
        ∃ t, exec (.bootRevoke e v) s = .next t ∧ (s.blow 512 1 v.toNat).RespondsAs t (wrNum e .BOOT_REVOKE 0 v.toNat) .ok ∧
          t.fuse 512 1 = s.fuse 512 1 ||| v.toNat) ∧
      (s.dev.state ≠ .inert ∨ (∃ f, s.boot.running = some f ∧ v.toNat.testBit f.rootSlot = true) ∨
          (∃ p ∈ s.loaded, v.toNat.testBit (4 + p.ownerKey) = true) ∨ (∃ y ∈ s.boot.flash.store, v.toNat.testBit (4 + ownerSlot y.container) = true) →
        ∃ t, exec (.bootRevoke e v) s = .next t ∧ s.RespondsAs t (wrNum e .BOOT_REVOKE 0 v.toNat) .state)) ∧
    (∀ (ofs : BitVec 64) (b d : Bytes), s.MayWrite x (wrSeg e .BOOT_ATTEST_NONCE 0 ofs d) (.ent .BOOT_ATTEST_NONCE 0 0) →
      x.Holds (wrSeg e .BOOT_ATTEST_NONCE 0 ofs d) b → e.last = true → (b ++ d).length = 32 → s.boot.attestWaiting = none →
      ∃ t, exec (.bootAttestNonce e ofs d) s = .next t ∧
        (Config.factoryGood s.boot.flash.factory = true → ∃ ss,
          ({ s.modBoot (fun y => { y with attestNonce := b ++ d, attestWaiting := some (.session e.session.toNat e.reqId.toNat), attestReport := [] }) with
            od := { s.od with sessions := ss } } : State).EndsAs t) ∧
        (Config.factoryGood s.boot.flash.factory = false → s.RespondsAs t (wrSeg e .BOOT_ATTEST_NONCE 0 ofs d) .state)) ∧
    (s.Settled →
      (s.boot.attestWaiting = none → ∃ t, exec .attestReportReady s = .next t ∧ s.EndsAs t) ∧
      (∀ (h : Nat) (y : Session) (r : Request), s.boot.attestWaiting = some (.session h r.env.reqId.toNat) → s.session? h = some y →
        y.executing = some r → y.queue = [] →
        ∃ t, exec .attestReportReady s = .next t ∧ t.Answered r .ok ∧ t.boot = { s.boot with attestWaiting := none, attestReport := s.attestReport })) ∧
    (∀ v : BitVec 8, s.MayWrite x (wrNum e .BOOT_PKG_STORE 0 v.toNat) (.ent .BOOT_PKG_STORE 0 0) →
      ∀ (i : Fin 16) (p : Package) (rest : List StoredPkg), i.val = v.toNat → s.cox.packages[i] = some p →
      rest = s.boot.flash.store.filter (fun y => y.slot != v.toNat) →
      (rest.map (fun y => y.container.length)).sum + p.container.length ≤ 40828928 →
      (s.dev.state = .inert → ∃ t m, exec (.bootPkgStore e v) s = .next t ∧
        (s.modBoot (fun y => { y with flash := { y.flash with
          store := rest ++ [⟨v.toNat, p.container, p.partition, false⟩], storeEntries := m } })).RespondsAs t (wrNum e .BOOT_PKG_STORE 0 v.toNat) .ok ∧
        m = (s.od.committed.filter (fun a => partKey p.partition a.1)).foldl (fun m a => amInsert m a.1 a.2)
          (s.boot.flash.storeEntries.filter (fun a => !partKey p.partition a.1))) ∧
      (s.dev.state ≠ .inert → ∃ t, exec (.bootPkgStore e v) s = .next t ∧ s.RespondsAs t (wrNum e .BOOT_PKG_STORE 0 v.toNat) .state)) ∧
    (∀ v : BitVec 8, s.MayWrite x (wrNum e .BOOT_PKG_UNSTORE 0 v.toNat) (.ent .BOOT_PKG_UNSTORE 0 0) →
      s.boot.flash.store.any (fun y => y.slot == v.toNat) = true →
      (s.dev.state = .inert → ∃ t, exec (.bootPkgUnstore e v) s = .next t ∧
        (s.modBoot (fun y => { y with flash := { y.flash with store := y.flash.store.filter (fun y => y.slot != v.toNat) } })).RespondsAs t
          (wrNum e .BOOT_PKG_UNSTORE 0 v.toNat) .ok) ∧
      (s.dev.state ≠ .inert → ∃ t, exec (.bootPkgUnstore e v) s = .next t ∧ s.RespondsAs t (wrNum e .BOOT_PKG_UNSTORE 0 v.toNat) .state))
end

