-- ==== Sys2Proof/Laws/Bytes.lean ====
section
/-! SUPPORT. Byte strings and their numbers, sparse maps and memories: what was written reads back, and the canonical form is kept. -/

namespace Sys2Proof.Machine

open Sys2Proof

/-! ### Little-endian bytes -/

@[simp] theorem leBytes_length (n v : Nat) : (leBytes n v).length = n := by
  induction n generalizing v with
  | zero => rfl
  | succ n ih => simp [leBytes, ih]

@[simp] theorem zeros_length (n : Nat) : (zeros n).length = n := by simp [zeros]

theorem leNat_leBytes (n v : Nat) : leNat (leBytes n v) = v % 256 ^ n := by
  induction n generalizing v with
  | zero => simp [leBytes, leNat, Nat.mod_one]
  | succ n ih =>
    simp only [leBytes, leNat, ih, BitVec.toNat_ofNat]
    show v % 256 + 256 * (v / 256 % 256 ^ n) = v % 256 ^ (n + 1)
    rw [Nat.pow_succ 256 n, Nat.mul_comm (256 ^ n) 256, Nat.mod_mul]

/-- A number that fits is what its bytes say. -/
theorem leNat_leBytes_of_lt {n v : Nat} (h : v < 256 ^ n) : leNat (leBytes n v) = v := by
  rw [leNat_leBytes, Nat.mod_eq_of_lt h]

theorem leBytes_drop (n o v : Nat) : (leBytes n v).drop o = leBytes (n - o) (v / 256 ^ o) := by
  induction o generalizing n v with
  | zero => simp
  | succ o ih =>
    cases n with
    | zero => simp [leBytes]
    | succ n =>
      simp only [leBytes, List.drop_succ_cons, ih, Nat.succ_sub_succ]
      rw [Nat.div_div_eq_div_mul, Nat.pow_succ, Nat.mul_comm 256]

theorem leBytes_take {n k : Nat} (v : Nat) (h : k ≤ n) : (leBytes n v).take k = leBytes k v := by
  induction k generalizing n v with
  | zero => simp [leBytes]
  | succ k ih =>
    cases n with
    | zero => omega
    | succ n => simp only [leBytes, List.take_succ_cons, ih _ (Nat.le_of_succ_le_succ h)]

/-- A field of a record that begins with the bytes of a number. -/
theorem fieldAt_leBytes {n o k : Nat} (v : Nat) (d : Bytes) (h : o + k ≤ n) :
    fieldAt (leBytes n v ++ d) o k = v / 256 ^ o % 256 ^ k := by
  have h1 : ((leBytes n v ++ d).drop o).take k = leBytes k (v / 256 ^ o) := by
    rw [List.drop_append_of_le_length (by simp; omega), List.take_append_of_le_length (by simp; omega), leBytes_drop,
      leBytes_take _ (by omega)]
  unfold fieldAt slice
  simp only [h1, leBytes_length, Nat.sub_self, zeros, List.replicate_zero, List.append_nil]
  exact leNat_leBytes _ _

/-- A field of a packed record: what stands after the fields `l`. -/
theorem pack_field (l r : List (Nat × Nat)) (w v : Nat) :
    pack (l ++ (w, v) :: r) / 2 ^ (l.map (·.1)).sum % 2 ^ w = v % 2 ^ w := by
  induction l with
  | nil => simp [pack]
  | cons e l ih =>
    obtain ⟨a, b⟩ := e
    simp only [List.cons_append, pack, List.map_cons, List.sum_cons]
    rw [Nat.pow_add, ← Nat.div_div_eq_div_mul, Nat.add_mul_div_left _ _ (Nat.two_pow_pos a),
      Nat.div_eq_of_lt (Nat.mod_lt _ (Nat.two_pow_pos a)), Nat.zero_add]
    exact ih

/-- A whole-byte field of a record of packed fields. -/
theorem fieldAt_pack {n o k w v : Nat} {f l r : List (Nat × Nat)} (d : Bytes) (hf : f = l ++ (w, v) :: r)
    (ho : (l.map (·.1)).sum = 8 * o) (hw : w = 8 * k) (hn : o + k ≤ n) (hv : v < 2 ^ w) : fieldAt (packBytes n f ++ d) o k = v := by
  unfold packBytes
  rw [fieldAt_leBytes _ _ hn]
  have h := pack_field l r w v
  rw [← hf, ho, hw, Nat.pow_mul, Nat.pow_mul] at h
  rw [hw, Nat.pow_mul] at hv
  rw [Nat.mod_eq_of_lt hv] at h
  exact h

/-! ### Sparse maps -/

theorem amGet?_insert {α : Type} (m : AMap α) (k j : Nat) (v : α) :
    amGet? (amInsert m k v) j = if j = k then some v else amGet? m j := by
  induction m with
  | nil => simp [amInsert, amGet?]
  | cons e r ih =>
    obtain ⟨i, w⟩ := e
    unfold amInsert
    split
    · rename_i h; subst h; simp only [amGet?]; split <;> simp_all
    · split
      · simp only [amGet?]
      · simp only [amGet?, ih]
        split <;> split <;> simp_all

theorem amGet?_erase {α : Type} (m : AMap α) (k j : Nat) : amGet? (amErase m k) j = if j = k then none else amGet? m j := by
  induction m with
  | nil => simp [amErase, amGet?]
  | cons e r ih =>
    obtain ⟨i, w⟩ := e
    unfold amErase
    split
    · rename_i h; subst h
      rw [ih]
      simp only [amGet?]
      split <;> simp_all
    · simp only [amGet?, ih]
      split <;> split <;> simp_all

theorem amAbove_insert {α : Type} {m : AMap α} {a k : Nat} (v : α) (h : amAbove a m = true) (hk : a < k) :
    amAbove a (amInsert m k v) = true := by
  cases m with
  | nil => simpa [amInsert, amAbove] using hk
  | cons e r =>
    obtain ⟨i, w⟩ := e
    simp only [amAbove, decide_eq_true_eq] at h
    unfold amInsert
    split
    · simpa [amAbove] using hk
    · split <;> simpa [amAbove]

theorem amSorted_insert {α : Type} {m : AMap α} (k : Nat) (v : α) (h : amSorted m = true) : amSorted (amInsert m k v) = true := by
  induction m with
  | nil => simp [amInsert, amSorted, amAbove]
  | cons e r ih =>
    obtain ⟨i, w⟩ := e
    have h' := h
    simp only [amSorted, Bool.and_eq_true] at h
    unfold amInsert
    split
    · rename_i c; subst c; simpa [amSorted] using h
    · split
      · rename_i c
        simp only [amSorted, Bool.and_eq_true]
        exact ⟨by simpa [amAbove] using c, h⟩
      · simp only [amSorted, Bool.and_eq_true]
        exact ⟨amAbove_insert v h.1 (by omega), ih h.2⟩

theorem amAbove_trans {α : Type} {m : AMap α} {a b : Nat} (h : amAbove b m = true) (hab : a < b) : amAbove a m = true := by
  cases m with
  | nil => rfl
  | cons e r =>
    simp only [amAbove, decide_eq_true_eq] at h ⊢
    omega

theorem amAbove_erase {α : Type} {m : AMap α} {a : Nat} (k : Nat) (h : amAbove a m = true) (hs : amSorted m = true) :
    amAbove a (amErase m k) = true := by
  induction m with
  | nil => rfl
  | cons e r ih =>
    obtain ⟨i, w⟩ := e
    simp only [amSorted, Bool.and_eq_true] at hs
    simp only [amAbove, decide_eq_true_eq] at h
    unfold amErase
    split
    · exact ih (amAbove_trans hs.1 h) hs.2
    · simpa [amAbove]

theorem amSorted_erase {α : Type} {m : AMap α} (k : Nat) (h : amSorted m = true) : amSorted (amErase m k) = true := by
  induction m with
  | nil => rfl
  | cons e r ih =>
    obtain ⟨i, w⟩ := e
    simp only [amSorted, Bool.and_eq_true] at h
    unfold amErase
    split
    · exact ih h.2
    · simp only [amSorted, Bool.and_eq_true]
      exact ⟨amAbove_erase k h.1 h.2, ih h.2⟩

theorem mem_insert {α : Type} {m : AMap α} {k : Nat} {v : α} {e : Nat × α} (h : e ∈ amInsert m k v) : e = (k, v) ∨ e ∈ m := by
  induction m with
  | nil => simpa [amInsert] using h
  | cons x r ih =>
    obtain ⟨i, w⟩ := x
    unfold amInsert at h
    split at h
    · rcases List.mem_cons.mp h with h | h
      · exact .inl h
      · exact .inr (List.mem_cons_of_mem _ h)
    · split at h
      · rcases List.mem_cons.mp h with h | h
        · exact .inl h
        · exact .inr h
      · rcases List.mem_cons.mp h with h | h
        · exact .inr (h ▸ List.mem_cons_self)
        · rcases ih h with h | h
          · exact .inl h
          · exact .inr (List.mem_cons_of_mem _ h)

theorem mem_erase {α : Type} {m : AMap α} {k : Nat} {e : Nat × α} (h : e ∈ amErase m k) : e ∈ m := by
  induction m with
  | nil => exact h
  | cons x r ih =>
    obtain ⟨i, w⟩ := x
    unfold amErase at h
    split at h
    · exact List.mem_cons_of_mem _ (ih h)
    · rcases List.mem_cons.mp h with h | h
      · exact h ▸ List.mem_cons_self
      · exact List.mem_cons_of_mem _ (ih h)

/-- A write keeps the canonical form. -/
theorem amSet_wf {α : Type} [DecidableEq α] {m : AMap α} {d : α} (k : Nat) (v : α) (h : amWf d m = true) :
    amWf d (amSet m k v d) = true := by
  simp only [amWf, Bool.and_eq_true, List.all_eq_true, Bool.not_eq_true', decide_eq_false_iff_not] at h ⊢
  unfold amSet
  split
  · exact ⟨amSorted_erase k h.1, fun e he => h.2 e (mem_erase he)⟩
  · rename_i c
    refine ⟨amSorted_insert k v h.1, fun e he => ?_⟩
    rcases mem_insert he with rfl | he
    · exact c
    · exact h.2 e he

/-- What is written reads back, and every other key reads as before. -/
theorem amGet_amSet {α : Type} [DecidableEq α] (m : AMap α) (k j : Nat) (v d : α) :
    amGet (amSet m k v d) j d = if j = k then v else amGet m j d := by
  unfold amGet amSet
  split
  · rename_i c; subst c
    rw [amGet?_erase m k j]
    split <;> simp_all
  · rw [amGet?_insert]
    split <;> simp_all

theorem amGet?_insert_same {α : Type} (m : AMap α) (k : Nat) (v : α) : amGet? (amInsert m k v) k = some v := by
  rw [amGet?_insert, if_pos rfl]

/-- What is written reads back, whatever the map held. -/
theorem amGet_amSet_insert {α : Type} [DecidableEq α] (m : AMap α) (k : Nat) (v d : α) (h : v ≠ d) : amGet (amSet m k v d) k d = v := by
  unfold amSet amGet
  rw [if_neg h, amGet?_insert_same]; rfl

/-! ### Memories -/

/-- A write of a byte keeps the canonical form. -/
theorem memWrite_wf {m : Memory} (a : Nat) (b : Byte) (h : m.wf = true) : (memWrite m a b).wf = true := amSet_wf a b h

/-- A write of a string keeps the canonical form. -/
theorem memWriteN_wf {m : Memory} (a : Nat) (l : Bytes) (h : m.wf = true) : (memWriteN m a l).wf = true := by
  induction l generalizing m a with
  | nil => exact h
  | cons b l ih => exact ih _ (memWrite_wf a b h)

/-- A byte that is written reads back, and every other byte as before. -/
theorem memRead_memWrite (m : Memory) (a c : Nat) (b : Byte) :
    memRead (memWrite m a b) c = if c = a then b else memRead m c := amGet_amSet m a c b _

/-- After a string is written from `a`, its bytes read back there and every other byte as before. -/
theorem memRead_memWriteN (m : Memory) (a c : Nat) (l : Bytes) :
    memRead (memWriteN m a l) c = if a ≤ c ∧ c < a + l.length then l.getD (c - a) 0#8 else memRead m c := by
  induction l generalizing m a with
  | nil => simp [memWriteN] <;> omega
  | cons b l ih =>
    simp only [memWriteN, ih, memRead_memWrite, List.length_cons]
    by_cases c1 : c = a
    · subst c1
      rw [if_neg (by omega), if_pos rfl, if_pos (by omega)]
      simp
    · by_cases c2 : a + 1 ≤ c ∧ c < a + 1 + l.length
      · rw [if_pos c2, if_pos (by omega)]
        obtain ⟨k, hk⟩ : ∃ k, c - a = k + 1 := ⟨c - a - 1, by omega⟩
        rw [hk, show c - (a + 1) = k by omega]
        simp
      · rw [if_neg c2, if_neg c1, if_neg (by omega)]

end Sys2Proof.Machine
end

