-- ==== Sys2Proof/Laws/State.lean ====
section
/-! SUPPORT. What each named update of State does to each of its fields, each by `rfl`. -/

namespace Sys2Proof.Machine

open Sys2Proof

@[simp] theorem State.modCam_dev (s : State) (p : Fin 12) (f : CamPort → CamPort) : (s.modCam p f).dev = s.dev := rfl
@[simp] theorem State.modCam_boot (s : State) (p : Fin 12) (f : CamPort → CamPort) : (s.modCam p f).boot = s.boot := rfl
@[simp] theorem State.modCam_od (s : State) (p : Fin 12) (f : CamPort → CamPort) : (s.modCam p f).od = s.od := rfl
@[simp] theorem State.modCam_cyc (s : State) (p : Fin 12) (f : CamPort → CamPort) : (s.modCam p f).cyc = s.cyc := rfl
@[simp] theorem State.modCam_field (s : State) (p : Fin 12) (f : CamPort → CamPort) : (s.modCam p f).field = s.field := rfl
@[simp] theorem State.modCam_cams (s : State) (p : Fin 12) (f : CamPort → CamPort) : (s.modCam p f).cams = s.cams.set p (f s.cams[p]) := rfl
@[simp] theorem State.modCam_cox (s : State) (p : Fin 12) (f : CamPort → CamPort) : (s.modCam p f).cox = s.cox := rfl
@[simp] theorem State.modCam_crews (s : State) (p : Fin 12) (f : CamPort → CamPort) : (s.modCam p f).crews = s.crews := rfl
@[simp] theorem State.modCam_det (s : State) (p : Fin 12) (f : CamPort → CamPort) : (s.modCam p f).det = s.det := rfl
@[simp] theorem State.modCam_kv (s : State) (p : Fin 12) (f : CamPort → CamPort) : (s.modCam p f).kv = s.kv := rfl
@[simp] theorem State.modCam_retune (s : State) (p : Fin 12) (f : CamPort → CamPort) : (s.modCam p f).retune = s.retune := rfl
@[simp] theorem State.modCam_squad (s : State) (p : Fin 12) (f : CamPort → CamPort) : (s.modCam p f).squad = s.squad := rfl
@[simp] theorem State.modCam_mem (s : State) (p : Fin 12) (f : CamPort → CamPort) : (s.modCam p f).mem = s.mem := rfl
@[simp] theorem State.modCam_units (s : State) (p : Fin 12) (f : CamPort → CamPort) : (s.modCam p f).units = s.units := rfl
@[simp] theorem State.modCam_tu (s : State) (p : Fin 12) (f : CamPort → CamPort) : (s.modCam p f).tu = s.tu := rfl
@[simp] theorem State.modCam_fnet (s : State) (p : Fin 12) (f : CamPort → CamPort) : (s.modCam p f).fnet = s.fnet := rfl
@[simp] theorem State.modCam_saf (s : State) (p : Fin 12) (f : CamPort → CamPort) : (s.modCam p f).saf = s.saf := rfl
@[simp] theorem State.modCam_recs (s : State) (p : Fin 12) (f : CamPort → CamPort) : (s.modCam p f).recs = s.recs := rfl
@[simp] theorem State.modCam_pci (s : State) (p : Fin 12) (f : CamPort → CamPort) : (s.modCam p f).pci = s.pci := rfl
@[simp] theorem State.modCam_sent (s : State) (p : Fin 12) (f : CamPort → CamPort) : (s.modCam p f).sent = s.sent := rfl
@[simp] theorem State.modCam_fresh (s : State) (p : Fin 12) (f : CamPort → CamPort) : (s.modCam p f).fresh = s.fresh := rfl
@[simp] theorem State.modCam_pending (s : State) (p : Fin 12) (f : CamPort → CamPort) : (s.modCam p f).pending = s.pending := rfl

@[simp] theorem State.modField_dev (s : State) (f : Field → Field) : (s.modField f).dev = s.dev := rfl
@[simp] theorem State.modField_boot (s : State) (f : Field → Field) : (s.modField f).boot = s.boot := rfl
@[simp] theorem State.modField_od (s : State) (f : Field → Field) : (s.modField f).od = s.od := rfl
@[simp] theorem State.modField_cyc (s : State) (f : Field → Field) : (s.modField f).cyc = s.cyc := rfl
@[simp] theorem State.modField_field (s : State) (f : Field → Field) : (s.modField f).field = f s.field := rfl
@[simp] theorem State.modField_cams (s : State) (f : Field → Field) : (s.modField f).cams = s.cams := rfl
@[simp] theorem State.modField_cox (s : State) (f : Field → Field) : (s.modField f).cox = s.cox := rfl
@[simp] theorem State.modField_crews (s : State) (f : Field → Field) : (s.modField f).crews = s.crews := rfl
@[simp] theorem State.modField_det (s : State) (f : Field → Field) : (s.modField f).det = s.det := rfl
@[simp] theorem State.modField_kv (s : State) (f : Field → Field) : (s.modField f).kv = s.kv := rfl
@[simp] theorem State.modField_retune (s : State) (f : Field → Field) : (s.modField f).retune = s.retune := rfl
@[simp] theorem State.modField_squad (s : State) (f : Field → Field) : (s.modField f).squad = s.squad := rfl
@[simp] theorem State.modField_mem (s : State) (f : Field → Field) : (s.modField f).mem = s.mem := rfl
@[simp] theorem State.modField_units (s : State) (f : Field → Field) : (s.modField f).units = s.units := rfl
@[simp] theorem State.modField_tu (s : State) (f : Field → Field) : (s.modField f).tu = s.tu := rfl
@[simp] theorem State.modField_fnet (s : State) (f : Field → Field) : (s.modField f).fnet = s.fnet := rfl
@[simp] theorem State.modField_saf (s : State) (f : Field → Field) : (s.modField f).saf = s.saf := rfl
@[simp] theorem State.modField_recs (s : State) (f : Field → Field) : (s.modField f).recs = s.recs := rfl
@[simp] theorem State.modField_pci (s : State) (f : Field → Field) : (s.modField f).pci = s.pci := rfl
@[simp] theorem State.modField_sent (s : State) (f : Field → Field) : (s.modField f).sent = s.sent := rfl
@[simp] theorem State.modField_fresh (s : State) (f : Field → Field) : (s.modField f).fresh = s.fresh := rfl
@[simp] theorem State.modField_pending (s : State) (f : Field → Field) : (s.modField f).pending = s.pending := rfl

@[simp] theorem State.modChan_dev (s : State) (n : Fin 48) (f : FieldCh → FieldCh) : (s.modChan n f).dev = s.dev := rfl
@[simp] theorem State.modChan_boot (s : State) (n : Fin 48) (f : FieldCh → FieldCh) : (s.modChan n f).boot = s.boot := rfl
@[simp] theorem State.modChan_od (s : State) (n : Fin 48) (f : FieldCh → FieldCh) : (s.modChan n f).od = s.od := rfl
@[simp] theorem State.modChan_cyc (s : State) (n : Fin 48) (f : FieldCh → FieldCh) : (s.modChan n f).cyc = s.cyc := rfl
@[simp] theorem State.modChan_field (s : State) (n : Fin 48) (f : FieldCh → FieldCh) : (s.modChan n f).field = { s.field with chans := s.field.chans.set n (f s.field.chans[n]) } := rfl
@[simp] theorem State.modChan_cams (s : State) (n : Fin 48) (f : FieldCh → FieldCh) : (s.modChan n f).cams = s.cams := rfl
@[simp] theorem State.modChan_cox (s : State) (n : Fin 48) (f : FieldCh → FieldCh) : (s.modChan n f).cox = s.cox := rfl
@[simp] theorem State.modChan_crews (s : State) (n : Fin 48) (f : FieldCh → FieldCh) : (s.modChan n f).crews = s.crews := rfl
@[simp] theorem State.modChan_det (s : State) (n : Fin 48) (f : FieldCh → FieldCh) : (s.modChan n f).det = s.det := rfl
@[simp] theorem State.modChan_kv (s : State) (n : Fin 48) (f : FieldCh → FieldCh) : (s.modChan n f).kv = s.kv := rfl
@[simp] theorem State.modChan_retune (s : State) (n : Fin 48) (f : FieldCh → FieldCh) : (s.modChan n f).retune = s.retune := rfl
@[simp] theorem State.modChan_squad (s : State) (n : Fin 48) (f : FieldCh → FieldCh) : (s.modChan n f).squad = s.squad := rfl
@[simp] theorem State.modChan_mem (s : State) (n : Fin 48) (f : FieldCh → FieldCh) : (s.modChan n f).mem = s.mem := rfl
@[simp] theorem State.modChan_units (s : State) (n : Fin 48) (f : FieldCh → FieldCh) : (s.modChan n f).units = s.units := rfl
@[simp] theorem State.modChan_tu (s : State) (n : Fin 48) (f : FieldCh → FieldCh) : (s.modChan n f).tu = s.tu := rfl
@[simp] theorem State.modChan_fnet (s : State) (n : Fin 48) (f : FieldCh → FieldCh) : (s.modChan n f).fnet = s.fnet := rfl
@[simp] theorem State.modChan_saf (s : State) (n : Fin 48) (f : FieldCh → FieldCh) : (s.modChan n f).saf = s.saf := rfl
@[simp] theorem State.modChan_recs (s : State) (n : Fin 48) (f : FieldCh → FieldCh) : (s.modChan n f).recs = s.recs := rfl
@[simp] theorem State.modChan_pci (s : State) (n : Fin 48) (f : FieldCh → FieldCh) : (s.modChan n f).pci = s.pci := rfl
@[simp] theorem State.modChan_sent (s : State) (n : Fin 48) (f : FieldCh → FieldCh) : (s.modChan n f).sent = s.sent := rfl
@[simp] theorem State.modChan_fresh (s : State) (n : Fin 48) (f : FieldCh → FieldCh) : (s.modChan n f).fresh = s.fresh := rfl
@[simp] theorem State.modChan_pending (s : State) (n : Fin 48) (f : FieldCh → FieldCh) : (s.modChan n f).pending = s.pending := rfl

@[simp] theorem State.modEnc_dev (s : State) (n : Fin 8) (f : Encoder → Encoder) : (s.modEnc n f).dev = s.dev := rfl
@[simp] theorem State.modEnc_boot (s : State) (n : Fin 8) (f : Encoder → Encoder) : (s.modEnc n f).boot = s.boot := rfl
@[simp] theorem State.modEnc_od (s : State) (n : Fin 8) (f : Encoder → Encoder) : (s.modEnc n f).od = s.od := rfl
@[simp] theorem State.modEnc_cyc (s : State) (n : Fin 8) (f : Encoder → Encoder) : (s.modEnc n f).cyc = s.cyc := rfl
@[simp] theorem State.modEnc_field (s : State) (n : Fin 8) (f : Encoder → Encoder) : (s.modEnc n f).field = { s.field with encs := s.field.encs.set n (f s.field.encs[n]) } := rfl
@[simp] theorem State.modEnc_cams (s : State) (n : Fin 8) (f : Encoder → Encoder) : (s.modEnc n f).cams = s.cams := rfl
@[simp] theorem State.modEnc_cox (s : State) (n : Fin 8) (f : Encoder → Encoder) : (s.modEnc n f).cox = s.cox := rfl
@[simp] theorem State.modEnc_crews (s : State) (n : Fin 8) (f : Encoder → Encoder) : (s.modEnc n f).crews = s.crews := rfl
@[simp] theorem State.modEnc_det (s : State) (n : Fin 8) (f : Encoder → Encoder) : (s.modEnc n f).det = s.det := rfl
@[simp] theorem State.modEnc_kv (s : State) (n : Fin 8) (f : Encoder → Encoder) : (s.modEnc n f).kv = s.kv := rfl
@[simp] theorem State.modEnc_retune (s : State) (n : Fin 8) (f : Encoder → Encoder) : (s.modEnc n f).retune = s.retune := rfl
@[simp] theorem State.modEnc_squad (s : State) (n : Fin 8) (f : Encoder → Encoder) : (s.modEnc n f).squad = s.squad := rfl
@[simp] theorem State.modEnc_mem (s : State) (n : Fin 8) (f : Encoder → Encoder) : (s.modEnc n f).mem = s.mem := rfl
@[simp] theorem State.modEnc_units (s : State) (n : Fin 8) (f : Encoder → Encoder) : (s.modEnc n f).units = s.units := rfl
@[simp] theorem State.modEnc_tu (s : State) (n : Fin 8) (f : Encoder → Encoder) : (s.modEnc n f).tu = s.tu := rfl
@[simp] theorem State.modEnc_fnet (s : State) (n : Fin 8) (f : Encoder → Encoder) : (s.modEnc n f).fnet = s.fnet := rfl
@[simp] theorem State.modEnc_saf (s : State) (n : Fin 8) (f : Encoder → Encoder) : (s.modEnc n f).saf = s.saf := rfl
@[simp] theorem State.modEnc_recs (s : State) (n : Fin 8) (f : Encoder → Encoder) : (s.modEnc n f).recs = s.recs := rfl
@[simp] theorem State.modEnc_pci (s : State) (n : Fin 8) (f : Encoder → Encoder) : (s.modEnc n f).pci = s.pci := rfl
@[simp] theorem State.modEnc_sent (s : State) (n : Fin 8) (f : Encoder → Encoder) : (s.modEnc n f).sent = s.sent := rfl
@[simp] theorem State.modEnc_fresh (s : State) (n : Fin 8) (f : Encoder → Encoder) : (s.modEnc n f).fresh = s.fresh := rfl
@[simp] theorem State.modEnc_pending (s : State) (n : Fin 8) (f : Encoder → Encoder) : (s.modEnc n f).pending = s.pending := rfl

@[simp] theorem State.modDiv_dev (s : State) (n : Fin 16) (f : Divider → Divider) : (s.modDiv n f).dev = s.dev := rfl
@[simp] theorem State.modDiv_boot (s : State) (n : Fin 16) (f : Divider → Divider) : (s.modDiv n f).boot = s.boot := rfl
@[simp] theorem State.modDiv_od (s : State) (n : Fin 16) (f : Divider → Divider) : (s.modDiv n f).od = s.od := rfl
@[simp] theorem State.modDiv_cyc (s : State) (n : Fin 16) (f : Divider → Divider) : (s.modDiv n f).cyc = s.cyc := rfl
@[simp] theorem State.modDiv_field (s : State) (n : Fin 16) (f : Divider → Divider) : (s.modDiv n f).field = { s.field with divs := s.field.divs.set n (f s.field.divs[n]) } := rfl
@[simp] theorem State.modDiv_cams (s : State) (n : Fin 16) (f : Divider → Divider) : (s.modDiv n f).cams = s.cams := rfl
@[simp] theorem State.modDiv_cox (s : State) (n : Fin 16) (f : Divider → Divider) : (s.modDiv n f).cox = s.cox := rfl
@[simp] theorem State.modDiv_crews (s : State) (n : Fin 16) (f : Divider → Divider) : (s.modDiv n f).crews = s.crews := rfl
@[simp] theorem State.modDiv_det (s : State) (n : Fin 16) (f : Divider → Divider) : (s.modDiv n f).det = s.det := rfl
@[simp] theorem State.modDiv_kv (s : State) (n : Fin 16) (f : Divider → Divider) : (s.modDiv n f).kv = s.kv := rfl
@[simp] theorem State.modDiv_retune (s : State) (n : Fin 16) (f : Divider → Divider) : (s.modDiv n f).retune = s.retune := rfl
@[simp] theorem State.modDiv_squad (s : State) (n : Fin 16) (f : Divider → Divider) : (s.modDiv n f).squad = s.squad := rfl
@[simp] theorem State.modDiv_mem (s : State) (n : Fin 16) (f : Divider → Divider) : (s.modDiv n f).mem = s.mem := rfl
@[simp] theorem State.modDiv_units (s : State) (n : Fin 16) (f : Divider → Divider) : (s.modDiv n f).units = s.units := rfl
@[simp] theorem State.modDiv_tu (s : State) (n : Fin 16) (f : Divider → Divider) : (s.modDiv n f).tu = s.tu := rfl
@[simp] theorem State.modDiv_fnet (s : State) (n : Fin 16) (f : Divider → Divider) : (s.modDiv n f).fnet = s.fnet := rfl
@[simp] theorem State.modDiv_saf (s : State) (n : Fin 16) (f : Divider → Divider) : (s.modDiv n f).saf = s.saf := rfl
@[simp] theorem State.modDiv_recs (s : State) (n : Fin 16) (f : Divider → Divider) : (s.modDiv n f).recs = s.recs := rfl
@[simp] theorem State.modDiv_pci (s : State) (n : Fin 16) (f : Divider → Divider) : (s.modDiv n f).pci = s.pci := rfl
@[simp] theorem State.modDiv_sent (s : State) (n : Fin 16) (f : Divider → Divider) : (s.modDiv n f).sent = s.sent := rfl
@[simp] theorem State.modDiv_fresh (s : State) (n : Fin 16) (f : Divider → Divider) : (s.modDiv n f).fresh = s.fresh := rfl
@[simp] theorem State.modDiv_pending (s : State) (n : Fin 16) (f : Divider → Divider) : (s.modDiv n f).pending = s.pending := rfl

@[simp] theorem State.modSlot_dev (s : State) (n : Fin 32) (f : TrigSlot → TrigSlot) : (s.modSlot n f).dev = s.dev := rfl
@[simp] theorem State.modSlot_boot (s : State) (n : Fin 32) (f : TrigSlot → TrigSlot) : (s.modSlot n f).boot = s.boot := rfl
@[simp] theorem State.modSlot_od (s : State) (n : Fin 32) (f : TrigSlot → TrigSlot) : (s.modSlot n f).od = s.od := rfl
@[simp] theorem State.modSlot_cyc (s : State) (n : Fin 32) (f : TrigSlot → TrigSlot) : (s.modSlot n f).cyc = s.cyc := rfl
@[simp] theorem State.modSlot_field (s : State) (n : Fin 32) (f : TrigSlot → TrigSlot) : (s.modSlot n f).field = { s.field with slots := s.field.slots.set n (f s.field.slots[n]) } := rfl
@[simp] theorem State.modSlot_cams (s : State) (n : Fin 32) (f : TrigSlot → TrigSlot) : (s.modSlot n f).cams = s.cams := rfl
@[simp] theorem State.modSlot_cox (s : State) (n : Fin 32) (f : TrigSlot → TrigSlot) : (s.modSlot n f).cox = s.cox := rfl
@[simp] theorem State.modSlot_crews (s : State) (n : Fin 32) (f : TrigSlot → TrigSlot) : (s.modSlot n f).crews = s.crews := rfl
@[simp] theorem State.modSlot_det (s : State) (n : Fin 32) (f : TrigSlot → TrigSlot) : (s.modSlot n f).det = s.det := rfl
@[simp] theorem State.modSlot_kv (s : State) (n : Fin 32) (f : TrigSlot → TrigSlot) : (s.modSlot n f).kv = s.kv := rfl
@[simp] theorem State.modSlot_retune (s : State) (n : Fin 32) (f : TrigSlot → TrigSlot) : (s.modSlot n f).retune = s.retune := rfl
@[simp] theorem State.modSlot_squad (s : State) (n : Fin 32) (f : TrigSlot → TrigSlot) : (s.modSlot n f).squad = s.squad := rfl
@[simp] theorem State.modSlot_mem (s : State) (n : Fin 32) (f : TrigSlot → TrigSlot) : (s.modSlot n f).mem = s.mem := rfl
@[simp] theorem State.modSlot_units (s : State) (n : Fin 32) (f : TrigSlot → TrigSlot) : (s.modSlot n f).units = s.units := rfl
@[simp] theorem State.modSlot_tu (s : State) (n : Fin 32) (f : TrigSlot → TrigSlot) : (s.modSlot n f).tu = s.tu := rfl
@[simp] theorem State.modSlot_fnet (s : State) (n : Fin 32) (f : TrigSlot → TrigSlot) : (s.modSlot n f).fnet = s.fnet := rfl
@[simp] theorem State.modSlot_saf (s : State) (n : Fin 32) (f : TrigSlot → TrigSlot) : (s.modSlot n f).saf = s.saf := rfl
@[simp] theorem State.modSlot_recs (s : State) (n : Fin 32) (f : TrigSlot → TrigSlot) : (s.modSlot n f).recs = s.recs := rfl
@[simp] theorem State.modSlot_pci (s : State) (n : Fin 32) (f : TrigSlot → TrigSlot) : (s.modSlot n f).pci = s.pci := rfl
@[simp] theorem State.modSlot_sent (s : State) (n : Fin 32) (f : TrigSlot → TrigSlot) : (s.modSlot n f).sent = s.sent := rfl
@[simp] theorem State.modSlot_fresh (s : State) (n : Fin 32) (f : TrigSlot → TrigSlot) : (s.modSlot n f).fresh = s.fresh := rfl
@[simp] theorem State.modSlot_pending (s : State) (n : Fin 32) (f : TrigSlot → TrigSlot) : (s.modSlot n f).pending = s.pending := rfl

@[simp] theorem State.modFire_dev (s : State) (f : FireList → FireList) : (s.modFire f).dev = s.dev := rfl
@[simp] theorem State.modFire_boot (s : State) (f : FireList → FireList) : (s.modFire f).boot = s.boot := rfl
@[simp] theorem State.modFire_od (s : State) (f : FireList → FireList) : (s.modFire f).od = s.od := rfl
@[simp] theorem State.modFire_cyc (s : State) (f : FireList → FireList) : (s.modFire f).cyc = s.cyc := rfl
@[simp] theorem State.modFire_field (s : State) (f : FireList → FireList) : (s.modFire f).field = { s.field with fire := f s.field.fire } := rfl
@[simp] theorem State.modFire_cams (s : State) (f : FireList → FireList) : (s.modFire f).cams = s.cams := rfl
@[simp] theorem State.modFire_cox (s : State) (f : FireList → FireList) : (s.modFire f).cox = s.cox := rfl
@[simp] theorem State.modFire_crews (s : State) (f : FireList → FireList) : (s.modFire f).crews = s.crews := rfl
@[simp] theorem State.modFire_det (s : State) (f : FireList → FireList) : (s.modFire f).det = s.det := rfl
@[simp] theorem State.modFire_kv (s : State) (f : FireList → FireList) : (s.modFire f).kv = s.kv := rfl
@[simp] theorem State.modFire_retune (s : State) (f : FireList → FireList) : (s.modFire f).retune = s.retune := rfl
@[simp] theorem State.modFire_squad (s : State) (f : FireList → FireList) : (s.modFire f).squad = s.squad := rfl
@[simp] theorem State.modFire_mem (s : State) (f : FireList → FireList) : (s.modFire f).mem = s.mem := rfl
@[simp] theorem State.modFire_units (s : State) (f : FireList → FireList) : (s.modFire f).units = s.units := rfl
@[simp] theorem State.modFire_tu (s : State) (f : FireList → FireList) : (s.modFire f).tu = s.tu := rfl
@[simp] theorem State.modFire_fnet (s : State) (f : FireList → FireList) : (s.modFire f).fnet = s.fnet := rfl
@[simp] theorem State.modFire_saf (s : State) (f : FireList → FireList) : (s.modFire f).saf = s.saf := rfl
@[simp] theorem State.modFire_recs (s : State) (f : FireList → FireList) : (s.modFire f).recs = s.recs := rfl
@[simp] theorem State.modFire_pci (s : State) (f : FireList → FireList) : (s.modFire f).pci = s.pci := rfl
@[simp] theorem State.modFire_sent (s : State) (f : FireList → FireList) : (s.modFire f).sent = s.sent := rfl
@[simp] theorem State.modFire_fresh (s : State) (f : FireList → FireList) : (s.modFire f).fresh = s.fresh := rfl
@[simp] theorem State.modFire_pending (s : State) (f : FireList → FireList) : (s.modFire f).pending = s.pending := rfl

@[simp] theorem State.modCox_dev (s : State) (f : Cox → Cox) : (s.modCox f).dev = s.dev := rfl
@[simp] theorem State.modCox_boot (s : State) (f : Cox → Cox) : (s.modCox f).boot = s.boot := rfl
@[simp] theorem State.modCox_od (s : State) (f : Cox → Cox) : (s.modCox f).od = s.od := rfl
@[simp] theorem State.modCox_cyc (s : State) (f : Cox → Cox) : (s.modCox f).cyc = s.cyc := rfl
@[simp] theorem State.modCox_field (s : State) (f : Cox → Cox) : (s.modCox f).field = s.field := rfl
@[simp] theorem State.modCox_cams (s : State) (f : Cox → Cox) : (s.modCox f).cams = s.cams := rfl
@[simp] theorem State.modCox_cox (s : State) (f : Cox → Cox) : (s.modCox f).cox = f s.cox := rfl
@[simp] theorem State.modCox_crews (s : State) (f : Cox → Cox) : (s.modCox f).crews = s.crews := rfl
@[simp] theorem State.modCox_det (s : State) (f : Cox → Cox) : (s.modCox f).det = s.det := rfl
@[simp] theorem State.modCox_kv (s : State) (f : Cox → Cox) : (s.modCox f).kv = s.kv := rfl
@[simp] theorem State.modCox_retune (s : State) (f : Cox → Cox) : (s.modCox f).retune = s.retune := rfl
@[simp] theorem State.modCox_squad (s : State) (f : Cox → Cox) : (s.modCox f).squad = s.squad := rfl
@[simp] theorem State.modCox_mem (s : State) (f : Cox → Cox) : (s.modCox f).mem = s.mem := rfl
@[simp] theorem State.modCox_units (s : State) (f : Cox → Cox) : (s.modCox f).units = s.units := rfl
@[simp] theorem State.modCox_tu (s : State) (f : Cox → Cox) : (s.modCox f).tu = s.tu := rfl
@[simp] theorem State.modCox_fnet (s : State) (f : Cox → Cox) : (s.modCox f).fnet = s.fnet := rfl
@[simp] theorem State.modCox_saf (s : State) (f : Cox → Cox) : (s.modCox f).saf = s.saf := rfl
@[simp] theorem State.modCox_recs (s : State) (f : Cox → Cox) : (s.modCox f).recs = s.recs := rfl
@[simp] theorem State.modCox_pci (s : State) (f : Cox → Cox) : (s.modCox f).pci = s.pci := rfl
@[simp] theorem State.modCox_sent (s : State) (f : Cox → Cox) : (s.modCox f).sent = s.sent := rfl
@[simp] theorem State.modCox_fresh (s : State) (f : Cox → Cox) : (s.modCox f).fresh = s.fresh := rfl
@[simp] theorem State.modCox_pending (s : State) (f : Cox → Cox) : (s.modCox f).pending = s.pending := rfl

@[simp] theorem State.modCrew_dev (s : State) (c : Fin 6) (f : Crew → Crew) : (s.modCrew c f).dev = s.dev := rfl
@[simp] theorem State.modCrew_boot (s : State) (c : Fin 6) (f : Crew → Crew) : (s.modCrew c f).boot = s.boot := rfl
@[simp] theorem State.modCrew_od (s : State) (c : Fin 6) (f : Crew → Crew) : (s.modCrew c f).od = s.od := rfl
@[simp] theorem State.modCrew_cyc (s : State) (c : Fin 6) (f : Crew → Crew) : (s.modCrew c f).cyc = s.cyc := rfl
@[simp] theorem State.modCrew_field (s : State) (c : Fin 6) (f : Crew → Crew) : (s.modCrew c f).field = s.field := rfl
@[simp] theorem State.modCrew_cams (s : State) (c : Fin 6) (f : Crew → Crew) : (s.modCrew c f).cams = s.cams := rfl
@[simp] theorem State.modCrew_cox (s : State) (c : Fin 6) (f : Crew → Crew) : (s.modCrew c f).cox = s.cox := rfl
@[simp] theorem State.modCrew_crews (s : State) (c : Fin 6) (f : Crew → Crew) : (s.modCrew c f).crews = s.crews.set c (f s.crews[c]) := rfl
@[simp] theorem State.modCrew_det (s : State) (c : Fin 6) (f : Crew → Crew) : (s.modCrew c f).det = s.det := rfl
@[simp] theorem State.modCrew_kv (s : State) (c : Fin 6) (f : Crew → Crew) : (s.modCrew c f).kv = s.kv := rfl
@[simp] theorem State.modCrew_retune (s : State) (c : Fin 6) (f : Crew → Crew) : (s.modCrew c f).retune = s.retune := rfl
@[simp] theorem State.modCrew_squad (s : State) (c : Fin 6) (f : Crew → Crew) : (s.modCrew c f).squad = s.squad := rfl
@[simp] theorem State.modCrew_mem (s : State) (c : Fin 6) (f : Crew → Crew) : (s.modCrew c f).mem = s.mem := rfl
@[simp] theorem State.modCrew_units (s : State) (c : Fin 6) (f : Crew → Crew) : (s.modCrew c f).units = s.units := rfl
@[simp] theorem State.modCrew_tu (s : State) (c : Fin 6) (f : Crew → Crew) : (s.modCrew c f).tu = s.tu := rfl
@[simp] theorem State.modCrew_fnet (s : State) (c : Fin 6) (f : Crew → Crew) : (s.modCrew c f).fnet = s.fnet := rfl
@[simp] theorem State.modCrew_saf (s : State) (c : Fin 6) (f : Crew → Crew) : (s.modCrew c f).saf = s.saf := rfl
@[simp] theorem State.modCrew_recs (s : State) (c : Fin 6) (f : Crew → Crew) : (s.modCrew c f).recs = s.recs := rfl
@[simp] theorem State.modCrew_pci (s : State) (c : Fin 6) (f : Crew → Crew) : (s.modCrew c f).pci = s.pci := rfl
@[simp] theorem State.modCrew_sent (s : State) (c : Fin 6) (f : Crew → Crew) : (s.modCrew c f).sent = s.sent := rfl
@[simp] theorem State.modCrew_fresh (s : State) (c : Fin 6) (f : Crew → Crew) : (s.modCrew c f).fresh = s.fresh := rfl
@[simp] theorem State.modCrew_pending (s : State) (c : Fin 6) (f : Crew → Crew) : (s.modCrew c f).pending = s.pending := rfl

@[simp] theorem State.modDet_dev (s : State) (f : Det → Det) : (s.modDet f).dev = s.dev := rfl
@[simp] theorem State.modDet_boot (s : State) (f : Det → Det) : (s.modDet f).boot = s.boot := rfl
@[simp] theorem State.modDet_od (s : State) (f : Det → Det) : (s.modDet f).od = s.od := rfl
@[simp] theorem State.modDet_cyc (s : State) (f : Det → Det) : (s.modDet f).cyc = s.cyc := rfl
@[simp] theorem State.modDet_field (s : State) (f : Det → Det) : (s.modDet f).field = s.field := rfl
@[simp] theorem State.modDet_cams (s : State) (f : Det → Det) : (s.modDet f).cams = s.cams := rfl
@[simp] theorem State.modDet_cox (s : State) (f : Det → Det) : (s.modDet f).cox = s.cox := rfl
@[simp] theorem State.modDet_crews (s : State) (f : Det → Det) : (s.modDet f).crews = s.crews := rfl
@[simp] theorem State.modDet_det (s : State) (f : Det → Det) : (s.modDet f).det = f s.det := rfl
@[simp] theorem State.modDet_kv (s : State) (f : Det → Det) : (s.modDet f).kv = s.kv := rfl
@[simp] theorem State.modDet_retune (s : State) (f : Det → Det) : (s.modDet f).retune = s.retune := rfl
@[simp] theorem State.modDet_squad (s : State) (f : Det → Det) : (s.modDet f).squad = s.squad := rfl
@[simp] theorem State.modDet_mem (s : State) (f : Det → Det) : (s.modDet f).mem = s.mem := rfl
@[simp] theorem State.modDet_units (s : State) (f : Det → Det) : (s.modDet f).units = s.units := rfl
@[simp] theorem State.modDet_tu (s : State) (f : Det → Det) : (s.modDet f).tu = s.tu := rfl
@[simp] theorem State.modDet_fnet (s : State) (f : Det → Det) : (s.modDet f).fnet = s.fnet := rfl
@[simp] theorem State.modDet_saf (s : State) (f : Det → Det) : (s.modDet f).saf = s.saf := rfl
@[simp] theorem State.modDet_recs (s : State) (f : Det → Det) : (s.modDet f).recs = s.recs := rfl
@[simp] theorem State.modDet_pci (s : State) (f : Det → Det) : (s.modDet f).pci = s.pci := rfl
@[simp] theorem State.modDet_sent (s : State) (f : Det → Det) : (s.modDet f).sent = s.sent := rfl
@[simp] theorem State.modDet_fresh (s : State) (f : Det → Det) : (s.modDet f).fresh = s.fresh := rfl
@[simp] theorem State.modDet_pending (s : State) (f : Det → Det) : (s.modDet f).pending = s.pending := rfl

@[simp] theorem State.modSaf_dev (s : State) (f : Safety → Safety) : (s.modSaf f).dev = s.dev := rfl
@[simp] theorem State.modSaf_boot (s : State) (f : Safety → Safety) : (s.modSaf f).boot = s.boot := rfl
@[simp] theorem State.modSaf_od (s : State) (f : Safety → Safety) : (s.modSaf f).od = s.od := rfl
@[simp] theorem State.modSaf_cyc (s : State) (f : Safety → Safety) : (s.modSaf f).cyc = s.cyc := rfl
@[simp] theorem State.modSaf_field (s : State) (f : Safety → Safety) : (s.modSaf f).field = s.field := rfl
@[simp] theorem State.modSaf_cams (s : State) (f : Safety → Safety) : (s.modSaf f).cams = s.cams := rfl
@[simp] theorem State.modSaf_cox (s : State) (f : Safety → Safety) : (s.modSaf f).cox = s.cox := rfl
@[simp] theorem State.modSaf_crews (s : State) (f : Safety → Safety) : (s.modSaf f).crews = s.crews := rfl
@[simp] theorem State.modSaf_det (s : State) (f : Safety → Safety) : (s.modSaf f).det = s.det := rfl
@[simp] theorem State.modSaf_kv (s : State) (f : Safety → Safety) : (s.modSaf f).kv = s.kv := rfl
@[simp] theorem State.modSaf_retune (s : State) (f : Safety → Safety) : (s.modSaf f).retune = s.retune := rfl
@[simp] theorem State.modSaf_squad (s : State) (f : Safety → Safety) : (s.modSaf f).squad = s.squad := rfl
@[simp] theorem State.modSaf_mem (s : State) (f : Safety → Safety) : (s.modSaf f).mem = s.mem := rfl
@[simp] theorem State.modSaf_units (s : State) (f : Safety → Safety) : (s.modSaf f).units = s.units := rfl
@[simp] theorem State.modSaf_tu (s : State) (f : Safety → Safety) : (s.modSaf f).tu = s.tu := rfl
@[simp] theorem State.modSaf_fnet (s : State) (f : Safety → Safety) : (s.modSaf f).fnet = s.fnet := rfl
@[simp] theorem State.modSaf_saf (s : State) (f : Safety → Safety) : (s.modSaf f).saf = f s.saf := rfl
@[simp] theorem State.modSaf_recs (s : State) (f : Safety → Safety) : (s.modSaf f).recs = s.recs := rfl
@[simp] theorem State.modSaf_pci (s : State) (f : Safety → Safety) : (s.modSaf f).pci = s.pci := rfl
@[simp] theorem State.modSaf_sent (s : State) (f : Safety → Safety) : (s.modSaf f).sent = s.sent := rfl
@[simp] theorem State.modSaf_fresh (s : State) (f : Safety → Safety) : (s.modSaf f).fresh = s.fresh := rfl
@[simp] theorem State.modSaf_pending (s : State) (f : Safety → Safety) : (s.modSaf f).pending = s.pending := rfl

@[simp] theorem State.modDev_dev (s : State) (f : Device → Device) : (s.modDev f).dev = f s.dev := rfl
@[simp] theorem State.modDev_boot (s : State) (f : Device → Device) : (s.modDev f).boot = s.boot := rfl
@[simp] theorem State.modDev_od (s : State) (f : Device → Device) : (s.modDev f).od = s.od := rfl
@[simp] theorem State.modDev_cyc (s : State) (f : Device → Device) : (s.modDev f).cyc = s.cyc := rfl
@[simp] theorem State.modDev_field (s : State) (f : Device → Device) : (s.modDev f).field = s.field := rfl
@[simp] theorem State.modDev_cams (s : State) (f : Device → Device) : (s.modDev f).cams = s.cams := rfl
@[simp] theorem State.modDev_cox (s : State) (f : Device → Device) : (s.modDev f).cox = s.cox := rfl
@[simp] theorem State.modDev_crews (s : State) (f : Device → Device) : (s.modDev f).crews = s.crews := rfl
@[simp] theorem State.modDev_det (s : State) (f : Device → Device) : (s.modDev f).det = s.det := rfl
@[simp] theorem State.modDev_kv (s : State) (f : Device → Device) : (s.modDev f).kv = s.kv := rfl
@[simp] theorem State.modDev_retune (s : State) (f : Device → Device) : (s.modDev f).retune = s.retune := rfl
@[simp] theorem State.modDev_squad (s : State) (f : Device → Device) : (s.modDev f).squad = s.squad := rfl
@[simp] theorem State.modDev_mem (s : State) (f : Device → Device) : (s.modDev f).mem = s.mem := rfl
@[simp] theorem State.modDev_units (s : State) (f : Device → Device) : (s.modDev f).units = s.units := rfl
@[simp] theorem State.modDev_tu (s : State) (f : Device → Device) : (s.modDev f).tu = s.tu := rfl
@[simp] theorem State.modDev_fnet (s : State) (f : Device → Device) : (s.modDev f).fnet = s.fnet := rfl
@[simp] theorem State.modDev_saf (s : State) (f : Device → Device) : (s.modDev f).saf = s.saf := rfl
@[simp] theorem State.modDev_recs (s : State) (f : Device → Device) : (s.modDev f).recs = s.recs := rfl
@[simp] theorem State.modDev_pci (s : State) (f : Device → Device) : (s.modDev f).pci = s.pci := rfl
@[simp] theorem State.modDev_sent (s : State) (f : Device → Device) : (s.modDev f).sent = s.sent := rfl
@[simp] theorem State.modDev_fresh (s : State) (f : Device → Device) : (s.modDev f).fresh = s.fresh := rfl
@[simp] theorem State.modDev_pending (s : State) (f : Device → Device) : (s.modDev f).pending = s.pending := rfl

@[simp] theorem State.modBoot_dev (s : State) (f : Boot → Boot) : (s.modBoot f).dev = s.dev := rfl
@[simp] theorem State.modBoot_boot (s : State) (f : Boot → Boot) : (s.modBoot f).boot = f s.boot := rfl
@[simp] theorem State.modBoot_od (s : State) (f : Boot → Boot) : (s.modBoot f).od = s.od := rfl
@[simp] theorem State.modBoot_cyc (s : State) (f : Boot → Boot) : (s.modBoot f).cyc = s.cyc := rfl
@[simp] theorem State.modBoot_field (s : State) (f : Boot → Boot) : (s.modBoot f).field = s.field := rfl
@[simp] theorem State.modBoot_cams (s : State) (f : Boot → Boot) : (s.modBoot f).cams = s.cams := rfl
@[simp] theorem State.modBoot_cox (s : State) (f : Boot → Boot) : (s.modBoot f).cox = s.cox := rfl
@[simp] theorem State.modBoot_crews (s : State) (f : Boot → Boot) : (s.modBoot f).crews = s.crews := rfl
@[simp] theorem State.modBoot_det (s : State) (f : Boot → Boot) : (s.modBoot f).det = s.det := rfl
@[simp] theorem State.modBoot_kv (s : State) (f : Boot → Boot) : (s.modBoot f).kv = s.kv := rfl
@[simp] theorem State.modBoot_retune (s : State) (f : Boot → Boot) : (s.modBoot f).retune = s.retune := rfl
@[simp] theorem State.modBoot_squad (s : State) (f : Boot → Boot) : (s.modBoot f).squad = s.squad := rfl
@[simp] theorem State.modBoot_mem (s : State) (f : Boot → Boot) : (s.modBoot f).mem = s.mem := rfl
@[simp] theorem State.modBoot_units (s : State) (f : Boot → Boot) : (s.modBoot f).units = s.units := rfl
@[simp] theorem State.modBoot_tu (s : State) (f : Boot → Boot) : (s.modBoot f).tu = s.tu := rfl
@[simp] theorem State.modBoot_fnet (s : State) (f : Boot → Boot) : (s.modBoot f).fnet = s.fnet := rfl
@[simp] theorem State.modBoot_saf (s : State) (f : Boot → Boot) : (s.modBoot f).saf = s.saf := rfl
@[simp] theorem State.modBoot_recs (s : State) (f : Boot → Boot) : (s.modBoot f).recs = s.recs := rfl
@[simp] theorem State.modBoot_pci (s : State) (f : Boot → Boot) : (s.modBoot f).pci = s.pci := rfl
@[simp] theorem State.modBoot_sent (s : State) (f : Boot → Boot) : (s.modBoot f).sent = s.sent := rfl
@[simp] theorem State.modBoot_fresh (s : State) (f : Boot → Boot) : (s.modBoot f).fresh = s.fresh := rfl
@[simp] theorem State.modBoot_pending (s : State) (f : Boot → Boot) : (s.modBoot f).pending = s.pending := rfl

@[simp] theorem State.modRecs_dev (s : State) (f : Records → Records) : (s.modRecs f).dev = s.dev := rfl
@[simp] theorem State.modRecs_boot (s : State) (f : Records → Records) : (s.modRecs f).boot = s.boot := rfl
@[simp] theorem State.modRecs_od (s : State) (f : Records → Records) : (s.modRecs f).od = s.od := rfl
@[simp] theorem State.modRecs_cyc (s : State) (f : Records → Records) : (s.modRecs f).cyc = s.cyc := rfl
@[simp] theorem State.modRecs_field (s : State) (f : Records → Records) : (s.modRecs f).field = s.field := rfl
@[simp] theorem State.modRecs_cams (s : State) (f : Records → Records) : (s.modRecs f).cams = s.cams := rfl
@[simp] theorem State.modRecs_cox (s : State) (f : Records → Records) : (s.modRecs f).cox = s.cox := rfl
@[simp] theorem State.modRecs_crews (s : State) (f : Records → Records) : (s.modRecs f).crews = s.crews := rfl
@[simp] theorem State.modRecs_det (s : State) (f : Records → Records) : (s.modRecs f).det = s.det := rfl
@[simp] theorem State.modRecs_kv (s : State) (f : Records → Records) : (s.modRecs f).kv = s.kv := rfl
@[simp] theorem State.modRecs_retune (s : State) (f : Records → Records) : (s.modRecs f).retune = s.retune := rfl
@[simp] theorem State.modRecs_squad (s : State) (f : Records → Records) : (s.modRecs f).squad = s.squad := rfl
@[simp] theorem State.modRecs_mem (s : State) (f : Records → Records) : (s.modRecs f).mem = s.mem := rfl
@[simp] theorem State.modRecs_units (s : State) (f : Records → Records) : (s.modRecs f).units = s.units := rfl
@[simp] theorem State.modRecs_tu (s : State) (f : Records → Records) : (s.modRecs f).tu = s.tu := rfl
@[simp] theorem State.modRecs_fnet (s : State) (f : Records → Records) : (s.modRecs f).fnet = s.fnet := rfl
@[simp] theorem State.modRecs_saf (s : State) (f : Records → Records) : (s.modRecs f).saf = s.saf := rfl
@[simp] theorem State.modRecs_recs (s : State) (f : Records → Records) : (s.modRecs f).recs = f s.recs := rfl
@[simp] theorem State.modRecs_pci (s : State) (f : Records → Records) : (s.modRecs f).pci = s.pci := rfl
@[simp] theorem State.modRecs_sent (s : State) (f : Records → Records) : (s.modRecs f).sent = s.sent := rfl
@[simp] theorem State.modRecs_fresh (s : State) (f : Records → Records) : (s.modRecs f).fresh = s.fresh := rfl
@[simp] theorem State.modRecs_pending (s : State) (f : Records → Records) : (s.modRecs f).pending = s.pending := rfl

@[simp] theorem State.modTu_dev (s : State) (f : TimeUnit → TimeUnit) : (s.modTu f).dev = s.dev := rfl
@[simp] theorem State.modTu_boot (s : State) (f : TimeUnit → TimeUnit) : (s.modTu f).boot = s.boot := rfl
@[simp] theorem State.modTu_od (s : State) (f : TimeUnit → TimeUnit) : (s.modTu f).od = s.od := rfl
@[simp] theorem State.modTu_cyc (s : State) (f : TimeUnit → TimeUnit) : (s.modTu f).cyc = s.cyc := rfl
@[simp] theorem State.modTu_field (s : State) (f : TimeUnit → TimeUnit) : (s.modTu f).field = s.field := rfl
@[simp] theorem State.modTu_cams (s : State) (f : TimeUnit → TimeUnit) : (s.modTu f).cams = s.cams := rfl
@[simp] theorem State.modTu_cox (s : State) (f : TimeUnit → TimeUnit) : (s.modTu f).cox = s.cox := rfl
@[simp] theorem State.modTu_crews (s : State) (f : TimeUnit → TimeUnit) : (s.modTu f).crews = s.crews := rfl
@[simp] theorem State.modTu_det (s : State) (f : TimeUnit → TimeUnit) : (s.modTu f).det = s.det := rfl
@[simp] theorem State.modTu_kv (s : State) (f : TimeUnit → TimeUnit) : (s.modTu f).kv = s.kv := rfl
@[simp] theorem State.modTu_retune (s : State) (f : TimeUnit → TimeUnit) : (s.modTu f).retune = s.retune := rfl
@[simp] theorem State.modTu_squad (s : State) (f : TimeUnit → TimeUnit) : (s.modTu f).squad = s.squad := rfl
@[simp] theorem State.modTu_mem (s : State) (f : TimeUnit → TimeUnit) : (s.modTu f).mem = s.mem := rfl
@[simp] theorem State.modTu_units (s : State) (f : TimeUnit → TimeUnit) : (s.modTu f).units = s.units := rfl
@[simp] theorem State.modTu_tu (s : State) (f : TimeUnit → TimeUnit) : (s.modTu f).tu = f s.tu := rfl
@[simp] theorem State.modTu_fnet (s : State) (f : TimeUnit → TimeUnit) : (s.modTu f).fnet = s.fnet := rfl
@[simp] theorem State.modTu_saf (s : State) (f : TimeUnit → TimeUnit) : (s.modTu f).saf = s.saf := rfl
@[simp] theorem State.modTu_recs (s : State) (f : TimeUnit → TimeUnit) : (s.modTu f).recs = s.recs := rfl
@[simp] theorem State.modTu_pci (s : State) (f : TimeUnit → TimeUnit) : (s.modTu f).pci = s.pci := rfl
@[simp] theorem State.modTu_sent (s : State) (f : TimeUnit → TimeUnit) : (s.modTu f).sent = s.sent := rfl
@[simp] theorem State.modTu_fresh (s : State) (f : TimeUnit → TimeUnit) : (s.modTu f).fresh = s.fresh := rfl
@[simp] theorem State.modTu_pending (s : State) (f : TimeUnit → TimeUnit) : (s.modTu f).pending = s.pending := rfl

@[simp] theorem State.modCyc_dev (s : State) (f : Cyclic → Cyclic) : (s.modCyc f).dev = s.dev := rfl
@[simp] theorem State.modCyc_boot (s : State) (f : Cyclic → Cyclic) : (s.modCyc f).boot = s.boot := rfl
@[simp] theorem State.modCyc_od (s : State) (f : Cyclic → Cyclic) : (s.modCyc f).od = s.od := rfl
@[simp] theorem State.modCyc_cyc (s : State) (f : Cyclic → Cyclic) : (s.modCyc f).cyc = f s.cyc := rfl
@[simp] theorem State.modCyc_field (s : State) (f : Cyclic → Cyclic) : (s.modCyc f).field = s.field := rfl
@[simp] theorem State.modCyc_cams (s : State) (f : Cyclic → Cyclic) : (s.modCyc f).cams = s.cams := rfl
@[simp] theorem State.modCyc_cox (s : State) (f : Cyclic → Cyclic) : (s.modCyc f).cox = s.cox := rfl
@[simp] theorem State.modCyc_crews (s : State) (f : Cyclic → Cyclic) : (s.modCyc f).crews = s.crews := rfl
@[simp] theorem State.modCyc_det (s : State) (f : Cyclic → Cyclic) : (s.modCyc f).det = s.det := rfl
@[simp] theorem State.modCyc_kv (s : State) (f : Cyclic → Cyclic) : (s.modCyc f).kv = s.kv := rfl
@[simp] theorem State.modCyc_retune (s : State) (f : Cyclic → Cyclic) : (s.modCyc f).retune = s.retune := rfl
@[simp] theorem State.modCyc_squad (s : State) (f : Cyclic → Cyclic) : (s.modCyc f).squad = s.squad := rfl
@[simp] theorem State.modCyc_mem (s : State) (f : Cyclic → Cyclic) : (s.modCyc f).mem = s.mem := rfl
@[simp] theorem State.modCyc_units (s : State) (f : Cyclic → Cyclic) : (s.modCyc f).units = s.units := rfl
@[simp] theorem State.modCyc_tu (s : State) (f : Cyclic → Cyclic) : (s.modCyc f).tu = s.tu := rfl
@[simp] theorem State.modCyc_fnet (s : State) (f : Cyclic → Cyclic) : (s.modCyc f).fnet = s.fnet := rfl
@[simp] theorem State.modCyc_saf (s : State) (f : Cyclic → Cyclic) : (s.modCyc f).saf = s.saf := rfl
@[simp] theorem State.modCyc_recs (s : State) (f : Cyclic → Cyclic) : (s.modCyc f).recs = s.recs := rfl
@[simp] theorem State.modCyc_pci (s : State) (f : Cyclic → Cyclic) : (s.modCyc f).pci = s.pci := rfl
@[simp] theorem State.modCyc_sent (s : State) (f : Cyclic → Cyclic) : (s.modCyc f).sent = s.sent := rfl
@[simp] theorem State.modCyc_fresh (s : State) (f : Cyclic → Cyclic) : (s.modCyc f).fresh = s.fresh := rfl
@[simp] theorem State.modCyc_pending (s : State) (f : Cyclic → Cyclic) : (s.modCyc f).pending = s.pending := rfl

@[simp] theorem State.modSquad_dev (s : State) (f : Squad → Squad) : (s.modSquad f).dev = s.dev := rfl
@[simp] theorem State.modSquad_boot (s : State) (f : Squad → Squad) : (s.modSquad f).boot = s.boot := rfl
@[simp] theorem State.modSquad_od (s : State) (f : Squad → Squad) : (s.modSquad f).od = s.od := rfl
@[simp] theorem State.modSquad_cyc (s : State) (f : Squad → Squad) : (s.modSquad f).cyc = s.cyc := rfl
@[simp] theorem State.modSquad_field (s : State) (f : Squad → Squad) : (s.modSquad f).field = s.field := rfl
@[simp] theorem State.modSquad_cams (s : State) (f : Squad → Squad) : (s.modSquad f).cams = s.cams := rfl
@[simp] theorem State.modSquad_cox (s : State) (f : Squad → Squad) : (s.modSquad f).cox = s.cox := rfl
@[simp] theorem State.modSquad_crews (s : State) (f : Squad → Squad) : (s.modSquad f).crews = s.crews := rfl
@[simp] theorem State.modSquad_det (s : State) (f : Squad → Squad) : (s.modSquad f).det = s.det := rfl
@[simp] theorem State.modSquad_kv (s : State) (f : Squad → Squad) : (s.modSquad f).kv = s.kv := rfl
@[simp] theorem State.modSquad_retune (s : State) (f : Squad → Squad) : (s.modSquad f).retune = s.retune := rfl
@[simp] theorem State.modSquad_squad (s : State) (f : Squad → Squad) : (s.modSquad f).squad = f s.squad := rfl
@[simp] theorem State.modSquad_mem (s : State) (f : Squad → Squad) : (s.modSquad f).mem = s.mem := rfl
@[simp] theorem State.modSquad_units (s : State) (f : Squad → Squad) : (s.modSquad f).units = s.units := rfl
@[simp] theorem State.modSquad_tu (s : State) (f : Squad → Squad) : (s.modSquad f).tu = s.tu := rfl
@[simp] theorem State.modSquad_fnet (s : State) (f : Squad → Squad) : (s.modSquad f).fnet = s.fnet := rfl
@[simp] theorem State.modSquad_saf (s : State) (f : Squad → Squad) : (s.modSquad f).saf = s.saf := rfl
@[simp] theorem State.modSquad_recs (s : State) (f : Squad → Squad) : (s.modSquad f).recs = s.recs := rfl
@[simp] theorem State.modSquad_pci (s : State) (f : Squad → Squad) : (s.modSquad f).pci = s.pci := rfl
@[simp] theorem State.modSquad_sent (s : State) (f : Squad → Squad) : (s.modSquad f).sent = s.sent := rfl
@[simp] theorem State.modSquad_fresh (s : State) (f : Squad → Squad) : (s.modSquad f).fresh = s.fresh := rfl
@[simp] theorem State.modSquad_pending (s : State) (f : Squad → Squad) : (s.modSquad f).pending = s.pending := rfl

@[simp] theorem State.modPort_dev (s : State) (p : Fin 8) (f : NlPort → NlPort) : (s.modPort p f).dev = s.dev := rfl
@[simp] theorem State.modPort_boot (s : State) (p : Fin 8) (f : NlPort → NlPort) : (s.modPort p f).boot = s.boot := rfl
@[simp] theorem State.modPort_od (s : State) (p : Fin 8) (f : NlPort → NlPort) : (s.modPort p f).od = s.od := rfl
@[simp] theorem State.modPort_cyc (s : State) (p : Fin 8) (f : NlPort → NlPort) : (s.modPort p f).cyc = s.cyc := rfl
@[simp] theorem State.modPort_field (s : State) (p : Fin 8) (f : NlPort → NlPort) : (s.modPort p f).field = s.field := rfl
@[simp] theorem State.modPort_cams (s : State) (p : Fin 8) (f : NlPort → NlPort) : (s.modPort p f).cams = s.cams := rfl
@[simp] theorem State.modPort_cox (s : State) (p : Fin 8) (f : NlPort → NlPort) : (s.modPort p f).cox = s.cox := rfl
@[simp] theorem State.modPort_crews (s : State) (p : Fin 8) (f : NlPort → NlPort) : (s.modPort p f).crews = s.crews := rfl
@[simp] theorem State.modPort_det (s : State) (p : Fin 8) (f : NlPort → NlPort) : (s.modPort p f).det = s.det := rfl
@[simp] theorem State.modPort_kv (s : State) (p : Fin 8) (f : NlPort → NlPort) : (s.modPort p f).kv = s.kv := rfl
@[simp] theorem State.modPort_retune (s : State) (p : Fin 8) (f : NlPort → NlPort) : (s.modPort p f).retune = s.retune := rfl
@[simp] theorem State.modPort_squad (s : State) (p : Fin 8) (f : NlPort → NlPort) : (s.modPort p f).squad = { s.squad with ports := s.squad.ports.set p (f s.squad.ports[p]) } := rfl
@[simp] theorem State.modPort_mem (s : State) (p : Fin 8) (f : NlPort → NlPort) : (s.modPort p f).mem = s.mem := rfl
@[simp] theorem State.modPort_units (s : State) (p : Fin 8) (f : NlPort → NlPort) : (s.modPort p f).units = s.units := rfl
@[simp] theorem State.modPort_tu (s : State) (p : Fin 8) (f : NlPort → NlPort) : (s.modPort p f).tu = s.tu := rfl
@[simp] theorem State.modPort_fnet (s : State) (p : Fin 8) (f : NlPort → NlPort) : (s.modPort p f).fnet = s.fnet := rfl
@[simp] theorem State.modPort_saf (s : State) (p : Fin 8) (f : NlPort → NlPort) : (s.modPort p f).saf = s.saf := rfl
@[simp] theorem State.modPort_recs (s : State) (p : Fin 8) (f : NlPort → NlPort) : (s.modPort p f).recs = s.recs := rfl
@[simp] theorem State.modPort_pci (s : State) (p : Fin 8) (f : NlPort → NlPort) : (s.modPort p f).pci = s.pci := rfl
@[simp] theorem State.modPort_sent (s : State) (p : Fin 8) (f : NlPort → NlPort) : (s.modPort p f).sent = s.sent := rfl
@[simp] theorem State.modPort_fresh (s : State) (p : Fin 8) (f : NlPort → NlPort) : (s.modPort p f).fresh = s.fresh := rfl
@[simp] theorem State.modPort_pending (s : State) (p : Fin 8) (f : NlPort → NlPort) : (s.modPort p f).pending = s.pending := rfl

@[simp] theorem State.modMem_dev (s : State) (f : Mem → Mem) : (s.modMem f).dev = s.dev := rfl
@[simp] theorem State.modMem_boot (s : State) (f : Mem → Mem) : (s.modMem f).boot = s.boot := rfl
@[simp] theorem State.modMem_od (s : State) (f : Mem → Mem) : (s.modMem f).od = s.od := rfl
@[simp] theorem State.modMem_cyc (s : State) (f : Mem → Mem) : (s.modMem f).cyc = s.cyc := rfl
@[simp] theorem State.modMem_field (s : State) (f : Mem → Mem) : (s.modMem f).field = s.field := rfl
@[simp] theorem State.modMem_cams (s : State) (f : Mem → Mem) : (s.modMem f).cams = s.cams := rfl
@[simp] theorem State.modMem_cox (s : State) (f : Mem → Mem) : (s.modMem f).cox = s.cox := rfl
@[simp] theorem State.modMem_crews (s : State) (f : Mem → Mem) : (s.modMem f).crews = s.crews := rfl
@[simp] theorem State.modMem_det (s : State) (f : Mem → Mem) : (s.modMem f).det = s.det := rfl
@[simp] theorem State.modMem_kv (s : State) (f : Mem → Mem) : (s.modMem f).kv = s.kv := rfl
@[simp] theorem State.modMem_retune (s : State) (f : Mem → Mem) : (s.modMem f).retune = s.retune := rfl
@[simp] theorem State.modMem_squad (s : State) (f : Mem → Mem) : (s.modMem f).squad = s.squad := rfl
@[simp] theorem State.modMem_mem (s : State) (f : Mem → Mem) : (s.modMem f).mem = f s.mem := rfl
@[simp] theorem State.modMem_units (s : State) (f : Mem → Mem) : (s.modMem f).units = s.units := rfl
@[simp] theorem State.modMem_tu (s : State) (f : Mem → Mem) : (s.modMem f).tu = s.tu := rfl
@[simp] theorem State.modMem_fnet (s : State) (f : Mem → Mem) : (s.modMem f).fnet = s.fnet := rfl
@[simp] theorem State.modMem_saf (s : State) (f : Mem → Mem) : (s.modMem f).saf = s.saf := rfl
@[simp] theorem State.modMem_recs (s : State) (f : Mem → Mem) : (s.modMem f).recs = s.recs := rfl
@[simp] theorem State.modMem_pci (s : State) (f : Mem → Mem) : (s.modMem f).pci = s.pci := rfl
@[simp] theorem State.modMem_sent (s : State) (f : Mem → Mem) : (s.modMem f).sent = s.sent := rfl
@[simp] theorem State.modMem_fresh (s : State) (f : Mem → Mem) : (s.modMem f).fresh = s.fresh := rfl
@[simp] theorem State.modMem_pending (s : State) (f : Mem → Mem) : (s.modMem f).pending = s.pending := rfl

@[simp] theorem State.modFnet_dev (s : State) (p : Fin 2) (f : FnetPort → FnetPort) : (s.modFnet p f).dev = s.dev := rfl
@[simp] theorem State.modFnet_boot (s : State) (p : Fin 2) (f : FnetPort → FnetPort) : (s.modFnet p f).boot = s.boot := rfl
@[simp] theorem State.modFnet_od (s : State) (p : Fin 2) (f : FnetPort → FnetPort) : (s.modFnet p f).od = s.od := rfl
@[simp] theorem State.modFnet_cyc (s : State) (p : Fin 2) (f : FnetPort → FnetPort) : (s.modFnet p f).cyc = s.cyc := rfl
@[simp] theorem State.modFnet_field (s : State) (p : Fin 2) (f : FnetPort → FnetPort) : (s.modFnet p f).field = s.field := rfl
@[simp] theorem State.modFnet_cams (s : State) (p : Fin 2) (f : FnetPort → FnetPort) : (s.modFnet p f).cams = s.cams := rfl
@[simp] theorem State.modFnet_cox (s : State) (p : Fin 2) (f : FnetPort → FnetPort) : (s.modFnet p f).cox = s.cox := rfl
@[simp] theorem State.modFnet_crews (s : State) (p : Fin 2) (f : FnetPort → FnetPort) : (s.modFnet p f).crews = s.crews := rfl
@[simp] theorem State.modFnet_det (s : State) (p : Fin 2) (f : FnetPort → FnetPort) : (s.modFnet p f).det = s.det := rfl
@[simp] theorem State.modFnet_kv (s : State) (p : Fin 2) (f : FnetPort → FnetPort) : (s.modFnet p f).kv = s.kv := rfl
@[simp] theorem State.modFnet_retune (s : State) (p : Fin 2) (f : FnetPort → FnetPort) : (s.modFnet p f).retune = s.retune := rfl
@[simp] theorem State.modFnet_squad (s : State) (p : Fin 2) (f : FnetPort → FnetPort) : (s.modFnet p f).squad = s.squad := rfl
@[simp] theorem State.modFnet_mem (s : State) (p : Fin 2) (f : FnetPort → FnetPort) : (s.modFnet p f).mem = s.mem := rfl
@[simp] theorem State.modFnet_units (s : State) (p : Fin 2) (f : FnetPort → FnetPort) : (s.modFnet p f).units = s.units := rfl
@[simp] theorem State.modFnet_tu (s : State) (p : Fin 2) (f : FnetPort → FnetPort) : (s.modFnet p f).tu = s.tu := rfl
@[simp] theorem State.modFnet_fnet (s : State) (p : Fin 2) (f : FnetPort → FnetPort) : (s.modFnet p f).fnet = { s.fnet with ports := s.fnet.ports.set p (f s.fnet.ports[p]) } := rfl
@[simp] theorem State.modFnet_saf (s : State) (p : Fin 2) (f : FnetPort → FnetPort) : (s.modFnet p f).saf = s.saf := rfl
@[simp] theorem State.modFnet_recs (s : State) (p : Fin 2) (f : FnetPort → FnetPort) : (s.modFnet p f).recs = s.recs := rfl
@[simp] theorem State.modFnet_pci (s : State) (p : Fin 2) (f : FnetPort → FnetPort) : (s.modFnet p f).pci = s.pci := rfl
@[simp] theorem State.modFnet_sent (s : State) (p : Fin 2) (f : FnetPort → FnetPort) : (s.modFnet p f).sent = s.sent := rfl
@[simp] theorem State.modFnet_fresh (s : State) (p : Fin 2) (f : FnetPort → FnetPort) : (s.modFnet p f).fresh = s.fresh := rfl
@[simp] theorem State.modFnet_pending (s : State) (p : Fin 2) (f : FnetPort → FnetPort) : (s.modFnet p f).pending = s.pending := rfl

@[simp] theorem State.emit_dev (s : State) (o : Out) : (s.emit o).dev = s.dev := rfl
@[simp] theorem State.emit_boot (s : State) (o : Out) : (s.emit o).boot = s.boot := rfl
@[simp] theorem State.emit_od (s : State) (o : Out) : (s.emit o).od = s.od := rfl
@[simp] theorem State.emit_cyc (s : State) (o : Out) : (s.emit o).cyc = s.cyc := rfl
@[simp] theorem State.emit_field (s : State) (o : Out) : (s.emit o).field = s.field := rfl
@[simp] theorem State.emit_cams (s : State) (o : Out) : (s.emit o).cams = s.cams := rfl
@[simp] theorem State.emit_cox (s : State) (o : Out) : (s.emit o).cox = s.cox := rfl
@[simp] theorem State.emit_crews (s : State) (o : Out) : (s.emit o).crews = s.crews := rfl
@[simp] theorem State.emit_det (s : State) (o : Out) : (s.emit o).det = s.det := rfl
@[simp] theorem State.emit_kv (s : State) (o : Out) : (s.emit o).kv = s.kv := rfl
@[simp] theorem State.emit_retune (s : State) (o : Out) : (s.emit o).retune = s.retune := rfl
@[simp] theorem State.emit_squad (s : State) (o : Out) : (s.emit o).squad = s.squad := rfl
@[simp] theorem State.emit_mem (s : State) (o : Out) : (s.emit o).mem = s.mem := rfl
@[simp] theorem State.emit_units (s : State) (o : Out) : (s.emit o).units = s.units := rfl
@[simp] theorem State.emit_tu (s : State) (o : Out) : (s.emit o).tu = s.tu := rfl
@[simp] theorem State.emit_fnet (s : State) (o : Out) : (s.emit o).fnet = s.fnet := rfl
@[simp] theorem State.emit_saf (s : State) (o : Out) : (s.emit o).saf = s.saf := rfl
@[simp] theorem State.emit_recs (s : State) (o : Out) : (s.emit o).recs = s.recs := rfl
@[simp] theorem State.emit_pci (s : State) (o : Out) : (s.emit o).pci = s.pci := rfl
@[simp] theorem State.emit_sent (s : State) (o : Out) : (s.emit o).sent = o :: s.sent := rfl
@[simp] theorem State.emit_fresh (s : State) (o : Out) : (s.emit o).fresh = s.fresh := rfl
@[simp] theorem State.emit_pending (s : State) (o : Out) : (s.emit o).pending = s.pending := rfl

@[simp] theorem State.draw_dev (s : State) : (s.draw).dev = s.dev := rfl
@[simp] theorem State.draw_boot (s : State) : (s.draw).boot = s.boot := rfl
@[simp] theorem State.draw_od (s : State) : (s.draw).od = s.od := rfl
@[simp] theorem State.draw_cyc (s : State) : (s.draw).cyc = s.cyc := rfl
@[simp] theorem State.draw_field (s : State) : (s.draw).field = s.field := rfl
@[simp] theorem State.draw_cams (s : State) : (s.draw).cams = s.cams := rfl
@[simp] theorem State.draw_cox (s : State) : (s.draw).cox = s.cox := rfl
@[simp] theorem State.draw_crews (s : State) : (s.draw).crews = s.crews := rfl
@[simp] theorem State.draw_det (s : State) : (s.draw).det = s.det := rfl
@[simp] theorem State.draw_kv (s : State) : (s.draw).kv = s.kv := rfl
@[simp] theorem State.draw_retune (s : State) : (s.draw).retune = s.retune := rfl
@[simp] theorem State.draw_squad (s : State) : (s.draw).squad = s.squad := rfl
@[simp] theorem State.draw_mem (s : State) : (s.draw).mem = s.mem := rfl
@[simp] theorem State.draw_units (s : State) : (s.draw).units = s.units := rfl
@[simp] theorem State.draw_tu (s : State) : (s.draw).tu = s.tu := rfl
@[simp] theorem State.draw_fnet (s : State) : (s.draw).fnet = s.fnet := rfl
@[simp] theorem State.draw_saf (s : State) : (s.draw).saf = s.saf := rfl
@[simp] theorem State.draw_recs (s : State) : (s.draw).recs = s.recs := rfl
@[simp] theorem State.draw_pci (s : State) : (s.draw).pci = s.pci := rfl
@[simp] theorem State.draw_sent (s : State) : (s.draw).sent = s.sent := rfl
@[simp] theorem State.draw_fresh (s : State) : (s.draw).fresh = s.fresh + 1 := rfl
@[simp] theorem State.draw_pending (s : State) : (s.draw).pending = s.pending := rfl

@[simp] theorem State.setVal_dev (s : State) (e : Ent) (i k : Nat) (v : OdVal) : (s.setVal e i k v).dev = s.dev := rfl
@[simp] theorem State.setVal_boot (s : State) (e : Ent) (i k : Nat) (v : OdVal) : (s.setVal e i k v).boot = s.boot := rfl
@[simp] theorem State.setVal_od (s : State) (e : Ent) (i k : Nat) (v : OdVal) : (s.setVal e i k v).od = { s.od with committed := amSet s.od.committed (e.key i k) v (e.dflt s.part i k) } := rfl
@[simp] theorem State.setVal_cyc (s : State) (e : Ent) (i k : Nat) (v : OdVal) : (s.setVal e i k v).cyc = s.cyc := rfl
@[simp] theorem State.setVal_field (s : State) (e : Ent) (i k : Nat) (v : OdVal) : (s.setVal e i k v).field = s.field := rfl
@[simp] theorem State.setVal_cams (s : State) (e : Ent) (i k : Nat) (v : OdVal) : (s.setVal e i k v).cams = s.cams := rfl
@[simp] theorem State.setVal_cox (s : State) (e : Ent) (i k : Nat) (v : OdVal) : (s.setVal e i k v).cox = s.cox := rfl
@[simp] theorem State.setVal_crews (s : State) (e : Ent) (i k : Nat) (v : OdVal) : (s.setVal e i k v).crews = s.crews := rfl
@[simp] theorem State.setVal_det (s : State) (e : Ent) (i k : Nat) (v : OdVal) : (s.setVal e i k v).det = s.det := rfl
@[simp] theorem State.setVal_kv (s : State) (e : Ent) (i k : Nat) (v : OdVal) : (s.setVal e i k v).kv = s.kv := rfl
@[simp] theorem State.setVal_retune (s : State) (e : Ent) (i k : Nat) (v : OdVal) : (s.setVal e i k v).retune = s.retune := rfl
@[simp] theorem State.setVal_squad (s : State) (e : Ent) (i k : Nat) (v : OdVal) : (s.setVal e i k v).squad = s.squad := rfl
@[simp] theorem State.setVal_mem (s : State) (e : Ent) (i k : Nat) (v : OdVal) : (s.setVal e i k v).mem = s.mem := rfl
@[simp] theorem State.setVal_units (s : State) (e : Ent) (i k : Nat) (v : OdVal) : (s.setVal e i k v).units = s.units := rfl
@[simp] theorem State.setVal_tu (s : State) (e : Ent) (i k : Nat) (v : OdVal) : (s.setVal e i k v).tu = s.tu := rfl
@[simp] theorem State.setVal_fnet (s : State) (e : Ent) (i k : Nat) (v : OdVal) : (s.setVal e i k v).fnet = s.fnet := rfl
@[simp] theorem State.setVal_saf (s : State) (e : Ent) (i k : Nat) (v : OdVal) : (s.setVal e i k v).saf = s.saf := rfl
@[simp] theorem State.setVal_recs (s : State) (e : Ent) (i k : Nat) (v : OdVal) : (s.setVal e i k v).recs = s.recs := rfl
@[simp] theorem State.setVal_pci (s : State) (e : Ent) (i k : Nat) (v : OdVal) : (s.setVal e i k v).pci = s.pci := rfl
@[simp] theorem State.setVal_sent (s : State) (e : Ent) (i k : Nat) (v : OdVal) : (s.setVal e i k v).sent = s.sent := rfl
@[simp] theorem State.setVal_fresh (s : State) (e : Ent) (i k : Nat) (v : OdVal) : (s.setVal e i k v).fresh = s.fresh := rfl
@[simp] theorem State.setVal_pending (s : State) (e : Ent) (i k : Nat) (v : OdVal) : (s.setVal e i k v).pending = s.pending := rfl

@[simp] theorem State.setNum_dev (s : State) (e : Ent) (i n : Nat) : (s.setNum e i n).dev = s.dev := rfl
@[simp] theorem State.setNum_boot (s : State) (e : Ent) (i n : Nat) : (s.setNum e i n).boot = s.boot := rfl
@[simp] theorem State.setNum_od (s : State) (e : Ent) (i n : Nat) : (s.setNum e i n).od = { s.od with committed := amSet s.od.committed (e.key i 0) (.num n) (e.dflt s.part i 0) } := rfl
@[simp] theorem State.setNum_cyc (s : State) (e : Ent) (i n : Nat) : (s.setNum e i n).cyc = s.cyc := rfl
@[simp] theorem State.setNum_field (s : State) (e : Ent) (i n : Nat) : (s.setNum e i n).field = s.field := rfl
@[simp] theorem State.setNum_cams (s : State) (e : Ent) (i n : Nat) : (s.setNum e i n).cams = s.cams := rfl
@[simp] theorem State.setNum_cox (s : State) (e : Ent) (i n : Nat) : (s.setNum e i n).cox = s.cox := rfl
@[simp] theorem State.setNum_crews (s : State) (e : Ent) (i n : Nat) : (s.setNum e i n).crews = s.crews := rfl
@[simp] theorem State.setNum_det (s : State) (e : Ent) (i n : Nat) : (s.setNum e i n).det = s.det := rfl
@[simp] theorem State.setNum_kv (s : State) (e : Ent) (i n : Nat) : (s.setNum e i n).kv = s.kv := rfl
@[simp] theorem State.setNum_retune (s : State) (e : Ent) (i n : Nat) : (s.setNum e i n).retune = s.retune := rfl
@[simp] theorem State.setNum_squad (s : State) (e : Ent) (i n : Nat) : (s.setNum e i n).squad = s.squad := rfl
@[simp] theorem State.setNum_mem (s : State) (e : Ent) (i n : Nat) : (s.setNum e i n).mem = s.mem := rfl
@[simp] theorem State.setNum_units (s : State) (e : Ent) (i n : Nat) : (s.setNum e i n).units = s.units := rfl
@[simp] theorem State.setNum_tu (s : State) (e : Ent) (i n : Nat) : (s.setNum e i n).tu = s.tu := rfl
@[simp] theorem State.setNum_fnet (s : State) (e : Ent) (i n : Nat) : (s.setNum e i n).fnet = s.fnet := rfl
@[simp] theorem State.setNum_saf (s : State) (e : Ent) (i n : Nat) : (s.setNum e i n).saf = s.saf := rfl
@[simp] theorem State.setNum_recs (s : State) (e : Ent) (i n : Nat) : (s.setNum e i n).recs = s.recs := rfl
@[simp] theorem State.setNum_pci (s : State) (e : Ent) (i n : Nat) : (s.setNum e i n).pci = s.pci := rfl
@[simp] theorem State.setNum_sent (s : State) (e : Ent) (i n : Nat) : (s.setNum e i n).sent = s.sent := rfl
@[simp] theorem State.setNum_fresh (s : State) (e : Ent) (i n : Nat) : (s.setNum e i n).fresh = s.fresh := rfl
@[simp] theorem State.setNum_pending (s : State) (e : Ent) (i n : Nat) : (s.setNum e i n).pending = s.pending := rfl

@[simp] theorem State.lintBy_dev (s : State) (l : Lint) (i n : Nat) : (s.lintBy l i n).dev = s.dev := rfl
@[simp] theorem State.lintBy_boot (s : State) (l : Lint) (i n : Nat) : (s.lintBy l i n).boot = s.boot := rfl
@[simp] theorem State.lintBy_od (s : State) (l : Lint) (i n : Nat) : (s.lintBy l i n).od = { s.od with lints := amSet s.od.lints (l.key i) (satInc (s.lintVal l i) n) 0 } := rfl
@[simp] theorem State.lintBy_cyc (s : State) (l : Lint) (i n : Nat) : (s.lintBy l i n).cyc = s.cyc := rfl
@[simp] theorem State.lintBy_field (s : State) (l : Lint) (i n : Nat) : (s.lintBy l i n).field = s.field := rfl
@[simp] theorem State.lintBy_cams (s : State) (l : Lint) (i n : Nat) : (s.lintBy l i n).cams = s.cams := rfl
@[simp] theorem State.lintBy_cox (s : State) (l : Lint) (i n : Nat) : (s.lintBy l i n).cox = s.cox := rfl
@[simp] theorem State.lintBy_crews (s : State) (l : Lint) (i n : Nat) : (s.lintBy l i n).crews = s.crews := rfl
@[simp] theorem State.lintBy_det (s : State) (l : Lint) (i n : Nat) : (s.lintBy l i n).det = s.det := rfl
@[simp] theorem State.lintBy_kv (s : State) (l : Lint) (i n : Nat) : (s.lintBy l i n).kv = s.kv := rfl
@[simp] theorem State.lintBy_retune (s : State) (l : Lint) (i n : Nat) : (s.lintBy l i n).retune = s.retune := rfl
@[simp] theorem State.lintBy_squad (s : State) (l : Lint) (i n : Nat) : (s.lintBy l i n).squad = s.squad := rfl
@[simp] theorem State.lintBy_mem (s : State) (l : Lint) (i n : Nat) : (s.lintBy l i n).mem = s.mem := rfl
@[simp] theorem State.lintBy_units (s : State) (l : Lint) (i n : Nat) : (s.lintBy l i n).units = s.units := rfl
@[simp] theorem State.lintBy_tu (s : State) (l : Lint) (i n : Nat) : (s.lintBy l i n).tu = s.tu := rfl
@[simp] theorem State.lintBy_fnet (s : State) (l : Lint) (i n : Nat) : (s.lintBy l i n).fnet = s.fnet := rfl
@[simp] theorem State.lintBy_saf (s : State) (l : Lint) (i n : Nat) : (s.lintBy l i n).saf = s.saf := rfl
@[simp] theorem State.lintBy_recs (s : State) (l : Lint) (i n : Nat) : (s.lintBy l i n).recs = s.recs := rfl
@[simp] theorem State.lintBy_pci (s : State) (l : Lint) (i n : Nat) : (s.lintBy l i n).pci = s.pci := rfl
@[simp] theorem State.lintBy_sent (s : State) (l : Lint) (i n : Nat) : (s.lintBy l i n).sent = s.sent := rfl
@[simp] theorem State.lintBy_fresh (s : State) (l : Lint) (i n : Nat) : (s.lintBy l i n).fresh = s.fresh := rfl
@[simp] theorem State.lintBy_pending (s : State) (l : Lint) (i n : Nat) : (s.lintBy l i n).pending = s.pending := rfl

@[simp] theorem State.lintAt_dev (s : State) (l : Lint) (i : Nat) : (s.lintAt l i).dev = s.dev := rfl
@[simp] theorem State.lintAt_boot (s : State) (l : Lint) (i : Nat) : (s.lintAt l i).boot = s.boot := rfl
@[simp] theorem State.lintAt_od (s : State) (l : Lint) (i : Nat) : (s.lintAt l i).od = { s.od with lints := amSet s.od.lints (l.key i) (satInc (s.lintVal l i) 1) 0 } := rfl
@[simp] theorem State.lintAt_cyc (s : State) (l : Lint) (i : Nat) : (s.lintAt l i).cyc = s.cyc := rfl
@[simp] theorem State.lintAt_field (s : State) (l : Lint) (i : Nat) : (s.lintAt l i).field = s.field := rfl
@[simp] theorem State.lintAt_cams (s : State) (l : Lint) (i : Nat) : (s.lintAt l i).cams = s.cams := rfl
@[simp] theorem State.lintAt_cox (s : State) (l : Lint) (i : Nat) : (s.lintAt l i).cox = s.cox := rfl
@[simp] theorem State.lintAt_crews (s : State) (l : Lint) (i : Nat) : (s.lintAt l i).crews = s.crews := rfl
@[simp] theorem State.lintAt_det (s : State) (l : Lint) (i : Nat) : (s.lintAt l i).det = s.det := rfl
@[simp] theorem State.lintAt_kv (s : State) (l : Lint) (i : Nat) : (s.lintAt l i).kv = s.kv := rfl
@[simp] theorem State.lintAt_retune (s : State) (l : Lint) (i : Nat) : (s.lintAt l i).retune = s.retune := rfl
@[simp] theorem State.lintAt_squad (s : State) (l : Lint) (i : Nat) : (s.lintAt l i).squad = s.squad := rfl
@[simp] theorem State.lintAt_mem (s : State) (l : Lint) (i : Nat) : (s.lintAt l i).mem = s.mem := rfl
@[simp] theorem State.lintAt_units (s : State) (l : Lint) (i : Nat) : (s.lintAt l i).units = s.units := rfl
@[simp] theorem State.lintAt_tu (s : State) (l : Lint) (i : Nat) : (s.lintAt l i).tu = s.tu := rfl
@[simp] theorem State.lintAt_fnet (s : State) (l : Lint) (i : Nat) : (s.lintAt l i).fnet = s.fnet := rfl
@[simp] theorem State.lintAt_saf (s : State) (l : Lint) (i : Nat) : (s.lintAt l i).saf = s.saf := rfl
@[simp] theorem State.lintAt_recs (s : State) (l : Lint) (i : Nat) : (s.lintAt l i).recs = s.recs := rfl
@[simp] theorem State.lintAt_pci (s : State) (l : Lint) (i : Nat) : (s.lintAt l i).pci = s.pci := rfl
@[simp] theorem State.lintAt_sent (s : State) (l : Lint) (i : Nat) : (s.lintAt l i).sent = s.sent := rfl
@[simp] theorem State.lintAt_fresh (s : State) (l : Lint) (i : Nat) : (s.lintAt l i).fresh = s.fresh := rfl
@[simp] theorem State.lintAt_pending (s : State) (l : Lint) (i : Nat) : (s.lintAt l i).pending = s.pending := rfl

@[simp] theorem State.lint_dev (s : State) (l : Lint) : (s.lint l).dev = s.dev := rfl
@[simp] theorem State.lint_boot (s : State) (l : Lint) : (s.lint l).boot = s.boot := rfl
@[simp] theorem State.lint_od (s : State) (l : Lint) : (s.lint l).od = { s.od with lints := amSet s.od.lints (l.key 0) (satInc (s.lintVal l 0) 1) 0 } := rfl
@[simp] theorem State.lint_cyc (s : State) (l : Lint) : (s.lint l).cyc = s.cyc := rfl
@[simp] theorem State.lint_field (s : State) (l : Lint) : (s.lint l).field = s.field := rfl
@[simp] theorem State.lint_cams (s : State) (l : Lint) : (s.lint l).cams = s.cams := rfl
@[simp] theorem State.lint_cox (s : State) (l : Lint) : (s.lint l).cox = s.cox := rfl
@[simp] theorem State.lint_crews (s : State) (l : Lint) : (s.lint l).crews = s.crews := rfl
@[simp] theorem State.lint_det (s : State) (l : Lint) : (s.lint l).det = s.det := rfl
@[simp] theorem State.lint_kv (s : State) (l : Lint) : (s.lint l).kv = s.kv := rfl
@[simp] theorem State.lint_retune (s : State) (l : Lint) : (s.lint l).retune = s.retune := rfl
@[simp] theorem State.lint_squad (s : State) (l : Lint) : (s.lint l).squad = s.squad := rfl
@[simp] theorem State.lint_mem (s : State) (l : Lint) : (s.lint l).mem = s.mem := rfl
@[simp] theorem State.lint_units (s : State) (l : Lint) : (s.lint l).units = s.units := rfl
@[simp] theorem State.lint_tu (s : State) (l : Lint) : (s.lint l).tu = s.tu := rfl
@[simp] theorem State.lint_fnet (s : State) (l : Lint) : (s.lint l).fnet = s.fnet := rfl
@[simp] theorem State.lint_saf (s : State) (l : Lint) : (s.lint l).saf = s.saf := rfl
@[simp] theorem State.lint_recs (s : State) (l : Lint) : (s.lint l).recs = s.recs := rfl
@[simp] theorem State.lint_pci (s : State) (l : Lint) : (s.lint l).pci = s.pci := rfl
@[simp] theorem State.lint_sent (s : State) (l : Lint) : (s.lint l).sent = s.sent := rfl
@[simp] theorem State.lint_fresh (s : State) (l : Lint) : (s.lint l).fresh = s.fresh := rfl
@[simp] theorem State.lint_pending (s : State) (l : Lint) : (s.lint l).pending = s.pending := rfl

@[simp] theorem State.lintClear_dev (s : State) (l : Lint) (i : Nat) : (s.lintClear l i).dev = s.dev := rfl
@[simp] theorem State.lintClear_boot (s : State) (l : Lint) (i : Nat) : (s.lintClear l i).boot = s.boot := rfl
@[simp] theorem State.lintClear_od (s : State) (l : Lint) (i : Nat) : (s.lintClear l i).od = { s.od with lints := amErase s.od.lints (l.key i) } := rfl
@[simp] theorem State.lintClear_cyc (s : State) (l : Lint) (i : Nat) : (s.lintClear l i).cyc = s.cyc := rfl
@[simp] theorem State.lintClear_field (s : State) (l : Lint) (i : Nat) : (s.lintClear l i).field = s.field := rfl
@[simp] theorem State.lintClear_cams (s : State) (l : Lint) (i : Nat) : (s.lintClear l i).cams = s.cams := rfl
@[simp] theorem State.lintClear_cox (s : State) (l : Lint) (i : Nat) : (s.lintClear l i).cox = s.cox := rfl
@[simp] theorem State.lintClear_crews (s : State) (l : Lint) (i : Nat) : (s.lintClear l i).crews = s.crews := rfl
@[simp] theorem State.lintClear_det (s : State) (l : Lint) (i : Nat) : (s.lintClear l i).det = s.det := rfl
@[simp] theorem State.lintClear_kv (s : State) (l : Lint) (i : Nat) : (s.lintClear l i).kv = s.kv := rfl
@[simp] theorem State.lintClear_retune (s : State) (l : Lint) (i : Nat) : (s.lintClear l i).retune = s.retune := rfl
@[simp] theorem State.lintClear_squad (s : State) (l : Lint) (i : Nat) : (s.lintClear l i).squad = s.squad := rfl
@[simp] theorem State.lintClear_mem (s : State) (l : Lint) (i : Nat) : (s.lintClear l i).mem = s.mem := rfl
@[simp] theorem State.lintClear_units (s : State) (l : Lint) (i : Nat) : (s.lintClear l i).units = s.units := rfl
@[simp] theorem State.lintClear_tu (s : State) (l : Lint) (i : Nat) : (s.lintClear l i).tu = s.tu := rfl
@[simp] theorem State.lintClear_fnet (s : State) (l : Lint) (i : Nat) : (s.lintClear l i).fnet = s.fnet := rfl
@[simp] theorem State.lintClear_saf (s : State) (l : Lint) (i : Nat) : (s.lintClear l i).saf = s.saf := rfl
@[simp] theorem State.lintClear_recs (s : State) (l : Lint) (i : Nat) : (s.lintClear l i).recs = s.recs := rfl
@[simp] theorem State.lintClear_pci (s : State) (l : Lint) (i : Nat) : (s.lintClear l i).pci = s.pci := rfl
@[simp] theorem State.lintClear_sent (s : State) (l : Lint) (i : Nat) : (s.lintClear l i).sent = s.sent := rfl
@[simp] theorem State.lintClear_fresh (s : State) (l : Lint) (i : Nat) : (s.lintClear l i).fresh = s.fresh := rfl
@[simp] theorem State.lintClear_pending (s : State) (l : Lint) (i : Nat) : (s.lintClear l i).pending = s.pending := rfl

@[simp] theorem State.modList_dev (s : State) (i : Nat) (f : XList → XList) : (s.modList i f).dev = s.dev := rfl
@[simp] theorem State.modList_boot (s : State) (i : Nat) (f : XList → XList) : (s.modList i f).boot = s.boot := rfl
@[simp] theorem State.modList_od (s : State) (i : Nat) (f : XList → XList) : (s.modList i f).od = s.od := rfl
@[simp] theorem State.modList_cyc (s : State) (i : Nat) (f : XList → XList) : (s.modList i f).cyc = s.cyc := rfl
@[simp] theorem State.modList_field (s : State) (i : Nat) (f : XList → XList) : (s.modList i f).field = s.field := rfl
@[simp] theorem State.modList_cams (s : State) (i : Nat) (f : XList → XList) : (s.modList i f).cams = s.cams := rfl
@[simp] theorem State.modList_cox (s : State) (i : Nat) (f : XList → XList) : (s.modList i f).cox = s.cox := rfl
@[simp] theorem State.modList_crews (s : State) (i : Nat) (f : XList → XList) : (s.modList i f).crews = s.crews := rfl
@[simp] theorem State.modList_det (s : State) (i : Nat) (f : XList → XList) : (s.modList i f).det = s.det := rfl
@[simp] theorem State.modList_kv (s : State) (i : Nat) (f : XList → XList) : (s.modList i f).kv = s.kv := rfl
@[simp] theorem State.modList_retune (s : State) (i : Nat) (f : XList → XList) : (s.modList i f).retune = s.retune := rfl
@[simp] theorem State.modList_squad (s : State) (i : Nat) (f : XList → XList) : (s.modList i f).squad = s.squad := rfl
@[simp] theorem State.modList_mem (s : State) (i : Nat) (f : XList → XList) : (s.modList i f).mem = s.mem := rfl
@[simp] theorem State.modList_units (s : State) (i : Nat) (f : XList → XList) : (s.modList i f).units = s.units := rfl
@[simp] theorem State.modList_tu (s : State) (i : Nat) (f : XList → XList) : (s.modList i f).tu = s.tu := rfl
@[simp] theorem State.modList_fnet (s : State) (i : Nat) (f : XList → XList) : (s.modList i f).fnet = s.fnet := rfl
@[simp] theorem State.modList_saf (s : State) (i : Nat) (f : XList → XList) : (s.modList i f).saf = s.saf := rfl
@[simp] theorem State.modList_recs (s : State) (i : Nat) (f : XList → XList) : (s.modList i f).recs = s.recs := rfl
@[simp] theorem State.modList_pci (s : State) (i : Nat) (f : XList → XList) : (s.modList i f).pci = { s.pci with lists := s.pci.lists.map (fun l => if l.id = i then f l else l) } := rfl
@[simp] theorem State.modList_sent (s : State) (i : Nat) (f : XList → XList) : (s.modList i f).sent = s.sent := rfl
@[simp] theorem State.modList_fresh (s : State) (i : Nat) (f : XList → XList) : (s.modList i f).fresh = s.fresh := rfl
@[simp] theorem State.modList_pending (s : State) (i : Nat) (f : XList → XList) : (s.modList i f).pending = s.pending := rfl

@[simp] theorem State.setOar_dev (s : State) (crew l : Nat) (o : Option Oar) : (s.setOar crew l o).dev = s.dev := rfl
@[simp] theorem State.setOar_boot (s : State) (crew l : Nat) (o : Option Oar) : (s.setOar crew l o).boot = s.boot := rfl
@[simp] theorem State.setOar_od (s : State) (crew l : Nat) (o : Option Oar) : (s.setOar crew l o).od = s.od := rfl
@[simp] theorem State.setOar_cyc (s : State) (crew l : Nat) (o : Option Oar) : (s.setOar crew l o).cyc = s.cyc := rfl
@[simp] theorem State.setOar_field (s : State) (crew l : Nat) (o : Option Oar) : (s.setOar crew l o).field = s.field := rfl
@[simp] theorem State.setOar_cams (s : State) (crew l : Nat) (o : Option Oar) : (s.setOar crew l o).cams = s.cams := rfl
@[simp] theorem State.setOar_cox (s : State) (crew l : Nat) (o : Option Oar) : (s.setOar crew l o).cox = s.cox := rfl
@[simp] theorem State.setOar_crews (s : State) (crew l : Nat) (o : Option Oar) : (s.setOar crew l o).crews = s.crews := rfl
@[simp] theorem State.setOar_det (s : State) (crew l : Nat) (o : Option Oar) : (s.setOar crew l o).det = s.det := rfl
@[simp] theorem State.setOar_kv (s : State) (crew l : Nat) (o : Option Oar) : (s.setOar crew l o).kv = s.kv := rfl
@[simp] theorem State.setOar_retune (s : State) (crew l : Nat) (o : Option Oar) : (s.setOar crew l o).retune = s.retune := rfl
@[simp] theorem State.setOar_squad (s : State) (crew l : Nat) (o : Option Oar) : (s.setOar crew l o).squad = s.squad := rfl
@[simp] theorem State.setOar_mem (s : State) (crew l : Nat) (o : Option Oar) : (s.setOar crew l o).mem = s.mem := rfl
@[simp] theorem State.setOar_tu (s : State) (crew l : Nat) (o : Option Oar) : (s.setOar crew l o).tu = s.tu := rfl
@[simp] theorem State.setOar_fnet (s : State) (crew l : Nat) (o : Option Oar) : (s.setOar crew l o).fnet = s.fnet := rfl
@[simp] theorem State.setOar_saf (s : State) (crew l : Nat) (o : Option Oar) : (s.setOar crew l o).saf = s.saf := rfl
@[simp] theorem State.setOar_recs (s : State) (crew l : Nat) (o : Option Oar) : (s.setOar crew l o).recs = s.recs := rfl
@[simp] theorem State.setOar_pci (s : State) (crew l : Nat) (o : Option Oar) : (s.setOar crew l o).pci = s.pci := rfl
@[simp] theorem State.setOar_sent (s : State) (crew l : Nat) (o : Option Oar) : (s.setOar crew l o).sent = s.sent := rfl
@[simp] theorem State.setOar_fresh (s : State) (crew l : Nat) (o : Option Oar) : (s.setOar crew l o).fresh = s.fresh := rfl
@[simp] theorem State.setOar_pending (s : State) (crew l : Nat) (o : Option Oar) : (s.setOar crew l o).pending = s.pending := rfl

@[simp] theorem State.modShell_dev (s : State) (crew p : Nat) (f : Shell → Shell) : (s.modShell crew p f).dev = s.dev := rfl
@[simp] theorem State.modShell_boot (s : State) (crew p : Nat) (f : Shell → Shell) : (s.modShell crew p f).boot = s.boot := rfl
@[simp] theorem State.modShell_od (s : State) (crew p : Nat) (f : Shell → Shell) : (s.modShell crew p f).od = s.od := rfl
@[simp] theorem State.modShell_cyc (s : State) (crew p : Nat) (f : Shell → Shell) : (s.modShell crew p f).cyc = s.cyc := rfl
@[simp] theorem State.modShell_field (s : State) (crew p : Nat) (f : Shell → Shell) : (s.modShell crew p f).field = s.field := rfl
@[simp] theorem State.modShell_cams (s : State) (crew p : Nat) (f : Shell → Shell) : (s.modShell crew p f).cams = s.cams := rfl
@[simp] theorem State.modShell_cox (s : State) (crew p : Nat) (f : Shell → Shell) : (s.modShell crew p f).cox = s.cox := rfl
@[simp] theorem State.modShell_crews (s : State) (crew p : Nat) (f : Shell → Shell) : (s.modShell crew p f).crews = s.crews := rfl
@[simp] theorem State.modShell_det (s : State) (crew p : Nat) (f : Shell → Shell) : (s.modShell crew p f).det = s.det := rfl
@[simp] theorem State.modShell_kv (s : State) (crew p : Nat) (f : Shell → Shell) : (s.modShell crew p f).kv = s.kv := rfl
@[simp] theorem State.modShell_retune (s : State) (crew p : Nat) (f : Shell → Shell) : (s.modShell crew p f).retune = s.retune := rfl
@[simp] theorem State.modShell_squad (s : State) (crew p : Nat) (f : Shell → Shell) : (s.modShell crew p f).squad = s.squad := rfl
@[simp] theorem State.modShell_mem (s : State) (crew p : Nat) (f : Shell → Shell) : (s.modShell crew p f).mem = s.mem := rfl
@[simp] theorem State.modShell_tu (s : State) (crew p : Nat) (f : Shell → Shell) : (s.modShell crew p f).tu = s.tu := rfl
@[simp] theorem State.modShell_fnet (s : State) (crew p : Nat) (f : Shell → Shell) : (s.modShell crew p f).fnet = s.fnet := rfl
@[simp] theorem State.modShell_saf (s : State) (crew p : Nat) (f : Shell → Shell) : (s.modShell crew p f).saf = s.saf := rfl
@[simp] theorem State.modShell_recs (s : State) (crew p : Nat) (f : Shell → Shell) : (s.modShell crew p f).recs = s.recs := rfl
@[simp] theorem State.modShell_pci (s : State) (crew p : Nat) (f : Shell → Shell) : (s.modShell crew p f).pci = s.pci := rfl
@[simp] theorem State.modShell_sent (s : State) (crew p : Nat) (f : Shell → Shell) : (s.modShell crew p f).sent = s.sent := rfl
@[simp] theorem State.modShell_fresh (s : State) (crew p : Nat) (f : Shell → Shell) : (s.modShell crew p f).fresh = s.fresh := rfl
@[simp] theorem State.modShell_pending (s : State) (crew p : Nat) (f : Shell → Shell) : (s.modShell crew p f).pending = s.pending := rfl

@[simp] theorem State.setSession_dev (s : State) (h : Nat) (v : Option Session) : (s.setSession h v).dev = s.dev := by unfold State.setSession; split <;> rfl
@[simp] theorem State.setSession_boot (s : State) (h : Nat) (v : Option Session) : (s.setSession h v).boot = s.boot := by unfold State.setSession; split <;> rfl
@[simp] theorem State.setSession_cyc (s : State) (h : Nat) (v : Option Session) : (s.setSession h v).cyc = s.cyc := by unfold State.setSession; split <;> rfl
@[simp] theorem State.setSession_field (s : State) (h : Nat) (v : Option Session) : (s.setSession h v).field = s.field := by unfold State.setSession; split <;> rfl
@[simp] theorem State.setSession_cams (s : State) (h : Nat) (v : Option Session) : (s.setSession h v).cams = s.cams := by unfold State.setSession; split <;> rfl
@[simp] theorem State.setSession_cox (s : State) (h : Nat) (v : Option Session) : (s.setSession h v).cox = s.cox := by unfold State.setSession; split <;> rfl
@[simp] theorem State.setSession_crews (s : State) (h : Nat) (v : Option Session) : (s.setSession h v).crews = s.crews := by unfold State.setSession; split <;> rfl
@[simp] theorem State.setSession_det (s : State) (h : Nat) (v : Option Session) : (s.setSession h v).det = s.det := by unfold State.setSession; split <;> rfl
@[simp] theorem State.setSession_kv (s : State) (h : Nat) (v : Option Session) : (s.setSession h v).kv = s.kv := by unfold State.setSession; split <;> rfl
@[simp] theorem State.setSession_retune (s : State) (h : Nat) (v : Option Session) : (s.setSession h v).retune = s.retune := by unfold State.setSession; split <;> rfl
@[simp] theorem State.setSession_squad (s : State) (h : Nat) (v : Option Session) : (s.setSession h v).squad = s.squad := by unfold State.setSession; split <;> rfl
@[simp] theorem State.setSession_mem (s : State) (h : Nat) (v : Option Session) : (s.setSession h v).mem = s.mem := by unfold State.setSession; split <;> rfl
@[simp] theorem State.setSession_units (s : State) (h : Nat) (v : Option Session) : (s.setSession h v).units = s.units := by unfold State.setSession; split <;> rfl
@[simp] theorem State.setSession_tu (s : State) (h : Nat) (v : Option Session) : (s.setSession h v).tu = s.tu := by unfold State.setSession; split <;> rfl
@[simp] theorem State.setSession_fnet (s : State) (h : Nat) (v : Option Session) : (s.setSession h v).fnet = s.fnet := by unfold State.setSession; split <;> rfl
@[simp] theorem State.setSession_saf (s : State) (h : Nat) (v : Option Session) : (s.setSession h v).saf = s.saf := by unfold State.setSession; split <;> rfl
@[simp] theorem State.setSession_recs (s : State) (h : Nat) (v : Option Session) : (s.setSession h v).recs = s.recs := by unfold State.setSession; split <;> rfl
@[simp] theorem State.setSession_pci (s : State) (h : Nat) (v : Option Session) : (s.setSession h v).pci = s.pci := by unfold State.setSession; split <;> rfl
@[simp] theorem State.setSession_sent (s : State) (h : Nat) (v : Option Session) : (s.setSession h v).sent = s.sent := by unfold State.setSession; split <;> rfl
@[simp] theorem State.setSession_fresh (s : State) (h : Nat) (v : Option Session) : (s.setSession h v).fresh = s.fresh := by unfold State.setSession; split <;> rfl
@[simp] theorem State.setSession_pending (s : State) (h : Nat) (v : Option Session) : (s.setSession h v).pending = s.pending := by unfold State.setSession; split <;> rfl

@[simp] theorem State.modSession_dev (s : State) (h : Nat) (f : Session → Session) : (s.modSession h f).dev = s.dev := by unfold State.modSession; split <;> simp [State.setSession_dev]
@[simp] theorem State.modSession_boot (s : State) (h : Nat) (f : Session → Session) : (s.modSession h f).boot = s.boot := by unfold State.modSession; split <;> simp [State.setSession_boot]
@[simp] theorem State.modSession_cyc (s : State) (h : Nat) (f : Session → Session) : (s.modSession h f).cyc = s.cyc := by unfold State.modSession; split <;> simp [State.setSession_cyc]
@[simp] theorem State.modSession_field (s : State) (h : Nat) (f : Session → Session) : (s.modSession h f).field = s.field := by unfold State.modSession; split <;> simp [State.setSession_field]
@[simp] theorem State.modSession_cams (s : State) (h : Nat) (f : Session → Session) : (s.modSession h f).cams = s.cams := by unfold State.modSession; split <;> simp [State.setSession_cams]
@[simp] theorem State.modSession_cox (s : State) (h : Nat) (f : Session → Session) : (s.modSession h f).cox = s.cox := by unfold State.modSession; split <;> simp [State.setSession_cox]
@[simp] theorem State.modSession_crews (s : State) (h : Nat) (f : Session → Session) : (s.modSession h f).crews = s.crews := by unfold State.modSession; split <;> simp [State.setSession_crews]
@[simp] theorem State.modSession_det (s : State) (h : Nat) (f : Session → Session) : (s.modSession h f).det = s.det := by unfold State.modSession; split <;> simp [State.setSession_det]
@[simp] theorem State.modSession_kv (s : State) (h : Nat) (f : Session → Session) : (s.modSession h f).kv = s.kv := by unfold State.modSession; split <;> simp [State.setSession_kv]
@[simp] theorem State.modSession_retune (s : State) (h : Nat) (f : Session → Session) : (s.modSession h f).retune = s.retune := by unfold State.modSession; split <;> simp [State.setSession_retune]
@[simp] theorem State.modSession_squad (s : State) (h : Nat) (f : Session → Session) : (s.modSession h f).squad = s.squad := by unfold State.modSession; split <;> simp [State.setSession_squad]
@[simp] theorem State.modSession_mem (s : State) (h : Nat) (f : Session → Session) : (s.modSession h f).mem = s.mem := by unfold State.modSession; split <;> simp [State.setSession_mem]
@[simp] theorem State.modSession_units (s : State) (h : Nat) (f : Session → Session) : (s.modSession h f).units = s.units := by unfold State.modSession; split <;> simp [State.setSession_units]
@[simp] theorem State.modSession_tu (s : State) (h : Nat) (f : Session → Session) : (s.modSession h f).tu = s.tu := by unfold State.modSession; split <;> simp [State.setSession_tu]
@[simp] theorem State.modSession_fnet (s : State) (h : Nat) (f : Session → Session) : (s.modSession h f).fnet = s.fnet := by unfold State.modSession; split <;> simp [State.setSession_fnet]
@[simp] theorem State.modSession_saf (s : State) (h : Nat) (f : Session → Session) : (s.modSession h f).saf = s.saf := by unfold State.modSession; split <;> simp [State.setSession_saf]
@[simp] theorem State.modSession_recs (s : State) (h : Nat) (f : Session → Session) : (s.modSession h f).recs = s.recs := by unfold State.modSession; split <;> simp [State.setSession_recs]
@[simp] theorem State.modSession_pci (s : State) (h : Nat) (f : Session → Session) : (s.modSession h f).pci = s.pci := by unfold State.modSession; split <;> simp [State.setSession_pci]
@[simp] theorem State.modSession_sent (s : State) (h : Nat) (f : Session → Session) : (s.modSession h f).sent = s.sent := by unfold State.modSession; split <;> simp [State.setSession_sent]
@[simp] theorem State.modSession_fresh (s : State) (h : Nat) (f : Session → Session) : (s.modSession h f).fresh = s.fresh := by unfold State.modSession; split <;> simp [State.setSession_fresh]
@[simp] theorem State.modSession_pending (s : State) (h : Nat) (f : Session → Session) : (s.modSession h f).pending = s.pending := by unfold State.modSession; split <;> simp [State.setSession_pending]

@[simp] theorem State.modKv_dev (s : State) (p : Nat) (f : KvPart → KvPart) : (s.modKv p f).dev = s.dev := by unfold State.modKv; split <;> rfl
@[simp] theorem State.modKv_boot (s : State) (p : Nat) (f : KvPart → KvPart) : (s.modKv p f).boot = s.boot := by unfold State.modKv; split <;> rfl
@[simp] theorem State.modKv_od (s : State) (p : Nat) (f : KvPart → KvPart) : (s.modKv p f).od = s.od := by unfold State.modKv; split <;> rfl
@[simp] theorem State.modKv_cyc (s : State) (p : Nat) (f : KvPart → KvPart) : (s.modKv p f).cyc = s.cyc := by unfold State.modKv; split <;> rfl
@[simp] theorem State.modKv_field (s : State) (p : Nat) (f : KvPart → KvPart) : (s.modKv p f).field = s.field := by unfold State.modKv; split <;> rfl
@[simp] theorem State.modKv_cams (s : State) (p : Nat) (f : KvPart → KvPart) : (s.modKv p f).cams = s.cams := by unfold State.modKv; split <;> rfl
@[simp] theorem State.modKv_cox (s : State) (p : Nat) (f : KvPart → KvPart) : (s.modKv p f).cox = s.cox := by unfold State.modKv; split <;> rfl
@[simp] theorem State.modKv_crews (s : State) (p : Nat) (f : KvPart → KvPart) : (s.modKv p f).crews = s.crews := by unfold State.modKv; split <;> rfl
@[simp] theorem State.modKv_det (s : State) (p : Nat) (f : KvPart → KvPart) : (s.modKv p f).det = s.det := by unfold State.modKv; split <;> rfl
@[simp] theorem State.modKv_retune (s : State) (p : Nat) (f : KvPart → KvPart) : (s.modKv p f).retune = s.retune := by unfold State.modKv; split <;> rfl
@[simp] theorem State.modKv_squad (s : State) (p : Nat) (f : KvPart → KvPart) : (s.modKv p f).squad = s.squad := by unfold State.modKv; split <;> rfl
@[simp] theorem State.modKv_mem (s : State) (p : Nat) (f : KvPart → KvPart) : (s.modKv p f).mem = s.mem := by unfold State.modKv; split <;> rfl
@[simp] theorem State.modKv_units (s : State) (p : Nat) (f : KvPart → KvPart) : (s.modKv p f).units = s.units := by unfold State.modKv; split <;> rfl
@[simp] theorem State.modKv_tu (s : State) (p : Nat) (f : KvPart → KvPart) : (s.modKv p f).tu = s.tu := by unfold State.modKv; split <;> rfl
@[simp] theorem State.modKv_fnet (s : State) (p : Nat) (f : KvPart → KvPart) : (s.modKv p f).fnet = s.fnet := by unfold State.modKv; split <;> rfl
@[simp] theorem State.modKv_saf (s : State) (p : Nat) (f : KvPart → KvPart) : (s.modKv p f).saf = s.saf := by unfold State.modKv; split <;> rfl
@[simp] theorem State.modKv_recs (s : State) (p : Nat) (f : KvPart → KvPart) : (s.modKv p f).recs = s.recs := by unfold State.modKv; split <;> rfl
@[simp] theorem State.modKv_pci (s : State) (p : Nat) (f : KvPart → KvPart) : (s.modKv p f).pci = s.pci := by unfold State.modKv; split <;> rfl
@[simp] theorem State.modKv_sent (s : State) (p : Nat) (f : KvPart → KvPart) : (s.modKv p f).sent = s.sent := by unfold State.modKv; split <;> rfl
@[simp] theorem State.modKv_fresh (s : State) (p : Nat) (f : KvPart → KvPart) : (s.modKv p f).fresh = s.fresh := by unfold State.modKv; split <;> rfl
@[simp] theorem State.modKv_pending (s : State) (p : Nat) (f : KvPart → KvPart) : (s.modKv p f).pending = s.pending := by unfold State.modKv; split <;> rfl

@[simp] theorem State.modRt_dev (s : State) (p : Nat) (f : Retune → Retune) : (s.modRt p f).dev = s.dev := by unfold State.modRt; split <;> rfl
@[simp] theorem State.modRt_boot (s : State) (p : Nat) (f : Retune → Retune) : (s.modRt p f).boot = s.boot := by unfold State.modRt; split <;> rfl
@[simp] theorem State.modRt_od (s : State) (p : Nat) (f : Retune → Retune) : (s.modRt p f).od = s.od := by unfold State.modRt; split <;> rfl
@[simp] theorem State.modRt_cyc (s : State) (p : Nat) (f : Retune → Retune) : (s.modRt p f).cyc = s.cyc := by unfold State.modRt; split <;> rfl
@[simp] theorem State.modRt_field (s : State) (p : Nat) (f : Retune → Retune) : (s.modRt p f).field = s.field := by unfold State.modRt; split <;> rfl
@[simp] theorem State.modRt_cams (s : State) (p : Nat) (f : Retune → Retune) : (s.modRt p f).cams = s.cams := by unfold State.modRt; split <;> rfl
@[simp] theorem State.modRt_cox (s : State) (p : Nat) (f : Retune → Retune) : (s.modRt p f).cox = s.cox := by unfold State.modRt; split <;> rfl
@[simp] theorem State.modRt_crews (s : State) (p : Nat) (f : Retune → Retune) : (s.modRt p f).crews = s.crews := by unfold State.modRt; split <;> rfl
@[simp] theorem State.modRt_det (s : State) (p : Nat) (f : Retune → Retune) : (s.modRt p f).det = s.det := by unfold State.modRt; split <;> rfl
@[simp] theorem State.modRt_kv (s : State) (p : Nat) (f : Retune → Retune) : (s.modRt p f).kv = s.kv := by unfold State.modRt; split <;> rfl
@[simp] theorem State.modRt_squad (s : State) (p : Nat) (f : Retune → Retune) : (s.modRt p f).squad = s.squad := by unfold State.modRt; split <;> rfl
@[simp] theorem State.modRt_mem (s : State) (p : Nat) (f : Retune → Retune) : (s.modRt p f).mem = s.mem := by unfold State.modRt; split <;> rfl
@[simp] theorem State.modRt_units (s : State) (p : Nat) (f : Retune → Retune) : (s.modRt p f).units = s.units := by unfold State.modRt; split <;> rfl
@[simp] theorem State.modRt_tu (s : State) (p : Nat) (f : Retune → Retune) : (s.modRt p f).tu = s.tu := by unfold State.modRt; split <;> rfl
@[simp] theorem State.modRt_fnet (s : State) (p : Nat) (f : Retune → Retune) : (s.modRt p f).fnet = s.fnet := by unfold State.modRt; split <;> rfl
@[simp] theorem State.modRt_saf (s : State) (p : Nat) (f : Retune → Retune) : (s.modRt p f).saf = s.saf := by unfold State.modRt; split <;> rfl
@[simp] theorem State.modRt_recs (s : State) (p : Nat) (f : Retune → Retune) : (s.modRt p f).recs = s.recs := by unfold State.modRt; split <;> rfl
@[simp] theorem State.modRt_pci (s : State) (p : Nat) (f : Retune → Retune) : (s.modRt p f).pci = s.pci := by unfold State.modRt; split <;> rfl
@[simp] theorem State.modRt_sent (s : State) (p : Nat) (f : Retune → Retune) : (s.modRt p f).sent = s.sent := by unfold State.modRt; split <;> rfl
@[simp] theorem State.modRt_fresh (s : State) (p : Nat) (f : Retune → Retune) : (s.modRt p f).fresh = s.fresh := by unfold State.modRt; split <;> rfl
@[simp] theorem State.modRt_pending (s : State) (p : Nat) (f : Retune → Retune) : (s.modRt p f).pending = s.pending := by unfold State.modRt; split <;> rfl

@[simp] theorem State.modHeat_dev (s : State) (k : Nat) (f : Heat → Heat) : (s.modHeat k f).dev = s.dev := by unfold State.modHeat; split <;> rfl
@[simp] theorem State.modHeat_boot (s : State) (k : Nat) (f : Heat → Heat) : (s.modHeat k f).boot = s.boot := by unfold State.modHeat; split <;> rfl
@[simp] theorem State.modHeat_od (s : State) (k : Nat) (f : Heat → Heat) : (s.modHeat k f).od = s.od := by unfold State.modHeat; split <;> rfl
@[simp] theorem State.modHeat_cyc (s : State) (k : Nat) (f : Heat → Heat) : (s.modHeat k f).cyc = s.cyc := by unfold State.modHeat; split <;> rfl
@[simp] theorem State.modHeat_field (s : State) (k : Nat) (f : Heat → Heat) : (s.modHeat k f).field = s.field := by unfold State.modHeat; split <;> rfl
@[simp] theorem State.modHeat_cams (s : State) (k : Nat) (f : Heat → Heat) : (s.modHeat k f).cams = s.cams := by unfold State.modHeat; split <;> rfl
@[simp] theorem State.modHeat_crews (s : State) (k : Nat) (f : Heat → Heat) : (s.modHeat k f).crews = s.crews := by unfold State.modHeat; split <;> rfl
@[simp] theorem State.modHeat_det (s : State) (k : Nat) (f : Heat → Heat) : (s.modHeat k f).det = s.det := by unfold State.modHeat; split <;> rfl
@[simp] theorem State.modHeat_kv (s : State) (k : Nat) (f : Heat → Heat) : (s.modHeat k f).kv = s.kv := by unfold State.modHeat; split <;> rfl
@[simp] theorem State.modHeat_retune (s : State) (k : Nat) (f : Heat → Heat) : (s.modHeat k f).retune = s.retune := by unfold State.modHeat; split <;> rfl
@[simp] theorem State.modHeat_squad (s : State) (k : Nat) (f : Heat → Heat) : (s.modHeat k f).squad = s.squad := by unfold State.modHeat; split <;> rfl
@[simp] theorem State.modHeat_mem (s : State) (k : Nat) (f : Heat → Heat) : (s.modHeat k f).mem = s.mem := by unfold State.modHeat; split <;> rfl
@[simp] theorem State.modHeat_units (s : State) (k : Nat) (f : Heat → Heat) : (s.modHeat k f).units = s.units := by unfold State.modHeat; split <;> rfl
@[simp] theorem State.modHeat_tu (s : State) (k : Nat) (f : Heat → Heat) : (s.modHeat k f).tu = s.tu := by unfold State.modHeat; split <;> rfl
@[simp] theorem State.modHeat_fnet (s : State) (k : Nat) (f : Heat → Heat) : (s.modHeat k f).fnet = s.fnet := by unfold State.modHeat; split <;> rfl
@[simp] theorem State.modHeat_saf (s : State) (k : Nat) (f : Heat → Heat) : (s.modHeat k f).saf = s.saf := by unfold State.modHeat; split <;> rfl
@[simp] theorem State.modHeat_recs (s : State) (k : Nat) (f : Heat → Heat) : (s.modHeat k f).recs = s.recs := by unfold State.modHeat; split <;> rfl
@[simp] theorem State.modHeat_pci (s : State) (k : Nat) (f : Heat → Heat) : (s.modHeat k f).pci = s.pci := by unfold State.modHeat; split <;> rfl
@[simp] theorem State.modHeat_sent (s : State) (k : Nat) (f : Heat → Heat) : (s.modHeat k f).sent = s.sent := by unfold State.modHeat; split <;> rfl
@[simp] theorem State.modHeat_fresh (s : State) (k : Nat) (f : Heat → Heat) : (s.modHeat k f).fresh = s.fresh := by unfold State.modHeat; split <;> rfl
@[simp] theorem State.modHeat_pending (s : State) (k : Nat) (f : Heat → Heat) : (s.modHeat k f).pending = s.pending := by unfold State.modHeat; split <;> rfl

@[simp] theorem State.modSwath_dev (s : State) (port cnt : Nat) (f : Swath → Swath) : (s.modSwath port cnt f).dev = s.dev := by unfold State.modSwath; split <;> rfl
@[simp] theorem State.modSwath_boot (s : State) (port cnt : Nat) (f : Swath → Swath) : (s.modSwath port cnt f).boot = s.boot := by unfold State.modSwath; split <;> rfl
@[simp] theorem State.modSwath_od (s : State) (port cnt : Nat) (f : Swath → Swath) : (s.modSwath port cnt f).od = s.od := by unfold State.modSwath; split <;> rfl
@[simp] theorem State.modSwath_cyc (s : State) (port cnt : Nat) (f : Swath → Swath) : (s.modSwath port cnt f).cyc = s.cyc := by unfold State.modSwath; split <;> rfl
@[simp] theorem State.modSwath_field (s : State) (port cnt : Nat) (f : Swath → Swath) : (s.modSwath port cnt f).field = s.field := by unfold State.modSwath; split <;> rfl
@[simp] theorem State.modSwath_cox (s : State) (port cnt : Nat) (f : Swath → Swath) : (s.modSwath port cnt f).cox = s.cox := by unfold State.modSwath; split <;> rfl
@[simp] theorem State.modSwath_crews (s : State) (port cnt : Nat) (f : Swath → Swath) : (s.modSwath port cnt f).crews = s.crews := by unfold State.modSwath; split <;> rfl
@[simp] theorem State.modSwath_det (s : State) (port cnt : Nat) (f : Swath → Swath) : (s.modSwath port cnt f).det = s.det := by unfold State.modSwath; split <;> rfl
@[simp] theorem State.modSwath_kv (s : State) (port cnt : Nat) (f : Swath → Swath) : (s.modSwath port cnt f).kv = s.kv := by unfold State.modSwath; split <;> rfl
@[simp] theorem State.modSwath_retune (s : State) (port cnt : Nat) (f : Swath → Swath) : (s.modSwath port cnt f).retune = s.retune := by unfold State.modSwath; split <;> rfl
@[simp] theorem State.modSwath_squad (s : State) (port cnt : Nat) (f : Swath → Swath) : (s.modSwath port cnt f).squad = s.squad := by unfold State.modSwath; split <;> rfl
@[simp] theorem State.modSwath_mem (s : State) (port cnt : Nat) (f : Swath → Swath) : (s.modSwath port cnt f).mem = s.mem := by unfold State.modSwath; split <;> rfl
@[simp] theorem State.modSwath_units (s : State) (port cnt : Nat) (f : Swath → Swath) : (s.modSwath port cnt f).units = s.units := by unfold State.modSwath; split <;> rfl
@[simp] theorem State.modSwath_tu (s : State) (port cnt : Nat) (f : Swath → Swath) : (s.modSwath port cnt f).tu = s.tu := by unfold State.modSwath; split <;> rfl
@[simp] theorem State.modSwath_fnet (s : State) (port cnt : Nat) (f : Swath → Swath) : (s.modSwath port cnt f).fnet = s.fnet := by unfold State.modSwath; split <;> rfl
@[simp] theorem State.modSwath_saf (s : State) (port cnt : Nat) (f : Swath → Swath) : (s.modSwath port cnt f).saf = s.saf := by unfold State.modSwath; split <;> rfl
@[simp] theorem State.modSwath_recs (s : State) (port cnt : Nat) (f : Swath → Swath) : (s.modSwath port cnt f).recs = s.recs := by unfold State.modSwath; split <;> rfl
@[simp] theorem State.modSwath_pci (s : State) (port cnt : Nat) (f : Swath → Swath) : (s.modSwath port cnt f).pci = s.pci := by unfold State.modSwath; split <;> rfl
@[simp] theorem State.modSwath_sent (s : State) (port cnt : Nat) (f : Swath → Swath) : (s.modSwath port cnt f).sent = s.sent := by unfold State.modSwath; split <;> rfl
@[simp] theorem State.modSwath_fresh (s : State) (port cnt : Nat) (f : Swath → Swath) : (s.modSwath port cnt f).fresh = s.fresh := by unfold State.modSwath; split <;> rfl
@[simp] theorem State.modSwath_pending (s : State) (port cnt : Nat) (f : Swath → Swath) : (s.modSwath port cnt f).pending = s.pending := by unfold State.modSwath; split <;> rfl

end Sys2Proof.Machine
end

