-- ==== Sys2Proof/Laws/Outcome.lean ====
section
/-! SUPPORT. What the ends of a row do: the signals, RUN and DEGRADED, and the three outcomes built on them. -/

namespace Sys2Proof.Machine

open Sys2Proof

/-! ### Signals -/

/-- The signals of a step only add to the log. -/
theorem edges_adds (s t : State) : ∃ l, edges s t = { t with sent := l ++ t.sent } := by
  unfold edges
  split
  · exact ⟨[], rfl⟩
  · dsimp only
    split <;> split
    · exact ⟨[.msix 3], rfl⟩
    · exact ⟨[.msix 3, .msix 2], rfl⟩
    · exact ⟨[], rfl⟩
    · exact ⟨[.msix 2], rfl⟩

/-! ### RUN and DEGRADED -/

/-- Every state but RUN and DEGRADED is left as it is. -/
theorem regrade_idle (s : State) (h : s.dev.state.runs = false) : s.regrade = s := by
  unfold State.regrade
  split <;> simp_all [DevState.runs]

/-- Regrading changes the device state alone, and only between RUN and DEGRADED. -/
theorem regrade_state (s : State) : ∃ d, s.regrade = { s with dev := { s.dev with state := d } } ∧
    (s.dev.state.runs = false → d = s.dev.state) ∧ (s.dev.state.runs = true → d.runs = true) := by
  unfold State.regrade
  split
  · rename_i h
    split
    · exact ⟨.degraded, rfl, by simp [h, DevState.runs], by simp [DevState.runs]⟩
    · exact ⟨s.dev.state, rfl, by simp, by simp⟩
  · rename_i h
    split
    · exact ⟨s.dev.state, rfl, by simp, by simp⟩
    · exact ⟨.run, rfl, by simp [h, DevState.runs], by simp [DevState.runs]⟩
  · exact ⟨s.dev.state, rfl, by simp, by simp⟩

theorem anyOos_dev (s : State) (d : Device) : ({ s with dev := d } : State).anyOos = s.anyOos := rfl

theorem anyOos_sent (s : State) (l : List Out) : ({ s with sent := l } : State).anyOos = s.anyOos := rfl

theorem crewsShort_dev (s : State) (d : Device) : ({ s with dev := d } : State).crewsShort = s.crewsShort := rfl

/-- What regrading leaves is graded. -/
theorem regrade_graded (s : State) : s.regrade.Graded := by
  unfold State.regrade State.Graded
  split
  · rename_i h
    split
    · rename_i o; exact ⟨by simp, fun _ => o⟩
    · rename_i o; exact ⟨fun _ => by simpa using o, by simp [h]⟩
  · rename_i h
    split
    · rename_i o; exact ⟨by simp [h], fun _ => o⟩
    · rename_i o; exact ⟨fun _ => by rw [Bool.not_eq_true] at o; exact o, by simp⟩
  · rename_i h1 h2; exact ⟨fun h => absurd h h1, fun h => absurd h h2⟩

/-- Signals leave a graded state graded. -/
theorem edges_graded (s t : State) (h : t.Graded) : (edges s t).Graded := by
  obtain ⟨l, e⟩ := edges_adds s t
  rw [e]; exact h

/-! ### The ends of a row -/

/-- `finish` always answers a graded next state. -/
theorem finish_graded (s t : State) : ∃ u, finish s t = .next u ∧ u.Graded :=
  ⟨_, rfl, edges_graded _ _ (regrade_graded _)⟩

/-- `done` always answers a graded next state. -/
theorem done_graded (s t : State) : ∃ u, done s t = .next u ∧ u.Graded := ⟨_, rfl, edges_graded _ _ (regrade_graded _)⟩

/-- `settled` always answers a graded next state. -/
theorem settled_graded (t : State) : ∃ u, settled t = .next u ∧ u.Graded := ⟨_, rfl, regrade_graded _⟩

/-- `lateEnd` always answers a graded next state. -/
theorem lateEnd_graded (s t : State) : ∃ u, lateEnd s t = .next u ∧ u.Graded := finish_graded _ _

/-- A request row always answers a graded next state. -/
theorem odRow_graded (s : State) (r : Request) : ∃ u, odRow s r = .next u ∧ u.Graded := lateEnd_graded _ _

/-- `settled` answers what its state ends as. -/
theorem settled_ends (t : State) : ∃ u, settled t = .next u ∧ t.EndsAs u := by
  obtain ⟨d, e, h1, h2⟩ := regrade_state t
  exact ⟨_, rfl, d, [], by rw [e]; rfl, h1, h2⟩

/-- `done` answers what its state ends as. -/
theorem done_ends (s t : State) : ∃ u, done s t = .next u ∧ t.EndsAs u := by
  obtain ⟨d, e, h1, h2⟩ := regrade_state t
  obtain ⟨l, e2⟩ := edges_adds s t.regrade
  exact ⟨_, rfl, d, l, by rw [e2, e], h1, h2⟩

/-- `finish` answers what its state ends as, where no partition has become short of crews. -/
theorem finish_ends (s t : State) (h : t.crewsShort = true → s.crewsShort = true) : ∃ u, finish s t = .next u ∧ t.EndsAs u := by
  obtain ⟨d, e, h1, h2⟩ := regrade_state t
  have hc : (t.regrade.crewsShort && !s.crewsShort) = false := by
    rw [e, crewsShort_dev]
    cases hx : t.crewsShort
    · rfl
    · rw [h hx]; rfl
  have hr : t.regrade.regrade = t.regrade := by
    have g := regrade_graded t
    generalize t.regrade = r at g
    unfold State.Graded at g
    unfold State.regrade
    split
    · rename_i k; rw [g.1 k]; simp
    · rename_i k; rw [g.2 k]; simp
    · rfl
  obtain ⟨l, e2⟩ := edges_adds s t.regrade
  refine ⟨edges s t.regrade, ?_, d, l, by rw [e2, e], h1, h2⟩
  unfold finish
  simp only [hc, Bool.false_eq_true, if_false, hr]

/-! ### What ends as it was -/

theorem State.EndsAs.boot {u t : State} (h : u.EndsAs t) : t.boot = u.boot := by obtain ⟨_, _, rfl, _⟩ := h; rfl
theorem State.EndsAs.od {u t : State} (h : u.EndsAs t) : t.od = u.od := by obtain ⟨_, _, rfl, _⟩ := h; rfl
theorem State.EndsAs.cyc {u t : State} (h : u.EndsAs t) : t.cyc = u.cyc := by obtain ⟨_, _, rfl, _⟩ := h; rfl
theorem State.EndsAs.field {u t : State} (h : u.EndsAs t) : t.field = u.field := by obtain ⟨_, _, rfl, _⟩ := h; rfl
theorem State.EndsAs.cams {u t : State} (h : u.EndsAs t) : t.cams = u.cams := by obtain ⟨_, _, rfl, _⟩ := h; rfl
theorem State.EndsAs.cox {u t : State} (h : u.EndsAs t) : t.cox = u.cox := by obtain ⟨_, _, rfl, _⟩ := h; rfl
theorem State.EndsAs.crews {u t : State} (h : u.EndsAs t) : t.crews = u.crews := by obtain ⟨_, _, rfl, _⟩ := h; rfl
theorem State.EndsAs.det {u t : State} (h : u.EndsAs t) : t.det = u.det := by obtain ⟨_, _, rfl, _⟩ := h; rfl
theorem State.EndsAs.kv {u t : State} (h : u.EndsAs t) : t.kv = u.kv := by obtain ⟨_, _, rfl, _⟩ := h; rfl
theorem State.EndsAs.retune {u t : State} (h : u.EndsAs t) : t.retune = u.retune := by obtain ⟨_, _, rfl, _⟩ := h; rfl
theorem State.EndsAs.squad {u t : State} (h : u.EndsAs t) : t.squad = u.squad := by obtain ⟨_, _, rfl, _⟩ := h; rfl
theorem State.EndsAs.mem {u t : State} (h : u.EndsAs t) : t.mem = u.mem := by obtain ⟨_, _, rfl, _⟩ := h; rfl
theorem State.EndsAs.units {u t : State} (h : u.EndsAs t) : t.units = u.units := by obtain ⟨_, _, rfl, _⟩ := h; rfl
theorem State.EndsAs.tu {u t : State} (h : u.EndsAs t) : t.tu = u.tu := by obtain ⟨_, _, rfl, _⟩ := h; rfl
theorem State.EndsAs.fnet {u t : State} (h : u.EndsAs t) : t.fnet = u.fnet := by obtain ⟨_, _, rfl, _⟩ := h; rfl
theorem State.EndsAs.saf {u t : State} (h : u.EndsAs t) : t.saf = u.saf := by obtain ⟨_, _, rfl, _⟩ := h; rfl
theorem State.EndsAs.recs {u t : State} (h : u.EndsAs t) : t.recs = u.recs := by obtain ⟨_, _, rfl, _⟩ := h; rfl
theorem State.EndsAs.pci {u t : State} (h : u.EndsAs t) : t.pci = u.pci := by obtain ⟨_, _, rfl, _⟩ := h; rfl
theorem State.EndsAs.fresh {u t : State} (h : u.EndsAs t) : t.fresh = u.fresh := by obtain ⟨_, _, rfl, _⟩ := h; rfl
theorem State.EndsAs.pending {u t : State} (h : u.EndsAs t) : t.pending = u.pending := by obtain ⟨_, _, rfl, _⟩ := h; rfl

/-- A device state but RUN and DEGRADED ends as it was. -/
theorem State.EndsAs.state {u t : State} (h : u.EndsAs t) (hr : u.dev.state.runs = false) : t.dev.state = u.dev.state := by
  obtain ⟨_, _, rfl, h1, _⟩ := h; exact h1 hr

/-- RUN and DEGRADED end as one of the two. -/
theorem State.EndsAs.runs {u t : State} (h : u.EndsAs t) (hr : u.dev.state.runs = true) : t.dev.state.runs = true := by
  obtain ⟨_, _, rfl, _, h1⟩ := h; exact h1 hr

/-- What has left the device stays in the log. -/
theorem State.EndsAs.sent {u t : State} (h : u.EndsAs t) (o : Out) (ho : o ∈ u.sent) : o ∈ t.sent := by
  obtain ⟨_, l, rfl, _⟩ := h; exact List.mem_append_right l ho

/-- Every field of the device block but its state ends as it was. -/
theorem State.EndsAs.dev {u t : State} (h : u.EndsAs t) : ∃ d, t.dev = { u.dev with state := d } := by
  obtain ⟨d, _, rfl, _⟩ := h; exact ⟨d, rfl⟩

/-! ### What crews in service depend on -/

theorem crewIn_congr (s t : State) (c : Nat) (h1 : t.od.committed = s.od.committed) (h2 : t.boot.fuses = s.boot.fuses)
    (h3 : t.saf.held = s.saf.held) (h4 : t.crews = s.crews) : t.crewIn c = s.crewIn c := by
  unfold State.crewIn State.crewCount State.oarsOos State.oarOos State.shellsActive State.crew State.heldOut State.flag
    State.num State.byt State.val State.part
  rw [h1, h2, h3, h4]

/-- Units out of service, by the committed entries, the part, the units held out and the patch maps alone. -/
theorem anyOos_congr {s t : State} (h1 : t.od.committed = s.od.committed) (h2 : t.boot.fuses = s.boot.fuses)
    (h3 : t.saf.held = s.saf.held) (h4 : t.crews = s.crews) : t.anyOos = s.anyOos := by
  have hc : t.crewIn = s.crewIn := funext (fun c => crewIn_congr s t c h1 h2 h3 h4)
  have ho : t.oarOos = s.oarOos := by
    funext c p; unfold State.oarOos State.heldOut State.byt State.val State.part; rw [h1, h2, h3]
  have hs : t.shellOos = s.shellOos := by
    funext c p; unfold State.shellOos State.heldOut State.num State.val State.part; rw [h1, h2, h3]
  unfold State.anyOos
  rw [hc, ho, hs, h3]
  unfold State.scullIn State.crewCount State.heldOut State.flag State.num State.val State.part
  rw [h1, h2, h3]

/-- A partition is short of crews by the packages, the committed entries, the part, the units held out and the patch maps alone. -/
theorem crewsShort_congr (s t : State) (h1 : t.od.committed = s.od.committed) (h2 : t.boot.fuses = s.boot.fuses)
    (h3 : t.saf.held = s.saf.held) (h4 : t.crews = s.crews) (h5 : t.cox.packages = s.cox.packages) :
    t.crewsShort = s.crewsShort := by
  have hc : t.crewsIn = s.crewsIn := by
    unfold State.crewsIn
    congr 1; funext c; exact crewIn_congr s t c h1 h2 h3 h4
  unfold State.crewsShort
  rw [hc, h5]
  unfold State.num State.val State.part
  rw [h1, h2]

/-- No port of `t` has news after `s`: none reaches UP from HANDSHAKE, and none is lost to a formed squad but by RACK. -/
def State.Quiet (s t : State) : Prop :=
  (∀ p : Fin 8, ¬ (s.squad.ports[p].state = .handshake ∧ t.squad.ports[p].state = .up)) ∧
    (∀ p : Fin 8, s.squad.ports[p].linked = true → t.squad.ports[p].linked = true ∨ t.squad.ports[p].state = .rack ∨ t.squad.state ≠ .formed)

/-- Ports without news send none. -/
theorem nlSettle_quiet (s t : State) (h : s.Quiet t) : s.nlSettle t = t := by
  unfold State.nlSettle State.each
  generalize allFin 8 = l
  suffices ∀ u : State, u = t → l.foldl _ u = t from this t rfl
  induction l with
  | nil => intro u hu; exact hu
  | cons p l ih =>
    intro u hu
    subst hu
    rw [List.foldl_cons]
    apply ih
    dsimp only
    rw [if_neg (h.1 p)]
    rw [if_neg]
    rintro ⟨a, b, c, d⟩
    rcases h.2 p a with h | h | h
    · exact b h
    · exact c h
    · exact h d

/-- Ports that stay as they are have no news. -/
theorem quiet_same {s t : State} (h : t.squad.ports = s.squad.ports) : s.Quiet t := by
  refine ⟨?_, ?_⟩
  · intro p c; rw [h, c.1] at c; exact absurd c.2 (by simp)
  · intro p a; rw [h]; exact .inl a

/-- News depend on the squad alone. -/
theorem quiet_congr {s t u : State} (h : u.squad = t.squad) (q : s.Quiet t) : s.Quiet u := by
  unfold State.Quiet at *; rw [h]; exact q

theorem nlSettle_same (s t : State) (h : t.squad.ports = s.squad.ports) : s.nlSettle t = t := nlSettle_quiet s t (quiet_same h)

theorem cmdSettle_none (s : State) (h : s.squad.cmd = none) : s.cmdSettle = s := by
  unfold State.cmdSettle; rw [h]

theorem drainAll_idle (s : State) (h : s.idleWork = none) : s.drainAll = s := by
  unfold State.drainAll
  cases s.waitingReqs with
  | zero => rfl
  | succ n => unfold State.drainN; rw [h]

/-- A row whose ports have no news, with nothing waiting, ends as `finish` does. -/
theorem lateEnd_quiet (s t : State) (hn : s.nlSettle t = t) (h : t.Settled) : lateEnd s t = finish s t := by
  unfold lateEnd
  rw [hn, cmdSettle_none t h.2, drainAll_idle t h.1]

/-- `lateEnd` answers what its state ends as, where ports have no news, nothing waits, and no partition has become short of crews. -/
theorem lateEnd_ends (s t : State) (hn : s.nlSettle t = t) (h : t.Settled) (hc : t.crewsShort = true → s.crewsShort = true) :
    ∃ u, lateEnd s t = .next u ∧ t.EndsAs u := by
  rw [lateEnd_quiet s t hn h]; exact finish_ends s t hc

/-- Outside operation no partition's shortness is an event, and `finish` answers what its state ends as. -/
theorem finish_ends_off (s t : State) (h : t.dev.state = .boot ∨ t.dev.state = .recovery ∨ t.dev.state = .reset ∨ t.dev.state = .off) :
    ∃ u, finish s t = .next u ∧ t.EndsAs u := by
  have hr : t.dev.state.runs = false := by rcases h with h | h | h | h <;> rw [h] <;> rfl
  have he : t.event 9 [] = t := by unfold State.event; rcases h with h | h | h | h <;> simp only [h]
  obtain ⟨l, e⟩ := edges_adds s t
  refine ⟨_, ?_, t.dev.state, l, e, fun _ => rfl, id⟩
  unfold finish
  simp only [regrade_idle t hr, he, ite_self]

/-- A row that ends outside operation, with nothing waiting and its ports as they were. -/
theorem lateEnd_off (s t : State) (hp : t.squad.ports = s.squad.ports) (h : t.Settled)
    (ho : t.dev.state = .boot ∨ t.dev.state = .recovery ∨ t.dev.state = .reset ∨ t.dev.state = .off) :
    ∃ u, lateEnd s t = .next u ∧ t.EndsAs u := by
  rw [lateEnd_quiet s t (nlSettle_same s t hp) h]; exact finish_ends_off s t ho

/-- A state whose volatile blocks are at their reset values ends as it is. -/
theorem lateEnd_wiped (s t : State) (hq : t.squad = Squad.init) (hs : t.od.sessions = Vector.replicate 48 none)
    (hp : t.cox.packages = Vector.replicate 16 none) : ∃ u, lateEnd s t = .next u ∧ t.EndsAs u := by
  refine lateEnd_ends s t ?_ ⟨?_, ?_⟩ ?_
  · refine nlSettle_quiet s t ⟨?_, ?_⟩
    · intro p c
      have : t.squad.ports[p].state = .disabled := by
        rw [hq]; unfold Squad.init NlPort.init; simp
      rw [this] at c; cases c.2
    · intro p _; right; right; rw [hq]; decide
  · unfold State.idleWork
    rw [List.find?_eq_none]
    intro k _
    have : t.session? k = none := by
      unfold State.session? toFin?
      split
      · rw [hs]; simp
      · rfl
    rw [this]; simp
  · rw [hq]; rfl
  · intro h
    unfold State.crewsShort at h
    rw [hp] at h
    simp at h

end Sys2Proof.Machine
end

