-- ==== Sys2Proof/Laws/Od.lean ====
section
/-! SUPPORT. What a request of a session does, once: from its arrival to its response. -/

namespace Sys2Proof.Machine

open Sys2Proof

/-! ### Sessions -/

theorem session?_lt {s : State} {h : Nat} {x : Session} (e : s.session? h = some x) : h < 48 := by
  unfold State.session? toFin? at e
  split at e
  · assumption
  · simp at e

theorem session?_setSession (s : State) (h k : Nat) (v : Option Session) (hh : h < 48) :
    (s.setSession h v).session? k = if k = h then v else s.session? k := by
  unfold State.setSession State.session? toFin?
  simp only [hh, dif_pos]
  by_cases hk : k < 48
  · simp only [hk, dif_pos, Option.bind_some]
    by_cases e : k = h
    · subst e; simp
    · simp [e, Ne.symm e]
  · have : k ≠ h := fun e => hk (e ▸ hh)
    simp [hk, this]

theorem session?_modSession (s : State) (h k : Nat) (f : Session → Session) :
    (s.modSession h f).session? k = if k = h then (s.session? h).map f else s.session? k := by
  unfold State.modSession
  split
  · rename_i x e
    rw [session?_setSession _ _ _ _ (session?_lt e)]
    simp [e]
  · rename_i e
    by_cases hk : k = h
    · subst hk; simp [e]
    · simp [hk]

/-- The state in which a request that was taken executes: its session holds it as executing, and H is its REQ_ID. -/
def State.began (s : State) (x : Session) (r : Request) : State :=
  s.setSession r.env.session.toNat (some { x with
    lastMsg := s.now, high := r.env.reqId.toNat, stored := x.stored.filter (fun e => inWindow e.1 r.env.reqId.toNat)
    queue := [], executing := some r })

/-- The session that a request executes in. -/
def Session.took (x : Session) (s : State) (r : Request) : Session :=
  { x with
    lastMsg := s.now, high := r.env.reqId.toNat, stored := x.stored.filter (fun e => inWindow e.1 r.env.reqId.toNat)
    queue := [r] }

theorem setSession_setSession (s : State) (h : Nat) (a b : Option Session) : (s.setSession h a).setSession h b = s.setSession h b := by
  unfold State.setSession toFin?
  by_cases e : h < 48
  · simp [e, Vector.set_set]
  · simp [e]

theorem modSession_eq {s : State} {h : Nat} {x : Session} (f : Session → Session) (e : s.session? h = some x) :
    s.modSession h f = s.setSession h (some (f x)) := by
  unfold State.modSession; rw [e]

theorem idleWork_none_iff (s : State) : s.idleWork = none ↔
    ∀ h < 48, ∀ x, s.session? h = some x → ¬ (x.executing = none ∧ x.queue ≠ []) := by
  unfold State.idleWork
  rw [List.find?_eq_none]
  constructor
  · intro a h hh x e c
    have := a h (by simpa using hh)
    simp [e, c.1, c.2] at this
  · intro a h hh
    have hh' : h < 48 := by simpa using hh
    cases e : s.session? h with
    | none => simp
    | some x =>
      have := a h hh' x e
      simp only [Bool.and_eq_true, Option.isNone_iff_eq_none, Bool.not_eq_true', List.isEmpty_eq_false_iff]
      exact this

/-- A find over a range gives the one index that satisfies. -/
theorem find_range_one {n h : Nat} {p : Nat → Bool} (hh : h < n) (hp : p h = true) (ho : ∀ k < n, k ≠ h → p k = false) :
    (List.range n).find? p = some h := by
  cases e : (List.range n).find? p with
  | none => rw [List.find?_eq_none] at e; exact absurd hp (e h (by simpa using hh))
  | some k =>
    have hk := List.find?_some e
    have hm : k < n := by simpa using List.mem_of_find?_eq_some e
    by_cases c : k = h
    · rw [c]
    · rw [ho k hm c] at hk; exact absurd hk (by simp)

theorem drainN_idle (s : State) (n : Nat) (h : s.idleWork = none) : s.drainN n = s := by
  cases n with
  | zero => rfl
  | succ n => unfold State.drainN; rw [h]

theorem sum_pos_of_mem {l : List Nat} {a : Nat} (h : a ∈ l) (ha : 0 < a) : 0 < l.sum := by
  induction l with
  | nil => cases h
  | cons b l ih =>
    rcases List.mem_cons.mp h with rfl | h
    · simp; omega
    · have := ih h; simp; omega

/-- With one request to run, draining runs it and then what is left. -/
theorem drainAll_one (s : State) (h : Nat) (x : Session) (e : s.session? h = some x) (hx : x.executing = none) (hq : x.queue ≠ [])
    (ho : ∀ k < 48, k ≠ h → ∀ y, s.session? k = some y → ¬ (y.executing = none ∧ y.queue ≠ [])) :
    ∃ n, s.drainAll = (s.runReq h).drainN n := by
  have hh := session?_lt e
  have hi : s.idleWork = some h := by
    unfold State.idleWork
    refine find_range_one hh ?_ ?_
    · simp [e, hx, hq]
    · intro k hk hn
      cases c : s.session? k with
      | none => rfl
      | some y =>
        have := ho k hk hn y c
        simp only [Bool.and_eq_false_iff, Option.isNone_eq_false_iff, Bool.not_eq_false', List.isEmpty_iff]
        by_cases a : y.executing = none
        · exact Or.inr (Decidable.byContradiction (fun b => this ⟨a, b⟩))
        · exact Or.inl (Option.isSome_iff_ne_none.mpr a)
  have hw : 0 < s.waitingReqs := by
    unfold State.waitingReqs
    refine sum_pos_of_mem (a := x.queue.length) (List.mem_map.mpr ⟨h, by simpa using hh, by simp [e]⟩) ?_
    exact List.length_pos_iff.mpr hq
  unfold State.drainAll
  obtain ⟨n, hn⟩ : ∃ n, s.waitingReqs = n + 1 := ⟨s.waitingReqs - 1, by omega⟩
  rw [hn]
  exact ⟨n, by rw [State.drainN, hi]⟩

/-- The state after a request that executes has answered. -/
def Reply.answered (p : Reply) (r : Request) (last : Bool) : State :=
  if p.later then p.state
  else
    let s2 := (p.state.modSession r.env.session.toNat (fun x => { x with executing := none })).respond
      r.env.session.toNat r p.status p.data last
    if r.op = 2 ∧ p.status = .ok then s2.closeSession r.env.session.toNat else s2

/-- A request that is taken joins its session's queue. -/
theorem onSession_takes (s : State) (x : Session) (r : Request) (ht : s.Takes x r) :
    (s.modSession r.env.session.toNat (fun x => { x with lastMsg := s.now })).onSession r.env.session.toNat x r =
      s.setSession r.env.session.toNat (some (x.took s r)) := by
  obtain ⟨_, _, _, _, session, _, _, new, free, first, fields⟩ := ht
  generalize r.env.session.toNat = h at session ⊢
  have hw : inWindow r.env.reqId.toNat x.high = false := by
    unfold inWindow
    simp only [Bool.and_eq_false_iff, decide_eq_false_iff_not]
    right; omega
  have hh := session?_lt session
  have e1 : ∀ (a : Session), (s.setSession h (some a)).session? h = some a := fun a => by
    rw [session?_setSession _ _ _ _ hh, if_pos rfl]
  unfold State.onSession
  simp only [hw, Bool.false_eq_true, if_false, new, if_true]
  unfold State.accept
  simp only [first, free, List.length_nil, Option.isSome_none, new, if_true, fields]
  rw [modSession_eq _ session, modSession_eq _ (e1 _), setSession_setSession, modSession_eq _ (e1 _), setSession_setSession]
  simp only [first, List.nil_append]
  rfl

/-- A request that waits alone in its session executes. -/
theorem runReq_one (s : State) (x : Session) (r : Request) (session : s.session? r.env.session.toNat = some x) :
    (s.setSession r.env.session.toNat (some (x.took s r))).runReq r.env.session.toNat =
      ((s.began x r).perform r.env.session.toNat (x.took s r) r).1.answered r
        ((s.began x r).perform r.env.session.toNat (x.took s r) r).2 := by
  have hh := session?_lt session
  have e1 : (s.setSession r.env.session.toNat (some (x.took s r))).session? r.env.session.toNat = some (x.took s r) := by
    rw [session?_setSession _ _ _ _ hh, if_pos rfl]
  have e2 : (s.setSession r.env.session.toNat (some (x.took s r))).modSession r.env.session.toNat
      (fun x => { x with executing := some r, queue := [] }) = s.began x r := by
    rw [modSession_eq _ e1, setSession_setSession]; rfl
  unfold State.runReq
  rw [e1]
  have hq : (x.took s r).queue = [r] := rfl
  simp only [hq]
  rw [e2]
  rfl

/-- A request that is taken is executed: the rest is what its session and the others still have to run. -/
theorem receive_takes (s : State) (x : Session) (r : Request) (ht : s.Takes x r) (hs : s.idleWork = none) :
    ∃ n, s.receive r = (((s.began x r).perform r.env.session.toNat (x.took s r) r).1.answered r
        ((s.began x r).perform r.env.session.toNat (x.took s r) r).2).drainN n := by
  have h3 := onSession_takes s x r ht
  obtain ⟨up, itf, good, op, session, bound, tag, _, free, _, _⟩ := ht
  have hh := session?_lt session
  have hr : s.receive r = (s.setSession r.env.session.toNat (some (x.took s r))).drainAll := by
    unfold State.receive
    simp only [up, itf, good, op, Bool.not_true, Bool.or_self, Bool.false_eq_true, if_false, session, bound, tag, beq_self_eq_true,
      Bool.and_self, if_true]
    rw [h3]
  have hx : (s.setSession r.env.session.toNat (some (x.took s r))).session? r.env.session.toNat = some (x.took s r) := by
    rw [session?_setSession _ _ _ _ hh, if_pos rfl]
  have hi := (idleWork_none_iff s).mp hs
  obtain ⟨n, hn⟩ := drainAll_one _ _ _ hx free (by simp [Session.took]) (by
    intro k hk hne y hy
    rw [session?_setSession _ _ _ _ hh, if_neg hne] at hy
    exact hi k hk y hy)
  exact ⟨n, by rw [hr, hn, runReq_one s x r session]⟩

/-! ### Responses -/

/-- STATUS and REQ_ID of a response (R513). -/
theorem responseBytes_fields (r : Request) (v h tag : Nat) (dup last : Bool) (st : Status) (data : Bytes) :
    fieldAt (responseBytes r v h tag dup last st data) 3 1 = st.code ∧
      fieldAt (responseBytes r v h tag dup last st data) 8 4 = r.env.reqId.toNat := by
  have hs : st.code < 2 ^ 8 := by cases st <;> decide
  have hr : r.env.reqId.toNat < 2 ^ 32 := r.env.reqId.isLt
  unfold responseBytes
  refine ⟨?_, ?_⟩
  · exact fieldAt_pack (l := [(4, v), (4, 1), (8, r.op.toNat), (1, b2n dup), (1, b2n last), (1, 0), (5, 0)]) _ rfl rfl rfl
      (by decide) hs
  · exact fieldAt_pack (l := [(4, v), (4, 1), (8, r.op.toNat), (1, b2n dup), (1, b2n last), (1, 0), (5, 0), (8, st.code), (16, h), (16, 0)])
      _ rfl rfl rfl (by decide) hr

/-- The data of a response follows its header (R513). -/
theorem responseBytes_data (r : Request) (v h tag : Nat) (dup last : Bool) (st : Status) (data : Bytes) :
    (responseBytes r v h tag dup last st data).drop 40 = data := by
  unfold responseBytes
  exact List.drop_left' (by simp [packBytes])

theorem State.AnsweredWith.plain {t : State} {r : Request} {st : Status} {b : Bytes} (h : t.AnsweredWith r st b) : t.Answered r st := by
  obtain ⟨m, h1, h2, h3, _⟩ := h
  exact ⟨m, h1, h2, h3⟩

/-- A message that waits in a transmit queue changes that queue alone. -/
theorem queueMessage_adds (s : State) (q : Fin 4) (itf peer : Nat) (msg : Bytes) :
    ∃ f, s.queueMessage q itf peer msg = { s with fnet := f } ∧ f.unqueued = s.fnet.unqueued := by
  unfold State.queueMessage
  split
  · rename_i p _
    split
    · refine ⟨_, rfl, ?_⟩
      simp only [FieldNet.unqueued, Vector.map_set]
      congr 1
      apply Vector.ext
      intro i hi
      rw [Vector.getElem_set]
      split
      · subst_vars; simp
      · rfl
    · exact ⟨s.fnet, rfl, rfl⟩
  · exact ⟨s.fnet, rfl, rfl⟩

/-- A response that is delivered has left the device; a mailbox or a transmit queue may have been filled. -/
theorem deliver_adds (s : State) (e : Envelope) (msg : Bytes) :
    ∃ l b c f, s.deliver e msg = { s with sent := l ++ s.sent, pci := { s.pci with busy := b, cells := c }, fnet := f } ∧
      Out.response e.itf.val e.peer.toNat msg ∈ l ∧ f.unqueued = s.fnet.unqueued := by
  unfold State.deliver
  dsimp only
  split
  · split
    · split
      · exact ⟨[.msix 0, .response e.itf.val e.peer.toNat msg], _, _, s.fnet, rfl, by simp, rfl⟩
      · exact ⟨[.response e.itf.val e.peer.toNat msg], _, _, s.fnet, rfl, by simp, rfl⟩
    · exact ⟨[.response e.itf.val e.peer.toNat msg], s.pci.busy, s.pci.cells, s.fnet, rfl, by simp, rfl⟩
  · obtain ⟨f, h1, h2⟩ := queueMessage_adds (s.emit (.response e.itf.val e.peer.toNat msg)) 1 e.itf.val e.peer.toNat msg
    exact ⟨[.response e.itf.val e.peer.toNat msg], s.pci.busy, s.pci.cells, f, h1, by simp, h2⟩

theorem setSession_eq {s : State} {h : Nat} (v : Option Session) (hh : h < 48) :
    s.setSession h v = { s with od := { s.od with sessions := s.od.sessions.set h v hh } } := by
  unfold State.setSession toFin?
  simp [hh]

/-- A request that executes in a session of its own is answered: what changes beside is sessions, mailboxes and the log. -/
theorem answered_rest (p : Reply) (r : Request) (last : Bool) (y : Session) (hl : p.later = false) (ho : r.op ≠ 2)
    (hy : p.state.session? r.env.session.toNat = some y) (hq : y.queue = [])
    (hi : ∀ k < 48, k ≠ r.env.session.toNat → ∀ z, p.state.session? k = some z → ¬ (z.executing = none ∧ z.queue ≠ [])) :
    ∃ ss b c l f, p.answered r last =
        { p.state with
          od := { p.state.od with sessions := ss }, pci := { p.state.pci with busy := b, cells := c }, fnet := f, sent := l ++ p.state.sent } ∧
      f.unqueued = p.state.fnet.unqueued ∧
      (p.answered r last).AnsweredWith r p.status p.data ∧ (p.answered r last).idleWork = none := by
  have hh := session?_lt hy
  unfold Reply.answered
  simp only [hl, Bool.false_eq_true, if_false, ho, false_and]
  rw [modSession_eq _ hy]
  generalize r.env.session.toNat = h at *
  have e1 : (p.state.setSession h (some { y with executing := none })).session? h = some { y with executing := none } := by
    rw [session?_setSession _ _ _ _ hh, if_pos rfl]
  unfold State.respond
  rw [e1]
  dsimp only
  rw [modSession_eq _ e1, setSession_setSession]
  generalize hm : responseBytes r _ _ _ _ _ _ _ = msg
  generalize hz : (Session.mk ..) = z
  have hzq : z.queue = [] := by rw [← hz]; exact hq
  obtain ⟨l, b, c, f, e, hmem, hf⟩ := deliver_adds (p.state.setSession h (some z)) r.env msg
  rw [setSession_eq _ hh] at hf
  rw [e, setSession_eq _ hh]
  refine ⟨_, b, c, l, f, rfl, hf, ⟨msg, List.mem_append_left _ hmem, ?_, ?_, ?_⟩, ?_⟩
  · rw [← hm]; exact (responseBytes_fields ..).1
  · rw [← hm]; exact (responseBytes_fields ..).2
  · rw [← hm]; exact responseBytes_data ..
  · rw [idleWork_none_iff]
    intro k hk w hw
    have hw' : (p.state.setSession h (some z)).session? k = some w := by rw [setSession_eq _ hh]; exact hw
    rw [session?_setSession _ _ _ _ hh] at hw'
    split at hw'
    · cases hw'; exact fun c => c.2 hzq
    · exact hi k hk ‹_› w hw'

/-- What a request row answers, once: the request is performed, its response leaves, and the rest is what the action left. -/
theorem odRow_answers (s : State) (x : Session) (r : Request) (p : Reply) (last : Bool) (y : Session) (ht : s.Takes x r) (hs : s.Settled)
    (hp : (s.began x r).perform r.env.session.toNat (x.took s r) r = (p, last)) (hl : p.later = false) (ho : r.op ≠ 2)
    (hy : p.state.session? r.env.session.toNat = some y) (hq : y.queue = [])
    (hi : ∀ k, k ≠ r.env.session.toNat → p.state.session? k = s.session? k)
    (hnl : s.Quiet p.state) (hcmd : p.state.squad.cmd = none) (hc : p.state.crewsShort = true → s.crewsShort = true) :
    ∃ t, odRow s r = .next t ∧ p.state.RespondsAs t r p.status ∧ t.AnsweredWith r p.status p.data := by
  obtain ⟨n, hn⟩ := receive_takes s x r ht hs.1
  rw [hp] at hn
  have hj := (idleWork_none_iff s).mp hs.1
  obtain ⟨ss, b, c, l, f, e, hf, ha, hw⟩ := answered_rest p r last y hl ho hy hq (fun k hk hne z hz => hj k hk z (by rw [← hi k hne]; exact hz))
  rw [drainN_idle _ _ hw] at hn
  unfold odRow
  rw [hn]
  have hcs : (p.answered r last).crewsShort = true → s.crewsShort = true := by
    intro h; refine hc ?_; rw [← h, e]; exact (crewsShort_congr _ _ rfl rfl rfl rfl rfl).symm
  obtain ⟨t, ht, he⟩ := lateEnd_ends s (p.answered r last) (nlSettle_quiet _ _ (quiet_congr (by rw [e]) hnl)) ⟨hw, by rw [e]; exact hcmd⟩
    hcs
  have hb : t.AnsweredWith r p.status p.data := by
    obtain ⟨m, hm, h1, h2⟩ := ha
    exact ⟨m, he.sent _ hm, h1, h2⟩
  refine ⟨t, ht, ⟨hb.plain, ?_, ?_, ?_⟩, hb⟩
  · obtain ⟨d, l2, rfl, _⟩ := he
    rw [e]; unfold State.bare; dsimp only; rw [hf]
  · intro h; rw [he.state (by rw [e]; exact h), e]
  · intro h; exact he.runs (by rw [e]; exact h)

theorem odRow_responds (s : State) (x : Session) (r : Request) (p : Reply) (last : Bool) (y : Session) (ht : s.Takes x r) (hs : s.Settled)
    (hp : (s.began x r).perform r.env.session.toNat (x.took s r) r = (p, last)) (hl : p.later = false) (ho : r.op ≠ 2)
    (hy : p.state.session? r.env.session.toNat = some y) (hq : y.queue = [])
    (hi : ∀ k, k ≠ r.env.session.toNat → p.state.session? k = s.session? k)
    (hnl : s.Quiet p.state) (hcmd : p.state.squad.cmd = none) (hc : p.state.crewsShort = true → s.crewsShort = true) :
    ∃ t, odRow s r = .next t ∧ p.state.RespondsAs t r p.status :=
  let ⟨t, h1, h2, _⟩ := odRow_answers s x r p last y ht hs hp hl ho hy hq hi hnl hcmd hc
  ⟨t, h1, h2⟩

end Sys2Proof.Machine
end

