-- ==== Sys2Proof/Laws/OdWrite.lean ====
section
/-! SUPPORT. What a WRITE of a session does, by the kind of the object it names. -/

namespace Sys2Proof.Machine

open Sys2Proof

@[simp] theorem began_dev (s : State) (x : Session) (r : Request) : (s.began x r).dev = s.dev := by simp [State.began]
@[simp] theorem began_boot (s : State) (x : Session) (r : Request) : (s.began x r).boot = s.boot := by simp [State.began]
@[simp] theorem began_cyc (s : State) (x : Session) (r : Request) : (s.began x r).cyc = s.cyc := by simp [State.began]
@[simp] theorem began_field (s : State) (x : Session) (r : Request) : (s.began x r).field = s.field := by simp [State.began]
@[simp] theorem began_cams (s : State) (x : Session) (r : Request) : (s.began x r).cams = s.cams := by simp [State.began]
@[simp] theorem began_cox (s : State) (x : Session) (r : Request) : (s.began x r).cox = s.cox := by simp [State.began]
@[simp] theorem began_crews (s : State) (x : Session) (r : Request) : (s.began x r).crews = s.crews := by simp [State.began]
@[simp] theorem began_det (s : State) (x : Session) (r : Request) : (s.began x r).det = s.det := by simp [State.began]
@[simp] theorem began_kv (s : State) (x : Session) (r : Request) : (s.began x r).kv = s.kv := by simp [State.began]
@[simp] theorem began_retune (s : State) (x : Session) (r : Request) : (s.began x r).retune = s.retune := by simp [State.began]
@[simp] theorem began_squad (s : State) (x : Session) (r : Request) : (s.began x r).squad = s.squad := by simp [State.began]
@[simp] theorem began_mem (s : State) (x : Session) (r : Request) : (s.began x r).mem = s.mem := by simp [State.began]
@[simp] theorem began_units (s : State) (x : Session) (r : Request) : (s.began x r).units = s.units := by simp [State.began]
@[simp] theorem began_tu (s : State) (x : Session) (r : Request) : (s.began x r).tu = s.tu := by simp [State.began]
@[simp] theorem began_fnet (s : State) (x : Session) (r : Request) : (s.began x r).fnet = s.fnet := by simp [State.began]
@[simp] theorem began_saf (s : State) (x : Session) (r : Request) : (s.began x r).saf = s.saf := by simp [State.began]
@[simp] theorem began_recs (s : State) (x : Session) (r : Request) : (s.began x r).recs = s.recs := by simp [State.began]
@[simp] theorem began_pci (s : State) (x : Session) (r : Request) : (s.began x r).pci = s.pci := by simp [State.began]
@[simp] theorem began_sent (s : State) (x : Session) (r : Request) : (s.began x r).sent = s.sent := by simp [State.began]
@[simp] theorem began_fresh (s : State) (x : Session) (r : Request) : (s.began x r).fresh = s.fresh := by simp [State.began]
@[simp] theorem began_pending (s : State) (x : Session) (r : Request) : (s.began x r).pending = s.pending := by simp [State.began]

theorem setSession_committed (s : State) (h : Nat) (v : Option Session) : (s.setSession h v).od.committed = s.od.committed := by
  unfold State.setSession; split <;> rfl

theorem setSession_shadows (s : State) (h : Nat) (v : Option Session) : (s.setSession h v).od.shadows = s.od.shadows := by
  unfold State.setSession; split <;> rfl

theorem setSession_waiting (s : State) (h : Nat) (v : Option Session) : (s.setSession h v).od.waiting = s.od.waiting := by
  unfold State.setSession; split <;> rfl

theorem setSession_lints (s : State) (h : Nat) (v : Option Session) : (s.setSession h v).od.lints = s.od.lints := by
  unfold State.setSession; split <;> rfl

@[simp] theorem began_committed (s : State) (x : Session) (r : Request) : (s.began x r).od.committed = s.od.committed :=
  setSession_committed _ _ _

@[simp] theorem began_shadows (s : State) (x : Session) (r : Request) : (s.began x r).od.shadows = s.od.shadows :=
  setSession_shadows _ _ _

@[simp] theorem began_waiting (s : State) (x : Session) (r : Request) : (s.began x r).od.waiting = s.od.waiting :=
  setSession_waiting _ _ _

@[simp] theorem began_lints (s : State) (x : Session) (r : Request) : (s.began x r).od.lints = s.od.lints :=
  setSession_lints _ _ _

/-- An entry's committed value depends on the committed store and the part alone. -/
theorem val_congr {s t : State} (h1 : t.od.committed = s.od.committed) (h2 : t.boot.fuses = s.boot.fuses) (e : Ent) (i k : Nat) :
    t.val e i k = s.val e i k := by
  unfold State.val State.part; rw [h1, h2]

@[simp] theorem began_val (s : State) (x : Session) (r : Request) (e : Ent) (i k : Nat) : (s.began x r).val e i k = s.val e i k :=
  val_congr (by simp) (by simp) _ _ _

@[simp] theorem began_num (s : State) (x : Session) (r : Request) (e : Ent) (i : Nat) : (s.began x r).num e i = s.num e i := by
  simp [State.num]

@[simp] theorem began_numAt (s : State) (x : Session) (r : Request) (e : Ent) (i k : Nat) : (s.began x r).numAt e i k = s.numAt e i k := by
  simp [State.numAt]

@[simp] theorem began_flag (s : State) (x : Session) (r : Request) (e : Ent) (i : Nat) : (s.began x r).flag e i = s.flag e i := by
  simp [State.flag]

@[simp] theorem began_crewCount (s : State) (x : Session) (r : Request) : (s.began x r).crewCount = s.crewCount := by
  simp [State.crewCount, State.part]

@[simp] theorem began_mapUsed (s : State) (x : Session) (r : Request) (b : Bool) : (s.began x r).mapUsed b = s.mapUsed b := by
  simp [State.mapUsed]

@[simp] theorem began_writeAccess (s : State) (x : Session) (r : Request) (n : Nat) (c : Bool) (o : Obj) (i k : Nat) :
    (s.began x r).writeAccess n c o i k = s.writeAccess n c o i k := by
  simp [State.writeAccess]

@[simp] theorem began_crewsShort (s : State) (x : Session) (r : Request) : (s.began x r).crewsShort = s.crewsShort :=
  crewsShort_congr _ _ (by simp) (by simp) (by simp) (by simp) (by simp)

/-- The sessions while a request executes. -/
theorem began_session (s : State) (x : Session) (r : Request) (hx : s.session? r.env.session.toNat = some x) :
    ∃ y, (s.began x r).session? r.env.session.toNat = some y ∧ y.queue = [] := by
  unfold State.began
  rw [session?_setSession _ _ _ _ (session?_lt hx), if_pos rfl]
  exact ⟨_, rfl, rfl⟩

theorem began_others (s : State) (x : Session) (r : Request) (hx : s.session? r.env.session.toNat = some x) (k : Nat)
    (hk : k ≠ r.env.session.toNat) : (s.began x r).session? k = s.session? k := by
  unfold State.began
  rw [session?_setSession _ _ _ _ (session?_lt hx), if_neg hk]

theorem session?_congr {s t : State} (h : t.od.sessions = s.od.sessions) (k : Nat) : t.session? k = s.session? k := by
  unfold State.session?; rw [h]

/-- A request whose action leaves the sessions alone. -/
theorem odRow_plain (s : State) (x : Session) (r : Request) (p : Reply) (last : Bool) (ht : s.Takes x r) (hs : s.Settled)
    (hp : (s.began x r).perform r.env.session.toNat (x.took s r) r = (p, last)) (hl : p.later = false) (ho : r.op ≠ 2)
    (hses : p.state.od.sessions = (s.began x r).od.sessions)
    (hn : s.Quiet p.state) (hcmd : p.state.squad.cmd = none) (hc : p.state.crewsShort = true → s.crewsShort = true) :
    ∃ t, odRow s r = .next t ∧ p.state.RespondsAs t r p.status := by
  obtain ⟨y, hy, hq⟩ := began_session s x r ht.session
  refine odRow_responds s x r p last y ht hs hp hl ho (by rw [session?_congr hses]; exact hy) hq ?_ hn hcmd hc
  intro k hk
  rw [session?_congr hses]; exact began_others s x r ht.session k hk

/-- A WRITE of a scalar entry: access and length in order. -/
theorem perform_scalar (s : State) (x : Session) (r : Request) (e : Ent) (i k : Nat) (hm : s.MayWrite x r (.ent e i k))
    (hop : r.op = 5) (hty : e.row.ty ≠ .domain) (hlen : r.data.length = e.row.ty.size) (ho : r.offset = 0) :
    (s.began x r).perform r.env.session.toNat (x.took s r) r =
      ((s.began x r).writeObj (.session r.env.session.toNat r.env.reqId.toNat) (some r.env.session.toNat) (some r.env.reqId.toNat)
        r.index.toNat r.sub.toNat (.ent e i k) r.data, false) := by
  have hf : (s.began x r).lengthFault (.ent e i k) r.data.length = none := by
    simp [State.lengthFault, hty, hlen]
  have ht : (Obj.ent e i k).ty ≠ .domain := hty
  have ha := hm.access
  unfold State.perform
  rw [hop]
  unfold State.doWrite
  simp only [began_crewCount, hm.object, began_writeAccess, Session.took, ha, Bool.not_true, Bool.false_eq_true, if_false, ht, hf, ho,
    ne_eq, not_true_eq_false]
  rfl

/-- A WRITE of a WO scalar entry does what its rule says, and is answered. -/
theorem wo_row (s : State) (x : Session) (r : Request) (e : Ent) (i k : Nat) (p : Reply) (hm : s.MayWrite x r (.ent e i k))
    (hop : r.op = 5) (hty : e.row.ty ≠ .domain) (hlen : r.data.length = e.row.ty.size) (ho : r.offset = 0) (hwo : e.row.acc = .wo)
    (hrsv : e.rsvOk (.num (leNat r.data)) = true) (hrange : e.rangeOk i k (.num (leNat r.data)) = true)
    (hact : (s.began x r).writeAct (.session r.env.session.toNat r.env.reqId.toNat) (some r.env.session.toNat) (some r.env.reqId.toNat) e i
      (.num (leNat r.data)) = p) (hl : p.later = false)
    (hses : p.state.od.sessions = (s.began x r).od.sessions)
    (hn : s.Quiet p.state) (hcmd : p.state.squad.cmd = none) (hc : p.state.crewsShort = s.crewsShort) :
    ∃ t, odRow s r = .next t ∧ p.state.RespondsAs t r p.status := by
  refine odRow_plain s x r p false hm.takes hm.settled ?_ hl (by rw [hop]; decide) hses hn hcmd (by rw [hc]; exact id)
  rw [perform_scalar s x r e i k hm hop hty hlen ho]
  unfold State.writeObj
  simp only [hty, if_false, hrsv, hrange, Bool.not_true, Bool.false_eq_true, hwo, if_true, hact]

/-- A WRITE of a writable scalar entry that is LIVE takes effect at once (R525, R526). -/
theorem live_row (s : State) (x : Session) (r : Request) (e : Ent) (i k : Nat) (hm : s.MayWrite x r (.ent e i k))
    (hop : r.op = 5) (hty : e.row.ty ≠ .domain) (hlen : r.data.length = e.row.ty.size) (ho : r.offset = 0) (hwo : e.row.acc ≠ .wo)
    (hrsv : e.rsvOk (.num (leNat r.data)) = true) (hrange : e.rangeOk i k (.num (leNat r.data)) = true)
    (hst : s.writeAllowed e i = true) (hlive : e.row.live = true)
    (hc : (s.setVal e i k (.num (leNat r.data))).crewsShort = true → s.crewsShort = true) :
    ∃ t, odRow s r = .next t ∧ (s.setVal e i k (.num (leNat r.data))).RespondsAs t r .ok := by
  have hb : (s.began x r).writeAllowed e i = true := by
    rw [← hst]; simp [State.writeAllowed]
  obtain ⟨t, h1, h2, h3, h4, h5⟩ := odRow_plain s x r (.ok ((s.began x r).setVal e i k (.num (leNat r.data)))) false hm.takes hm.settled
    (by
      rw [perform_scalar s x r e i k hm hop hty hlen ho]
      unfold State.writeObj
      simp only [hty, if_false, hrsv, hrange, Bool.not_true, Bool.false_eq_true, hwo, hb, hlive, if_true])
    rfl (by rw [hop]; decide) rfl (quiet_same (by simp [Reply.ok])) (by simpa [Reply.ok] using hm.settled.2)
    (by intro h; refine hc ?_; rw [← h]; symm; exact crewsShort_congr _ _ (by simp [Reply.ok, State.part]) (by simp [Reply.ok]) (by simp [Reply.ok]) (by simp [Reply.ok])
          (by simp [Reply.ok]))
  refine ⟨t, h1, h2, ?_, ?_, ?_⟩
  · rw [h3]; simp [Reply.ok, State.bare, State.setVal, State.part]
  · intro h; rw [h4 (by simpa [Reply.ok] using h)]; simp [Reply.ok]
  · intro h; exact h5 (by simpa [Reply.ok] using h)

/-- A WRITE of a writable scalar entry that is not LIVE goes to its group's shadows (R525). -/
theorem shadow_row (s : State) (x : Session) (r : Request) (e : Ent) (i k : Nat) (hm : s.MayWrite x r (.ent e i k))
    (hop : r.op = 5) (hty : e.row.ty ≠ .domain) (hlen : r.data.length = e.row.ty.size) (ho : r.offset = 0) (hwo : e.row.acc ≠ .wo)
    (hrsv : e.rsvOk (.num (leNat r.data)) = true) (hrange : e.rangeOk i k (.num (leNat r.data)) = true)
    (hst : s.writeAllowed e i = true) (hlive : e.row.live = false) :
    ∃ t, odRow s r = .next t ∧
      ({ s with od := { s.od with shadows := amInsert s.od.shadows (e.key i k) (.num (leNat r.data)) } } : State).RespondsAs t r .ok := by
  have hb : (s.began x r).writeAllowed e i = true := by
    rw [← hst]; simp [State.writeAllowed]
  obtain ⟨t, h1, h2, h3, h4, h5⟩ := odRow_plain s x r (.ok { s.began x r with od := { (s.began x r).od with
      shadows := amInsert (s.began x r).od.shadows (e.key i k) (.num (leNat r.data)) } }) false hm.takes hm.settled
    (by
      rw [perform_scalar s x r e i k hm hop hty hlen ho]
      unfold State.writeObj
      simp only [hty, if_false, hrsv, hrange, Bool.not_true, Bool.false_eq_true, hwo, hb, hlive])
    rfl (by rw [hop]; decide) rfl (quiet_same (by simp [Reply.ok])) (by simpa [Reply.ok] using hm.settled.2)
    (by
      intro h; rw [← h]; symm
      refine (crewsShort_congr _ _ ?_ ?_ ?_ ?_ ?_).trans (began_crewsShort s x r) <;> rfl)
  refine ⟨t, h1, h2, ?_, ?_, ?_⟩
  · rw [h3]; simp [Reply.ok, State.bare]
  · intro h; rw [h4 (by simpa [Reply.ok] using h)]; simp [Reply.ok]
  · intro h; exact h5 (by simpa [Reply.ok] using h)

/-! ### Segments (R524) -/

theorem took_role (x : Session) (s : State) (r : Request) : (x.took s r).role = x.role := rfl

theorem began_drop (s : State) (x : Session) (r : Request) (hx : s.session? r.env.session.toNat = some x) :
    (s.began x r).dropAssembly r.env.session.toNat = s.began { x with assembly := none } r := by
  unfold State.dropAssembly State.began
  rw [modSession_eq _ (by rw [session?_setSession _ _ _ _ (session?_lt hx), if_pos rfl]), setSession_setSession]

theorem holds_have (x : Session) (r : Request) (b : Bytes) (h : x.Holds r b) :
    x.assembled (placeKey r.index.toNat r.sub.toNat) r.offset.toNat = some b := by
  unfold Session.assembled
  rcases h with ⟨h, rfl⟩ | ⟨h1, h2⟩
  · simp [h]
  · by_cases z : r.offset.toNat = 0
    · have : b = [] := List.length_eq_zero_iff.mp (by omega)
      simp [z, this]
    · simp [h1, h2]

/-- `RP_LOAD` may be as long before a request executes as while it does. -/
theorem began_maxLen (s : State) (x : Session) (r : Request) (e : Ent) : (s.began x r).maxLen e = s.maxLen e := by
  unfold State.maxLen State.granules State.loaded State.small State.part
  simp only [began_cox, began_boot]

/-- The last segment of a value: the whole value is written. -/
theorem perform_last (s : State) (x : Session) (r : Request) (e : Ent) (i k : Nat) (b : Bytes) (hm : s.MayWrite x r (.ent e i k))
    (hop : r.op = 5) (hty : e.row.ty = .domain) (hb : x.Holds r b) (hlast : r.env.last = true)
    (hlen : s.lengthFault (.ent e i k) (b ++ r.data).length = none)
    (hload : (placeKey r.index.toNat r.sub.toNat == Ent.RP_LOAD.key 0 0) = false ∨
      (s.began x r).loadAssembly (some r.env.session.toNat) none = false) :
    (s.began x r).perform r.env.session.toNat (x.took s r) r =
      ((s.began { x with assembly := none } r).writeObj (.session r.env.session.toNat r.env.reqId.toNat) (some r.env.session.toNat)
        (some r.env.reqId.toNat) r.index.toNat r.sub.toNat (.ent e i k) (b ++ r.data), false) := by
  have hf : (s.began x r).lengthFault (.ent e i k) (b ++ r.data).length = none := by
    rw [← hlen]
    unfold State.lengthFault
    simp [began_maxLen]
  have ht : (Obj.ent e i k).ty = .domain := hty
  have ha := hm.access
  have hh : (x.took s r).assembled _ _ = some b := holds_have x r b hb
  unfold State.perform
  rw [hop]
  show (State.doWrite _ _ _ _, false) = _
  unfold State.doWrite
  simp only [began_crewCount, hm.object, began_writeAccess, took_role, ha, Bool.not_true, Bool.false_eq_true, if_false, ht, if_true]
  unfold State.writeSegment
  simp only [hh, hlast, if_true, hf, not_true_eq_false, and_false, if_false]
  rw [began_drop s x r hm.takes.session]
  rcases hload with hl | hl
  · simp [hl]
  · simp [hl]

/-- The last segment of the value of a WO entry does what its rule says, and is answered. -/
theorem seg_row (s : State) (x : Session) (r : Request) (e : Ent) (i k : Nat) (b : Bytes) (p : Reply) (hm : s.MayWrite x r (.ent e i k))
    (hop : r.op = 5) (hty : e.row.ty = .domain) (hb : x.Holds r b) (hlast : r.env.last = true)
    (hlen : s.lengthFault (.ent e i k) (b ++ r.data).length = none)
    (hload : (placeKey r.index.toNat r.sub.toNat == Ent.RP_LOAD.key 0 0) = false ∨
      (s.began x r).loadAssembly (some r.env.session.toNat) none = false)
    (hwo : e.row.acc = .wo) (hrange : e.rangeOk i k (.bytes (b ++ r.data)) = true)
    (hact : (s.began { x with assembly := none } r).writeAct (.session r.env.session.toNat r.env.reqId.toNat) (some r.env.session.toNat)
      (some r.env.reqId.toNat) e i (.bytes (b ++ r.data)) = p) (hl : p.later = false)
    (hses : p.state.od.sessions = (s.began { x with assembly := none } r).od.sessions)
    (hn : s.Quiet p.state) (hcmd : p.state.squad.cmd = none) (hc : p.state.crewsShort = s.crewsShort) :
    ∃ t, odRow s r = .next t ∧ p.state.RespondsAs t r p.status := by
  have hx := hm.takes.session
  have h48 := session?_lt hx
  have hk : ∀ k, p.state.session? k = (s.began { x with assembly := none } r).session? k := session?_congr hses
  refine odRow_responds s x r p false _ hm.takes hm.settled
    (by
      rw [perform_last s x r e i k b hm hop hty hb hlast hlen hload]
      unfold State.writeObj
      simp only [hty, if_true, Ent.rsvOk, hrange, Bool.not_true, Bool.false_eq_true, if_false, hwo, hact])
    hl (by rw [hop]; decide)
    (by rw [hk]; unfold State.began; rw [session?_setSession _ _ _ _ h48, if_pos rfl]) rfl
    (by intro j hj; rw [hk]; unfold State.began; rw [session?_setSession _ _ _ _ h48, if_neg hj]) hn hcmd (by rw [hc]; exact id)

/-- A segment that is not the last one joins what its session holds (R524), and is answered OK. -/
theorem segment_kept (s : State) (x : Session) (r : Request) (e : Ent) (i k : Nat) (b : Bytes) (hm : s.MayWrite x r (.ent e i k))
    (hop : r.op = 5) (hty : e.row.ty = .domain) (hb : x.Holds r b) (hlast : r.env.last = false)
    (hlen : (b ++ r.data).length ≤ s.maxLen e) (hst : r.offset ≠ 0 ∨ s.firstState (.ent e i k) = true)
    (hload : (placeKey r.index.toNat r.sub.toNat == Ent.RP_LOAD.key 0 0) = false ∨
      (s.began x r).loadAssembly (some r.env.session.toNat) none = false) :
    ∃ t, odRow s r = .next t ∧ s.RespondsAs t r .ok := by
  have hx := hm.takes.session
  have h48 := session?_lt hx
  have ht : (Obj.ent e i k).ty = .domain := hty
  have ha := hm.access
  have hh : (x.took s r).assembled _ _ = some b := holds_have x r b hb
  have hml := began_maxLen s x r e
  have hfs : (s.began x r).firstState (.ent e i k) = s.firstState (.ent e i k) := by
    unfold State.firstState State.mayStage State.writeAllowed
    simp
  have hs1 : ∀ y : Session, (s.began y r).session? r.env.session.toNat = some { y with
      lastMsg := s.now, high := r.env.reqId.toNat, stored := y.stored.filter (fun e => inWindow e.1 r.env.reqId.toNat)
      queue := [], executing := some r } := by
    intro y; unfold State.began; rw [session?_setSession _ _ _ _ h48, if_pos rfl]
  have hp : (s.began x r).perform r.env.session.toNat (x.took s r) r =
      (.ok (s.began { x with assembly := some (placeKey r.index.toNat r.sub.toNat, b ++ r.data) } r), false) := by
    unfold State.perform
    rw [hop]
    show (State.doWrite _ _ _ _, false) = _
    unfold State.doWrite
    simp only [began_crewCount, hm.object, began_writeAccess, took_role, ha, Bool.not_true, Bool.false_eq_true, if_false, ht, if_true]
    unfold State.writeSegment
    simp only [hh, hlast, Bool.false_eq_true, if_false, hml, Nat.not_lt.mpr hlen, hfs]
    rw [began_drop s x r hx, modSession_eq _ (hs1 _)]
    have hset : (s.began { x with assembly := none } r).setSession r.env.session.toNat (some { x with
        lastMsg := s.now, high := r.env.reqId.toNat, stored := x.stored.filter (fun e => inWindow e.1 r.env.reqId.toNat)
        queue := [], executing := some r, assembly := some (placeKey r.index.toNat r.sub.toNat, b ++ r.data) }) =
        s.began { x with assembly := some (placeKey r.index.toNat r.sub.toNat, b ++ r.data) } r := by
      unfold State.began; rw [setSession_setSession]
    have h0 : r.offset = 0 ↔ r.offset.toNat = 0 := by
      constructor
      · intro h; rw [h]; rfl
      · intro h; exact BitVec.eq_of_toNat_eq h
    have c1 : ¬ (r.offset.toNat = 0 ∧ ¬ s.firstState (.ent e i k) = true ∧ True) := by
      rintro ⟨a, b, _⟩
      rcases hst with h | h
      · exact h (h0.mpr a)
      · exact b h
    have c2 : ¬ (r.offset.toNat = 0 ∧ (placeKey r.index.toNat r.sub.toNat == Ent.RP_LOAD.key 0 0) = true ∧
        s.firstState (.ent e i k) = true ∧ (s.began x r).loadAssembly (some r.env.session.toNat) none = true) := by
      rintro ⟨_, a, _, b⟩
      rcases hload with h | h
      · rw [h] at a; cases a
      · rw [h] at b; cases b
    simp only [not_false_eq_true, c1, c2, if_false]
    rw [hset]
  obtain ⟨t, h1, h2, h3, h4, h5⟩ := odRow_responds s x r _ false _ hm.takes hm.settled hp rfl (by rw [hop]; decide) (hs1 _) rfl
    (by intro j hj; unfold Reply.ok State.began; dsimp only; rw [session?_setSession _ _ _ _ h48, if_neg hj])
    (quiet_same (by simp [Reply.ok])) (by simpa [Reply.ok] using hm.settled.2) (by simp [Reply.ok])
  refine ⟨t, h1, h2, ?_, ?_, ?_⟩
  · rw [h3]; simp [Reply.ok, State.bare]
  · intro h; rw [h4 (by simpa [Reply.ok] using h)]; simp [Reply.ok]
  · intro h; exact h5 (by simpa [Reply.ok] using h)

end Sys2Proof.Machine
end

