-- ==== Sys2Proof/Laws/Kernel.lean ====
section
/-! SUPPORT. The kernel of a state: what the end of a row and the crews in service depend on. Most operations leave it alone; one lemma
for each says so. -/

namespace Sys2Proof.Machine

open Sys2Proof

/-! ### Updates beside the kernel -/

@[simp] theorem kernel_modCam (s : State) (p : Fin 12) (f : CamPort → CamPort) : (s.modCam p f).kernel = s.kernel := rfl
@[simp] theorem kernel_modField (s : State) (f : Field → Field) : (s.modField f).kernel = s.kernel := rfl
@[simp] theorem kernel_modChan (s : State) (n : Fin 48) (f : FieldCh → FieldCh) : (s.modChan n f).kernel = s.kernel := rfl
@[simp] theorem kernel_modEnc (s : State) (n : Fin 8) (f : Encoder → Encoder) : (s.modEnc n f).kernel = s.kernel := rfl
@[simp] theorem kernel_modDiv (s : State) (n : Fin 16) (f : Divider → Divider) : (s.modDiv n f).kernel = s.kernel := rfl
@[simp] theorem kernel_modSlot (s : State) (n : Fin 32) (f : TrigSlot → TrigSlot) : (s.modSlot n f).kernel = s.kernel := rfl
@[simp] theorem kernel_modFire (s : State) (f : FireList → FireList) : (s.modFire f).kernel = s.kernel := rfl
@[simp] theorem kernel_modDet (s : State) (f : Det → Det) : (s.modDet f).kernel = s.kernel := rfl
@[simp] theorem kernel_modRecs (s : State) (f : Records → Records) : (s.modRecs f).kernel = s.kernel := rfl
@[simp] theorem kernel_modTu (s : State) (f : TimeUnit → TimeUnit) : (s.modTu f).kernel = s.kernel := rfl
@[simp] theorem kernel_modCyc (s : State) (f : Cyclic → Cyclic) : (s.modCyc f).kernel = s.kernel := rfl
@[simp] theorem kernel_modMem (s : State) (f : Mem → Mem) : (s.modMem f).kernel = s.kernel := rfl
@[simp] theorem kernel_modFnet (s : State) (p : Fin 2) (f : FnetPort → FnetPort) : (s.modFnet p f).kernel = s.kernel := rfl
@[simp] theorem kernel_emit (s : State) (o : Out) : (s.emit o).kernel = s.kernel := rfl
@[simp] theorem kernel_draw (s : State) : s.draw.kernel = s.kernel := rfl
@[simp] theorem kernel_lintBy (s : State) (l : Lint) (i n : Nat) : (s.lintBy l i n).kernel = s.kernel := rfl
@[simp] theorem kernel_lintAt (s : State) (l : Lint) (i : Nat) : (s.lintAt l i).kernel = s.kernel := rfl
@[simp] theorem kernel_lint (s : State) (l : Lint) : (s.lint l).kernel = s.kernel := rfl
@[simp] theorem kernel_lintClear (s : State) (l : Lint) (i : Nat) : (s.lintClear l i).kernel = s.kernel := rfl
@[simp] theorem kernel_modList (s : State) (i : Nat) (f : XList → XList) : (s.modList i f).kernel = s.kernel := rfl
@[simp] theorem kernel_setOar (s : State) (c l : Nat) (o : Option Oar) : (s.setOar c l o).kernel = s.kernel := rfl
@[simp] theorem kernel_modShell (s : State) (c p : Nat) (f : Shell → Shell) : (s.modShell c p f).kernel = s.kernel := rfl
@[simp] theorem kernel_setOarMem (s : State) (c l : Nat) (m : Memory) : (s.setOarMem c l m).kernel = s.kernel := rfl

@[simp] theorem kernel_modKv (s : State) (p : Nat) (f : KvPart → KvPart) : (s.modKv p f).kernel = s.kernel := by
  unfold State.modKv; split <;> rfl

@[simp] theorem kernel_modRt (s : State) (p : Nat) (f : Retune → Retune) : (s.modRt p f).kernel = s.kernel := by
  unfold State.modRt; split <;> rfl

@[simp] theorem kernel_modSwath (s : State) (p c : Nat) (f : Swath → Swath) : (s.modSwath p c f).kernel = s.kernel := by
  unfold State.modSwath; split <;> rfl

@[simp] theorem kernel_modHeat (s : State) (k : Nat) (f : Heat → Heat) : (s.modHeat k f).kernel = s.kernel := by
  unfold State.modHeat; split <;> rfl

theorem kernel_modCox (s : State) (f : Cox → Cox) (h : (f s.cox).packages = s.cox.packages) : (s.modCox f).kernel = s.kernel := by
  simp [State.kernel, h]

theorem kernel_modSaf (s : State) (f : Safety → Safety) (h : (f s.saf).held = s.saf.held) : (s.modSaf f).kernel = s.kernel := by
  simp [State.kernel, h]

theorem kernel_modBoot (s : State) (f : Boot → Boot) (h : (f s.boot).fuses = s.boot.fuses) : (s.modBoot f).kernel = s.kernel := by
  simp [State.kernel, h]

/-- A fold over operations that leave a part of the state alone. -/
theorem each_same {α β : Type} (g : State → β) (s : State) (l : List α) (f : State → α → State) (h : ∀ u x, g (f u x) = g u) :
    g (s.each l f) = g s := by
  unfold State.each
  induction l generalizing s with
  | nil => rfl
  | cons x l ih => rw [List.foldl_cons, ih, h]

/-- A fold over operations that leave the kernel alone. -/
theorem kernel_each {α : Type} (s : State) (l : List α) (f : State → α → State) (h : ∀ u x, (f u x).kernel = u.kernel) :
    (s.each l f).kernel = s.kernel := each_same State.kernel s l f h

/-! ### What the kernel decides -/

theorem crewsShort_kernel {s t : State} (h : t.kernel = s.kernel) : t.crewsShort = s.crewsShort := by
  unfold State.kernel at h
  injection h with h1 h2 h3 h4 h5 h6 h7 h8 h9
  exact crewsShort_congr s t h3 h2 h5 h6 h7

theorem dev_kernel {s t : State} (h : t.kernel = s.kernel) : t.dev = s.dev := congrArg Kernel.dev h

theorem squad_kernel {s t : State} (h : t.kernel = s.kernel) : t.squad = s.squad := congrArg Kernel.squad h

theorem sessions_kernel {s t : State} (h : t.kernel = s.kernel) : t.od.sessions = s.od.sessions := congrArg Kernel.sessions h

theorem committed_kernel {s t : State} (h : t.kernel = s.kernel) : t.od.committed = s.od.committed := congrArg Kernel.committed h

theorem fuses_kernel {s t : State} (h : t.kernel = s.kernel) : t.boot.fuses = s.boot.fuses := congrArg Kernel.fuses h

theorem val_kernel {s t : State} (h : t.kernel = s.kernel) (e : Ent) (i k : Nat) : t.val e i k = s.val e i k :=
  val_congr (committed_kernel h) (fuses_kernel h) e i k

theorem num_kernel {s t : State} (h : t.kernel = s.kernel) (e : Ent) (i : Nat) : t.num e i = s.num e i := by
  unfold State.num; rw [val_kernel h]

theorem idleWork_sessions {s t : State} (h : t.od.sessions = s.od.sessions) : t.idleWork = s.idleWork := by
  unfold State.idleWork State.session?; rw [h]

/-- A row whose effect leaves the kernel alone ends as it is. -/
theorem finish_kernel {s t : State} (h : t.kernel = s.kernel) : ∃ u, finish s t = .next u ∧ t.EndsAs u :=
  finish_ends s t (by rw [crewsShort_kernel h]; exact id)

/-- A row whose effect leaves the kernel alone, with nothing waiting, ends as it is. -/
theorem lateEnd_kernel {s t : State} (h : t.kernel = s.kernel) (hs : s.Settled) : ∃ u, lateEnd s t = .next u ∧ t.EndsAs u :=
  lateEnd_ends s t (nlSettle_same _ _ (by rw [squad_kernel h]))
    ⟨by rw [idleWork_sessions (sessions_kernel h)]; exact hs.1, by rw [squad_kernel h]; exact hs.2⟩
    (by rw [crewsShort_kernel h]; exact id)

/-- A row that changes of the kernel the device block and the squad beside its ports and its command, with nothing waiting. -/
theorem lateEnd_dev {s t : State} (d : Device) (q : Squad) (h : t.kernel = { s.kernel with dev := d, squad := q })
    (hp : q.ports = s.squad.ports) (hc : q.cmd = s.squad.cmd) (hs : s.Settled) : ∃ u, lateEnd s t = .next u ∧ t.EndsAs u := by
  unfold State.kernel at h
  injection h with h1 h2 h3 h4 h5 h6 h7 h8 h9
  refine lateEnd_ends s t (nlSettle_same _ _ (by rw [h8, hp])) ⟨?_, ?_⟩ ?_
  · rw [idleWork_sessions h4]; exact hs.1
  · rw [h8, hc]; exact hs.2
  · rw [crewsShort_congr s t h3 h2 h5 h6 h7]; exact id

/-- A row that ends outside operation, with the sessions and the squad as they were and nothing waiting. -/
theorem lateEnd_asleep {s t : State} (h1 : t.od.sessions = s.od.sessions) (h2 : t.squad = s.squad) (hs : s.Settled)
    (ho : t.dev.state = .boot ∨ t.dev.state = .recovery ∨ t.dev.state = .reset ∨ t.dev.state = .off) :
    ∃ u, lateEnd s t = .next u ∧ t.EndsAs u :=
  lateEnd_off s t (by rw [h2]) ⟨by rw [idleWork_sessions h1]; exact hs.1, by rw [h2]; exact hs.2⟩ ho

/-! ### Records and the fire list -/

@[simp] theorem kernel_lostSwath (s : State) (p c : Nat) : (s.lostSwath p c).kernel = s.kernel := by
  unfold State.lostSwath
  split
  · split
    · rfl
    · dsimp only
      rw [kernel_modSaf _ _ rfl, kernel_modSwath]
  · rfl

@[simp] theorem kernel_lostByRecord (s : State) (r : VerdictRec) : (s.lostByRecord r).kernel = s.kernel := by
  unfold State.lostByRecord; split <;> simp

@[simp] theorem kernel_addVerdict (s : State) (r : VerdictRec) : (s.addVerdict r).1.kernel = s.kernel := by
  rw [State.addVerdict]; exact (kernel_lostByRecord _ _).trans (kernel_modRecs _ _)

@[simp] theorem kernel_modVerdict (s : State) (n : Nat) (f : VerdictRec → VerdictRec) : (s.modVerdict n f).kernel = s.kernel := by
  unfold State.modVerdict; dsimp only; split <;> simp

@[simp] theorem kernel_addResult (s : State) (r : ResultRec) : (s.addResult r).kernel = s.kernel := by
  rw [State.addResult]; exact kernel_modRecs _ _

theorem kernel_lint_if (c : Prop) [Decidable c] (s : State) (l : Lint) : (if c then s.lint l else s).kernel = s.kernel := by
  split <;> rfl

@[simp] theorem kernel_pci (s : State) (x : Pcie) : ({ s with pci := x } : State).kernel = s.kernel := rfl

@[simp] theorem kernel_archiveAdd (s : State) (r : VerdictRec) : (s.archiveAdd r).kernel = s.kernel := by
  rw [State.archiveAdd]
  split
  · rfl
  · simp only [kernel_emit, kernel_lintBy, kernel_lint_if, kernel_pci]

theorem kernel_archiveIf (t : State) (c : Prop) [Decidable c] (n : Nat) :
    (if c then (match t.verdict? n with | some v => t.archiveAdd v | none => t) else t).kernel = t.kernel := by
  split
  · split <;> simp
  · rfl

@[simp] theorem kernel_fireDo (s : State) (e : FireEntry) (r : Resolution) : (s.fireDo e r).kernel = s.kernel := by
  rw [State.fireDo]
  refine (kernel_archiveIf _ _ _).trans ?_
  rw [kernel_lint_if, kernel_lint_if, kernel_lint_if, kernel_modVerdict, kernel_modFire]

@[simp] theorem kernel_fireAdd (s : State) (e : FireEntry) : (s.fireAdd e).kernel = s.kernel := by
  unfold State.fireAdd
  dsimp only
  repeat' split
  all_goals simp

@[simp] theorem kernel_firePart (s : State) (w : Swath) (p : FirePart) : (s.firePart w p).kernel = s.kernel := by
  unfold State.firePart
  dsimp only
  split
  · simp
  · split <;> simp

@[simp] theorem kernel_swathRecord (s : State) (p : Nat) (w : Swath) (v : Verdict) (c : Cause) (a : Audit) (u : Bool) :
    (s.swathRecord p w v c a u).kernel = s.kernel := by unfold State.swathRecord; simp

@[simp] theorem kernel_swathHeatless (s : State) (p : Nat) (w : Swath) (v : Verdict) (c : Cause) :
    (s.swathHeatless p w v c).kernel = s.kernel := by unfold State.swathHeatless; simp

@[simp] theorem kernel_swathShort (s : State) (p : Nat) (w : Swath) : (s.swathShort p w).kernel = s.kernel := by
  unfold State.swathShort; simp

@[simp] theorem kernel_fireClear (s : State) : s.fireClear.kernel = s.kernel := rfl

/-! ### SAFE -/

@[simp] theorem kernel_camsOff (s : State) : s.camsOff.kernel = s.kernel := by
  unfold State.camsOff
  apply kernel_each
  intro u p
  rw [kernel_modCam]
  split
  · rfl
  · dsimp only
    split <;> simp

@[simp] theorem kernel_outputsOff (s : State) : s.outputsOff.kernel = s.kernel := by
  unfold State.outputsOff; simp

@[simp] theorem kernel_writeStored (s : State) : s.writeStored.kernel = s.kernel := by
  unfold State.writeStored
  exact kernel_modBoot _ _ rfl

theorem armFails_none (s : State) (f : Option Nat) (h : s.dev.arming = none) : s.armFails f = s := by
  unfold State.armFails; rw [h]

@[simp] theorem lostSwath_field (s : State) (p c : Nat) : (s.lostSwath p c).field = s.field := by
  unfold State.lostSwath
  split
  · split
    · rfl
    · simp
  · rfl

@[simp] theorem addVerdict_field (s : State) (r : VerdictRec) : (s.addVerdict r).1.field = s.field := by
  have h : ∀ (t : State) (q : VerdictRec), (t.lostByRecord q).field = t.field := by
    intro t q
    unfold State.lostByRecord
    split
    · exact lostSwath_field _ _ _
    · rfl
  rw [State.addVerdict]
  exact (h _ _).trans (State.modRecs_field _ _)

@[simp] theorem camsOff_field (s : State) : s.camsOff.field = s.field := by
  unfold State.camsOff
  apply each_same State.field
  intro u p
  rw [State.modCam_field]
  split
  · rfl
  · dsimp only
    split
    · unfold State.swathShort; simp
    · simp

@[simp] theorem lostSwath_sent (s : State) (p c : Nat) : (s.lostSwath p c).sent = s.sent := by
  unfold State.lostSwath
  split
  · split
    · rfl
    · simp
  · rfl

@[simp] theorem addVerdict_sent (s : State) (r : VerdictRec) : (s.addVerdict r).1.sent = s.sent := by
  have h : ∀ (t : State) (q : VerdictRec), (t.lostByRecord q).sent = t.sent := by
    intro t q
    unfold State.lostByRecord
    split
    · exact lostSwath_sent _ _ _
    · rfl
  rw [State.addVerdict]
  exact (h _ _).trans (State.modRecs_sent _ _)

@[simp] theorem camsOff_sent (s : State) : s.camsOff.sent = s.sent := by
  unfold State.camsOff
  apply each_same State.sent
  intro u p
  rw [State.modCam_sent]
  split
  · rfl
  · dsimp only
    split
    · unfold State.swathShort; simp
    · simp

/-- SAFE clears the fire list (R31). -/
theorem enterSafe_fire (s : State) (b : Nat) (h : s.dev.arming = none) : (s.enterSafe b).field.fire.entries = [] := by
  unfold State.enterSafe State.rotaStop State.outputsOff State.writeStored State.fireClear
  rw [armFails_none s none h]
  simp

/-- SAFE leaves the rigger's link and hold as they are. -/
theorem enterSafe_rig (s : State) (b : Nat) (h : s.dev.arming = none) :
    (s.enterSafe b).field.rigLink = s.field.rigLink ∧ (s.enterSafe b).field.rigHold = s.field.rigHold := by
  unfold State.enterSafe State.rotaStop State.outputsOff State.writeStored State.fireClear
  rw [armFails_none s none h]
  simp

/-- SAFE stops every heat (R26). -/
theorem enterSafe_heats (s : State) (b : Nat) (h : s.dev.arming = none) : (s.enterSafe b).cox.heats = [] := by
  unfold State.enterSafe State.rotaStop State.writeStored
  rw [armFails_none s none h]
  simp

/-- What SAFE leaves of the kernel: the state and its cause, and no spanning heat. -/
theorem kernel_enterSafe (s : State) (b : Nat) (h : s.dev.arming = none) :
    (s.enterSafe b).kernel = { s.kernel with
      dev := { s.dev with state := .safe, safeCause := setBit s.dev.safeCause b true }, squad := { s.squad with spans := [] } } := by
  unfold State.enterSafe
  rw [armFails_none s none h, kernel_writeStored]
  have hk := kernel_outputsOff s
  generalize s.outputsOff = o at hk
  unfold State.kernel at hk ⊢
  injection hk with h1 h2 h3 h4 h5 h6 h7 h8 h9
  unfold State.rotaStop
  simp [h1, h2, h3, h4, h5, h6, h7, h8, h9]

/-- A cause of SAFE in INERT, ARMED, RUN or DEGRADED (R28, R33). -/
theorem safeCause_enters (s : State) (b : Nat) (h : s.dev.state = .inert ∨ s.dev.state.active = true) : s.safeCause b = s.enterSafe b := by
  unfold State.safeCause
  rcases h with h | h
  · rw [h]
  · revert h
    cases s.dev.state <;> simp [DevState.active]

/-- A row that enters SAFE from a state `a` that differs from `s` in the device block alone beside the kernel. -/
theorem lateEnd_safe {s a : State} (b : Nat) (d : Device) (hk : a.kernel = { s.kernel with dev := d }) (hd : d.arming = none)
    (hs : s.Settled) : ∃ u, lateEnd s (a.enterSafe b) = .next u ∧ u.dev = { d with state := .safe, safeCause := setBit d.safeCause b true } ∧
      (a.enterSafe b).EndsAs u := by
  have hda : a.dev = d := congrArg Kernel.dev hk
  have hka := kernel_enterSafe a b (by rw [hda]; exact hd)
  have hq : a.squad = s.squad := congrArg Kernel.squad hk
  rw [hk, hda, hq] at hka
  obtain ⟨u, h1, h2⟩ := lateEnd_dev _ _ hka rfl rfl hs
  have hdev : (a.enterSafe b).dev = { d with state := .safe, safeCause := setBit d.safeCause b true } := congrArg Kernel.dev hka
  refine ⟨u, h1, ?_, h2⟩
  obtain ⟨x, _, rfl, hx, _⟩ := h2
  have := hx (by rw [hdev]; rfl)
  dsimp only
  rw [this, hdev]

/-- A row that enters SAFE, in the terms of `SafeFrom`. -/
theorem lateEnd_safeFrom {s a : State} (b : Nat) (d : Device) (hk : a.kernel = { s.kernel with dev := d }) (hd : d.arming = none)
    (hc : d.safeCause = s.dev.safeCause) (hs : s.Settled) : ∃ u, lateEnd s (a.enterSafe b) = .next u ∧ u.SafeFrom s b ∧
      u.dev = { d with state := .safe, safeCause := setBit d.safeCause b true } ∧ u.field.rigLink = a.field.rigLink ∧
      u.field.rigHold = a.field.rigHold := by
  have ha : a.dev.arming = none := by rw [show a.dev = d from congrArg Kernel.dev hk]; exact hd
  obtain ⟨u, h1, h2, h3⟩ := lateEnd_safe b d hk hd hs
  refine ⟨u, h1, ⟨by rw [h2], by rw [h2, hc], ?_, ?_⟩, h2, ?_, ?_⟩
  · rw [h3.field, enterSafe_fire a b ha]
  · rw [h3.cox, enterSafe_heats a b ha]
  · rw [h3.field, (enterSafe_rig a b ha).1]
  · rw [h3.field, (enterSafe_rig a b ha).2]

/-! ### Counters -/

/-- A counter that advances by 1 (R592): it saturates at 0xFFFF. -/
theorem lintVal_lintAt (s : State) (l : Lint) (i : Nat) : (s.lintAt l i).lintVal l i = satInc (s.lintVal l i) 1 := by
  refine amGet_amSet_insert _ _ _ _ ?_
  unfold satInc
  omega

/-- A counter that advances by more than 0. -/
theorem lintVal_lintBy (s : State) (l : Lint) (i n : Nat) (h : n ≠ 0) : (s.lintBy l i n).lintVal l i = satInc (s.lintVal l i) n := by
  refine amGet_amSet_insert _ _ _ _ ?_
  unfold satInc
  omega

theorem lintVal_lint (s : State) (l : Lint) : (s.lint l).lintVal l 0 = satInc (s.lintVal l 0) 1 := lintVal_lintAt s l 0

/-- A counter depends on the lint counters alone. -/
theorem lintVal_congr {s t : State} (h : t.od.lints = s.od.lints) (l : Lint) (i : Nat) : t.lintVal l i = s.lintVal l i := by
  unfold State.lintVal; rw [h]

end Sys2Proof.Machine
end

