-- ==== Sys2Proof/Laws/Still.lean ====
section
/-! SUPPORT. What records, the fire list and swaths never touch: a state without the rings, the ports' lines, the fire list, the archive,
the lost time, the lint counters and the log. One lemma for each of their operations says so. -/

namespace Sys2Proof.Machine

open Sys2Proof

/-- A state without what records and swaths change. -/
def State.still (s : State) : State :=
  { s with
    recs := State.reset.recs, cams := Vector.replicate 12 CamPort.init, field := { s.field with fire := State.reset.field.fire }
    saf := { s.saf with lostTs := 0, expected := [] }, od := { s.od with lints := [] }
    pci := { s.pci with archive := Archive.mk 0 [] 0 0 }, sent := [] }

@[simp] theorem still_modCam (s : State) (p : Fin 12) (f : CamPort → CamPort) : (s.modCam p f).still = s.still := rfl
@[simp] theorem still_modFire (s : State) (f : FireList → FireList) : (s.modFire f).still = s.still := rfl
@[simp] theorem still_modRecs (s : State) (f : Records → Records) : (s.modRecs f).still = s.still := rfl
@[simp] theorem still_emit (s : State) (o : Out) : (s.emit o).still = s.still := rfl
@[simp] theorem still_lintBy (s : State) (l : Lint) (i n : Nat) : (s.lintBy l i n).still = s.still := rfl
@[simp] theorem still_lintAt (s : State) (l : Lint) (i : Nat) : (s.lintAt l i).still = s.still := rfl
@[simp] theorem still_lint (s : State) (l : Lint) : (s.lint l).still = s.still := rfl

@[simp] theorem still_modSwath (s : State) (p c : Nat) (f : Swath → Swath) : (s.modSwath p c f).still = s.still := by
  unfold State.modSwath; split <;> rfl

/-- A fold over operations that leave the rest alone. -/
theorem still_each {α : Type} (s : State) (l : List α) (f : State → α → State) (h : ∀ u x, (f u x).still = u.still) :
    (s.each l f).still = s.still := each_same State.still s l f h

theorem kernel_still {s t : State} (h : t.still = s.still) : t.kernel = s.kernel := by
  have h1 : t.still.kernel = t.kernel := rfl
  have h2 : s.still.kernel = s.kernel := rfl
  rw [← h1, h, h2]

theorem cox_still {s t : State} (h : t.still = s.still) : t.cox = s.cox := by have := congrArg State.cox h; exact this
theorem kv_still {s t : State} (h : t.still = s.still) : t.kv = s.kv := by have := congrArg State.kv h; exact this
theorem tu_still {s t : State} (h : t.still = s.still) : t.tu = s.tu := by have := congrArg State.tu h; exact this
theorem boot_still {s t : State} (h : t.still = s.still) : t.boot = s.boot := by have := congrArg State.boot h; exact this
theorem dev_still {s t : State} (h : t.still = s.still) : t.dev = s.dev := by have := congrArg State.dev h; exact this
theorem mem_still {s t : State} (h : t.still = s.still) : t.mem = s.mem := by have := congrArg State.mem h; exact this
theorem det_still {s t : State} (h : t.still = s.still) : t.det = s.det := by have := congrArg State.det h; exact this
theorem squad_still {s t : State} (h : t.still = s.still) : t.squad = s.squad := by have := congrArg State.squad h; exact this
theorem num_still {s t : State} (h : t.still = s.still) (e : Ent) (i : Nat) : t.num e i = s.num e i := num_kernel (kernel_still h) e i

@[simp] theorem still_lostSwath (s : State) (p c : Nat) : (s.lostSwath p c).still = s.still := by
  unfold State.lostSwath
  split
  · split
    · rfl
    · dsimp only
      exact Eq.trans (b := (s.modSwath p c (fun w => { w with lost := true })).still) rfl (still_modSwath ..)
  · rfl

@[simp] theorem still_lostByRecord (s : State) (r : VerdictRec) : (s.lostByRecord r).still = s.still := by
  unfold State.lostByRecord; split <;> simp

@[simp] theorem still_addVerdict (s : State) (r : VerdictRec) : (s.addVerdict r).1.still = s.still := by
  rw [State.addVerdict]; exact (still_lostByRecord _ _).trans (still_modRecs _ _)

@[simp] theorem still_modVerdict (s : State) (n : Nat) (f : VerdictRec → VerdictRec) : (s.modVerdict n f).still = s.still := by
  unfold State.modVerdict; dsimp only; split <;> simp

@[simp] theorem still_addResult (s : State) (r : ResultRec) : (s.addResult r).still = s.still := by
  rw [State.addResult]; exact still_modRecs _ _

theorem still_lint_if (c : Prop) [Decidable c] (s : State) (l : Lint) : (if c then s.lint l else s).still = s.still := by
  split <;> rfl

theorem still_archive (s : State) (a : Archive) : ({ s with pci := { s.pci with archive := a } } : State).still = s.still := rfl

@[simp] theorem still_archiveAdd (s : State) (r : VerdictRec) : (s.archiveAdd r).still = s.still := by
  rw [State.archiveAdd]
  split
  · rfl
  · simp only [still_emit, still_lintBy, still_lint_if, still_archive]

theorem still_archiveIf (t : State) (c : Prop) [Decidable c] (n : Nat) :
    (if c then (match t.verdict? n with | some v => t.archiveAdd v | none => t) else t).still = t.still := by
  split
  · split <;> simp
  · rfl

@[simp] theorem still_fireDo (s : State) (e : FireEntry) (r : Resolution) : (s.fireDo e r).still = s.still := by
  rw [State.fireDo]
  refine (still_archiveIf _ _ _).trans ?_
  rw [still_lint_if, still_lint_if, still_lint_if, still_modVerdict, still_modFire]

@[simp] theorem still_fireAdd (s : State) (e : FireEntry) : (s.fireAdd e).still = s.still := by
  unfold State.fireAdd
  dsimp only
  repeat' split
  all_goals simp

@[simp] theorem still_firePart (s : State) (w : Swath) (p : FirePart) : (s.firePart w p).still = s.still := by
  unfold State.firePart
  dsimp only
  split
  · simp
  · split <;> simp

@[simp] theorem still_swathRecord (s : State) (p : Nat) (w : Swath) (v : Verdict) (c : Cause) (a : Audit) (u : Bool) :
    (s.swathRecord p w v c a u).still = s.still := by unfold State.swathRecord; simp

@[simp] theorem still_swathHeatless (s : State) (p : Nat) (w : Swath) (v : Verdict) (c : Cause) :
    (s.swathHeatless p w v c).still = s.still := by unfold State.swathHeatless; simp

@[simp] theorem still_swathShort (s : State) (p : Nat) (w : Swath) : (s.swathShort p w).still = s.still := by
  unfold State.swathShort; simp

@[simp] theorem still_swathEnds (s : State) (p c : Nat) (f : SwathFate) : (s.swathEnds p c f).still = s.still := by
  unfold State.swathEnds; simp

@[simp] theorem still_swathDecided (s : State) (p c : Nat) : (s.swathDecided p c).still = s.still := by
  unfold State.swathDecided
  exact Eq.trans (b := (s.modSwath p c (fun w => { w with decided := true })).still) rfl (still_modSwath ..)

@[simp] theorem still_fireUpdate (s : State) (n : Nat) (v : Verdict) (c : Cause) (q : Nat) (b : Bool) : (s.fireUpdate n v c q b).still = s.still := by
  rw [State.fireUpdate]
  split
  · simp
  · split
    · rw [apply_ite State.still]; simp
    · simp

@[simp] theorem still_slVerdict (s : State) (e : KvEntry) (v : Verdict) (c : Cause) (b : Bool) : (s.slVerdict e v c b).still = s.still := by
  unfold State.slVerdict; split <;> simp

@[simp] theorem still_slResult (s : State) (p : Nat) (q : KvSeq) (h : Option Heat) (n : Nat) (c : Cause) : (s.slResult p q h n c).still = s.still := by
  unfold State.slResult
  split
  · rfl
  · dsimp only; split <;> simp

@[simp] theorem still_fireClear (s : State) : s.fireClear.still = s.still := rfl

@[simp] theorem still_camsOff (s : State) : s.camsOff.still = s.still := by
  unfold State.camsOff
  apply still_each
  intro u p
  rw [still_modCam]
  split
  · rfl
  · dsimp only
    split <;> simp

@[simp] theorem still_stopReq (s : State) (r : CoxReq) : (s.stopReq_ r).still = s.still := by
  unfold State.stopReq_
  split
  · split
    · split <;> simp
    · rfl
  · simp
  · rfl

end Sys2Proof.Machine
end

