-- ==== Sys2Proof/Laws/Reset.lean ====
section
/-! SUPPORT. What RESET, OFF and the start of BOOT leave, once. -/

namespace Sys2Proof.Machine

open Sys2Proof

/-- RESET, and BOOT at once where nothing holds the device (R28). -/
theorem toReset_eq (s : State) (c : Nat) :
    s.toReset c = if s.mayBoot then s.enterBoot c else (s.wipe .reset).modRecord (fun r => { r with cause := c }) := by
  unfold State.toReset
  have : ((s.wipe .reset).modRecord (fun r => { r with cause := c })).mayBoot = s.mayBoot := rfl
  simp only [this]
  split <;> rfl

/-- A row that begins BOOT. -/
theorem enterBoot_ends (s a : State) (c : Nat) : ∃ u, lateEnd s (a.enterBoot c) = .next u ∧ u.Fresh ∧ u.KeepsFlash a ∧
    u.boot.record.cause = c ∧ u.dev.porstLow = a.dev.porstLow ∧ u.dev.brownOut = a.dev.brownOut := by
  obtain ⟨u, h1, h2⟩ := lateEnd_wiped s (a.enterBoot c) rfl rfl rfl
  have hs := h2.state rfl
  obtain ⟨d, hd⟩ := h2.dev
  refine ⟨u, h1, ⟨by rw [hs]; rfl, by rw [h2.boot]; rfl, ?_, ?_, ?_, by rw [h2.cox]; rfl, by rw [h2.tu]; rfl⟩,
    ⟨by rw [h2.boot]; rfl, by rw [h2.boot]; rfl, by rw [h2.pending]; rfl⟩, by rw [h2.boot]; rfl, by rw [hd]; rfl, by rw [hd]; rfl⟩
  all_goals rw [h2.od]; rfl

/-- A row that enters RESET. -/
theorem toReset_ends (s a : State) (c : Nat) : ∃ u, lateEnd s (a.toReset c) = .next u ∧ u.KeepsFlash a ∧
    u.boot.record.cause = c ∧ u.dev.porstLow = a.dev.porstLow ∧ u.dev.brownOut = a.dev.brownOut ∧
    (a.mayBoot = true → u.Fresh) ∧ (a.mayBoot = false → u.dev.state = .reset) := by
  rw [toReset_eq]
  cases hm : a.mayBoot
  · obtain ⟨u, h1, h2⟩ := lateEnd_wiped s ((a.wipe .reset).modRecord (fun r => { r with cause := c })) rfl rfl rfl
    obtain ⟨d, hd⟩ := h2.dev
    refine ⟨u, h1, ⟨by rw [h2.boot]; rfl, by rw [h2.boot]; rfl, by rw [h2.pending]; rfl⟩, by rw [h2.boot]; rfl, by rw [hd]; rfl,
      by rw [hd]; rfl, by simp, fun _ => ?_⟩
    rw [h2.state rfl]; rfl
  · obtain ⟨u, h1, h2, h3, h4, h5, h6⟩ := enterBoot_ends s a c
    exact ⟨u, h1, h3, h4, h5, h6, fun _ => h2, by simp⟩

/-- What RECOVERY begins with (R597, R617). -/
theorem enterRecovery_record (s : State) (step code : Nat) :
    (s.enterRecovery step code).dev.state = .recovery ∧ (s.enterRecovery step code).boot.record.failStep = step ∧
    (s.enterRecovery step code).boot.record.failCode = code ∧ (s.enterRecovery step code).boot.record.result = 1 ∧
    (s.enterRecovery step code).od.sessions = s.od.sessions ∧ (s.enterRecovery step code).squad = s.squad := by
  unfold State.enterRecovery
  dsimp only
  split <;> split <;> exact ⟨rfl, rfl, rfl, rfl, rfl, rfl⟩

/-- A row that enters RECOVERY. -/
theorem enterRecovery_ends {s a : State} (step code : Nat) (h1 : a.od.sessions = s.od.sessions) (h2 : a.squad = s.squad)
    (hs : s.Settled) : ∃ u, lateEnd s (a.enterRecovery step code) = .next u ∧ u.dev.state = .recovery ∧
      u.boot.record.failStep = step ∧ u.boot.record.failCode = code ∧ u.boot.record.result = 1 := by
  obtain ⟨k1, k2, k3, k4, k5, k6⟩ := enterRecovery_record a step code
  obtain ⟨u, e1, e2⟩ := lateEnd_asleep (s := s) (k5.trans h1) (k6.trans h2) hs (.inr (.inl k1))
  exact ⟨u, e1, by rw [e2.state (by rw [k1]; rfl), k1], by rw [e2.boot, k2], by rw [e2.boot, k3], by rw [e2.boot, k4]⟩

end Sys2Proof.Machine
end

