-- ==== Sys2Proof/Laws/Vals.lean ====
section
/-! SUPPORT. Which committed values a write touches, and what crews in service are read from. -/

namespace Sys2Proof.Machine

open Sys2Proof

theorem amGet?_insert_ne {α : Type} (m : AMap α) {k j : Nat} (v : α) (h : j ≠ k) : amGet? (amInsert m k v) j = amGet? m j := by
  rw [amGet?_insert, if_neg h]

theorem amGet?_erase_ne {α : Type} (m : AMap α) {k j : Nat} (h : j ≠ k) : amGet? (amErase m k) j = amGet? m j := by
  rw [amGet?_erase, if_neg h]

/-- An erased key is absent. -/
theorem amGet?_erase_self {α : Type} (m : AMap α) (k : Nat) : amGet? (amErase m k) k = none := by
  induction m with
  | nil => rfl
  | cons a r ih =>
    obtain ⟨j, v⟩ := a
    unfold amErase
    by_cases h : k = j
    · rw [if_pos h]; exact ih
    · rw [if_neg h]; unfold amGet?; rw [if_neg h]; exact ih

/-- An inserted key has its value. -/
theorem amGet?_insert_self {α : Type} (m : AMap α) (k : Nat) (v : α) : amGet? (amInsert m k v) k = some v := by
  induction m with
  | nil => simp [amInsert, amGet?]
  | cons a r ih =>
    obtain ⟨j, w⟩ := a
    unfold amInsert
    by_cases h : k = j
    · rw [if_pos h]; simp [amGet?]
    · rw [if_neg h]; split
      · simp [amGet?]
      · unfold amGet?; rw [if_neg h]; exact ih

/-- A write leaves every other key as it was. -/
theorem amGet_amSet_ne {α : Type} [DecidableEq α] (m : AMap α) {k j : Nat} (v d d' : α) (h : j ≠ k) :
    amGet (amSet m k v d) j d' = amGet m j d' := by
  unfold amGet amSet
  split
  · rw [amGet?_erase_ne m h]
  · rw [amGet?_insert_ne m v h]

/-- A committed value is left as it was by a write to another key. -/
theorem val_setVal_ne (s : State) (e f : Ent) (i k a b : Nat) (v : OdVal) (h : f.key a b ≠ e.key i k) :
    (s.setVal e i k v).val f a b = s.val f a b := amGet_amSet_ne _ _ _ _ h

/-- A value that is written is the committed value. -/
theorem val_setVal (s : State) (e : Ent) (i k : Nat) (v : OdVal) : (s.setVal e i k v).val e i k = v := by
  show amGet (amSet _ _ _ _) _ _ = _
  exact (amGet_amSet _ _ _ _ _).trans (if_pos rfl)

/-- The keys that the crews in service of a partition are read from (R141 to R151). -/
def crewKeys : List (Ent × Nat) :=
  (List.range 6).map (fun c => (Ent.CREW_FORCE, c)) ++ [(Ent.CREW_MIN_SHELLS, 0)] ++ (List.range 6).map (fun c => (Ent.OAR_FORCE, c)) ++
    (List.range 8).map (fun p => (Ent.PART_CREW_MASK, p))

/-- A partition's shortness of crews is read from those keys, the fuses, the units held out, the patch maps and the packages. -/
theorem crewsShort_vals {s t : State} (hv : ∀ e ∈ crewKeys, t.val e.1 e.2 0 = s.val e.1 e.2 0) (h2 : t.boot.fuses = s.boot.fuses)
    (h3 : t.saf.held = s.saf.held) (h4 : t.crews = s.crews) (h5 : t.cox.packages = s.cox.packages) : t.crewsShort = s.crewsShort := by
  have hf : ∀ c < 6, t.val .CREW_FORCE c 0 = s.val .CREW_FORCE c 0 := fun c hc => hv (_, c) (by simp [crewKeys]; exact hc)
  have hm : t.val .CREW_MIN_SHELLS 0 0 = s.val .CREW_MIN_SHELLS 0 0 := hv (_, 0) (by simp [crewKeys])
  have ho : ∀ c < 6, t.val .OAR_FORCE c 0 = s.val .OAR_FORCE c 0 := fun c hc => hv (_, c) (by simp [crewKeys]; exact hc)
  have hp : ∀ p < 8, t.val .PART_CREW_MASK p 0 = s.val .PART_CREW_MASK p 0 := fun p hp => hv (_, p) (by simp [crewKeys]; exact hp)
  have hin : ∀ c < 6, t.crewIn c = s.crewIn c := by
    intro c hc
    have hoo : t.oarOos c = s.oarOos c := by
      funext p; unfold State.oarOos State.heldOut State.byt; rw [ho c hc, h3]
    have hn : t.oarsOos c = s.oarsOos c := by unfold State.oarsOos; rw [hoo]
    unfold State.crewIn
    rw [hn]
    unfold State.crewCount State.shellsActive State.crew State.heldOut State.flag State.num State.part
    rw [hf c hc, hm, h2, h3, h4]
  have hc : t.crewsIn = s.crewsIn := by
    unfold State.crewsIn
    exact List.filter_congr (fun c hc => hin c (List.mem_range.mp hc))
  unfold State.crewsShort
  rw [hc, h5]
  have key : ∀ l : List Nat, (∀ p ∈ l, p < 8) → ∀ f : Nat → Nat → Bool, l.any (fun p => f p (t.num .PART_CREW_MASK p)) = l.any (fun p => f p (s.num .PART_CREW_MASK p)) := by
    intro l hl f
    induction l with
    | nil => rfl
    | cons p l ih =>
      rw [List.any_cons, List.any_cons, ih (fun q hq => hl q (List.mem_cons_of_mem _ hq))]
      unfold State.num
      rw [hp p (hl p (List.mem_cons_self ..))]
  exact key (List.range 8) (fun p hp => List.mem_range.mp hp) (fun part mask =>
    (allFin 16).any (fun i =>
      match s.cox.packages[i] with
      | some p => decide (p.partition = part) && p.plans.any (fun pl => decide (pl.kind = .fast) &&
          decide ((s.crewsIn.filter (fun c => mask.testBit c)).length < pl.crews))
      | none => false))

/-- Is a key read for the crews in service? -/
def crewKey (k : Nat) : Bool := crewKeys.any (fun e => e.1.key e.2 0 == k)

theorem crewKey_ne {k : Nat} (h : crewKey k = false) {e : Ent × Nat} (he : e ∈ crewKeys) : e.1.key e.2 0 ≠ k := by
  intro c
  unfold crewKey at h
  rw [List.any_eq_false] at h
  exact h e he (by simp [c])

/-- A write of any other entry leaves every partition's shortness of crews as it was. -/
theorem crewsShort_setVal (s : State) (e : Ent) (i k : Nat) (v : OdVal) (h : crewKey (e.key i k) = false) :
    (s.setVal e i k v).crewsShort = s.crewsShort :=
  crewsShort_vals (fun _ hf => val_setVal_ne _ _ _ _ _ _ _ _ (crewKey_ne h hf)) rfl rfl rfl rfl

/-- The entry found at a key has that key. -/
theorem findEnt_key {key i k : Nat} {E : Ent} (h : findEnt (key / 256) (key % 256) = some (.ent E i k)) : E.key i k = key := by
  unfold findEnt at h
  rw [Option.map_eq_some_iff] at h
  obtain ⟨a, ha, hb⟩ := h
  have hc := List.find?_some ha
  cases hb
  unfold EntRow.covers at hc
  simp only [Bool.and_eq_true, decide_eq_true_eq] at hc
  unfold Ent.key
  omega

/-- A write by key changes one committed value. -/
theorem setKey_eq (s : State) (key : Nat) (v : OdVal) : ∃ c, s.setKey key v = { s with od := { s.od with committed := c } } ∧
    ∀ e i k, e.key i k ≠ key → (s.setKey key v).val e i k = s.val e i k := by
  unfold State.setKey
  split
  · rename_i e i k h
    refine ⟨_, rfl, fun f a b hf => val_setVal_ne _ _ _ _ _ _ _ _ (by rw [findEnt_key h]; exact hf)⟩
  · exact ⟨s.od.committed, rfl, fun _ _ _ _ => rfl⟩

/-- Writes by key change committed values of those keys alone. -/
theorem setKeys_eq (l : List (Nat × OdVal)) : ∀ s : State, ∃ c, s.each l (fun s e => s.setKey e.1 e.2) = { s with od := { s.od with committed := c } } ∧
    ∀ e i k, (∀ a ∈ l, e.key i k ≠ a.1) → (s.each l (fun s e => s.setKey e.1 e.2)).val e i k = s.val e i k := by
  induction l with
  | nil => intro s; exact ⟨s.od.committed, rfl, fun _ _ _ _ => rfl⟩
  | cons a l ih =>
    intro s
    obtain ⟨c, hc, hv⟩ := setKey_eq s a.1 a.2
    obtain ⟨d, hd, hw⟩ := ih (s.setKey a.1 a.2)
    refine ⟨d, ?_, ?_⟩
    · show (s.setKey a.1 a.2).each l _ = _
      rw [hd, hc]
    · intro e i k h
      show ((s.setKey a.1 a.2).each l _).val e i k = _
      rw [hw e i k (fun b hb => h b (List.mem_cons_of_mem _ hb)), hv e i k (h a (List.mem_cons_self ..))]

/-- Where no waiting value satisfies the test, nothing takes effect. -/
theorem applyWaiting_none (s : State) (p : Nat → Bool) (h : ∀ a ∈ s.od.waiting, p a.1 = false) : s.applyWaiting p = s := by
  have e1 : s.od.waiting.filter (fun e => p e.1) = [] := by rw [List.filter_eq_nil_iff]; intro a ha; rw [h a ha]; simp
  have e2 : s.od.waiting.filter (fun e => !p e.1) = s.od.waiting := by rw [List.filter_eq_self]; intro a ha; rw [h a ha]; rfl
  unfold State.applyWaiting
  dsimp only
  rw [e1, e2]
  rfl

end Sys2Proof.Machine
end

