-- ==== Sys2Proof/Laws/Later.lean ====
section
/-! SUPPORT. Requests whose answers come later (R521), and the answers. -/

namespace Sys2Proof.Machine

open Sys2Proof

/-- A request row whose answer comes later ends as its action left it. -/
theorem odRow_later (s : State) (x : Session) (r : Request) (p : Reply) (last : Bool) (ht : s.Takes x r) (hs : s.Settled)
    (hp : (s.began x r).perform r.env.session.toNat (x.took s r) r = (p, last)) (hl : p.later = true)
    (hw : p.state.Settled) (hn : s.Quiet p.state) (hc : p.state.crewsShort = true → s.crewsShort = true) :
    ∃ t, odRow s r = .next t ∧ p.state.EndsAs t := by
  obtain ⟨n, hr⟩ := receive_takes s x r ht hs.1
  rw [hp] at hr
  have ha : p.answered r last = p.state := by unfold Reply.answered; rw [if_pos hl]
  dsimp only at hr
  rw [ha, drainN_idle _ _ hw.1] at hr
  unfold odRow
  rw [hr]
  exact lateEnd_ends s p.state (nlSettle_quiet _ _ hn) hw hc

/-- With its request executing, a session has nothing that could run. -/
theorem began_idle (s : State) (x : Session) (r : Request) (ht : s.session? r.env.session.toNat = some x) (hs : s.idleWork = none) :
    (s.began x r).idleWork = none := by
  rw [idleWork_none_iff] at hs ⊢
  intro k hk w hw
  unfold State.began at hw
  rw [session?_setSession _ _ _ _ (session?_lt ht)] at hw
  split at hw
  · cases hw; simp
  · exact hs k hk w hw

/-- A WRITE of a WO scalar entry whose answer comes later. -/
theorem wo_later (s : State) (x : Session) (r : Request) (e : Ent) (i k : Nat) (p : Reply) (hm : s.MayWrite x r (.ent e i k))
    (hop : r.op = 5) (hty : e.row.ty ≠ .domain) (hlen : r.data.length = e.row.ty.size) (ho : r.offset = 0) (hwo : e.row.acc = .wo)
    (hrsv : e.rsvOk (.num (leNat r.data)) = true) (hrange : e.rangeOk i k (.num (leNat r.data)) = true)
    (hact : (s.began x r).writeAct (.session r.env.session.toNat r.env.reqId.toNat) (some r.env.session.toNat) (some r.env.reqId.toNat) e i
      (.num (leNat r.data)) = p) (hl : p.later = true)
    (hw : p.state.Settled) (hn : s.Quiet p.state) (hc : p.state.crewsShort = true → s.crewsShort = true) :
    ∃ t, odRow s r = .next t ∧ p.state.EndsAs t := by
  refine odRow_later s x r p false hm.takes hm.settled ?_ hl hw hn hc
  rw [perform_scalar s x r e i k hm hop hty hlen ho]
  unfold State.writeObj
  simp only [hty, if_false, hrsv, hrange, Bool.not_true, Bool.false_eq_true, hwo, if_true, hact]

/-- An answer that comes later (R521): the response to the request that executes has left, and its session is free. -/
theorem complete_rest (s : State) (h : Nat) (y : Session) (r : Request) (st : Status) (data : Bytes)
    (hy : s.session? h = some y) (he : y.executing = some r) (hq : y.queue = []) (hi : s.idleWork = none) :
    ∃ ss b c l f, s.complete (.session h r.env.reqId.toNat) st data =
        { s with od := { s.od with sessions := ss }, pci := { s.pci with busy := b, cells := c }, fnet := f, sent := l ++ s.sent } ∧
      f.unqueued = s.fnet.unqueued ∧
      (s.complete (.session h r.env.reqId.toNat) st data).Answered r st ∧
      (s.complete (.session h r.env.reqId.toNat) st data).idleWork = none := by
  have hh := session?_lt hy
  unfold State.complete
  simp only [hy, he, if_true]
  rw [modSession_eq _ hy]
  have e1 : (s.setSession h (some { y with executing := none })).session? h = some { y with executing := none } := by
    rw [session?_setSession _ _ _ _ hh, if_pos rfl]
  unfold State.respond
  rw [e1]
  dsimp only
  rw [modSession_eq _ e1, setSession_setSession]
  generalize hm : responseBytes r _ _ _ _ _ _ _ = msg
  generalize hz : (Session.mk ..) = z
  have hzq : z.queue = [] := by rw [← hz]; exact hq
  obtain ⟨l, b, c, f, e, hmem, hf⟩ := deliver_adds (s.setSession h (some z)) r.env msg
  rw [setSession_eq _ hh] at hf
  rw [e, setSession_eq _ hh]
  refine ⟨_, b, c, l, f, rfl, hf, ⟨msg, List.mem_append_left _ hmem, ?_, ?_⟩, ?_⟩
  · rw [← hm]; exact (responseBytes_fields ..).1
  · rw [← hm]; exact (responseBytes_fields ..).2
  · rw [idleWork_none_iff] at hi ⊢
    intro k hk w hw
    have hw' : (s.setSession h (some z)).session? k = some w := by rw [setSession_eq _ hh]; exact hw
    rw [session?_setSession _ _ _ _ hh] at hw'
    split at hw'
    · cases hw'; exact fun c => c.2 hzq
    · exact hi k hk w hw'

/-- A response that has left stays in the log. -/
theorem answered_ends {u t : State} {r : Request} {st : Status} (h : u.EndsAs t) (ha : u.Answered r st) : t.Answered r st := by
  obtain ⟨m, h1, h2⟩ := ha
  exact ⟨m, h.sent _ h1, h2⟩

/-! ### Rows that write a number -/

theorem wrNum_data (e : Envelope) (x : Ent) (i v : Nat) (h : v < 256 ^ x.row.ty.size) : leNat (wrNum e x i v).data = v :=
  leNat_leBytes_of_lt h

/-- A row that writes a number to a WO entry does what its rule says, and is answered. -/
theorem num_row (s : State) (x : Session) (e : Envelope) (E : Ent) (i v : Nat) (p : Reply) (hm : s.MayWrite x (wrNum e E i v) (.ent E i 0))
    (hv : v < 256 ^ E.row.ty.size) (hty : E.row.ty ≠ .domain) (hwo : E.row.acc = .wo)
    (hrsv : E.rsvOk (.num v) = true) (hrange : E.rangeOk i 0 (.num v) = true)
    (hact : (s.began x (wrNum e E i v)).writeAct (.session e.session.toNat e.reqId.toNat) (some e.session.toNat) (some e.reqId.toNat) E i
      (.num v) = p) (hl : p.later = false)
    (hses : p.state.od.sessions = (s.began x (wrNum e E i v)).od.sessions)
    (hn : s.Quiet p.state) (hcmd : p.state.squad.cmd = none) (hc : p.state.crewsShort = s.crewsShort) :
    ∃ t, odRow s (wrNum e E i v) = .next t ∧ p.state.RespondsAs t (wrNum e E i v) p.status := by
  have hd := wrNum_data e E i v hv
  exact wo_row s x _ E i 0 p hm rfl hty (leBytes_length ..) rfl hwo (by rw [hd]; exact hrsv) (by rw [hd]; exact hrange)
    (by rw [hd]; exact hact) hl hses hn hcmd hc

/-- A row that writes a number to a WO entry, whose action succeeds with the state `z`. -/
theorem num_ok (s : State) (x : Session) (e : Envelope) (E : Ent) (i v : Nat) (z : State) (hm : s.MayWrite x (wrNum e E i v) (.ent E i 0))
    (hv : v < 256 ^ E.row.ty.size) (hty : E.row.ty ≠ .domain) (hwo : E.row.acc = .wo)
    (hrsv : E.rsvOk (.num v) = true) (hrange : E.rangeOk i 0 (.num v) = true)
    (hact : (s.began x (wrNum e E i v)).writeAct (.session e.session.toNat e.reqId.toNat) (some e.session.toNat) (some e.reqId.toNat) E i
      (.num v) = .ok z)
    (hses : z.od.sessions = (s.began x (wrNum e E i v)).od.sessions)
    (hn : s.Quiet z) (hcmd : z.squad.cmd = none) (hc : z.crewsShort = s.crewsShort) :
    ∃ t, odRow s (wrNum e E i v) = .next t ∧ z.RespondsAs t (wrNum e E i v) .ok :=
  num_row s x e E i v (.ok z) hm hv hty hwo hrsv hrange hact rfl hses hn hcmd hc

/-- A row that writes a number to a WO entry and is answered later. -/
theorem num_later (s : State) (x : Session) (e : Envelope) (E : Ent) (i v : Nat) (p : Reply) (hm : s.MayWrite x (wrNum e E i v) (.ent E i 0))
    (hv : v < 256 ^ E.row.ty.size) (hty : E.row.ty ≠ .domain) (hwo : E.row.acc = .wo)
    (hrsv : E.rsvOk (.num v) = true) (hrange : E.rangeOk i 0 (.num v) = true)
    (hact : (s.began x (wrNum e E i v)).writeAct (.session e.session.toNat e.reqId.toNat) (some e.session.toNat) (some e.reqId.toNat) E i
      (.num v) = p) (hl : p.later = true)
    (hw : p.state.Settled) (hn : s.Quiet p.state) (hc : p.state.crewsShort = true → s.crewsShort = true) :
    ∃ t, odRow s (wrNum e E i v) = .next t ∧ p.state.EndsAs t := by
  have hd := wrNum_data e E i v hv
  exact wo_later s x _ E i 0 p hm rfl hty (leBytes_length ..) rfl hwo (by rw [hd]; exact hrsv) (by rw [hd]; exact hrange)
    (by rw [hd]; exact hact) hl hw hn hc

theorem bare_began (s : State) (x : Session) (r : Request) : (s.began x r).bare = s.bare := by simp [State.bare]

theorem responds_base {u v t : State} {r : Request} {st : Status} (h : u.RespondsAs t r st) (hb : u.bare = v.bare) (hd : u.dev.state = v.dev.state) : v.RespondsAs t r st :=
  ⟨h.answered, h.rest.trans hb, fun a => (h.state (by rw [hd]; exact a)).trans hd, fun a => h.runs (by rw [hd]; exact a)⟩

theorem writeStored_eq (u : State) : ∃ f, u.writeStored = { u with boot := { u.boot with flash := f } } := ⟨_, rfl⟩

/-- What waits depends on the sessions and the squad's command alone. -/
theorem settled_congr {s t : State} (h1 : t.od.sessions = s.od.sessions) (h2 : t.squad.cmd = s.squad.cmd) (h : s.Settled) : t.Settled := by
  refine ⟨?_, h2.trans h.2⟩
  rw [idleWork_none_iff]
  intro k hk y hy
  exact (idleWork_none_iff s).mp h.1 k hk y ((session?_congr h1 k).symm.trans hy)

/-- A row that leaves sessions, ports and the squad's command alone ends as what it made. -/
theorem lateEnd_same (s t : State) (h : s.Settled) (h1 : t.od.sessions = s.od.sessions) (h2 : t.squad = s.squad)
    (hc : t.crewsShort = true → s.crewsShort = true) : ∃ u, lateEnd s t = .next u ∧ t.EndsAs u :=
  lateEnd_ends s t (nlSettle_same _ _ (by rw [h2])) (settled_congr h1 (by rw [h2]) h) hc

/-- Waiting values take effect in the committed values alone. -/
theorem applyWaiting_eq (s : State) (p : Nat → Bool) : ∃ c w, s.applyWaiting p = { s with od := { s.od with committed := c, waiting := w } } := by
  obtain ⟨c, hc, _⟩ := setKeys_eq (s.od.waiting.filter (fun e => p e.1)) { s with od := { s.od with waiting := s.od.waiting.filter (fun e => !p e.1) } }
  exact ⟨c, s.od.waiting.filter (fun e => !p e.1), hc⟩

end Sys2Proof.Machine
end

