-- ==== Sys2Proof/Laws/Acts.lean ====
section
/-! SUPPORT. The action of a write to each WO entry, by its name. -/

namespace Sys2Proof.Machine

open Sys2Proof

theorem act_DEV_COMMAND (s : State) (o : Origin) (h r : Option Nat) (i : Nat) (n : Nat) :
    s.writeAct o h r .DEV_COMMAND i (.num n) = s.devCommand o n := rfl

theorem act_RP_LOAD (s : State) (o : Origin) (h r : Option Nat) (i : Nat) (b : Bytes) :
    s.writeAct o h r .RP_LOAD i (.bytes b) = actRpLoad s o b := rfl

theorem act_RP_UNLOAD (s : State) (o : Origin) (h r : Option Nat) (i : Nat) (n : Nat) :
    s.writeAct o h r .RP_UNLOAD i (.num n) = actRpUnload s n := rfl

theorem act_COX_BG_REQUEST (s : State) (o : Origin) (h r : Option Nat) (i : Nat) (n : Nat) :
    s.writeAct o h r .COX_BG_REQUEST i (.num n) = actBgRequest s n := rfl

theorem act_KV_CANCEL (s : State) (o : Origin) (h r : Option Nat) (i : Nat) (n : Nat) :
    s.writeAct o h r .KV_CANCEL i (.num n) = actKvCancel s i n := rfl

theorem act_KV_TREE_FLUSH (s : State) (o : Origin) (h r : Option Nat) (i : Nat) (n : Nat) :
    s.writeAct o h r .KV_TREE_FLUSH i (.num n) = actKvFlush s i n := rfl

theorem act_DET_GEN_IN (s : State) (o : Origin) (h r : Option Nat) (i : Nat) (b : Bytes) :
    s.writeAct o h r .DET_GEN_IN i (.bytes b) = actGenIn s b := rfl

theorem act_DET_REPLAY_SWATH (s : State) (o : Origin) (h r : Option Nat) (i : Nat) (b : Bytes) :
    s.writeAct o h r .DET_REPLAY_SWATH i (.bytes b) = actReplaySwath s i b := rfl

theorem act_DET_REPLAY_SEQ (s : State) (o : Origin) (h r : Option Nat) (i : Nat) (b : Bytes) :
    s.writeAct o h r .DET_REPLAY_SEQ i (.bytes b) = actReplaySeq s i b := rfl

theorem act_DET_REPLAY_STATE (s : State) (o : Origin) (h r : Option Nat) (i : Nat) (b : Bytes) :
    s.writeAct o h r .DET_REPLAY_STATE i (.bytes b) = actReplayState s i b := rfl

theorem act_NL_POWER_CMD (s : State) (o : Origin) (h r : Option Nat) (p : Fin 8) (n : Nat) :
    s.writeAct o h r .NL_POWER_CMD p.val (.num n) = actNlPower s p n := by
  have : toFin? 8 p.val = some p := by unfold toFin?; rw [dif_pos p.isLt]
  unfold State.writeAct
  dsimp only
  rw [this]
  rfl

theorem act_NL_INJECT (s : State) (o : Origin) (h r : Option Nat) (p : Fin 8) (n : Nat) :
    s.writeAct o h r .NL_INJECT p.val (.num n) = actNlInject s p n := by
  have : toFin? 8 p.val = some p := by unfold toFin?; rw [dif_pos p.isLt]
  unfold State.writeAct
  dsimp only
  rw [this]
  rfl

theorem act_RT_ADD (s : State) (o : Origin) (h r : Option Nat) (i : Nat) (b : Bytes) :
    s.writeAct o h r .RT_ADD i (.bytes b) = actRtAdd s i b := rfl

theorem act_RT_REMOVE (s : State) (o : Origin) (h r : Option Nat) (i : Nat) (n : Nat) :
    s.writeAct o h r .RT_REMOVE i (.num n) = actRtRemove s i n := rfl

theorem act_RT_PUBLISH (s : State) (o : Origin) (h r : Option Nat) (i : Nat) (n : Nat) :
    s.writeAct o h r .RT_PUBLISH i (.num n) = actRtPublish s i n := rfl

theorem act_RT_RESTART (s : State) (o : Origin) (h r : Option Nat) (i : Nat) (n : Nat) :
    s.writeAct o h r .RT_RESTART i (.num n) = actRtRestart s i n := rfl

theorem act_FIO_ACK (s : State) (o : Origin) (h r : Option Nat) (i : Nat) (n : Nat) :
    s.writeAct o h r .FIO_ACK i (.num n) = actFioAck s i n := rfl

theorem act_FIRE_STOP_ACK (s : State) (o : Origin) (h r : Option Nat) (i : Nat) (n : Nat) :
    s.writeAct o h r .FIRE_STOP_ACK i (.num n) = actFireStopAck s n := rfl

theorem act_ENC_ACK (s : State) (o : Origin) (h r : Option Nat) (i : Nat) (n : Nat) :
    s.writeAct o h r .ENC_ACK i (.num n) = actEncAck s i n := rfl

theorem act_TS_SET (s : State) (o : Origin) (h r : Option Nat) (i : Nat) (b : Bytes) :
    s.writeAct o h r .TS_SET i (.bytes b) = actTsSet s b := rfl

theorem act_PCI_XL_SUBMIT (s : State) (o : Origin) (h r i : Nat) (b : Bytes) :
    s.writeAct o (some h) (some r) .PCI_XL_SUBMIT i (.bytes b) = actSubmit s h r b := rfl

theorem act_PCI_XL_ABORT (s : State) (o : Origin) (h r : Option Nat) (i : Nat) (n : Nat) :
    s.writeAct o h r .PCI_XL_ABORT i (.num n) = actAbort s n := rfl

theorem act_SAF_EVENT_ACK (s : State) (o : Origin) (h r : Option Nat) (i : Nat) (n : Nat) :
    s.writeAct o h r .SAF_EVENT_ACK i (.num n) = actSafAck s n := rfl

theorem act_BOOT_FW_IMAGE (s : State) (o : Origin) (h r : Option Nat) (i : Nat) (b : Bytes) :
    s.writeAct o h r .BOOT_FW_IMAGE i (.bytes b) = actFwImage s b := rfl

theorem act_BOOT_FW_INSTALL (s : State) (o : Origin) (h r : Option Nat) (i : Nat) (n : Nat) :
    s.writeAct o h r .BOOT_FW_INSTALL i (.num n) = actFwInstall s n := rfl

theorem act_BOOT_RB_ADVANCE (s : State) (o : Origin) (h r : Option Nat) (i : Nat) (b : Bytes) :
    s.writeAct o h r .BOOT_RB_ADVANCE i (.bytes b) = actRbAdvance s b := rfl

theorem act_BOOT_OWNER_KEY (s : State) (o : Origin) (h r : Option Nat) (i : Nat) (b : Bytes) :
    s.writeAct o h r .BOOT_OWNER_KEY i (.bytes b) = actOwnerKey s b := rfl

theorem act_BOOT_REVOKE (s : State) (o : Origin) (h r : Option Nat) (i : Nat) (n : Nat) :
    s.writeAct o h r .BOOT_REVOKE i (.num n) = actRevoke s n := rfl

theorem act_BOOT_ATTEST_NONCE (s : State) (o : Origin) (h r : Option Nat) (i : Nat) (b : Bytes) :
    s.writeAct o h r .BOOT_ATTEST_NONCE i (.bytes b) = actAttestNonce s o b := rfl

theorem act_BOOT_PKG_STORE (s : State) (o : Origin) (h r : Option Nat) (i : Nat) (n : Nat) :
    s.writeAct o h r .BOOT_PKG_STORE i (.num n) = actPkgStore s n := rfl

theorem act_BOOT_PKG_UNSTORE (s : State) (o : Origin) (h r : Option Nat) (i : Nat) (n : Nat) :
    s.writeAct o h r .BOOT_PKG_UNSTORE i (.num n) = actPkgUnstore s n := rfl

end Sys2Proof.Machine
end

