-- ==== Sys2Proof/Laws/Inert.lean ====
section
/-! SUPPORT. What a transition to INERT does (R32, R40), once. -/

namespace Sys2Proof.Machine

open Sys2Proof

@[simp] theorem kernel_encoPins (s : State) (e : Nat) (a b : Bool) : (s.encoPins e a b).kernel = s.kernel := by
  unfold State.encoPins; split <;> rfl

@[simp] theorem kernel_slotSkip (s : State) (n : Fin 32) : (s.slotSkip n).kernel = s.kernel := by
  unfold State.slotSkip; rfl

@[simp] theorem kernel_syncEnables (s : State) : s.syncEnables.kernel = s.kernel := by
  unfold State.syncEnables
  dsimp only
  refine (kernel_each _ _ _ ?_).trans ((kernel_each _ _ _ ?_).trans (kernel_each _ _ _ ?_))
  · intro u n; split
    · rfl
    · split <;> simp
  · intro u n; split
    · rfl
    · split
      · simp
      · split <;> simp
  · intro u n; split
    · rfl
    · split <;> simp

@[simp] theorem kernel_tsReselect (s : State) : s.tsReselect.kernel = s.kernel := by
  unfold State.tsReselect
  dsimp only
  repeat' split
  all_goals simp

@[simp] theorem kernel_tsSourceChange (s : State) (old : Nat) : (s.tsSourceChange old).kernel = s.kernel := by
  unfold State.tsSourceChange
  dsimp only
  repeat' split
  all_goals simp

/-- Clearing the enables changes committed values and waiting commits alone. -/
theorem clearEnables_eq (s : State) : ∃ c w, s.clearEnables = { s with od := { s.od with committed := c, waiting := w } } := by
  unfold State.clearEnables
  dsimp only
  have h2 (e : Ent) (l : List Nat) : ∀ u : State, ∃ c, u.each l (fun s i => s.setNum e i 0) = { u with od := { u.od with committed := c } } := by
    induction l with
    | nil => intro u; exact ⟨_, rfl⟩
    | cons i l ih => intro u; obtain ⟨c, hc⟩ := ih (u.setNum e i 0); exact ⟨c, hc⟩
  have h1 (l : List (Ent × Nat)) : ∀ u : State, ∃ c, u.each l (fun s e => s.each (List.range e.2) (fun s i => s.setNum e.1 i 0)) =
      { u with od := { u.od with committed := c } } := by
    induction l with
    | nil => intro u; exact ⟨_, rfl⟩
    | cons e l ih =>
      intro u
      obtain ⟨c, hc⟩ := h2 e.1 (List.range e.2) u
      obtain ⟨c', hc'⟩ := ih (u.each (List.range e.2) (fun s i => s.setNum e.1 i 0))
      refine ⟨c', ?_⟩
      show State.each (u.each (List.range e.2) (fun s i => s.setNum e.1 i 0)) l _ = _
      rw [hc', hc]
  obtain ⟨c, hc⟩ := h1 inertEnables { s with od := { s.od with waiting := s.od.waiting.filter (fun e => !inertKey e.1) } }
  exact ⟨c, _, hc⟩

/-- A committed value after numbers of an entry's instances have been cleared. -/
theorem each_setNum_val (e : Ent) (l : List Nat) (f : Ent) (a : Nat) : ∀ u : State,
    (∀ i ∈ l, f.key a 0 ≠ e.key i 0) → (u.each l (fun s i => s.setNum e i 0)).val f a 0 = u.val f a 0 := by
  induction l with
  | nil => intro u _; rfl
  | cons i l ih =>
    intro u h
    exact (ih (u.setNum e i 0) (fun j hj => h j (List.mem_cons_of_mem _ hj))).trans (val_setVal_ne _ _ _ _ _ _ _ _ (h i (List.mem_cons_self ..)))

theorem clear_val (L : List (Ent × Nat)) (f : Ent) (a : Nat) : ∀ u : State,
    (∀ e ∈ L, ∀ i < e.2, f.key a 0 ≠ e.1.key i 0) →
    (u.each L (fun s e => s.each (List.range e.2) (fun s i => s.setNum e.1 i 0))).val f a 0 = u.val f a 0 := by
  induction L with
  | nil => intro u _; rfl
  | cons e l ih =>
    intro u h
    refine (ih _ (fun x hx => h x (List.mem_cons_of_mem _ hx))).trans (each_setNum_val e.1 _ f a u ?_)
    intro i hi
    exact h e (List.mem_cons_self ..) i (List.mem_range.mp hi)

theorem each_setNum_zero (e : Ent) (l : List Nat) (a : Nat) : ∀ u : State, (a ∈ l ∨ u.num e a = 0) →
    (u.each l (fun s i => s.setNum e i 0)).num e a = 0 := by
  induction l with
  | nil => intro u h; exact h.resolve_left (by simp)
  | cons i l ih =>
    intro u h
    refine ih (u.setNum e i 0) ?_
    by_cases hia : a = i
    · subst hia; right; show (State.val _ _ _ _).toNat = 0; rw [State.setNum, val_setVal]; rfl
    · rcases h with h | h
      · exact .inl ((List.mem_cons.mp h).resolve_left hia)
      · right
        show (State.val _ _ _ _).toNat = 0
        rw [State.setNum, val_setVal_ne]
        · exact h
        · unfold Ent.key; omega

/-- The enables of R32 are 0 after a transition to INERT. -/
theorem clearEnables_zero (s : State) (e : Ent × Nat) (he : e ∈ inertEnables) (i : Nat) (hi : i < e.2) : s.clearEnables.num e.1 i = 0 := by
  have key : ∀ L : List (Ent × Nat), ∀ u : State, (e ∈ L ∨ u.num e.1 i = 0) → (∀ x ∈ L, x = e ∨ ∀ j < x.2, e.1.key i 0 ≠ x.1.key j 0) →
      (u.each L (fun s e => s.each (List.range e.2) (fun s i => s.setNum e.1 i 0))).num e.1 i = 0 := by
    intro L
    induction L with
    | nil => intro u h _; exact h.resolve_left (by simp)
    | cons x l ih =>
      intro u h hx
      refine ih _ ?_ (fun y hy => hx y (List.mem_cons_of_mem _ hy))
      by_cases hxe : x = e
      · subst hxe; right; exact each_setNum_zero x.1 _ i u (.inl (List.mem_range.mpr hi))
      · rcases h with h | h
        · exact .inl ((List.mem_cons.mp h).resolve_left (Ne.symm hxe))
        · right
          show (State.val _ _ _ _).toNat = 0
          rw [each_setNum_val x.1 _ e.1 i u]
          · exact h
          · intro j hj; exact ((hx x (List.mem_cons_self ..)).resolve_left hxe) j (List.mem_range.mp hj)
  unfold State.clearEnables
  refine key inertEnables _ (.inl he) ?_
  have hd : ∀ e ∈ inertEnables, ∀ x ∈ inertEnables, x = e ∨ ∀ i < e.2, ∀ j < x.2, e.1.key i 0 ≠ x.1.key j 0 := by decide
  intro x hx
  rcases hd e he x hx with h | h
  · exact .inl h
  · exact .inr (h i hi)

/-- A port after the commit of its entries is not UP, or as it was (R384, R390). -/
theorem nlCommit_port (s : State) (p q : Fin 8) : (s.nlCommit p).squad.ports[q] = s.squad.ports[q] ∨ (s.nlCommit p).squad.ports[q].state ≠ .up := by
  have hset (c : NlPort) (f : NlPort → NlPort) (h : (f s.squad.ports[p]).state ≠ .up) :
      (s.modPort p f).squad.ports[q] = s.squad.ports[q] ∨ (s.modPort p f).squad.ports[q].state ≠ .up := by
    unfold State.modPort State.modSquad
    by_cases hpq : p = q
    · subst hpq; right; simpa using h
    · left
      have : p.val ≠ q.val := fun c => hpq (Fin.ext c)
      simp [this]
  unfold State.nlCommit
  dsimp only
  split
  · split
    · exact .inl rfl
    · exact hset s.squad.ports[p] _ (by simp)
  · split
    · split
      · exact .inl rfl
      · exact hset s.squad.ports[p] _ (by simp [NlPort.init])
    · split
      · exact hset s.squad.ports[p] _ (by simp [NlPort.toDetect])
      · exact .inl rfl

/-- The commit of a port's entries changes ports alone. -/
theorem nlCommit_eq (s : State) (p : Fin 8) : ∃ v, s.nlCommit p = { s with squad := { s.squad with ports := v } } := by
  unfold State.nlCommit
  dsimp only
  repeat' split
  all_goals first | exact ⟨_, rfl⟩ | exact ⟨s.squad.ports, rfl⟩

theorem nlCommits_eq (l : List (Fin 8)) : ∀ s : State, ∃ v, s.each l (fun s p => s.nlCommit p) = { s with squad := { s.squad with ports := v } } ∧
    ∀ q : Fin 8, v[q] = s.squad.ports[q] ∨ v[q].state ≠ .up := by
  induction l with
  | nil => intro s; exact ⟨s.squad.ports, rfl, fun _ => .inl rfl⟩
  | cons p l ih =>
    intro s
    obtain ⟨v, hv⟩ := nlCommit_eq s p
    obtain ⟨w, hw, hq⟩ := ih (s.nlCommit p)
    refine ⟨w, ?_, fun q => ?_⟩
    · show State.each (s.nlCommit p) l _ = _
      rw [hw, hv]
    · rcases hq q with h | h
      · rcases nlCommit_port s p q with k | k
        · exact .inl (h.trans k)
        · right; rw [h]; exact k
      · exact .inr h

/-- A seat that carries neither a command nor a load leaves its squad. -/
theorem squadNone_idle (u : State) (hc : u.squad.cmd = none) (hl : u.squad.load = none) :
    u.squadNone = { u with squad := { Squad.init with ports := u.squad.ports, epoch := u.squad.epoch, formFault := u.squad.formFault } } := by
  unfold State.squadNone
  rw [hc]
  dsimp only
  rw [hl]
  rfl

/-- The kernel after the rota has stopped. -/
theorem kernel_rotaStop (a : State) : (a.rotaStop).kernel = { a.kernel with squad := { a.squad with spans := [] } } := by
  unfold State.rotaStop State.kernel; simp

/-- What a transition to INERT leaves of the kernel, and of committed values (R32, R40). -/
theorem toInert_kernel (s : State) (hc : s.squad.cmd = none) (hl : s.squad.load = none) :
    ∃ (C : AMap OdVal) (Q : Squad) (b : State), s.toInert.kernel = { s.kernel with dev := { s.dev with state := .inert, safeCause := 0 }, committed := C, squad := Q } ∧
      b.od.committed = s.od.committed ∧ b.boot.fuses = s.boot.fuses ∧ b.clearEnables.od.committed = C ∧
      b.clearEnables.boot.fuses = s.boot.fuses ∧ Q.cmd = none ∧ Q.state = .none ∧
      ∀ q : Fin 8, Q.ports[q] = s.squad.ports[q] ∨ Q.ports[q].state ≠ .up := by
  have hb := kernel_rotaStop s.outputsOff
  rw [squad_kernel (kernel_outputsOff s), kernel_outputsOff] at hb
  unfold State.toInert
  dsimp only
  obtain ⟨b, hbe⟩ : ∃ b, s.outputsOff.rotaStop = b := ⟨_, rfl⟩
  rw [hbe] at hb ⊢
  obtain ⟨c, w, hce⟩ := clearEnables_eq b
  obtain ⟨e, hee⟩ : ∃ e, b.clearEnables = e := ⟨_, rfl⟩
  rw [hee] at hce ⊢
  have hek : e.kernel = { b.kernel with committed := e.od.committed } := by rw [hce]; rfl
  rw [hb] at hek
  obtain ⟨v, hv, hvq⟩ := nlCommits_eq (allFin 8) e
  rw [hv]
  have hes : e.squad = { s.squad with spans := [] } := congrArg Kernel.squad hek
  obtain ⟨Q, hQ, hQc, hQs, hQp⟩ : ∃ Q : Squad, ({ e with squad := { e.squad with ports := v } } : State).squadNone = { e with squad := Q } ∧
      Q.cmd = none ∧ Q.state = .none ∧ Q.ports = v :=
    ⟨_, squadNone_idle _ (by show e.squad.cmd = none; rw [hes]; exact hc) (by show e.squad.load = none; rw [hes]; exact hl), rfl, rfl, rfl⟩
  rw [hQ, kernel_tsSourceChange, kernel_syncEnables]
  refine ⟨e.od.committed, Q, b, ?_, congrArg Kernel.committed hb, congrArg Kernel.fuses hb, by rw [hee], by rw [hee]; exact congrArg Kernel.fuses hek, hQc, hQs, ?_⟩
  · have hg (f : Device → Device) : (({ e with squad := Q } : State).modDev f).kernel = { e.kernel with dev := f e.dev, squad := Q } := rfl
    rw [hg, hek]
    have : e.dev = s.dev := congrArg Kernel.dev hek
    rw [this]
  · intro q
    rw [hQp]
    rcases hvq q with h | h
    · left; exact h.trans (by rw [hes])
    · exact .inr h

/-- What a transition to INERT leaves (R32, R40), where the seat carries neither a command nor a load of its squad. -/
theorem toInert_facts (s : State) (hc : s.squad.cmd = none) (hl : s.squad.load = none) :
    s.toInert.od.sessions = s.od.sessions ∧ s.toInert.pending = s.pending ∧ s.toInert.boot.fuses = s.boot.fuses ∧
    s.toInert.dev = { s.dev with state := .inert, safeCause := 0 } ∧ s.toInert.squad.cmd = none ∧ s.Quiet s.toInert ∧
    s.toInert.crewsShort = s.crewsShort ∧ (∀ e ∈ inertEnables, ∀ i < e.2, s.toInert.num e.1 i = 0) := by
  obtain ⟨C, Q, b, hk, h1, h2, h3, h4, h5, h6, h7⟩ := toInert_kernel s hc hl
  obtain ⟨t, ht⟩ : ∃ t, s.toInert = t := ⟨_, rfl⟩
  rw [ht] at hk ⊢
  have hsq : t.squad = Q := congrArg Kernel.squad hk
  have hcm : t.od.committed = b.clearEnables.od.committed := (congrArg Kernel.committed hk).trans h3.symm
  have hfu : t.boot.fuses = s.boot.fuses := congrArg Kernel.fuses hk
  refine ⟨congrArg Kernel.sessions hk, congrArg Kernel.pending hk, hfu, congrArg Kernel.dev hk, by rw [hsq]; exact h5, ⟨fun p => ?_, fun p _ => ?_⟩, ?_,
    fun e he i hi => ?_⟩
  · rintro ⟨k1, k2⟩
    rw [hsq] at k2
    rcases h7 p with h | h
    · rw [h, k1] at k2; cases k2
    · exact h k2
  · right; right; rw [hsq, h6]; decide
  · refine crewsShort_vals (fun e he => ?_) hfu (congrArg Kernel.held hk) (congrArg Kernel.crews hk) (congrArg Kernel.packages hk)
    have k1 : t.val e.1 e.2 0 = b.clearEnables.val e.1 e.2 0 := val_congr hcm (hfu.trans h4.symm) _ _ _
    have k2 : b.clearEnables.val e.1 e.2 0 = b.val e.1 e.2 0 := by
      unfold State.clearEnables
      refine (clear_val inertEnables e.1 e.2 _ ?_).trans rfl
      have hd : ∀ e ∈ crewKeys, ∀ x ∈ inertEnables, ∀ i < x.2, e.1.key e.2 0 ≠ x.1.key i 0 := by decide
      exact hd e he
    rw [k1, k2]
    exact val_congr h1 h2 _ _ _
  · have hv : t.val e.1 i 0 = b.clearEnables.val e.1 i 0 := val_congr hcm (hfu.trans h4.symm) _ _ _
    show (t.val e.1 i 0).toNat = 0
    rw [hv]
    exact clearEnables_zero b e he i hi

/-- The fire list holds no entry after a change of the enables that held none. -/
theorem fire_syncEnables (s : State) : s.syncEnables.field.fire = s.field.fire := by
  unfold State.syncEnables
  dsimp only
  refine (each_same (fun s : State => s.field.fire) _ _ _ ?_).trans ((each_same (fun s : State => s.field.fire) _ _ _ ?_).trans
    (each_same (fun s : State => s.field.fire) _ _ _ ?_))
  · intro u n; split
    · rfl
    · split <;> rfl
  · intro u n; split
    · rfl
    · split
      · rfl
      · split
        · unfold State.encoPins; split <;> rfl
        · rfl
  · intro u n; split
    · rfl
    · split <;> rfl

theorem fire_tsReselect (s : State) : s.tsReselect.field = s.field := by
  unfold State.tsReselect; dsimp only; repeat' split
  all_goals rfl

theorem fire_tsSourceChange (s : State) (o : Nat) : (s.tsSourceChange o).field = s.field := by
  unfold State.tsSourceChange; dsimp only; repeat' split
  all_goals rw [fire_tsReselect]
  all_goals rfl

theorem outputsOff_fire (s : State) : s.outputsOff.field.fire.entries = [] := by
  unfold State.outputsOff State.fireClear
  rw [camsOff_field]
  rfl

theorem rotaStop_field (s : State) : s.rotaStop.field = s.field := by
  unfold State.rotaStop; simp

/-- A transition to INERT clears the fire list (R31, R32). -/
theorem toInert_fire (s : State) (hc : s.squad.cmd = none) (hl : s.squad.load = none) : s.toInert.field.fire.entries = [] := by
  have hf := outputsOff_fire s
  have hb := kernel_rotaStop s.outputsOff
  rw [squad_kernel (kernel_outputsOff s)] at hb
  unfold State.toInert
  dsimp only
  rw [fire_tsSourceChange, fire_syncEnables]
  have hrf := rotaStop_field s.outputsOff
  obtain ⟨b, hbe⟩ : ∃ b, s.outputsOff.rotaStop = b := ⟨_, rfl⟩
  rw [hbe] at hb hrf ⊢
  obtain ⟨c, w, hce⟩ := clearEnables_eq b
  have hes : b.squad = { s.squad with spans := [] } := congrArg Kernel.squad hb
  obtain ⟨e, hee⟩ : ∃ e, b.clearEnables = e := ⟨_, rfl⟩
  rw [hee] at hce ⊢
  have h1 : e.squad = { s.squad with spans := [] } := by rw [hce]; exact hes
  have h2 : e.field = b.field := by rw [hce]
  obtain ⟨v, hv, -⟩ := nlCommits_eq (allFin 8) e
  rw [hv]
  obtain ⟨Q, hQ⟩ : ∃ Q : Squad, ({ e with squad := { e.squad with ports := v } } : State).squadNone = { e with squad := Q } :=
    ⟨_, squadNone_idle _ (by show e.squad.cmd = none; rw [h1]; exact hc) (by show e.squad.load = none; rw [h1]; exact hl)⟩
  rw [hQ]
  show e.field.fire.entries = []
  rw [h2, hrf, hf]

end Sys2Proof.Machine
end

