-- ==== Sys2Proof/Laws/Desk.lean ====
section
/-! SUPPORT. The desk of a state: the device block, the sessions and the squad, which the rota, the heats and the committed values leave alone. -/

namespace Sys2Proof.Machine

open Sys2Proof

/-- What the end of a row depends on beside the crews in service. -/
structure Desk where
  dev : Device
  sessions : Vector (Option Session) 48
  squad : Squad

/-- The desk of a state. -/
def State.desk (s : State) : Desk := ⟨s.dev, s.od.sessions, s.squad⟩

theorem desk_kernel {s t : State} (h : t.kernel = s.kernel) : t.desk = s.desk := by
  unfold State.desk; rw [dev_kernel h, sessions_kernel h, squad_kernel h]

@[simp] theorem desk_modCam (s : State) (p : Fin 12) (f : CamPort → CamPort) : (s.modCam p f).desk = s.desk := rfl
@[simp] theorem desk_modField (s : State) (f : Field → Field) : (s.modField f).desk = s.desk := rfl
@[simp] theorem desk_modCox (s : State) (f : Cox → Cox) : (s.modCox f).desk = s.desk := rfl
@[simp] theorem desk_modCrew (s : State) (c : Fin 6) (f : Crew → Crew) : (s.modCrew c f).desk = s.desk := rfl
@[simp] theorem desk_modSaf (s : State) (f : Safety → Safety) : (s.modSaf f).desk = s.desk := rfl
@[simp] theorem desk_modDet (s : State) (f : Det → Det) : (s.modDet f).desk = s.desk := rfl
@[simp] theorem desk_modBoot (s : State) (f : Boot → Boot) : (s.modBoot f).desk = s.desk := rfl
@[simp] theorem desk_modRecs (s : State) (f : Records → Records) : (s.modRecs f).desk = s.desk := rfl
@[simp] theorem desk_modTu (s : State) (f : TimeUnit → TimeUnit) : (s.modTu f).desk = s.desk := rfl
@[simp] theorem desk_modMem (s : State) (f : Mem → Mem) : (s.modMem f).desk = s.desk := rfl
@[simp] theorem desk_emit (s : State) (o : Out) : (s.emit o).desk = s.desk := rfl
@[simp] theorem desk_draw (s : State) : s.draw.desk = s.desk := rfl
@[simp] theorem desk_lintBy (s : State) (l : Lint) (i n : Nat) : (s.lintBy l i n).desk = s.desk := rfl
@[simp] theorem desk_lintAt (s : State) (l : Lint) (i : Nat) : (s.lintAt l i).desk = s.desk := rfl
@[simp] theorem desk_lint (s : State) (l : Lint) : (s.lint l).desk = s.desk := rfl
@[simp] theorem desk_setVal (s : State) (e : Ent) (i k : Nat) (v : OdVal) : (s.setVal e i k v).desk = s.desk := rfl
@[simp] theorem desk_setNum (s : State) (e : Ent) (i n : Nat) : (s.setNum e i n).desk = s.desk := rfl

@[simp] theorem desk_setKey (s : State) (k : Nat) (v : OdVal) : (s.setKey k v).desk = s.desk := by
  unfold State.setKey; split <;> rfl

@[simp] theorem desk_modHeat (s : State) (k : Nat) (f : Heat → Heat) : (s.modHeat k f).desk = s.desk := by
  unfold State.modHeat; split <;> rfl

@[simp] theorem desk_modKv (s : State) (p : Nat) (f : KvPart → KvPart) : (s.modKv p f).desk = s.desk := desk_kernel (kernel_modKv s p f)

@[simp] theorem desk_modRt (s : State) (p : Nat) (f : Retune → Retune) : (s.modRt p f).desk = s.desk := desk_kernel (kernel_modRt s p f)

@[simp] theorem desk_modSwath (s : State) (p c : Nat) (f : Swath → Swath) : (s.modSwath p c f).desk = s.desk := desk_kernel (kernel_modSwath s p c f)

/-- A fold over operations that leave the desk alone. -/
theorem desk_each {α : Type} (s : State) (l : List α) (f : State → α → State) (h : ∀ u x, (f u x).desk = u.desk) :
    (s.each l f).desk = s.desk := each_same State.desk s l f h

@[simp] theorem desk_applyWaiting (s : State) (p : Nat → Bool) : (s.applyWaiting p).desk = s.desk := by
  unfold State.applyWaiting; exact (desk_each _ _ _ (fun _ _ => desk_setKey ..)).trans rfl

@[simp] theorem desk_moveTokens (s : State) (p : Nat) (a b : List Nat) : (s.moveTokens p a b).desk = s.desk := by
  unfold State.moveTokens; split <;> rfl

@[simp] theorem desk_syncEnables (s : State) : s.syncEnables.desk = s.desk := desk_kernel (kernel_syncEnables s)

theorem desk_regrade (s : State) (h : s.dev.state.runs = false) : s.regrade.desk = s.desk := by rw [regrade_idle s h]

theorem dev_desk {s t : State} (h : t.desk = s.desk) : t.dev = s.dev := congrArg Desk.dev h
theorem ses_desk {s t : State} (h : t.desk = s.desk) : t.od.sessions = s.od.sessions := congrArg Desk.sessions h
theorem squad_desk {s t : State} (h : t.desk = s.desk) : t.squad = s.squad := congrArg Desk.squad h

/-- A row whose effect changes of the desk the device block alone, with nothing waiting, where no partition becomes short of crews. -/
theorem lateEnd_desk {s t : State} (d : Device) (h : t.desk = { s.desk with dev := d }) (hs : s.Settled)
    (hc : t.crewsShort = true → s.crewsShort = true) : ∃ u, lateEnd s t = .next u ∧ t.EndsAs u := by
  have h1 : t.od.sessions = s.od.sessions := congrArg Desk.sessions h
  have h2 : t.squad = s.squad := congrArg Desk.squad h
  exact lateEnd_ends s t (nlSettle_same _ _ (by rw [h2])) ⟨by rw [idleWork_sessions h1]; exact hs.1, by rw [h2]; exact hs.2⟩ hc

/-! ### ARM -/

@[simp] theorem desk_patchCrewShells (s : State) (c : Fin 6) : (s.patchCrewShells c).desk = s.desk := by
  unfold State.patchCrewShells; rfl

@[simp] theorem desk_patchCrewOars (s : State) (c : Fin 6) : (s.patchCrewOars c).desk = s.desk := by
  unfold State.patchCrewOars
  refine desk_each _ _ _ (fun u x => ?_)
  split <;> rfl

/-- An admission patches crews, and grades RUN and DEGRADED alone. -/
theorem desk_atAdmission (s : State) (h : s.dev.state.runs = false) : s.atAdmission.desk = s.desk := by
  unfold State.atAdmission
  dsimp only
  have h2 : ((s.applyWaiting (fun k => inGroup 0x24 k || inGroup 0x27 k)).each (allFin 6) (fun s c => (s.patchCrewShells c).patchCrewOars c)).desk = s.desk := by
    refine (desk_each _ _ _ (fun u x => ?_)).trans (desk_applyWaiting ..)
    rw [desk_patchCrewOars, desk_patchCrewShells]
  obtain ⟨b, hb⟩ : ∃ b, (s.applyWaiting (fun k => inGroup 0x24 k || inGroup 0x27 k)).each (allFin 6) (fun s c => (s.patchCrewShells c).patchCrewOars c) = b := ⟨_, rfl⟩
  rw [hb] at h2 ⊢
  split
  · exact h2
  · rw [desk_regrade]
    · simpa using h2
    · have : b.dev = s.dev := dev_desk h2
      simpa [this] using h

@[simp] theorem desk_admit (s : State) (r : CoxReq) (p : Package) (pl : Plan) (f : Fit) : (s.admitHeat r p pl f).desk = s.desk := by
  unfold State.admitHeat
  dsimp only
  split
  · simp
  · split <;> simp

@[simp] theorem desk_admitSwatch (s : State) (n : Nat) : (s.admitSwatch n).desk = s.desk := by
  unfold State.admitSwatch
  refine desk_each _ _ _ (fun u c => ?_)
  split
  · rfl
  · dsimp only
    split
    · rfl
    · simp [State.newReq]

@[simp] theorem desk_heatStarts (s : State) (n : Nat) : (s.heatStarts n).desk = s.desk := by
  unfold State.heatStarts
  refine desk_each _ _ _ (fun u e => ?_)
  split
  · rfl
  · dsimp only
    split <;> simp

/-- What ARM leaves of the desk: ARMED, and no ARM in progress (R39). -/
theorem desk_armNow (s : State) (h : s.dev.state = .inert) :
    s.armNow.desk = { s.desk with dev := { s.dev with state := .armed, arming := none } } := by
  unfold State.armNow
  dsimp only
  rw [desk_heatStarts, desk_admitSwatch]
  have h2 : (((s.applyWaiting armKey).armCox).setNum .PWR_BASE 0 ((s.applyWaiting armKey).armCox).powerBase).desk = s.desk := by
    unfold State.armCox; simp
  obtain ⟨a, ha⟩ : ∃ a, ((s.applyWaiting armKey).armCox).setNum .PWR_BASE 0 ((s.applyWaiting armKey).armCox).powerBase = a := ⟨_, rfl⟩
  rw [ha] at h2 ⊢
  have hd : a.dev = s.dev := dev_desk h2
  have h3 := (desk_atAdmission a (by rw [hd, h]; rfl)).trans h2
  obtain ⟨b, hb⟩ : ∃ b, a.atAdmission = b := ⟨_, rfl⟩
  rw [hb] at h3 ⊢
  have h4 := (desk_each b (allFin 12) (fun s p =>
    s.modCam p (fun c => c.arm (s.flag .CAM_ENABLE p) (if s.flag .CAM_ENABLE p then s.num .CAM_SWATH_BUFS p else 0))) (fun _ _ => rfl)).trans h3
  obtain ⟨c, hc⟩ : ∃ c, b.each (allFin 12) (fun s p =>
    s.modCam p (fun c => c.arm (s.flag .CAM_ENABLE p) (if s.flag .CAM_ENABLE p then s.num .CAM_SWATH_BUFS p else 0))) = c := ⟨_, rfl⟩
  rw [hc] at h4 ⊢
  have hg (u : State) (f : Device → Device) : (u.modDev f).desk = { u.desk with dev := f u.dev } := rfl
  have h5 : (State.modSaf _ _ : State).syncEnables.desk = c.desk :=
    (desk_syncEnables (({ c with
      kv := Vector.replicate 8 KvPart.init, recs := c.recs.arm
      pci := { c.pci with archive := ⟨c.num .PCI_ARCH_MIB 0 * 2 ^ 20, [], 0, 0⟩ }
      det := { c.det with replays := Vector.replicate 8 0 } } : State).modSaf (fun f => { f with running := [], expected := [] }))).trans rfl
  rw [hg]
  have h6 := h5.trans h4
  rw [h6, dev_desk h6]

/-! ### STOP -/

@[simp] theorem kernel_slVerdict (s : State) (e : KvEntry) (v : Verdict) (c : Cause) (b : Bool) : (s.slVerdict e v c b).kernel = s.kernel :=
  kernel_still (still_slVerdict ..)

@[simp] theorem kernel_slResult (s : State) (p : Nat) (q : KvSeq) (h : Option Heat) (n : Nat) (c : Cause) : (s.slResult p q h n c).kernel = s.kernel :=
  kernel_still (still_slResult ..)

@[simp] theorem kernel_stopSeqs (s : State) (p : Nat) (h : Option Heat) : (s.stopSeqs p h).kernel = s.kernel := by
  unfold State.stopSeqs
  refine kernel_each _ _ _ (fun u e => ?_)
  dsimp only
  rw [kernel_modKv, kernel_slResult]
  split <;> simp

@[simp] theorem kernel_stopParts (s : State) (p : Nat) : (s.stopParts p).kernel = s.kernel := by
  unfold State.stopParts
  dsimp only
  have h : ((s.each (s.kvPart p).queue (fun s e => s.slVerdict e .undecided .stopped false)).modKv p (fun k => { k with queue := [] })).kernel = s.kernel := by
    rw [kernel_modKv]; exact kernel_each _ _ _ (fun _ _ => kernel_slVerdict ..)
  split
  · exact h
  · rw [kernel_stopSeqs]; exact h

@[simp] theorem kernel_stopReq (s : State) (r : CoxReq) : (s.stopReq_ r).kernel = s.kernel := kernel_still (still_stopReq s r)

/-- STOP leaves the kernel alone (R30). -/
@[simp] theorem kernel_stopNow (s : State) : s.stopNow.kernel = s.kernel := by
  unfold State.stopNow
  dsimp only
  rw [kernel_each _ _ _ (fun _ _ => kernel_stopParts ..), kernel_each _ _ _ (fun _ _ => kernel_stopReq ..), kernel_modCox _ _ rfl]

@[simp] theorem cox_modKv (s : State) (p : Nat) (f : KvPart → KvPart) : (s.modKv p f).cox = s.cox := by
  unfold State.modKv; split <;> rfl

@[simp] theorem cox_stopParts (s : State) (p : Nat) : (s.stopParts p).cox = s.cox := by
  unfold State.stopParts
  dsimp only
  have h : ((s.each (s.kvPart p).queue (fun s e => s.slVerdict e .undecided .stopped false)).modKv p (fun k => { k with queue := [] })).cox = s.cox := by
    rw [cox_modKv]; exact each_same State.cox _ _ _ (fun _ _ => cox_still (still_slVerdict ..))
  split
  · exact h
  · unfold State.stopSeqs
    refine (each_same State.cox _ _ _ (fun u e => ?_)).trans h
    dsimp only
    rw [cox_modKv, cox_still (still_slResult ..)]
    split
    · rfl
    · exact cox_still (still_slVerdict ..)

/-- STOP ends admission, and of the requests those stay that resume a heat (R30). -/
theorem cox_stopNow (s : State) : s.stopNow.cox = { s.cox with
    stopReq := true, admitting := false, queue := s.cox.queue.filter (fun r => r.resume.isSome), held := [] } := by
  unfold State.stopNow
  dsimp only
  rw [each_same State.cox _ _ _ (fun _ _ => cox_stopParts ..), each_same State.cox _ _ _ (fun _ _ => cox_still (still_stopReq ..))]
  rfl

end Sys2Proof.Machine
end

