-- ==== Sys2Proof/Laws/Blocks.lean ====
section
/-! SUPPORT. What the shared operations of the blocks leave alone. -/

namespace Sys2Proof.Machine

open Sys2Proof

@[simp] theorem kernel_writeGroup (s : State) (g : Nat) (d : Bytes) : (s.writeGroup g d).kernel = s.kernel := rfl

@[simp] theorem kernel_memError (s : State) (a b c : Nat) (d : Bool) (n : Nat) : (s.memError a b c d n).kernel = s.kernel := by
  unfold State.memError
  dsimp only
  repeat' split
  all_goals simp

@[simp] theorem kernel_readGroup (s : State) (g : Nat) (l : List (BitVec 14)) : (s.readGroup g l).1.kernel = s.kernel := by
  unfold State.readGroup
  dsimp only
  repeat' split
  all_goals simp

/-- Reads of LPDDR5 change nothing of the kernel. -/
theorem kernel_bulkReads (l : List Nat) : ∀ (s : State) (b : Bytes),
    (l.foldl (fun (acc : State × Bytes) g => let (t, d, _, _) := acc.1.readGroup g []; (t, acc.2 ++ d)) (s, b)).1.kernel = s.kernel := by
  induction l with
  | nil => intro s b; rfl
  | cons g l ih =>
    intro s b
    rw [List.foldl_cons]
    exact (ih _ _).trans (kernel_readGroup s g [])

@[simp] theorem kernel_bulkRead (s : State) (o n : Nat) : (s.bulkRead o n).1.kernel = s.kernel := kernel_bulkReads _ s []

@[simp] theorem kernel_bulkWrite (s : State) (o : Nat) (d : Bytes) : (s.bulkWrite o d).kernel = s.kernel := by
  unfold State.bulkWrite
  apply kernel_each
  intro u g
  dsimp only
  split <;> simp

/-- A list after an update of it. -/
theorem xlist?_modList (s : State) (id : Nat) (f : XList → XList) (hf : ∀ l, (f l).id = l.id) :
    (s.modList id f).xlist? id = (s.xlist? id).map f := by
  unfold State.xlist? State.modList
  dsimp only
  rw [List.find?_map]
  have : ((fun l : XList => l.id == id) ∘ fun l => if l.id = id then f l else l) = fun l => l.id == id := by
    funext l
    simp only [Function.comp]
    split
    · rw [hf]
    · rfl
  rw [this]
  cases h : s.pci.lists.find? (fun l => l.id == id) with
  | none => rfl
  | some l =>
    have := List.find?_some h
    simp only [beq_iff_eq] at this
    simp [this]

/-! ### Rows of entries whose writes act -/

theorem rsvOk_zero {E : Ent} (v : Nat) (h : E.rsv = 0) : E.rsvOk (.num v) = true := by
  show (v &&& E.rsv == 0) = true
  rw [h]; simp

theorem rangeOk_num {E : Ent} {i v : Nat} (h1 : (E.row.ty != .boolean) = true) (h2 : E.numOk i 0 v = true) : E.rangeOk i 0 (.num v) = true := by
  show ((E.row.ty != .boolean || decide (v ≤ 1)) && E.numOk i 0 v) = true
  rw [h1, h2]; rfl

/-- A state with other sessions. -/
def State.withSessions (s : State) (ss : Vector (Option Session) 48) : State := { s with od := { s.od with sessions := ss } }

theorem withSessions_bare (s : State) (ss) : (s.withSessions ss).bare = s.bare := rfl

theorem began_with (s : State) (x : Session) (r : Request) (h : s.session? r.env.session.toNat = some x) : ∃ ss, s.began x r = s.withSessions ss := by
  unfold State.began; rw [setSession_eq _ (session?_lt h)]; exact ⟨_, rfl⟩

theorem crewsShort_with (s : State) (ss) : (s.withSessions ss).crewsShort = s.crewsShort := crewsShort_congr _ _ rfl rfl rfl rfl rfl

/-- A WO scalar entry whose action, whatever the sessions hold, makes `z` and is answered at once. -/
theorem num_does (s : State) (x : Session) (e : Envelope) (E : Ent) (i v : Nat) (z : State) (hm : s.MayWrite x (wrNum e E i v) (.ent E i 0))
    (hv : v < 256 ^ E.row.ty.size) (hty : E.row.ty ≠ .domain) (hwo : E.row.acc = .wo) (hrsv : E.rsvOk (.num v) = true)
    (hrange : E.rangeOk i 0 (.num v) = true)
    (hact : ∀ ss, (s.withSessions ss).writeAct (.session e.session.toNat e.reqId.toNat) (some e.session.toNat) (some e.reqId.toNat) E i (.num v) =
      .ok (z.withSessions ss))
    (hn : s.Quiet z) (hcmd : z.squad.cmd = none) (hc : z.crewsShort = true → s.crewsShort = true) :
    ∃ t, odRow s (wrNum e E i v) = .next t ∧ z.RespondsAs t (wrNum e E i v) .ok := by
  obtain ⟨ss, hss⟩ := began_with s x _ hm.takes.session
  have hd := wrNum_data e E i v hv
  have hop : (wrNum e E i v).op ≠ 2 := by show BitVec.ofNat 8 5 ≠ 2; decide
  obtain ⟨t, h1, h2⟩ := odRow_plain s x (wrNum e E i v) (.ok (z.withSessions ss)) false hm.takes hm.settled (by
      rw [perform_scalar s x _ E i 0 hm rfl hty (leBytes_length ..) rfl, hss]
      unfold State.writeObj
      simp only [hty, if_false, hd, hrsv, hrange, Bool.not_true, Bool.false_eq_true, hwo, if_true]
      exact congrArg (fun p => (p, false)) (hact ss)) rfl hop (by rw [hss]; rfl) (quiet_congr (t := z) rfl hn) hcmd
    (by intro h; exact hc (by rw [← h]; exact (crewsShort_with z ss).symm))
  exact ⟨t, h1, responds_base h2 (withSessions_bare z ss) rfl⟩

/-- A WO scalar entry whose action is answered later. -/
theorem num_waits (s : State) (x : Session) (e : Envelope) (E : Ent) (i v : Nat) (z : State) (hm : s.MayWrite x (wrNum e E i v) (.ent E i 0))
    (hv : v < 256 ^ E.row.ty.size) (hty : E.row.ty ≠ .domain) (hwo : E.row.acc = .wo) (hrsv : E.rsvOk (.num v) = true)
    (hrange : E.rangeOk i 0 (.num v) = true)
    (hact : ∀ ss, (s.withSessions ss).writeAct (.session e.session.toNat e.reqId.toNat) (some e.session.toNat) (some e.reqId.toNat) E i (.num v) =
      .wait (z.withSessions ss))
    (hn : s.Quiet z) (hcmd : z.squad.cmd = none) (hc : z.crewsShort = true → s.crewsShort = true) :
    ∃ t ss, odRow s (wrNum e E i v) = .next t ∧ (z.withSessions ss).EndsAs t := by
  obtain ⟨ss, hss⟩ := began_with s x _ hm.takes.session
  have hi := began_idle s x _ hm.takes.session hm.settled.1
  have hd := wrNum_data e E i v hv
  obtain ⟨t, h1, h2⟩ := odRow_later s x (wrNum e E i v) (.wait (z.withSessions ss)) false hm.takes hm.settled (by
      rw [perform_scalar s x _ E i 0 hm rfl hty (leBytes_length ..) rfl, hss]
      unfold State.writeObj
      simp only [hty, if_false, hd, hrsv, hrange, Bool.not_true, Bool.false_eq_true, hwo, if_true]
      exact congrArg (fun p => (p, false)) (hact ss)) rfl
    ⟨by rw [← hi, hss]; exact idleWork_sessions rfl, hcmd⟩ (quiet_congr (t := z) rfl hn)
    (by intro h; exact hc (by rw [← h]; exact (crewsShort_with z ss).symm))
  exact ⟨t, ss, h1, h2⟩

/-- Only a session's own work changes where its request begins. -/
theorem loadAssembly_began (s : State) (x : Session) (r : Request) (h48 : r.env.session.toNat < 48) :
    (s.began x r).loadAssembly (some r.env.session.toNat) none = s.loadAssembly (some r.env.session.toNat) none := by
  unfold State.loadAssembly
  dsimp only
  congr 1
  rotate_left
  · rw [show (s.began x r).pci = s.pci by unfold State.began; rw [setSession_eq _ h48]]
  congr 1
  funext k
  by_cases hk : k = r.env.session.toNat
  · subst hk; simp
  · rw [show (s.began x r).session? k = s.session? k by unfold State.began; rw [session?_setSession _ _ _ _ h48, if_neg hk]]

/-- The last segment of a WO DOMAIN entry whose action, whatever the sessions hold, makes `z` and is answered at once. -/
theorem seg_does (s : State) (x : Session) (e : Envelope) (E : Ent) (i : Nat) (ofs : BitVec 64) (b d : Bytes) (z : State)
    (hm : s.MayWrite x (wrSeg e E i ofs d) (.ent E i 0)) (hty : E.row.ty = .domain) (hb : x.Holds (wrSeg e E i ofs d) b) (hlast : e.last = true)
    (hlen : s.lengthFault (.ent E i 0) (b ++ d).length = none)
    (hload : (placeKey (wrSeg e E i ofs d).index.toNat (wrSeg e E i ofs d).sub.toNat == Ent.RP_LOAD.key 0 0) = false ∨
      s.loadAssembly (some e.session.toNat) none = false)
    (hwo : E.row.acc = .wo) (hrange : E.rangeOk i 0 (.bytes (b ++ d)) = true)
    (hact : ∀ ss, (s.withSessions ss).writeAct (.session e.session.toNat e.reqId.toNat) (some e.session.toNat) (some e.reqId.toNat) E i (.bytes (b ++ d)) =
      .ok (z.withSessions ss))
    (hn : s.Quiet z) (hcmd : z.squad.cmd = none) (hc : z.crewsShort = true → s.crewsShort = true) :
    ∃ t, odRow s (wrSeg e E i ofs d) = .next t ∧ z.RespondsAs t (wrSeg e E i ofs d) .ok := by
  have hx := hm.takes.session
  have h48 := session?_lt hx
  have hbeg : s.began { x with assembly := none } (wrSeg e E i ofs d) = s.withSessions (s.began { x with assembly := none } (wrSeg e E i ofs d)).od.sessions := by
    unfold State.began; rw [setSession_eq _ h48]; rfl
  obtain ⟨ss, hss⟩ : ∃ ss, (s.began { x with assembly := none } (wrSeg e E i ofs d)).od.sessions = ss := ⟨_, rfl⟩
  rw [hss] at hbeg
  have hk : ∀ k, (z.withSessions ss).session? k = (s.began { x with assembly := none } (wrSeg e E i ofs d)).session? k := session?_congr (by rw [hss]; rfl)
  obtain ⟨t, h1, h2⟩ := odRow_responds s x (wrSeg e E i ofs d) (.ok (z.withSessions ss)) false _ hm.takes hm.settled
    (by
      rw [perform_last s x _ E i 0 b hm rfl hty hb hlast hlen (hload.imp id (fun h => (loadAssembly_began s x _ h48).trans h)), hbeg]
      unfold State.writeObj
      simp only [hty, if_true, Ent.rsvOk, Bool.not_true, Bool.false_eq_true, if_false, hwo]
      rw [show (wrSeg e E i ofs d).data = d from rfl, hrange]
      exact congrArg (fun p => (p, false)) (hact ss))
    rfl (by show BitVec.ofNat 8 5 ≠ 2; decide)
    (by show (z.withSessions ss).session? _ = _; rw [hk]; unfold State.began; rw [session?_setSession _ _ _ _ h48, if_pos rfl]) rfl
    (by intro j hj; show (z.withSessions ss).session? _ = _; rw [hk]; unfold State.began; rw [session?_setSession _ _ _ _ h48, if_neg hj])
    (quiet_congr (t := z) rfl hn) hcmd (by intro h; exact hc (by rw [← h]; exact (crewsShort_with z ss).symm))
  exact ⟨t, h1, responds_base h2 (withSessions_bare z ss) rfl⟩

/-! ### Detected errors -/

/-- A detected error under the limit of its unit reaches its heat and the last error; the row ends. -/
theorem detected_from (s0 s v : State) (h0 : s.kernel = s0.kernel) (k kind crew unitNo stroke pass : Nat) (nd : Bool) (c : Cause) (u : UnitId)
    (hk : v.kernel = s.kernel) (hh : v.cox = s.cox) (h1 : v.saf = s.saf) (h2 : v.tu = s.tu)
    (h3 : v.field = s.field ∧ v.cams = s.cams ∧ v.boot = s.boot ∧ v.kv = s.kv ∧ v.mem = s.mem ∧ v.retune = s.retune ∧ v.det = s.det ∧
      v.fnet = s.fnet ∧ v.pci = s.pci)
    (hu : s.UnderLimit u) :
    ∃ t, finish s0 (v.detected k kind crew unitNo stroke pass nd c u) = .next t ∧ s.Detects t k kind crew unitNo stroke pass ∧ t.units = v.units := by
  have hn : ∀ w : State, w.kernel = s.kernel → w.saf = s.saf → w.tu = s.tu → ∀ e : DetError,
      w.attribute e u = (w.modSaf (fun f => { f with
        lastErr := some e, errors := (w.saf.errors.filter (fun x => decide (w.now ≤ x.2 + w.errWindow))) ++ [(u, w.now)] })).target u.slices := by
    intro w w1 w2 w3 e
    unfold State.attribute
    dsimp only
    rw [if_neg]
    have e1 : w.num .SAF_UNIT_ERR_LIMIT 0 = s.num .SAF_UNIT_ERR_LIMIT 0 := num_kernel w1 _ _
    have e2 : w.errWindow = s.errWindow := by unfold State.errWindow; rw [num_kernel w1]
    have e3 : w.now = s.now := by unfold State.now; rw [w3]
    rw [e1, e2, e3, w2, List.filter_append, List.length_append]
    unfold State.UnderLimit at hu
    have : (List.filter (fun x : UnitId × Nat => decide (x.1 = u)) [(u, s.now)]).length = 1 := by simp
    omega
  unfold State.detected
  dsimp only
  generalize he : (⟨kind, crew, unitNo, stroke, pass, (match amGet? v.cox.heats k with | some h => h.serial | none => 0), v.cox.period, v.now, nd, c⟩ : DetError) = e
  have hw : ∃ w, v.modHeat k (fun h => { h with errors := h.errors ++ [e] }) = w ∧ w.kernel = s.kernel ∧ w.saf = s.saf ∧ w.tu = s.tu ∧ w.field = v.field ∧
      w.cams = v.cams ∧ w.boot = v.boot ∧ w.kv = v.kv ∧ w.mem = v.mem ∧ w.retune = v.retune ∧ w.det = v.det ∧ w.fnet = v.fnet ∧ w.pci = v.pci ∧ w.units = v.units ∧
      ∀ h, amGet? s.cox.heats k = some h → amGet? w.cox.heats k = some { h with errors := h.errors ++ [e] } := by
    refine ⟨_, rfl, by rw [kernel_modHeat, hk], ?_⟩
    unfold State.modHeat
    rw [hh]
    cases hq : amGet? s.cox.heats k with
    | none => exact ⟨h1, h2, rfl, rfl, rfl, rfl, rfl, rfl, rfl, rfl, rfl, rfl, fun h x => by cases x⟩
    | some h =>
      refine ⟨h1, h2, rfl, rfl, rfl, rfl, rfl, rfl, rfl, rfl, rfl, rfl, fun h x => ?_⟩
      cases x
      exact amGet?_insert_self _ _ _
  obtain ⟨w, w0, w1, w2, w3, w4, w5, w6, w7, w8, w9, w10, w11, w12, wu, w13⟩ := hw
  rw [w0, hn w w1 w2 w3 e]
  obtain ⟨z, hz⟩ : ∃ z, (w.modSaf (fun f => { f with
        lastErr := some e, errors := (w.saf.errors.filter (fun x => decide (w.now ≤ x.2 + w.errWindow))) ++ [(u, w.now)] })).target u.slices = z := ⟨_, rfl⟩
  have hz2 : z.kernel = w.kernel ∧ z.saf.lastErr = some e ∧ z.cox = w.cox ∧ z.field = w.field ∧ z.cams = w.cams ∧ z.boot = w.boot ∧ z.kv = w.kv ∧
      z.mem = w.mem ∧ z.retune = w.retune ∧ z.det = w.det ∧ z.fnet = w.fnet ∧ z.pci = w.pci ∧ z.tu = w.tu ∧ z.units = w.units := by
    rw [← hz]; exact ⟨rfl, rfl, rfl, rfl, rfl, rfl, rfl, rfl, rfl, rfl, rfl, rfl, rfl, rfl⟩
  rw [hz]
  obtain ⟨z1, z2, z3, z4, z5, z6, z7, z8, z9, z10, z11, z12, z13, zu⟩ := hz2
  have hzk := z1.trans w1
  obtain ⟨t, t1, t2⟩ := finish_kernel (hzk.trans h0)
  obtain ⟨f1, f2, f3, f4, f5, f6, f7, f8, f9⟩ := h3
  refine ⟨t, t1, ⟨⟨e, by rw [t2.saf, z2], by rw [← he], by rw [← he], by rw [← he], by rw [← he], by rw [← he], fun h x => ⟨?_, ?_⟩⟩, ?_⟩, by rw [t2.units, zu, wu]⟩
  · rw [← he, hh, x]
  · rw [t2.cox, z3]; exact w13 h x
  · refine ⟨by rw [t2.field, z4, w4, f1], by rw [t2.cams, z5, w5, f2], by rw [t2.boot, z6, w6, f3], by rw [t2.kv, z7, w7, f4], by rw [t2.mem, z8, w8, f5],
      by rw [t2.retune, z9, w9, f6], by rw [t2.det, z10, w10, f7], ?_, by rw [t2.fnet, z11, w11, f8], by rw [t2.pci, z12, w12, f9],
      by rw [t2.tu, z13, w3], ?_, by rw [t2.od]; exact committed_kernel hzk⟩
    · rw [t2.squad]; exact squad_kernel hzk
    · rw [t2.crews]; exact congrArg Kernel.crews hzk

/-- A row whose one effect is a detected error. -/
theorem detected_does (s v : State) (k kind crew unitNo stroke pass : Nat) (nd : Bool) (c : Cause) (u : UnitId)
    (hk : v.kernel = s.kernel) (hh : v.cox = s.cox) (h1 : v.saf = s.saf) (h2 : v.tu = s.tu)
    (h3 : v.field = s.field ∧ v.cams = s.cams ∧ v.boot = s.boot ∧ v.kv = s.kv ∧ v.mem = s.mem ∧ v.retune = s.retune ∧ v.det = s.det ∧
      v.fnet = s.fnet ∧ v.pci = s.pci)
    (hu : s.UnderLimit u) :
    ∃ t, finish s (v.detected k kind crew unitNo stroke pass nd c u) = .next t ∧ s.Detects t k kind crew unitNo stroke pass ∧ t.units = v.units :=
  detected_from s s v rfl k kind crew unitNo stroke pass nd c u hk hh h1 h2 h3 hu

/-- What a shell reports: it refuses the stroke, the error is counted, and it is detected. -/
theorem shellError_eq (v : State) (c p k kind stroke pass : Nat) (l : Lint) : ∃ n z, v.shellError c p k kind stroke pass l =
    z.detected k kind c p stroke pass false .check (.shell c p) ∧
    z = (v.modShell c p (fun x => { x with refused := (n, stroke) :: x.refused })).lintAt l c := ⟨_, _, rfl, rfl⟩

/-! ### Ends of passes -/

@[simp] theorem kernel_writeTensor (s : State) (k n : Nat) (sat : Bool) (l : List (List Nat × ExactNum)) : (s.writeTensor k n sat l).kernel = s.kernel := by
  unfold State.writeTensor; split
  · split
    · exact kernel_modHeat _ _ _
    · rfl
  · rfl

@[simp] theorem kernel_readOut (s : State) (k : Nat) (st : MatStroke) (l : List (Nat × Nat × FootEntry)) : (s.readOut k st l).kernel = s.kernel := by
  unfold State.readOut; split
  · exact kernel_writeTensor _ _ _ _ _
  · rfl

/-- What a crew counts does not make a partition short of crews. -/
theorem crewsShort_counted (s : State) (c : Fin 6) (f : Crew → Crew) (hf : (f s.crews[c]).shellMap = s.crews[c].shellMap) :
    (s.modCrew c f).crewsShort = s.crewsShort := by
  have hc : ∀ n, (s.modCrew c f).shellsActive n = s.shellsActive n := by
    intro n
    unfold State.shellsActive State.crew
    cases toFin? 6 n with
    | none => rfl
    | some i =>
      show (((s.crews.set c (f s.crews[c]))[i]).shellMap.filter _).length = _
      by_cases h : c.val = i.val
      · have hi : i = c := Fin.ext h.symm
        subst hi
        rw [show (s.crews.set i.val (f s.crews[i]))[i] = f s.crews[i] from Vector.getElem_set_self _, hf]
      · rw [show (s.crews.set c.val (f s.crews[c]))[i] = s.crews[i] from Vector.getElem_set_ne _ _ h]
  have hi : (s.modCrew c f).crewsIn = s.crewsIn := by
    unfold State.crewsIn
    congr 1; funext n; unfold State.crewIn; rw [hc]; rfl
  unfold State.crewsShort
  rw [hi]; rfl

/-- A row that ends with a pass. -/
theorem passEnds_ends (s v : State) (k : Nat) (x : Pass) (counted : Bool) (hk : v.crewsShort = s.crewsShort) :
    ∃ t, finish s (v.passEnds k x counted) = .next t ∧ (v.passEnds k x counted).EndsAs t := by
  apply finish_ends
  intro h
  rw [← hk, ← h]
  have h1 := crewsShort_kernel (kernel_modHeat v k (fun h => { h with passesDone := (x.stroke, x.num) :: h.passesDone }))
  unfold State.passEnds
  dsimp only
  generalize v.modHeat k (fun h => { h with passesDone := (x.stroke, x.num) :: h.passesDone }) = z at h1 ⊢
  rw [← h1]
  cases counted
  · rfl
  · rw [if_pos rfl]
    split
    · split
      · exact (crewsShort_counted _ _ _ rfl).symm
      · rfl
    · rfl

/-- An update of a heat that the table holds. -/
theorem modHeat_some (u : State) (k : Nat) (h : Heat) (f : Heat → Heat) (hh : amGet? u.cox.heats k = some h) :
    u.modHeat k f = u.modCox (fun c => { c with heats := amInsert c.heats k (f h) }) := by unfold State.modHeat; rw [hh]

/-- An update of a heat that the table does not hold. -/
theorem modHeat_none (u : State) (k : Nat) (f : Heat → Heat) (hh : amGet? u.cox.heats k = none) : u.modHeat k f = u := by
  unfold State.modHeat; rw [hh]

/-- The heat of a package is in the table. -/
theorem heatPkg_heat {s : State} {k : Nat} {h : Heat} {p : Package} (hh : s.heatPkg k = some (h, p)) : amGet? s.cox.heats k = some h := by
  unfold State.heatPkg at hh
  split at hh
  · rename_i h' e
    rw [e]
    cases hp : s.planOf h'.req.slot h'.req.plan with
    | none => rw [hp] at hh; cases hh
    | some x => rw [hp] at hh; simp at hh; rw [hh.1]
  · cases hh

/-- What an event does in the states that the supervisor watches, by its action (R584, R585). -/
theorem event_acts (s : State) (e : Nat) (l : List UnitId) (hs : s.dev.state = .inert ∨ s.dev.state = .safe ∨ s.dev.state.active = true) :
    (s.numAt .SAF_ACTION 0 (e - 1) = 0 → s.event e l = s.modSaf (fun f => { f with latched := setBit f.latched e true })) ∧
    (s.numAt .SAF_ACTION 0 (e - 1) = 1 → s.event e l = (s.modSaf (fun f => { f with latched := setBit f.latched e true })).each l State.takeOut) ∧
    (s.numAt .SAF_ACTION 0 (e - 1) = 2 →
      s.event e l = ((s.modSaf (fun f => { f with latched := setBit f.latched e true })).modSaf (fun f => { f with safeEvent := e })).safeCause 5) := by
  have key : s.event e l = (let s1 := s.modSaf (fun f => { f with latched := setBit f.latched e true })
    match s.numAt .SAF_ACTION 0 (e - 1) with
    | 1 => s1.each l State.takeOut
    | 2 => (s1.modSaf (fun f => { f with safeEvent := e })).safeCause 5
    | _ => s1) := by
    unfold State.event
    rcases hs with h | h | h
    · rw [h] <;> rfl
    · rw [h] <;> rfl
    · revert h
      cases s.dev.state <;> intro h <;> first | (cases h; done) | rfl
  rw [key]
  refine ⟨fun h => ?_, fun h => ?_, fun h => ?_⟩
  · dsimp only; rw [h]; rfl
  · dsimp only; rw [h]; rfl
  · dsimp only; rw [h]; rfl

/-- The latched events and the one that led to SAFE. -/
def State.evs (s : State) : Nat × Nat := (s.saf.latched, s.saf.safeEvent)

theorem evs_modSwath (u : State) (p c : Nat) (f : Swath → Swath) : (u.modSwath p c f).evs = u.evs := by
  unfold State.modSwath; split <;> rfl

theorem evs_lostSwath (u : State) (p c : Nat) : (u.lostSwath p c).evs = u.evs := by
  unfold State.lostSwath
  split
  · split
    · rfl
    · exact evs_modSwath _ _ _ _
  · rfl

theorem evs_lostByRecord (u : State) (r : VerdictRec) : (u.lostByRecord r).evs = u.evs := by
  unfold State.lostByRecord; split
  · exact evs_lostSwath _ _ _
  · rfl

theorem evs_modRecs (u : State) (f : Records → Records) : (u.modRecs f).evs = u.evs := rfl

theorem evs_addVerdict (u : State) (r : VerdictRec) : (u.addVerdict r).1.evs = u.evs := by
  rw [State.addVerdict]; exact (evs_lostByRecord _ _).trans (evs_modRecs _ _)

theorem evs_modDev (u : State) (f : Device → Device) : (u.modDev f).evs = u.evs := rfl

theorem evs_writeStored (u : State) : u.writeStored.evs = u.evs := rfl

theorem evs_modCam (v : State) (p : Fin 12) (f : CamPort → CamPort) : (v.modCam p f).evs = v.evs := rfl

theorem evs_camsOff (u : State) : u.camsOff.evs = u.evs := by
  unfold State.camsOff
  apply each_same State.evs
  intro v p
  rw [evs_modCam]
  split
  · rfl
  · dsimp only
    split
    · rw [evs_modSwath, State.swathShort, evs_addVerdict, evs_modCam]
    · rw [evs_modCam]

theorem evs_outputsOff (u : State) : u.outputsOff.evs = u.evs := by
  unfold State.outputsOff
  dsimp only
  rw [evs_camsOff]; rfl

theorem evs_rotaStop (u : State) : u.rotaStop.evs = u.evs := by unfold State.rotaStop; rfl

/-- What SAFE leaves of the supervisor's events. -/
theorem enterSafe_events (s : State) (b : Nat) (h : s.dev.arming = none) : (s.enterSafe b).evs = s.evs := by
  unfold State.enterSafe
  rw [armFails_none s none h]
  rw [evs_writeStored, evs_modDev, evs_rotaStop, evs_outputsOff]

end Sys2Proof.Machine
end

