-- ==== Sys2Proof/Laws/Exec.lean ====
section
/-! SUPPORT. The meaning of each command, by its constructor. -/

namespace Sys2Proof.Machine

open Sys2Proof

theorem exec_powerUp (s : State) : exec .powerUp s = execPowerUp s := rfl
theorem exec_porstNAssert (s : State) : exec .porstNAssert s = execPorstNAssert s := rfl
theorem exec_porstNRelease (s : State) : exec .porstNRelease s = execPorstNRelease s := rfl
theorem exec_jtagReset (s : State) : exec .jtagReset s = execJtagReset s := rfl
theorem exec_supplyLoss (s : State) : exec .supplyLoss s = execSupplyLoss s := rfl
theorem exec_supplyBrownout (io18 : Bool) (uv : (BitVec 32)) (s : State) : exec (.supplyBrownout io18 uv) s = execSupplyBrownout io18 uv s := rfl
theorem exec_supplyOutOfWindow (rail : (Fin 11)) (uv : (BitVec 32)) (s : State) : exec (.supplyOutOfWindow rail uv) s = execSupplyOutOfWindow rail uv s := rfl
theorem exec_supplyGlitch (rail : (Fin 11)) (s : State) : exec (.supplyGlitch rail) s = execSupplyGlitch rail s := rfl
theorem exec_riggerLinkLoss (vrig : Bool) (s : State) : exec (.riggerLinkLoss vrig) s = execRiggerLinkLoss vrig s := rfl
theorem exec_riggerLinkUp (s : State) : exec .riggerLinkUp s = execRiggerLinkUp s := rfl
theorem exec_riggerHeartbeatLoss (s : State) : exec .riggerHeartbeatLoss s = execRiggerHeartbeatLoss s := rfl
theorem exec_riggerHeartbeatReturn (s : State) : exec .riggerHeartbeatReturn s = execRiggerHeartbeatReturn s := rfl
theorem exec_rootPllUnlock (s : State) : exec .rootPllUnlock s = execRootPllUnlock s := rfl
theorem exec_thermSample (temps : (Vector (BitVec 16) 34)) (power : (BitVec 16)) (rails : (Vector (BitVec 32) 12)) (s : State) : exec (.thermSample temps power rails) s = execThermSample temps power rails s := rfl
theorem exec_coachWatchdogExpiry (s : State) : exec .coachWatchdogExpiry s = execCoachWatchdogExpiry s := rfl
theorem exec_coachHeartbeatMiss (pair : (Fin 2)) (s : State) : exec (.coachHeartbeatMiss pair) s = execCoachHeartbeatMiss pair s := rfl
theorem exec_lockstepMismatch (pair : (Fin 2)) (s : State) : exec (.lockstepMismatch pair) s = execLockstepMismatch pair s := rfl
theorem exec_bootStep (r : StepReport) (s : State) : exec (.bootStep r) s = execBootStep r s := rfl
theorem exec_commandNone (e : Envelope) (s : State) : exec (.commandNone e) s = execNone e s := rfl
theorem exec_arm (e : Envelope) (s : State) : exec (.arm e) s = execArm e s := rfl
theorem exec_armDone (s : State) : exec .armDone s = execArmDone s := rfl
theorem exec_disarm (e : Envelope) (s : State) : exec (.disarm e) s = execDisarm e s := rfl
theorem exec_start (e : Envelope) (s : State) : exec (.start e) s = execStart e s := rfl
theorem exec_stop (e : Envelope) (s : State) : exec (.stop e) s = execStop e s := rfl
theorem exec_stopToArmed (s : State) : exec .stopToArmed s = execStopToArmed s := rfl
theorem exec_safe (e : Envelope) (s : State) : exec (.safe e) s = execSafe e s := rfl
theorem exec_safeAck (e : Envelope) (s : State) : exec (.safeAck e) s = execSafeAck e s := rfl
theorem exec_warmRestart (e : Envelope) (s : State) : exec (.warmRestart e) s = execWarmRestart e s := rfl
theorem exec_reset (e : Envelope) (s : State) : exec (.reset e) s = execReset e s := rfl
theorem exec_openSession (e : Envelope) (data : Bytes) (s : State) : exec (.openSession e data) s = execOpen e data s := rfl
theorem exec_closeSession (e : Envelope) (s : State) : exec (.closeSession e) s = execClose e s := rfl
theorem exec_keepalive (e : Envelope) (s : State) : exec (.keepalive e) s = execKeepalive e s := rfl
theorem exec_read (e : Envelope) (index : (BitVec 16)) (sub : (BitVec 8)) (offset : (BitVec 64)) (length : (BitVec 16)) (s : State) : exec (.read e index sub offset length) s = execRead e index sub offset length s := rfl
theorem exec_write (e : Envelope) (index : (BitVec 16)) (sub : (BitVec 8)) (offset : (BitVec 64)) (data : Bytes) (s : State) : exec (.write e index sub offset data) s = execWrite e index sub offset data s := rfl
theorem exec_info (e : Envelope) (index : (BitVec 16)) (sub : (BitVec 8)) (s : State) : exec (.info e index sub) s = execInfo e index sub s := rfl
theorem exec_readAndClear (e : Envelope) (index : (BitVec 16)) (sub : (BitVec 8)) (s : State) : exec (.readAndClear e index sub) s = execReadAndClear e index sub s := rfl
theorem exec_sessionTimeout (handle : (Fin 48)) (s : State) : exec (.sessionTimeout handle) s = execSessionTimeout handle s := rfl
theorem exec_commit (e : Envelope) (group : (BitVec 8)) (s : State) : exec (.commit e group) s = execCommit e group s := rfl
theorem exec_discard (e : Envelope) (group : (BitVec 8)) (s : State) : exec (.discard e group) s = execDiscard e group s := rfl
theorem exec_commitTakeEffect (group : (BitVec 8)) (s : State) : exec (.commitTakeEffect group) s = execCommitTakeEffect group s := rfl
theorem exec_cycleStart (s : State) : exec .cycleStart s = execCycleStart s := rfl
theorem exec_txImageSnapshot (s : State) : exec .txImageSnapshot s = execTxImageSnapshot s := rfl
theorem exec_rxImageReceive (port : (Fin 2)) (frame : Bytes) (s : State) : exec (.rxImageReceive port frame) s = execRxImageReceive port frame s := rfl
theorem exec_watchdogTrip (s : State) : exec .watchdogTrip s = execWatchdogTrip s := rfl
theorem exec_goWordWrite (mailbox : (Fin 16)) (cell : (Fin 8)) (message : Bytes) (go : (BitVec 32)) (s : State) : exec (.goWordWrite mailbox cell message go) s = execGoWordWrite mailbox cell message go s := rfl
theorem exec_bulkApertureRead (offset : (BitVec 64)) (length : (BitVec 32)) (s : State) : exec (.bulkApertureRead offset length) s = execBulkApertureRead offset length s := rfl
theorem exec_bulkApertureWrite (offset : (BitVec 64)) (data : Bytes) (s : State) : exec (.bulkApertureWrite offset data) s = execBulkApertureWrite offset data s := rfl
theorem exec_pciXlSubmit (e : Envelope) (offset : (BitVec 64)) (data : Bytes) (s : State) : exec (.pciXlSubmit e offset data) s = execPciXlSubmit e offset data s := rfl
theorem exec_pciXlAbort (e : Envelope) (value : (BitVec 32)) (s : State) : exec (.pciXlAbort e value) s = execPciXlAbort e value s := rfl
theorem exec_odWrite (list : (BitVec 32)) (host : Bytes) (good : Bool) (s : State) : exec (.odWrite list host good) s = execOdWrite list host good s := rfl
theorem exec_odRead (list : (BitVec 32)) (s : State) : exec (.odRead list) s = execOdRead list s := rfl
theorem exec_bulkIn (list : (BitVec 32)) (host : Bytes) (good : Bool) (s : State) : exec (.bulkIn list host good) s = execBulkIn list host good s := rfl
theorem exec_bulkOut (list : (BitVec 32)) (s : State) : exec (.bulkOut list) s = execBulkOut list s := rfl
theorem exec_archive (list : (BitVec 32)) (s : State) : exec (.archive list) s = execArchive list s := rfl
theorem exec_xlEntryComplete (list : (BitVec 32)) (s : State) : exec (.xlEntryComplete list) s = execXlEntryComplete list s := rfl
theorem exec_pcieFunctionReset (rate : (BitVec 4)) (width : (BitVec 4)) (s : State) : exec (.pcieFunctionReset rate width) s = execPcieFunctionReset rate width s := rfl
theorem exec_camLineEnd (port : (Fin 12)) (beats : (List (BitVec 32))) (fval : Bool) (lost : Bool) (time : NetTime) (mono : Nat) (pos : Int) (s : State) : exec (.camLineEnd port beats fval lost time mono pos) s = execCamLineEnd port beats fval lost time mono pos s := rfl
theorem exec_camTriggerTimeout (port : (Fin 12)) (s : State) : exec (.camTriggerTimeout port) s = execCamTriggerTimeout port s := rfl
theorem exec_camTrigDeferred (port : (Fin 12)) (s : State) : exec (.camTrigDeferred port) s = execCamTrigDeferred port s := rfl
theorem exec_blankingPeriodEnd (port : (Fin 12)) (beats : (List (BitVec 32))) (s : State) : exec (.blankingPeriodEnd port beats) s = execBlankingPeriodEnd port beats s := rfl
theorem exec_swathClose (port : (Fin 12)) (s : State) : exec (.swathClose port) s = execSwathClose port s := rfl
theorem exec_mangleSwathDone (port : (Fin 12)) (s : State) : exec (.mangleSwathDone port) s = execMangleSwathDone port s := rfl
theorem exec_roiListBuild (port : (Fin 12)) (s : State) : exec (.roiListBuild port) s = execRoiListBuild port s := rfl
theorem exec_swathBufferRelease (port : (Fin 12)) (s : State) : exec (.swathBufferRelease port) s = execSwathBufferRelease port s := rfl
theorem exec_rpLoad (e : Envelope) (offset : (BitVec 64)) (data : Bytes) (s : State) : exec (.rpLoad e offset data) s = execRpLoad e offset data s := rfl
theorem exec_rpUnload (e : Envelope) (value : (BitVec 8)) (s : State) : exec (.rpUnload e value) s = execRpUnload e value s := rfl
theorem exec_coxBgRequest (e : Envelope) (value : (BitVec 16)) (s : State) : exec (.coxBgRequest e value) s = execCoxBgRequest e value s := rfl
theorem exec_rotaPeriodBoundary (s : State) : exec .rotaPeriodBoundary s = execRotaPeriodBoundary s := rfl
theorem exec_saveDone (s : State) : exec .saveDone s = execSaveDone s := rfl
theorem exec_restoreDone (good : Bool) (s : State) : exec (.restoreDone good) s = execRestoreDone good s := rfl
theorem exec_settleComplete (crew : (Fin 6)) (s : State) : exec (.settleComplete crew) s = execSettleComplete crew s := rfl
theorem exec_regulatorWindow (s : State) : exec .regulatorWindow s = execRegulatorWindow s := rfl
theorem exec_refreshSlot (channel : (Fin 32)) (s : State) : exec (.refreshSlot channel) s = execRefreshSlot channel s := rfl
theorem exec_scrubGroup (group : (BitVec 32)) (flips : (List (BitVec 14))) (s : State) : exec (.scrubGroup group flips) s = execScrubGroup group flips s := rfl
theorem exec_lpddrGroupRead (group : (BitVec 32)) (flips : (List (BitVec 14))) (k : (Fin 64)) (crew : (Fin 6)) (stroke : (BitVec 32)) (pass : (BitVec 32)) (bad : Bool) (s : State) : exec (.lpddrGroupRead group flips k crew stroke pass bad) s = execLpddrGroupRead group flips k crew stroke pass bad s := rfl
theorem exec_lpddrGroupWrite (group : (BitVec 32)) (offset : (Fin 1984)) (data : Bytes) (s : State) : exec (.lpddrGroupWrite group offset data) s = execLpddrGroupWrite group offset data s := rfl
theorem exec_streamTransfer (k : (Fin 64)) (sd : (BitVec 16)) (crew : (Fin 6)) (stroke : (BitVec 32)) (pass : (BitVec 32)) (data : Bytes) (ecc : (Option EccError)) (bad : Bool) (s : State) : exec (.streamTransfer k sd crew stroke pass data ecc bad) s = execStreamTransfer k sd crew stroke pass data ecc bad s := rfl
theorem exec_weightTileLoad (crew : (Fin 6)) (shell : (Fin 68)) (sub : (Fin 3)) (pass : (BitVec 32)) (kblock : (BitVec 32)) (packet : Packet) (s : State) : exec (.weightTileLoad crew shell sub pass kblock packet) s = execWeightTileLoad crew shell sub pass kblock packet s := rfl
theorem exec_wavefrontEnter (crew : (Fin 6)) (shell : (Fin 68)) (sub : (Fin 3)) (pass : (BitVec 32)) (kblock : (BitVec 32)) (row : (Fin 64)) (packet : Packet) (upset : (Option (Nat × Int))) (rails : Bool) (s : State) : exec (.wavefrontEnter crew shell sub pass kblock row packet upset rails) s = execWavefrontEnter crew shell sub pass kblock row packet upset rails s := rfl
theorem exec_heldPacketRelease (crew : (Fin 6)) (shell : (Fin 68)) (sub : (Fin 3)) (s : State) : exec (.heldPacketRelease crew shell sub) s = execHeldPacketRelease crew shell sub s := rfl
theorem exec_rowReadout (crew : (Fin 6)) (shell : (Fin 68)) (row : (Fin 64)) (upset : (Option (Fin 32 × Int))) (differ : Bool) (s : State) : exec (.rowReadout crew shell row upset differ) s = execRowReadout crew shell row upset differ s := rfl
theorem exec_foldPass (k : (Fin 64)) (stroke : (BitVec 32)) (pass : (BitVec 32)) (differ : Bool) (s : State) : exec (.foldPass k stroke pass differ) s = execFoldPass k stroke pass differ s := rfl
theorem exec_scullPass (k : (Fin 64)) (stroke : (BitVec 32)) (pass : (BitVec 32)) (error : Bool) (s : State) : exec (.scullPass k stroke pass error) s = execScullPass k stroke pass error s := rfl
theorem exec_sweepPass (k : (Fin 64)) (stroke : (BitVec 32)) (pass : (BitVec 32)) (error : Bool) (s : State) : exec (.sweepPass k stroke pass error) s = execSweepPass k stroke pass error s := rfl
theorem exec_cropCut (k : (Fin 64)) (stroke : (BitVec 32)) (pass : (BitVec 32)) (s : State) : exec (.cropCut k stroke pass) s = execCropCut k stroke pass s := rfl
theorem exec_pressEncode (k : (Fin 64)) (stroke : (BitVec 32)) (pass : (BitVec 32)) (row : (BitVec 32)) (block : (BitVec 32)) (s : State) : exec (.pressEncode k stroke pass row block) s = execPressEncode k stroke pass row block s := rfl
theorem exec_pressDecode (k : (Fin 64)) (stroke : (BitVec 32)) (block : Bytes) (s : State) : exec (.pressDecode k stroke block) s = execPressDecode k stroke block s := rfl
theorem exec_strokeComplete (k : (Fin 64)) (stroke : (BitVec 32)) (s : State) : exec (.strokeComplete k stroke) s = execStrokeComplete k stroke s := rfl
theorem exec_heatComplete (k : (Fin 64)) (sub : (Fin 6)) (unread : (List (BitVec 32))) (s : State) : exec (.heatComplete k sub unread) s = execHeatComplete k sub unread s := rfl
theorem exec_publicationRelease (part : (Fin 8)) (s : State) : exec (.publicationRelease part) s = execPublicationRelease part s := rfl
theorem exec_decodeRequest (part : (Fin 8)) (s : State) : exec (.decodeRequest part) s = execDecodeRequest part s := rfl
theorem exec_retuneStepRequest (part : (Fin 8)) (s : State) : exec (.retuneStepRequest part) s = execRetuneStepRequest part s := rfl
theorem exec_oarInvocationStart (k : (Fin 64)) (stroke : (BitVec 32)) (pass : (BitVec 32)) (sliver : (BitVec 16)) (s : State) : exec (.oarInvocationStart k stroke pass sliver) s = execOarInvocationStart k stroke pass sliver s := rfl
theorem exec_oarLoadStore (crew : (Fin 6)) (oar : (Fin 512)) (ecc : (Option EccError)) (s : State) : exec (.oarLoadStore crew oar ecc) s = execOarLoadStore crew oar ecc s := rfl
theorem exec_oarAccessReturn (crew : (Fin 6)) (oar : (Fin 512)) (ecc : (Option EccError)) (s : State) : exec (.oarAccessReturn crew oar ecc) s = execOarAccessReturn crew oar ecc s := rfl
theorem exec_slvGet (crew : (Fin 6)) (oar : (Fin 512)) (s : State) : exec (.slvGet crew oar) s = execSlvGet crew oar s := rfl
theorem exec_slvPut (crew : (Fin 6)) (oar : (Fin 512)) (ecc : (Option EccError)) (s : State) : exec (.slvPut crew oar ecc) s = execSlvPut crew oar ecc s := rfl
theorem exec_slvSend (crew : (Fin 6)) (oar : (Fin 512)) (s : State) : exec (.slvSend crew oar) s = execSlvSend crew oar s := rfl
theorem exec_slvSendResume (crew : (Fin 6)) (oar : (Fin 512)) (s : State) : exec (.slvSendResume crew oar) s = execSlvSendResume crew oar s := rfl
theorem exec_slvRecv (crew : (Fin 6)) (oar : (Fin 512)) (s : State) : exec (.slvRecv crew oar) s = execSlvRecv crew oar s := rfl
theorem exec_slvRecordArrive (crew : (Fin 6)) (oar : (Fin 512)) (right : Bool) (s : State) : exec (.slvRecordArrive crew oar right) s = execSlvRecordArrive crew oar right s := rfl
theorem exec_slvBar (crew : (Fin 6)) (oar : (Fin 512)) (s : State) : exec (.slvBar crew oar) s = execSlvBar crew oar s := rfl
theorem exec_slvBarComplete (crew : (Fin 6)) (oar : (Fin 512)) (s : State) : exec (.slvBarComplete crew oar) s = execSlvBarComplete crew oar s := rfl
theorem exec_pminuB (crew : (Fin 6)) (oar : (Fin 512)) (s : State) : exec (.pminuB crew oar) s = execPminuB crew oar s := rfl
theorem exec_pmaxuB (crew : (Fin 6)) (oar : (Fin 512)) (s : State) : exec (.pmaxuB crew oar) s = execPmaxuB crew oar s := rfl
theorem exec_paddusB (crew : (Fin 6)) (oar : (Fin 512)) (s : State) : exec (.paddusB crew oar) s = execPaddusB crew oar s := rfl
theorem exec_psubusB (crew : (Fin 6)) (oar : (Fin 512)) (s : State) : exec (.psubusB crew oar) s = execPsubusB crew oar s := rfl
theorem exec_pcmpgeuB (crew : (Fin 6)) (oar : (Fin 512)) (s : State) : exec (.pcmpgeuB crew oar) s = execPcmpgeuB crew oar s := rfl
theorem exec_psadB (crew : (Fin 6)) (oar : (Fin 512)) (s : State) : exec (.psadB crew oar) s = execPsadB crew oar s := rfl
theorem exec_fcvtSBf (crew : (Fin 6)) (oar : (Fin 512)) (s : State) : exec (.fcvtSBf crew oar) s = execFcvtSBf crew oar s := rfl
theorem exec_fcvtBfS (crew : (Fin 6)) (oar : (Fin 512)) (s : State) : exec (.fcvtBfS crew oar) s = execFcvtBfS crew oar s := rfl
theorem exec_fcvtSHf (crew : (Fin 6)) (oar : (Fin 512)) (s : State) : exec (.fcvtSHf crew oar) s = execFcvtSHf crew oar s := rfl
theorem exec_fcvtHfS (crew : (Fin 6)) (oar : (Fin 512)) (s : State) : exec (.fcvtHfS crew oar) s = execFcvtHfS crew oar s := rfl
theorem exec_frmWrite (crew : (Fin 6)) (oar : (Fin 512)) (s : State) : exec (.frmWrite crew oar) s = execFrmWrite crew oar s := rfl
theorem exec_ecall (crew : (Fin 6)) (oar : (Fin 512)) (s : State) : exec (.ecall crew oar) s = execEcall crew oar s := rfl
theorem exec_ebreak (crew : (Fin 6)) (oar : (Fin 512)) (s : State) : exec (.ebreak crew oar) s = execEbreak crew oar s := rfl
theorem exec_illegalInstruction (crew : (Fin 6)) (oar : (Fin 512)) (s : State) : exec (.illegalInstruction crew oar) s = execIllegalInstruction crew oar s := rfl
theorem exec_oarBudgetExpire (crew : (Fin 6)) (oar : (Fin 512)) (s : State) : exec (.oarBudgetExpire crew oar) s = execOarBudgetExpire crew oar s := rfl
theorem exec_kvBoundary (part : (Fin 8)) (s : State) : exec (.kvBoundary part) s = execKvBoundary part s := rfl
theorem exec_kvCancel (e : Envelope) (partition : (Fin 8)) (value : (BitVec 64)) (s : State) : exec (.kvCancel e partition value) s = execKvCancel e partition value s := rfl
theorem exec_kvTreeFlush (e : Envelope) (partition : (Fin 8)) (value : (BitVec 8)) (s : State) : exec (.kvTreeFlush e partition value) s = execKvTreeFlush e partition value s := rfl
theorem exec_detGenIn (e : Envelope) (offset : (BitVec 64)) (data : Bytes) (s : State) : exec (.detGenIn e offset data) s = execDetGenIn e offset data s := rfl
theorem exec_detReplaySwath (e : Envelope) (partition : (Fin 8)) (offset : (BitVec 64)) (data : Bytes) (s : State) : exec (.detReplaySwath e partition offset data) s = execDetReplaySwath e partition offset data s := rfl
theorem exec_detReplaySeq (e : Envelope) (partition : (Fin 8)) (offset : (BitVec 64)) (data : Bytes) (s : State) : exec (.detReplaySeq e partition offset data) s = execDetReplaySeq e partition offset data s := rfl
theorem exec_detReplayState (e : Envelope) (partition : (Fin 8)) (offset : (BitVec 64)) (data : Bytes) (s : State) : exec (.detReplayState e partition offset data) s = execDetReplayState e partition offset data s := rfl
theorem exec_squelchOpen (port : (Fin 8)) (s : State) : exec (.squelchOpen port) s = execSquelchOpen port s := rfl
theorem exec_commaBlock (port : (Fin 8)) (lane : (Fin 4)) (inverted : Bool) (gap : (BitVec 32)) (skewPs : (BitVec 32)) (s : State) : exec (.commaBlock port lane inverted gap skewPs) s = execCommaBlock port lane inverted gap skewPs s := rfl
theorem exec_trainBlock (port : (Fin 8)) (lane : (Fin 4)) (payload : (BitVec 128)) (s : State) : exec (.trainBlock port lane payload) s = execTrainBlock port lane payload s := rfl
theorem exec_equalizeEvaluation (port : (Fin 8)) (lane : (Fin 4)) (height : (BitVec 32)) (width : (BitVec 32)) (s : State) : exec (.equalizeEvaluation port lane height width) s = execEqualizeEvaluation port lane height width s := rfl
theorem exec_skipBlock (port : (Fin 8)) (s : State) : exec (.skipBlock port) s = execSkipBlock port s := rfl
theorem exec_easyBlock (port : (Fin 8)) (s : State) : exec (.easyBlock port) s = execEasyBlock port s := rfl
theorem exec_rackBlock (port : (Fin 8)) (s : State) : exec (.rackBlock port) s = execRackBlock port s := rfl
theorem exec_bringupTimeout (port : (Fin 8)) (s : State) : exec (.bringupTimeout port) s = execBringupTimeout port s := rfl
theorem exec_failedRetry (port : (Fin 8)) (s : State) : exec (.failedRetry port) s = execFailedRetry port s := rfl
theorem exec_commaMissing (port : (Fin 8)) (lane : (Fin 4)) (s : State) : exec (.commaMissing port lane) s = execCommaMissing port lane s := rfl
theorem exec_easyIdleExpire (port : (Fin 8)) (s : State) : exec (.easyIdleExpire port) s = execEasyIdleExpire port s := rfl
theorem exec_easyExit (port : (Fin 8)) (s : State) : exec (.easyExit port) s = execEasyExit port s := rfl
theorem exec_rack (e : Envelope) (port : (Fin 8)) (s : State) : exec (.rack e port) s = execRack e port s := rfl
theorem exec_wake (e : Envelope) (port : (Fin 8)) (s : State) : exec (.wake e port) s = execWake e port s := rfl
theorem exec_injectSingle (e : Envelope) (port : (Fin 8)) (lanes : (BitVec 4)) (s : State) : exec (.injectSingle e port lanes) s = execInjectSingle e port lanes s := rfl
theorem exec_injectPeriodic (e : Envelope) (port : (Fin 8)) (lanes : (BitVec 4)) (s : State) : exec (.injectPeriodic e port lanes) s = execInjectPeriodic e port lanes s := rfl
theorem exec_injectStop (e : Envelope) (port : (Fin 8)) (lanes : (BitVec 4)) (s : State) : exec (.injectStop e port lanes) s = execInjectStop e port lanes s := rfl
theorem exec_periodicInjection (port : (Fin 8)) (s : State) : exec (.periodicInjection port) s = execPeriodicInjection port s := rfl
theorem exec_cellReceive (port : (Fin 8)) (blocks : (List (List RxBlock))) (full : Bool) (s : State) : exec (.cellReceive port blocks full) s = execCellReceive port blocks full s := rfl
theorem exec_replayTimeout (port : (Fin 8)) (s : State) : exec (.replayTimeout port) s = execReplayTimeout port s := rfl
theorem exec_nakExpire (port : (Fin 8)) (s : State) : exec (.nakExpire port) s = execNakExpire port s := rfl
theorem exec_ackDue (port : (Fin 8)) (s : State) : exec (.ackDue port) s = execAckDue port s := rfl
theorem exec_timeExchangeStart (phase : (Fin 8)) (s : State) : exec (.timeExchangeStart phase) s = execTimeExchangeStart phase s := rfl
theorem exec_timeRequest (port : (Fin 8)) (body : Bytes) (phase : (Fin 8)) (turn : (BitVec 16)) (s : State) : exec (.timeRequest port body phase turn) s = execTimeRequest port body phase turn s := rfl
theorem exec_timeResponse (port : (Fin 8)) (body : Bytes) (phase : (Fin 8)) (good : Bool) (s : State) : exec (.timeResponse port body phase good) s = execTimeResponse port body phase good s := rfl
theorem exec_hello (h : HelloInfo) (s : State) : exec (.hello h) s = execHello h s := rfl
theorem exec_topology (port : (Fin 8)) (seat : (Fin 32)) (links : (List TopoLink)) (s : State) : exec (.topology port seat links) s = execTopology port seat links s := rfl
theorem exec_form (members : (BitVec 32)) (version : (BitVec 32)) (epoch : (BitVec 32)) (routes : (List (Nat × Nat × Nat × Nat))) (s : State) : exec (.form members version epoch routes) s = execForm members version epoch routes s := rfl
theorem exec_formAck (seat : (Fin 32)) (epoch : (BitVec 32)) (fault : (BitVec 8)) (s : State) : exec (.formAck seat epoch fault) s = execFormAck seat epoch fault s := rfl
theorem exec_formTimeout (s : State) : exec .formTimeout s = execFormTimeout s := rfl
theorem exec_heartbeatSend (s : State) : exec .heartbeatSend s = execHeartbeatSend s := rfl
theorem exec_heartbeat (seat : (Fin 32)) (devState : (BitVec 8)) (sqdState : (BitVec 8)) (crews : (BitVec 8)) (s : State) : exec (.heartbeat seat devState sqdState crews) s = execHeartbeat seat devState sqdState crews s := rfl
theorem exec_memberLost (seat : (Fin 32)) (s : State) : exec (.memberLost seat) s = execMemberLost seat s := rfl
theorem exec_broken (sender : (Fin 32)) (lost : (Fin 32)) (cause : (BitVec 8)) (s : State) : exec (.broken sender lost cause) s = execBroken sender lost cause s := rfl
theorem exec_command (code : (BitVec 8)) (s : State) : exec (.command code) s = execCommand code s := rfl
theorem exec_commandDone (seat : (Fin 32)) (status : (BitVec 8)) (armFault : (BitVec 32)) (s : State) : exec (.commandDone seat status armFault) s = execCommandDone seat status armFault s := rfl
theorem exec_admit (serial : (BitVec 64)) (slot : (Fin 16)) (plan : (BitVec 8)) (start : Nat) (s : State) : exec (.admitHeat serial slot plan start) s = execAdmit serial slot plan start s := rfl
theorem exec_spanPartStart (serial : (BitVec 64)) (s : State) : exec (.spanPartStart serial) s = execSpanPartStart serial s := rfl
theorem exec_done (seat : (Fin 32)) (serial : (BitVec 64)) (invalid : Bool) (s : State) : exec (.done seat serial invalid) s = execDone seat serial invalid s := rfl
theorem exec_kvDecision (part : (Fin 8)) (d : KvDecision) (s : State) : exec (.kvDecision part d) s = execKvDecision part d s := rfl
theorem exec_kvReport (seat : (Fin 32)) (part : (Fin 8)) (masses : (List (Nat × Nat × Nat))) (fills : (List (Nat × Nat × Nat))) (s : State) : exec (.kvReport seat part masses fills) s = execKvReport seat part masses fills s := rfl
theorem exec_load (slot : (Fin 16)) (container : Bytes) (unload : Bool) (s : State) : exec (.load slot container unload) s = execLoad slot container unload s := rfl
theorem exec_loadResult (seat : (Fin 32)) (status : (BitVec 8)) (fault : (BitVec 32)) (s : State) : exec (.loadResult seat status fault) s = execLoadResult seat status fault s := rfl
theorem exec_filterTick (mv : (Vector (BitVec 16) 48)) (hot : (BitVec 48)) (wire : (BitVec 8)) (s : State) : exec (.filterTick mv hot wire) s = execFilterTick mv hot wire s := rfl
theorem exec_overload (n : (Fin 48)) (s : State) : exec (.overload n) s = execOverload n s := rfl
theorem exec_overtemp (n : (Fin 48)) (s : State) : exec (.overtemp n) s = execOvertemp n s := rfl
theorem exec_groupLimit (g : (Option (Fin 6))) (ma : (Vector (BitVec 16) 48)) (s : State) : exec (.groupLimit g ma) s = execGroupLimit g ma s := rfl
theorem exec_openLoad (n : (Fin 48)) (s : State) : exec (.openLoad n) s = execOpenLoad n s := rfl
theorem exec_openWire (n : (Fin 48)) (s : State) : exec (.openWire n) s = execOpenWire n s := rfl
theorem exec_fieldSupplyFault (g : (Fin 6)) (mv : (BitVec 16)) (s : State) : exec (.fieldSupplyFault g mv) s = execFieldSupplyFault g mv s := rfl
theorem exec_fieldSupplyClear (g : (Fin 6)) (mv : (BitVec 16)) (s : State) : exec (.fieldSupplyClear g mv) s = execFieldSupplyClear g mv s := rfl
theorem exec_faultRetry (n : (Fin 48)) (s : State) : exec (.faultRetry n) s = execFaultRetry n s := rfl
theorem exec_fioAck (e : Envelope) (n : (Fin 48)) (value : (BitVec 8)) (s : State) : exec (.fioAck e n value) s = execFioAck e n value s := rfl
theorem exec_fioForceOff (e : Envelope) (value : (BitVec 64)) (s : State) : exec (.fioForceOff e value) s = execFioForceOff e value s := rfl
theorem exec_encCount (n : (Fin 8)) (a : Bool) (b : Bool) (dt : (BitVec 32)) (s : State) : exec (.encCount n a b dt) s = execEncCount n a b dt s := rfl
theorem exec_divPulseDeferred (e : (Fin 4)) (s : State) : exec (.divPulseDeferred e) s = execDivPulseDeferred e s := rfl
theorem exec_fireOffTime (id : Nat) (s : State) : exec (.fireOffTime id) s = execFireOffTime id s := rfl
theorem exec_encReference (n : (Fin 8)) (s : State) : exec (.encReference n) s = execEncReference n s := rfl
theorem exec_wireFault (n : (Fin 8)) (s : State) : exec (.wireFault n) s = execWireFault n s := rfl
theorem exec_quadFault (n : (Fin 8)) (s : State) : exec (.quadFault n) s = execQuadFault n s := rfl
theorem exec_overspeedFault (n : (Fin 8)) (s : State) : exec (.overspeedFault n) s = execOverspeedFault n s := rfl
theorem exec_encAck (e : Envelope) (n : (Fin 8)) (value : (BitVec 8)) (s : State) : exec (.encAck e n value) s = execEncAck e n value s := rfl
theorem exec_timeSlotEvent (n : (Fin 32)) (s : State) : exec (.timeSlotEvent n) s = execTimeSlotEvent n s := rfl
theorem exec_pulseWidthEnd (out : PulseOut) (s : State) : exec (.pulseWidthEnd out) s = execPulseWidthEnd out s := rfl
theorem exec_fireStopAck (e : Envelope) (value : (BitVec 8)) (s : State) : exec (.fireStopAck e value) s = execFireStopAck e value s := rfl
theorem exec_fnetLinkChange (port : (Fin 2)) (up : Bool) (rate : (BitVec 2)) (s : State) : exec (.fnetLinkChange port up rate) s = execFnetLinkChange port up rate s := rfl
theorem exec_ptpMessage (port : (Fin 2)) (frame : Bytes) (fcs : Bool) (phase : (BitVec 3)) (s : State) : exec (.ptpMessage port frame fcs phase) s = execPtpMessage port frame fcs phase s := rfl
theorem exec_ptpMessageInterval (port : (Fin 2)) (kind : (Fin 3)) (s : State) : exec (.ptpMessageInterval port kind) s = execPtpMessageInterval port kind s := rfl
theorem exec_tsMeasurementMissing (s : State) : exec .tsMeasurementMissing s = execTsMeasurementMissing s := rfl
theorem exec_holdoverExpire (s : State) : exec .holdoverExpire s = execHoldoverExpire s := rfl
theorem exec_tsSet (e : Envelope) (offset : (BitVec 64)) (data : Bytes) (s : State) : exec (.tsSet e offset data) s = execTsSet e offset data s := rfl
theorem exec_arpRequest (port : (Fin 2)) (frame : Bytes) (fcs : Bool) (s : State) : exec (.arpRequest port frame fcs) s = execArpRequest port frame fcs s := rfl
theorem exec_icmpEcho (port : (Fin 2)) (frame : Bytes) (fcs : Bool) (s : State) : exec (.icmpEcho port frame fcs) s = execIcmpEcho port frame fcs s := rfl
theorem exec_gateCycleStart (port : (Fin 2)) (s : State) : exec (.gateCycleStart port) s = execGateCycleStart port s := rfl
theorem exec_frameTransmit (port : (Fin 2)) (phase : (BitVec 3)) (s : State) : exec (.frameTransmit port phase) s = execFrameTransmit port phase s := rfl
theorem exec_heatOvertime (k : (Fin 64)) (s : State) : exec (.heatOvertime k) s = execHeatOvertime k s := rfl
theorem exec_swathWatchdog (port : (Fin 12)) (cnt : (BitVec 64)) (s : State) : exec (.swathWatchdog port cnt) s = execSwathWatchdog port cnt s := rfl
theorem exec_rinseSliceDone (slice : Slice) (failed : (List UnitId)) (block : (Option (Fin 64))) (s : State) : exec (.rinseSliceDone slice failed block) s = execRinseSliceDone slice failed block s := rfl
theorem exec_rinseOverdue (slice : Slice) (s : State) : exec (.rinseOverdue slice) s = execRinseOverdue slice s := rfl
theorem exec_engineMismatch (what : Mismatch) (s : State) : exec (.engineMismatch what) s = execEngineMismatch what s := rfl
theorem exec_controlMismatch (s : State) : exec .controlMismatch s = execControlMismatch s := rfl
theorem exec_safEventAck (e : Envelope) (value : (BitVec 32)) (s : State) : exec (.safEventAck e value) s = execSafEventAck e value s := rfl
theorem exec_lostTimeStore (s : State) : exec .lostTimeStore s = execLostTimeStore s := rfl
theorem exec_bootFwImage (e : Envelope) (offset : (BitVec 64)) (data : Bytes) (s : State) : exec (.bootFwImage e offset data) s = execBootFwImage e offset data s := rfl
theorem exec_bootFwInstall (e : Envelope) (value : (BitVec 8)) (s : State) : exec (.bootFwInstall e value) s = execBootFwInstall e value s := rfl
theorem exec_installComplete (good : Bool) (s : State) : exec (.installComplete good) s = execInstallComplete good s := rfl
theorem exec_bootRbAdvance (e : Envelope) (offset : (BitVec 64)) (data : Bytes) (s : State) : exec (.bootRbAdvance e offset data) s = execBootRbAdvance e offset data s := rfl
theorem exec_bootOwnerKey (e : Envelope) (offset : (BitVec 64)) (data : Bytes) (s : State) : exec (.bootOwnerKey e offset data) s = execBootOwnerKey e offset data s := rfl
theorem exec_bootRevoke (e : Envelope) (value : (BitVec 8)) (s : State) : exec (.bootRevoke e value) s = execBootRevoke e value s := rfl
theorem exec_bootAttestNonce (e : Envelope) (offset : (BitVec 64)) (data : Bytes) (s : State) : exec (.bootAttestNonce e offset data) s = execBootAttestNonce e offset data s := rfl
theorem exec_attestReportReady (s : State) : exec .attestReportReady s = execAttestReportReady s := rfl
theorem exec_bootPkgStore (e : Envelope) (value : (BitVec 8)) (s : State) : exec (.bootPkgStore e value) s = execBootPkgStore e value s := rfl
theorem exec_bootPkgUnstore (e : Envelope) (value : (BitVec 8)) (s : State) : exec (.bootPkgUnstore e value) s = execBootPkgUnstore e value s := rfl
theorem exec_recoveryHello (e : Envelope) (op : (BitVec 8)) (s : State) : exec (.recoveryHello e op) s = execRecoveryHello e op s := rfl
theorem exec_recoveryData (e : Envelope) (offset : (BitVec 64)) (data : Bytes) (s : State) : exec (.recoveryData e offset data) s = execRecoveryData e offset data s := rfl
theorem exec_recoveryInstall (e : Envelope) (s : State) : exec (.recoveryInstall e) s = execRecoveryInstall e s := rfl
theorem exec_recoveryBoot (e : Envelope) (s : State) : exec (.recoveryBoot e) s = execRecoveryBoot e s := rfl
theorem exec_recoveryOwnerTimeout (s : State) : exec .recoveryOwnerTimeout s = execRecoveryOwnerTimeout s := rfl
theorem exec_rtAdd (e : Envelope) (partition : (Fin 8)) (offset : (BitVec 64)) (data : Bytes) (s : State) : exec (.rtAdd e partition offset data) s = execRtAdd e partition offset data s := rfl
theorem exec_rtRemove (e : Envelope) (partition : (Fin 8)) (value : (BitVec 32)) (s : State) : exec (.rtRemove e partition value) s = execRtRemove e partition value s := rfl
theorem exec_rtPublish (e : Envelope) (partition : (Fin 8)) (value : (BitVec 8)) (s : State) : exec (.rtPublish e partition value) s = execRtPublish e partition value s := rfl
theorem exec_rtRestart (e : Envelope) (partition : (Fin 8)) (value : (BitVec 8)) (s : State) : exec (.rtRestart e partition value) s = execRtRestart e partition value s := rfl
theorem exec_internalResetRelease (s : State) : exec .internalResetRelease s = execInternalResetRelease s := rfl
theorem exec_openWireClear (n : (Fin 48)) (s : State) : exec (.openWireClear n) s = execOpenWireClear n s := rfl
theorem exec_openLoadClear (n : (Fin 48)) (s : State) : exec (.openLoadClear n) s = execOpenLoadClear n s := rfl
theorem exec_oarBaseInstruction (crew : (Fin 6)) (oar : (Fin 512)) (s : State) : exec (.oarBaseInstruction crew oar) s = execOarBaseInstruction crew oar s := rfl
theorem exec_patternCheckerSync (port : (Fin 8)) (lane : (Fin 4)) (rx : (List Bool)) (s : State) : exec (.patternCheckerSync port lane rx) s = execPatternCheckerSync port lane rx s := rfl
theorem exec_fnetFrameDiscard (port : (Fin 2)) (frame : Bytes) (fcs : Bool) (full : Bool) (s : State) : exec (.fnetFrameDiscard port frame fcs full) s = execFnetFrameDiscard port frame fcs full s := rfl
theorem exec_boardProgrammerFlashWrite (addr : (BitVec 32)) (data : Bytes) (s : State) : exec (.boardProgrammerFlashWrite addr data) s = execBoardProgrammerFlashWrite addr data s := rfl

end Sys2Proof.Machine
end

