-- ==== Sys2Proof/Laws/Wire.lean ====
section
/-! SUPPORT. What the Nuord ports and the messages of the squad leave alone: everything beyond the squad, its command and its load kept. -/

namespace Sys2Proof.Machine

open Sys2Proof

/-- A state without the ports and the members of the squad, the LINT counters and what has left the device. -/
def State.beyond (s : State) : State :=
  { s with squad := { Squad.init with cmd := s.squad.cmd, load := s.squad.load }, od := { s.od with lints := [] }, sent := [] }

@[simp] theorem beyond_modPort (s : State) (p : Fin 8) (f : NlPort → NlPort) : (s.modPort p f).beyond = s.beyond := rfl
@[simp] theorem beyond_modLane (s : State) (p : Fin 8) (l : Fin 4) (f : NlLane → NlLane) : (s.modLane p l f).beyond = s.beyond := rfl
@[simp] theorem beyond_emit (s : State) (o : Out) : (s.emit o).beyond = s.beyond := rfl
@[simp] theorem beyond_lintBy (s : State) (l : Lint) (i n : Nat) : (s.lintBy l i n).beyond = s.beyond := rfl
@[simp] theorem beyond_lintAt (s : State) (l : Lint) (i : Nat) : (s.lintAt l i).beyond = s.beyond := rfl
@[simp] theorem beyond_lint (s : State) (l : Lint) : (s.lint l).beyond = s.beyond := rfl
@[simp] theorem beyond_goodBlock (s : State) (p : Fin 8) (l : Fin 4) : (s.goodBlock p l).beyond = s.beyond := rfl
@[simp] theorem beyond_nlFail (s : State) (p : Fin 8) (c : Nat) : (s.nlFail p c).beyond = s.beyond := rfl
@[simp] theorem beyond_putCell (s : State) (p : Fin 8) (c : NlCell) (n : Nat) : (s.putCell p c n).beyond = s.beyond := rfl
@[simp] theorem beyond_ask (s : State) (p : Fin 8) (l : Fin 4) (e : EqStage) (a b : Nat) : (s.ask p l e a b).beyond = s.beyond := rfl
@[simp] theorem beyond_eqStart (s : State) (p : Fin 8) (l : Fin 4) : (s.eqStart p l).beyond = s.beyond := rfl
@[simp] theorem beyond_takeCtrl (s : State) (a b : Nat) : (s.takeCtrl a b).beyond = s.beyond := rfl
@[simp] theorem beyond_ownTopo (s : State) : s.ownTopo.beyond = s.beyond := rfl
@[simp] theorem beyond_setRoutes (s : State) (l : List (Nat × Nat × Nat × Nat)) : (s.setRoutes l).beyond = s.beyond := rfl
@[simp] theorem beyond_formed (s : State) : s.formed.beyond = s.beyond := rfl
@[simp] theorem beyond_formFail (s : State) (f : Nat × Nat × Nat) : (s.formFail f).beyond = s.beyond := rfl
@[simp] theorem beyond_onHello (s : State) (h : HelloInfo) : (s.onHello h).beyond = s.beyond := rfl

/-- A change of the squad beside its command and its load. -/
theorem beyond_modSquad (s : State) (f : Squad → Squad) (h1 : (f s.squad).cmd = s.squad.cmd) (h2 : (f s.squad).load = s.squad.load) :
    (s.modSquad f).beyond = s.beyond := by
  unfold State.beyond; show ({ s with squad := _, od := _, sent := _ } : State) = _
  rw [show (s.modSquad f).squad = f s.squad from rfl, h1, h2]; rfl

/-- A fold over operations of the squad. -/
theorem beyond_each {α : Type} (s : State) (l : List α) (f : State → α → State) (h : ∀ u x, (f u x).beyond = u.beyond) :
    (s.each l f).beyond = s.beyond := each_same State.beyond s l f h

/-- The same for a left fold. -/
theorem beyond_foldl {α : Type} (f : State → α → State) (h : ∀ u x, (f u x).beyond = u.beyond) (l : List α) : ∀ s : State,
    (l.foldl f s).beyond = s.beyond := by
  induction l with
  | nil => intro s; rfl
  | cons x l ih => intro s; rw [List.foldl_cons, ih, h]

@[simp] theorem beyond_goodBlocks (s : State) (p : Fin 8) : (s.goodBlocks p).beyond = s.beyond := beyond_each _ _ _ (fun _ _ => rfl)

@[simp] theorem beyond_sendCtrl (s : State) (p : Fin 8) (b : Bytes) : (s.sendCtrl p b).beyond = s.beyond := beyond_each _ _ _ (fun _ _ => rfl)

@[simp] theorem beyond_flushCells (s : State) (p : Fin 8) : (s.flushCells p).beyond = s.beyond := by
  unfold State.flushCells
  dsimp only
  split
  · refine (beyond_each _ _ _ (fun u x => ?_)).trans ?_ <;> rfl
  · rfl

@[simp] theorem beyond_sendSeq (s : State) (p : Fin 8) (c : NlCell) : (s.sendSeq p c).beyond = s.beyond := beyond_flushCells ..

@[simp] theorem beyond_sendPlain (s : State) (p : Fin 8) (t : Nat) (b : Bytes) : (s.sendPlain p t b).beyond = s.beyond := by
  unfold State.sendPlain; split <;> rfl

@[simp] theorem beyond_sendMessage (s : State) (d t : Nat) (b : Bytes) : (s.sendMessage d t b).beyond = s.beyond := by
  unfold State.sendMessage; split
  · exact beyond_each _ _ _ (fun _ _ => beyond_sendSeq ..)
  · rfl

@[simp] theorem beyond_sendTo (s : State) (d : Nat) (m : CtrlMsg) : (s.sendTo d m).beyond = s.beyond := by
  unfold State.sendTo; rw [beyond_emit, beyond_sendMessage]

@[simp] theorem beyond_sendOn (s : State) (p : Fin 8) (d : Nat) (m : CtrlMsg) : (s.sendOn p d m).beyond = s.beyond := by
  unfold State.sendOn; rw [beyond_emit]; exact beyond_foldl _ (fun _ _ => beyond_sendSeq ..) _ _

@[simp] theorem beyond_sendAll (s : State) (m : CtrlMsg) : (s.sendAll m).beyond = s.beyond := beyond_each _ _ _ (fun _ _ => beyond_sendTo ..)

@[simp] theorem beyond_nlRetrain (s : State) (p : Fin 8) : (s.nlRetrain p).beyond = s.beyond := by
  unfold State.nlRetrain; dsimp only; split <;> rfl

@[simp] theorem beyond_replayFrom (s : State) (p : Fin 8) (n : Nat) : (s.replayFrom p n).beyond = s.beyond := by
  unfold State.replayFrom
  dsimp only
  split
  · rfl
  · generalize (if s.squad.ports[p].replayFrom = some n then s.squad.ports[p].replayCount + 1 else 1) = k
    split
    · rw [beyond_nlRetrain]; rfl
    · refine (beyond_each _ _ _ (fun u x => ?_)).trans ?_ <;> rfl

@[simp] theorem beyond_ackTo (s : State) (p : Fin 8) (n : Nat) : (s.ackTo p n).beyond = s.beyond := beyond_flushCells ..

@[simp] theorem beyond_sendNak (s : State) (p : Fin 8) (b : Bool) : (s.sendNak p b).beyond = s.beyond := by
  unfold State.sendNak; dsimp only; split
  · rfl
  · rw [beyond_sendPlain]; rfl

@[simp] theorem beyond_arrive (s : State) (a b : Nat) (m : Bytes) : (s.arrive a b m).beyond = s.beyond := by
  unfold State.arrive; dsimp only; repeat (first | rfl | split)

@[simp] theorem beyond_takeCell (s : State) (p : Fin 8) (c : NlCell) : (s.takeCell p c).beyond = s.beyond := by
  unfold State.takeCell
  dsimp only
  split
  · split
    · rfl
    · rw [beyond_sendSeq]; rfl
  · split
    · rw [beyond_arrive]; repeat (first | rfl | split)
    · rfl

@[simp] theorem beyond_rxCell (s : State) (p : Fin 8) (r : RxCell) (f : Bool) : (s.rxCell p r f).beyond = s.beyond := by
  unfold State.rxCell
  dsimp only
  have hb : (if r.ackValid = true then s.ackTo p r.ack else s).beyond = s.beyond := by split <;> simp
  generalize (if r.ackValid = true then s.ackTo p r.ack else s) = a at hb ⊢
  split
  · simp
  · split
    · split <;> simp [hb]
    · split
      · split
        · simp [hb]
        · split <;> simp [hb]
      · split <;> simp [hb]

@[simp] theorem beyond_cellIn (s : State) (p : Fin 8) (b : List (List RxBlock)) (f : Bool) : (s.cellIn p b f).beyond = s.beyond := by
  unfold State.cellIn
  dsimp only
  split
  · rfl
  · split
    · rw [beyond_nlRetrain]; rfl
    · rw [beyond_rxCell]; rfl

@[simp] theorem beyond_alignDone (s : State) (p : Fin 8) : (s.alignDone p).beyond = s.beyond := by
  unfold State.alignDone
  dsimp only
  split
  · rfl
  · split
    · rfl
    · refine (beyond_each _ _ _ (fun u x => ?_)).trans rfl
      split <;> rfl

@[simp] theorem beyond_deskewDone (s : State) (p : Fin 8) : (s.deskewDone p).beyond = s.beyond := by
  unfold State.deskewDone; split
  · rfl
  · refine (beyond_each _ _ _ (fun u x => ?_)).trans ?_ <;> rfl

@[simp] theorem beyond_commaIn (s : State) (p : Fin 8) (l : Fin 4) (i : Bool) (g k : Nat) : (s.commaIn p l i g k).beyond = s.beyond := by
  unfold State.commaIn
  dsimp only
  split
  · split
    · rw [beyond_alignDone]; rfl
    · rfl
  · split
    · split
      · rfl
      · split
        · rw [beyond_deskewDone]; rfl
        · rfl
    · rfl

@[simp] theorem beyond_handshakeDone (s : State) (p : Fin 8) : (s.handshakeDone p).beyond = s.beyond := by
  unfold State.handshakeDone
  dsimp only
  split
  · rfl
  · split
    · rfl
    · split
      · rw [beyond_flushCells]; refine (beyond_foldl _ (fun u x => ?_) _ _).trans ?_ <;> rfl
      · rw [beyond_flushCells]; rfl

@[simp] theorem beyond_trainIn (s : State) (p : Fin 8) (l : Fin 4) (v : Nat) : (s.trainIn p l v).beyond = s.beyond := by
  unfold State.trainIn
  extract_lets c t s1 x
  have h1 : s1.beyond = s.beyond := by simp only [s1, beyond_modPort, beyond_modLane]
  clear_value s1 x
  split
  · rfl
  · split
    · rw [beyond_emit, beyond_modLane, h1]
    · split
      · rw [beyond_modLane, h1]
      · split
        · split
          · rw [beyond_handshakeDone, beyond_modLane, h1]
          · rw [beyond_modLane, h1]
        · exact h1

@[simp] theorem beyond_eqEnd (s : State) (p : Fin 8) : (s.eqEnd p).beyond = s.beyond := by
  unfold State.eqEnd
  dsimp only
  split
  · split
    · refine (beyond_each _ _ _ (fun u x => ?_)).trans ?_ <;> rfl
    · rfl
  · rfl

@[simp] theorem beyond_evaluateLane (s : State) (p : Fin 8) (l : Fin 4) (h w : Nat) : (s.evaluateLane p l h w).beyond = s.beyond := by
  unfold State.evaluateLane
  dsimp only
  split
  · rfl
  · split
    · rw [beyond_eqEnd]; rfl
    · split
      · rw [beyond_ask]; split <;> rfl
      · rw [beyond_ask]; split <;> rfl
    · rw [beyond_ask]; split <;> rfl
    · split
      · rfl
      · rw [beyond_eqEnd]; rfl
    · rfl

@[simp] theorem beyond_squelch (s : State) (p : Fin 8) : (s.squelch p).beyond = s.beyond := by
  unfold State.squelch
  dsimp only
  split
  · rfl
  · rfl
  · rw [beyond_flushCells]; rfl
  · rfl
  · rfl

@[simp] theorem beyond_bringupTimeout (s : State) (p : Fin 8) : (s.bringupTimeout p).beyond = s.beyond := by
  unfold State.bringupTimeout; dsimp only; repeat (first | rfl | split)

@[simp] theorem beyond_commaMissing (s : State) (p : Fin 8) (l : Fin 4) : (s.commaMissing p l).beyond = s.beyond := by
  unfold State.commaMissing; dsimp only; split
  · rfl
  · split
    · rw [beyond_nlRetrain]
    · rfl

@[simp] theorem beyond_easyEnter (s : State) (p : Fin 8) : (s.easyEnter p).beyond = s.beyond := by
  unfold State.easyEnter; dsimp only; split
  · rw [beyond_modPort, beyond_sendCtrl]
  · rfl

@[simp] theorem beyond_easyExit (s : State) (p : Fin 8) : (s.easyExit p).beyond = s.beyond := by
  unfold State.easyExit; split
  · rw [beyond_flushCells, beyond_modPort, beyond_sendCtrl]
  · rfl

@[simp] theorem beyond_easyLeave (s : State) (p : Fin 8) : (s.easyLeave p).beyond = s.beyond := by
  unfold State.easyLeave
  dsimp only
  split
  · have h1 : (if (s.easyExit p).squad.ports[p].nak.isSome = true then (s.easyExit p).sendPlain p 4 [] else s.easyExit p).beyond = s.beyond := by
      split <;> simp
    generalize (if (s.easyExit p).squad.ports[p].nak.isSome = true then (s.easyExit p).sendPlain p 4 [] else s.easyExit p) = a at h1 ⊢
    split <;> simp [h1]
  · rfl

@[simp] theorem beyond_checkBits (s : State) (p : Fin 8) (l : Fin 4) (r : List Bool) : (s.checkBits p l r).beyond = s.beyond := by
  unfold State.checkBits; split <;> rfl

@[simp] theorem beyond_injectTick (s : State) (p : Fin 8) : (s.injectTick p).beyond = s.beyond := by
  unfold State.injectTick; split <;> rfl

@[simp] theorem beyond_dropExch (s : State) (p : Fin 8) : (s.dropExch p).beyond = s.beyond := by
  unfold State.dropExch; split <;> rfl

/-! ### The squad -/

@[simp] theorem beyond_helloOn (s : State) (p : Fin 8) : (s.helloOn p).beyond = s.beyond := beyond_sendOn ..

@[simp] theorem beyond_flood (s : State) (a : Nat) (l : List TopoLink) (f : Option (Fin 8)) : (s.flood a l f).beyond = s.beyond :=
  beyond_each _ _ _ (fun _ _ => beyond_sendOn ..)

@[simp] theorem beyond_sendForms (s : State) (m v : Nat) : (s.sendForms m v).beyond = s.beyond := by
  unfold State.sendForms
  dsimp only
  refine (beyond_each _ _ _ (fun u k => beyond_each _ _ _ (fun u e => beyond_sendTo ..))).trans ?_
  rw [beyond_setRoutes]; rfl

@[simp] theorem beyond_tryForm (s : State) : s.tryForm.beyond = s.beyond := by
  unfold State.tryForm
  dsimp only
  split
  · split
    · rfl
    · split
      · rw [beyond_formed, beyond_sendForms]
      · rw [beyond_sendForms]
  · rfl

@[simp] theorem beyond_reroute (s : State) : s.reroute.beyond = s.beyond := by
  unfold State.reroute; split
  · rw [beyond_lint, beyond_sendForms]
  · rfl

@[simp] theorem beyond_onTopology (s : State) (p : Fin 8) (a : Nat) (l : List TopoLink) : (s.onTopology p a l).beyond = s.beyond := by
  unfold State.onTopology
  dsimp only
  split
  · split
    · rfl
    · rw [beyond_reroute, beyond_flood]; rfl
  · rfl
  · rfl
  · split
    · rfl
    · split
      · rw [beyond_tryForm, beyond_flood]; rfl
      · rfl

@[simp] theorem beyond_onForm (s : State) (m v e : Nat) (r : List (Nat × Nat × Nat × Nat)) : (s.onForm m v e r).beyond = s.beyond := by
  unfold State.onForm
  dsimp only
  split
  · rfl
  · split
    · rfl
    · split
      · rw [beyond_sendTo, beyond_setRoutes]; rfl
      · split
        · rw [beyond_formFail, beyond_sendTo, beyond_setRoutes]; rfl
        · rw [beyond_sendTo, beyond_formed, beyond_setRoutes]; rfl

@[simp] theorem beyond_onFormAck (s : State) (a e f : Nat) : (s.onFormAck a e f).beyond = s.beyond := by
  unfold State.onFormAck; dsimp only; repeat (first | rfl | split)

/-- The news of the ports stay within the squad. -/
@[simp] theorem beyond_nlSettle (s t : State) : (s.nlSettle t).beyond = t.beyond := by
  unfold State.nlSettle
  refine beyond_each _ _ _ (fun u p => ?_)
  dsimp only
  split
  · split
    · rfl
    · split
      · rw [beyond_tryForm]
        refine (beyond_each _ _ _ (fun u e => beyond_sendOn ..)).trans ?_
        rw [beyond_flood, beyond_ownTopo, beyond_helloOn]
      · rw [beyond_helloOn]
  · split
    · split
      · rfl
      · rw [beyond_reroute, beyond_flood]; rfl
    · rfl

/-! ### The end of a row -/

theorem beyond_sessions {s t : State} (h : t.beyond = s.beyond) : t.od.sessions = s.od.sessions := by
  have := congrArg (fun x => x.od.sessions) h; exact this
theorem beyond_cmd {s t : State} (h : t.beyond = s.beyond) : t.squad.cmd = s.squad.cmd := by
  have := congrArg (fun x => x.squad.cmd) h; exact this
theorem beyond_crews {s t : State} (h : t.beyond = s.beyond) : t.crewsShort = s.crewsShort := by
  have h1 := congrArg (fun x => x.od.committed) h
  have h2 := congrArg (fun x => x.boot.fuses) h
  have h3 := congrArg (fun x => x.saf.held) h
  have h4 := congrArg State.crews h
  have h5 := congrArg (fun x => x.cox.packages) h
  exact crewsShort_congr _ _ h1 h2 h3 h4 h5

/-- A row of a link or of the squad ends with the news of its ports. -/
theorem lateEnd_wire {s u : State} (h : u.beyond = s.beyond) (hs : s.Settled) : ∃ t, lateEnd s u = .next t ∧ (s.nlSettle u).EndsAs t := by
  have hb : (s.nlSettle u).beyond = s.beyond := (beyond_nlSettle s u).trans h
  unfold lateEnd
  rw [cmdSettle_none _ (by rw [beyond_cmd hb]; exact hs.2), drainAll_idle _ (by rw [idleWork_sessions (beyond_sessions hb)]; exact hs.1)]
  exact finish_ends s _ (by rw [beyond_crews hb]; exact id)

/-! ### The states of the ports -/

/-- The states of the ports and of the squad. -/
def State.links (s : State) : Vector NlState 8 × SqdState := (s.squad.ports.map (·.state), s.squad.state)

theorem links_modPort (s : State) (p : Fin 8) (f : NlPort → NlPort) (h : (f s.squad.ports[p]).state = s.squad.ports[p].state) :
    (s.modPort p f).links = s.links := by
  have : (s.squad.ports.set p (f s.squad.ports[p])).map (·.state) = s.squad.ports.map (·.state) := by
    ext i hi
    rw [Vector.getElem_map, Vector.getElem_map, Vector.getElem_set]
    split
    · rename_i e; subst e; exact h
    · rfl
  exact congrArg (fun v => (v, s.squad.state)) this

theorem links_emit (s : State) (o : Out) : (s.emit o).links = s.links := rfl

theorem links_putCell (s : State) (p : Fin 8) (c : NlCell) (n : Nat) : (s.putCell p c n).links = s.links := by
  unfold State.putCell
  dsimp only
  rw [links_emit]
  exact links_modPort s p _ rfl

theorem links_each {α : Type} (s : State) (l : List α) (f : State → α → State) (h : ∀ u x, (f u x).links = u.links) :
    (s.each l f).links = s.links := each_same State.links s l f h

theorem links_flushCells (s : State) (p : Fin 8) : (s.flushCells p).links = s.links := by
  unfold State.flushCells
  dsimp only
  split
  · refine (links_each _ _ _ (fun u x => ?_)).trans (links_modPort _ _ _ rfl)
    rw [links_putCell]; exact links_modPort _ _ _ rfl
  · rfl

theorem links_sendPlain (s : State) (p : Fin 8) (t : Nat) (b : Bytes) : (s.sendPlain p t b).links = s.links := by
  unfold State.sendPlain; split
  · exact links_putCell ..
  · rfl

theorem links_sendCtrl (s : State) (p : Fin 8) (b : Bytes) : (s.sendCtrl p b).links = s.links := links_each _ _ _ (fun _ _ => rfl)

theorem links_goodBlocks (s : State) (p : Fin 8) : (s.goodBlocks p).links = s.links :=
  links_each _ _ _ (fun _ _ => links_modPort _ _ _ rfl)

/-- The ports of a state of these links have news as those of another. -/
theorem quiet_links {s u v : State} (h : u.links = v.links) (q : s.Quiet v) : s.Quiet u := by
  have hp : ∀ p : Fin 8, u.squad.ports[p].state = v.squad.ports[p].state := by
    intro p
    have := congrArg (fun x => x.1[p]) h
    simpa [State.links] using this
  have hs : u.squad.state = v.squad.state := congrArg Prod.snd h
  have hl : ∀ p : Fin 8, u.squad.ports[p].linked = v.squad.ports[p].linked := by intro p; unfold NlPort.linked; rw [hp]
  refine ⟨fun p => ?_, fun p a => ?_⟩
  · rw [hp]; exact q.1 p
  · rw [hl, hp, hs]; exact q.2 p a

/-- A port that changes without news. -/
theorem quiet_modPort (s : State) (p : Fin 8) (f : NlPort → NlPort)
    (h1 : s.squad.ports[p].state = .handshake → (f s.squad.ports[p]).state ≠ .up)
    (h2 : s.squad.ports[p].linked = true → (f s.squad.ports[p]).linked = true ∨ (f s.squad.ports[p]).state = .rack ∨ s.squad.state ≠ .formed) :
    s.Quiet (s.modPort p f) := by
  have hq : ∀ q : Fin 8, (s.modPort p f).squad.ports[q] = if p = q then f s.squad.ports[p] else s.squad.ports[q] := by
    intro q
    show (s.squad.ports.set p (f s.squad.ports[p]))[q.val] = _
    rw [Vector.getElem_set]
    split
    · rename_i e; rw [if_pos (Fin.ext e)]
    · rename_i e; rw [if_neg (fun c => e (congrArg Fin.val c))]; rfl
  refine ⟨fun q => ?_, fun q a => ?_⟩
  · rw [hq]; split
    · rename_i e; subst e; rintro ⟨x, y⟩; exact h1 x y
    · rintro ⟨x, y⟩; rw [x] at y; cases y
  · rw [hq]; split
    · rename_i e; subst e; exact h2 a
    · exact .inl a

theorem port_modPort (s : State) (p : Fin 8) (f : NlPort → NlPort) : (s.modPort p f).squad.ports[p] = f s.squad.ports[p] := by
  show (s.squad.ports.set p (f s.squad.ports[p]))[p.val] = _
  rw [Vector.getElem_set_self]

theorem squad_sendCtrl (s : State) (p : Fin 8) (b : Bytes) : (s.sendCtrl p b).squad = s.squad :=
  each_same State.squad _ _ _ (fun _ _ => rfl)

/-- The states of the ports alone. -/
def State.portStates (s : State) : Vector NlState 8 := s.links.1

theorem states_links {s t : State} (h : t.links = s.links) : t.portStates = s.portStates := congrArg Prod.fst h

theorem links_sendSeq (s : State) (p : Fin 8) (c : NlCell) : (s.sendSeq p c).links = s.links := by
  unfold State.sendSeq; rw [links_flushCells]; exact links_modPort _ _ _ rfl

theorem links_foldl {α : Type} (f : State → α → State) (h : ∀ u x, (f u x).links = u.links) (l : List α) : ∀ s : State,
    (l.foldl f s).links = s.links := by
  induction l with
  | nil => intro s; rfl
  | cons x l ih => intro s; rw [List.foldl_cons, ih, h]

theorem links_sendMessage (s : State) (d t : Nat) (b : Bytes) : (s.sendMessage d t b).links = s.links := by
  unfold State.sendMessage; split
  · exact links_each _ _ _ (fun _ _ => links_sendSeq ..)
  · rfl

theorem links_sendTo (s : State) (d : Nat) (m : CtrlMsg) : (s.sendTo d m).links = s.links := by
  unfold State.sendTo; rw [links_emit, links_sendMessage]

theorem links_sendOn (s : State) (p : Fin 8) (d : Nat) (m : CtrlMsg) : (s.sendOn p d m).links = s.links := by
  unfold State.sendOn; rw [links_emit]; exact links_foldl _ (fun _ _ => links_sendSeq ..) _ _

theorem links_sendAll (s : State) (m : CtrlMsg) : (s.sendAll m).links = s.links := links_each _ _ _ (fun _ _ => links_sendTo ..)

theorem links_flood (s : State) (a : Nat) (l : List TopoLink) (f : Option (Fin 8)) : (s.flood a l f).links = s.links :=
  links_each _ _ _ (fun _ _ => links_sendOn ..)

theorem states_modSquad (s : State) (f : Squad → Squad) (h : (f s.squad).ports = s.squad.ports) : (s.modSquad f).portStates = s.portStates := by
  unfold State.portStates State.links; show ((f s.squad).ports.map _) = _; rw [h]

theorem states_setRoutes (s : State) (l : List (Nat × Nat × Nat × Nat)) : (s.setRoutes l).portStates = s.portStates := rfl

theorem states_each {α : Type} (s : State) (l : List α) (f : State → α → State) (h : ∀ u x, (f u x).portStates = u.portStates) :
    (s.each l f).portStates = s.portStates := each_same State.portStates s l f h

theorem states_sendForms (s : State) (m v : Nat) : (s.sendForms m v).portStates = s.portStates := by
  unfold State.sendForms
  dsimp only
  refine (states_each _ _ _ (fun u k => states_each _ _ _ (fun u e => states_links (links_sendTo ..)))).trans ?_
  rw [states_setRoutes]; rfl

theorem states_tryForm (s : State) : s.tryForm.portStates = s.portStates := by
  unfold State.tryForm
  dsimp only
  split
  · split
    · rfl
    · split
      · exact (states_modSquad _ _ rfl).trans (states_sendForms ..)
      · exact states_sendForms ..
  · rfl

theorem states_reroute (s : State) : s.reroute.portStates = s.portStates := by
  unfold State.reroute; split
  · exact states_sendForms ..
  · rfl

/-- Ports whose states stay have no news. -/
theorem quiet_states {s u : State} (h : u.portStates = s.portStates) : s.Quiet u := by
  have hp : ∀ p : Fin 8, u.squad.ports[p].state = s.squad.ports[p].state := by
    intro p
    have := congrArg (fun x => x[p]) h
    simpa [State.portStates, State.links] using this
  refine ⟨fun p => ?_, fun p a => .inl ?_⟩
  · rw [hp]; rintro ⟨x, y⟩; rw [x] at y; cases y
  · unfold NlPort.linked at *; rw [hp]; exact a

/-- A port that leaves EASY is UP. -/
theorem links_easyLeave (s : State) (p : Fin 8) (h : s.squad.ports[p].state = .easy) :
    (s.easyLeave p).links = (s.modPort p (fun c => { c with state := .up, easyTx := false, disturbed := true })).links := by
  have h0 : (s.easyExit p).links = (s.modPort p (fun c => { c with state := .up, easyTx := false, disturbed := true })).links := by
    unfold State.easyExit
    rw [if_pos h, links_flushCells]
    have : ((s.sendCtrl p (List.replicate 8 0#8 ++ List.replicate 8 0xFF#8)).modPort p
        (fun c => { c with state := .up, easyTx := false, disturbed := true })).squad =
        (s.modPort p (fun c => { c with state := .up, easyTx := false, disturbed := true })).squad := by
      show ({ (s.sendCtrl p _).squad with ports := _ } : Squad) = _
      rw [squad_sendCtrl]; rfl
    unfold State.links; rw [this]
  unfold State.easyLeave; dsimp only; rw [if_pos h]
  generalize s.easyExit p = a at h0 ⊢
  have h1 : (if a.squad.ports[p].nak.isSome = true then a.sendPlain p 4 [] else a).links = a.links := by
    split <;> first | exact links_sendPlain .. | rfl
  generalize (if a.squad.ports[p].nak.isSome = true then a.sendPlain p 4 [] else a) = b at h1 ⊢
  rw [← h0, ← h1]
  split <;> first | exact links_sendPlain .. | rfl

theorem quiet_easyLeave (s : State) (p : Fin 8) : s.Quiet (s.easyLeave p) := by
  by_cases h : s.squad.ports[p].state = .easy
  · refine quiet_links (links_easyLeave s p h) (quiet_modPort _ _ _ (fun c => by rw [h] at c; cases c) (fun _ => .inl ?_))
    unfold NlPort.linked; rfl
  · unfold State.easyLeave; rw [if_neg h]; exact quiet_same rfl

/-- The same where no port has news. -/
theorem lateEnd_quietly {s u : State} (h : u.beyond = s.beyond) (hs : s.Settled) (hq : s.Quiet u) : ∃ t, lateEnd s u = .next t ∧ u.EndsAs t := by
  have := lateEnd_wire h hs
  rw [nlSettle_quiet s u hq] at this; exact this

end Sys2Proof.Machine
end

