-- ==== Sys2Proof/Laws/Device.lean ====
section
/-! SUPPORT. Lemmas about the boot, the restarts and the device commands: what each shared operation does to the parts of the state that a row's end looks at. -/

namespace Sys2Proof.Machine

open Sys2Proof

theorem slice_overlay (b d : Bytes) (o : Nat) : slice (overlay b o d) o d.length = d ∧
    (overlay b o d).drop (o + d.length) = b.drop (o + d.length) ∧ (o ≤ b.length → (overlay b o d).take o = b.take o) := by
  have hf : (fit b o).length = o := by unfold fit slice; simp [zeros] <;> omega
  unfold slice overlay
  refine ⟨?_, ?_, fun h => ?_⟩
  · rw [List.append_assoc, List.drop_append_of_le_length (by omega), List.drop_of_length_le (by omega)]
    simp [fit, zeros]
  · rw [List.drop_append, List.drop_of_length_le (by simp; omega)]
    simp [hf]
  · rw [List.append_assoc, List.take_append_of_le_length (by omega), List.take_of_length_le (by omega)]
    unfold fit slice; simp [zeros] <;> omega

theorem part_in (a : Nat) (d : Bytes) (lo hi : Nat) (h0 : d ≠ []) (h1 : lo ≤ a) (h2 : a + d.length ≤ hi) :
    areaPart a d lo hi = some (a - lo, d) := by
  have : 0 < d.length := List.length_pos_iff.mpr h0
  unfold areaPart slice
  dsimp only
  rw [Nat.max_eq_left h1, Nat.min_eq_left h2, if_pos (by omega)]
  simp [fit, zeros]

theorem flash_ends (s : State) (F : Flash) (h : s.dev.state = .reset) : ∃ u, settled ((s.modBoot (fun b => { b with flash := F })).draw) = .next u ∧
    u.dev = s.dev ∧ u.boot.fuses = s.boot.fuses ∧ u.boot.flash = F := by
  obtain ⟨u, e1, e2⟩ := settled_ends ((s.modBoot (fun b => { b with flash := F })).draw)
  refine ⟨u, e1, ?_, by rw [e2.boot]; rfl, by rw [e2.boot]; rfl⟩
  obtain ⟨d, hd⟩ := e2.dev
  have := e2.state (by show s.dev.state.runs = false; rw [h]; rfl)
  rw [hd] at this ⊢
  have : d = s.dev.state := this
  subst this; rfl

theorem part_out (a : Nat) (d : Bytes) (lo hi : Nat) (h : a + d.length ≤ lo ∨ hi ≤ a) :
    areaPart a d lo hi = none := by
  unfold areaPart
  dsimp only
  rw [if_neg]
  omega

theorem recoveryBytes_fields (r : Request) (st : Status) (data : Bytes) : fieldAt (recoveryBytes r st data) 3 1 = st.code ∧
    fieldAt (recoveryBytes r st data) 8 4 = r.env.reqId.toNat := by
  have hs : st.code < 2 ^ 8 := by cases st <;> decide
  have hr : r.env.reqId.toNat < 2 ^ 32 := r.env.reqId.isLt
  unfold recoveryBytes
  refine ⟨?_, ?_⟩
  · exact fieldAt_pack (l := [(4, 1), (4, 3), (8, r.op.toNat), (1, 0), (1, 0), (1, 0), (5, 0)]) _ rfl rfl rfl (by decide) hs
  · exact fieldAt_pack (l := [(4, 1), (4, 3), (8, r.op.toNat), (1, 0), (1, 0), (1, 0), (5, 0), (8, st.code), (16, 0xFFFF), (16, 0)])
      _ rfl rfl rfl (by decide) hr

theorem recoveryAnswer_eq (s : State) (r : Request) (st : Status) (data : Bytes) : ∃ l c z f,
    s.recoveryAnswer r st data =
      { s with sent := l, pci := { s.pci with cells := c }, fnet := f, boot := { s.boot with recovery := { s.boot.recovery with stored := z } } } ∧
    f.unqueued = s.fnet.unqueued ∧ Out.response r.env.itf.val r.env.peer.toNat (recoveryBytes r st data) ∈ l ∧ (∀ o ∈ s.sent, o ∈ l) := by
  unfold State.recoveryAnswer State.recoverySend
  dsimp only
  split
  · exact ⟨_, _, _, s.fnet, rfl, rfl, List.mem_cons_self .., fun o h => List.mem_cons_of_mem _ h⟩
  · obtain ⟨f, h1, h2⟩ := queueMessage_adds _ 0 r.env.itf.val r.env.peer.toNat (recoveryBytes r st data)
    rw [h1]
    exact ⟨_, s.pci.cells, _, f, rfl, h2, List.mem_cons_self .., fun o h => List.mem_cons_of_mem _ h⟩

def State.atHigh (s : State) (h : Nat) : State := s.modRecovery (fun x => { x with high := h })

theorem recoveryOwn_new (s : State) (r : Request) (h : s.Owned r) (h1 : r.op ≠ 1) : ∃ n, s.recoveryMsg r =
      if r.op = 2 then (s.atHigh n).recoveryData r
      else if r.op = 3 then (s.atHigh n).recoveryInstall r
      else if r.op = 4 then
        (if s.boot.recovery.installed then ((s.atHigh n).recoveryAnswer r .ok []).enterBoot 6 else (s.atHigh n).recoveryAnswer r .state [])
      else (s.atHigh n).recoveryAnswer r .range [] := by
  refine ⟨if 0 < reqDist r.env.reqId.toNat s.boot.recovery.high then r.env.reqId.toNat else s.boot.recovery.high, ?_⟩
  unfold State.recoveryMsg
  rw [if_neg (by simp [h.state, h.itf, h.good])]
  dsimp only
  rw [h.owner]
  dsimp only
  rw [if_pos rfl]
  unfold State.recoveryOwn
  dsimp only
  have : s.boot.recovery.stored.find? (fun e => e.1 == r.env.reqId.toNat) = none := by
    rw [List.find?_eq_none]; intro e he; simpa using h.new e he
  rw [this]
  simp only [Option.filter_none]
  rw [if_neg (by rw [h.idle]; simp), if_neg h1, if_neg (by have := h.order; omega)]
  have e : (s.modRecovery (fun x => { x with high := if 0 < reqDist r.env.reqId.toNat s.boot.recovery.high then r.env.reqId.toNat else x.high })) =
      s.atHigh (if 0 < reqDist r.env.reqId.toNat s.boot.recovery.high then r.env.reqId.toNat else s.boot.recovery.high) := by
    unfold State.atHigh
    split <;> rfl
  rw [e]

theorem owned_ends {s a : State} (r : Request) (st : Status) (data : Bytes) (hs : s.Settled) (h1 : a.od.sessions = s.od.sessions)
   (h2 : a.squad = s.squad) (hst : a.dev.state = .recovery) : ∃ u, lateEnd s (a.recoveryAnswer r st data) = .next u ∧ u.Answered r st ∧ u.dev.state = .recovery ∧
      u.boot.record = a.boot.record ∧ u.boot.flash = a.boot.flash ∧ u.boot.recovery = { a.boot.recovery with stored := u.boot.recovery.stored } := by
  obtain ⟨l, c, z, f, e, _, hm, _⟩ := recoveryAnswer_eq a r st data
  rw [e]
  obtain ⟨u, e1, e2⟩ := lateEnd_asleep (s := s) (t := { a with sent := l, pci := { a.pci with cells := c }, fnet := f, boot := { a.boot with recovery := { a.boot.recovery with stored := z } } })
    h1 h2 hs (.inr (.inl hst))
  exact ⟨u, e1, ⟨_, e2.sent _ hm, recoveryBytes_fields r st data⟩, (e2.state (by show a.dev.state.runs = false; rw [hst]; rfl)).trans hst,
    by rw [e2.boot], by rw [e2.boot], by rw [e2.boot]⟩

theorem recoveryData_ok (a : State) (r : Request) (b : Bytes) (hb : (if r.offset.toNat = 0 then ([] : Bytes) else a.boot.recovery.assembly) = b)
    (hi : a.boot.recovery.installing = none) (h1 : r.offset.toNat = b.length) (h2 : r.offset.toNat + r.data.length ≤ 25165824)
    (h3 : r.offset.toNat ≠ 0 → a.boot.recovery.complete = false) :
    a.recoveryData r = (a.modRecovery (fun x => { x with assembly := b ++ r.data, complete := r.env.last })).recoveryAnswer r .ok [] := by
  unfold State.recoveryData
  simp only [hb, hi]
  rw [if_neg (by simp)]
  have : ¬ (r.offset.toNat ≠ List.length b ∨ 25165824 < r.offset.toNat + r.data.length ∨ (r.offset.toNat ≠ 0 ∧ a.boot.recovery.complete = true)) := by
    rintro (h | h | ⟨h, h'⟩)
    · exact h h1
    · omega
    · rw [h3 h] at h'; cases h'
  rw [if_neg this]

theorem cmd_facts : Ent.DEV_COMMAND.row.ty ≠ .domain ∧ Ent.DEV_COMMAND.row.acc = .wo ∧ Ent.DEV_COMMAND.row.ty.size = 1 := by decide

theorem cmd_ok (c : Nat) (h : c ≤ 8) : Ent.rsvOk .DEV_COMMAND (.num c) = true ∧ Ent.rangeOk .DEV_COMMAND 0 0 (.num c) = true := by
  have : ∀ c ≤ 8, Ent.rsvOk .DEV_COMMAND (.num c) = true ∧ Ent.rangeOk .DEV_COMMAND 0 0 (.num c) = true := by decide
  exact this c h

theorem began_transition (s : State) (x : Session) (r : Request) : (s.began x r).transition = s.transition := by simp [State.transition]

theorem bare_anyOos {s t : State} (h : t.bare = s.bare) : t.anyOos = s.anyOos := by
  have h1 : t.bare.anyOos = t.anyOos := rfl
  have h2 : s.bare.anyOos = s.anyOos := rfl
  rw [← h1, h, h2]

theorem cmd_row (s : State) (x : Session) (e : Envelope) (c : Nat) (hc : c ≤ 8) (p : Reply) (hm : s.MayWrite x (wrNum e .DEV_COMMAND 0 c) (.ent .DEV_COMMAND 0 0))
    (hact : (s.began x (wrNum e .DEV_COMMAND 0 c)).devCommand (.session e.session.toNat e.reqId.toNat) c = p) (hl : p.later = false)
    (hses : p.state.od.sessions = (s.began x (wrNum e .DEV_COMMAND 0 c)).od.sessions)
    (hn : s.Quiet p.state) (hcmd : p.state.squad.cmd = none) (hs : p.state.crewsShort = s.crewsShort) :
    ∃ t, odRow s (wrNum e .DEV_COMMAND 0 c) = .next t ∧ p.state.RespondsAs t (wrNum e .DEV_COMMAND 0 c) p.status :=
  num_row s x e .DEV_COMMAND 0 c p hm (by have := cmd_facts.2.2; rw [this]; omega) cmd_facts.1 cmd_facts.2.1 (cmd_ok c hc).1 (cmd_ok c hc).2
    ((act_DEV_COMMAND ..).trans hact) hl hses hn hcmd hs

theorem cmd_okRow (s : State) (x : Session) (e : Envelope) (c : Nat) (hc : c ≤ 8) (z : State) (hm : s.MayWrite x (wrNum e .DEV_COMMAND 0 c) (.ent .DEV_COMMAND 0 0))
    (hact : (s.began x (wrNum e .DEV_COMMAND 0 c)).devCommand (.session e.session.toNat e.reqId.toNat) c = .ok z)
    (hses : z.od.sessions = (s.began x (wrNum e .DEV_COMMAND 0 c)).od.sessions)
    (hn : s.Quiet z) (hcmd : z.squad.cmd = none) (hs : z.crewsShort = s.crewsShort) :
    ∃ t, odRow s (wrNum e .DEV_COMMAND 0 c) = .next t ∧ z.RespondsAs t (wrNum e .DEV_COMMAND 0 c) .ok :=
  num_ok s x e .DEV_COMMAND 0 c z hm (by have := cmd_facts.2.2; rw [this]; omega) cmd_facts.1 cmd_facts.2.1 (cmd_ok c hc).1 (cmd_ok c hc).2
    ((act_DEV_COMMAND ..).trans hact) hses hn hcmd hs

/-- ends after an answer -/

theorem answered_lateEnd (s a : State) (h : Nat) (y : Session) (r : Request) (st : Status) (hs : s.Settled)
    (hd : a.od.sessions = s.od.sessions) (hq : a.squad = s.squad) (hc : a.crewsShort = true → s.crewsShort = true)
    (hy : s.session? h = some y) (he : y.executing = some r) (hqu : y.queue = []) (hrun : a.dev.state.runs = false) :
    ∃ t, lateEnd s (a.complete (.session h r.env.reqId.toNat) st []) = .next t ∧ t.Answered r st ∧ t.dev = a.dev ∧ t.cox = a.cox := by
  obtain ⟨ss, b, c, l, f, e, _, ha, hw⟩ := complete_rest a h y r st [] (by rw [session?_congr hd]; exact hy) he hqu (by rw [idleWork_sessions hd]; exact hs.1)
  obtain ⟨t, h1, h2⟩ := lateEnd_ends s (a.complete (.session h r.env.reqId.toNat) st []) (nlSettle_same _ _ (by rw [e, hq])) ⟨hw, by rw [e, hq]; exact hs.2⟩
    (by rw [e]; exact fun k => hc ((crewsShort_congr _ _ rfl rfl rfl rfl rfl).symm.trans k))
  refine ⟨t, h1, answered_ends h2 ha, ?_, by rw [h2.cox, e]⟩
  have hr : (a.complete (.session h r.env.reqId.toNat) st []).dev = a.dev := by rw [e]
  obtain ⟨d, hd'⟩ := h2.dev
  have := h2.state (by rw [hr]; exact hrun)
  rw [hr] at this hd'
  rw [hd'] at this ⊢
  have : d = a.dev.state := this
  subst this; rfl

theorem bare_dev {u t : State} {r : Request} {st : Status} (h : u.RespondsAs t r st) (hr : u.dev.state.runs = false) : t.dev = u.dev := by
  have h1 := congrArg State.dev h.rest
  have h2 := h.state hr
  unfold State.bare at h1
  generalize t.dev = a at h1 h2
  generalize u.dev = b at h1 h2
  cases a; cases b
  simp_all

theorem idle_wiped (t : State) (hs : t.od.sessions = Vector.replicate 48 none) : t.idleWork = none := by
  unfold State.idleWork
  rw [List.find?_eq_none]
  intro k _
  have : t.session? k = none := by
    unfold State.session? toFin?
    split
    · rw [hs]; simp
    · rfl
  rw [this]; simp

theorem cmd_receive (s : State) (x : Session) (e : Envelope) (c : Nat) (hc : c ≤ 8) (p : Reply) (hm : s.MayWrite x (wrNum e .DEV_COMMAND 0 c) (.ent .DEV_COMMAND 0 0))
    (hact : (s.began x (wrNum e .DEV_COMMAND 0 c)).devCommand (.session e.session.toNat e.reqId.toNat) c = p) (hl : p.later = true) (hw : p.state.idleWork = none) :
    odRow s (wrNum e .DEV_COMMAND 0 c) = lateEnd s p.state := by
  have hv : c < 256 ^ Ent.DEV_COMMAND.row.ty.size := by have := cmd_facts.2.2; rw [this]; omega
  have hd := wrNum_data e .DEV_COMMAND 0 c hv
  have hp : (s.began x (wrNum e .DEV_COMMAND 0 c)).perform (wrNum e .DEV_COMMAND 0 c).env.session.toNat (x.took s (wrNum e .DEV_COMMAND 0 c)) (wrNum e .DEV_COMMAND 0 c) = (p, false) := by
    rw [perform_scalar s x _ .DEV_COMMAND 0 0 hm rfl cmd_facts.1 (leBytes_length ..) rfl]
    unfold State.writeObj
    simp only [cmd_facts.1, if_false, hd, (cmd_ok c hc).1, (cmd_ok c hc).2, Bool.not_true, Bool.false_eq_true, cmd_facts.2.1, if_true, act_DEV_COMMAND]
    rw [← hact]; rfl
  obtain ⟨n, hr⟩ := receive_takes s x _ hm.takes hm.settled.1
  rw [hp] at hr
  have ha : p.answered (wrNum e .DEV_COMMAND 0 c) false = p.state := by unfold Reply.answered; rw [if_pos hl]
  dsimp only at hr
  rw [ha, drainN_idle _ _ hw] at hr
  unfold odRow
  rw [hr]

theorem lateEnd_sleep (s t : State) (hq : t.squad = Squad.init) (hs : t.od.sessions = Vector.replicate 48 none)
   (ho : t.dev.state = .boot ∨ t.dev.state = .recovery ∨ t.dev.state = .reset ∨ t.dev.state = .off) : ∃ u, lateEnd s t = .next u ∧ t.EndsAs u := by
  have hn : s.Quiet t := by
    refine ⟨?_, ?_⟩
    · intro p c
      have : t.squad.ports[p].state = .disabled := by
        rw [hq]; unfold Squad.init NlPort.init; simp
      rw [this] at c; cases c.2
    · intro p _; right; right; rw [hq]; decide
  rw [lateEnd_quiet s t (nlSettle_quiet _ _ hn) ⟨idle_wiped t hs, by rw [hq]; rfl⟩]
  exact finish_ends_off s t ho

end Sys2Proof.Machine
end

