-- ==== Sys2Proof/Laws/Dictionary.lean ====
section
/-! SUPPORT. Lemmas about sessions, reads, writes, commits, the cyclic image and transfer lists: what each shared operation does to the parts of the state that a row's end looks at. -/

namespace Sys2Proof.Machine

open Sys2Proof

theorem closeSession_session (s : State) (h k : Nat) (hh : h < 48) : (s.closeSession h).session? k = if k = h then none else s.session? k := by
  have : (s.closeSession h).session? k = (s.setSession h none).session? k := rfl
  rw [this, session?_setSession _ _ _ _ hh]

theorem idleWork_sub {s t : State} (h : ∀ k x, t.session? k = some x → s.session? k = some x ∨ x.queue = []) (hs : s.idleWork = none) : t.idleWork = none := by
  rw [idleWork_none_iff] at hs ⊢
  intro k hk x hx
  rcases h k x hx with h | h
  · exact hs k hk x h
  · exact fun c => c.2 h

theorem read_row (s : State) (x : Session) (r : Request) (ob : Obj) (hs : s.Settled) (ht : s.Takes x r) (hop : r.op = 4) (hdat : r.data = [])
    (ho : r.offset = 0) (hl : r.length = 0) (hob : resolve s.crewCount r.index.toNat r.sub.toNat = some ob) (hacc : ob.access ≠ .wo) (hty : ob.ty ≠ .domain)
    (u : State) (v : OdVal) (hv : (s.began x r).takeValue ob r.env.shadow = (u, v)) (hses : u.od.sessions = (s.began x r).od.sessions)
    (hq : u.squad = s.squad) (hc : u.crewsShort = true → s.crewsShort = true) :
    ∃ t, odRow s r = .next t ∧ u.RespondsAs t r .ok ∧ t.AnsweredWith r .ok (v.enc ob.ty.size) := by
  obtain ⟨y, hy, hyq⟩ := began_session s x r ht.session
  have hp : (s.began x r).perform r.env.session.toNat (x.took s r) r = (⟨u, .ok, v.enc ob.ty.size, false⟩, false) := by
    unfold State.perform
    rw [hop]
    show (if r.data ≠ [] then _ else State.doRead _ _ _ _) = _
    rw [if_neg (by simp [hdat])]
    unfold State.doRead
    dsimp only
    rw [began_crewCount, hob]
    simp only [hacc, if_false, hty, ne_eq, not_false_eq_true, if_true, ho, hl, not_true_eq_false, or_self, hv]
  exact odRow_answers s x r ⟨u, .ok, v.enc ob.ty.size, false⟩ false y ht hs hp rfl (by rw [hop]; decide)
    (by show u.session? _ = _; rw [session?_congr hses]; exact hy) hyq
    (by intro k hk; show u.session? _ = _; rw [session?_congr hses]; exact began_others s x r ht.session k hk)
    (quiet_same (by show u.squad.ports = _; rw [hq])) (by show u.squad.cmd = _; rw [hq]; exact hs.2) hc

theorem groupStatus_began (s : State) (x : Session) (r : Request) (g : Nat) : (s.began x r).groupStatus g = s.groupStatus g := by
  simp [State.groupStatus]

theorem lintVal_began (s : State) (x : Session) (r : Request) (l : Lint) (i : Nat) : (s.began x r).lintVal l i = s.lintVal l i := by
  simp [State.lintVal]

theorem granules_began (s : State) (x : Session) (r : Request) : (s.began x r).part = s.part := by simp [State.part]

theorem setKeys_sessions (l : List (Nat × OdVal)) (ss) : ∀ s : State, ({ s with od := { s.od with sessions := ss } } : State).each l (fun s e => s.setKey e.1 e.2) =
    { s.each l (fun s e => s.setKey e.1 e.2) with od := { (s.each l (fun s e => s.setKey e.1 e.2)).od with sessions := ss } } := by
  induction l with
  | nil => intro s; rfl
  | cons a l ih =>
    intro s
    show (State.setKey _ a.1 a.2).each l _ = _
    have : ({ s with od := { s.od with sessions := ss } } : State).setKey a.1 a.2 = { s.setKey a.1 a.2 with od := { (s.setKey a.1 a.2).od with sessions := ss } } := by
      unfold State.setKey; split <;> rfl
    rw [this, ih]; rfl

theorem overlay_sessions (s : State) (ss) (g : Nat) : ({ s with od := { s.od with sessions := ss } } : State).overlay g = { s.overlay g with od := { (s.overlay g).od with sessions := ss } } := by
  unfold State.overlay State.applyWaiting
  dsimp only
  have := setKeys_sessions (s.od.waiting.filter (fun e => inGroup g e.1)) ss ({ s with od := { s.od with waiting := s.od.waiting.filter (fun e => !inGroup g e.1) } })
  dsimp only at this
  rw [this, setKeys_sessions]

theorem checkCyc_sessions (s : State) (ss) : checkCyc ({ s with od := { s.od with sessions := ss } } : State) = checkCyc s := rfl

theorem checkCam_sessions (s t : State) (ss) : checkCam ({ s with od := { s.od with sessions := ss } } : State) ({ t with od := { t.od with sessions := ss } } : State) = checkCam s t := rfl

theorem checkMgl_sessions (s : State) (ss) : checkMgl ({ s with od := { s.od with sessions := ss } } : State) = checkMgl s := rfl

theorem checkForce_sessions (s t : State) (ss) (g) (f) : checkForce ({ s with od := { s.od with sessions := ss } } : State) ({ t with od := { t.od with sessions := ss } } : State) g f = checkForce s t g f := rfl

theorem checkCox_sessions (s t : State) (ss) : checkCox ({ s with od := { s.od with sessions := ss } } : State) ({ t with od := { t.od with sessions := ss } } : State) = checkCox s t := rfl

theorem checkKv_sessions (s : State) (ss) : checkKv ({ s with od := { s.od with sessions := ss } } : State) = checkKv s := rfl

theorem checkDet_sessions (s : State) (ss) : checkDet ({ s with od := { s.od with sessions := ss } } : State) = checkDet s := rfl

theorem checkSqd_sessions (s t : State) (ss) : checkSqd ({ s with od := { s.od with sessions := ss } } : State) ({ t with od := { t.od with sessions := ss } } : State) = checkSqd s t := rfl

theorem checkEnc_sessions (s : State) (ss) : checkEnc ({ s with od := { s.od with sessions := ss } } : State) = checkEnc s := rfl

theorem checkTime_sessions (s t : State) (ss) : checkTime ({ s with od := { s.od with sessions := ss } } : State) ({ t with od := { t.od with sessions := ss } } : State) = checkTime s t := rfl

theorem commitFault_sessions (s : State) (ss) (g : Nat) : ({ s with od := { s.od with sessions := ss } } : State).commitFault g = s.commitFault g := by
  unfold State.commitFault
  dsimp only
  rw [overlay_sessions]
  split
  · exact checkCyc_sessions ..
  · exact checkCam_sessions ..
  · exact checkMgl_sessions ..
  · exact checkForce_sessions ..
  · exact checkCox_sessions ..
  · exact checkForce_sessions ..
  · exact checkKv_sessions ..
  · exact checkDet_sessions ..
  · exact checkSqd_sessions ..
  · exact checkEnc_sessions ..
  · exact checkTime_sessions ..
  · rfl

theorem commitFault_began (s : State) (x : Session) (r : Request) (h : s.session? r.env.session.toNat = some x) (g : Nat) : (s.began x r).commitFault g = s.commitFault g := by
  unfold State.began; rw [setSession_eq _ (session?_lt h)]; exact commitFault_sessions ..

theorem nowKey_congr (s t : State) (h1 : t.od.committed = s.od.committed) (h2 : t.boot.fuses = s.boot.fuses) (h3 : t.dev = s.dev) (h4 : t.cams = s.cams) (h5 : t.kv = s.kv)
   (h6 : t.cox = s.cox) (h7 : t.fnet = s.fnet) (k : Nat) (v : OdVal) : t.nowKey k v = s.nowKey k v := by
  have e1 : t.flag = s.flag := by funext e i; unfold State.flag State.num State.val State.part; rw [h1, h2]
  have e2 : t.portIdle = s.portIdle := by funext i; unfold State.portIdle; rw [h4]
  have e3 : t.inertNow = s.inertNow := by unfold State.inertNow; rw [h3]
  have e4 : t.kvPart = s.kvPart := by funext i; unfold State.kvPart; rw [h5]
  have e5 : t.retuneRuns = s.retuneRuns := by funext i; unfold State.retuneRuns; rw [h6]
  have e6 : t.ptpRuns = s.ptpRuns := by funext i; unfold State.ptpRuns; rw [h7, e1]
  unfold State.nowKey
  rw [e1, e2, e3, e4, e5, e6, h3]

theorem commit_perform (s : State) (x : Session) (e : Envelope) (g : BitVec 8) (v : Nat) (hv : v = 1 ∨ v = 2) (hm : s.MayWrite x (mkReq e 5 (g.toNat * 256 + 0xFF) 1 0 1 [BitVec.ofNat 8 v]) (.commit g.toNat)) :
    let r := mkReq e 5 (g.toNat * 256 + 0xFF) 1 0 1 [BitVec.ofNat 8 v]
    (s.began x r).perform r.env.session.toNat (x.took s r) r = (if v = 1 then actCommit (s.began x r) g.toNat else actDiscard (s.began x r) g.toNat, false) := by
  intro r
  have ha := hm.access
  have ho := hm.object
  have hl : (s.began x r).lengthFault (.commit g.toNat) r.data.length = none := rfl
  unfold State.perform
  show (State.doWrite _ _ _ _, false) = _
  unfold State.doWrite
  simp only [began_crewCount]
  rw [ho]
  simp only [began_writeAccess, took_role]
  rw [show s.writeAccess (handleItf r.env.session.toNat) (x.role == 1) (.commit g.toNat) r.index.toNat r.sub.toNat = true from ha]
  simp only [Bool.not_true, Bool.false_eq_true, if_false]
  have h0 : r.offset = 0 := rfl
  rw [if_neg (show ¬ (Obj.commit g.toNat).ty = .domain by show ¬ OdType.uns8 = .domain; decide)]
  rw [hl]
  simp only [h0, ne_eq, not_true_eq_false, if_false]
  unfold State.writeObj
  have hd : leNat r.data = v := by show (BitVec.ofNat 8 v).toNat + 256 * 0 = v; simp; omega
  simp only [hd]
  rcases hv with rfl | rfl <;> rfl

theorem powerChanged_same (a s : State) (h : ∀ e ∈ [Ent.CAM_ENABLE, .NL_ENABLE, .FNET_ENABLE], ∀ i, i < 12 → s.val e i 0 = a.val e i 0) : a.powerChanged s = s := by
  unfold State.powerChanged
  dsimp only
  have hf : ∀ e ∈ [Ent.CAM_ENABLE, .NL_ENABLE, .FNET_ENABLE], ∀ i, i < 12 → a.flag e i = s.flag e i := by
    intro e he i hi; unfold State.flag State.num; rw [h e he i hi]
  rw [if_pos]
  congr 1
  · congr 1
    · apply List.map_congr_left; intro i hi; exact hf _ (by simp) i (by simpa using hi)
    · apply List.map_congr_left; intro i hi; exact hf _ (by simp) i (by have := List.mem_range.mp hi; omega)
  · apply List.map_congr_left; intro i hi; exact hf _ (by simp) i (by have := List.mem_range.mp hi; omega)

theorem packCyc (dir : Bool) (image : Bytes) (cycle state : Nat) (fault unsync wd : Bool) (hs : state < 256) :
    (cycFrame dir image cycle state fault unsync wd).drop 16 = image ∧ (cycle < 2 ^ 32 → fieldAt (cycFrame dir image cycle state fault unsync wd) 4 4 = cycle) ∧
      fieldAt (cycFrame dir image cycle state fault unsync wd) 8 1 = state := by
  unfold cycFrame
  refine ⟨List.drop_left' (by simp [packBytes]), ?_, ?_⟩
  · exact fun hc => fieldAt_pack (l := [(4, 1), (4, 2), (1, b2n dir), (7, 0), (16, image.length)]) _ rfl rfl rfl (by decide) hc
  · exact fieldAt_pack (l := [(4, 1), (4, 2), (1, b2n dir), (7, 0), (16, image.length), (32, cycle)]) _ rfl rfl rfl (by decide) hs

theorem ufacts (s u : State) (hu : u = s.applyWaiting (inGroup 0x16)) : u.od.sessions = s.od.sessions ∧ u.squad = s.squad ∧ u.field = s.field ∧ u.cams = s.cams ∧ u.od.lints = s.od.lints := by
  obtain ⟨c, w, hw⟩ := applyWaiting_eq s (inGroup 0x16)
  rw [hu, hw]
  exact ⟨rfl, rfl, rfl, rfl, rfl⟩

theorem lateEnd_pci (s : State) (p : Pcie) (t : State) : lateEnd s t = lateEnd { s with pci := p } t := by
  have e1 : ({ s with pci := p } : State).nlSettle t = s.nlSettle t := rfl
  have e2 : ({ s with pci := p } : State).crewsShort = s.crewsShort := crewsShort_congr _ _ rfl rfl rfl rfl rfl
  have e3 : ∀ u, edges { s with pci := p } u = edges s u := fun u => rfl
  unfold lateEnd finish
  rw [e1]; dsimp only
  rw [e2, e3]

theorem close_each (l : List Nat) : ∀ s : State, (∀ k ∈ l, k < 48) →
    ∃ v q, s.each l (fun s h => if (s.session? h).isSome then s.closeSession h else s) = { s with od := { s.od with sessions := v }, pci := { s.pci with lists := q } } ∧
      ∀ k, (s.each l (fun s h => if (s.session? h).isSome then s.closeSession h else s)).session? k = if k ∈ l then none else s.session? k := by
  induction l with
  | nil => intro s _; exact ⟨s.od.sessions, s.pci.lists, rfl, fun k => by simp [State.each]⟩
  | cons a l ih =>
    intro s hl
    have ha := hl a (List.mem_cons_self ..)
    obtain ⟨w, hw⟩ : ∃ w, (if (s.session? a).isSome then s.closeSession a else s) = w := ⟨_, rfl⟩
    have hw1 : (∃ v q, w = { s with od := { s.od with sessions := v }, pci := { s.pci with lists := q } }) ∧ ∀ k, w.session? k = if k = a then none else s.session? k := by
      rw [← hw]
      split
      · refine ⟨⟨s.od.sessions.set a none ha, (s.closeSession a).pci.lists, ?_⟩, fun k => ?_⟩
        · unfold State.closeSession; rw [setSession_eq _ ha]
        · show (s.setSession a none).session? k = _
          rw [session?_setSession _ _ _ _ ha]
      · refine ⟨⟨s.od.sessions, s.pci.lists, rfl⟩, fun k => ?_⟩
        split
        · rename_i h1 h2; rw [h2]; simpa using h1
        · rfl
    obtain ⟨⟨v1, q1, h1⟩, h2⟩ := hw1
    obtain ⟨v, q, h3, h4⟩ := ih w (fun k hk => hl k (List.mem_cons_of_mem _ hk))
    refine ⟨v, q, ?_, fun k => ?_⟩
    · show State.each (if _ then _ else _) l _ = _
      rw [hw, h3, h1]
    · show (State.each (if _ then _ else _) l _).session? k = _
      rw [hw, h4, h2]
      by_cases c1 : k ∈ l <;> by_cases c2 : k = a <;> simp [c1, c2]

theorem xmod {s : State} {id : Nat} {f : XList → XList} {l : XList} (h : s.xlist? id = some l) (hf : ∀ l, (f l).id = l.id) : (s.modList id f).xlist? id = some (f l) := by
  rw [xlist?_modList _ _ _ hf, h]; rfl

theorem listDone (s : State) (id c n : Nat) (l : XList) (h : s.xlist? id = some l) :
    (s.entryDone id c n).xlist? id = some { l with result := some c, lastBytes := n, run := if c = 0 then l.run else [] } := by
  unfold State.entryDone; refine (xmod h ?_).trans rfl; intro _; rfl

theorem xlist?_congr {s t : State} (h : t.pci = s.pci) (id : Nat) : t.xlist? id = s.xlist? id := by unfold State.xlist?; rw [h]

theorem listEnds_eq (s : State) (l : XList) (a b c : Nat) (hs : l.silent = false) :
    ∃ k, s.listEnds l a b c = { s with pci := { s.pci with lists := s.pci.lists.filter (fun x => x.id != l.id) }, sent := k ++ s.sent } ∧
      Out.hostWrite l.compl (packBytes 16 [(4, 1), (4, 0), (8, a), (16, b), (32, l.id), (9, c), (23, 0), (32, l.lastBytes)]) ∈ k ∧ (l.irq = true → Out.msix 1 ∈ k) := by
  unfold State.listEnds
  rw [hs]
  simp only [Bool.false_eq_true, if_false]
  split
  · exact ⟨[.msix 1, .hostWrite _ _], rfl, by simp, fun _ => by simp⟩
  · rename_i h; exact ⟨[.hostWrite _ _], rfl, by simp, fun c => absurd c h⟩

theorem record_fields (a b c d e : Nat) (ha : a < 256) (hd : d < 2 ^ 32) : fieldAt (packBytes 16 [(4, 1), (4, 0), (8, a), (16, b), (32, d), (9, c), (23, 0), (32, e)]) 1 1 = a ∧
   fieldAt (packBytes 16 [(4, 1), (4, 0), (8, a), (16, b), (32, d), (9, c), (23, 0), (32, e)]) 4 4 = d := by
  refine ⟨?_, ?_⟩
  · have := fieldAt_pack (n := 16) (o := 1) (k := 1) (w := 8) (v := a) (f := [(4, 1), (4, 0), (8, a), (16, b), (32, d), (9, c), (23, 0), (32, e)]) (l := [(4, 1), (4, 0)]) (r := [(16, b), (32, d), (9, c), (23, 0), (32, e)]) [] rfl rfl rfl (by decide) ha
    rw [List.append_nil] at this; exact this
  · have := fieldAt_pack (n := 16) (o := 4) (k := 4) (w := 32) (v := d) (f := [(4, 1), (4, 0), (8, a), (16, b), (32, d), (9, c), (23, 0), (32, e)]) (l := [(4, 1), (4, 0), (8, a), (16, b)]) (r := [(9, c), (23, 0), (32, e)]) [] rfl rfl rfl (by decide) hd
    rw [List.append_nil] at this; exact this

theorem filter_gone (L : List XList) (id n : Nat) (h : id = n) : (L.filter (fun x => x.id != id)).find? (fun l => l.id == n) = none := by
  subst h
  rw [List.find?_eq_none]
  intro l hl
  have := (List.mem_filter.mp hl).2
  simpa using this

end Sys2Proof.Machine
end

