-- ==== Sys2Proof/Laws/Camera.lean ====
section
/-! SUPPORT. Lemmas about camera lines and swaths: what each shared operation does to the parts of the state that a row's end looks at. -/

namespace Sys2Proof.Machine

open Sys2Proof

theorem mod_get (s : State) (p : Fin 12) (f : CamPort → CamPort) : (s.modCam p f).cams[p] = f s.cams[p] := by simp [State.modCam]

theorem mod_mod (s : State) (p : Fin 12) (c : CamPort) (f : CamPort → CamPort) : (s.modCam p (fun _ => c)).modCam p f = s.modCam p (fun _ => f c) := by
  unfold State.modCam; simp [Vector.set_set]

theorem mod_const (s : State) (p : Fin 12) (f : CamPort → CamPort) : s.modCam p f = s.modCam p (fun _ => f s.cams[p]) := rfl

theorem store_open (s : State) (p : Fin 12) (C : CamPort) (w : Swath) (cnt : Nat) (px : List Nat) (t : Trig) (fl : Nat) (ho : C.opened = some w) (hl : w.lines < w.total) (hon : C.on = true) :
    (s.modCam p (fun _ => C)).storeRow p cnt px t fl = s.modCam p (fun _ => { C with opened := some { w with
            flags := w.flags ||| fl
            lines := w.lines + 1
            last := t.pos
            rows := w.rows ++ [⟨cnt, px⟩]
            nCrc := satInc w.nCrc (b2n (fl.testBit 0))
            nMissing := satInc w.nMissing (b2n (fl.testBit 1))
            nLate := satInc w.nLate (b2n (fl.testBit 2))
            nLength := satInc w.nLength (b2n (fl.testBit 3)) } }) := by
  unfold State.storeRow
  simp only [mod_get, ho, hl, if_true, hon, Bool.not_true, Bool.false_eq_true, if_false, Option.isNone_some]
  rw [mod_mod]
  simp only [ho, Option.map_some, hon]

theorem lint_get (s : State) (l : Lint) (i : Nat) : (s.lintAt l i).cams = s.cams := rfl

theorem lint_mod (s : State) (l : Lint) (i : Nat) (p : Fin 12) (f : CamPort → CamPort) : (s.lintAt l i).modCam p f = (s.modCam p f).lintAt l i := rfl

theorem mod_get_ne (s : State) (p q : Fin 12) (f : CamPort → CamPort) (h : q ≠ p) : (s.modCam p f).cams[q] = s.cams[q] := by
  unfold State.modCam; simp only
  exact Vector.getElem_set_ne _ _ (fun c => h (Fin.ext c.symm))

theorem boundary_none (s : State) (p : Fin 12) (h : ∀ a ∈ s.od.waiting, a.1 / 256 ≠ 0x2210 + p.val ∧ a.1 / 256 ≠ 0x2310 + p.val ∧ a.1 / 256 ≠ 0x2D50 + p.val) : s.camBoundary p = s := by
  unfold State.camBoundary
  apply applyWaiting_none
  intro a ha
  obtain ⟨h1, h2, h3⟩ := h a ha
  simp [h1, h2, h3]

theorem modSwath_eq (s : State) (p : Fin 12) (n : Nat) (f : Swath → Swath) : s.modSwath p n f = s.modCam p (fun c => c.modSwath n f) := by
  unfold State.modSwath
  have : toFin? 12 p.val = some p := by simp [toFin?]
  rw [this]

theorem roi_mem (s : State) (p : Fin 12) (w : Swath) (g : Swath → Swath) (v : State) (hw : w ∈ s.cams[p].closed) (hg : (g w).cnt = w.cnt)
    (hv : v.cams = (s.modSwath p w.cnt g).cams) : g w ∈ v.cams[p].closed ∧ ∀ q, q ≠ p → v.cams[q] = s.cams[q] := by
  rw [hv, modSwath_eq]
  refine ⟨?_, fun q hq => by rw [mod_get_ne _ _ _ _ hq]⟩
  rw [mod_get]; exact List.mem_map.mpr ⟨w, hw, if_pos rfl⟩

theorem ovf_lint (s : State) (p : Fin 12) (n : Nat) : (s.lintBy .ROI_OVF p n).lintVal .ROI_FALLBACK p = s.lintVal .ROI_FALLBACK p := by
  have : ∀ p : Fin 12, Lint.key .ROI_FALLBACK p ≠ Lint.key .ROI_OVF p := by decide
  exact amGet_amSet_ne _ _ _ _ (this p)

end Sys2Proof.Machine
end

