-- ==== Sys2Proof/Laws/CrewUnits.lean ====
section
/-! SUPPORT. Lemmas about LPDDR groups, shells and the other units of a crew: what each shared operation does to the parts of the state that a row's end looks at. -/

namespace Sys2Proof.Machine

open Sys2Proof

theorem readGroup_does (s : State) (g : Nat) (flips : List (BitVec 14)) (d : Bytes) (n m : Nat) (tag : Bool)
    (h : decodeGroup g (s.groupData g) (s.groupFlips g flips) = (d, n, m, tag)) :
    ∃ z, s.readGroup g flips = (z, d, decide (0 < n), decide (0 < m + b2n tag)) ∧ z.kernel = s.kernel ∧ z.cox = s.cox ∧ z.field = s.field ∧
      z.crews = s.crews ∧ z.mem.lpddr = s.mem.lpddr ∧ (0 < n → z.lintVal .LPDDR_CE 0 = satInc (s.lintVal .LPDDR_CE 0) n) ∧
      (0 < m + b2n tag → z.lintVal .LPDDR_UE 0 = satInc (s.lintVal .LPDDR_UE 0) (m + b2n tag)) := by
  unfold State.readGroup
  dsimp only
  rw [h]
  dsimp only
  obtain ⟨s1, h1⟩ : ∃ s1, s.modMem (fun m => { m with lpddrErr := if (s.groupFlips g flips).isEmpty then amErase m.lpddrErr g else amInsert m.lpddrErr g (s.groupFlips g flips) }) = s1 := ⟨_, rfl⟩
  rw [h1]
  have a1 : s1.kernel = s.kernel ∧ s1.cox = s.cox ∧ s1.field = s.field ∧ s1.crews = s.crews ∧ s1.mem.lpddr = s.mem.lpddr ∧ s1.od = s.od := by
    rw [← h1]; exact ⟨rfl, rfl, rfl, rfl, rfl, rfl⟩
  have key : ∀ (u : State) (f : Bool) (c : Nat), (u.memError 4 0 (1984 * g) f c).kernel = u.kernel ∧ (u.memError 4 0 (1984 * g) f c).cox = u.cox ∧
      (u.memError 4 0 (1984 * g) f c).field = u.field ∧ (u.memError 4 0 (1984 * g) f c).crews = u.crews ∧ (u.memError 4 0 (1984 * g) f c).mem.lpddr = u.mem.lpddr ∧
      (u.memError 4 0 (1984 * g) f c).od = (u.lintBy (if f then .LPDDR_UE else .LPDDR_CE) 0 c).od := by
    intro u f c; exact ⟨kernel_memError .., rfl, rfl, rfl, rfl, rfl⟩
  obtain ⟨b1, b2, b3, b4, b5, b6⟩ := a1
  have bl : ∀ l i, s1.lintVal l i = s.lintVal l i := fun l i => lintVal_congr (by rw [b6]) l i
  refine ⟨_, rfl, ?_⟩
  have hl : ∀ (u : State) (l l' : Lint) (c : Nat), l.key 0 ≠ l'.key 0 → (u.lintBy l 0 c).lintVal l' 0 = u.lintVal l' 0 := by
    intro u l l' c hne
    unfold State.lintVal State.lintBy
    exact amGet_amSet_ne _ _ _ _ (fun e => hne e.symm)
  by_cases hn : n = 0
  · rw [if_pos hn]
    by_cases hm : m + b2n tag = 0
    · rw [if_pos hm]; exact ⟨b1, b2, b3, b4, b5, by omega, by omega⟩
    · rw [if_neg hm]
      obtain ⟨k1, k2, k3, k4, k5, k6⟩ := key s1 true (m + b2n tag)
      refine ⟨k1.trans b1, k2.trans b2, k3.trans b3, k4.trans b4, k5.trans b5, by omega, fun _ => ?_⟩
      rw [show State.lintVal _ .LPDDR_UE 0 = (s1.lintBy .LPDDR_UE 0 (m + b2n tag)).lintVal .LPDDR_UE 0 from lintVal_congr (by rw [k6]; rfl) _ _,
        lintVal_lintBy _ _ _ _ hm, bl]
  · rw [if_neg hn]
    obtain ⟨j1, j2, j3, j4, j5, j6⟩ := key s1 false n
    generalize s1.memError 4 0 (1984 * g) false n = s2 at j1 j2 j3 j4 j5 j6 ⊢
    have ce : s2.lintVal .LPDDR_CE 0 = satInc (s.lintVal .LPDDR_CE 0) n := by
      rw [show s2.lintVal .LPDDR_CE 0 = (s1.lintBy .LPDDR_CE 0 n).lintVal .LPDDR_CE 0 from lintVal_congr (by rw [j6]; rfl) _ _,
        lintVal_lintBy _ _ _ _ hn, bl]
    have ue : s2.lintVal .LPDDR_UE 0 = s.lintVal .LPDDR_UE 0 := by
      rw [show s2.lintVal .LPDDR_UE 0 = (s1.lintBy .LPDDR_CE 0 n).lintVal .LPDDR_UE 0 from lintVal_congr (by rw [j6]; rfl) _ _,
        hl _ _ _ _ (by decide), bl]
    by_cases hm : m + b2n tag = 0
    · rw [if_pos hm]
      exact ⟨j1.trans b1, j2.trans b2, j3.trans b3, j4.trans b4, j5.trans b5, fun _ => ce, by omega⟩
    · rw [if_neg hm]
      obtain ⟨k1, k2, k3, k4, k5, k6⟩ := key s2 true (m + b2n tag)
      refine ⟨k1.trans (j1.trans b1), k2.trans (j2.trans b2), k3.trans (j3.trans b3), k4.trans (j4.trans b4), k5.trans (j5.trans b5), fun _ => ?_, fun _ => ?_⟩
      · rw [show State.lintVal _ .LPDDR_CE 0 = (s2.lintBy .LPDDR_UE 0 (m + b2n tag)).lintVal .LPDDR_CE 0 from lintVal_congr (by rw [k6]; rfl) _ _, hl _ _ _ _ (by decide), ce]
      · rw [show State.lintVal _ .LPDDR_UE 0 = (s2.lintBy .LPDDR_UE 0 (m + b2n tag)).lintVal .LPDDR_UE 0 from lintVal_congr (by rw [k6]; rfl) _ _, lintVal_lintBy _ _ _ _ hm, ue]

theorem getD_range {α : Type} (l : List α) (d : α) (n : Nat) (h : l.length = n) : (List.range n).map (fun c => l.getD c d) = l := by
  subst h
  apply List.ext_getElem
  · simp
  · intro i h1 h2; simp at h1; simp [List.getD, h1]

theorem zip_fst {α : Type} (l : List α) (n : Nat) (h : l.length = n) : (l.zip (List.range n)).map (fun e => e.1) = l := by
  subst h; rw [show (fun e : α × Nat => e.1) = Prod.fst from rfl, List.map_fst_zip (by simp)]

theorem shell_mod (s : State) (c p : Nat) (f : Shell → Shell) : (s.modShell c p f).shell c p = f (s.shell c p) := by
  unfold State.shell State.modShell
  dsimp only
  unfold amGet amSet
  split
  · rename_i h; rw [amGet?_erase_self]; exact h.symm
  · rw [amGet?_insert_self]; rfl

theorem det_short {o : Host.Outcome State Fault Refusal} {P Q : State → Prop} (h : ∃ t, o = .next t ∧ P t ∧ Q t) : ∃ t, o = .next t ∧ P t := by obtain ⟨t, a, b, _⟩ := h; exact ⟨t, a, b⟩

theorem foldl_rows {α β : Type} (f : List α × Bool × List β → Nat → List α × Bool × List β) (g : Nat → List α) (a : List β) (l : List Nat)
    (h : ∀ r ∈ l, ∀ acc, f (acc, true, a) r = (acc ++ g r, true, a)) (acc : List α) : l.foldl f (acc, true, a) = (acc ++ l.flatMap g, true, a) := by
  induction l generalizing acc with
  | nil => simp
  | cons r l ih =>
    rw [List.foldl_cons, h r (by simp), ih (fun r hr => h r (by simp [hr]))]
    simp [List.append_assoc]

theorem rows_flat {α : Type} (g : Nat → Nat → α) (F : Nat → Nat → α → β) (n m : Nat) :
    ((((List.range n).map (fun r => (List.range m).map (fun c => g r c))).zip (List.range n)).flatMap (fun e => (e.1.zip (List.range m)).map (fun y => F e.2 y.2 y.1))) =
    (List.range n).flatMap (fun r => (List.range m).map (fun c => F r c (g r c))) := by
  rw [show ((List.range n).map (fun r => (List.range m).map (fun c => g r c))).zip (List.range n) = (List.range n).map (fun r => ((List.range m).map (fun c => g r c), r)) by
    apply List.ext_getElem <;> simp]
  rw [List.flatMap_map]
  congr 1; funext r
  apply List.ext_getElem <;> simp

theorem kernel_sweepAppend (s : State) (k : Nat) (h : Heat) (p : Package) (st : Nat) (w : SweepStroke) : (s.sweepAppend k h p st w).kernel = s.kernel := by
  unfold State.sweepAppend
  split
  · rfl
  · split
    · simp only [kernel_modHeat, kernel_writeTensor, kernel_modKv]
    · rfl

theorem kernel_sweepOut (s : State) (k : Nat) (h : Heat) (p : Package) (st : SweepStroke) (x : Pass) (l : List AttNode) : (s.sweepOut k h p st x l).kernel = s.kernel := by
  unfold State.sweepOut; dsimp only
  split
  · exact kernel_modHeat _ _ _
  · simp only [kernel_writeTensor, kernel_modHeat]

def others (s t : State) : Prop := t.field = s.field ∧ t.cams = s.cams ∧ t.kv = s.kv ∧ t.mem = s.mem ∧ t.crews = s.crews

theorem writeTensor_heat (s : State) (k n : Nat) (sat : Bool) (l : List (List Nat × ExactNum)) :
    (∀ hh, amGet? s.cox.heats k = some hh → ∃ h1, amGet? (s.writeTensor k n sat l).cox.heats k = some h1 ∧ h1.passesDone = hh.passesDone) ∧
      others s (s.writeTensor k n sat l) := by
  unfold State.writeTensor
  split
  · split
    · unfold State.modHeat
      split
      · rename_i h1 e
        refine ⟨fun hh q => ⟨_, amGet?_insert_self _ _ _, ?_⟩, rfl, rfl, rfl, rfl, rfl⟩
        rw [e] at q; cases q; rfl
      · exact ⟨fun hh q => ⟨hh, q, rfl⟩, rfl, rfl, rfl, rfl, rfl⟩
    · exact ⟨fun hh q => ⟨hh, q, rfl⟩, rfl, rfl, rfl, rfl, rfl⟩
  · exact ⟨fun hh q => ⟨hh, q, rfl⟩, rfl, rfl, rfl, rfl, rfl⟩

theorem crop_ends (s : State) (k : Nat) (x : Pass) (v : State) (hk : v.kernel = s.kernel)
    (h1 : ∀ hh, amGet? s.cox.heats k = some hh → ∃ h1, amGet? v.cox.heats k = some h1 ∧ h1.passesDone = hh.passesDone) (h2 : others s v) :
    ∃ t, finish s (v.passEnds k x false) = .next t ∧ t.field = s.field ∧ t.cams = s.cams ∧ t.kv = s.kv ∧ t.mem = s.mem ∧ t.crews = s.crews ∧
      ∀ hh, amGet? s.cox.heats k = some hh → ∃ h2, amGet? t.cox.heats k = some h2 ∧ h2.passesDone = (x.stroke, x.num) :: hh.passesDone := by
  obtain ⟨t, t1, t2⟩ := passEnds_ends s v k x false (crewsShort_kernel hk)
  have : others v (v.passEnds k x false) := by
    unfold State.passEnds; dsimp only; rw [if_neg (by decide)]; unfold State.modHeat; split <;> exact ⟨rfl, rfl, rfl, rfl, rfl⟩
  obtain ⟨a1, a2, a3, a4, a5⟩ := this
  obtain ⟨b1, b2, b3, b4, b5⟩ := h2
  refine ⟨t, t1, t2.field.trans (a1.trans b1), t2.cams.trans (a2.trans b2), t2.kv.trans (a3.trans b3), t2.mem.trans (a4.trans b4), t2.crews.trans (a5.trans b5), fun hh q => ?_⟩
  obtain ⟨h3, q1, q2⟩ := h1 hh q
  refine ⟨{ h3 with passesDone := (x.stroke, x.num) :: h3.passesDone }, ?_, by rw [← q2]⟩
  rw [t2.cox]; unfold State.passEnds; dsimp only; rw [if_neg (by decide)]; unfold State.modHeat; rw [q1]; exact amGet?_insert_self _ _ _

end Sys2Proof.Machine
end

