-- ==== Sys2Proof/Laws/Fabric.lean ====
section
/-! SUPPORT. Lemmas about heats, the rota, retuning, packages, replays and pages: what each shared operation does to the parts of the state that a row's end looks at. -/

namespace Sys2Proof.Machine

open Sys2Proof

theorem dropRefs_keeps (s : State) (h : Heat) (l : List Nat) : (s.dropRefs h l).kernel = s.kernel ∧ (s.dropRefs h l).cox = s.cox ∧ (s.dropRefs h l).field = s.field ∧
    (s.dropRefs h l).od = s.od ∧ (s.dropRefs h l).mem = s.mem ∧ (s.dropRefs h l).saf = s.saf ∧ (s.dropRefs h l).recs = s.recs := by
  unfold State.dropRefs
  split
  · unfold State.modSwath; split <;> exact ⟨rfl, rfl, rfl, rfl, rfl, rfl, rfl⟩
  · exact ⟨rfl, rfl, rfl, rfl, rfl, rfl, rfl⟩

theorem masses_keeps {β : Type} (g : State → β) (hg : ∀ (s : State) (p : Nat) (f : KvPart → KvPart), g (s.modKv p f) = g s) (s : State) (h : Heat) (p : Package) (i : Nat) :
    g (s.strokeMasses h p i) = g s := by
  unfold State.strokeMasses
  split
  · dsimp only; split
    · apply each_same
      intro u n
      unfold State.rootMasses
      split
      · split
        · rfl
        · split
          · rfl
          · apply each_same
            intro v j
            split
            · rfl
            · dsimp only; split
              · exact hg _ _ _
              · rfl
      · rfl
    · rfl
  · rfl

theorem kv_all (s : State) (p : Nat) (f : KvPart → KvPart) : (s.modKv p f).cox = s.cox ∧ (s.modKv p f).field = s.field ∧ (s.modKv p f).od = s.od ∧ (s.modKv p f).mem = s.mem ∧
    (s.modKv p f).saf = s.saf ∧ (s.modKv p f).recs = s.recs := by unfold State.modKv; split <;> exact ⟨rfl, rfl, rfl, rfl, rfl, rfl⟩

theorem finish_safeFrom {s a : State} (b : Nat) (hk : a.kernel = s.kernel) (hd : s.dev.arming = none) :
    ∃ u, finish s (a.enterSafe b) = .next u ∧ u.SafeFrom s b ∧ (a.enterSafe b).EndsAs u := by
  have hda : a.dev = s.dev := dev_kernel hk
  have ha : a.dev.arming = none := by rw [hda]; exact hd
  have hka := kernel_enterSafe a b ha
  have hcs : (a.enterSafe b).crewsShort = s.crewsShort := by
    rw [← crewsShort_kernel hk]
    generalize a.enterSafe b = z at hka
    exact crewsShort_congr _ _ (congrArg Kernel.committed hka) (congrArg Kernel.fuses hka) (congrArg Kernel.held hka) (congrArg Kernel.crews hka) (congrArg Kernel.packages hka)
  obtain ⟨u, h1, h3⟩ := finish_ends s (a.enterSafe b) (by rw [hcs]; exact id)
  have hdev : (a.enterSafe b).dev = { a.dev with state := .safe, safeCause := setBit a.dev.safeCause b true } := congrArg Kernel.dev hka
  have h4 : u.dev = { a.dev with state := .safe, safeCause := setBit a.dev.safeCause b true } := by
    obtain ⟨x, _, rfl, hx, _⟩ := id h3
    have := hx (by rw [hdev]; rfl)
    dsimp only
    rw [this, hdev]
  refine ⟨u, h1, ⟨by rw [h4], by rw [h4, hda], ?_, ?_⟩, h3⟩
  · rw [h3.field, enterSafe_fire a b ha]
  · rw [h3.cox, enterSafe_heats a b ha]

theorem setState_with (s : State) (ss) (a b : Nat) (c : Bytes) : (s.withSessions ss).setState a b c = (s.setState a b c).withSessions ss := by
  unfold State.setState; split <;> rfl

theorem modRt_with (s : State) (ss) (a : Nat) (f : Retune → Retune) : (s.withSessions ss).modRt a f = (s.modRt a f).withSessions ss := by
  unfold State.modRt; split <;> rfl

theorem each_with {α : Type} (ss) (f : State → α → State) (h : ∀ u x, f (u.withSessions ss) x = (f u x).withSessions ss) (l : List α) : ∀ s : State,
    (s.withSessions ss).each l f = (s.each l f).withSessions ss := by
  induction l with
  | nil => intro s; rfl
  | cons a l ih => intro s; unfold State.each; rw [List.foldl_cons, List.foldl_cons, h]; exact ih _

theorem rt_with (s : State) (ss) (a : Nat) : (s.withSessions ss).rt a = s.rt a := rfl

theorem publish_with (s : State) (ss) (a b : Nat) : (s.withSessions ss).publish a b = (s.publish a b).withSessions ss := by
  unfold State.publish
  rw [show (s.withSessions ss).pkg? b = s.pkg? b from rfl]
  split
  · rfl
  · dsimp only
    rw [each_with ss _ (by intro u x; split <;> first | exact setState_with _ _ _ _ _ | rfl), modRt_with, rt_with]
    split <;> rfl

theorem publishDue_with (s : State) (ss) (a b : Nat) : (s.withSessions ss).publishDue a b = (s.publishDue a b).withSessions ss := by
  unfold State.publishDue
  dsimp only
  rw [show ∀ c, (s.withSessions ss).copyRead a c = s.copyRead a c from fun _ => rfl, rt_with, modRt_with, publish_with]
  split
  · split <;> rfl
  · rfl

theorem restart_with (s : State) (ss) (a b : Nat) : (s.withSessions ss).rtRestart a b = (s.rtRestart a b).withSessions ss := by
  unfold State.rtRestart
  rw [show (s.withSessions ss).pkg? b = s.pkg? b from rfl]
  split
  · rfl
  · dsimp only
    rw [each_with ss _ (by intro u x; exact setState_with _ _ _ _ _), modRt_with, publishDue_with]

theorem setState_squad (s : State) (a b : Nat) (c : Bytes) : (s.setState a b c).squad = s.squad := by unfold State.setState; split <;> rfl

theorem modRt_squad (s : State) (a : Nat) (f : Retune → Retune) : (s.modRt a f).squad = s.squad := by unfold State.modRt; split <;> rfl

theorem publish_squad (s : State) (a b : Nat) : (s.publish a b).squad = s.squad := by
  unfold State.publish; split
  · rfl
  · dsimp only
    split
    · show (State.modRt _ _ _).squad = _
      rw [modRt_squad]; apply each_same State.squad; intro u x; split <;> first | exact setState_squad _ _ _ _ | rfl
    · rw [modRt_squad]; apply each_same State.squad; intro u x; split <;> first | exact setState_squad _ _ _ _ | rfl

theorem restart_squad (s : State) (a b : Nat) : (s.rtRestart a b).squad = s.squad := by
  unfold State.rtRestart; split
  · rfl
  · dsimp only
    unfold State.publishDue; dsimp only
    generalize hv : State.modRt _ _ _ = v
    have : v.squad = s.squad := by rw [← hv, modRt_squad]; apply each_same State.squad; intro u x; exact setState_squad _ _ _ _
    rw [← this]
    split
    · split
      · rfl
      · show (State.modRt _ _ _).squad = _; exact modRt_squad _ _ _
    · exact publish_squad _ _ _

theorem enqueue_room (s : State) (r : CoxReq) (h1 : r.resume.isSome = false) (h2 : r.fast = false)
    (h : ((s.cox.queue.filter (fun x => x.resume.isNone)).length - ((s.cox.queue.filter (fun x => x.resume.isNone)).filter CoxReq.fast).length) +
        (((s.cox.queue.filter (fun x => x.resume.isNone)).filter CoxReq.fast).length - 48) < 80) :
    s.enqueue r = (s.modCox (fun c => { c with queue := queueIns r c.queue }), true) := by
  unfold State.enqueue; dsimp only
  rw [if_neg (by rw [h1]; decide), if_neg (by rw [h2]; decide), if_pos h]

theorem present_does (s : State) (slot plan part step : Nat)
    (h : ((s.cox.queue.filter (fun x => x.resume.isNone)).length - ((s.cox.queue.filter (fun x => x.resume.isNone)).filter CoxReq.fast).length) +
        (((s.cox.queue.filter (fun x => x.resume.isNone)).filter CoxReq.fast).length - 48) < 80) :
    ∃ t c, settled (s.rtRequest part slot plan step) = .next t ∧ t.cox.queue = queueIns c s.cox.queue ∧ c.kind = .retune ∧ c.plan = plan ∧ c.slot = slot ∧
        c.partition = part ∧ c.trig = s.fabNow ∧ c.deadline = none ∧ c.step = step ∧ t.field = s.field ∧ t.od = s.od ∧ t.retune = s.retune := by
  obtain ⟨c, hc⟩ : ∃ c : CoxReq, c = ⟨.retune, slot, plan, part, s.fabNow, none, s.cox.nextOrder, none, true, step, none, false⟩ := ⟨_, rfl⟩
  have : s.rtRequest part slot plan step = (s.modCox (fun c => { c with nextOrder := c.nextOrder + 1 })).modCox (fun d => { d with queue := queueIns c d.queue }) := by
    unfold State.rtRequest State.newReq State.present
    dsimp only
    rw [← hc]
    rw [enqueue_room (s.modCox (fun c => { c with nextOrder := c.nextOrder + 1 })) c (by rw [hc]; rfl) (by rw [hc]; rfl) h]
    rfl
  rw [this]
  obtain ⟨t, t1, t2⟩ := settled_ends ((s.modCox (fun c => { c with nextOrder := c.nextOrder + 1 })).modCox (fun d => { d with queue := queueIns c d.queue }))
  exact ⟨t, c, t1, by rw [t2.cox]; rfl, by rw [hc], by rw [hc], by rw [hc], by rw [hc], by rw [hc], by rw [hc], by rw [hc], t2.field, t2.od, t2.retune⟩

theorem modRt_crews (s : State) (a : Nat) (f : Retune → Retune) : (s.modRt a f).crewsShort = s.crewsShort := crewsShort_kernel (kernel_modRt ..)

theorem modRt_get (s : State) (q : Fin 8) (f : Retune → Retune) : (s.modRt q.val f).rt q.val = f (s.rt q.val) := by
  unfold State.modRt State.rt
  have : toFin? 8 q.val = some q := by simp [toFin?]
  rw [this]; simp

theorem modKv_with (s : State) (ss) (a : Nat) (f : KvPart → KvPart) : (s.withSessions ss).modKv a f = (s.modKv a f).withSessions ss := by
  unfold State.modKv; split <;> rfl

theorem place_with (s : State) (ss) (i : Fin 16) (p : Package) : (s.withSessions ss).place i p = (s.place i p).withSessions ss := by
  unfold State.place; dsimp only
  split
  · rfl
  · rw [show (s.withSessions ss).modCox (fun c => { c with packages := c.packages.set i (some p), lastSlot := i.val }) = (s.modCox (fun c => { c with packages := c.packages.set i (some p), lastSlot := i.val })).withSessions ss from rfl,
      each_with ss _ (by intro u x; exact setState_with _ _ _ _ _), modRt_with]

theorem place_squad (s : State) (i : Fin 16) (p : Package) : (s.place i p).squad = s.squad := by
  unfold State.place; dsimp only
  split
  · rfl
  · rw [modRt_squad]; exact each_same State.squad (s.modCox (fun c => { c with packages := c.packages.set i (some p), lastSlot := i.val })) _ _ (by intro u x; exact setState_squad _ _ _ _)

theorem unload_with (s : State) (ss) (i : Fin 16) : (s.withSessions ss).unload i = (s.unload i).withSessions ss := by
  unfold State.unload
  rw [show (s.withSessions ss).cox = s.cox from rfl]
  split
  · rfl
  · dsimp only
    rw [show (s.withSessions ss).modCox (fun c => { c with packages := c.packages.set i none }) = (s.modCox (fun c => { c with packages := c.packages.set i none })).withSessions ss from rfl]
    split <;> split <;> simp only [modRt_with, modKv_with]

theorem unload_does (s : State) (i : Fin 16) (p : Package) (h : s.cox.packages[i] = some p) :
    (s.unload i).squad = s.squad ∧ (s.unload i).cox.packages = s.cox.packages.set i none ∧ ((s.unload i).crewsShort = true → s.crewsShort = true) := by
  have key : ∀ v w : State, w.kernel = v.kernel → w.cox = v.cox → v = s.modCox (fun c => { c with packages := c.packages.set i none }) →
      w.squad = s.squad ∧ w.cox.packages = s.cox.packages.set i none ∧ (w.crewsShort = true → s.crewsShort = true) := by
    intro v w h1 h2 h3
    refine ⟨by rw [squad_kernel h1, h3]; rfl, by rw [h2, h3]; rfl, ?_⟩
    rw [crewsShort_kernel h1, h3]
    unfold State.crewsShort
    simp only [List.any_eq_true]
    rintro ⟨a, ha, k, hk, hq⟩
    refine ⟨a, ha, k, hk, ?_⟩
    revert hq
    show (match (s.cox.packages.set i none)[k] with | some p => _ | none => false) = true → _
    by_cases he : i.val = k.val
    · have : k = i := Fin.ext he.symm
      subst this
      rw [show (s.cox.packages.set k none)[k] = none from Vector.getElem_set_self _]
      intro hq; cases hq
    · rw [show (s.cox.packages.set i none)[k] = s.cox.packages[k] from Vector.getElem_set_ne _ _ he]
      exact id
  unfold State.unload
  rw [h]; dsimp only
  generalize hv : s.modCox (fun c => { c with packages := c.packages.set i none }) = v
  refine key v _ ?_ ?_ hv.symm
  · split <;> split <;> simp
  · split <;> split <;> first | rfl | (unfold State.modKv State.modRt; split <;> split <;> rfl) | (unfold State.modKv; split <;> rfl) | (unfold State.modRt; split <;> rfl)

theorem loadAt_new (u : State) (slot : Option (Fin 16)) (c : Bytes) (i : Fin 16) (p : Package) (hok : headerOk c = true)
    (hnew : ∀ (j : Nat) (q : Package), u.cox.packages[j]? = some (some q) → q.digest ≠ sha512Bytes c) (hck : u.loadCheck c = .inr p) (hs : slot = some i)
    (hi : (u.cox.packages[i]).isNone = true) : u.loadAt slot c = (u.place i p, none) := by
  unfold State.loadAt
  dsimp only
  rw [hok, if_neg (by decide)]
  split
  · rename_i j e
    have := List.find?_some e
    exfalso
    revert this
    cases hj : u.cox.packages[j] with
    | none => simp
    | some q =>
      have h := hnew j q (by rw [← hj]; simp)
      simpa using h
  · rw [hck, hs]
    have hfil : ∀ f : Fin 16 → Bool, f i = true → Option.filter f (some i) = some i := by intro f hf; simp [Option.filter, hf]
    rw [hfil _ hi]

theorem loadAt_old (u : State) (slot : Option (Fin 16)) (c : Bytes) (i : Fin 16) (hok : headerOk c = true)
    (hold : (allFin 16).find? (fun i => match u.cox.packages[i] with | some p => p.digest == sha512Bytes c | none => false) = some i) :
    u.loadAt slot c = (u.modCox (fun x => { x with lastSlot := i.val }), none) := by
  unfold State.loadAt
  dsimp only
  rw [hok, if_neg (by decide)]
  split
  · rename_i j e
    have := e.symm.trans hold
    cases this; rfl
  · rename_i e
    have := e.symm.trans hold
    cases this

theorem modSwath_with (s : State) (ss) (a b : Nat) (f : Swath → Swath) : (s.withSessions ss).modSwath a b f = (s.modSwath a b f).withSessions ss := by
  unfold State.modSwath; split <;> rfl

theorem replayed_with (s : State) (ss) (a : Nat) : (s.withSessions ss).replayed a = (s.replayed a).withSessions ss := by
  unfold State.replayed; split <;> rfl

theorem modKv_squad (s : State) (a : Nat) (f : KvPart → KvPart) : (s.modKv a f).squad = s.squad := by unfold State.modKv; split <;> rfl

theorem replayed_squad (s : State) (a : Nat) : (s.replayed a).squad = s.squad := by unfold State.replayed; split <;> rfl

theorem replayed_crews (s : State) (a : Nat) : (s.replayed a).crewsShort = s.crewsShort := by unfold State.replayed; split <;> rfl

theorem modKv_crews (s : State) (a : Nat) (f : KvPart → KvPart) : (s.modKv a f).crewsShort = s.crewsShort := by unfold State.modKv; split <;> rfl

theorem modSwath_crews (s : State) (a b : Nat) (f : Swath → Swath) : (s.modSwath a b f).crewsShort = s.crewsShort := by unfold State.modSwath; split <;> rfl

theorem modSwath_squad (s : State) (a b : Nat) (f : Swath → Swath) : (s.modSwath a b f).squad = s.squad := by unfold State.modSwath; split <;> rfl

/-- The hand-off of a swath that is not spoiled while the fabric runs. -/

theorem handOff_form (p : Fin 12) (w : Swath) (hd : w.decided = false) (hs : w.stopped = false) (slot k : Nat) (pkg : Package) (pl : Plan) :
    ∀ s : State, s.fastPlan p = some (slot, k, pkg, pl) → s.cox.stopReq = false → s.dev.state.runs = true → s.spoiled p w = false →
      (s.cox.queue.filter (fun x => x.resume.isNone)).length < 128 →
      s.handOff p w = ((if s.replayPort p.val then (s.modCox (fun c => { c with nextOrder := c.nextOrder + 1 })).swathEnds p w.cnt .waiting
        else ((s.modCox (fun c => { c with nextOrder := c.nextOrder + 1 })).swathEnds p w.cnt .waiting).modSaf (fun f => { f with expected := f.expected ++ [(p.val, w.cnt)] }))).modCox
          (fun c => { c with queue := queueIns ⟨.fast, slot, k, pkg.partition, s.fabNow, s.deadlineOf pkg.partition pl s.fabNow, s.cox.nextOrder, some (p.val, w.cnt), false, w.cnt % 2 ^ 32, none, false⟩ c.queue }) := by
  intro s h1 h2 h3 h4 h5
  unfold State.handOff
  rw [h1]; dsimp only
  rw [hd, hs, h2, h3, h4, if_neg (by decide), if_neg (by simp), if_neg (by decide), if_neg (by decide)]
  unfold State.newReq; dsimp only
  generalize hz : (if s.replayPort p.val = true then _ else _) = z
  have hq : z.cox.queue = s.cox.queue := by
    rw [← hz]; unfold State.swathEnds State.modSwath; split <;> split <;> rfl
  unfold State.enqueue; dsimp only
  rw [if_neg (by decide), if_pos (show CoxReq.fast _ = true from rfl), hq, if_pos h5]

theorem handOff_with (p : Fin 12) (w : Swath) (hd : w.decided = false) (hs : w.stopped = false) (s : State) (ss)
    (h : s.fastPlan p ≠ none → s.spoiled p w = false ∧ (s.cox.queue.filter (fun x => x.resume.isNone)).length < 128)
    (h2 : s.cox.stopReq = false) (h3 : s.dev.state.runs = true) :
    (s.withSessions ss).handOff p w = (s.handOff p w).withSessions ss ∧ (s.handOff p w).squad = s.squad ∧ (s.handOff p w).crewsShort = s.crewsShort := by
  cases hf : s.fastPlan p with
  | none =>
    unfold State.handOff
    rw [show (s.withSessions ss).fastPlan p = s.fastPlan p from rfl, hf]; exact ⟨rfl, rfl, rfl⟩
  | some x =>
    obtain ⟨slot, k, pkg, pl⟩ := x
    obtain ⟨h4, h5⟩ := h (by rw [hf]; exact fun c => by cases c)
    rw [handOff_form p w hd hs slot k pkg pl s hf h2 h3 h4 h5, handOff_form p w hd hs slot k pkg pl (s.withSessions ss) hf h2 h3 h4 h5]
    unfold State.swathEnds
    have hr : (s.withSessions ss).replayPort p.val = s.replayPort p.val := rfl
    rw [hr]
    have hw : ((s.withSessions ss).modCox (fun c => { c with nextOrder := c.nextOrder + 1 })).modSwath p w.cnt (fun x => { x with fate := .waiting }) =
        ((s.modCox (fun c => { c with nextOrder := c.nextOrder + 1 })).modSwath p w.cnt (fun x => { x with fate := .waiting })).withSessions ss := modSwath_with (s.modCox (fun c => { c with nextOrder := c.nextOrder + 1 })) ss _ _ _
    rw [hw]
    have a1 := modSwath_squad (s.modCox (fun c => { c with nextOrder := c.nextOrder + 1 })) p w.cnt (fun x => { x with fate := .waiting })
    have a2 := modSwath_crews (s.modCox (fun c => { c with nextOrder := c.nextOrder + 1 })) p w.cnt (fun x => { x with fate := .waiting })
    generalize (s.modCox (fun c => { c with nextOrder := c.nextOrder + 1 })).modSwath p w.cnt (fun x => { x with fate := .waiting }) = y at a1 a2 ⊢
    split <;> exact ⟨rfl, a1, a2⟩

theorem lostSwath_with (s : State) (ss) (a b : Nat) : (s.withSessions ss).lostSwath a b = (s.lostSwath a b).withSessions ss := by
  unfold State.lostSwath
  rw [show (s.withSessions ss).swath? a b = s.swath? a b from rfl]
  split
  · split
    · rfl
    · dsimp only
      rw [modSwath_with]; rfl
  · rfl

theorem lostBy_with (s : State) (ss) (r : VerdictRec) : (s.withSessions ss).lostByRecord r = (s.lostByRecord r).withSessions ss := by
  unfold State.lostByRecord; split
  · exact lostSwath_with ..
  · rfl

theorem modVerdict_with (s : State) (ss) (n : Nat) (f : VerdictRec → VerdictRec) : (s.withSessions ss).modVerdict n f = (s.modVerdict n f).withSessions ss := by
  unfold State.modVerdict
  dsimp only
  rw [show ((s.withSessions ss).modRecs (fun q => { q with verdicts := q.verdicts.map (fun e => if e.1 = n then (e.1, f e.2) else e) })) =
    (s.modRecs (fun q => { q with verdicts := q.verdicts.map (fun e => if e.1 = n then (e.1, f e.2) else e) })).withSessions ss from rfl]
  generalize s.modRecs _ = z
  rw [show (z.withSessions ss).recs = z.recs from rfl]
  split
  · exact lostBy_with ..
  · rfl

theorem slVerdict_with (s : State) (ss) (y : KvEntry) (v : Verdict) (c : Cause) (b : Bool) : (s.withSessions ss).slVerdict y v c b = (s.slVerdict y v c b).withSessions ss := by
  unfold State.slVerdict
  split
  · unfold State.fireUpdate
    dsimp only
    rw [show (s.withSessions ss).field = s.field from rfl, show (s.withSessions ss).netTime = s.netTime from rfl, modVerdict_with]
    generalize State.modVerdict _ _ _ = z
    split
    · rfl
    · rw [show ∀ n, (s.withSessions ss).verdict? n = s.verdict? n from fun _ => rfl]
      split
      · split <;> rfl
      · rfl
  · rfl

theorem kernel_kvReclaim (s : State) (part n : Nat) : (s.kvReclaim part n).kernel = s.kernel := by
  unfold State.kvReclaim; rw [kernel_lint, kernel_modKv]

theorem kernel_treeRoom (s : State) (part : Nat) : (s.treeRoom part).1.kernel = s.kernel := by
  unfold State.treeRoom; dsimp only; split
  · rfl
  · split
    · exact kernel_kvReclaim ..
    · rfl

theorem kernel_treeInsert (s : State) (a b c d : Nat) (r : SlRecipe) : (s.treeInsert a b c d r).kernel = s.kernel := by
  unfold State.treeInsert
  dsimp only
  split
  · rfl
  · split
    · rfl
    · split
      · rfl
      · generalize hz : State.treeRoom _ _ = z
        have := kernel_treeRoom (s.lintBy .KV_HASH_COLL 0 (((s.kvPart a).walk r c 0 none).2 + ((s.kvPart a).lookup (((s.kvPart a).walk r c 0 none).1.getLast?) (r.prefixPage c)).2)) a
        rw [hz] at this
        split
        · exact this
        · rw [kernel_modKv]; exact this

theorem kernel_treeInserts (s : State) (a d : Nat) (r : SlRecipe) (b : AMap Nat) : (s.treeInserts a d r b).kernel = s.kernel := by
  unfold State.treeInserts
  refine kernel_each _ _ _ (fun u e => ?_)
  exact kernel_each _ _ _ (fun u e => kernel_treeInsert ..)

end Sys2Proof.Machine
end

