-- ==== Sys2Proof/Laws/Link.lean ====
section
/-! SUPPORT. Lemmas about the links and the squad: what each shared operation does to the parts of the state that a row's end looks at. -/

namespace Sys2Proof.Machine

open Sys2Proof

theorem port_flush (s : State) (p : Fin 8) (f : NlPort → NlPort) : ((s.modPort p f).squad.ports[p]) = f s.squad.ports[p] := by
  show (s.squad.ports.set p (f s.squad.ports[p]))[p.val] = _
  rw [Vector.getElem_set_self]

theorem sendCtrl_ports (s : State) (p : Fin 8) (b : Bytes) : (s.sendCtrl p b).squad = s.squad := by
  unfold State.sendCtrl; exact each_same State.squad _ _ _ (fun _ _ => rfl)

theorem goodBlocks_squad (s : State) (p : Fin 8) : (s.goodBlocks p).squad.cmd = s.squad.cmd := beyond_cmd (beyond_goodBlocks s p)

theorem each_inv {α : Type} (P : State → Prop) (l : List α) (f : State → α → State) (h : ∀ u x, P u → P (f u x)) : ∀ s : State, P s → P (s.each l f) := by
  induction l with
  | nil => intro s hs; exact hs
  | cons a l ih => intro s hs; unfold State.each; rw [List.foldl_cons]; exact ih _ (h _ _ hs)

theorem port_putCell (s : State) (p : Fin 8) (c : NlCell) (n : Nat) : ∃ w l, (s.putCell p c n).squad.ports[p] = { s.squad.ports[p] with unacked := 0, injected := w, lanes := l } := by
  have key : ∀ u : State, ∀ f : NlPort → NlPort, ∀ o, (u.squad = (s.modPort p f).squad ∧ o = f s.squad.ports[p]) → u.squad.ports[p] = o := by
    rintro u f o ⟨h, rfl⟩; rw [h, port_flush]
  unfold State.putCell; dsimp only
  exact ⟨_, _, key _ (fun q => { q with unacked := 0, injected := (q.injected + ((allFin 4).filter (fun l => s.squad.ports[p].lanes[l].injectOne)).length) % 2 ^ 32, lanes := q.lanes.map (fun l => { l with injectOne := false }) }) _ ⟨rfl, rfl⟩⟩

theorem flush_inv (p : Fin 8) (P : NlPort → Prop) (h1 : ∀ (c : NlPort) n x, P c → P { c with txSeq := n, replay := x })
    (h2 : ∀ (c : NlPort), P c → ∀ w l, P { c with unacked := 0, injected := w, lanes := l }) (h3 : ∀ (c : NlPort) l, P c → P { c with waiting := l }) (s : State)
    (h : P s.squad.ports[p]) : P (s.flushCells p).squad.ports[p] := by
  unfold State.flushCells
  dsimp only
  split
  · refine each_inv (fun s => P s.squad.ports[p]) _ _ (fun u x hu => ?_) _ ?_
    · obtain ⟨w, l, e⟩ := port_putCell (u.modPort p (fun c => { c with txSeq := wrapAdd 24 u.squad.ports[p].txSeq 1, replay := c.replay ++ [(u.squad.ports[p].txSeq, x)] })) p x u.squad.ports[p].txSeq
      rw [e, port_flush]
      exact h2 _ (h1 _ _ _ hu) w l
    · rw [port_flush]; exact h3 _ _ h
  · exact h

theorem linked_up {c : NlPort} (h : c.state = .up ∨ c.state = .easy ∨ c.state = .retrain) : c.linked = true := by unfold NlPort.linked; rcases h with h | h | h <;> rw [h] <;> rfl

theorem modPort_port (s : State) (p : Fin 8) (f : NlPort → NlPort) : ((s.modPort p f).squad.ports[p]) = f s.squad.ports[p] := by
  show (s.squad.ports.set p (f s.squad.ports[p]))[p.val] = _
  rw [Vector.getElem_set_self]

theorem modLane_port (s : State) (p : Fin 8) (l : Fin 4) (f : NlLane → NlLane) : ((s.modLane p l f).squad.ports[p]) = s.squad.ports[p].modLane l f := modPort_port ..

theorem modLane_lane (c : NlPort) (l : Fin 4) (f : NlLane → NlLane) : (c.modLane l f).lanes[l] = f c.lanes[l] := by
  show (c.lanes.set l (f c.lanes[l]))[l.val] = _
  rw [Vector.getElem_set_self]

theorem wire_as {s u v : State} (h : u.beyond = s.beyond) (hs : s.Settled) (e : u = v) : ∃ t, lateEnd s u = .next t ∧ (s.nlSettle v).EndsAs t := e ▸ lateEnd_wire h hs

theorem no5 {a b c d : Bool} (k3 : a = b) (k4 : c = false ∨ d = false) : ¬ (a ≠ b ∨ (c = true ∧ d = true)) := by
  rintro (j | ⟨j1, j2⟩)
  · exact j k3
  · rcases k4 with k4 | k4
    · rw [k4] at j1; cases j1
    · rw [k4] at j2; cases j2

theorem noBoth {c d : Bool} (k4 : c = false ∨ d = false) : ¬ (c = true ∧ d = true) := by
  rintro ⟨j1, j2⟩
  rcases k4 with k4 | k4
  · rw [k4] at j1; cases j1
  · rw [k4] at j2; cases j2

theorem in_states (c : NlPort) (h : c.state = .handshake ∨ c.state = .retrain) : True := trivial

theorem quiet_as {s u v : State} (h : u.beyond = s.beyond) (hs : s.Settled) (e : u = v) (hl : v.links = s.links) : ∃ t, lateEnd s u = .next t ∧ v.EndsAs t := by
  subst e; exact lateEnd_quietly h hs (quiet_links hl (quiet_same rfl))

theorem inj (m : BitVec 4) : (Ent.NL_INJECT.rsvOk (.num (m.toNat + 16)) = true ∧ bits (m.toNat + 16) 7 4 = 1 ∧ ∀ l : Fin 4, (m.toNat + 16).testBit l.val = m.toNat.testBit l.val) ∧
    (Ent.NL_INJECT.rsvOk (.num (m.toNat + 32)) = true ∧ bits (m.toNat + 32) 7 4 = 2 ∧ ∀ l : Fin 4, (m.toNat + 32).testBit l.val = m.toNat.testBit l.val) ∧
    (Ent.NL_INJECT.rsvOk (.num m.toNat) = true ∧ bits (m.toNat + 0) 7 4 = 0 ∧ ∀ l : Fin 4, (m.toNat + 0).testBit l.val = m.toNat.testBit l.val) := by
  revert m; decide

theorem links_dropExch (s : State) (p : Fin 8) : (s.dropExch p).links = s.links := by
  unfold State.dropExch; split
  · exact links_modPort s p (fun c => { c with exch := none }) rfl
  · rfl

theorem quiet_start {s a u : State} (h : a.links = s.links) (q : a.Quiet u) : s.Quiet u := by
  have hp : ∀ p : Fin 8, a.squad.ports[p].state = s.squad.ports[p].state := by
    intro p
    have := congrArg (fun x => x.1[p]) h
    simpa [State.links] using this
  have hl : ∀ p : Fin 8, a.squad.ports[p].linked = s.squad.ports[p].linked := by intro p; unfold NlPort.linked; rw [hp]
  refine ⟨fun p => ?_, fun p k => ?_⟩
  · rw [← hp]; exact q.1 p
  · rw [← hl] at k; exact q.2 p k

theorem kernel_tsStep (s : State) (th : Int) : (s.tsStep th).kernel = s.kernel := by
  unfold State.tsStep
  dsimp only
  have h1 : ∀ u : State, u.gateRestart.kernel = u.kernel := by
    intro u; unfold State.gateRestart; exact kernel_each _ _ _ (fun _ _ => rfl)
  rw [h1]
  have h2 : ∀ u : State, u.tsSkips.kernel = u.kernel := by
    intro u; unfold State.tsSkips; refine kernel_each _ _ _ (fun u n => ?_); split
    · exact kernel_slotSkip ..
    · rfl
  have h3 : (if (s.lint .TS_STEP).tu.state = .locked then (s.lint .TS_STEP).lint .TS_UNLOCK else s.lint .TS_STEP).kernel = s.kernel := by split <;> rfl
  generalize (if (s.lint .TS_STEP).tu.state = .locked then (s.lint .TS_STEP).lint .TS_UNLOCK else s.lint .TS_STEP) = a at h3 ⊢
  split
  · rw [h2]; exact h3
  · exact h3

theorem kernel_tsJudge (s : State) (th : Int) : (s.tsJudge th).kernel = s.kernel := by
  unfold State.tsJudge; dsimp only
  split
  · rfl
  · split <;> rfl
  · split <;> rfl
  · split
    · rfl
    · split <;> rfl
  · rfl

theorem kernel_measure (s : State) (th : Int) : (s.measure th).kernel = (s.applyWaiting servoKey).kernel := by
  unfold State.measure
  generalize s.applyWaiting servoKey = a
  dsimp only
  split
  · exact kernel_tsStep ..
  · rw [kernel_tsJudge]; rfl

theorem measure_desk (s : State) (th : Int) : (s.measure th).squad = s.squad ∧ (s.measure th).od.sessions = s.od.sessions := by
  have h := kernel_measure s th
  obtain ⟨c, w, e⟩ := applyWaiting_eq s servoKey
  rw [e] at h
  exact ⟨congrArg Kernel.squad h, congrArg Kernel.sessions h⟩

theorem wire_quiet {s u v : State} (h : u.beyond = s.beyond) (hs : s.Settled) (e : u = v) (q : s.Quiet v) : ∃ t, lateEnd s u = .next t ∧ v.EndsAs t := by
  subst e; exact lateEnd_quietly h hs q

theorem st_as {s u v : State} (h : u.beyond = s.beyond) (hs : s.Settled) (e : u = v) (hl : v.portStates = s.portStates) : ∃ t, lateEnd s u = .next t ∧ v.EndsAs t := by
  subst e; exact lateEnd_quietly h hs (quiet_states hl)

theorem st_takeCtrl (s : State) (a b : Nat) : (s.takeCtrl a b).portStates = s.portStates := rfl

theorem sameSquad (s : State) (f : Squad → Squad) (h : f s.squad = s.squad) : s.modSquad f = s := by unfold State.modSquad; rw [h]

theorem lost_gen (s : State) (n c : Nat) (b : State) (hb : ((s.modSquad (fun q => { q with lost := q.lost ||| 2 ^ n, state := .broken })).lint .SQD_SEAT_LOST).sendAll (.broken n c) = b)
    (h0 : s.squad.cmd = none) (hl : s.squad.load = none) (h1 : s.squad.state = .formed ∨ s.squad.state = .broken) (h2 : s.squad.members.testBit n = true) (h3 : s.squad.lost.testBit n = false) :
    s.memberLost n c = if s.squad.state = .formed ∧ s.num .SQD_LOSS_ACTION 0 = 1 then b.safeCause 5 else b := by
  unfold State.memberLost
  dsimp only
  rw [if_neg (by rcases h1 with k | k <;> simp [k, h2, h3]), hb]
  have hbb : b.beyond = s.beyond := by rw [← hb, beyond_sendAll]; rfl
  have hc : b.squad.cmd = none := (beyond_cmd hbb).trans h0
  have hld : b.squad.load = none := by have := congrArg (fun x => x.squad.load) hbb; exact this.trans hl
  have e : (b.lostAnswers n).cmdSettle = b := by
    unfold State.lostAnswers State.seatResult
    dsimp only
    rw [sameSquad b _ (by rw [hc]; exact congrArg (fun x => ({ b.squad with cmd := x } : Squad)) hc.symm), sameSquad b _ (by rw [hld]; exact congrArg (fun x => ({ b.squad with load := x } : Squad)) hld.symm), hld]
    exact cmdSettle_none b hc
  have hn : b.num .SQD_LOSS_ACTION 0 = s.num .SQD_LOSS_ACTION 0 := by
    have h1 := congrArg (fun x => x.od.committed) hbb
    have h2 := congrArg (fun x => x.boot.fuses) hbb
    unfold State.num; rw [val_congr (s := s) (t := b) h1 h2]
  rw [e, hn]

theorem lost_form (s : State) (n c : Nat) (h0 : s.squad.cmd = none) (hl : s.squad.load = none) (h1 : s.squad.state = .formed ∨ s.squad.state = .broken) (h2 : s.squad.members.testBit n = true) (h3 : s.squad.lost.testBit n = false)
    (h4 : ¬ (s.squad.state = .formed ∧ s.num .SQD_LOSS_ACTION 0 = 1)) :
    s.memberLost n c = (((s.modSquad (fun q => { q with lost := q.lost ||| 2 ^ n, state := .broken })).lint .SQD_SEAT_LOST).sendAll (.broken n c)) := by
  rw [lost_gen s n c _ rfl h0 hl h1 h2 h3, if_neg h4]

theorem late_gen {s v : State} (h1 : v.od.sessions = s.od.sessions) (h2 : v.squad.cmd = s.squad.cmd) (h3 : v.portStates = s.portStates)
    (hc : v.crewsShort = true → s.crewsShort = true) (hs : s.Settled) : ∃ t, lateEnd s v = .next t ∧ v.EndsAs t :=
  lateEnd_ends s v (nlSettle_quiet _ _ (quiet_states h3)) (settled_congr h1 h2 hs) hc

theorem ports_of {u v : State} (h : u.squad = v.squad) : u.portStates = v.portStates := by unfold State.portStates State.links; rw [h]

theorem sendTo_late {s u : State} (x : Nat) (m : CtrlMsg) (h1 : u.od.sessions = s.od.sessions) (h2 : u.squad.cmd = s.squad.cmd) (h3 : u.portStates = s.portStates)
    (hc : u.crewsShort = true → s.crewsShort = true) (hs : s.Settled) : ∃ t, lateEnd s (u.sendTo x m) = .next t ∧ (u.sendTo x m).EndsAs t := by
  have hb : (u.sendTo x m).beyond = u.beyond := beyond_sendTo ..
  exact late_gen ((beyond_sessions hb).trans h1) ((beyond_cmd hb).trans h2) ((states_links (links_sendTo ..)).trans h3) (by rw [beyond_crews hb]; exact hc) hs

theorem squad_follows {s : State} {x : Nat} (h1 : s.squad.stroke = some x) (h2 : x ≠ s.seat) : s.follows = some x := by
  unfold State.follows; rw [h1]; simp [Option.filter, h2]

theorem squad_answer {u : State} {x : Nat} (st : Status) (n : Nat) (h1 : u.squad.stroke = some x) (h2 : x ≠ u.seat) : u.answer (.squad 0) st n = u.sendTo x (.commandDone st.code n) := by
  unfold State.answer; dsimp only; rw [h1]; dsimp only; rw [if_neg h2]

theorem squad_dev (u : State) (c : Nat) (h1 : 1 ≤ c) (h4 : c ≤ 4) (ha : u.dev.state.allows c = true) (ht : u.transition = false) :
    u.devCommand (.squad 0) c = u.devDo (.squad 0) c := by
  unfold State.devCommand
  dsimp only
  rw [if_neg (by omega), ha, ht, if_neg (by decide), if_neg (by simp), if_neg (by omega), if_neg (by simp)]

theorem kernel_dropRefs (s : State) (h : Heat) (l : List Nat) : (s.dropRefs h l).kernel = s.kernel := by
  unfold State.dropRefs; split
  · exact kernel_modSwath ..
  · rfl

theorem kernel_moveTokens (s : State) (p : Nat) (a b : List Nat) : (s.moveTokens p a b).kernel = s.kernel := by
  unfold State.moveTokens; split <;> rfl

theorem kernel_freeHeat (s : State) (k : Nat) : (s.freeHeat k).kernel = s.kernel := by
  unfold State.freeHeat; split
  · rfl
  · dsimp only
    rw [kernel_modCox _ _ rfl, kernel_moveTokens, kernel_dropRefs]

theorem kernel_swathDecided (s : State) (a b : Nat) : (s.swathDecided a b).kernel = s.kernel := by
  unfold State.swathDecided; rw [show ∀ u : State, ∀ f, (∀ x, (f x).held = x.held) → (u.modSaf f).kernel = u.kernel from fun u f h => kernel_modSaf u f (h _)]
  · exact kernel_modSwath ..
  · intro x; rfl

theorem kernel_swathEnds (s : State) (a b : Nat) (f : SwathFate) : (s.swathEnds a b f).kernel = s.kernel := kernel_modSwath ..

theorem kernel_heatInvalid (s : State) (k : Nat) (c : Cause) : (s.heatInvalid k c).kernel = s.kernel := by
  unfold State.heatInvalid
  split
  · rfl
  · have h1 : ((s.freeHeat k).lint .SAF_INVALID).kernel = s.kernel := by rw [kernel_lint, kernel_freeHeat]
    dsimp only
    split
    · split
      · split
        · rw [kernel_swathEnds, kernel_swathDecided]
          split
          · rw [kernel_lint]; exact h1
          · rw [kernel_swathRecord]; exact h1
        · exact h1
      · exact h1
    · exact h1
    · split
      · split
        · exact h1
        · rw [kernel_addResult]; exact h1
      · rw [if_neg (by decide), kernel_addResult]; exact h1
    · rw [kernel_addResult]; exact h1
    · rw [kernel_addResult]; exact h1

theorem desk_setState (s : State) (a b : Nat) (c : Bytes) : (s.setState a b c).desk = s.desk := by unfold State.setState; split <;> rfl

theorem desk_keepStates (s : State) (h : Heat) (p : Package) : (s.keepStates h p).desk = s.desk := by
  unfold State.keepStates
  dsimp only
  have h1 := desk_each s (h.tensors.filter (fun e => match p.td e.1 with | some t => t.kind == 4 | none => false)) (fun s e => s.setState h.req.slot e.1 e.2) (fun u x => desk_setState u _ _ _)
  split
  · split
    · exact h1
    · exact h1
  · exact h1

theorem kernel_evict (s : State) (a b c d : Nat) : (s.evict a b c d).kernel = s.kernel := by unfold State.evict; rw [kernel_lint, kernel_modKv]

theorem kernel_kvReclaim' (s : State) (part n : Nat) : (s.kvReclaim part n).kernel = s.kernel := by
  unfold State.kvReclaim; rw [kernel_lint, kernel_modKv]

theorem crewsShort_setState (s : State) (a b : Nat) (c : Bytes) : (s.setState a b c).crewsShort = s.crewsShort := by
  unfold State.setState
  split
  · rename_i i hi
    have key : ∀ (n part : Nat) (j : Fin 16),
        (match (s.cox.packages.set i.val (Option.map (fun p => ({ p with states := amInsert p.states b c } : Package)) s.cox.packages[i]))[j] with
          | some p => decide (p.partition = part) && p.plans.any (fun (pl : Plan) => decide (pl.kind = PlanKind.fast) && decide (n < pl.crews)) | none => false) =
        (match s.cox.packages[j] with
          | some p => decide (p.partition = part) && p.plans.any (fun (pl : Plan) => decide (pl.kind = PlanKind.fast) && decide (n < pl.crews)) | none => false) := by
      intro n part j
      by_cases hij : i = j
      · subst hij
        rw [show (s.cox.packages.set i.val (Option.map (fun p => ({ p with states := amInsert p.states b c } : Package)) s.cox.packages[i]))[i] =
          Option.map (fun p => ({ p with states := amInsert p.states b c } : Package)) s.cox.packages[i] from Vector.getElem_set_self _]
        cases s.cox.packages[i] <;> rfl
      · rw [show (s.cox.packages.set i.val (Option.map (fun p => ({ p with states := amInsert p.states b c } : Package)) s.cox.packages[i]))[j] = s.cox.packages[j] from
          Vector.getElem_set_ne _ _ (fun c => hij (Fin.ext c))]
    have k2 : ∀ part, (fun j : Fin 16 => (match (s.cox.packages.set i.val (Option.map (fun p => ({ p with states := amInsert p.states b c } : Package)) s.cox.packages[i]))[j] with
          | some p => decide (p.partition = part) && p.plans.any (fun (pl : Plan) => decide (pl.kind = PlanKind.fast) && decide ((s.crewsIn.filter (fun c => (s.num .PART_CREW_MASK part).testBit c)).length < pl.crews)) | none => false)) =
        (fun j : Fin 16 => (match s.cox.packages[j] with
          | some p => decide (p.partition = part) && p.plans.any (fun (pl : Plan) => decide (pl.kind = PlanKind.fast) && decide ((s.crewsIn.filter (fun c => (s.num .PART_CREW_MASK part).testBit c)).length < pl.crews)) | none => false)) := fun part => funext (key _ part)
    have k3 : (List.range 8).any (fun part => (allFin 16).any (fun j : Fin 16 => (match (s.cox.packages.set i.val (Option.map (fun p => ({ p with states := amInsert p.states b c } : Package)) s.cox.packages[i]))[j] with
          | some p => decide (p.partition = part) && p.plans.any (fun (pl : Plan) => decide (pl.kind = PlanKind.fast) && decide ((s.crewsIn.filter (fun c => (s.num .PART_CREW_MASK part).testBit c)).length < pl.crews)) | none => false))) =
        (List.range 8).any (fun part => (allFin 16).any (fun j : Fin 16 => (match s.cox.packages[j] with
          | some p => decide (p.partition = part) && p.plans.any (fun (pl : Plan) => decide (pl.kind = PlanKind.fast) && decide ((s.crewsIn.filter (fun c => (s.num .PART_CREW_MASK part).testBit c)).length < pl.crews)) | none => false))) := by
      congr 1; funext part; rw [k2]
    exact k3
  · rfl

theorem applyDecision_form (s : State) (part : Nat) (d : KvDecision) :
    s.applyDecision part d = s ∨ ∃ (z : State) (a b : Nat), z.kernel = s.kernel ∧ s.applyDecision part d = z.setState a b d.rows := by
  unfold State.applyDecision
  split
  · exact .inl rfl
  · extract_lets rows joining take s1 s2 s3 s4
    have h1 : s1.kernel = s.kernel := kernel_modKv ..
    have h2 : s2.kernel = s1.kernel := kernel_each _ _ _ (fun w e => kernel_evict w _ _ _ _)
    have h3 : s3.kernel = s2.kernel := kernel_each _ _ _ (fun w e => kernel_kvReclaim' w _ _)
    have h4 : s4.kernel = s3.kernel := kernel_modKv ..
    clear_value s4 s3 s2 s1
    exact .inr ⟨s4, _, _, h4.trans (h3.trans (h2.trans h1)), rfl⟩

theorem applyDecision_lists (s : State) (part : Nat) (d : KvDecision) : (s.applyDecision part d).desk = s.desk ∧ ((s.applyDecision part d).crewsShort = s.crewsShort) := by
  rcases applyDecision_form s part d with h | ⟨z, a, b, h1, h2⟩
  · rw [h]; exact ⟨rfl, rfl⟩
  · rw [h2]
    exact ⟨(desk_setState z _ _ _).trans (desk_kernel h1), (crewsShort_setState ..).trans (crewsShort_kernel h1)⟩

theorem desk_place (s : State) (i : Fin 16) (p : Package) : (s.place i p).desk = s.desk := by
  unfold State.place; dsimp only
  split
  · rfl
  · rw [desk_modRt]; exact (desk_each _ _ _ (fun u x => desk_setState u _ _ _)).trans rfl

theorem desk_refuse (s : State) (f : LoadFault) : (s.refuseLoad f).desk = s.desk := by
  unfold State.refuseLoad
  generalize f.word = w
  rw [desk_lint, desk_modCox]

theorem loadAt_form (s : State) (o : Option (Fin 16)) (b : Bytes) : (∃ f r, s.loadAt o b = (s.refuseLoad f, r)) ∨
    (∃ i r, s.loadAt o b = (s.modCox (fun x => { x with lastSlot := i }), r)) ∨ ∃ i p r, s.loadAt o b = (s.place i p, r) := by
  unfold State.loadAt
  extract_lets refuse
  have hr : ∀ f, refuse f = (s.refuseLoad f, some f) := fun _ => rfl
  clear_value refuse
  split
  · exact .inl ⟨_, _, hr _⟩
  · split
    · exact .inr (.inl ⟨_, _, rfl⟩)
    · split
      · exact .inl ⟨_, _, hr _⟩
      · exact .inr (.inr ⟨_, _, _, rfl⟩)
      · exact .inl ⟨_, _, hr _⟩

theorem desk_loadAt (s : State) (o : Option (Fin 16)) (b : Bytes) : (s.loadAt o b).1.desk = s.desk := by
  rcases loadAt_form s o b with ⟨f, r, h⟩ | ⟨i, r, h⟩ | ⟨i, p, r, h⟩ <;> rw [h]
  · exact desk_refuse ..
  · rfl
  · exact desk_place ..

theorem desk_unload (s : State) (i : Fin 16) : (s.unload i).desk = s.desk := by
  unfold State.unload; split
  · rfl
  · dsimp only; split <;> split <;> simp

theorem sameSquad' (s : State) (f : Squad → Squad) (h : f s.squad = s.squad) : s.modSquad f = s := by unfold State.modSquad; rw [h]

theorem admit_new (s : State) (r : CoxReq) (p : Package) (pl : Plan) (f : Fit) (hr : r.resume = none) (hw : r.swath = none) :
    (s.admitHeat r p pl f).desk = s.desk ∧ ∃ h, (s.admitHeat r p pl f).cox.heats = amInsert s.cox.heats s.freeEntry h ∧ h.crews = f.crews ∧ h.image = f.image := by
  refine ⟨desk_admit .., ?_⟩
  unfold State.admitHeat
  dsimp only
  obtain ⟨c, w, hc⟩ := applyWaiting_eq s (fun k => k == Ent.DET_TAP_TENSOR.key r.partition 0)
  rw [hr]; dsimp only
  generalize hz : State.moveTokens _ _ _ _ = z
  have hh : z.cox.heats = s.cox.heats := by
    rw [← hz, hc]; unfold State.moveTokens; split <;> rfl
  have hf : z.freeEntry = s.freeEntry := by unfold State.freeEntry; rw [hh]
  rw [hw]; dsimp only
  refine ⟨?_, ?_, ?_, ?_⟩
  rotate_left 1
  · show (amInsert z.cox.heats z.freeEntry _) = _
    rw [hh, hf]
  · rfl
  · rfl

end Sys2Proof.Machine
end

