-- ==== Sys2Proof/Laws/Net.lean ====
section
/-! SUPPORT. Lemmas about network time and the field network: what each shared operation does to the parts of the state that a row's end looks at. -/

namespace Sys2Proof.Machine

open Sys2Proof

theorem kernel_gateRestart' (u : State) : u.gateRestart.kernel = u.kernel := by
  unfold State.gateRestart; exact kernel_each _ _ _ (fun _ _ => rfl)

theorem kernel_tsSkips' (u : State) : u.tsSkips.kernel = u.kernel := by
  unfold State.tsSkips; refine kernel_each _ _ _ (fun u n => ?_); split
  · exact kernel_slotSkip ..
  · rfl

theorem skip_with (u : State) (ss) (n : Fin 32) : (if (u.withSessions ss).field.slots[n].enabled ∧ (u.withSessions ss).num .TRG_SRC n.val = 0 then (u.withSessions ss).slotSkip n else u.withSessions ss) =
    (if u.field.slots[n].enabled ∧ u.num .TRG_SRC n.val = 0 then u.slotSkip n else u).withSessions ss := by
  rw [show (u.withSessions ss).field = u.field from rfl, show (u.withSessions ss).num .TRG_SRC n.val = u.num .TRG_SRC n.val from rfl]
  split
  · unfold State.slotSkip
    dsimp only
    have e : ∀ a b c : Nat, (u.withSessions ss).field = u.field ∧ (u.withSessions ss).num = u.num ∧ (u.withSessions ss).enc? = u.enc? ∧ (u.withSessions ss).netTime = u.netTime ∧
      (u.withSessions ss).slotStart = u.slotStart ∧ (u.withSessions ss).slotStartNs = u.slotStartNs := fun _ _ _ => ⟨rfl, rfl, rfl, rfl, rfl, rfl⟩
    obtain ⟨e1, e2, e3, e4, e5, e6⟩ := e 0 0 0
    rw [e1, e2, e3, e4, e5, e6]
    generalize (if u.num .TRG_SRC n = 1 then _ else _ : Nat) = k
    rfl
  · rfl

theorem modFnet_congr (s : State) (p : Fin 2) (f g : FnetPort → FnetPort) (h : f s.fnet.ports[p] = g s.fnet.ports[p]) : s.modFnet p f = s.modFnet p g := by
  unfold State.modFnet; rw [h]

end Sys2Proof.Machine
end

