-- ==== Sys2Proof/Laws/OarUnit.lean ====
section
/-! SUPPORT. Lemmas about the oars: what each shared operation does to the parts of the state that a row's end looks at. -/

namespace Sys2Proof.Machine

open Sys2Proof

theorem oarStep_does (s : State) (c : Fin 6) (l : Fin 512) (o : Oar) (w n : Nat) (k : OarKind) (f : Oar → Nat → Nat → State) (h : s.OarAt c l o w n k) :
    s.oarStep c l k f = finish s (f o w n) := by
  unfold State.oarStep
  rw [h.oar]; dsimp only
  rw [h.ready]
  simp only [Bool.not_true, Bool.false_eq_true, if_false]
  rw [h.fetch]; dsimp only
  rw [if_pos h.kind]

theorem setOar_ends (s : State) (c : Fin 6) (l : Fin 512) (q : Option Oar) : ∃ t, finish s (s.setOar c l q) = .next t ∧ (s.setOar c l q).EndsAs t := finish_kernel rfl

theorem oar_get (s : State) (c l : Nat) (q : Oar) : (s.setOar c l (some q)).oar? c l = some q := amGet?_insert_same ..

theorem wx_rx (o : Oar) (r v i : Nat) (h : i ≠ r ∨ i = 0) : (o.wx r v).rx i = o.rx i := by
  unfold Oar.wx Oar.rx
  cases hi : toFin? 32 i with
  | none => rfl
  | some j =>
    by_cases hz : i = 0
    · dsimp only; rw [if_pos hz, if_pos hz]
    · dsimp only
      rw [if_neg hz, if_neg hz]
      cases hr : toFin? 32 r with
      | none => rfl
      | some q =>
        dsimp only
        split
        · rfl
        · have : q.val = r := by unfold toFin? at hr; split at hr <;> cases hr; rfl
          have : j.val = i := by unfold toFin? at hi; split at hi <;> cases hi; rfl
          have : (o.x.set q.val (BitVec.ofNat 32 v))[j] = o.x[j] := Vector.getElem_set_ne _ _ (by omega)
          rw [this]

theorem wf_rf (o : Oar) (r v i : Nat) (h : i ≠ r) : (o.wf r v).rf i = o.rf i := by
  unfold Oar.wf Oar.rf
  cases hi : toFin? 32 i with
  | none => rfl
  | some j =>
    cases hr : toFin? 32 r with
    | none => rfl
    | some q =>
      dsimp only
      have : q.val = r := by unfold toFin? at hr; split at hr <;> cases hr; rfl
      have : j.val = i := by unfold toFin? at hi; split at hi <;> cases hi; rfl
      have : (o.f.set q.val (BitVec.ofNat 32 v))[j] = o.f[j] := Vector.getElem_set_ne _ _ (by omega)
      rw [this]

/-- What one of these changes. -/

def Only (o q : Oar) (rd : Nat) : Prop :=
  (∀ r, r ≠ rd ∨ r = 0 → q.rx r = o.rx r) ∧ (∀ r, r ≠ rd → q.rf r = o.rf r) ∧ q.wait = o.wait ∧ q.access = o.access ∧
      q.sliver = o.sliver ∧ q.serial = o.serial ∧ q.stroke = o.stroke ∧ q.pass = o.pass ∧ q.left = o.left ∧ q.right = o.right ∧ q.bars = o.bars

theorem wx_eq (o : Oar) (rd v : Nat) : ∃ x, o.wx rd v = { o with x := x } := by
  unfold Oar.wx; split
  · split
    · exact ⟨o.x, rfl⟩
    · exact ⟨_, rfl⟩
  · exact ⟨o.x, rfl⟩

theorem only_wx (o : Oar) (rd v : Nat) : Only o (o.wx rd v) rd ∧ (o.wx rd v).instret = o.instret := by
  obtain ⟨x, hx⟩ := wx_eq o rd v
  refine ⟨⟨fun r h => wx_rx _ _ _ _ h, fun r _ => by rw [hx]; rfl, ?_⟩, by rw [hx]⟩
  rw [hx]; exact ⟨rfl, rfl, rfl, rfl, rfl, rfl, rfl, rfl, rfl⟩

theorem only_wf (o : Oar) (rd v : Nat) : Only o (o.wf rd v) rd ∧ (o.wf rd v).instret = o.instret := by
  have hf : ∀ r, (o.wf rd v).rx r = o.rx r := by intro r; unfold Oar.wf; split <;> rfl
  refine ⟨⟨fun r h => hf r, fun r h => wf_rf _ _ _ _ h, ?_⟩, ?_⟩ <;> unfold Oar.wf <;> split <;> first | rfl | exact ⟨rfl, rfl, rfl, rfl, rfl, rfl, rfl, rfl, rfl⟩

theorem only_retire {o q : Oar} {rd : Nat} (n : Nat) (h : Only o q rd ∧ q.instret = o.instret) : Only o (q.retire n) rd ∧ (q.retire n).instret = wrapAdd 64 o.instret 1 :=
  ⟨h.1, by rw [← h.2]; rfl⟩

theorem only_flag {o q : Oar} {rd : Nat} (n : Nat) (h : Only o q rd ∧ q.instret = o.instret) : Only o (q.flag n) rd ∧ (q.flag n).instret = o.instret := h

theorem only_jump {o q : Oar} {rd : Nat} (n : Nat) (h : Only o q rd ∧ q.instret = o.instret) : Only o (q.jump n) rd ∧ (q.jump n).instret = wrapAdd 64 o.instret 1 :=
  ⟨h.1, by rw [← h.2]; rfl⟩

theorem only_self (o : Oar) (rd : Nat) : Only o o rd ∧ o.instret = o.instret := ⟨⟨fun _ _ => rfl, fun _ _ => rfl, rfl, rfl, rfl, rfl, rfl, rfl, rfl, rfl, rfl⟩, rfl⟩

theorem only_csr (o : Oar) (w ro : Nat) : Only o (o.csrOp w ro) (rdOf w) ∧ (o.csrOp w ro).instret = o.instret := by
  unfold Oar.csrOp; dsimp only
  split
  · exact only_wx (Oar.mk o.serial o.stroke o.pass o.sliver o.iter o.x o.f o.pc _ o.instret o.access o.wait o.left o.right o.fromLeft o.fromRight o.bars) (rdOf w) _
  · exact only_wx ..

theorem only_base (o : Oar) (w n ro : Nat) : Only o (o.baseOp w n ro) (rdOf w) ∧ (o.baseOp w n ro).instret = wrapAdd 64 o.instret 1 := by
  unfold Oar.baseOp; dsimp only
  split
  · exact only_retire _ (only_wx ..)
  · exact only_retire _ (only_wx ..)
  · exact only_jump _ (only_wx ..)
  · exact only_jump _ (only_wx ..)
  · split
    · exact only_jump _ (only_self ..)
    · exact only_retire _ (only_self ..)
  · exact only_retire _ (only_wx ..)
  · exact only_retire _ (only_wx ..)
  · exact only_retire _ (only_csr ..)
  · refine only_retire _ (only_flag _ ?_)
    split
    · exact only_wx ..
    · exact only_wf ..
  · exact only_retire _ (only_flag _ (only_wf ..))
  · exact only_retire _ (only_flag _ (only_wf ..))
  · exact only_retire _ (only_flag _ (only_wf ..))
  · exact only_retire _ (only_flag _ (only_wf ..))
  · exact only_retire _ (only_self ..)

theorem sliverEnds_bad (s : State) (c l : Nat) (o : Oar) : ∃ E I, s.sliverEnds c l o false =
    { s with units := { (s.setOar c l none).units with ended := E, invocations := I } } := by
  unfold State.sliverEnds
  dsimp only
  split
  · exact ⟨_, _, rfl⟩
  · split
    · split
      · rename_i h
        exfalso
        rw [List.all_eq_true] at h
        have := h ((o.serial, o.stroke, o.pass, o.sliver), false) (by simp)
        cases this
      · exact ⟨_, _, rfl⟩
    · exact ⟨_, _, rfl⟩

theorem fault_does (s : State) (c : Fin 6) (l : Fin 512) (o o1 : Oar) (cause kd : Nat) (hkd : kd = if cause = 4 then 9 else 8) (k : Nat) (h : Heat)
    (e1 : o1.serial = o.serial) (e2 : o1.stroke = o.stroke) (e3 : o1.pass = o.pass)
    (hh : s.heatOf o.serial = some (k, h)) (hu : s.UnderLimit (.oar c.val ((s.crew c).oar l))) :
    ∃ t, finish s (s.oarFault c l o1 cause) = .next t ∧ s.Detects t k kd c.val ((s.crew c).oar l) o.stroke o.pass ∧ t.oar? c l = none := by
  unfold State.oarFault
  dsimp only
  rw [e1, hh]; dsimp only
  obtain ⟨v0, hv0⟩ : ∃ v0, (s.oarLast c o1 cause o1.pc).lint (if cause = 4 then .OAR_BUDGET else .OAR_FAULT) = v0 := ⟨_, rfl⟩
  rw [hv0]
  obtain ⟨E, I, hv⟩ := sliverEnds_bad v0 c l o1
  obtain ⟨v, hvv⟩ : ∃ v, v0.sliverEnds c l o1 false = v := ⟨_, rfl⟩
  rw [hvv] at hv ⊢
  have k1 : v.kernel = s.kernel := by rw [hv, ← hv0]; rfl
  have k2 : v.cox = s.cox := by rw [hv, ← hv0]; rfl
  have k3 : v.saf = s.saf := by rw [hv, ← hv0]; rfl
  have k4 : v.tu = s.tu := by rw [hv, ← hv0]; rfl
  have k5 : v.oar? c l = none := by
    rw [hv]; unfold State.oar? State.setOar; dsimp only; rw [amGet?_erase, if_pos rfl]
  rw [e2, e3, ← hkd]
  obtain ⟨t, t1, t2, t3⟩ := detected_does s v k kd c.val ((s.crew c).oar l) o.stroke o.pass false .check (.oar c ((s.crew c).oar l)) k1 k2 k3 k4
    (by rw [hv, ← hv0]; exact ⟨rfl, rfl, rfl, rfl, rfl, rfl, rfl, rfl, rfl⟩) hu
  refine ⟨t, t1, t2, ?_⟩
  unfold State.oar? at k5 ⊢; rw [t3]; exact k5

theorem fault_word (s : State) (c : Fin 6) (l : Fin 512) (o o1 : Oar) (cause kd : Nat) (hkd : kd = if cause = 4 then 9 else 8) (k : Nat) (h : Heat)
    (e1 : o1.serial = o.serial) (e2 : o1.stroke = o.stroke) (e3 : o1.pass = o.pass)
    (hh : s.heatOf o.serial = some (k, h)) (hu : s.UnderLimit (.oar c.val ((s.crew c).oar l))) :
    ∃ t, finish s (s.oarFault c l o1 cause) = .next t ∧ s.Detects t k kd c.val ((s.crew c).oar l) o.stroke o.pass ∧ t.oar? c l = none ∧
      t.units.lastFault = pack [(8, cause), (3, c.val), (5, 0), (16, o1.sliver), (32, o1.pc)] := by
  unfold State.oarFault
  dsimp only
  rw [e1, hh]; dsimp only
  obtain ⟨v0, hv0⟩ : ∃ v0, (s.oarLast c o1 cause o1.pc).lint (if cause = 4 then .OAR_BUDGET else .OAR_FAULT) = v0 := ⟨_, rfl⟩
  rw [hv0]
  obtain ⟨E, I, hv⟩ := sliverEnds_bad v0 c l o1
  obtain ⟨v, hvv⟩ : ∃ v, v0.sliverEnds c l o1 false = v := ⟨_, rfl⟩
  rw [hvv] at hv ⊢
  have k1 : v.kernel = s.kernel := by rw [hv, ← hv0]; rfl
  have k2 : v.cox = s.cox := by rw [hv, ← hv0]; rfl
  have k3 : v.saf = s.saf := by rw [hv, ← hv0]; rfl
  have k4 : v.tu = s.tu := by rw [hv, ← hv0]; rfl
  have k5 : v.oar? c l = none := by
    rw [hv]; unfold State.oar? State.setOar; dsimp only; rw [amGet?_erase, if_pos rfl]
  rw [e2, e3, ← hkd]
  obtain ⟨t, t1, t2, t3⟩ := detected_does s v k kd c.val ((s.crew c).oar l) o.stroke o.pass false .check (.oar c ((s.crew c).oar l)) k1 k2 k3 k4
    (by rw [hv, ← hv0]; exact ⟨rfl, rfl, rfl, rfl, rfl, rfl, rfl, rfl, rfl⟩) hu
  refine ⟨t, t1, t2, ?_, ?_⟩
  · unfold State.oar? at k5 ⊢; rw [t3]; exact k5
  · rw [t3, hv, ← hv0]; rfl

theorem fault_short {o : Host.Outcome State Fault Refusal} {P Q R : State → Prop} (h : ∃ t, o = .next t ∧ P t ∧ Q t ∧ R t) : ∃ t, o = .next t ∧ P t ∧ Q t := by
  obtain ⟨t, a, b, c, _⟩ := h; exact ⟨t, a, b, c⟩

theorem kernel_sendRecord (s : State) (o : Oar) (r : Bool) (b : Bytes) : (s.sendRecord o r b).kernel = s.kernel := by
  unfold State.sendRecord; split <;> rfl

theorem poolPass_kernel (s : State) (k : Nat) (h : Heat) (p : Package) (b : Bytes) (x : Pass) : (s.poolPass k h p b x).kernel = s.kernel := by
  unfold State.poolPass
  split
  · rfl
  · unfold State.passEnds; dsimp only; rw [if_neg (by decide), kernel_modHeat, kernel_writeTensor]

theorem sliverEnds_kernel (s : State) (c l : Nat) (o : Oar) (g : Bool) : (s.sliverEnds c l o g).kernel = s.kernel ∧
    (s.sliverEnds c l o g).oar? c l = none ∧ (s.sliverEnds c l o g).units.invocations = if g then wrapAdd 64 s.units.invocations 1 else s.units.invocations := by
  have hp : ∀ (u : State) (k : Nat) (x : Pass), (u.passEnds k x false).kernel = u.kernel ∧ (u.passEnds k x false).units = u.units := by
    intro u k x; unfold State.passEnds; dsimp only; rw [if_neg (by decide)]; exact ⟨kernel_modHeat .., by unfold State.modHeat; split <;> rfl⟩
  have key : ∀ v : State, v.kernel = s.kernel → v.units.oars = amErase s.units.oars (c * 512 + l) → v.units.invocations = (if g then wrapAdd 64 s.units.invocations 1 else s.units.invocations) →
      v.kernel = s.kernel ∧ v.oar? c l = none ∧ v.units.invocations = if g then wrapAdd 64 s.units.invocations 1 else s.units.invocations := by
    intro v h1 h2 h3
    refine ⟨h1, ?_, h3⟩
    unfold State.oar?; rw [h2, amGet?_erase, if_pos rfl]
  unfold State.sliverEnds
  dsimp only
  split
  · exact key _ rfl rfl rfl
  · split
    · split
      · split
        · refine key _ ?_ ?_ ?_
          · rw [(hp _ _ _).1]; rfl
          · rw [(hp _ _ _).2]; rfl
          · rw [(hp _ _ _).2]; rfl
        · exact key _ rfl rfl rfl
      · exact key _ rfl rfl rfl
    · exact key _ rfl rfl rfl

theorem start_wrap {s X : State} {c l : Nat} {O : Oar} {P : State → Oar → Prop} (hX : X.kernel = s.kernel) (hP : ∀ t, (X.setOar c l (some O)).EndsAs t → P t O) :
    ∃ t o, finish s (X.setOar c l (some O)) = .next t ∧ t.oar? c l = some o ∧ P t o := by
  obtain ⟨t, t1, t2⟩ := finish_kernel (s := s) (t := X.setOar c l (some O)) hX
  refine ⟨t, O, t1, ?_, hP t t2⟩
  unfold State.oar?; rw [t2.units]; exact amGet?_insert_same ..

end Sys2Proof.Machine
end

