-- ==== Sys2Proof/Laws/FieldSide.lean ====
section
/-! SUPPORT. Lemmas about field channels, encoders and pulses: what each shared operation does to the parts of the state that a row's end looks at. -/

namespace Sys2Proof.Machine

open Sys2Proof

theorem chans_each (g : State → Fin 48 → FieldCh → FieldCh) (hg : ∀ s n f, g (s.modChan n f) = g s) (l : List (Fin 48)) : ∀ (s : State), l.Nodup →
    (∀ k : Fin 48, (s.each l (fun s n => s.modChan n (g s n))).field.chans[k] = if k ∈ l then g s k s.field.chans[k] else s.field.chans[k]) ∧
      ∃ C, s.each l (fun s n => s.modChan n (g s n)) = s.modField (fun f => { f with chans := C }) := by
  induction l with
  | nil => intro s _; exact ⟨fun k => by simp [State.each], s.field.chans, rfl⟩
  | cons a l ih =>
    intro s hn
    rw [List.nodup_cons] at hn
    obtain ⟨h1, C, h2⟩ := ih (s.modChan a (g s a)) hn.2
    have e : s.each (a :: l) (fun s n => s.modChan n (g s n)) = (s.modChan a (g s a)).each l (fun s n => s.modChan n (g s n)) := rfl
    rw [e]
    refine ⟨fun k => ?_, C, by rw [h2]; rfl⟩
    rw [h1, hg]
    have hx : (s.modChan a (g s a)).field.chans[k] = if a = k then g s a s.field.chans[a] else s.field.chans[k] := by
      show (s.field.chans.set a.val (g s a s.field.chans[a]))[k] = _
      by_cases hk : a = k
      · subst hk; simp
      · rw [if_neg hk]; exact Vector.getElem_set_ne _ _ (fun c => hk (Fin.ext c))
    rw [hx]
    by_cases hk : k = a
    · subst hk; rw [if_neg hn.1, if_pos rfl, if_pos (by simp)]
    · have hk' : ¬ a = k := fun c => hk c.symm
      simp only [if_neg hk', List.mem_cons, hk, false_or]

theorem encs_each (g : Fin 8 → Encoder → Encoder) (l : List (Fin 8)) : ∀ (s : State), l.Nodup →
    (∀ k : Fin 8, (s.each l (fun s n => s.modEnc n (g n))).field.encs[k] = if k ∈ l then g k s.field.encs[k] else s.field.encs[k]) ∧
      ∃ C, s.each l (fun s n => s.modEnc n (g n)) = s.modField (fun f => { f with encs := C }) := by
  induction l with
  | nil => intro s _; exact ⟨fun k => by simp [State.each], s.field.encs, rfl⟩
  | cons a l ih =>
    intro s hn
    rw [List.nodup_cons] at hn
    obtain ⟨h1, C, h2⟩ := ih (s.modEnc a (g a)) hn.2
    have e : s.each (a :: l) (fun s n => s.modEnc n (g n)) = (s.modEnc a (g a)).each l (fun s n => s.modEnc n (g n)) := rfl
    rw [e]
    refine ⟨fun k => ?_, C, by rw [h2]; rfl⟩
    rw [h1]
    have hx : (s.modEnc a (g a)).field.encs[k] = if a = k then g a s.field.encs[a] else s.field.encs[k] := by
      show (s.field.encs.set a.val (g a s.field.encs[a]))[k] = _
      by_cases hk : a = k
      · subst hk; simp
      · rw [if_neg hk]; exact Vector.getElem_set_ne _ _ (fun c => hk (Fin.ext c))
    rw [hx]
    by_cases hk : k = a
    · subst hk; rw [if_neg hn.1, if_pos rfl, if_pos (by simp)]
    · have hk' : ¬ a = k := fun c => hk c.symm
      simp only [if_neg hk', List.mem_cons, hk, false_or]

theorem all_nodup (n : Nat) : (allFin n).Nodup := List.nodup_finRange n

theorem all_mem {n : Nat} (k : Fin n) : k ∈ allFin n := List.mem_finRange k

theorem cut_sum (lim : Nat) (l : List (Nat × Nat)) (hd : (l.map (·.1)).Nodup) : ((l.filter (fun e => !(groupCut lim l).contains e.1)).map (·.2)).sum ≤ lim := by
  induction l with
  | nil => simp
  | cons e r ih =>
    obtain ⟨n, i⟩ := e
    unfold groupCut
    split
    · rename_i h; simp only [List.map_cons, List.contains_nil, Bool.not_false] at h ⊢; rw [List.filter_eq_self.mpr (fun _ _ => rfl)]; exact h
    · simp only [List.map_cons, List.nodup_cons] at hd
      have e1 : List.filter (fun e => !(n :: groupCut lim r).contains e.1) ((n, i) :: r) = List.filter (fun e => !(groupCut lim r).contains e.1) r := by
        rw [List.filter_cons_of_neg (by simp)]
        apply List.filter_congr
        intro x hx
        have : x.1 ≠ n := by intro c; exact hd.1 (by rw [← c]; exact List.mem_map_of_mem (f := fun e : Nat × Nat => e.1) hx)
        simp [this]
      rw [e1]; exact ih hd.2

theorem cut_nil (lim : Nat) (l : List (Nat × Nat)) (h : (l.map (·.2)).sum ≤ lim) : groupCut lim l = [] := by
  cases l with
  | nil => rfl
  | cons e r => unfold groupCut; rw [if_pos h]

theorem limit_eq (s : State) (g : Option (Fin 6)) (ma : Vector (BitVec 16) 48) (l : List (Fin 48)) (cut : List Nat)
    (hl : l = (allFin 48).reverse.filter (fun n : Fin 48 => s.driveOn n && (match g with | some k => n.val / 8 == k.val | none => true)))
    (hc : cut = groupCut (if g.isSome then 2500 else 12000) (l.map (fun n : Fin 48 => (n.val, (ma[n]).toNat)))) :
    execGroupLimit g ma s = if cut.isEmpty then .next s else done s (((s.dropHolds cut).lint .FIO_LIMIT).each (allFin 48) (fun s n =>
      if cut.contains n.val then s.modChan n (fun c => { c with group := true }) else s)) := by
  subst hc
  subst hl
  cases g <;> rfl

theorem chans_dropHolds (s : State) (l : List Nat) : (s.dropHolds l).field.chans = s.field.chans := rfl

theorem enc_get (s : State) (n : Fin 8) (f : Encoder → Encoder) : (s.modEnc n f).field.encs[n] = f s.field.encs[n] := by
  show (s.field.encs.set n.val (f s.field.encs[n]))[n] = _; simp

theorem enc_two (s : State) (n : Fin 8) (f g : Encoder → Encoder) : (s.modEnc n f).modEnc n g = s.modEnc n (fun e => g (f e)) := by
  unfold State.modEnc State.modField; simp [Vector.set_set]

theorem fault_eq (s : State) (n : Fin 8) (f : Encoder → Encoder) : s.encFault n f = ((s.modEnc n (fun e => { f e with fault := true })).lint .ENC_FAULT).fireChannelFault n := rfl

theorem step_eq (u : State) (n : Fin 8) (d : Int) (r : Bool) : u.encStep n d r =
    (u.modEnc n (fun e => { e with pos := u.field.encs[n].pos + d, high := max u.field.encs[n].high (u.field.encs[n].pos + d), lastReverse := r })).moved n u.field.encs[n].pos := rfl

theorem num_errs (s : State) (x : Session) (e : Envelope) (E : Ent) (i v : Nat) (st : Status) (hm : s.MayWrite x (wrNum e E i v) (.ent E i 0))
    (hv : v < 256 ^ E.row.ty.size) (hty : E.row.ty ≠ .domain) (hwo : E.row.acc = .wo) (hrsv : E.rsvOk (.num v) = true)
    (hrange : E.rangeOk i 0 (.num v) = true)
    (hact : ∀ ss, (s.withSessions ss).writeAct (.session e.session.toNat e.reqId.toNat) (some e.session.toNat) (some e.reqId.toNat) E i (.num v) =
      .err (s.withSessions ss) st) :
    ∃ t, odRow s (wrNum e E i v) = .next t ∧ s.RespondsAs t (wrNum e E i v) st := by
  obtain ⟨ss, hss⟩ := began_with s x _ hm.takes.session
  have hd := wrNum_data e E i v hv
  have hop : (wrNum e E i v).op ≠ 2 := by show BitVec.ofNat 8 5 ≠ 2; decide
  obtain ⟨t, h1, h2⟩ := odRow_plain s x (wrNum e E i v) (.err (s.withSessions ss) st) false hm.takes hm.settled (by
      rw [perform_scalar s x _ E i 0 hm rfl hty (leBytes_length ..) rfl, hss]
      unfold State.writeObj
      simp only [hty, if_false, hd, hrsv, hrange, Bool.not_true, Bool.false_eq_true, hwo, if_true]
      exact congrArg (fun p => (p, false)) (hact ss)) rfl hop (by rw [hss]; rfl) (quiet_same rfl) hm.settled.2
    (by intro h; rw [← h]; exact (crewsShort_with s ss).symm)
  exact ⟨t, h1, responds_base h2 (withSessions_bare s ss) rfl⟩

theorem divs_each (p : Int) (l : List (Fin 16)) : ∀ (s : State) (d : Fin 16),
    (s.each l (fun s d => s.modDiv d (fun v => { v with p0 := p, next := 1 }))).field.divs[d] =
      if d ∈ l then { s.field.divs[d] with p0 := p, next := 1 } else s.field.divs[d] := by
  induction l with
  | nil => intro s d; simp [State.each]
  | cons a l ih =>
    intro s d
    show ((s.modDiv a _).each l _).field.divs[d] = _
    rw [ih]
    have : (s.modDiv a (fun v => { v with p0 := p, next := 1 })).field.divs[d] = if d = a then { s.field.divs[d] with p0 := p, next := 1 } else s.field.divs[d] := by
      by_cases h : d = a
      · subst h; simp [State.modDiv, State.modField]
      · simp [State.modDiv, State.modField, h]
        rw [Vector.getElem_set_ne]
        exact fun hh => h (Fin.ext hh.symm)
    rw [this]
    by_cases h : d = a
    · subst h; simp
    · simp [h]

theorem divs_encs (p : Int) (l : List (Fin 16)) : ∀ (s : State),
    (s.each l (fun s d => s.modDiv d (fun v => { v with p0 := p, next := 1 }))).field.encs = s.field.encs := by
  induction l with
  | nil => intro s; rfl
  | cons a l ih => intro s; exact ih _

theorem divs_rest (p : Int) (l : List (Fin 16)) : ∀ (s : State), ∃ D,
    s.each l (fun s d => s.modDiv d (fun v => { v with p0 := p, next := 1 })) = s.modField (fun f => { f with divs := D }) := by
  induction l with
  | nil => intro s; exact ⟨s.field.divs, rfl⟩
  | cons a l ih => intro s; obtain ⟨D, h⟩ := ih (s.modDiv a _); exact ⟨D, h.trans rfl⟩

theorem skips_rest (l : List (Fin 32)) : ∀ (s : State), ∃ S L,
    s.each l (fun s k => s.slotSkip k) = { s.modField (fun f => { f with slots := S }) with od := { s.od with lints := L } } := by
  induction l with
  | nil => intro s; exact ⟨s.field.slots, s.od.lints, rfl⟩
  | cons a l ih => intro s; obtain ⟨S, L, h⟩ := ih (s.slotSkip a); exact ⟨S, L, h.trans rfl⟩

theorem slotSkip_with (s : State) (ss) (k : Fin 32) : (s.withSessions ss).slotSkip k = (s.slotSkip k).withSessions ss := by
  unfold State.slotSkip
  rfl

theorem skips_with (ss) (l : List (Fin 32)) : ∀ s : State, (s.withSessions ss).each l (fun s k => s.slotSkip k) = (s.each l (fun s k => s.slotSkip k)).withSessions ss := by
  induction l with
  | nil => intro s; rfl
  | cons a l ih => intro s; show ((s.withSessions ss).slotSkip a).each l _ = _; rw [slotSkip_with, ih]; rfl

theorem divs_with (p : Int) (ss) (l : List (Fin 16)) : ∀ s : State, (s.withSessions ss).each l (fun s d => s.modDiv d (fun v => { v with p0 := p, next := 1 })) =
    (s.each l (fun s d => s.modDiv d (fun v => { v with p0 := p, next := 1 }))).withSessions ss := by
  induction l with
  | nil => intro s; rfl
  | cons a l ih => intro s; exact ih (s.modDiv a (fun v => { v with p0 := p, next := 1 }))

end Sys2Proof.Machine
end

