-- ==== Sys2Proof/Laws/Security.lean ====
section
/-! SUPPORT. Lemmas about the requests of boot and security, and the queue: what each shared operation does to the parts of the state that a row's end looks at. -/

namespace Sys2Proof.Machine

open Sys2Proof

theorem num_gives (s : State) (x : Session) (e : Envelope) (E : Ent) (i v : Nat) (z : State) (st : Status) (P : Vector (Option Session) 48 → Reply)
    (hm : s.MayWrite x (wrNum e E i v) (.ent E i 0))
    (hv : v < 256 ^ E.row.ty.size) (hty : E.row.ty ≠ .domain) (hwo : E.row.acc = .wo) (hrsv : E.rsvOk (.num v) = true)
    (hrange : E.rangeOk i 0 (.num v) = true)
    (hact : ∀ ss, (s.withSessions ss).writeAct (.session e.session.toNat e.reqId.toNat) (some e.session.toNat) (some e.reqId.toNat) E i (.num v) = P ss)
    (hP : ∀ ss, (P ss).state = z.withSessions ss ∧ (P ss).later = false ∧ (P ss).status = st)
    (hn : s.Quiet z) (hcmd : z.squad.cmd = none) (hc : z.crewsShort = true → s.crewsShort = true) :
    ∃ t, odRow s (wrNum e E i v) = .next t ∧ z.RespondsAs t (wrNum e E i v) st := by
  obtain ⟨ss, hss⟩ := began_with s x _ hm.takes.session
  have hd := wrNum_data e E i v hv
  have hop : (wrNum e E i v).op ≠ 2 := by show BitVec.ofNat 8 5 ≠ 2; decide
  obtain ⟨h1, h2, h3⟩ := hP ss
  obtain ⟨t, t1, t2⟩ := odRow_plain s x (wrNum e E i v) (P ss) false hm.takes hm.settled (by
      rw [perform_scalar s x _ E i 0 hm rfl hty (leBytes_length ..) rfl, hss]
      unfold State.writeObj
      simp only [hty, if_false, hd, hrsv, hrange, Bool.not_true, Bool.false_eq_true, hwo, if_true]
      exact congrArg (fun p => (p, false)) (hact ss)) h2 hop (by rw [hss, h1]; rfl) (by rw [h1]; exact quiet_congr (t := z) rfl hn) (by rw [h1]; exact hcmd)
    (by rw [h1]; intro h; exact hc (by rw [← h]; exact (crewsShort_with z ss).symm))
  rw [h1, h3] at t2
  exact ⟨t, t1, responds_base t2 (withSessions_bare z ss) rfl⟩

theorem seg_gives (s : State) (x : Session) (e : Envelope) (E : Ent) (i : Nat) (ofs : BitVec 64) (b d : Bytes) (z : State) (st : Status)
    (P : Vector (Option Session) 48 → Reply)
    (hm : s.MayWrite x (wrSeg e E i ofs d) (.ent E i 0)) (hty : E.row.ty = .domain) (hb : x.Holds (wrSeg e E i ofs d) b) (hlast : e.last = true)
    (hlen : s.lengthFault (.ent E i 0) (b ++ d).length = none)
    (hload : (placeKey (wrSeg e E i ofs d).index.toNat (wrSeg e E i ofs d).sub.toNat == Ent.RP_LOAD.key 0 0) = false)
    (hwo : E.row.acc = .wo) (hrange : E.rangeOk i 0 (.bytes (b ++ d)) = true)
    (hact : ∀ ss, (s.withSessions ss).writeAct (.session e.session.toNat e.reqId.toNat) (some e.session.toNat) (some e.reqId.toNat) E i (.bytes (b ++ d)) = P ss)
    (hP : ∀ ss, (P ss).state = z.withSessions ss ∧ (P ss).later = false ∧ (P ss).status = st)
    (hn : s.Quiet z) (hcmd : z.squad.cmd = none) (hc : z.crewsShort = true → s.crewsShort = true) :
    ∃ t, odRow s (wrSeg e E i ofs d) = .next t ∧ z.RespondsAs t (wrSeg e E i ofs d) st := by
  have hx := hm.takes.session
  have h48 := session?_lt hx
  have hbeg : s.began { x with assembly := none } (wrSeg e E i ofs d) = s.withSessions (s.began { x with assembly := none } (wrSeg e E i ofs d)).od.sessions := by
    unfold State.began; rw [setSession_eq _ h48]; rfl
  obtain ⟨ss, hss⟩ : ∃ ss, (s.began { x with assembly := none } (wrSeg e E i ofs d)).od.sessions = ss := ⟨_, rfl⟩
  rw [hss] at hbeg
  obtain ⟨h1, h2, h3⟩ := hP ss
  have hk : ∀ k, (z.withSessions ss).session? k = (s.began { x with assembly := none } (wrSeg e E i ofs d)).session? k := session?_congr (by rw [hss]; rfl)
  obtain ⟨t, t1, t2⟩ := odRow_responds s x (wrSeg e E i ofs d) (P ss) false _ hm.takes hm.settled
    (by
      rw [perform_last s x _ E i 0 b hm rfl hty hb hlast hlen (.inl hload), hbeg]
      unfold State.writeObj
      simp only [hty, if_true, Ent.rsvOk, Bool.not_true, Bool.false_eq_true, if_false, hwo]
      rw [show (wrSeg e E i ofs d).data = d from rfl, hrange]
      exact congrArg (fun p => (p, false)) (hact ss))
    h2 (by show BitVec.ofNat 8 5 ≠ 2; decide)
    (by rw [h1, hk]; unfold State.began; rw [session?_setSession _ _ _ _ h48, if_pos rfl]) rfl
    (by intro j hj; rw [h1, hk]; unfold State.began; rw [session?_setSession _ _ _ _ h48, if_neg hj])
    (by rw [h1]; exact quiet_congr (t := z) rfl hn) (by rw [h1]; exact hcmd) (by rw [h1]; intro h; exact hc (by rw [← h]; exact (crewsShort_with z ss).symm))
  rw [h1, h3] at t2
  exact ⟨t, t1, responds_base t2 (withSessions_bare z ss) rfl⟩

theorem began_idle' (s : State) (x y : Session) (r : Request) (ht : s.session? r.env.session.toNat = some y) (hs : s.idleWork = none) :
    (s.began x r).idleWork = none := by
  rw [idleWork_none_iff] at hs ⊢
  intro k hk w hw
  unfold State.began at hw
  rw [session?_setSession _ _ _ _ (session?_lt ht)] at hw
  split at hw
  · cases hw; simp
  · exact hs k hk w hw

theorem seg_waits (s : State) (x : Session) (e : Envelope) (E : Ent) (i : Nat) (ofs : BitVec 64) (b d : Bytes) (z : State)
    (hm : s.MayWrite x (wrSeg e E i ofs d) (.ent E i 0)) (hty : E.row.ty = .domain) (hb : x.Holds (wrSeg e E i ofs d) b) (hlast : e.last = true)
    (hlen : s.lengthFault (.ent E i 0) (b ++ d).length = none)
    (hload : (placeKey (wrSeg e E i ofs d).index.toNat (wrSeg e E i ofs d).sub.toNat == Ent.RP_LOAD.key 0 0) = false)
    (hwo : E.row.acc = .wo) (hrange : E.rangeOk i 0 (.bytes (b ++ d)) = true)
    (hact : ∀ ss, (s.withSessions ss).writeAct (.session e.session.toNat e.reqId.toNat) (some e.session.toNat) (some e.reqId.toNat) E i (.bytes (b ++ d)) =
      .wait (z.withSessions ss))
    (hn : s.Quiet z) (hcmd : z.squad.cmd = none) (hc : z.crewsShort = true → s.crewsShort = true) :
    ∃ t ss, odRow s (wrSeg e E i ofs d) = .next t ∧ (z.withSessions ss).EndsAs t := by
  have hx := hm.takes.session
  have h48 := session?_lt hx
  have hbeg : s.began { x with assembly := none } (wrSeg e E i ofs d) = s.withSessions (s.began { x with assembly := none } (wrSeg e E i ofs d)).od.sessions := by
    unfold State.began; rw [setSession_eq _ h48]; rfl
  obtain ⟨ss, hss⟩ : ∃ ss, (s.began { x with assembly := none } (wrSeg e E i ofs d)).od.sessions = ss := ⟨_, rfl⟩
  rw [hss] at hbeg
  have hi := began_idle' s { x with assembly := none } x (wrSeg e E i ofs d) hx hm.settled.1
  obtain ⟨t, t1, t2⟩ := odRow_later s x (wrSeg e E i ofs d) (.wait (z.withSessions ss)) false hm.takes hm.settled
    (by
      rw [perform_last s x _ E i 0 b hm rfl hty hb hlast hlen (.inl hload), hbeg]
      unfold State.writeObj
      simp only [hty, if_true, Ent.rsvOk, Bool.not_true, Bool.false_eq_true, if_false, hwo]
      rw [show (wrSeg e E i ofs d).data = d from rfl, hrange]
      exact congrArg (fun p => (p, false)) (hact ss)) rfl
    ⟨by rw [← hi]; exact idleWork_sessions (by rw [hss]; rfl), hcmd⟩ (quiet_congr (t := z) rfl hn)
    (by intro h; exact hc (by rw [← h]; exact (crewsShort_with z ss).symm))
  exact ⟨t, ss, t1, t2⟩

theorem crewIn_part (s t : State) (c : Nat) (h1 : t.od.committed = s.od.committed) (h2 : t.part = s.part)
    (h3 : t.saf.held = s.saf.held) (h4 : t.crews = s.crews) : t.crewIn c = s.crewIn c := by
  unfold State.crewIn State.crewCount State.oarsOos State.oarOos State.shellsActive State.crew State.heldOut State.flag
    State.num State.byt State.val
  rw [h1, h2, h3, h4]

theorem crewsShort_part (s t : State) (h1 : t.od.committed = s.od.committed) (h2 : t.part = s.part)
    (h3 : t.saf.held = s.saf.held) (h4 : t.crews = s.crews) (h5 : t.cox.packages = s.cox.packages) :
    t.crewsShort = s.crewsShort := by
  have hc : t.crewsIn = s.crewsIn := by
    unfold State.crewsIn
    congr 1; funext c; exact crewIn_part s t c h1 h2 h3 h4
  have hn : t.num .PART_CREW_MASK = s.num .PART_CREW_MASK := by
    funext i; unfold State.num State.val; rw [h1, h2]
  unfold State.crewsShort
  rw [hc, h5, hn]

theorem memReadN_read (m : Memory) (n : Nat) : ∀ a, memReadN m a n = (List.range n).map (fun i => memRead m (a + i)) := by
  induction n with
  | zero => intro a; rfl
  | succ n ih =>
    intro a
    show memRead m a :: memReadN m (a + 1) n = _
    rw [ih, List.range_succ_eq_map]
    simp only [List.map_cons, List.map_map, Nat.add_zero]
    congr 1
    apply List.map_congr_left
    intro i _
    show memRead m (a + 1 + i) = memRead m (a + (i + 1))
    congr 1; omega

theorem memReadN_memWriteN (m : Memory) (a : Nat) (l : Bytes) : memReadN (memWriteN m a l) a l.length = l := by
  rw [memReadN_read]
  apply List.ext_getElem
  · simp
  · intro i h1 h2
    simp only [List.getElem_map, List.getElem_range, memRead_memWriteN]
    rw [if_pos (by omega)]
    simp [h2]

theorem memReadN_lt (m : Memory) (a n : Nat) : leNat (memReadN m a n) < 256 ^ n := by
  induction n generalizing a with
  | zero => simp [memReadN, leNat]
  | succ n ih =>
    show (memRead m a).toNat + 256 * leNat (memReadN m (a + 1) n) < _
    have := ih (a + 1); have hb := (memRead m a).isLt
    rw [Nat.pow_succ]; omega

theorem blow_fuse (s : State) (o n v : Nat) (h : v < 256 ^ n) : (s.blow o n v).fuse o n = s.fuse o n ||| v := by
  unfold State.fuse State.blow State.modBoot
  dsimp only
  have hl := leBytes_length n (leNat (memReadN s.boot.fuses o n) ||| v)
  have := memReadN_memWriteN s.boot.fuses o (leBytes n (leNat (memReadN s.boot.fuses o n) ||| v))
  rw [hl] at this
  rw [this, leNat_leBytes_of_lt]
  have e : (256 : Nat) ^ n = 2 ^ (8 * n) := by rw [Nat.pow_mul]
  rw [e] at h ⊢
  refine Nat.or_lt_two_pow ?_ h
  rw [← e]; exact memReadN_lt ..

theorem blow_part (s : State) (o n v : Nat) (h : o + n ≤ 551) : (s.blow o n v).part = s.part := by
  unfold State.part State.blow State.modBoot
  dsimp only
  rw [memRead_memWriteN, leBytes_length, if_neg (by omega)]

theorem blow_crews (s : State) (o n v : Nat) (h : o + n ≤ 551) : (s.blow o n v).crewsShort = s.crewsShort :=
  crewsShort_part _ _ rfl (blow_part s o n v h) rfl rfl rfl

theorem ledger_crews (s : State) : s.ledger.crewsShort = s.crewsShort := crewsShort_congr _ _ rfl rfl rfl rfl rfl

theorem range_low (s : State) (E : Ent) (i : Nat) : ∃ q, Reply.range s E i 0 = ⟨s, .range, q, false⟩ := ⟨_, rfl⟩

theorem all_no {α : Type} (l : List α) (f : α → Nat) (n : Nat) (h : ∀ a ∈ l, n ≤ f a) : l.any (fun a => decide (f a < n)) = false := by
  rw [List.any_eq_false]; intro a ha; simpa using h a ha

theorem any_no {α : Type} (l : List α) (f : α → Bool) (h : ∀ a ∈ l, f a = false) : l.any f = false := by
  rw [List.any_eq_false]; intro a ha; simpa using h a ha

theorem inert_wa (s : State) (E : Ent) (hE : E.row.inertOnly = true ∧ E.row.locked = false) : s.writeAllowed E 0 = decide (s.dev.state = .inert) := by
  unfold State.writeAllowed
  rw [hE.1, hE.2]; simp

theorem boot_adv_act (s : State) (b : Bytes) (new o : Nat) (hnew : new = fieldAt b 1 1)
    (hc : fieldAt b 0 1 = 0 ∧ o = 513 ∧ (∀ f, s.boot.running = some f ∨ s.boot.staged = some f → new ≤ f.secVersion) ∨
        fieldAt b 0 1 = 1 ∧ o = 521 ∧ (∀ p ∈ s.loaded, new ≤ p.secVersion) ∧
          ∀ y ∈ s.boot.flash.store, new ≤ (packageOf y.container 0).secVersion)
    (hlo : rollback (s.fuse o 8) ≤ new) (hhi : new ≤ 64) :
    actRbAdvance s b = if s.dev.state = .inert then .ok (s.blow o 8 (2 ^ new - 1)) else .err s .state := by
  unfold actRbAdvance
  dsimp only
  rw [← hnew]
  have hwa : s.writeAllowed .BOOT_RB_ADVANCE 0 = decide (s.dev.state = .inert) := inert_wa s _ (by decide)
  rcases hc with ⟨h0, ho, h⟩ | ⟨h1, ho, h, h'⟩
  · rw [h0]
    simp only [if_true]
    rw [← ho, if_neg (by omega), hwa, any_no (([s.boot.running, s.boot.staged].filterMap id)) (fun f => decide (f.secVersion < new)) (by
      intro f hf
      simp only [List.mem_filterMap, List.mem_cons, List.not_mem_nil, or_false, id] at hf
      obtain ⟨g, hg, he⟩ := hf
      have := h f (by rcases hg with hg | hg; exact .inl (hg ▸ he); exact .inr (hg ▸ he))
      simpa using this)]
    cases s.dev.state <;> rfl
  · rw [h1]
    rw [if_neg (by decide : ¬ (1 : Nat) = 0), ← ho, if_neg (by omega), hwa, if_neg (by decide : ¬ (1 : Nat) = 0), all_no _ _ _ h, all_no _ _ _ h']
    cases s.dev.state <;> rfl

theorem boot_seg (s : State) (x : Session) (e : Envelope) (E : Ent) (ofs : BitVec 64) (b d : Bytes) (z : State) (st : Status)
    (hm : s.MayWrite x (wrSeg e E 0 ofs d) (.ent E 0 0)) (hE : E = .BOOT_RB_ADVANCE ∨ E = .BOOT_OWNER_KEY)
    (hh : x.Holds (wrSeg e E 0 ofs d) b) (hlast : e.last = true) (hl : (b ++ d).length = E.row.maxLen)
    (hact : ∀ ss, (s.withSessions ss).writeAct (.session e.session.toNat e.reqId.toNat) (some e.session.toNat) (some e.reqId.toNat) E 0 (.bytes (b ++ d)) =
      ⟨z.withSessions ss, st, [], false⟩)
    (hn : z.squad = s.squad) (hc : z.crewsShort = s.crewsShort) :
    ∃ t, odRow s (wrSeg e E 0 ofs d) = .next t ∧ z.RespondsAs t (wrSeg e E 0 ofs d) st := by
  have hf : E.row.ty = .domain ∧ E.row.exactLen = true ∧ E.row.acc = .wo ∧ (placeKey (BitVec.ofNat 16 (E.row.index + 0)).toNat (BitVec.ofNat 8 E.row.sub).toNat == Ent.RP_LOAD.key 0 0) = false := by
    rcases hE with h | h <;> subst h <;> decide
  have hlf : s.lengthFault (.ent E 0 0) (b ++ d).length = none := by
    unfold State.lengthFault; dsimp only
    rw [if_pos hf.1, if_pos hf.2.1, if_pos hl]
  exact seg_gives s x e E 0 ofs b d z st (fun ss => ⟨z.withSessions ss, st, [], false⟩) hm hf.1 hh hlast hlf hf.2.2.2 hf.2.2.1 (by rcases hE with h | h <;> subst h <;> rfl) hact (fun ss => ⟨rfl, rfl, rfl⟩)
    (quiet_same (congrArg Squad.ports hn)) (by rw [hn]; exact hm.settled.2) (by rw [hc]; exact id)

theorem fuse_of {s z t : State} {r : Request} {st : Status} (h : z.RespondsAs t r st) (o n : Nat) : t.fuse o n = z.fuse o n := by
  have : t.boot = z.boot := congrArg (fun s => s.boot) h.rest
  unfold State.fuse; rw [this]

theorem fieldAt_lt (b : Bytes) (o n : Nat) : fieldAt b o n < 256 ^ n := by
  have h : ∀ l : Bytes, leNat l < 256 ^ l.length := by
    intro l
    induction l with
    | nil => simp [leNat]
    | cons a l ih =>
      show a.toNat + 256 * leNat l < 256 ^ (l.length + 1)
      have := a.isLt; rw [Nat.pow_succ]; omega
  unfold fieldAt
  refine Nat.lt_of_lt_of_le (h _) (Nat.pow_le_pow_right (by decide) ?_)
  unfold slice; simp <;> omega

theorem num_state (s : State) (x : Session) (e : Envelope) (E : Ent) (v : Nat) (z : State) (st : Status) (hm : s.MayWrite x (wrNum e E 0 v) (.ent E 0 0))
    (hE : E = .BOOT_REVOKE ∨ E = .BOOT_PKG_STORE ∨ E = .BOOT_PKG_UNSTORE) (hv : v < 256)
    (hact : ∀ ss, (s.withSessions ss).writeAct (.session e.session.toNat e.reqId.toNat) (some e.session.toNat) (some e.reqId.toNat) E 0 (.num v) =
      ⟨z.withSessions ss, st, [], false⟩)
    (hn : z.squad = s.squad) (hc : z.crewsShort = s.crewsShort) :
    ∃ t, odRow s (wrNum e E 0 v) = .next t ∧ z.RespondsAs t (wrNum e E 0 v) st := by
  have hf : E.row.ty = .uns8 ∧ E.row.acc = .wo ∧ E.rsv = 0 := by rcases hE with h | h | h <;> subst h <;> decide
  exact num_gives s x e E 0 v z st (fun ss => ⟨z.withSessions ss, st, [], false⟩) hm (by rw [hf.1]; exact hv) (by rw [hf.1]; decide) hf.2.1 (rsvOk_zero _ hf.2.2)
    (by rcases hE with h | h | h <;> subst h <;> exact rangeOk_num (by decide) rfl) hact (fun ss => ⟨rfl, rfl, rfl⟩)
    (quiet_same (congrArg Squad.ports hn)) (by rw [hn]; exact hm.settled.2) (by rw [hc]; exact id)

end Sys2Proof.Machine
end

