-- ==== Sys2Proof/Machine/Kernels.lean ====
section
/-! DEFINITION. The results that R281 and R282 fix for the kernels LABEL and NMS. A run package brings the programs and the oars run them one command at a time, so no meaning calls these: they say what such a program is held to (notes/assumptions/126.md). -/

namespace Sys2Proof.Machine

open Sys2Proof

/-- The labels at the start of a search: 1 + index of a foreground element, 0 for background (R281). -/
def labelStart (mask : List Nat) : List Nat := mask.zipIdx.map (fun e => if e.1 = 0 then 0 else e.2 + 1)

/-- The smallest label of a foreground element and its eight neighbours in a map of `h` rows and `w` columns. -/
def labelAround (h w : Nat) (l : List Nat) (y x : Nat) : Nat :=
  let near := (List.range 3).flatMap (fun dy => (List.range 3).filterMap (fun dx =>
    if 1 ≤ y + dy ∧ y + dy ≤ h ∧ 1 ≤ x + dx ∧ x + dx ≤ w then some (l.getD ((y + dy - 1) * w + (x + dx - 1)) 0) else none))
  (near.filter (· ≠ 0)).foldl min (l.getD (y * w + x) 0)

/-- One pass that gives every foreground element the smallest label around it. -/
def labelPass (h w : Nat) (l : List Nat) : List Nat :=
  (List.range (h * w)).map (fun i => if l.getD i 0 = 0 then 0 else labelAround h w l (i / w) (i % w))

/-- The label map of a mask of `h` rows and `w` columns (R281): `h * w` passes carry the label of the first element of a
component to all of it. -/
def labelMap (h w : Nat) (mask : List Nat) : List Nat :=
  (List.range (h * w)).foldl (fun l _ => labelPass h w l) (labelStart (mask.take (h * w)))

/-- The area of columns `x0` to `x1 - 1` and rows `y0` to `y1 - 1` (R266), 0 where the box is empty. -/
def boxArea (x0 x1 y0 y1 : Int) : Nat := (x1 - x0).toNat * (y1 - y0).toNat

/-- The area of a box. -/
def Box.area (b : Box) : Nat := boxArea b.x0 b.x1 b.y0 b.y1

/-- The area of the intersection of two boxes. -/
def Box.meet (a b : Box) : Nat := boxArea (max a.x0 b.x0) (min a.x1 b.x1) (max a.y0 b.y0) (min a.y1 b.y1)

/-- The overlap test of R282: may `b` stay beside `a` under threshold `tn`? -/
def Box.apart (tn : Nat) (a b : Box) : Bool := decide (256 * a.meet b ≤ tn * (a.area + b.area - a.meet b))

/-- A box put behind every box of at least its score. -/
def nmsInsert (b : Box) : List Box → List Box
  | [] => [b]
  | x :: xs => if b.score ≤ x.score then x :: nmsInsert b xs else b :: x :: xs

/-- The visiting order of R282: descending score, ties by ascending index. -/
def nmsOrder (l : List Box) : List Box := l.foldl (fun acc b => nmsInsert b acc) []

/-- The entries kept, in visiting order (R282). -/
def nmsKept (tn : Nat) (l : List Box) : List Box :=
  (nmsOrder l).foldl (fun kept b => if kept.all (fun a => a.apart tn b) then kept ++ [b] else kept) []

end Sys2Proof.Machine
end

