-- ==== Sys2Proof/WellFormed.lean ====
section
/-! DEFINITION. Which commands are well formed: whether what a command carries from outside lies in the ranges the manual gives it. -/

namespace Sys2Proof

open Machine

/-- Does a unit exist (R571)? -/
def unitOk : UnitId → Bool
  | .shell c p => decide (c < 6) && decide (p < 68)
  | .oar c p => decide (c < 6) && decide (p < 528)
  | .scull c => decide (c < 6)
  | .sweep c => decide (c < 6)
  | .catchUnit c i => decide (c < 6) && decide (i < 4)
  | .crew c => decide (c < 6)
  | .shared i => decide (i < 3)

/-- Does a rinse slice exist (R571)? -/
def sliceOk : Slice → Bool
  | .crew c i => decide (c < 6) && decide (i < 12)
  | .shared i => decide (i < 3)

/-- Do the fields of HELLO fit in their widths (R406)? -/
def helloOk (h : HelloInfo) : Bool :=
  decide (h.verMax < 16) && decide (h.seat < 32) && decide (h.gen < 16) && decide (h.shape < 16) && decide (1 ≤ h.size) && decide (h.size ≤ 32) &&
    decide (h.portsUp < 256) && decide (h.partMask < 256) && decide (h.devId < 2 ^ 64) && decide (h.fw < 2 ^ 32) &&
    decide (h.partCrc < 2 ^ 32)

/-- Is a command well formed? A request carries at most 1,424 bytes of data (R513); the other checks are those of the rule that each
command names. -/
def Instr.wf : Instr → Bool
  | .powerUp => true
  | .porstNAssert => true
  | .porstNRelease => true
  | .jtagReset => true
  | .supplyLoss => true
  | .supplyBrownout _ _ => true
  | .supplyOutOfWindow _ _ => true
  | .supplyGlitch _ => true
  | .riggerLinkLoss _ => true
  | .riggerLinkUp => true
  | .riggerHeartbeatLoss => true
  | .riggerHeartbeatReturn => true
  | .rootPllUnlock => true
  | .thermSample _ _ _ => true
  | .coachWatchdogExpiry => true
  | .coachHeartbeatMiss _ => true
  | .lockstepMismatch _ => true
  | .bootStep r => r.failed.all unitOk
  | .commandNone _ => true
  | .arm _ => true
  | .armDone => true
  | .disarm _ => true
  | .start _ => true
  | .stop _ => true
  | .stopToArmed => true
  | .safe _ => true
  | .safeAck _ => true
  | .warmRestart _ => true
  | .reset _ => true
  | .openSession _ data => decide (data.length ≤ 1424)
  | .closeSession _ => true
  | .keepalive _ => true
  | .read _ _ _ _ _ => true
  | .write _ _ _ _ data => decide (data.length ≤ 1424)
  | .info _ _ _ => true
  | .readAndClear _ _ _ => true
  | .sessionTimeout _ => true
  | .commit _ _ => true
  | .discard _ _ => true
  | .commitTakeEffect _ => true
  | .cycleStart => true
  | .txImageSnapshot => true
  | .rxImageReceive _ _ => true
  | .watchdogTrip => true
  | .goWordWrite _ _ message _ => decide (message.length ≤ 1464)
  | .bulkApertureRead _ _ => true
  | .bulkApertureWrite _ _ => true
  | .pciXlSubmit _ _ data => decide (data.length ≤ 1424)
  | .pciXlAbort _ _ => true
  | .odWrite _ _ _ => true
  | .odRead _ => true
  | .bulkIn _ _ _ => true
  | .bulkOut _ => true
  | .archive _ => true
  | .xlEntryComplete _ => true
  | .pcieFunctionReset _ _ => true
  | .camLineEnd _ _ _ _ time _ _ => decide (time.ns < 1000000000) && decide (time.frac < 65536)
  | .camTriggerTimeout _ => true
  | .camTrigDeferred _ => true
  | .blankingPeriodEnd _ _ => true
  | .swathClose _ => true
  | .mangleSwathDone _ => true
  | .roiListBuild _ => true
  | .swathBufferRelease _ => true
  | .rpLoad _ _ data => decide (data.length ≤ 1424)
  | .rpUnload _ _ => true
  | .coxBgRequest _ _ => true
  | .rotaPeriodBoundary => true
  | .saveDone => true
  | .restoreDone _ => true
  | .settleComplete _ => true
  | .regulatorWindow => true
  | .refreshSlot _ => true
  | .scrubGroup _ _ => true
  | .lpddrGroupRead _ _ _ _ _ _ _ => true
  | .lpddrGroupWrite _ offset data => decide (offset.val + data.length ≤ 1984)
  | .streamTransfer _ _ _ _ _ _ _ _ => true
  | .weightTileLoad _ _ _ _ _ _ => true
  | .wavefrontEnter _ _ _ _ _ _ _ _ _ => true
  | .heldPacketRelease _ _ _ => true
  | .rowReadout _ _ _ _ _ => true
  | .foldPass _ _ _ _ => true
  | .scullPass _ _ _ _ => true
  | .sweepPass _ _ _ _ => true
  | .cropCut _ _ _ => true
  | .pressEncode _ _ _ _ _ => true
  | .pressDecode _ _ _ => true
  | .strokeComplete _ _ => true
  | .heatComplete _ _ _ => true
  | .publicationRelease _ => true
  | .decodeRequest _ => true
  | .retuneStepRequest _ => true
  | .oarInvocationStart _ _ _ _ => true
  | .oarLoadStore _ _ _ => true
  | .oarAccessReturn _ _ _ => true
  | .slvGet _ _ => true
  | .slvPut _ _ _ => true
  | .slvSend _ _ => true
  | .slvSendResume _ _ => true
  | .slvRecv _ _ => true
  | .slvRecordArrive _ _ _ => true
  | .slvBar _ _ => true
  | .slvBarComplete _ _ => true
  | .pminuB _ _ => true
  | .pmaxuB _ _ => true
  | .paddusB _ _ => true
  | .psubusB _ _ => true
  | .pcmpgeuB _ _ => true
  | .psadB _ _ => true
  | .fcvtSBf _ _ => true
  | .fcvtBfS _ _ => true
  | .fcvtSHf _ _ => true
  | .fcvtHfS _ _ => true
  | .frmWrite _ _ => true
  | .ecall _ _ => true
  | .ebreak _ _ => true
  | .illegalInstruction _ _ => true
  | .oarBudgetExpire _ _ => true
  | .kvBoundary _ => true
  | .kvCancel _ _ _ => true
  | .kvTreeFlush _ _ _ => true
  | .detGenIn _ _ data => decide (data.length ≤ 1424)
  | .detReplaySwath _ _ _ data => decide (data.length ≤ 1424)
  | .detReplaySeq _ _ _ data => decide (data.length ≤ 1424)
  | .detReplayState _ _ _ data => decide (data.length ≤ 1424)
  | .squelchOpen _ => true
  | .commaBlock _ _ _ _ _ => true
  | .trainBlock _ _ _ => true
  | .equalizeEvaluation _ _ _ _ => true
  | .skipBlock _ => true
  | .easyBlock _ => true
  | .rackBlock _ => true
  | .bringupTimeout _ => true
  | .failedRetry _ => true
  | .commaMissing _ _ => true
  | .easyIdleExpire _ => true
  | .easyExit _ => true
  | .rack _ _ => true
  | .wake _ _ => true
  | .injectSingle _ _ _ => true
  | .injectPeriodic _ _ _ => true
  | .injectStop _ _ _ => true
  | .periodicInjection _ => true
  | .cellReceive _ blocks _ => decide (blocks.length = 4) && blocks.all (fun l => decide (l.length = 8) && l.all (fun b => decide (b.payload < 2 ^ 128)))
  | .replayTimeout _ => true
  | .nakExpire _ => true
  | .ackDue _ => true
  | .timeExchangeStart _ => true
  | .timeRequest _ body _ _ => decide (body.length = 36)
  | .timeResponse _ body _ _ => decide (body.length = 36)
  | .hello h => helloOk h
  | .topology _ _ links => links.all (fun l => decide (l.port < 8) && decide (l.peer < 32) && decide (l.peerPort < 8))
  | .form _ _ _ routes => routes.all (fun r => decide (r.1 < 32) && decide (r.2.1 < 256))
  | .formAck _ _ _ => true
  | .formTimeout => true
  | .heartbeatSend => true
  | .heartbeat _ _ _ _ => true
  | .memberLost _ => true
  | .broken _ _ _ => true
  | .command _ => true
  | .commandDone _ _ _ => true
  | .admitHeat _ _ _ _ => true
  | .spanPartStart _ => true
  | .done _ _ _ => true
  | .kvDecision _ d => decide (d.rows.length % 16 = 0)
  | .kvReport _ _ _ _ => true
  | .load _ _ _ => true
  | .loadResult _ _ _ => true
  | .filterTick _ _ _ => true
  | .overload _ => true
  | .overtemp _ => true
  | .groupLimit _ _ => true
  | .openLoad _ => true
  | .openWire _ => true
  | .fieldSupplyFault _ _ => true
  | .fieldSupplyClear _ _ => true
  | .faultRetry _ => true
  | .fioAck _ _ _ => true
  | .fioForceOff _ _ => true
  | .encCount _ _ _ _ => true
  | .divPulseDeferred _ => true
  | .fireOffTime _ => true
  | .encReference _ => true
  | .wireFault _ => true
  | .quadFault _ => true
  | .overspeedFault _ => true
  | .encAck _ _ _ => true
  | .timeSlotEvent _ => true
  | .pulseWidthEnd _ => true
  | .fireStopAck _ _ => true
  | .fnetLinkChange _ _ _ => true
  | .ptpMessage _ _ _ _ => true
  | .ptpMessageInterval _ _ => true
  | .tsMeasurementMissing => true
  | .holdoverExpire => true
  | .tsSet _ _ data => decide (data.length ≤ 1424)
  | .arpRequest _ _ _ => true
  | .icmpEcho _ _ _ => true
  | .gateCycleStart _ => true
  | .frameTransmit _ _ => true
  | .heatOvertime _ => true
  | .swathWatchdog _ _ => true
  | .rinseSliceDone slice failed _ => sliceOk slice && failed.all unitOk
  | .rinseOverdue slice => sliceOk slice
  | .engineMismatch _ => true
  | .controlMismatch => true
  | .safEventAck _ _ => true
  | .lostTimeStore => true
  | .bootFwImage _ _ data => decide (data.length ≤ 1424)
  | .bootFwInstall _ _ => true
  | .installComplete _ => true
  | .bootRbAdvance _ _ data => decide (data.length ≤ 1424)
  | .bootOwnerKey _ _ data => decide (data.length ≤ 1424)
  | .bootRevoke _ _ => true
  | .bootAttestNonce _ _ data => decide (data.length ≤ 1424)
  | .attestReportReady => true
  | .bootPkgStore _ _ => true
  | .bootPkgUnstore _ _ => true
  | .recoveryHello _ _ => true
  | .recoveryData _ _ data => decide (data.length ≤ 1424)
  | .recoveryInstall _ => true
  | .recoveryBoot _ => true
  | .recoveryOwnerTimeout => true
  | .rtAdd _ _ _ data => decide (data.length ≤ 1424)
  | .rtRemove _ _ _ => true
  | .rtPublish _ _ _ => true
  | .rtRestart _ _ _ => true
  | .internalResetRelease => true
  | .openWireClear _ => true
  | .openLoadClear _ => true
  | .oarBaseInstruction _ _ => true
  | .patternCheckerSync _ _ _ => true
  | .fnetFrameDiscard _ _ _ _ => true
  | .boardProgrammerFlashWrite addr data => decide (addr.toNat + data.length ≤ 67108864)

end Sys2Proof
end

