-- ==== Sys2Proof/Tests/Slice0.lean ====
section
/-! SUPPORT. The witnesses of the statements (a state and operands that meet the hypotheses of each clause, at the bounds of its ranges), a smoke test with an
ill-formed command for each check of WellFormed.lean, and small tests of single steps, each expected value computed by hand from the rule it names. -/

open Sys2Proof Sys2Proof.Machine

set_option maxRecDepth 20000
set_option Elab.async false

namespace Sys2Proof.Tests

/-! ## Witnesses: states and requests that meet the hypotheses of each statement -/

/-- The data dictionary's server is up, FNET0 is on, and session 0 holds CONTROL for the peer 5 at TAG 7. -/
def wx : Session := ⟨1, 1, 5, 7, 1000, 0, 10, 9, [], [], none, [], none, none⟩

/-- A device in a state, with the server of the object dictionary up, a CONTROL session of the peer 5, both Ethernet ports and PCIe on,
and every supply in its window. -/
def wS (d : DevState) : State :=
  { State.reset with
    dev := { State.reset.dev with state := d, supplyOk := Vector.replicate 11 true, fieldOk := Vector.replicate 6 true, pllLocked := true }, boot := { State.reset.boot with serverUp := true }
    field := { State.reset.field with rigLink := true, rigOnceUp := true, supplyMv := Vector.replicate 6 24000 }
    fnet := { State.reset.fnet with ports := State.reset.fnet.ports.map (fun p => { p with on := true }) }
    pci := { State.reset.pci with rate := 4, width := 8 }
    od := { State.reset.od with sessions := State.reset.od.sessions.set 0 (some wx) } }

/-- The header of the request 11 of session 0, its CHECK not set. -/
def wEnv0 : Envelope := ⟨0, 5, 1, 0, false, true, false, 0, 0, 0, 0, 11, 0, 0, 7, 0, 0⟩

/-- A header with the CHECK that its request needs. -/
def wSeal (e : Envelope) (f : Envelope → Request) : Envelope := { e with check := BitVec.ofNat 32 (requestCrc (f e)) }

/-- The header of a WRITE of a scalar entry. -/
def wNum (E : Ent) (i v : Nat) : Envelope := wSeal wEnv0 (fun e => wrNum e E i v)

/-- The header of a WRITE of a segment. -/
def wSeg (E : Ent) (i : Nat) (o : BitVec 64) (d : Bytes) : Envelope := wSeal wEnv0 (fun e => wrSeg e E i o d)

theorem takes_of {s : State} {x : Session} {r : Request}
    (h : (s.boot.serverUp && s.itfUp r.env.itf && Request.good r && r.op != 1 && decide (s.session? r.env.session.toNat = some x) &&
      boundTo r.env.session.toNat x r.env && x.tag == r.env.tag.toNat && decide (0 < reqDist r.env.reqId.toNat x.high) && x.executing.isNone &&
      x.queue.isEmpty && (Request.fieldFault r).isNone) = true) : s.Takes x r := by
  simp only [Bool.and_eq_true, decide_eq_true_eq, beq_iff_eq, bne_iff_ne, Option.isNone_iff_eq_none, List.isEmpty_iff] at h
  obtain ⟨⟨⟨⟨⟨⟨⟨⟨⟨⟨h1, h2⟩, h3⟩, h4⟩, h5⟩, h6⟩, h7⟩, h8⟩, h9⟩, h10⟩, h11⟩ := h
  exact ⟨h1, h2, h3, h4, h5, h6, h7, h8, h9, h10, h11⟩

/-- Is nothing waiting, as a Bool? -/
def settledB (s : State) : Bool := s.idleWork.isNone && s.squad.cmd.isNone

theorem settled_of {s : State} (h : settledB s = true) : s.Settled := by
  simpa [settledB, State.Settled] using h

/-- The WRITE of a number to an entry, by session 0, is one that may be written. -/
abbrev WMay (s : State) (E : Ent) (i v : Nat) : Prop := s.MayWrite wx (wrNum (wNum E i v) E i v) (.ent E i 0)

/-- The WRITE of a whole DOMAIN value in one segment, by session 0, is one that may be written. -/
abbrev WSegMay (s : State) (E : Ent) (i : Nat) (d : Bytes) : Prop :=
  s.MayWrite wx (wrSeg (wSeg E i 0 d) E i 0 d) (.ent E i 0) ∧ wx.Holds (wrSeg (wSeg E i 0 d) E i 0 d) [] ∧ (wSeg E i 0 d).last = true

/-- May the request be written by its session, as a Bool? -/
def mayB (s : State) (x : Session) (r : Request) (ob : Obj) : Bool :=
  (s.boot.serverUp && s.itfUp r.env.itf && Request.good r && r.op != 1 && decide (s.session? r.env.session.toNat = some x) &&
    boundTo r.env.session.toNat x r.env && x.tag == r.env.tag.toNat && decide (0 < reqDist r.env.reqId.toNat x.high) && x.executing.isNone &&
    x.queue.isEmpty && (Request.fieldFault r).isNone) &&
  (settledB s && decide (resolve s.crewCount r.index.toNat r.sub.toNat = some ob) &&
    s.writeAccess (handleItf r.env.session.toNat) (x.role == 1) ob r.index.toNat r.sub.toNat)

theorem may_of {s : State} {x : Session} {r : Request} {ob : Obj} (h : mayB s x r ob = true) : s.MayWrite x r ob := by
  have h' := Bool.and_eq_true_iff.1 h
  have h2 := h'.2
  simp only [Bool.and_eq_true, decide_eq_true_eq] at h2
  exact ⟨takes_of h'.1, settled_of h2.1.1, h2.1.2, h2.2⟩

theorem wSegMay_of {s : State} {E : Ent} {i : Nat} {d : Bytes} (h : mayB s wx (wrSeg (wSeg E i 0 d) E i 0 d) (.ent E i 0) = true) : WSegMay s E i d :=
  ⟨may_of h, .inl ⟨rfl, rfl⟩, rfl⟩

theorem guarded_of {s : State} (h1 : s.dev.state = .inert ∨ s.dev.state.active = true) (h2 : s.dev.arming = none) (h3 : settledB s = true) :
    s.Guarded := ⟨h1, h2, settled_of h3⟩

/-- A state with entries set to numbers. -/
def wSet (s : State) (l : List (Ent × Nat × Nat × Nat)) : State := l.foldl (fun s e => s.setVal e.1 e.2.1 e.2.2.1 (.num e.2.2.2)) s

/-- A package with plans and nothing else. -/
def wPkg (plans : List Plan) : Package := ⟨[], [], 0, 1, 0, 0, 0, 0, 1, 0, [], [], [], plans, [], [], [], none, []⟩

/-- A plan of a kind on port 0 with one stroke. -/
def wPlan (k : PlanKind) : Plan := ⟨k, false, false, 1, 1, 0, 0, 1, 0, 1000, 1⟩
def wPkgs (p : Package) : Vector (Option Package) 16 := (Vector.replicate 16 none).set 0 (some p)

/-- A heat of slot 0, plan 0, on crew 0, with the serial 77 and one pass. -/
def wHeat (k : PlanKind) (x : Pass) : Heat :=
  ⟨.running, 77, ⟨k, 0, 0, 0, 0, none, 0, none, true, 0, none, false⟩, wPlan k, [0], ⟨1, 1, [], [], [], [x], [], [], []⟩, 0, [0], 0, 0, 0, 1000, 0, true, [], [], [], none, [],
    [], [], [], false, 0, [], 0, false, 0xFFFF, none, false, 0, 0, [], [], [], [], [], []⟩

/-- A pass 0 of stroke 0: one row, 32 columns, one K-block. -/
def wPass (unit : Nat) (fold : Bool) : Pass := ⟨0, 0, 0, 0, unit, 0, [], 0, 1, 0, 32, 0, 1, 0, 0, fold⟩

/-- A package with one plan, one stroke and its tensors. -/
def wPkgOf (k : PlanKind) (b : Bytes) (tds : List TensorDesc) : Package := { wPkg [wPlan k] with strokes := [b], tensors := tds }

/-- A device in RUN with that package in slot 0 and the heat at entry 0. -/
def wHot (h : Heat) (p : Package) : State := { wS .run with cox := { (wS .run).cox with packages := wPkgs p, heats := [(0, h)], admitting := true } }

theorem atPass_of {s : State} {k stroke pass : Nat} {h : Heat} {p : Package} {x : Pass} {b : Bytes}
    (g : (decide (s.heatPkg k = some (h, p)) && decide (h.passOf stroke pass = some x) && decide (h.strokeOf p stroke = some b)) = true) : s.AtPass k stroke pass h p x b := by
  simp only [Bool.and_eq_true, decide_eq_true_eq] at g
  exact ⟨g.1.1, g.1.2, g.2⟩

/-- Power is on and the device waits in RESET with a cause. -/
def wReset : State := { State.reset with dev := { State.reset.dev with state := .reset } }

/-- BOOT after step n. -/
def wBoot (n : Nat) : State := { State.reset with boot := { State.reset.boot with record := { State.reset.boot.record with lastStep := n, bootCount := 1 } } }

/-- A report of a boot step in which nothing failed, with 2 corrected fuse words. -/
def wReport (good bad : Bool) : StepReport := ⟨good, 2, bad, [], []⟩

theorem witness_StepRunsFrontCommand : ({ State.reset with pending := [.powerUp] } : State).pending = [.powerUp] := rfl

theorem witness_IdleStep : State.reset.pending = [] ∧ State.reset.dev.state ≠ .off ∧ State.reset.dev.state ≠ .reset ∧
    wReset.pending = [] ∧ wReset.dev.state = .reset := by decide +kernel

theorem witness_StepKeepsGrade : (wS .run).Graded ∧ ∃ t, step (wS .run) = .next t := ⟨⟨by decide +kernel, by decide +kernel⟩, _, rfl⟩

theorem witness_EveryCommandCompletes : wReset.dev.state = .reset ∧ (0x3FFFFFF#32).toNat + [0#8].length ≤ 0x4000000 ∧
    0x4000000 < (0x3FFFFFF#32).toNat + [0#8, 0#8].length ∧
    step { wReset with pending := [.boardProgrammerFlashWrite 0x3FFFFFF#32 [0#8, 0#8]] } = .fault (.noSuchFlashAddress 0x4000000) := by
  refine ⟨rfl, by decide, by decide, rfl⟩

theorem witness_BurstCode : (0 : Nat) < 2 ^ 512 ∧ (511 : Nat) < 512 ∧ (0 : Nat) ≠ 511 ∧ (10 : Nat) < 11 ∧ (4 : Nat) < 5 :=
  ⟨Nat.two_pow_pos _, by decide, by decide, by decide, by decide⟩

theorem witness_Reductions : (⟨0, true, false, false⟩ : LongAcc).nan = true ∧ (⟨0, false, true, false⟩ : LongAcc).pinf = true ∧
    (⟨0, false, true, true⟩ : LongAcc).ninf = true ∧ (⟨0, false, false, true⟩ : LongAcc).ninf = true ∧ (⟨-3, false, false, false⟩ : LongAcc).acc ≠ 0 ∧
    [(ExactNum.nan, ExactNum.nan), (.fin false 1 1, .inf true)].Perm [(.fin false 1 1, .inf true), (ExactNum.nan, ExactNum.nan)] := by
  refine ⟨rfl, rfl, rfl, rfl, by decide, List.Perm.swap _ _ _⟩

theorem witness_ResetAndPower : (wS .off).dev.state = .off ∧ (wS .inert).dev.state ≠ .off ∧ wReset.dev.state = .reset ∧ wReset.dev.brownOut = false ∧
    wReset.hullOk = true ∧ wReset.mayBoot = true ∧ ({ wReset with dev := { wReset.dev with porstLow := true } } : State).mayBoot = false := by decide +kernel

theorem witness_WatchdogAndBrownout : (wS .run).dev.state ≠ .off ∧ (wS .run).dev.state ≠ .reset ∧ (wS .run).mayBoot = true ∧
    (649999#32).toNat < 650000 ∧ (1549999#32).toNat < 1550000 ∧
    (let s : State := { wReset with dev := { wReset.dev with brownOut := true } }
     s.dev.state = .reset ∧ s.dev.brownOut = true ∧ s.dev.porstLow = false ∧ ((s.setSupply 0 true).setSupply 5 true).hullOk = true) := by decide +kernel

theorem witness_CausesOfSafe : (wS .inert).Guarded ∧ (wS .degraded).Guarded ∧ inSupplyWindow 0 700000 = false ∧ brownLevel 0 700000 = false ∧
    (let s : State := { wS .run with field := { (wS .run).field with rigOnceUp := true } }
     s.Guarded ∧ s.field.rigOnceUp = true) := by
  refine ⟨guarded_of ?_ ?_ ?_, guarded_of ?_ ?_ ?_, ?_, ?_, guarded_of ?_ ?_ ?_, ?_⟩ <;> decide +kernel

theorem witness_RiggerAndTemperature : (wS .inert).Settled ∧ (wS .inert).awake = true ∧ (wS .inert).dev.state ≠ .boot ∧ (wS .inert).Guarded ∧
    (∀ i : Fin 34, ((Vector.replicate 34 (1149#16))[i]).toInt < 1150) ∧ ∃ i : Fin 34, 1150 ≤ (((Vector.replicate 34 (1149#16)).set 33 1150#16)[i]).toInt := by
  refine ⟨settled_of ?_, ?_, ?_, guarded_of ?_ ?_ ?_, ?_, 33, ?_⟩ <;> decide +kernel

/-- The image of step 5 passes or fails by a signature that the model leaves free (`Config.pssVerify`); here the flash is blank, and every other hypothesis of the
clauses is met. -/
theorem witness_FirstBootSteps : (∀ n ∈ [0, 1, 2, 3, 4, 5], (wBoot n).dev.state = .boot ∧ settledB (wBoot n) = true ∧ (wBoot n).boot.record.lastStep = n ∧
      (wBoot n).boot.record.bootCount ≠ 0) ∧ (wReport true false).good = true ∧ (wReport true false).fuseBad = false ∧ (wReport true false).corrected ≠ 0 ∧
    (wReport false true).fuseBad = true ∧ (wBoot 2).boot.flash.newest = none ∧ (wBoot 3).boot.warm = false := by decide +kernel

theorem witness_LastBootSteps : (∀ n ∈ [6, 7, 8, 9], (wBoot n).dev.state = .boot ∧ settledB (wBoot n) = true ∧ (wBoot n).boot.record.lastStep = n) ∧
    (wReport true false).good = true ∧ (wReport true false).failed = [] ∧ (wBoot 6).boot.flash.copyA = none ∧ (wBoot 6).boot.flash.copyB = none ∧
    (wBoot 7).boot.skipCrew = none ∧ (wBoot 8).boot.warm = false ∧ (wBoot 8).boot.flash.store = [] ∧ (wBoot 8).boot.flash.storeEntries = [] ∧
    (wBoot 9).dev.safeCause = 0 := by decide +kernel

theorem witness_BoardProgrammer : (wS .run).dev.state ≠ .reset ∧ wReset.dev.state = .reset ∧ 0x4000000 < (0x4000000#32).toNat + [0#8].length ∧
    0x110000 ≤ (0x190FFFF#32).toNat ∧ (0x190FFFF#32).toNat + [0#8].length ≤ 0x1910000 ∧ (0x110000#32).toNat - 0x110000 ≤ wReset.boot.flash.image.length ∧
    (0xFFFF#32).toNat + [0#8].length ≤ 0x10000 := by decide +kernel

/-- The state RECOVERY, owned by the peer 5 of FNET0 or not, with an image that is complete and installed or not. -/
def wRec (owned : Bool) (installed : Bool) : State :=
  { wS .recovery with boot := { (wS .recovery).boot with recovery := ⟨if owned then some (5, 0) else none, 10, [], [], true, installed, none⟩ } }

/-- The header of a recovery message. -/
def wRecEnv (op : BitVec 8) (o : BitVec 64) (d : Bytes) : Envelope := wSeal { wEnv0 with kind := 3, session := 0xFFFF, tag := 0 } (fun e => recReq e op o d)

theorem owned_of {s : State} {r : Request} (h : (decide (s.dev.state = .recovery) && s.recoveryItf r.env && Request.recoveryGood r &&
    decide (s.boot.recovery.owner = some (r.env.peer.toNat, r.env.itf.val)) && s.boot.recovery.stored.isEmpty && s.boot.recovery.installing.isNone &&
    decide (-64 < reqDist r.env.reqId.toNat s.boot.recovery.high) && settledB s) = true) : s.Owned r := by
  simp only [Bool.and_eq_true, decide_eq_true_eq, Option.isNone_iff_eq_none, List.isEmpty_iff] at h
  obtain ⟨⟨⟨⟨⟨⟨⟨h1, h2⟩, h3⟩, h4⟩, h5⟩, h6⟩, h7⟩, h8⟩ := h
  exact ⟨h1, h2, h3, h4, by simp [h5], h6, h7, settled_of h8⟩

theorem witness_Recovery : ((wRec false false).dev.state = .recovery ∧ (wRec false false).Settled ∧ (wRec false false).recoveryItf (wRecEnv 1 0 []) = true ∧
      Request.recoveryGood (recReq (wRecEnv 1 0 []) 1 0 []) = true ∧ (wRec false false).boot.recovery.owner = none ∧ (wRec false false).boot.recovery.installing = none) ∧
    (wRec true false).Owned (recReq (wRecEnv 2 0 [7#8]) 2 0 [7#8]) ∧
    ((wRec true false).Owned (recReq (wRecEnv 3 0 []) 3 0 []) ∧ (wRec true false).boot.recovery.complete = true ∧ (wRec true false).boot.record.failCode ≠ 3) ∧
    ((wRec true true).Owned (recReq (wRecEnv 4 0 []) 4 0 []) ∧ (wRec true true).boot.recovery.installed = true) := by
  refine ⟨⟨?_, settled_of ?_, ?_, ?_, ?_, ?_⟩, owned_of ?_, ⟨owned_of ?_, ?_, ?_⟩, owned_of ?_, ?_⟩ <;> decide +kernel

theorem witness_InstallEnds : ∀ n ∈ [0, 1], ∃ s : State, s.Settled ∧ s.boot.staged = some ⟨0, 0, [], 0, [1#8]⟩ ∧ s.boot.fwStatus = 2 ∧
    s.boot.recovery.installing = none ∧ s.boot.installTries = n := by
  intro n _
  refine ⟨{ wS .inert with boot := { (wS .inert).boot with staged := some ⟨0, 0, [], 0, [1#8]⟩, fwStatus := 2, installTries := n } },
    ⟨?_, rfl⟩, rfl, rfl, rfl, rfl⟩
  exact (by decide +kernel : (wS .inert).idleWork = none)

theorem witness_DeviceCommands : (∀ d ∈ [DevState.inert, .armed], (wS d).transition = false ∧ (wS d).squad.state ≠ .formed) ∧ WMay (wS .inert) .DEV_COMMAND 0 0 ∧
    (WMay (wS .inert) .DEV_COMMAND 0 1 ∧ (wS .inert).dev.state = .inert) ∧ (WMay (wS .armed) .DEV_COMMAND 0 3 ∧ (wS .armed).dev.state = .armed) := by
  refine ⟨?_, may_of ?_, ⟨may_of ?_, ?_⟩, may_of ?_, ?_⟩ <;> decide +kernel

/-- A request of session 0 that executes, in a device whose ARM checks have begun. -/
def wReq : Request := wrNum (wNum .DEV_COMMAND 0 1) .DEV_COMMAND 0 1
def wArming (f : Option Nat) : State := { wS .inert with
  dev := { (wS .inert).dev with arming := some (.session 0 11, f) }
  od := { (wS .inert).od with sessions := (wS .inert).od.sessions.set 0 (some { wx with executing := some wReq }) } }

theorem witness_Transitions : (∀ f ∈ [some 3, none], (wArming f).Settled ∧ (wArming f).session? 0 = some { wx with executing := some wReq } ∧
      (wArming f).dev.state = .inert ∧ (wArming f).dev.arming = some (.session 0 wReq.env.reqId.toNat, f)) ∧
    ((wArming none).armCheck = none ∧ (wArming none).armNow.crewsShort = false) ∧
    ((wS .armed).transition = false ∧ (wS .armed).squad.state ≠ .formed ∧ (wS .armed).squad.load = none ∧ WMay (wS .armed) .DEV_COMMAND 0 2) ∧
    (WMay (wS .run) .DEV_COMMAND 0 4 ∧ (wS .run).dev.state.runs = true) ∧ (WMay (wS .inert) .DEV_COMMAND 0 5 ∧ WMay (wS .degraded) .DEV_COMMAND 0 5) ∧
    (WMay (wS .safe) .DEV_COMMAND 0 6 ∧ (wS .safe).dev.state = .safe ∧ (wS .safe).ackable = true) ∧
    (let s : State := { wS .run with cox := { (wS .run).cox with stopReq := true } }
     s.Settled ∧ s.dev.state.runs = true ∧ s.cox.stopReq = true ∧ s.otherHeats = 0) := by
  refine ⟨fun f hf => ?_, ⟨?_, ?_⟩, ⟨?_, ?_, ?_, may_of ?_⟩, ⟨may_of ?_, ?_⟩, ⟨may_of ?_, may_of ?_⟩, ⟨may_of ?_, ?_, ?_⟩, settled_of ?_, ?_, ?_, ?_⟩
  · simp only [List.mem_cons, List.not_mem_nil, or_false] at hf
    rcases hf with rfl | rfl <;> refine ⟨settled_of ?_, ?_, ?_, ?_⟩ <;> decide +kernel
  all_goals decide +kernel

theorem witness_Restarts : (wS .run).transition = false ∧ (wS .run).boot.fwStatus ≠ 2 ∧ WMay (wS .run) .DEV_COMMAND 0 7 ∧ (wS .run).dev.state.active = true ∧
    WMay (wS .run) .DEV_COMMAND 0 8 ∧ (wS .run).mayBoot = true := by
  refine ⟨?_, ?_, may_of ?_, ?_, may_of ?_, ?_⟩ <;> decide +kernel

/-- A sealed request of session 0. -/
def wReqOf (op : BitVec 8) (index : BitVec 16) (sub : BitVec 8) (o : BitVec 64) (n : BitVec 16) (d : Bytes) (e : Envelope) : Request :=
  ⟨wSeal e (fun e => ⟨e, op, index, sub, o, n, d⟩), op, index, sub, o, n, d⟩

/-- The OPEN of a role with a timeout of 500 ms, from the peer 6. -/
def wOpenData (role : Nat) : Bytes := leBytes 1 role ++ leBytes 1 1 ++ leBytes 2 500 ++ leBytes 4 0
def wOpenEnv (role : Nat) : Envelope := wSeal { wEnv0 with session := 0xFFFF, tag := 0, peer := 6 } (fun e => mkReq e 1 0 0 0 8 (wOpenData role))

theorem witness_Sessions_open : ∀ c ∈ [(0, wS .inert, some 1), (1, { wS .inert with od := State.reset.od }, some 0)],
    c.2.1.Settled ∧ c.2.1.boot.serverUp = true ∧ c.2.1.itfUp (wOpenEnv c.1).itf = true ∧ Request.good (mkReq (wOpenEnv c.1) 1 0 0 0 8 (wOpenData c.1)) = true ∧
    (wOpenEnv c.1).session = 0xFFFF ∧ (wOpenEnv c.1).tag = 0 ∧ reservedZero (wOpenEnv c.1) = true ∧ (wOpenData c.1).length = 8 ∧
    fieldAt (wOpenData c.1) 0 1 ≤ 1 ∧ (fieldAt (wOpenData c.1) 0 1 = 1 → c.2.1.control = 0xFFFF) ∧ 1 ≤ fieldAt (wOpenData c.1) 1 1 ∧
    fieldAt (wOpenData c.1) 1 1 < 16 ∧ fieldAt (wOpenData c.1) 4 4 = 0 ∧ (∀ k : Fin 48, ∀ x ∈ c.2.1.session? k, boundTo k x (wOpenEnv c.1) = false) ∧
    c.2.1.openSlot (wOpenEnv c.1) = c.2.2 := by
  simp only [List.forall_mem_cons, List.not_mem_nil, false_imp_iff, implies_true, and_true]
  constructor <;> refine ⟨settled_of ?_, ?_⟩ <;> decide +kernel

theorem witness_Sessions : (wS .run).Takes wx (mkReq (wSeal wEnv0 (fun e => mkReq e 2 0 0 0 0 [])) 2 0 0 0 0 []) ∧
    (wS .run).Takes wx (mkReq (wSeal wEnv0 (fun e => mkReq e 3 0 0 0 0 [])) 3 0 0 0 0 []) ∧ (wS .run).session? (0 : Fin 48) = some wx := by
  refine ⟨takes_of ?_, takes_of ?_, ?_⟩ <;> decide +kernel

theorem witness_Reads : (wS .run).Settled ∧
    ((wS .run).Takes wx (wReqOf 4 0x2210 4 0 0 [] wEnv0) ∧ resolve (wS .run).crewCount 0x2210 4 = some (.ent .CAM_LINE_WIDTH 0 0) ∧
      Ent.CAM_LINE_WIDTH.row.acc = .rw ∧ Ent.CAM_LINE_WIDTH.row.ty ≠ .domain) ∧
    ((wS .run).Takes wx (wReqOf 4 4352 32 0 0 [] wEnv0) ∧ resolve (wS .run).crewCount 4352 32 = some (.lint .OD_CHECK 0)) ∧
    ((wS .run).Takes wx (wReqOf 4 4352 48 0 0 [] wEnv0) ∧ resolve (wS .run).crewCount 4352 48 = some (.lintRc .OD_CHECK 0)) ∧
    ((wS .run).Takes wx (wReqOf 4 0x221B 15 0 0 [] wEnv0) ∧ resolve (wS .run).crewCount 0x221B 15 = some (.ent .CAM_TP_BITS_RC (11 : Fin 12) 0)) ∧
    ((wS .run).Takes wx (wReqOf 4 5632 4 0 1424 [] wEnv0) ∧ resolve (wS .run).crewCount 5632 4 = some (.ent .CYC_BASE 0 0) ∧ Ent.CYC_BASE.row.ty = .domain ∧
      Ent.CYC_BASE.row.acc = .rw) ∧
    (wS .run).Takes wx (wReqOf 6 0x2210 4 0 0 [] wEnv0) := by
  refine ⟨settled_of ?_, ⟨takes_of ?_, ?_, ?_, ?_⟩, ⟨takes_of ?_, ?_⟩, ⟨takes_of ?_, ?_⟩, ⟨takes_of ?_, ?_⟩, ⟨takes_of ?_, ?_, ?_, ?_⟩, takes_of ?_⟩ <;> decide +kernel

theorem witness_Writes : 
    ((wS .run).MayWrite wx (wReqOf 5 9728 9 0 2 (leBytes 2 1000) wEnv0) (.ent .PWR_LIMIT 0 0) ∧ Ent.PWR_LIMIT.row.live = true ∧ Ent.PWR_LIMIT.row.acc = .rw ∧
      Ent.PWR_LIMIT.rsvOk (.num (leNat (leBytes 2 1000))) = true ∧ Ent.PWR_LIMIT.rangeOk 0 0 (.num (leNat (leBytes 2 1000))) = true ∧
      (wS .run).writeAllowed .PWR_LIMIT 0 = true) ∧
    ((wS .inert).MayWrite wx (wReqOf 5 0x2210 4 0 2 (leBytes 2 4096) wEnv0) (.ent .CAM_LINE_WIDTH 0 0) ∧ Ent.CAM_LINE_WIDTH.row.live = false ∧
      Ent.CAM_LINE_WIDTH.rangeOk 0 0 (.num 4096) = true ∧ (wS .inert).writeAllowed .CAM_LINE_WIDTH 0 = true) ∧
    ((wS .inert).MayWrite wx (wReqOf 5 5632 4 0 6 (zeros 6) { wEnv0 with last := false }) (.ent .CYC_BASE 0 0) ∧ (zeros 6).length ≤ (wS .inert).maxLen .CYC_BASE ∧
      (wS .inert).firstState (.ent .CYC_BASE 0 0) = true ∧ wx.Holds (wReqOf 5 5632 4 0 6 (zeros 6) { wEnv0 with last := false }) []) ∧
    ((wS .inert).MayWrite wx (wReqOf 5 5632 4 0 12 (zeros 12) wEnv0) (.ent .CYC_BASE 0 0) ∧ (wS .inert).lengthFault (.ent .CYC_BASE 0 0) 12 = none ∧
      Ent.CYC_BASE.rangeOk 0 0 (.bytes (zeros 12)) = true ∧ (wS .inert).writeAllowed .CYC_BASE 0 = true ∧
      (placeKey 5632 4 == Ent.RP_LOAD.key 0 0) = false) := by
  refine ⟨⟨may_of ?_, ?_, ?_, ?_, ?_, ?_⟩, ⟨may_of ?_, ?_, ?_, ?_⟩, ⟨may_of ?_, ?_, ?_, .inl ⟨rfl, rfl⟩⟩, ⟨may_of ?_, ?_, ?_, ?_, ?_⟩⟩ <;> decide +kernel

/-- A device with a shadow, and one with a value that waits. -/
def wShadow : State := { wS .run with od := { (wS .run).od with shadows := [(Ent.CREW_MIN_SHELLS.key 0 0, .num 40)] } }
def wWaiting : State := { wS .run with od := { (wS .run).od with waiting := [(Ent.OD_SESSION_TIMEOUT.key 0 0, .num 700)] } }

theorem witness_Commits : (wShadow.MayWrite wx (wReqOf 5 0x24FF 1 0 1 [1#8] wEnv0) (.commit 0x24) ∧ wShadow.commitFault 0x24 = none ∧
      ∀ a ∈ (wShadow.od.shadows.filter (fun e => inGroup 0x24 e.1)).foldl (fun w e => amInsert w e.1 e.2) wShadow.od.waiting,
        inGroup 0x24 a.1 = true → wShadow.nowKey a.1 a.2 = false) ∧
    wShadow.MayWrite wx (wReqOf 5 0x24FF 1 0 1 [2#8] wEnv0) (.commit 0x24) ∧
    (wWaiting.Settled ∧ wWaiting.od.waiting.filter (fun a => inGroup 0x11 a.1 && wWaiting.nowKey a.1 a.2) ≠ []) := by
  refine ⟨⟨may_of ?_, ?_, ?_⟩, may_of ?_, settled_of ?_, ?_⟩ <;> decide +kernel

/-- The cyclic image is enabled; its RX map has one entry, for `FIO_OUT` or for `PWR_LIMIT`, at the image's start. -/
def wMapOf (E : Ent) : Nat := E.row.index + E.row.sub * 2 ^ 16 + 2 ^ 24
def wCyc (E : Ent) (latest : Option Bytes) : State :=
  { wSet (wS .run) [(.CYC_ENABLE, 0, 0, 1), (.CYC_RX_MAP, 0, 0, wMapOf E)] with cyc := ⟨false, 0, latest, 3, false, false, 0, true⟩ }

theorem witness_CyclicImage_start : (wCyc .FIO_OUT none).Settled ∧ (let u := (wCyc .FIO_OUT none).applyWaiting (inGroup 0x16)
    u.flag .CYC_ENABLE 0 = true ∧ u.cycBase ≤ u.nowNs ∧ u.cyc.latest = none ∧ u.crewsShort = false) := by
  refine ⟨settled_of ?_, ?_⟩ <;> decide +kernel

theorem witness_CyclicImage_apply : (∀ c ∈ [(Ent.FIO_OUT, 8, true), (.PWR_LIMIT, 2, false)],
    let u := (wCyc c.1 (some (zeros 8))).applyWaiting (inGroup 0x16)
    settledB (wCyc c.1 (some (zeros 8))) = true ∧ u.flag .CYC_ENABLE 0 = true ∧ u.cycBase ≤ u.nowNs ∧ u.cyc.latest = some (zeros 8) ∧ u.mapUsed true = [(0, wMapOf c.1)] ∧
    mapSpan u.crewCount true (wMapOf c.1) = some (0, c.2.1) ∧ resolve u.crewCount (mapIndex (wMapOf c.1)) (mapSub (wMapOf c.1)) = some (.ent c.1 0 0) ∧
    (c.1.rsvOk (.num (leNat (slice (zeros 8) 0 c.2.1))) && c.1.rangeOk 0 0 (.num (leNat (slice (zeros 8) 0 c.2.1))) && u.writeAllowed c.1 0) = c.2.2 ∧
    (u.setVal c.1 0 0 (.num (leNat (slice (zeros 8) 0 c.2.1)))).crewsShort = false ∧ u.crewsShort = false) := by decide +kernel

/-- A cyclic image frame for the map of `FIO_OUT`, with its CRC. -/
def wFrame (b : Bytes) : Bytes := beBytes 6 bcastAddr ++ beBytes 6 1 ++ beBytes 2 0x88B5 ++ b
def wImage : Bytes :=
  let h := leBytes 4 (1 + 2 * 16 + 256 + 8 * 2 ^ 16) ++ leBytes 4 1 ++ leBytes 4 0
  h ++ leBytes 4 (crc32c (h ++ zeros 4 ++ zeros 8)) ++ zeros 8

theorem witness_CyclicImage_frames : (let s := wCyc .FIO_OUT none
    s.num .CYC_PORT 0 = (0 : Fin 2).val ∧ s.flag .CYC_ENABLE 0 = true ∧ s.cyc.started = true ∧ s.fnet.ports[(0 : Fin 2)].on = true ∧
    s.accepts 0 (wFrame wImage) = true ∧ s.imageGood 0 (ethFrame (wFrame wImage)) = true ∧
    s.accepts 0 (wFrame (zeros 24)) = true ∧ s.imageGood 0 (ethFrame (wFrame (zeros 24))) = false) := by decide +kernel

theorem witness_CyclicImage_watchdog : ∀ a ∈ [0, 1], (let s := wSet (wCyc .FIO_OUT none) [(.CYC_WD_ACTION, 0, 0, a)]
    settledB s = true ∧ s.flag .CYC_ENABLE 0 = true ∧ s.num .CYC_WD_CYCLES 0 ≠ 0 ∧ s.cyc.tripped = false ∧ s.num .CYC_WD_CYCLES 0 ≤ s.cyc.missed ∧
    s.num .CYC_WD_ACTION 0 = a ∧ s.mapUsed true = [(0, wMapOf .FIO_OUT)] ∧ (s.setVal .FIO_OUT 0 0 (Ent.FIO_OUT.dflt s.part 0 0)).crewsShort = false) := by
  decide +kernel

/-- A KEEPALIVE message in the cell 2 of mailbox 1, of a CONTROL session of PCIe, and a device that holds that session. -/
def wMsg (go : Nat) : Bytes :=
  let m (check : Nat) : Bytes := leBytes 1 1 ++ leBytes 1 3 ++ leBytes 2 2 ++ leBytes 2 33 ++ zeros 2 ++ leBytes 4 go ++ zeros 16 ++ leBytes 4 7 ++ leBytes 4 check ++ zeros 4
  m (requestCrc (readRequest 1 (m 0)))
def wPcie : State := { wS .inert with od := { (wS .inert).od with sessions := ((wS .inert).od.sessions.set 0 none).set 33 (some { wx with peer := 1 }) } }
def wBusy : State := { wPcie with pci := { wPcie.pci with busy := [(1, 2, 9)] } }

theorem witness_PcieFunction : wPcie.boot.serverUp = true ∧ wPcie.pci.rate ≠ 0 ∧ wBusy.pci.busy.any (fun b => b.1 == 1 && b.2.1 == 2) = true ∧
    ((readRequest 1 (wMsg 11)).env.reqId ≠ 12 ∧ (readRequest 1 (wMsg 11)).env.reqId = 11 ∧ (readRequest 1 (wMsg 11)).op = 3 ∧ (readRequest 1 (wMsg 11)).data = [] ∧
      wPcie.Settled ∧ ({ wPcie with pci := { wPcie.pci with busy := (1, 2, 11) :: wPcie.pci.busy } } : State).Takes { wx with peer := 1 } (readRequest 1 (wMsg 11))) ∧
    (wPcie.dev.state ≠ .recovery ∧ wPcie.apertureFault false 0 4 = some 4 ∧ wPcie.apertureFault true (2 ^ 40) 4 = some 1) ∧
    ((3#4).toNat ∈ [1, 2, 3, 4, 5] ∧ (8#4).toNat ∈ [1, 2, 4, 8]) := by
  refine ⟨?_, ?_, ?_, ⟨?_, ?_, ?_, ?_, settled_of ?_, takes_of ?_⟩, ?_, ?_⟩ <;> decide +kernel

theorem aperture_allowed (s : State) (w : Bool) (ofs : Nat) (h1 : s.lpddrSize = 133143986176) (h2 : s.num .PCI_BULK_PART 0 = 0) (h3 : s.dev.state = .inert)
    (h4 : ofs + 4 ≤ 2097152) (h : s.granuleOwner 4 0 = some 0) : s.apertureFault w ofs 4 = none := by
  have e : (List.range ((ofs + 4 - 1) / 2097152 + 1 - ofs / 2097152)).map (· + ofs / 2097152) = [0] := by
    rw [show ofs / 2097152 = 0 from by omega, show (ofs + 4 - 1) / 2097152 = 0 from by omega]; rfl
  unfold State.apertureFault
  simp only [h1, h2, h3, e]
  rw [if_neg (by omega), if_neg (by omega), if_neg (by simp [h]), if_neg (by simp)]

/-- The same device with partition 0 in `PCI_BULK_PART`. -/
def wBulk : State := wSet wPcie [(.PCI_BULK_PART, 0, 0, 0)]

/-- An aperture access is allowed where the partition of `PCI_BULK_PART` owns every 2 MiB that it touches. Where the cox places what a partition owns is free
(`Config.granuleOwner`), so the owner stands here as a hypothesis. -/
theorem witness_PcieFunction_allowed (h : wBulk.granuleOwner 4 0 = some 0) :
    wBulk.apertureFault false 0 4 = none ∧ wBulk.apertureFault true 2097148 4 = none :=
  ⟨aperture_allowed _ _ _ (by decide +kernel) (by decide +kernel) (by decide +kernel) (by decide) h,
    aperture_allowed _ _ _ (by decide +kernel) (by decide +kernel) (by decide +kernel) (by decide) h⟩

/-- A transfer list with one OD_READ entry of `DEV_STATE`, as a value of `PCI_XL_SUBMIT` with the REQ_ID 11. -/
def wXl : Bytes :=
  leBytes 4 (1 + 256) ++ leBytes 4 11 ++ leBytes 8 4096 ++ zeros 16 ++
    (leBytes 4 (1 + 2 * 16 + Ent.DEV_STATE.row.index * 2 ^ 16) ++ leBytes 4 Ent.DEV_STATE.row.sub ++ leBytes 8 8192 ++ leBytes 4 4 ++ zeros 12)
def wxP : Session := { wx with peer := 1 }
def wEnvP : Envelope := { wEnv0 with itf := 2, peer := 1, session := 33 }

/-- The device of `wPcie` with the list 11, whose entry is `e`, in progress: not yet executed, or with a result. -/
def wListOf (e : XlEntry) (n : Nat) (result : Option Nat) : XList := ⟨11, 33, 4096, true, List.replicate n e, 0, [], 0, false, false, result, false⟩
def wList (e : XlEntry) (n : Nat) (result : Option Nat) : State :=
  { wPcie with pci := { wPcie.pci with lists := [wListOf e n result], archive := ⟨4096, [zeros 4, zeros 8], 2, 0⟩ } }

theorem witness_ListRequests :
    (wPcie.MayWrite wxP (wrSeg (wSeal wEnvP (fun e => wrSeg e .PCI_XL_SUBMIT 0 0 wXl)) .PCI_XL_SUBMIT 0 0 wXl) (.ent .PCI_XL_SUBMIT 0 0) ∧
      wxP.Holds (wrSeg wEnvP .PCI_XL_SUBMIT 0 0 wXl) [] ∧ wEnvP.last = true ∧ wXl.length ≤ Ent.PCI_XL_SUBMIT.row.maxLen ∧
      readXl wXl 11 = some (4096, false, [⟨2, false, Ent.DEV_STATE.row.index, Ent.DEV_STATE.row.sub, 8192, 4, 0⟩]) ∧ wPcie.pci.lists.length < 4) ∧
    ((wList ⟨2, false, 0, 0, 0, 4, 0⟩ 1 none).MayWrite wxP (wrNum (wSeal wEnvP (fun e => wrNum e .PCI_XL_ABORT 0 11)) .PCI_XL_ABORT 0 11) (.ent .PCI_XL_ABORT 0 0) ∧
      (wList ⟨2, false, 0, 0, 0, 4, 0⟩ 1 none).xlist? 11 = some (wListOf ⟨2, false, 0, 0, 0, 4, 0⟩ 1 none)) := by
  refine ⟨⟨may_of ?_, .inl ⟨rfl, rfl⟩, ?_, ?_, ?_, ?_⟩, may_of ?_, ?_⟩ <;> decide +kernel

theorem witness_TransferLists :
    (let e : XlEntry := ⟨1, true, Ent.CYC_BASE.row.index, Ent.CYC_BASE.row.sub, 0, 8, 0⟩
     let s := wList e 2 none
     settledB s = true ∧ s.listEntry 11 1 = some (wListOf e 2 none, e) ∧ s.xlist? 11 = some (wListOf e 2 none) ∧
      resolve s.crewCount e.index e.sub = some (.ent .CYC_BASE 0 0) ∧ s.runStart (wListOf e 2 none) e (.ent .CYC_BASE 0 0) = none ∧ Ent.CYC_BASE.row.ty = .domain ∧
      ([] ++ fit (zeros 8) 8).length ≤ s.maxLen .CYC_BASE) ∧
    (let e : XlEntry := ⟨1, false, Ent.FIO_OUT.row.index, Ent.FIO_OUT.row.sub, 0, 8, 0⟩
     let s := wList e 1 none
     settledB s = true ∧ s.listEntry 11 1 = some (wListOf e 1 none, e) ∧ resolve s.crewCount e.index e.sub = some (.ent .FIO_OUT 0 0) ∧
      s.runStart (wListOf e 1 none) e (.ent .FIO_OUT 0 0) = none ∧ e.len = Ent.FIO_OUT.row.ty.size ∧ Ent.FIO_OUT.row.acc = .rw ∧ Ent.FIO_OUT.row.live = true ∧
      Ent.FIO_OUT.rsvOk (.num (leNat (zeros 8))) = true ∧ Ent.FIO_OUT.rangeOk 0 0 (.num (leNat (zeros 8))) = true ∧ s.writeAllowed .FIO_OUT 0 = true ∧
      (s.setVal .FIO_OUT 0 0 (.num (leNat (zeros 8)))).crewsShort = false) ∧
    (let e : XlEntry := ⟨2, false, Ent.FIO_OUT.row.index, Ent.FIO_OUT.row.sub, 0, 8, 0⟩
     let s := wList e 1 none
     s.listEntry 11 2 = some (wListOf e 1 none, e) ∧ resolve s.crewCount e.index e.sub = some (.ent .FIO_OUT 0 0) ∧
      ((s.val .FIO_OUT 0 0).enc Ent.FIO_OUT.row.ty.size).length ≤ e.len) ∧
    (let e : XlEntry := ⟨5, false, 0, 0, 0, 8, 0⟩
     (wList e 1 none).listEntry 11 5 = some (wListOf e 1 none, e) ∧ recordsIn 8 (wList e 1 none).pci.archive.unread ≠ [] ∧
      (∀ c ∈ [(2, some 0), (1, some 0), (1, some 255)], (wList e c.1 c.2).xlist? 11 = some (wListOf e c.1 c.2) ∧ (wListOf e c.1 c.2).result = c.2 ∧
        (wListOf e c.1 c.2).entries.length = c.1)) := by decide +kernel

theorem allowed_piece (s : State) (w : Bool) (h : s.apertureFault w 0 4 = none) : s.bulkAllowed w 0 4 = (4, false) := by
  unfold State.bulkAllowed
  have e : (List.range ((4 + 4095) / 4096)) = [0] := rfl
  rw [e]
  have h2 : (s.apertureFault w 0 4).isSome = false := by rw [h]; rfl
  simp [List.find?, h2]

/-- The bulk entries, where the partition of `PCI_BULK_PART` owns what they touch (`Config.granuleOwner` is free). -/
theorem witness_TransferLists_bulk (op : Nat) (s : State) (hs : s = { wBulk with pci := { wBulk.pci with lists := [wListOf ⟨op, false, 0, 0, 0, 4, 0⟩ 1 none] } })
    (h : s.granuleOwner 4 0 = some 0) : s.listEntry 11 op = some (wListOf ⟨op, false, 0, 0, 0, 4, 0⟩ 1 none, ⟨op, false, 0, 0, 0, 4, 0⟩) ∧
      s.bulkAllowed true 0 4 = (4, false) ∧ s.bulkAllowed false 0 4 = (4, false) := by
  have h1 : s.lpddrSize = 133143986176 := by subst hs; exact (by decide +kernel : wBulk.lpddrSize = 133143986176)
  have h2 : s.num .PCI_BULK_PART 0 = 0 := by subst hs; exact (by decide +kernel : wBulk.num .PCI_BULK_PART 0 = 0)
  have h3 : s.dev.state = .inert := by subst hs; exact (by decide +kernel : wBulk.dev.state = .inert)
  refine ⟨?_, allowed_piece _ _ (aperture_allowed _ _ _ h1 h2 h3 (by decide) h), allowed_piece _ _ (aperture_allowed _ _ _ h1 h2 h3 (by decide) h)⟩
  subst hs
  simp [State.listEntry, State.xlist?, wListOf]

/-- A swath of port 0: 8 pixels wide, `lines` of 2 rows in, its buffer 0. -/
def wSwath (lines : Nat) : Swath :=
  ⟨5, 0, ⟨⟨0, 0, 0⟩, 0, 10⟩, 0, 20, 0, some 0, lines, 2, 8, 8, 0, 0, 0, 0, 0, 0, [], [], none, none, none, .notHanded, .run, ⟨false, 0, 0, 0, 0⟩, none, [0, 0], false, none,
    false, false, false, false, ⟨0, 0, 0, 0, [], false, [], 0, 0, 0, 0, 0, false, true, 0, 0⟩, []⟩

/-- A camera port that runs, with the swath open. -/
def wPort (lines : Nat) : CamPort := { CamPort.init with on := true, expected := some 7, trigs := [⟨⟨0, 1, 0⟩, 1, 4⟩], opened := some (wSwath lines), free := [1] }

/-- Port 0 of a device in RUN is that port; its lines are 8 pixels wide. -/
def wCam (c : CamPort) (l : List (Ent × Nat × Nat × Nat)) : State :=
  { wSet (wS .run) ((.CAM_LINE_WIDTH, 0, 0, 8) :: l) with cams := (wS .run).cams.set 0 c }

theorem witness_CameraLines_line : (wCam (wPort 1) [(.CAM_LATE_LIMIT, 0, 0, 0), (.CAM_PACKING, 0, 0, 0)]).camRuns 0 = true ∧
    (let s := wCam (wPort 1) [(.CAM_LATE_LIMIT, 0, 0, 0), (.CAM_PACKING, 0, 0, 0)]
     s.cams[(0 : Fin 12)].opened = some (wSwath 1) ∧ (wSwath 1).lines < (wSwath 1).total ∧ s.cams[(0 : Fin 12)].trigs = [⟨⟨0, 1, 0⟩, 1, 4⟩] ∧
      s.cams[(0 : Fin 12)].expected = some 7 ∧ s.num .CAM_LATE_LIMIT 0 = 0 ∧ bits (BitVec.toNat 0x01000007#32) 27 24 = 1 ∧ bits (BitVec.toNat 0x01000007#32) 31 28 = 0 ∧
      BitVec.toNat 0x01000007#32 % 2 ^ 24 = 7 ∧ s.cams[(0 : Fin 12)].consumed.contains 7 = false ∧
      [1#32, 2#32].length = (s.camW 0 + beatPixels (s.num .CAM_PACKING 0) - 1) / beatPixels (s.num .CAM_PACKING 0)) ∧
    (let s := wCam { wPort 2 with consumed := [3] } []
     s.camRuns 0 = true ∧ s.cams[(0 : Fin 12)].expected = some 7 ∧ s.cams[(0 : Fin 12)].consumed.contains (BitVec.toNat 0x01000003#32 % 2 ^ 24) = true ∧
      s.cams[(0 : Fin 12)].openNow = none) := by decide +kernel

theorem witness_CameraLines : 
    (∀ e ∈ [none, some 7], let s := wCam { wPort 1 with expected := e } [(.CAM_TRIG_SRC, 0, 0, 1), (.CAM_LATE_LIMIT, 0, 0, 10)]
      s.camRuns 0 = true ∧ s.num .CAM_TRIG_SRC 0 ≠ 0 ∧ s.num .CAM_LATE_LIMIT 0 ≠ 0 ∧ s.cams[(0 : Fin 12)].trigs = [⟨⟨0, 1, 0⟩, 1, 4⟩] ∧ s.cams[(0 : Fin 12)].expected = e) ∧
    (∀ n ∈ [0, 1], let s := wCam { wPort 1 with deferred := 1 } [(.CAM_TRIG_SRC, 0, 0, n)]
      s.camRuns 0 = true ∧ s.num .CAM_TRIG_SRC 0 = n ∧ s.cams[(0 : Fin 12)].deferred = 0 + 1 ∧ s.cams[(0 : Fin 12)].pulse = false ∧ s.cams[(0 : Fin 12)].trigs.length < 16) ∧
    (let s := wCam { wPort 1 with opened := none } [(.CAM_TP_ENABLE, 0, 0, 1)]
     s.camRuns 0 = true ∧ s.flag .CAM_TP_ENABLE 0 = true ∧ s.cams[(0 : Fin 12)].openNow = none) ∧
    ((0x55555555#32).toNat ^^^ 0x55555555) ||| ((0xAAAAAAAA#32).toNat ^^^ 0xAAAAAAAA) ||| (0#32).toNat ||| ((0xFFFFFFFF#32).toNat ^^^ 0xFFFFFFFF) = 0 ∧
    ((0x55555555#32).toNat ^^^ 0x55555555) ||| ((0xAAAAAAAA#32).toNat ^^^ 0xAAAAAAAA) ||| (1#32).toNat ||| ((0xFFFFFFFF#32).toNat ^^^ 0xFFFFFFFF) ≠ 0 := by
  decide +kernel

/-- A device with the package of a FAST plan on port 0. -/
def wFast (c : CamPort) : State :=
  let s := wCam c [(.CAM_ENABLE, 0, 0, 1)]
  { s with cox := { s.cox with packages := wPkgs (wPkg [wPlan .fast]) } }

theorem witness_SwathClose :
    (let s := wCam (wPort 2) []
     s.cams[(0 : Fin 12)].opened = some (wSwath 2) ∧ (wSwath 2).lines = (wSwath 2).total ∧ s.od.waiting = [] ∧ s.fastPlan 0 = none) ∧
    (let s := wFast (wPort 2)
     s.cams[(0 : Fin 12)].opened = some (wSwath 2) ∧ s.od.waiting = [] ∧ s.fastPlan 0 = some (0, 0, wPkg [wPlan .fast], wPlan .fast) ∧ (wSwath 2).stopped = false ∧
      (wSwath 2).decided = false ∧ s.cox.stopReq = false ∧ s.dev.state.runs = true ∧ s.spoiled 0 (wSwath 2) = false ∧
      (s.cox.queue.filter (fun x => x.resume.isNone)).length < 128 ∧ s.flag .CAM_ENABLE 0 = true) := by decide +kernel

/-- The swath as closed, with planes and waiting for its list; and the swath before it, completed. -/
def wClosed : Swath := { wSwath 2 with fate := .waiting, planes := some [] }
def wPrev : Swath := { wSwath 2 with cnt := 4, first := ⟨⟨0, 0, 0⟩, 0, 0⟩, last := 10, fate := .completed, detections := some [], planes := some [], released := true }

theorem witness_SwathWork : 
    (let s := wCam { wPort 2 with opened := none, closed := [wSwath 2] } []
     s.cams[(0 : Fin 12)].toMangle = some (wSwath 2) ∧ wSwath 2 ∈ s.cams[(0 : Fin 12)].closed) ∧
    (let s := wCam { wPort 2 with opened := none, closed := [wClosed] } []
     s.cams[(0 : Fin 12)].toList = some wClosed ∧ wClosed ∈ s.cams[(0 : Fin 12)].closed ∧ s.fastPlan 0 = none ∧
      (s.cams[(0 : Fin 12)].swath? (wClosed.cnt - 1)).bind (carryList wClosed) = none ∧ wClosed.mgl.fallback = 0) ∧
    (let s := wCam { wPort 2 with opened := none, closed := [wClosed, wPrev] } []
     s.cams[(0 : Fin 12)].toList = some wClosed ∧ wClosed ∈ s.cams[(0 : Fin 12)].closed ∧ s.fastPlan 0 = none ∧
      (s.cams[(0 : Fin 12)].swath? (wClosed.cnt - 1)).bind (carryList wClosed) = some []) ∧
    (let s := wCam { wPort 2 with opened := none, closed := [wSwath 2] } []
     s.cams[(0 : Fin 12)].returnable = some (wSwath 2) ∧ (wSwath 2).statedDone = none ∧
      (s.cams[(0 : Fin 12)].firstDone && s.cams[(0 : Fin 12)].on && s.cams[(0 : Fin 12)].nextBuf.isNone && s.cams[(0 : Fin 12)].openNow.isNone) = false) := by
  decide +kernel

/-- What a burst of zeros decodes to with no bit, the last data bit, or two data bits in error (R185, R186). -/
theorem burst_zero : decodeBurst (0 ^^^ 0) (checkOf 0 ^^^ 0) = ⟨0, false, false⟩ ∧ decodeBurst (0 ^^^ 2 ^ 511) (checkOf 0 ^^^ 0) = ⟨0, true, false⟩ ∧
    (decodeBurst (0 ^^^ (1 + 2 ^ 511)) (checkOf 0 ^^^ 0)) = ⟨1 + 2 ^ 511, false, true⟩ := by decide +kernel

theorem decodeGroup_counts (g : Nat) (data : Bytes) (flips : List Nat) (x : Nat × Nat × Nat) (l : List (Nat × Nat × Nat))
    (h : (List.range 31).map (fun i => (fieldAt data (64 * i) 64, flipMask flips (512 * i) 512, flipMask flips (15872 + 16 * i) 16)) = x :: l)
    (hl : ∀ y ∈ l, y = (0, 0, 0)) : (decodeGroup g data flips).2 =
      ((([x].map (fun y => decodeBurst (y.1 ^^^ y.2.1) (checkOf y.1 ^^^ y.2.2))).filter (·.fixed)).length,
       (([x].map (fun y => decodeBurst (y.1 ^^^ y.2.1) (checkOf y.1 ^^^ y.2.2))).filter (·.bad)).length,
       decide (gtag g ^^^ flipMask flips (15872 + 496) 16 ≠ gtag g)) := by
  have e : (List.range 31).map (fun i => decodeBurst (fieldAt data (64 * i) 64 ^^^ flipMask flips (512 * i) 512)
      (checkOf (fieldAt data (64 * i) 64) ^^^ flipMask flips (15872 + 16 * i) 16)) =
      (x :: l).map (fun y => decodeBurst (y.1 ^^^ y.2.1) (checkOf y.1 ^^^ y.2.2)) := by rw [← h, List.map_map]; rfl
  have z : ∀ p : BurstOut → Bool, p ⟨0, false, false⟩ = false → (l.map (fun y => decodeBurst (y.1 ^^^ y.2.1) (checkOf y.1 ^^^ y.2.2))).filter p = [] := by
    intro p hp
    rw [List.filter_eq_nil_iff]
    intro b hb
    obtain ⟨y, hy, rfl⟩ := List.mem_map.1 hb
    rw [hl y hy, burst_zero.1, hp]
    decide
  have z1 := z (fun x => x.fixed) rfl
  have z2 := z (fun x => x.bad) rfl
  unfold decodeGroup
  simp only [e, List.map_cons, List.filter_cons, z1, z2, List.map_nil, List.filter_nil]

/-- The last group with one, two, or no wrong bits of its first burst, and with a wrong tag. -/
theorem witness_LpddrGroups : (wS .run).dev.state.live = true ∧ (67108863#32).toNat < (wS .run).groups ∧ (wS .run).num .MEM_SCRUB_PERIOD 0 ≠ 0 ∧
    (decodeGroup 67108863 ((wS .run).groupData 67108863) []).2 = (0, 0, false) ∧ (decodeGroup 67108863 ((wS .run).groupData 67108863) [511]).2 = (1, 0, false) ∧
    (decodeGroup 67108863 ((wS .run).groupData 67108863) [0, 511]).2 = (0, 1, false) ∧
    (decodeGroup 67108863 ((wS .run).groupData 67108863) [16383]).2 = (0, 0, true) := by
  refine ⟨by decide +kernel, by decide +kernel, by decide +kernel, ?_, ?_, ?_, ?_⟩
  · rw [decodeGroup_counts _ _ _ (0, 0, 0) (List.replicate 30 (0, 0, 0)) (by decide +kernel) (by decide)]
    simp only [List.map_cons, List.map_nil, burst_zero.1]; decide
  · rw [decodeGroup_counts _ _ _ (0, 2 ^ 511, 0) (List.replicate 30 (0, 0, 0)) (by decide +kernel) (by decide)]
    simp only [List.map_cons, List.map_nil, burst_zero.2.1]; decide
  · rw [decodeGroup_counts _ _ _ (0, 1 + 2 ^ 511, 0) (List.replicate 30 (0, 0, 0)) (by decide +kernel) (by decide)]
    simp only [List.map_cons, List.map_nil, burst_zero.2.2]; decide
  · rw [decodeGroup_counts _ _ _ (0, 0, 0) (List.replicate 30 (0, 0, 0)) (by decide +kernel) (by decide)]
    simp only [List.map_cons, List.map_nil, burst_zero.1]; decide

/-- A MATMUL stroke of INT8 with M = 1, N = 32, and K-blocks of 32. -/
def wMat (kblocks : Nat) : Bytes := leBytes 64 (1 * 2 ^ 32 + 32 * 2 ^ 56 + 32 * kblocks * 2 ^ 80)
def wMatHeat : Heat := wHeat .background (wPass 0 false)
def wMatPkg (kblocks : Nat) : Package := wPkgOf .background (wMat kblocks) []

/-- A packet of the heat's stroke 0, with its check, or with one bit of it wrong. -/
def wPacket (good : Bool) : Packet :=
  let v := 77 + 2 ^ 88
  let c := crc32c (leBytes 20 v ++ zeros 1024)
  ⟨BitVec.ofNat 192 (v + (if good then c else c ^^^ 1) * 2 ^ 160), zeros 1024, none⟩

/-- A tile of the tag of that packet, without operands. -/
def wTile : Tile := ⟨77, 0, 0, 0, [], [], 0⟩

/-- The device with shell 67 of crew 5 in a state. -/
def wShell (kblocks : Nat) (y : Shell) : State :=
  { wHot wMatHeat (wMatPkg kblocks) with
    units := { (wS .run).units with shells := [(5 * 68 + 67, y)] }, tu := { (wS .run).tu with mono := 100 } }

theorem witness_Shells_load : (wShell 1 Shell.init).AtPass 0 0 0 wMatHeat (wMatPkg 1) (wPass 0 false) (wMat 1) ∧ (0#32).toNat = 0 ∧
    (wShell 1 Shell.init).heatOf (wPacket true).serial = some (0, wMatHeat) ∧ (wPacket true).stroke = 0 ∧ (wPacket true).wset = 0 ∧
    (wShell 1 Shell.init).packetGood (wPacket true) = true ∧ (wShell 1 Shell.init).packetGood (wPacket false) = false ∧ (wPacket false).serial = 77 ∧
    (wShell 1 Shell.init).UnderLimit (.crew 5) ∧ ((wShell 1 Shell.init).shell 5 67).held = [] ∧
    ((wShell 1 Shell.init).shell 5 67).freeAt[(0 : Fin 2)] ≤ (wShell 1 Shell.init).shCycle 2 := by
  refine ⟨atPass_of ?_, ?_, ?_, ?_, ?_, ?_, ?_, ?_, ?_, ?_, ?_⟩
  case refine_9 => unfold State.UnderLimit; decide +kernel
  all_goals decide +kernel

theorem witness_Shells_wave :
    (((wShell 1 Shell.init).shell 5 67).refused.contains (77, 0) = false ∧ ((wShell 1 Shell.init).shell 5 67).bufs[(0 : Fin 2)] = none ∧
      (wShell 1 Shell.init).UnderLimit (.shell 5 67)) ∧
    (let s := wShell 1 { Shell.init with bufs := Shell.init.bufs.set 0 (some wTile) }
     let m := matStroke (wMat 1)
     let e := s.waveElems wMatHeat (wMatPkg 1) m (wPass 0 false) 0 63 (wPacket true).payload
     let sums := (List.range 32).map (fun j => colSum m (wavePairs e (wTile.cols.getD j [])) 0)
     s.heatPkg 0 = some (wMatHeat, wMatPkg 1) ∧ s.packetGood (wPacket true) = true ∧ (s.shell 5 67).held = [] ∧
      (s.shell 5 67).bufs[(0 : Fin 2)] = some wTile ∧ wTile.loaded < s.shCycle 0 ∧ wTile.serial = (wPacket true).serial ∧ wTile.stroke = (wPacket true).stroke ∧
      (sums.map (·.res)).sum % 65535 = waveCheck e wTile.check) := by
  refine ⟨⟨?_, ?_, ?_⟩, ?_⟩
  case refine_3 => unfold State.UnderLimit; decide +kernel
  all_goals decide +kernel

theorem load_acts {s : State} {crew p t : Nat} {x : HeldPacket} {k : Nat} {h : Heat} {g : Package} {ps : Pass} {b : Bytes} (ht : x.tile = true)
    (hf : ∀ i : Fin 2, (s.shell crew p).freeAt[i] ≤ t) (h1 : s.heatOf x.packet.serial = some (k, h)) (h2 : s.heatPkg k = some (h, g))
    (h3 : h.passOf x.packet.stroke x.pass = some ps) (h4 : h.strokeOf g x.packet.stroke = some b) :
    ∃ s1, s.shellTake crew p t x = .acted s1 ∧ s1.kernel = s.kernel := by
  unfold State.shellTake State.shellLoad
  simp only [ht, if_true, Nat.not_lt.2 (hf _), if_false, h1, h2, h3, h4]
  exact ⟨_, rfl, rfl⟩

/-- A held weight packet whose buffer is free. -/
def wHeld : HeldPacket := ⟨true, 0, 0, 0, wPacket true, none, false⟩
theorem witness_Shells_held : (let s := wShell 1 { Shell.init with held := [wHeld] }
    (s.shell 5 67).held = [wHeld] ∧ ∃ s1, s.shellTake 5 67 (s.shCycle 0) wHeld = .acted s1 ∧ s1.kernel = s.kernel) ∧
    ((wShell 1 Shell.init).shell 5 67).held = [] := by
  refine ⟨⟨?_, load_acts (k := 0) (h := wMatHeat) (g := wMatPkg 1) (ps := wPass 0 false) (b := wMat 1) ?_ ?_ ?_ ?_ ?_ ?_⟩, ?_⟩ <;> decide +kernel

/-- A row of the foot that is complete: 32 entries of zero. -/
def wFoot : FootRow := ⟨77, 0, 0, 1, List.replicate 32 FootEntry.zero⟩
theorem witness_Shells_readout : ∀ kb ∈ [1, 2], (let s := wShell kb { Shell.init with foot := [(63, wFoot)] }
    amGet? (s.shell 5 67).foot 63 = some wFoot ∧ s.heatOf wFoot.serial = some (0, wMatHeat) ∧ wFoot.blocks = (wPass 0 false).kbs ∧ wFoot.cols.length = 32 ∧
    (∀ e ∈ wFoot.cols, (matStroke (wMat kb)).isHalf = true ∨ rhoAt e.acc.acc (matStroke (wMat kb)).anchor = e.res) ∧
    (wPass 0 false).isPartial (matStroke (wMat kb)) = decide (kb = 2) ∧ 63 + 1 ≠ (wPass 0 false).rows) := by decide +kernel

/-- A device in RUN with a heat of one stroke and one pass: a tensor of 32 INT8 elements, and a stream that writes or reads it. -/
def wTd : TensorDesc := ⟨0, 0, 3, 0, [3, 2, 1, 0], 0, [1, 1, 1, 32], 0, 0, 0⟩
def wStream (write : Bool) : StreamDesc := ⟨write, 0, 0, false, false, 0, 0, [⟨0, 1, 1⟩, ⟨0, 1, 1⟩, ⟨0, 1, 1⟩, ⟨0, 32, 1⟩]⟩
def wEngPkg (b : Bytes) : Package := { wPkgOf .background b [wTd] with streams := [wStream true, wStream false] }
def wEng (b : Bytes) (x : Pass) : State := wHot (wHeat .background x) (wEngPkg b)

theorem witness_Engines_matrix :
    ((wEng (wMat 1) (wPass 1 true)).AtPass 0 0 0 (wHeat .background (wPass 1 true)) (wEngPkg (wMat 1)) (wPass 1 true) (wMat 1) ∧ strokeKind (wMat 1) ≤ 1 ∧
      (∃ g : Nat → List FootEntry, ∀ r < (wPass 1 true).rows, (wEng (wMat 1) (wPass 1 true)).foldRow (wHeat .background (wPass 1 true)) (matStroke (wMat 1)) (wPass 1 true) r
        (wEng (wMat 1) (wPass 1 true)).squad.arrived = (g r, true, (wEng (wMat 1) (wPass 1 true)).squad.arrived)) ∧
      (wPass 1 true).unitKind ≠ 0 ∧ (wEng (wMat 1) (wPass 1 true)).UnderLimit (.scull 0)) ∧
    ((wEng (wMat 1) (wPass 1 false)).AtPass 0 0 0 (wHeat .background (wPass 1 false)) (wEngPkg (wMat 1)) (wPass 1 false) (wMat 1) ∧ (wPass 1 false).unitKind = 1 ∧
      (wPass 1 false).isPartial (matStroke (wMat 1)) = false ∧ (wEng (wMat 1) (wPass 1 false)).UnderLimit (.scull 0)) := by
  refine ⟨⟨atPass_of ?_, ?_, ⟨fun _ => (List.range 32).map (fun _ => FootEntry.zero), ?_⟩, ?_, ?_⟩, atPass_of ?_, ?_, ?_, ?_⟩
  case refine_3 => intro r hr; obtain rfl : r = 0 := Nat.lt_one_iff.1 hr; decide +kernel
  all_goals first | decide +kernel | (unfold State.UnderLimit; decide +kernel)

/-- A SWEEP stroke, a CROP stroke, and a PRESS stroke. -/
def wSweep : Bytes := leBytes 64 (2 * 2 ^ 4)
def wOarOp (op : Nat) : Bytes := leBytes 64 (3 * 2 ^ 4 + op * 2 ^ 8)

theorem witness_Engines_others :
    ((wEng wSweep (wPass 2 false)).AtPass 0 0 0 (wHeat .background (wPass 2 false)) (wEngPkg wSweep) (wPass 2 false) wSweep ∧ strokeKind wSweep = 2 ∧
      ((wEng wSweep (wPass 2 false)).sweepAppend 0 (wHeat .background (wPass 2 false)) (wEngPkg wSweep) 0 (sweepStroke wSweep)).UnderLimit (.sweep 0)) ∧
    ((wEng (wOarOp 3) (wPass 3 false)).AtPass 0 0 0 (wHeat .background (wPass 3 false)) (wEngPkg (wOarOp 3)) (wPass 3 false) (wOarOp 3) ∧ strokeKind (wOarOp 3) = 3 ∧
      oarOp (wOarOp 3) = 3) ∧
    (let x := { wPass 3 false with rows := 2 }
     (wEng (wOarOp 4) x).AtPass 0 0 0 (wHeat .background x) (wEngPkg (wOarOp 4)) x (wOarOp 4) ∧ strokeKind (wOarOp 4) = 3 ∧ oarOp (wOarOp 4) = 4 ∧
      (wEngPkg (wOarOp 4)).td ((oarInputs (wOarOp 4)).headD 0) = some wTd ∧ (wTd.pressCoords 0 0).isEmpty = false ∧ 0 + 1 ≠ x.m0 + x.rows) ∧
    (wEngPkg wSweep).streams[(0#16).toNat]? = some (wStream true) ∧ (wEngPkg wSweep).streams[(1#16).toNat]? = some (wStream false) ∧ (wEngPkg wSweep).td 0 = some wTd ∧
    ((wStream true).coords wTd).isEmpty = false ∧ ((wStream false).coords wTd).isEmpty = false := by
  refine ⟨⟨atPass_of ?_, ?_, ?_⟩, ⟨atPass_of ?_, ?_, ?_⟩, ⟨atPass_of ?_, ?_, ?_, ?_, ?_, ?_⟩, ?_⟩
  all_goals first | decide +kernel | (unfold State.UnderLimit; decide +kernel)

/-- A heat whose pass has ended, and one whose strokes are complete; a heat that waits to be saved with another, or alone; and one to restore. -/
def wDone (h : Heat) : State := wEng (wMat 1) (wPass 0 false) |> fun s => { s with cox := { s.cox with heats := [(0, h)] } }
def wH : Heat := wHeat .background (wPass 0 false)
def wMove (save : Bool) (two : Bool) (check : Nat) : State :=
  let s := wDone { wH with state := if save then .saving else .restoring, sections := if save then [] else [⟨3, 0, 0, check, [(1, [7#8])]⟩], toSave := [0, 1], toRestore := [0] }
  { s with cox := { s.cox with transfer := true, saves := if save then (if two then [(0, 0), (0, 1)] else [(0, 0)]) else [], restores := if save then [] else [(0, 0)] } }

theorem witness_Heats_stroke : (let h := { wH with passesDone := [(0, 0)] }
      let s := wDone h
      s.heatPkg 0 = some (h, wEngPkg (wMat 1)) ∧ h.strokeOf (wEngPkg (wMat 1)) 0 = some (wMat 1) ∧ h.strokesDone.contains 0 = false ∧ h.started = true ∧ h.strokeReady 0 = true) ∧
    (let h := { wH with passesDone := [(0, 0)], strokesDone := [0] }
     let s := wDone h
     s.heatPkg 0 = some (h, wEngPkg (wMat 1)) ∧ h.completes = true ∧ h.spanStart = none ∧ s.fabNow + (0 : Fin 6).val = h.statedDone ∧
      (s.complete_ 0 h (wEngPkg (wMat 1)) []).crewsShort = false ∧ h.req.kind = .background ∧ h.tensors = [] ∧ h.replay = false) ∧
    (amGet? (wDone wH).cox.heats 0 = some wH ∧ wH.imageDone = false ∧
      (((((wDone wH).lint .SAF_OVERTIME).endInvalid 0 .overtime none).event 6 []).crewsShort = true → (wDone wH).crewsShort = true)) := by decide +kernel

theorem witness_Heats_move : (∀ two ∈ [true, false], let s := wMove true two 0
      s.cox.transfer = true ∧ (∃ rest, s.cox.saves = (0, 0) :: rest ∧ rest.any (fun x => x.1 == 0) = two) ∧ (amGet? s.cox.heats 0).isSome = true) ∧
    (∀ c ∈ [(crc32c [7#8], true), (0, false)], let s := wMove false false c.1
      s.cox.transfer = true ∧ s.cox.saves = [] ∧ s.cox.restores = [(0, (0 : Fin 6).val)] ∧ ∃ h sec, amGet? s.cox.heats 0 = some h ∧
        h.sectionAt ((h.crews.findIdx? (· == 0)).getD 0) = some sec ∧ decide (crc32c (sec.blocks.flatMap (·.2)) = sec.check) = c.2) := by
  constructor
  · simp only [List.forall_mem_cons, List.not_mem_nil, false_imp_iff, implies_true, and_true]
    refine ⟨⟨rfl, ⟨_, rfl, ?_⟩, ?_⟩, rfl, ⟨_, rfl, ?_⟩, ?_⟩ <;> decide +kernel
  · simp only [List.forall_mem_cons, List.not_mem_nil, false_imp_iff, implies_true, and_true]
    refine ⟨⟨rfl, rfl, rfl, _, _, rfl, rfl, ?_⟩, rfl, rfl, rfl, _, _, rfl, rfl, ?_⟩ <;> decide +kernel

theorem witness_Rota : (wS .inert).dev.state.active = false ∧ (wS .armed).dev.state.active = true ∧ (wS .armed).periodBoundary.crewsShort = false ∧
    (let s := { wS .armed with cox := { (wS .armed).cox with period := 100 } }
     s.dev.state.active = true ∧ s.periodBoundary.crewsShort = false ∧ s.cox.heats = [] ∧ s.od.waiting = [] ∧ s.cox.saves = [] ∧ s.cox.restores = [] ∧ s.cox.admitting = false ∧
      s.cox.stopReq = false ∧ s.inSwatch (s.cox.period + 2) = false ∧ s.inRinse (s.cox.period + 1) = false) ∧
    amGet? (wS .run).cox.settling (5 : Fin 6) = none ∧
    amGet? ({ wS .run with cox := { (wS .run).cox with settling := [(5, 1000)] } } : State).cox.settling (5 : Fin 6) = some 1000 := by decide +kernel

/-- A device in a state whose rinse runs a slice, which expects a swath, and in which every slice is overdue. -/
def wSaf (d : DevState) : State :=
  let s := wCam { wPort 2 with opened := none, closed := [wSwath 2] } []
  { s with
    dev := { s.dev with state := d }, saf := { s.saf with running := [.crew 5 11], expected := [(0, 5)] }, tu := { s.tu with mono := 400000 * 100 + 1 }
    cox := { s.cox with period := 100 } }

theorem witness_Supervision_slices :
    ((wSaf .armed).saf.running.contains (.crew 5 11) = true ∧ (Slice.crew 5 11).num < 75 ∧ ((wSaf .armed).dev.state.active && (wSaf .armed).inRinse (wSaf .armed).cox.period) = false) ∧
    ((wSaf .armed).dev.state = .armed ∧ (wSaf .armed).inRinse (wSaf .armed).cox.period = false ∧
      (wSet (wSaf .armed) [(.SAF_ACTION, 0, 1, 0)]).numAt .SAF_ACTION 0 1 = 0 ∧ (wSet (wSaf .armed) [(.SAF_ACTION, 0, 1, 0)]).saf.running.contains (.crew 5 11) = true) ∧
    ((wS .armed).supervised.contains (.crew 5 11) && (wS .armed).overdue (.crew 5 11)) = false ∧
    ((wSaf .armed).supervised.contains (.crew 5 11) = true ∧ (wSaf .armed).overdue (.crew 5 11) = true ∧ (wSaf .armed).numAt .SAF_ACTION 0 0 = 1 ∧
      (((wSaf .armed).lint .SAF_RINSE_OVERDUE).event 1 [.crew 5]).crewsShort = false) := by decide +kernel

theorem witness_Supervision_others : (wSaf .armed).saf.expected.contains ((11 : Fin 12).val, (5#64).toNat) = false ∧
    ((wSaf .armed).saf.expected.contains ((0 : Fin 12).val, (5#64).toNat) = true ∧ (wSaf .armed).swath? 0 5 = some (wSwath 2) ∧
      (((((wSaf .armed).swathHeatless 0 (wSwath 2) .late .supervisor).swathDecided 0 5).lint .SAF_SWATH_WD).event 8 []).crewsShort = false) ∧
    ((wSaf .armed).cams[(11 : Fin 12)].opened = none ∧ (wSaf .armed).swath? 11 5 = none ∧ (wSaf .armed).dev.state = .armed ∧ (wSaf .armed).numAt .SAF_ACTION 0 10 = 0) ∧
    ((wSaf .inert).dev.state = .inert ∧ (wSaf .inert).dev.arming = none ∧ (wSaf .inert).numAt .SAF_ACTION 0 11 = 2) ∧ (wS .boot).dev.state = .boot := by decide +kernel

/-- A package with a RETUNE section whose plans 1 and 2 decode and step, in a device of any state; partition 0 asks for heats. -/
def wRtPkg : Package := { wPkg [wPlan .fast, wPlan .retune, wPlan .retune] with retune := some (leBytes 64 (1 * 2 ^ 8 + 2 * 2 ^ 14)) }
def wRt (d : DevState) (r : Retune) (heats : AMap Heat) : State :=
  let s := wSet (wS d) [(.RT_ENABLE, 0, 0, 1)]
  { s with cox := { s.cox with packages := wPkgs wRtPkg, heats := heats }, retune := s.retune.set 0 r }
def wSample : Bytes := leBytes 4 1 ++ leBytes 4 1 ++ leBytes 4 (crc32c [9#8]) ++ zeros 4 ++ [9#8]

theorem witness_Retuning_requests :
    ((wRt .run Retune.init []).rtPkg (0 : Fin 8).val = some (0, wRtPkg, rtSec (leBytes 64 (1 * 2 ^ 8 + 2 * 2 ^ 14))) ∧ WSegMay (wRt .run Retune.init []) .RT_ADD 0 wSample ∧
      wSample.length ≤ Ent.RT_ADD.row.maxLen ∧ (let v := fieldAt wSample 0 16
        16 ≤ wSample.length ∧ bits v 3 0 = 1 ∧ bits v 7 4 ≤ 1 ∧ bits v 15 8 = 0 ∧ bits v 31 16 ≠ 0xFFFF ∧ 1 ≤ bits v 63 32 ∧ bits v 63 32 ≤ 16777216 ∧ bits v 127 96 = 0 ∧
        (wSample.drop 16).length = bits v 63 32 ∧ crc32c (wSample.drop 16) = bits v 95 64) ∧
      ((wRt .run Retune.init []).rt 0).samples.length < (rtSec (leBytes 64 (1 * 2 ^ 8 + 2 * 2 ^ 14))).store) ∧
    (WMay (wRt .run { Retune.init with samples := [⟨true, 0, 0, []⟩] } []) .RT_REMOVE 0 0 ∧
      0 < ((wRt .run { Retune.init with samples := [⟨true, 0, 0, []⟩] } []).rt 0).samples.length) ∧
    WMay (wRt .run Retune.init []) .RT_PUBLISH 0 1 ∧ WMay (wRt .run Retune.init []) .RT_RESTART 0 1 ∧ (wRt .run Retune.init []).rtHeat 0 = false ∧
    ((wRt .run Retune.init []).rtRestart 0 0).crewsShort = false ∧
    (WMay (wRt .run Retune.init [(0, wHeat .retune (wPass 0 false))]) .RT_RESTART 0 1 ∧ (wRt .run Retune.init [(0, wHeat .retune (wPass 0 false))]).rtHeat 0 = true) := by
  refine ⟨⟨rfl, wSegMay_of ?_, ?_, ?_, ?_⟩, ⟨may_of ?_, ?_⟩, may_of ?_, may_of ?_, ?_, ?_, ⟨may_of ?_, ?_⟩⟩ <;> decide +kernel

theorem witness_Retuning_service : (let s := wRt .run Retune.init []
      s.rtPkg 0 = some (0, wRtPkg, rtSec (leBytes 64 (1 * 2 ^ 8 + 2 * 2 ^ 14))) ∧ s.rtAsks 0 = true ∧ s.planOpen 0 1 = false ∧ s.planOpen 0 2 = false ∧
      (rtSec (leBytes 64 (1 * 2 ^ 8 + 2 * 2 ^ 14))).decodePlan = 1 ∧ (rtSec (leBytes 64 (1 * 2 ^ 8 + 2 * 2 ^ 14))).stepPlan = 2 ∧
      (s.rt 0).ring.length < s.num .RT_RUNAHEAD 0 ∧ s.cox.queue = [] ∧ (s.rt 0).holding = false) ∧
    (let s := wRt .run { Retune.init with ring := [⟨0, [], true⟩] } []
     s.rtAsks 0 = true ∧ s.planOpen 0 2 = false ∧ ∃ b ∈ (s.rt 0).ring, b.num = (s.rt 0).steps ∧ b.complete = true) ∧
    (let s := wRt .run { Retune.init with holding := true } []
     (s.rt 0).holding = true ∧ s.copyRead 0 (((s.rt 0).generation + 1) % 2) = false ∧ s.pkg? 0 = some wRtPkg) := by
  refine ⟨⟨rfl, ?_⟩, ⟨?_, ?_, ⟨0, [], true⟩, List.mem_singleton.2 rfl, ?_, ?_⟩, ?_⟩ <;> decide +kernel

/-- The header of a container without sections, and a device in INERT that has a package loaded. -/
def wBox : Bytes := leBytes 4 0x5052485A ++ [0x11#8] ++ zeros 3 ++ leBytes 8 32 ++ zeros 16
def wLoaded (d : DevState) (p : Package) : State := { wS d with cox := { (wS d).cox with packages := wPkgs p } }

/-- What a container loads as rests on its signature, which the model leaves free (`Config.pssVerify`): `loadCheck` stands here as a hypothesis. -/
theorem witness_Packages_load (p : Package) (h : (wS .inert).loadCheck wBox = .inr p) :
    WSegMay (wS .inert) .RP_LOAD 0 wBox ∧ wBox.length ≤ (wS .inert).maxLen .RP_LOAD ∧ (wS .inert).loadAssembly (some 0) none = false ∧ (wS .inert).dev.state = .inert ∧
    headerOk wBox = true ∧ (wS .inert).squadPart (containerPart wBox) = false ∧ (∀ j : Fin 16, (wS .inert).cox.packages[j] = none) ∧ (wS .inert).freeSlot = some 0 ∧
    (wS .inert).loadCheck wBox = .inr p := by
  refine ⟨wSegMay_of ?_, ?_, ?_, ?_, ?_, ?_, ?_, ?_, h⟩ <;> decide +kernel

theorem witness_Packages_again : (allFin 16).find? (fun i => match (wLoaded .inert { wPkg [] with digest := sha512Bytes wBox }).cox.packages[i] with
      | some p => p.digest == sha512Bytes wBox | none => false) = some 0 := by
  have h : allFin 16 = 0 :: (allFin 16).tail := by decide
  rw [h]
  exact List.find?_cons_of_pos (beq_self_eq_true (sha512Bytes wBox))

theorem witness_Packages : (WMay (wLoaded .inert (wPkg [])) .RP_UNLOAD 0 0 ∧ (wLoaded .inert (wPkg [])).cox.packages[(0 : Fin 16)] = some (wPkg []) ∧
      (wLoaded .inert (wPkg [])).squadPart (wPkg []).partition = false) ∧
    (let s := wLoaded .run (wPkg [wPlan .background])
     WMay s .COX_BG_REQUEST 0 0 ∧ bits 0 15 10 = 0 ∧ s.planOf (bits 0 3 0) (bits 0 9 4) = some (wPkg [wPlan .background], wPlan .background) ∧ s.dev.state.runs = true ∧
      s.cox.stopReq = false ∧ s.cox.queue = []) := by
  refine ⟨⟨may_of ?_, ?_, ?_⟩, may_of ?_, ?_, ?_, ?_, ?_, ?_⟩ <;> decide +kernel

/-- A device that replays partition 0: a package with a SECOND_LOOK plan, its recipe, and a STATE tensor. -/
def wRecipe : Bytes := leBytes 1 1 ++ zeros 95
def wSlPkg : Package := { wPkg [wPlan .secondLook] with tensors := [{ wTd with kind := 4 }], recipe := [wRecipe] }
def wReplay (d : DevState) : State := wSet (wLoaded d wSlPkg) [(.DET_REPLAY_ENABLE, 0, 0, 1)]
def wSeq : Bytes := leBytes 4 0x21 ++ leBytes 4 288 ++ zeros 280
def wImg : Bytes := zeros 48 ++ leBytes 2 1 ++ leBytes 2 8 ++ leBytes 4 (crc32c (zeros 8)) ++ zeros 8 ++ leBytes 4 (1 + 11 * 16) ++ zeros 12 ++ zeros 8
def wImgState : State :=
  let s := wSet (wReplay .run) [(.CAM_LINE_WIDTH, 11, 0, 8), (.CAM_SWATH_LINES, 11, 0, 1)]
  { s with cams := s.cams.set 11 { CamPort.init with free := [3] } }

theorem witness_Determinism : (WSegMay (wS .inert) .DET_GEN_IN 0 (zeros 36) ∧ (zeros 36).length = 36 ∧ fieldAt (zeros 36) 24 1 < 16) ∧
    (WSegMay (wReplay .armed) .DET_REPLAY_STATE 0 (zeros 36) ∧ (zeros 36).length ≤ Ent.DET_REPLAY_STATE.row.maxLen ∧ (wReplay .armed).flag .DET_REPLAY_ENABLE 0 = true ∧
      (wReplay .armed).dev.state = .armed ∧ (wReplay .armed).stateTensor 0 (fieldAt (zeros 36) 0 2) = some (0, 32) ∧ fieldAt (zeros 36) 2 2 = 0 ∧
      ((wReplay .armed).setState 0 0 (zeros 32)).crewsShort = false) ∧
    (WSegMay (wReplay .run) .DET_REPLAY_SEQ 0 wSeq ∧ wSeq.length ≤ Ent.DET_REPLAY_SEQ.row.maxLen ∧ (wReplay .run).flag .DET_REPLAY_ENABLE 0 = true ∧ fieldAt wSeq 4 4 = 288 ∧
      fieldAt wSeq 0 1 % 256 = 0x21 ∧ bits (fieldAt wSeq 256 32) 16 8 = 0 ∧ (wSeq.drop 288).length = (match wSlPkg.td 0 with | some t => t.size | none => 0) / 1024 ∧
      crc32c (wSeq.drop 288) = fieldAt wSeq 88 4 ∧ crc32c (slice wSeq 288 0) = bits (fieldAt wSeq 256 32) 63 32 ∧ ((wReplay .run).kvPart 0).queue.length < 1024 ∧
      ((wReplay .run).setState 0 0 (putBytes (fit (wSlPkg.stateOf 0) 0) 0 (wSeq.drop 288))).crewsShort = false) := by
  refine ⟨⟨wSegMay_of ?_, ?_, ?_⟩, ⟨wSegMay_of ?_, ?_, ?_, ?_, ?_, ?_, ?_⟩, ⟨wSegMay_of ?_, ?_, ?_, ?_, ?_, ?_, ?_, ?_, ?_, ?_, ?_⟩⟩ <;> decide +kernel

theorem witness_Determinism_recipe : (wReplay .run).slPlan 0 = some (0, wSlPkg, 0, wPlan .secondLook, slRecipe wRecipe) ∧ (slRecipe wRecipe).tdCrops = 0 := ⟨rfl, rfl⟩

theorem witness_Determinism_swath : WSegMay wImgState .DET_REPLAY_SWATH 0 wImg ∧ wImg.length ≤ Ent.DET_REPLAY_SWATH.row.maxLen ∧ wImgState.flag .DET_REPLAY_ENABLE 0 = true ∧
    wImgState.dev.state.runs = true ∧ wImgState.cox.stopReq = false ∧ replayHeader wImg = some ((11 : Fin 12).val, 0, 0) ∧ sampleDepth (wImgState.num .CAM_PACKING 11) = 8 ∧
    (wImgState.num .PART_CAM_MASK 0).testBit 11 = true ∧ bits (fieldAt wImg 0 64) 415 400 = wImgState.num .CAM_LINE_WIDTH 11 ∧ bits (fieldAt wImg 0 64) 399 384 = wImgState.camL 11 ∧
    (wImg.drop 80).length = wImgState.camL 11 * wImgState.camW 11 * 1 ∧ crc32c (wImg.drop 80) = bits (fieldAt wImg 0 64) 447 416 ∧ wImgState.cams[(11 : Fin 12)].free = 3 :: [] ∧
    wImgState.fastPlan 11 = none := by
  refine ⟨wSegMay_of ?_, ?_⟩ <;> decide +kernel

/-- A device whose SECOND_LOOK step has ended, alone, or following the stroke seat 3. -/
def wStep (o : StepOutcome) (follows : Bool) : State :=
  let s := wLoaded .run wSlPkg
  { s with
    cox := { s.cox with stepEnds := [⟨.secondLook, 0, o, none⟩] }
    squad := if follows then { s.squad with state := .formed, stroke := some 3, members := 9 } else s.squad }

theorem witness_Pages_recipe : (wS .run).slPlan 7 = none ∧ (wStep .done false).slPlan 0 = some (0, wSlPkg, 0, wPlan .secondLook, slRecipe wRecipe) ∧
    (wStep .done true).slPlan 0 = some (0, wSlPkg, 0, wPlan .secondLook, slRecipe wRecipe) := ⟨rfl, rfl, rfl⟩

theorem witness_Pages_boundary : 
    ((wStep .done false).cox.stepEnds.find? (fun e => decide (e.kind = .secondLook) && e.partition == 0) = some ⟨.secondLook, 0, .done, none⟩ ∧ (wStep .done false).kvFollows = false ∧
      ((({ wStep .done false with cox := { (wStep .done false).cox with stepEnds := [] } } : State).boundary 0 0 wSlPkg 0 (wPlan .secondLook) (slRecipe wRecipe) (some .done) none).crewsShort
        = false)) ∧
    (∀ o ∈ [StepOutcome.done, .late], (wStep o true).cox.stepEnds.find? (fun e => decide (e.kind = .secondLook) && e.partition == 0) = some ⟨.secondLook, 0, o, none⟩ ∧
      (wStep o true).kvFollows = true ∧ (wStep o true).squad.stroke = some 3) ∧
    ((wReplay .run).cox.stepEnds = [] ∧ (wReplay .run).stepOpen 0 = false ∧ (wReplay .run).kvFollows = false ∧ (wReplay .run).dev.state.active = true ∧
      ((wReplay .run).boundary 0 0 wSlPkg 0 (wPlan .secondLook) (slRecipe wRecipe) none none).crewsShort = false) := by decide +kernel

/-- A partition with the entry 4 queued, or joined in slot 0. -/
def wEntry : KvEntry := ⟨4, 0, 0, 0, 0, 0, 5, 0, 0, 0, none, false, []⟩
def wKv (k : KvPart) : State := { wReplay .run with kv := (wReplay .run).kv.set 7 k }
def wJoined : KvSeq := ⟨wEntry, 0, true, 0, [], 0, [], 0, [], false, false⟩

theorem witness_Pages_requests :
    (WMay (wKv { KvPart.init with queue := [wEntry] }) .KV_CANCEL 7 4 ∧ ((wKv { KvPart.init with queue := [wEntry] }).kvPart 7).queue.find? (fun y => y.id == 4) = some wEntry) ∧
    (WMay (wKv { KvPart.init with seqs := [(0, wJoined)] }) .KV_CANCEL 7 4 ∧ ((wKv { KvPart.init with seqs := [(0, wJoined)] }).kvPart 7).queue.find? (fun y => y.id == 4) = none ∧
      ((wKv { KvPart.init with seqs := [(0, wJoined)] }).kvPart 7).seqs.find? (fun z => z.2.entry.id == 4 && !z.2.cancelled) = some (0, wJoined)) ∧
    WMay (wReplay .run) .KV_TREE_FLUSH 7 1 := by
  refine ⟨⟨may_of ?_, ?_⟩, ⟨may_of ?_, ?_, ?_⟩, may_of ?_⟩ <;> decide +kernel

/-- Port 7 of a device in RUN is the given port. -/
def wNl (c : NlPort) : State := { wS .run with squad := { (wS .run).squad with ports := (wS .run).squad.ports.set 7 c } }
def wNlIn (st : NlState) : NlPort := { NlPort.init with state := st }

theorem witness_LinkPower_states : (∀ st ∈ [NlState.detect, .rack, .easy, .up, .align, .deskew, .handshake, .equalize, .failed, .retrain, .test],
      settledB (wNl (wNlIn st)) = true ∧ (wNl (wNlIn st)).squad.ports[(7 : Fin 8)] = wNlIn st ∧ (wNlIn st).state = st ∧ (wNlIn st).replay = [] ∧ (wNlIn st).waiting = [] ∧
      (wNlIn st).nak = none ∧ (wNlIn st).unacked = 0 ∧ (wNl (wNlIn st)).squad.spans = []) ∧
    (wNl (wNlIn .up)).num .NL_EASY_IDLE 7 ≠ 0 ∧ (wSet (wNl (wNlIn .up)) [(.NL_EASY_IDLE, 7, 0, 0)]).num .NL_EASY_IDLE 7 = 0 ∧
    ((wNlIn .align).inAlign = true ∧ (wNlIn .deskew).inDeskew = true ∧ (wNlIn .deskew).allLanes (·.commaSeen) = false ∧ (wNlIn .handshake).inHandshake = true) ∧
    (wSet (wNl (wNlIn .failed)) [(.NL_ENABLE, 7, 0, 1)]).flag .NL_ENABLE 7 = true := by decide +kernel

theorem witness_LinkPower_requests : (WMay (wNl (wNlIn .easy)) .NL_POWER_CMD 7 1 ∧ (wNl (wNlIn .easy)).onRoute 7 = false) ∧ WMay (wNl (wNlIn .rack)) .NL_POWER_CMD 7 2 := by
  refine ⟨⟨may_of ?_, ?_⟩, may_of ?_⟩ <;> decide +kernel

/-- A port whose lanes but lane 3 are trained as far as `x` says, and whose lane 3 is `y`. -/
def wLanes (st : NlState) (sub : Nat) (skip : Bool) (x y : NlLane) : NlPort :=
  { wNlIn st with sub := sub, skipEq := skip, lanes := (Vector.replicate 4 x).set 3 y }
def wLane : NlLane := { NlLane.init with aligned := true, commaSeen := true }

/-- Lane 3 has seen one comma; a second one 65 block times later aligns it, and one later does not. -/
theorem witness_LinkTraining_align : ∀ c ∈ [(NlState.retrain, false), (.align, true), (.align, false)],
    (let q := wLanes c.1 0 c.2 wLane { NlLane.init with commas := 1 }
     settledB (wNl q) = true ∧ (wNl q).squad.ports[(7 : Fin 8)] = q ∧ q.inAlign = true ∧ q.state = c.1 ∧ q.skipEq = c.2) := by decide +kernel

/-- The second COMMA of lane 3 aligns the last lane; one at the wrong place does not. -/
theorem witness_LinkTraining_aligned : ∀ st ∈ [NlState.retrain, .align], ∀ n ∈ [1, 2],
    (((wNl (wLanes st 0 false wLane { NlLane.init with commas := 1 })).modLane 7 3 (fun x => { x with blockErrs := 0 })).modLane 7 3 (fun x => { x with
      commas := n, inverted := false, aligned := x.aligned || decide (2 ≤ n), rx := laneSeed 3 })).squad.ports[(7 : Fin 8)].allLanes (·.aligned) = decide (n = 2) := by
  decide +kernel

/-- The last lane's comma of DESKEW, with lanes in order, reversed, mixed up, or with another lane missing. -/
def wMap (f : Nat → Nat) (seen : Bool) : NlPort :=
  { wNlIn .deskew with lanes := Vector.ofFn (fun i => { wLane with laneNo := some (f i.val), commaSeen := i.val ≠ 3 && (i.val ≠ 0 || seen) }) }
theorem witness_LinkTraining_deskew : 16000 < (16001#32).toNat ∧ (16000#32).toNat ≤ 16000 ∧
    (∀ c ∈ [(wMap id true, true, some false), (wMap (3 - ·) true, true, some true), (wMap (fun _ => 0) true, true, none), (wMap id false, false, some false)],
      c.1.inDeskew = true ∧ (let u := ((wNl c.1).modLane 7 3 (fun x => { x with blockErrs := 0 })).modLane 7 3 (fun x => { x with commaSeen := true, inverted := false, rx := laneSeed 3 })
        u.squad.ports[(7 : Fin 8)].allLanes (·.commaSeen) = c.2.1 ∧ u.squad.ports[(7 : Fin 8)].laneMap = c.2.2)) ∧
    ((wNlIn .up).inAlign = false ∧ (wNlIn .up).inDeskew = false) := by decide +kernel

/-- TRAIN blocks of each phase, one with a preset, one with coefficients, one with neither. -/
def wTrain (phase preset cm1 cp1 ver : Nat) : BitVec 128 := BitVec.ofNat 128 (0x1E + phase * 2 ^ 19 + preset * 2 ^ 22 + cm1 * 2 ^ 26 + cp1 * 2 ^ 30 + ver * 2 ^ 43)
theorem witness_LinkTraining_train : (0#128).toNat % 256 ≠ 0x1E ∧ (wTrain 1 10 0 0 1).toNat % 256 = 0x1E ∧
    ((readTrain (wTrain 1 10 0 0 1).toNat).phase = 1 ∧ preset (readTrain (wTrain 1 10 0 0 1).toNat).preset = some (6, 6)) ∧
    ((readTrain (wTrain 1 15 8 12 1).toNat).preset = 0xF ∧ tapsOk (readTrain (wTrain 1 15 8 12 1).toNat).cm1 (readTrain (wTrain 1 15 8 12 1).toNat).cp1 = true) ∧
    (preset (readTrain (wTrain 1 15 8 13 1).toNat).preset = none ∧ tapsOk (readTrain (wTrain 1 15 8 13 1).toNat).cm1 (readTrain (wTrain 1 15 8 13 1).toNat).cp1 = false) ∧
    (readTrain (wTrain 2 0 0 0 1).toNat).phase = 2 ∧ (readTrain (wTrain 3 0 0 0 1).toNat).phase = 3 ∧ (readTrain (wTrain 3 0 0 0 0).toNat).verMax = 0 ∧
    (∀ c ∈ [(NlState.handshake, 0), (.retrain, 2)], ∀ far ∈ [true, false],
      let q := wLanes c.1 c.2 false { wLane with farDone := far } wLane
      let w := (wNl q).modLane 7 3 (fun x => { x with farDone := true })
      q.inHandshake = true ∧ w.squad.ports[(7 : Fin 8)].inHandshake = true ∧ w.squad.ports[(7 : Fin 8)].allLanes (·.farDone) = far) ∧
    (readTrain (wTrain 3 0 0 0 1).toNat).embedded = (wNl (wNlIn .handshake)).nlEmbedded 7 ∧
    (wSet (wNl (wNlIn .handshake)) [(.NL_CLK_MODE, 7, 0, 1)]).nlEmbedded 7 ≠ (readTrain (wTrain 3 0 0 0 1).toNat).embedded ∧
    (wNl (wNlIn .handshake)).flag .CLK_REFCLK_SSC 0 = false := by decide +kernel

/-- A lane of a port in EQUALIZE at each stage, its setting applied. -/
theorem witness_LinkTraining_equalize : (∀ st ∈ [EqStage.saved, .preset 0, .preset 9, .preset 10, .trial 0, .trial 3, .final],
      let q := wLanes .equalize 0 false wLane { wLane with stage := st, applied := true }
      (wNl q).squad.ports[(7 : Fin 8)].lanes[(3 : Fin 4)] = { wLane with stage := st, applied := true } ∧ q.state = .equalize) ∧ preset (9 + 1) = some (6, 6) ∧ preset (10 + 1) = none ∧
    (wNl (wNlIn .equalize)).num .NL_FOM_MIN 7 ≠ 0 ∧ figureOfMerit 0 0 < (wNl (wNlIn .equalize)).num .NL_FOM_MIN 7 ∧
    (wNl (wNlIn .equalize)).num .NL_FOM_MIN 7 ≤ figureOfMerit 65535 65535 ∧ wLane.applied = false := by decide +kernel

theorem witness_LinkTraining_missing : (∀ n ∈ [0, 1], (let q := wLanes .up 0 false wLane { wLane with missed := n }
    q.state = .up ∧ q.farRack = false ∧ q.easyRx = false ∧ q.lanes[(3 : Fin 4)].missed = n)) ∧ ({ wNlIn .up with farRack := true } : NlPort).farRack = true := by decide +kernel

/-- A cell with a type, a number and an acknowledgement, as blocks of four lanes. -/
def wCell (good : Bool) (ty seq ack : Nat) (valid : Bool) : Bytes :=
  let b := leBytes 12 (1 + ty * 2 ^ 4 + b2n valid * 2 ^ 20 + seq * 2 ^ 24 + ack * 2 ^ 48) ++ zeros 496
  b ++ leBytes 4 (crc32 b ^^^ b2n (!good))
def wBlocks (b : Bytes) : List (List RxBlock) := (List.range 4).map (fun l => (List.range 8).map (fun t => ⟨true, false, leNat (slice b (16 * (4 * t + l)) 16)⟩))

theorem witness_LinkCells_errors : (wNlIn .up).state = .up ∧ (wNlIn .detect).state ≠ .up ∧ (wNlIn .detect).state ≠ .easy ∧
    (∃ x ∈ ((wNlIn .up).cellBytes (List.replicate 4 (List.replicate 8 ⟨true, true, 0⟩))).2, 8 ≤ x.2.1) ∧ (∀ x ∈ ((wNlIn .up).cellBytes (wBlocks (zeros 512))).2, x.2.1 < 8) ∧
    (readCell ((wNlIn .up).cellBytes (wBlocks (zeros 512))).1).good = false := by decide +kernel

theorem witness_LinkCells_good : ∀ c ∈ [(3, 0, true), (4, 0, false), (2, 0, true), (1, 2 ^ 24 - 1, false), (1, 5, false)],
    let r := readCell ((wNlIn .up).cellBytes (wBlocks (wCell true c.1 c.2.1 0 c.2.2))).1
    r.good = true ∧ r.cell.ty = c.1 ∧ r.seq = c.2.1 ∧ r.ackValid = c.2.2 ∧ (∀ x ∈ ((wNlIn .up).cellBytes (wBlocks (wCell true c.1 c.2.1 0 c.2.2))).2, x.2.1 < 8) := by decide +kernel

/-- Number 0 is the one a new port expects; 2^24 - 1 is a duplicate, and 5 leaves a gap. The sixteenth cell without an acknowledgement asks for one. -/
theorem witness_LinkCells_numbers : (wNlIn .up).expect = 0 ∧ (wNlIn .up).unacked + 1 < 16 ∧ ({ wNlIn .up with unacked := 15 } : NlPort).unacked + 1 = 16 ∧
    (2 ^ 24 - 1 ≠ 0 ∧ (0 + 2 ^ 24 - (2 ^ 24 - 1)) % 2 ^ 24 ≤ 2 ^ 23) ∧ (5 ≠ 0 ∧ 2 ^ 23 < (0 + 2 ^ 24 - 5) % 2 ^ 24) := by decide

/-- A port with a cell to replay, for the first time or the last time before its limit. -/
def wReplayPort (n : Nat) (st : NlState) : NlPort := { wNlIn st with replay := [(9, ⟨1, 0, 0, true, true, []⟩)], replayFrom := some 9, replayCount := n, unacked := 1 }
theorem witness_LinkCells_replay : (∀ n ∈ [0, 7], (wReplayPort n .up).replay = (9, ⟨1, 0, 0, true, true, []⟩) :: [] ∧ (wReplayPort n .up).easyTx = false ∧
      (decide (n + 1 < (wNl (wReplayPort n .up)).num .NL_REPLAY_LIMIT 7)) = decide (n = 0)) ∧ (wNlIn .up).replay = [] ∧ 0 < (wReplayPort 0 .up).unacked ∧
    (wReplayPort 0 .easy).state = .easy ∧ (wNlIn .up).unacked = 0 := by decide +kernel

theorem witness_LinkTests : (∀ st ∈ [NlState.test, .up], settledB (wNl (wNlIn st)) = true ∧ (wNl (wNlIn st)).squad.ports[(7 : Fin 8)] = wNlIn st) ∧
    WMay (wNl (wNlIn .test)) .NL_INJECT 7 (15 + 16) ∧ WMay (wNl (wNlIn .up)) .NL_INJECT 7 (15 + 16) ∧ WMay (wNl (wNlIn .test)) .NL_INJECT 7 (15 + 32) ∧
    WMay (wNl (wNlIn .test)) .NL_INJECT 7 15 ∧ (wNl (wNlIn .test)).num .NL_TEST_MODE 7 ≠ 4 ∧
    (wSet (wNl (wNlIn .test)) [(.NL_TEST_MODE, 7, 0, 4)]).num .NL_TEST_MODE 7 = 4 := by
  refine ⟨?_, may_of ?_, may_of ?_, may_of ?_, may_of ?_, ?_, ?_⟩ <;> decide +kernel

/-- A member of a squad whose time comes from the stroke seat 3 by port 7; an exchange of that port with its response. -/
def wMember (c : NlPort) : State :=
  let s := wSet (wNl c) [(.SQD_ENABLE, 0, 0, 1), (.SQD_SEAT, 0, 0, 5)]
  { s with squad := { s.squad with state := .formed, stroke := some 3, members := 2 ^ 3 + 2 ^ 5, routes := [(3, (2 ^ 7, 2 ^ 7, 2 ^ 7, 1))] } }
def wExch : NlPort := { wNlIn .up with exch := some (6, 1000) }

theorem witness_LinkTime : (wS .run).Settled ∧ (wS .run).timeParent = none ∧ (∀ st ∈ [NlState.up, .detect],
      (wMember (wNlIn st)).timeParent = some 7 ∧ (((wMember (wNlIn st)).dropExch 7).easyLeave 7).squad.ports[(7 : Fin 8)].sends = decide (st = .up)) ∧
    (fieldAt (zeros 36) 0 1 ≠ 1 ∧ fieldAt (1#8 :: zeros 35) 0 1 = 1) ∧
    (wNlIn .up).exch = none ∧ (wMember wExch).squad.ports[(7 : Fin 8)].exch = some (6, 1000) ∧
    (let b : Bytes := [0x11#8, 0, 6, 0] ++ zeros 32
     fieldAt b 0 1 = 0x11 ∧ fieldAt b 2 2 = 6 ∧ fieldAt (zeros 36) 0 1 ≠ 0x11 ∧ (wMember wExch).squad.ports[(7 : Fin 8)].disturbed = false ∧
      (wMember { wExch with disturbed := true }).squad.ports[(7 : Fin 8)].disturbed = true ∧ capture (wMember wExch).netTime 0 - 1000 ≤ 10000 * 65536 ∧
      (wMember wExch).timeParent = some 7 ∧ (wNl wExch).timeParent ≠ some 7 ∧
      (let u := (wMember wExch).modPort 7 (fun c => { c with exch := none, delay := (((timeAt b 8).to16 - 1000) + (capture (wMember wExch).netTime 0 - (timeAt b 22).to16)) / 2
                                                             offset := (((timeAt b 8).to16 - 1000) - (capture (wMember wExch).netTime 0 - (timeAt b 22).to16)) / 2 -
                                                               halfAsym ((wMember wExch).sint .NL_TIME_ASYM 7) })
       (u.measure u.squad.ports[(7 : Fin 8)].offset).crewsShort = false)) := by
  refine ⟨settled_of ?_, ?_⟩ <;> decide +kernel

/-- A device whose time unit is in a state. -/
def wTime (st : TsState) (d : DevState) (action : Nat) : State :=
  let s := wSet (wS d) [(.SAF_ACTION, 0, 9, action)]
  { s with tu := { s.tu with state := st } }

theorem witness_NetworkTime_states : (∀ st ∈ [TsState.free, .acquiring, .locked, .lost, .holdover], (wTime st .run 0).tu.state = st ∧ settledB (wTime st .run 0) = true) ∧
    (wTime .holdover .boot 0).dev.state = .boot ∧ (∀ a ∈ [0, 1, 2], (wTime .holdover .run a).dev.state.active = true ∧ (wTime .holdover .run a).dev.arming = none ∧
      (wTime .holdover .run a).numAt .SAF_ACTION 0 9 = a) := by decide +kernel

/-- A value of TS_SET: 1000 s and 999,999,999 ns. -/
def wNow : Bytes := leBytes 8 1000 ++ leBytes 4 999999999
theorem witness_NetworkTime_set : WSegMay (wS .inert) .TS_SET 0 wNow ∧ wNow.length = Ent.TS_SET.row.maxLen ∧ fieldAt wNow 8 4 ≤ 999999999 ∧ (wS .inert).num .TS_SOURCE 0 = 0 := by
  refine ⟨wSegMay_of ?_, ?_, ?_, ?_⟩ <;> decide +kernel

/-- A frame of an Ethertype to an address. -/
def wEth (dst etype : Nat) (b : Bytes) : Bytes := beBytes 6 dst ++ beBytes 6 1 ++ beBytes 2 etype ++ b

/-- A device whose port 1 runs gPTP as a port of a state, with its link up. -/
def wPtp (st : Nat) : State :=
  let s := wSet (wS .run) [(.PTP_ENABLE, 1, 0, 1), (.FNET_IPV4, 1, 0, 0x0A000001)]
  { s with fnet := { s.fnet with ports := s.fnet.ports.set 1 { s.fnet.ports[1] with linkUp := true, rate := 2, ptpState := st } } }

/-- What gPTP makes of a message is free (`Config.gptp`); the hypotheses on what the device and the message hold are met here. -/
theorem witness_NetworkTime_ptp : (let s := wPtp 1
      let f := wEth gptpAddr 0x88F7 (zeros 34)
      s.fnet.ports[(1 : Fin 2)].on = true ∧ s.accepts 1 f = true ∧ (ethFrame f).etype = 0x88F7 ∧ s.flag .PTP_ENABLE 1 = true ∧ fieldAt (ethFrame f).payload 4 1 = s.num .PTP_DOMAIN 0 ∧
        34 ≤ (ethFrame f).payload.length) ∧
    ((wS .run).flag .PTP_ENABLE 1 = false ∧ (wS .run).accepts 1 (wEth gptpAddr 0x88F7 (zeros 34)) = true) ∧
    (∀ st ∈ [0, 1], let s := wPtp st
      s.fnet.ports[(1 : Fin 2)].on = true ∧ s.flag .PTP_ENABLE 1 = true ∧ s.fnet.ports[(1 : Fin 2)].linkUp = true ∧ (s.ptpSettings 1).flag .PTP_ENABLE 1 = true ∧
        ((s.ptpSettings 1).readStamps 1).fnet.ports[(1 : Fin 2)].ptpState = st) := by decide +kernel

/-- An ARP request, and an ICMP echo request, for the address of port 1; a frame for nobody here. -/
def wArp : Bytes := wEth bcastAddr 0x0806 (beBytes 8 0x0001080006040001 ++ beBytes 6 1 ++ beBytes 4 0x0A000002 ++ zeros 6 ++ beBytes 4 0x0A000001)
def wIcmp : Bytes := wEth bcastAddr 0x0800 (ipv4Bytes 0x40000000#32 0x0A000002 0x0A000001 1 [8#8, 0, 0xF7, 0xFF])

theorem witness_FieldNetwork_frames : State.reset.fnet.ports[(1 : Fin 2)].on = false ∧ (wPtp 0).fnet.ports[(1 : Fin 2)].on = true ∧ (wPtp 0).accepts 1 (wEth 77 0x0806 []) = false ∧
    ((wPtp 0).accepts 1 wArp = true ∧ (ethFrame wArp).etype = 0x0806 ∧ beNat (slice (ethFrame wArp).payload 0 8) = 0x0001080006040001) ∧
    ((wPtp 0).accepts 1 wIcmp = true ∧ (ethFrame wIcmp).etype = 0x0800 ∧ (wPtp 0).ipv4 1 (ethFrame wIcmp).payload = some (1, 0x0A000002, [8#8, 0, 0xF7, 0xFF])) := by decide +kernel

/-- Port 1 with a frame in queue 2, without gates, behind a gate that is shut, or behind one whose windows are too short for it. -/
def wTx (g : Option GateList) (ev : Option (Nat × Nat × Nat)) (n : Nat) : State :=
  let s := if g.isSome then wSet (wPtp 0) [(.QBV_ENABLE, 1, 0, 1)] else wPtp 0
  { s with fnet := { s.fnet with ports := s.fnet.ports.set 1 { s.fnet.ports[1] with
      gate := g, nextGate := some (n, ⟨0, 1000, []⟩), queues := s.fnet.ports[1].queues.set 2 [⟨zeros 60, ev⟩] } } }

theorem witness_FieldNetwork_gates : (∀ n ∈ [0, 1], (wTx none none n).fnet.ports[(1 : Fin 2)].nextGate = some (n, ⟨0, 1000, []⟩) ∧
      decide (n ≤ (wTx none none n).nowNs) = decide (n = 0)) ∧
    (∀ c ∈ [(none, TxChoice.send), (some (⟨0, 1000, [(4, 1), (0, 999)]⟩ : GateList), .discard), (some ⟨0, 1000000, [(0, 100000), (4, 900000)]⟩, .wait)],
      (wTx c.1 none 0).fnet.ports[(1 : Fin 2)].on = true ∧ (wTx c.1 none 0).fnet.ports[(1 : Fin 2)].linkUp = true ∧ (wTx c.1 none 0).txChoice 1 3 = .wait ∧
      (wTx c.1 none 0).fnet.ports[(1 : Fin 2)].queues[(2 : Fin 4)] = ⟨zeros 60, none⟩ :: [] ∧ (wTx c.1 none 0).txChoice 1 2 = c.2) ∧
    ((wTx none (some (0, 0, 5)) 0).txChoice 1 2 = .send ∧ (wTx none (some (0, 0, 5)) 0).fnet.ports[(1 : Fin 2)].txq.length < 16) ∧
    (∀ k : Fin 4, (wPtp 0).txChoice 1 k = .wait) := by decide +kernel

theorem witness_FieldNetwork_stamps : (let s := wTx none (some (0, 0, 5)) 0
    let u : State := { s with fnet := { s.fnet with ports := s.fnet.ports.set 1 { s.fnet.ports[1] with txq := List.replicate 16 ⟨0, 0, 0, false, ⟨0, 0, 0⟩⟩ } } }
    u.txChoice 1 2 = .send ∧ u.txChoice 1 3 = .wait ∧ 16 ≤ u.fnet.ports[(1 : Fin 2)].txq.length) := by decide +kernel

/-- Seat `me` of a squad of two, wired as a pair on port 7, in a state of the squad and of the device. -/
def wHello (seat : Nat) : HelloInfo := ⟨1, seat, 1, 1, 2, 2 ^ 7, 0, 9, 0, 0⟩
def wSqd (d : DevState) (q : SqdState) (me stroke : Nat) : State :=
  let s := wSet (wS d) [(.SQD_ENABLE, 0, 0, 1), (.SQD_SEAT, 0, 0, me), (.SQD_SIZE, 0, 0, 2), (.SQD_SHAPE, 0, 0, 1)]
  { s with squad := { s.squad with state := q, stroke := some stroke, members := 3, epoch := 8, acks := 2, topo := [(0, [⟨7, 1, 7⟩])], hellos := [(1 - me, wHello (1 - me))] } }

theorem witness_SquadForms_topology : (∀ q ∈ [SqdState.none, .forming, .formed, .broken, .failed], settledB (wSqd .inert q 1 0) = true ∧ (wSqd .inert q 1 0).squad.state = q) ∧
    (let old := amGet? (wSqd .inert .formed 1 0).squad.topo (0 : Fin 32).val
     old = some [⟨7, 1, 7⟩] ∧ some ((old.getD []).filter [(⟨7, 1, 7⟩ : TopoLink)].contains) = old ∧ some ((old.getD []).filter ([] : List TopoLink).contains) ≠ old ∧
      old ≠ some [⟨7, 1, 6⟩] ∧ (0 : Fin 32).val ≠ (wSqd .inert .forming 1 0).seat ∧ (1 : Fin 32).val = (wSqd .inert .forming 1 0).seat) := by decide +kernel

theorem witness_SquadForms_form : leastOf (seatsOf (3#32).toNat) = some 0 ∧
    ((2#32).toNat.testBit (wSqd .inert .forming 0 0).seat = false ∧ (3#32).toNat.testBit (wSqd .inert .forming 1 0).seat = true) ∧
    ((wSqd .inert .formed 1 0).squad.state = .formed ∧ (9#32).toNat ≠ (wSqd .inert .formed 1 0).squad.epoch ∧ (8#32).toNat = (wSqd .inert .formed 1 0).squad.epoch) ∧
    ((((wSqd .inert .forming 1 0).takeCtrl 0 3).modSquad (fun q => { q with members := 3, version := 1, epoch := 8, stroke := some 0 })).setRoutes []).formCheck false = none ∧
    ((((wSqd .inert .forming 1 1).takeCtrl 0 3).modSquad (fun q => { q with members := 3, version := 1, epoch := 8, stroke := some 0, dup := some 4 })).setRoutes []).formCheck false =
      some (2, 4, 0) := by decide +kernel

theorem witness_SquadForms_acks : (wSqd .inert .forming 1 0).isStroke = false ∧ (wSqd .inert .forming 0 0).isStroke = true ∧ (8#32).toNat = (wSqd .inert .forming 0 0).squad.epoch ∧
    (wSqd .inert .forming 0 0).squad.acks.testBit 1 = true ∧ clearMask (wSqd .inert .forming 0 0).squad.acks (2 ^ 1) = 0 ∧ (wSqd .inert .formed 0 0).squad.state ≠ .forming := by decide +kernel

theorem witness_SquadForms_members : (wSqd .run .formed 0 0).squad.members.testBit 1 = true ∧ (1 : Fin 32).val ≠ (wSqd .run .formed 0 0).seat ∧ (wSqd .run .formed 0 0).squad.load = none ∧
    (wSqd .run .formed 0 0).squad.lost.testBit 1 = false ∧ (∀ a ∈ [0, 1], (wSet (wSqd .run .formed 0 0) [(.SQD_LOSS_ACTION, 0, 0, a)]).num .SQD_LOSS_ACTION 0 = a) ∧
    (wSet (wSqd .run .formed 0 0) [(.SQD_LOSS_ACTION, 0, 0, 1)]).Guarded := by
  refine ⟨?_, ?_, ?_, ?_, ?_, guarded_of ?_ ?_ ?_⟩ <;> decide +kernel

theorem witness_SquadWork_member : (∀ d ∈ [DevState.inert, .armed, .run, .safe], settledB (wSqd d .formed 1 0) = true ∧ (wSqd d .formed 1 0).squad.stroke = some 0 ∧
      0 ≠ (wSqd d .formed 1 0).seat ∧ (wSqd d .formed 1 0).squad.members.testBit 0 = true ∧ (wSqd d .formed 1 0).transition = false ∧ (wSqd d .formed 1 0).squad.load = none ∧
      (wSqd d .formed 1 0).kvFollows = true ∧ (((wSqd d .formed 1 0).takeCtrl 0 0xC).unload 15).crewsShort = false) ∧
    (DevState.safe.allows (4#8).toNat = false ∧ DevState.inert.allows 3 = false) ∧ (wSqd .run .broken 1 0).kvFollows = false ∧
    (((wSqd .inert .formed 1 0).takeCtrl 0 0xC).loadAt (some 15) []).1.crewsShort = false := by decide +kernel

/-- The stroke seat 0 with a command or a load under way, whose last answer is to come from seat 1, asked for by a request of session 0. -/
def wAsk (code failed : Nat) (more : Bool) : State :=
  let s := wSqd .armed .formed 0 0
  { s with
    squad := { s.squad with
      cmd := some ⟨code, if more then 6 else 2, if failed = 0 then [] else [(0, failed, 0)], 0, .session 0 11⟩ }
    od := { s.od with sessions := s.od.sessions.set 0 (some { wx with executing := some wReq }) } }
def wAskLoad (more : Bool) : State :=
  let s := wSqd .inert .formed 0 0
  { s with
    squad := { s.squad with load := some ⟨0, if more then 6 else 2, 1, [], .session 0 11⟩ }
    od := { s.od with sessions := s.od.sessions.set 0 (some { wx with executing := some wReq }) } }

theorem witness_SquadWork_answers : (wSqd .run .formed 0 0).Settled ∧ (∀ m ∈ [true, false], ∀ f ∈ [0, 6],
      (wAsk 3 f m).idleWork = none ∧ (wAsk 3 f m).squad.cmd = some ⟨3, if m then 6 else 2, if f = 0 then [] else [(0, f, 0)], 0, .session 0 wReq.env.reqId.toNat⟩ ∧
      (if m then 6 else 2 : Nat).testBit 1 = true ∧ decide (clearMask (if m then 6 else 2) (2 ^ 1) = 0) = !m ∧
      (wAsk 3 f m).session? 0 = some { wx with executing := some wReq } ∧
      (⟨3, 0, if f = 0 then [] else [(0, f, 0)], 2, .session 0 11⟩ : SqdCmd).fault = (if f = 0 then none else some (0, 6, 0))) ∧
    (∀ m ∈ [true, false], settledB (wAskLoad m) = true ∧ (wAskLoad m).squad.load = some ⟨0, if m then 6 else 2, 1, [], .session 0 wReq.env.reqId.toNat⟩ ∧
      (wAskLoad m).session? 0 = some { wx with executing := some wReq }) := by
  refine ⟨settled_of ?_, ?_, ?_⟩ <;> decide +kernel

/-- A seat that follows, in a work period, with a part of a spanning heat that is due; and the stroke seat that waits for one to end. -/
def wSpan (x : Span) : State :=
  let s := wSqd .run .formed 1 0
  { s with squad := { s.squad with spans := [x] }, cox := { s.cox with packages := wPkgs (wPkg [wPlan .background]), period := 100 } }
def wPart : Span := ⟨77, 0, 0, 0, 2, false, false, []⟩

theorem witness_SquadWork_spans : ((wSpan wPart).Settled ∧ (wSpan wPart).span? 77 = some wPart ∧ (wSpan wPart).span? 76 = none ∧ (wSpan wPart).follows = some 0 ∧ wPart.begun = false ∧
      (wSpan wPart).dev.state.runs = true ∧ (wSpan wPart).isWork (wSpan wPart).cox.period = true ∧ wPart.start ≤ (wSpan wPart).nowNs ∧
      (wSpan wPart).planOf wPart.slot wPart.plan = some (wPkg [wPlan .background], wPlan .background) ∧
      1 ≤ (sortNat ((((wSpan wPart).usable 0 (wPlan .background)).filter (fun c => (wSpan wPart).freeCrew [] c 100 100)).take 1)).length ∧ (wSpan wPart).freeEntry < 64) ∧
    (wSpan { wPart with begun := true }).span? 77 = some { wPart with begun := true } := by
  refine ⟨⟨settled_of ?_, ?_, ?_, ?_, ?_, ?_, ?_, ?_, ?_, ?_, ?_⟩, ?_⟩ <;> decide +kernel

def wEnds (d : DevState) (h : Heat) (x : Span) : State :=
  let s := wSqd d .formed 0 0
  { s with squad := { s.squad with spans := [x] }, cox := { s.cox with packages := wPkgs (wPkg [wPlan .background]), heats := [(0, h)] } }

theorem witness_SquadWork_done : (wSqd .run .formed 1 0).isStroke = false ∧ (∀ i ∈ [true, false], let s := wEnds .run wH { wPart with invalid := i }
      settledB s = true ∧ s.isStroke = true ∧
      (let u := (s.takeCtrl 1 9).modSquad (fun q => { q with spans := q.spans.map (fun x =>
          if x.serial = (77#64).toNat then { x with waiting := clearMask x.waiting (2 ^ 1), invalid := x.invalid || false } else x) })
       u.span? 77 = some { wPart with waiting := 0, invalid := i } ∧ u.heatOf 77 = some (0, wH) ∧ s.heatPkg 0 = some (wH, wPkg [wPlan .background]) ∧ wH.req.kind = .background ∧
        ((u.modSquad (fun q => { q with spans := q.spans.filter (fun y => y.serial != 77) })).heatOutputs 0 wH (wPkg [wPlan .background])).crewsShort = false)) := by decide +kernel

/-- A KERNEL stroke of 512 slivers; a tensor of its heat is placed at the start of the scratch memory. -/
def wKernel : Bytes := leBytes 64 (3 * 2 ^ 4)
def wKHeat : Heat := { wHeat .background (wPass 3 false) with image := ⟨1, 1, [], [], [], [wPass 3 false], [], [], [(0, 0, 0x10000000)]⟩, crews := [5] }

/-- Sliver `i` of that heat, with values in x5 and x6, at pc 0. -/
def wSliver (i a b : Nat) : Oar :=
  ⟨77, 0, 0, i, 0, ((Vector.replicate 32 0).set 5 (BitVec.ofNat 32 a)).set 6 (BitVec.ofNat 32 b), Vector.replicate 32 0, 0, 0, 0, none, .none, [], [], [], [], 0⟩

/-- Oar 511 of crew 5 runs a sliver whose next instruction is `w`; other oars of the crew run others. -/
def wOar (o : Oar) (w : Nat) (others : AMap Oar) : State :=
  let s := wHot wKHeat (wPkgOf .background wKernel [wTd])
  { s with
    units := { s.units with oars := others ++ [(5 * 512 + 511, o)] }
    mem := { s.mem with oarLocal := [(5 * 512 + 511, memWriteN [] 0 (leBytes 4 w))] } }

theorem oarAt_of {s : State} {c : Fin 6} {l : Fin 512} {o : Oar} {w n : Nat} {k : OarKind}
    (h : (decide (s.oar? c l = some o) && o.ready && decide (s.oarFetch c l o = some (w, n)) && decide (kindOf w = k)) = true) : s.OarAt c l o w n k := by
  simp only [Bool.and_eq_true, decide_eq_true_eq] at h
  exact ⟨h.1.1.1, h.1.1.2, h.1.2, h.2⟩

/-- An instruction of custom-0 with rd = x1, rs1 = x5, rs2 = x6 (R276). -/
def wSlv (f3 f7 : Nat) : Nat := 0x0B + 1 * 2 ^ 7 + f3 * 2 ^ 12 + 5 * 2 ^ 15 + 6 * 2 ^ 20 + f7 * 2 ^ 25

theorem witness_OarRegisters : ∀ c ∈ [(0x000010B7, OarKind.base), (0x00001097, .base), (0x008000EF, .base), (0x000280E7, .base), (0x00000463, .base), (0x00500093, .base),
      (0x023100B3, .base), (wSlv 3 0, .pminu), (wSlv 3 1, .pmaxu), (wSlv 3 2, .paddus), (wSlv 3 3, .psubus), (wSlv 3 4, .pcmpgeu), (wSlv 3 5, .psad), (wSlv 4 0, .fcvtSBf),
      (wSlv 4 1, .fcvtBfS), (wSlv 4 2, .fcvtSHf), (wSlv 4 3, .fcvtHfS), (0x002290F3, .frmWrite), (0x003290F3, .frmWrite)],
    (wOar (wSliver 0 0 0) c.1 []).OarAt 5 511 (wSliver 0 0 0) c.1 4 c.2 := by
  simp only [List.forall_mem_cons, List.not_mem_nil, false_imp_iff, implies_true, and_true]
  refine ⟨oarAt_of ?_, oarAt_of ?_, oarAt_of ?_, oarAt_of ?_, oarAt_of ?_, oarAt_of ?_, oarAt_of ?_, oarAt_of ?_, oarAt_of ?_, oarAt_of ?_, oarAt_of ?_, oarAt_of ?_, oarAt_of ?_,
    oarAt_of ?_, oarAt_of ?_, oarAt_of ?_, oarAt_of ?_, oarAt_of ?_, oarAt_of ?_⟩ <;> decide +kernel

theorem witness_OarRegisters_fields : [0x000010B7, 0x00001097, 0x008000EF, 0x000280E7, 0x00000463, 0x00500093, 0x023100B3].map opOf = [0x37, 0x17, 0x6F, 0x67, 0x63, 0x13, 0x33] ∧
    f3Of 0x00000463 = 0 ∧ f3Of 0x00500093 = 0 ∧ f3Of 0x023100B3 = 0 ∧ f7Of 0x023100B3 = 1 ∧ csrOf 0x002290F3 = 2 ∧ csrOf 0x003290F3 = 3 ∧ csrWrites 0x003290F3 = true := by decide

/-- A load and a store of a local word, of the last local byte's word, of a word of the tensor, misaligned, and without a place. -/
theorem witness_OarMemory : (∀ w ∈ [0x0002A083, 0x0062A023], (wOar (wSliver 0 4 0) w []).oar? 5 511 = some (wSliver 0 4 0) ∧
      (wOar (wSliver 0 4 0) w []).oarFetch 5 511 (wSliver 0 4 0) = some (w, 4) ∧ kindOf w = .loadStore ∧ (opOf w == 0x23 || opOf w == 0x27) = decide (w = 0x0062A023) ∧
      immI 0x0002A083 = 0 ∧ immS 0x0062A023 = 0 ∧ accessSize (f3Of w) = 4 ∧ (∀ c ∈ [(0, some (OarPlace.local_ 0)), (0x37FC, some (.local_ 0x37FC)),
        (0x10000000, some (.tensor 0 0)), (0x40000000, none), (0xFFFFFFFC, none)], (wOar (wSliver 0 c.1 0) w []).oarPlace 5 (wSliver 0 c.1 0) c.1 4 = c.2)) ∧ 0x37FE % 4 ≠ 0 ∧
    (wOar (wSliver 0 0 0) 0x0002A083 []).heatOf 77 = some (0, wKHeat) ∧ (wSliver 0 0 0).access = none := by decide +kernel

theorem witness_OarMemory_limit : (wOar (wSliver 0 0x37FE 0) 0x0002A083 []).UnderLimit (.oar 5 (((wOar (wSliver 0 0x37FE 0) 0x0002A083 []).crew 5).oar 511)) := by
  unfold State.UnderLimit; decide +kernel

theorem witness_OarMemory_blocks : (∀ c ∈ [(wSlv 0 0, OarKind.slvGet), (wSlv 0 1, .slvPut)], (wOar (wSliver 0 0x10000000 64) c.1 []).OarAt 5 511 (wSliver 0 0x10000000 64) c.1 4 c.2 ∧
      (wOar (wSliver 0 128 64) c.1 []).OarAt 5 511 (wSliver 0 128 64) c.1 4 c.2 ∧ (wOar (wSliver 0 1 64) c.1 []).OarAt 5 511 (wSliver 0 1 64) c.1 4 c.2) := by
  simp only [List.forall_mem_cons, List.not_mem_nil, false_imp_iff, implies_true, and_true]
  refine ⟨⟨oarAt_of ?_, oarAt_of ?_, oarAt_of ?_⟩, oarAt_of ?_, oarAt_of ?_, oarAt_of ?_⟩ <;> decide +kernel

theorem witness_OarMemory_places : (let s := wOar (wSliver 0 0x10000000 64) (wSlv 0 0) []
    s.oarPlace 5 (wSliver 0 0x10000000 64) 0x10000000 64 = some (.tensor 0 0) ∧ s.oarPlace 5 (wSliver 0 0x10000000 64) 64 64 = some (.local_ 64) ∧
    s.oarPlace 5 (wSliver 0 0x10000000 64) 128 64 = some (.local_ 128) ∧ rs1Of (wSlv 0 0) = 5 ∧ rs2Of (wSlv 0 1) = 6 ∧ (wSliver 0 0x10000000 64).rx 5 = 0x10000000 ∧
    (wSliver 0 1 64).rx 5 % 64 ≠ 0) := by decide +kernel

/-- An access of the tensor, of a place that is gone, and one behind an older access of the same bank. -/
def wAccess (a : Nat) (st : Option Bytes) (q : Option Nat) (t : Nat) : OarAccess := ⟨a, 4, st, 1, true, false, q, 4, t⟩
theorem witness_OarMemory_return : (∀ c ∈ [wAccess 0x10000000 (some (zeros 4)) none 0, wAccess 0x10000000 none none 0, wAccess 0x10000000 none (some 64) 0],
      let o := { wSliver 0 0 0 with access := some c }
      (wOar o 0 []).oar? 5 511 = some o ∧ o.access = some c ∧ (wOar o 0 []).servedBefore 5 511 c = false ∧ (wOar o 0 []).oarPlace 5 o c.addr c.size = some (.tensor 0 0) ∧
        ((wOar o 0 []).oarWrite 5 511 o (.tensor 0 0) (zeros 4)).crewsShort = false) ∧
    (let o := { wSliver 0 0 0 with access := some (wAccess 0x40000000 none none 9) }
     (wOar o 0 []).oarPlace 5 o 0x40000000 4 = none ∧ (wOar o 0 []).servedBefore 5 511 (wAccess 0x40000000 none none 9) = false) ∧
    (let o := { wSliver 0 0 0 with access := some (wAccess 0x10000000 none none 9) }
     (wOar o 0 [(5 * 512 + 510, { wSliver 1 0 0 with access := some (wAccess 0x10000000 none none 3) })]).servedBefore 5 511 (wAccess 0x10000000 none none 9) = true) := by
  decide +kernel

/-- Sliver 1 on oar 511 with sliver 0 on oar 510, whose inbox from the right holds `k` records. -/
def wPair (o : Oar) (w k : Nat) : State := wOar o w [(5 * 512 + 510, { wSliver 0 0 0 with fromRight := List.replicate k (zeros 64) })]

theorem witness_OarNeighbours_send : (wPair (wSliver 1 64 0) (wSlv 1 0) 4).OarAt 5 511 (wSliver 1 64 0) (wSlv 1 0) 4 .slvSend ∧
    (wPair (wSliver 1 64 2) (wSlv 1 0) 4).OarAt 5 511 (wSliver 1 64 2) (wSlv 1 0) 4 .slvSend ∧
    ((∀ k ∈ [3, 4], (wPair (wSliver 1 64 0) (wSlv 1 0) k).inboxFull (wSliver 1 64 0) ((wSliver 1 64 0).rx (rs2Of (wSlv 1 0)) == 1) = decide (k = 4)) ∧
      (wPair (wSliver 1 64 0) (wSlv 1 0) 3).neighbour (wSliver 1 64 0) false = some 0 ∧ (wPair (wSliver 0 64 0) (wSlv 1 0) 3).neighbour (wSliver 0 64 0) false = none ∧
      (wPair (wSliver 0 64 0) (wSlv 1 0) 3).inboxFull (wSliver 0 64 0) false = false ∧
      (((wPair (wSliver 1 64 0) (wSlv 1 0) 3).setOar 5 511 (some ((wSliver 1 64 0).retire 4))).sliverOar (wSliver 1 64 0) 0).isSome = true ∧
      (wPair (wSliver 1 64 0) (wSlv 1 0) 3).oarPlace 5 (wSliver 1 64 0) 64 64 = some (.local_ 64)) ∧
    (∀ k ∈ [3, 4], let o := { wSliver 1 64 0 with wait := .send false (zeros 64) 4 }
      (wPair o 0 k).oar? 5 511 = some o ∧ o.wait = .send false (zeros 64) 4 ∧ (wPair o 0 k).inboxFull o false = decide (k = 4)) := by
  refine ⟨oarAt_of ?_, oarAt_of ?_, ?_, ?_⟩ <;> decide +kernel

theorem witness_OarNeighbours_receive : (∀ i ∈ [0, 1], (wPair (wSliver i 0x37C0 0) (wSlv 1 1) 0).oar? 5 511 = some (wSliver i 0x37C0 0) ∧
      (wPair (wSliver i 0x37C0 0) (wSlv 1 1) 0).oarFetch 5 511 (wSliver i 0x37C0 0) = some (wSlv 1 1, 4) ∧ (wSliver i 0x37C0 0).ready = true ∧ kindOf (wSlv 1 1) = .slvRecv ∧
      (wSliver i 0x37C0 0).rx (rs2Of (wSlv 1 1)) = 0 ∧ (wSliver i 0x37C0 0).rx (rs1Of (wSlv 1 1)) = 0x37C0 ∧ 0x37C0 % 64 = 0 ∧ 0x37C0 + 64 ≤ 0x3800 ∧
      (wPair (wSliver i 0x37C0 0) (wSlv 1 1) 0).neighbour (wSliver i 0x37C0 0) false = (if i = 0 then none else some 0)) ∧
    (∀ w ∈ [OarWait.none, .recv false 64 1 4], let o := { wSliver 1 64 0 with fromLeft := [zeros 64], wait := w }
      (wPair o 0 0).oar? 5 511 = some o ∧ o.wait = w ∧ (if false then o.fromRight else o.fromLeft) = zeros 64 :: []) := by decide +kernel

/-- Sliver 0 of a stroke of one sliver (SPAN 64), or of two of which the other has not come so far, waits at a barrier. -/
def wBar (span : Nat) : State :=
  let s := wHot wKHeat (wPkgOf .background (leBytes 64 (3 * 2 ^ 4 + span * 2 ^ 160)) [wTd])
  { s with units := { s.units with oars := [(5 * 512 + 510, { wSliver 1 0 0 with bars := 0 }), (5 * 512 + 511, { wSliver 0 0 0 with wait := .bar 4, bars := 1 })] } }
theorem witness_OarNeighbours_barrier : (wOar (wSliver 0 0 0) (wSlv 2 0) []).OarAt 5 511 (wSliver 0 0 0) (wSlv 2 0) 4 .slvBar ∧
    (∀ n ∈ [64, 128], (wBar n).oar? 5 511 = some { wSliver 0 0 0 with wait := .bar 4, bars := 1 } ∧
      (wBar n).oarStroke { wSliver 0 0 0 with wait := .bar 4, bars := 1 } = some (0, wKHeat, wPkgOf .background (leBytes 64 (3 * 2 ^ 4 + n * 2 ^ 160)) [wTd], leBytes 64 (3 * 2 ^ 4 + n * 2 ^ 160)) ∧
      sliverCount (leBytes 64 (3 * 2 ^ 4 + n * 2 ^ 160)) = n / 64) ∧
    ((wBar 64).sliverOar (wSliver 0 0 0) 0 = some (5, 511, { wSliver 0 0 0 with wait := .bar 4, bars := 1 }) ∧
      (wBar 128).sliverOar (wSliver 0 0 0) 1 = some (5, 510, wSliver 1 0 0) ∧ (wSliver 1 0 0).bars < 1 ∧ (wBar 128).units.ended = []) := by
  refine ⟨oarAt_of ?_, ?_, ?_⟩ <;> decide +kernel

theorem witness_OarInvocations_start : (∀ op ∈ [0, 2], let s := wHot wKHeat (wPkgOf .background (wOarOp op) [wTd])
      s.heatPkg 0 = some (wKHeat, wPkgOf .background (wOarOp op) [wTd]) ∧ wKHeat.passOf 0 0 = some (wPass 3 false) ∧ wKHeat.strokeOf (wPkgOf .background (wOarOp op) [wTd]) 0 = some (wOarOp op) ∧
      strokeKind (wOarOp op) = 3 ∧ oarOp (wOarOp op) = op) ∧
    ((511#16).toNat < sliverCount (wOarOp 0) ∧ sliverPlace (sliverCount (wOarOp 0)) wKHeat.crews.length 511 = (0, 511) ∧
      (wHot wKHeat (wPkgOf .background (wOarOp 0) [wTd])).oar? (wKHeat.crews.getD 0 0) 511 = none) ∧
    (∀ c ∈ [none, some (77, 0)], amGet? (if c.isSome then [(5 * 512 + 511, (77, 0))] else ([] : AMap (Nat × Nat))) ((wKHeat.crews.getD 0 0) * 512 + 511) = c) := by decide +kernel

theorem witness_OarInvocations_ends : (∀ v ∈ [0, 7], let o := { wSliver 0 0 0 with x := (wSliver 0 0 0).x.set 10 (BitVec.ofNat 32 v) }
      (wOar o 0x73 []).oar? 5 511 = some o ∧ o.ready = true ∧ (wOar o 0x73 []).oarFetch 5 511 o = some (0x73, 4) ∧ kindOf 0x73 = .ecall ∧ o.rx 10 = v ∧
      (wOar o 0x73 []).heatOf o.serial = some (0, wKHeat) ∧ amGet? (wOar o 0x73 []).cox.heats 0 = some wKHeat) ∧
    (∀ c ∈ [(0x100073, OarKind.ebreak), (0xFFFFFFFF, .illegal)], (wOar (wSliver 0 0 0) c.1 []).oarFetch 5 511 (wSliver 0 0 0) = some (c.1, 4) ∧ kindOf c.1 = c.2) ∧
    (let o := { wSliver 0 0 0 with pc := 0x40000000 }
     (wOar o 0 []).oar? 5 511 = some o ∧ o.ready = true ∧ (wOar o 0 []).oarFetch 5 511 o = none ∧ (wOar o 0 []).heatOf o.serial = some (0, wKHeat)) := by decide +kernel

/-- A device in RUN: outputs 47 and 46 follow FIO_OUT and are on, channel 40 is an input, each with its diagnosis, and with a change to channel 47. -/
def wFio (d : DevState) (f : FieldCh → FieldCh) : State :=
  let s := wSet (wS d) [(.FIO_MODE, 47, 0, 2), (.FIO_MODE, 46, 0, 2), (.FIO_MODE, 40, 0, 1), (.FIO_OUT, 0, 0, 2 ^ 47 + 2 ^ 46), (.FIO_DIAG, 47, 0, 1), (.FIO_DIAG, 40, 0, 1)]
  s.modChan 47 f

theorem witness_FieldChannels_tick : (∀ d ∈ [DevState.off, .reset, .boot, .recovery], (wFio d id).dev.state = d) ∧ (wFio .inert id).dev.state = .inert ∧ (wFio .run id).dev.state.active = true ∧
    ((wFio .inert id).fioMode (40 : Fin 48) = 1 ∧ (wFio .inert id).fioMode (47 : Fin 48) ≠ 1) ∧ (wFio .run id).applyWaiting (inGroup 0x2C) = wFio .run id := by decide +kernel

theorem witness_FieldChannels_faults : ((wFio .run id).driveOn (47 : Fin 48) = true ∧ (wFio .inert id).driveOn (47 : Fin 48) = false) ∧
    ((wFio .run id).isOutput (47 : Fin 48) = true ∧ (wFio .run id).field.chans[(47 : Fin 48)].overtemp = false ∧ (wFio .run id).isOutput (40 : Fin 48) = false) ∧
    ((wFio .run id).flag .FIO_DIAG (47 : Fin 48) = true ∧ (wFio .run id).field.chans[(47 : Fin 48)].openLoad = false ∧ (wFio .run id).flag .FIO_DIAG (46 : Fin 48) = false) ∧
    ((wFio .run id).fioMode (40 : Fin 48) = 1 ∧ (wFio .run id).flag .FIO_DIAG (40 : Fin 48) = true ∧ (wFio .run id).field.chans[(40 : Fin 48)].openWire = false ∧
      (wFio .run id).fioMode (47 : Fin 48) ≠ 1) ∧
    ((wSet (wFio .run id) [(.FIO_RETRY, 0, 0, 0)]).num .FIO_RETRY 0 = 0 ∧ (wSet (wFio .run id) [(.FIO_RETRY, 0, 0, 10)]).num .FIO_RETRY 0 ≠ 0) := by decide +kernel

/-- Group 5 with 1500 mA on channel 47 and 1000 or 1001 on channel 46: at the limit, and above it, where channel 47 goes. -/
theorem witness_FieldChannels_groups : ∀ k ∈ [1000, 1001], let ma : Vector (BitVec 16) 48 := ((Vector.replicate 48 0).set 47 1500).set 46 (BitVec.ofNat 16 k)
    ∀ l, l = (allFin 48).reverse.filter (fun n : Fin 48 => (wFio .run id).driveOn n && (match some (5 : Fin 6) with | some k => n.val / 8 == k.val | none => true)) →
      l = [47, 46] ∧ groupCut 2500 (l.map (fun n : Fin 48 => (n.val, (ma[n]).toNat))) = (if k = 1000 then [] else [47]) := by
  intro k hk ma l hl
  have h : (allFin 48).reverse.filter (fun n : Fin 48 => (wFio .run id).driveOn n && (match some (5 : Fin 6) with | some k => n.val / 8 == k.val | none => true)) = [47, 46] := by decide +kernel
  rw [hl, h]
  refine ⟨rfl, ?_⟩
  simp only [List.mem_cons, List.not_mem_nil, or_false] at hk
  rcases hk with rfl | rfl <;> decide +kernel

/-- Encoder 7 enabled, in a mode, with a change to the channel. -/
def wEnc (mode : Nat) (f : Encoder → Encoder) : State :=
  (wSet (wS .run) [(.ENC_MODE, 7, 0, mode), (.ENC_Z_USED, 7, 0, 1), (.ENC_REF_PERIOD, 7, 0, 100), (.ENC_REF_TOL, 7, 0, 2)]).modEnc 7 (fun e => f { e with enabled := true })

theorem witness_EncoderChannels : ((wS .run).field.encs[(7 : Fin 8)].enabled = false ∧ (wEnc 2 id).field.encs[(7 : Fin 8)].enabled = true ∧ (wEnc 2 id).quad (7 : Fin 8) = true) ∧
    (∀ c ∈ [(false, true, 1), (true, false, -1)], (wEnc 2 id).field.encs[(7 : Fin 8)].a ≠ c.2.1 ∨ (wEnc 2 id).field.encs[(7 : Fin 8)].b ≠ c.1 ∧
      quadCount ((wEnc 2 id).num .ENC_MODE 7) false false (!c.1) c.1 = c.2.2) ∧
    (∀ m ∈ [3, 4], (wEnc m id).quad (7 : Fin 8) = false ∧ (wEnc m id).num .ENC_MODE (7 : Fin 8) = m ∧ (wEnc m id).field.encs[(7 : Fin 8)].edgeSeen = false ∧
      (wEnc m (fun e => { e with edgeSeen := true })).field.encs[(7 : Fin 8)].interval = none ∧
      (wEnc m (fun e => { e with edgeSeen := true, interval := some 10 })).field.encs[(7 : Fin 8)].interval = some 10) ∧
    (3 * 10 < 2 * (16#32).toNat ∧ 2 * (15#32).toNat ≤ 3 * 10 ∧ 2 * (4#32).toNat < 10 ∧ 10 ≤ 2 * (5#32).toNat) ∧
    ((wEnc 2 id).flag .ENC_Z_USED (7 : Fin 8) = true ∧ (wEnc 4 id).flag .ENC_Z_USED (7 : Fin 8) = true ∧ (wEnc 2 id).num .ENC_REF_PERIOD (7 : Fin 8) = 100) ∧
    (∀ p ∈ [(102, false), (103, true), (98, false), (97, true)], let s := wEnc 2 (fun e => { e with pos := p.1, refCnt := 1 })
      decide (s.num .ENC_REF_PERIOD 7 ≠ 0 ∧ s.field.encs[(7 : Fin 8)].refCnt ≠ 0 ∧
        (s.num .ENC_REF_PERIOD 7 + s.num .ENC_REF_TOL 7 < (s.field.encs[(7 : Fin 8)].pos - s.field.encs[(7 : Fin 8)].refPos).natAbs ∨
          (s.field.encs[(7 : Fin 8)].pos - s.field.encs[(7 : Fin 8)].refPos).natAbs + s.num .ENC_REF_TOL 7 < s.num .ENC_REF_PERIOD 7)) = p.2) := by decide +kernel

/-- Divider 15 with a change, slot 11 with a change and its camera port TIMED, in RUN. -/
def wDiv (f : Divider → Divider) : State := (wS .run).modDiv 15 f
def wSlot (n : Fin 32) (src : Nat) : State := (wSet (wS .run) [(.CAM_TRIG_SRC, 11, 0, src), (.TRG_SRC, n.val, 0, 0)]).modSlot n (fun v => { v with enabled := true })

theorem witness_Pulses : ((15 : Fin 16).val = 12 + (3 : Fin 4).val ∧ (wDiv (fun v => { v with deferred := 1 })).field.divs[(15 : Fin 16)].deferred ≠ 0 ∧
      (wDiv (fun v => { v with deferred := 1 })).field.divs[(15 : Fin 16)].pulse = false ∧ (wDiv id).num .DIV_OUT_MODE (15 : Fin 16) = 0 ∧
      (wDiv id).field.divs[(15 : Fin 16)].deferred = 0 ∧ (wDiv (fun v => { v with pulse := true })).field.divs[(15 : Fin 16)].pulse = true) ∧
    ((wS .run).slotMore 31 = false ∧ (∀ n ∈ [(11 : Fin 32), 31], ∀ c ∈ [0, 2], (wSlot n c).slotMore n = true ∧ (wSlot n c).num .TRG_SRC n = 0 ∧ (wSlot n c).dev.state.active = true) ∧
      (wSlot 11 0).num .CAM_TRIG_SRC (11 : Fin 32) ≠ 2 ∧ (wSlot 11 2).num .CAM_TRIG_SRC (11 : Fin 32) = 2 ∧ (11 : Fin 12).val = (11 : Fin 32).val) ∧
    ((wS .run).cams[(11 : Fin 12)].pulse = false ∧ ((wS .run).modCam 11 (fun c => { c with pulse := true })).cams[(11 : Fin 12)].pulse = true) := by decide +kernel

/-- Encoder 7 in FAULT, its condition present or gone. -/
def wEncF (now : Bool) : State := wEnc 2 (fun e => { e with fault := true, wire := true, wireNow := now })

theorem witness_FieldRequests : WMay (wS .run) .FIO_ACK 47 1 ∧
    (WMay (wFio .run id) .FIO_FORCE_OFF 0 (2 ^ 48 - 1) ∧ (((wFio .run id).setVal .FIO_FORCE_OFF 0 0 (.num (2 ^ 48 - 1))).crewsShort = true → (wFio .run id).crewsShort = true)) ∧
    (WMay (wEnc 2 id) .ENC_ACK 7 1 ∧ (wEnc 2 id).field.encs[(7 : Fin 8)].fault = false) ∧
    (∀ b ∈ [true, false], WMay (wEncF b) .ENC_ACK 7 1 ∧ (wEncF b).field.encs[(7 : Fin 8)].fault = true ∧ (wEncF b).field.encs[(7 : Fin 8)].wireNow = b) ∧
    (WMay (wS .run) .FIRE_STOP_ACK 0 1 ∧ (wS .run).dev.state.active = true ∧ WMay (wS .inert) .FIRE_STOP_ACK 0 1 ∧ (wS .inert).dev.state.active = false) ∧
    WMay (wS .run) .SAF_EVENT_ACK 0 0xFFF := by
  simp only [List.forall_mem_cons, List.not_mem_nil, false_imp_iff, implies_true, and_true]
  refine ⟨may_of ?_, ⟨may_of ?_, ?_⟩, ⟨may_of ?_, ?_⟩, ⟨⟨may_of ?_, ?_⟩, may_of ?_, ?_⟩, ⟨may_of ?_, ?_, may_of ?_, ?_⟩, may_of ?_⟩ <;> decide +kernel

/-- A device in a state with a running and a staged image of security version 64, and a package in slot 0, stored in slot 15 too. -/
def wFw : FwImage := ⟨3, 64, zeros 64, 1, []⟩
def wBt (d : DevState) (status : Nat) : State :=
  { wS d with
    boot := { (wS d).boot with staged := if status = 0 then none else some wFw, running := some wFw, fwStatus := status }
    cox := { (wS d).cox with packages := wPkgs { wPkg [wPlan .fast] with secVersion := 1 } } }
def wBtStored (d : DevState) : State :=
  let s := wBt d 0
  { s with boot := { s.boot with flash := { s.boot.flash with store := [⟨15, zeros 64, 0, false⟩] } } }

/-- A well-formed image of 640 bytes with a BODY of 64 bytes and no certificate: it fails verification. -/
def wFwImg : Bytes := leBytes 64 (0x5746485A + 2 ^ 32 + 2 ^ 36 + 3 * 2 ^ 64 + 640 * 2 ^ 128 + 64 * 2 ^ 160 + 64 * 2 ^ 192 + 64 * 2 ^ 224) ++ zeros 576

theorem witness_BootRequests_image : (wBt .inert 0).mayStage = true ∧ (wBt .inert 0).boot.fwStatus ≠ 2 ∧
    (∀ c ∈ [(zeros 4, FwCheck.format), (wFwImg, .verification)], WSegMay (wBt .inert 0) .BOOT_FW_IMAGE 0 c.1 ∧ c.1.length ≤ 25165824 ∧ (wBt .inert 0).fwCheck c.1 = c.2) ∧
    (WMay (wBt .inert 1) .BOOT_FW_INSTALL 0 1 ∧ (wBt .inert 1).boot.staged = some wFw ∧ (wBt .inert 1).boot.fwStatus = 1) ∧
    (WMay (wBt .run 0) .BOOT_FW_INSTALL 0 1 ∧ (wBt .run 0).boot.staged = none) := by
  simp only [List.forall_mem_cons, List.not_mem_nil, false_imp_iff, implies_true, and_true]
  refine ⟨?_, ?_, ⟨⟨wSegMay_of ?_, ?_, ?_⟩, wSegMay_of ?_, ?_, ?_⟩, ⟨may_of ?_, ?_, ?_⟩, ⟨may_of ?_, ?_⟩⟩ <;> decide +kernel

theorem witness_BootRequests_fuses : (∀ d ∈ [DevState.inert, .run],
      (WSegMay (wBt d 1) .BOOT_RB_ADVANCE 0 [0#8, 64#8] ∧ WSegMay (wBt d 1) .BOOT_RB_ADVANCE 0 [1#8, 1#8] ∧ WSegMay (wBt d 1) .BOOT_OWNER_KEY 0 ([3#8, 0#8, 0#8, 0#8] ++ List.replicate 64 5#8) ∧
        WMay (wBt d 1) .BOOT_REVOKE 0 (2 ^ 7)) ∧
      ((∀ f, (wBt d 1).boot.running = some f ∨ (wBt d 1).boot.staged = some f → 64 ≤ f.secVersion) ∧
        (∀ p ∈ (wBt d 1).loaded, 1 ≤ p.secVersion ∧ (2 ^ 7 : Nat).testBit (4 + p.ownerKey) = false) ∧ (wBt d 1).boot.flash.store = [] ∧
        rollback ((wBt d 1).fuse 513 8) ≤ 64 ∧ rollback ((wBt d 1).fuse 521 8) ≤ 1 ∧ allZero ((wBt d 1).keyHash true 3) = true ∧
        (∀ f, (wBt d 1).boot.running = some f → (2 ^ 7 : Nat).testBit f.rootSlot = false)) ∧ (wBt d 1).dev.state = d) ∧
    (WMay (wBt .inert 1) .BOOT_REVOKE 0 2 ∧ (wBt .inert 1).boot.running = some wFw ∧ (2 : Nat).testBit wFw.rootSlot = true) := by
  simp only [List.forall_mem_cons, List.not_mem_nil, false_imp_iff, implies_true, and_true]
  have hf : ∀ d : DevState, ∀ f, (wBt d 1).boot.running = some f ∨ (wBt d 1).boot.staged = some f → 64 ≤ f.secVersion := by
    intro d f h
    rcases h with h | h <;> cases h <;> decide
  have hr : ∀ d : DevState, ∀ f, (wBt d 1).boot.running = some f → (2 ^ 7 : Nat).testBit f.rootSlot = false := by
    intro d f h
    cases h; decide
  refine ⟨⟨⟨⟨wSegMay_of ?_, wSegMay_of ?_, wSegMay_of ?_, may_of ?_⟩, ⟨hf _, ?_, ?_, ?_, ?_, ?_, hr _⟩, ?_⟩,
    ⟨wSegMay_of ?_, wSegMay_of ?_, wSegMay_of ?_, may_of ?_⟩, ⟨hf _, ?_, ?_, ?_, ?_, ?_, hr _⟩, ?_⟩, may_of ?_, ?_, ?_⟩ <;> decide +kernel

/-- A WRITE of the nonce is being executed, and an attestation waits. -/
def wNonceReq : Request := wrSeg (wSeg .BOOT_ATTEST_NONCE 0 0 (zeros 32)) .BOOT_ATTEST_NONCE 0 0 (zeros 32)
def wAttest : State := { wS .inert with
  boot := { (wS .inert).boot with attestWaiting := some (.session 0 11) }
  od := { (wS .inert).od with sessions := (wS .inert).od.sessions.set 0 (some { wx with executing := some wNonceReq }) } }

/-- Whether the factory area is good is open (notes/assumptions/12.md); the nonce is written to a device of either kind. -/
theorem witness_BootRequests_attest : (WSegMay (wS .run) .BOOT_ATTEST_NONCE 0 (zeros 32) ∧ (wS .run).boot.attestWaiting = none) ∧ (wS .run).Settled ∧
    (wAttest.Settled ∧ wAttest.boot.attestWaiting = some (.session 0 wNonceReq.env.reqId.toNat) ∧ wAttest.session? 0 = some { wx with executing := some wNonceReq }) := by
  refine ⟨⟨wSegMay_of ?_, ?_⟩, settled_of ?_, settled_of ?_, ?_, ?_⟩ <;> decide +kernel

theorem witness_BootRequests_store : (∀ d ∈ [DevState.inert, .run], WMay (wBt d 0) .BOOT_PKG_STORE 0 0 ∧ (wBt d 0).cox.packages[(0 : Fin 16)] = some { wPkg [wPlan .fast] with secVersion := 1 } ∧
      (wBt d 0).boot.flash.store = [] ∧ WMay (wBtStored d) .BOOT_PKG_UNSTORE 0 15 ∧ (wBtStored d).boot.flash.store.any (fun y => y.slot == 15) = true) := by
  simp only [List.forall_mem_cons, List.not_mem_nil, false_imp_iff, implies_true, and_true]
  refine ⟨⟨may_of ?_, ?_, ?_, may_of ?_, ?_⟩, may_of ?_, ?_, ?_, may_of ?_, ?_⟩ <;> decide +kernel

/-! ## Ill-formed commands: one for each check of WellFormed.lean, which the check refuses -/

theorem smoke_units : [UnitId.shell 6 0, .shell 0 68, .oar 6 0, .oar 0 528, .scull 6, .sweep 6, .catchUnit 6 0, .catchUnit 0 4, .crew 6, .shared 3].any unitOk = false ∧
    [UnitId.shell 5 67, .oar 5 527, .scull 5, .sweep 5, .catchUnit 5 3, .crew 5, .shared 2].all unitOk = true ∧
    (Instr.bootStep ⟨true, 0, false, [.crew 5, .crew 6], []⟩).wf = false := by decide

theorem smoke_slices : [Slice.crew 6 0, .crew 0 12, .shared 3].all (fun x => !sliceOk x && !(Instr.rinseOverdue x).wf && !(Instr.rinseSliceDone x [] none).wf) = true ∧
    (Instr.rinseSliceDone (.crew 0 0) [.scull 6] none).wf = false ∧ (Instr.rinseSliceDone (.crew 5 11) [.scull 5] none).wf = true := by decide

/-- 1,425 bytes of data are one too many for a request (R513). -/
theorem smoke_data : (let d := zeros 1425
    [Instr.openSession wEnv0 d, .write wEnv0 0 0 0 d, .pciXlSubmit wEnv0 0 d, .rpLoad wEnv0 0 d, .detGenIn wEnv0 0 d, .detReplaySwath wEnv0 0 0 d, .detReplaySeq wEnv0 0 0 d,
      .detReplayState wEnv0 0 0 d, .tsSet wEnv0 0 d, .bootFwImage wEnv0 0 d, .bootRbAdvance wEnv0 0 d, .bootOwnerKey wEnv0 0 d, .bootAttestNonce wEnv0 0 d, .recoveryData wEnv0 0 d,
      .rtAdd wEnv0 0 0 d].any Instr.wf) = false ∧ (Instr.goWordWrite 0 0 (zeros 1465) 1).wf = false ∧ (Instr.goWordWrite 0 0 (zeros 1464) 1).wf = true := by decide +kernel

theorem smoke_ranges : (Instr.camLineEnd 0 [] true false ⟨0, 1000000000, 0⟩ 0 0).wf = false ∧ (Instr.camLineEnd 0 [] true false ⟨0, 0, 65536⟩ 0 0).wf = false ∧
    (Instr.lpddrGroupWrite 0 1983 (zeros 2)).wf = false ∧ (Instr.boardProgrammerFlashWrite 67108863 (zeros 2)).wf = false ∧ (Instr.boardProgrammerFlashWrite 67108863 (zeros 1)).wf = true ∧
    (Instr.timeRequest 0 (zeros 35) 0 0).wf = false ∧ (Instr.timeResponse 0 (zeros 37) 0 true).wf = false ∧ (Instr.kvDecision 0 ⟨[], [], [], [], [], zeros 8⟩).wf = false := by decide +kernel

/-- A block, and a lane of eight blocks of a payload. -/
def wLane8 (n : Nat) : List RxBlock := List.replicate 8 ⟨false, true, n⟩
theorem smoke_link : (Instr.cellReceive 0 (List.replicate 3 (wLane8 0)) true).wf = false ∧ (Instr.cellReceive 0 [wLane8 0, wLane8 0, wLane8 0, []] true).wf = false ∧
    (Instr.cellReceive 0 (List.replicate 4 (wLane8 (2 ^ 128))) true).wf = false ∧ (Instr.cellReceive 0 (List.replicate 4 (wLane8 (2 ^ 128 - 1))) true).wf = true := by decide +kernel

theorem smoke_squad : (let h : HelloInfo := ⟨1, 0, 1, 1, 2, 128, 0, 9, 0, 0⟩
    helloOk h && !([{ h with verMax := 16 }, { h with seat := 32 }, { h with gen := 16 }, { h with shape := 16 }, { h with size := 0 }, { h with size := 33 }, { h with portsUp := 256 },
      { h with partMask := 256 }, { h with devId := 2 ^ 64 }, { h with fw := 2 ^ 32 }, { h with partCrc := 2 ^ 32 }].any (fun x => (Instr.hello x).wf))) = true ∧
    [(⟨8, 0, 0⟩ : TopoLink), ⟨0, 32, 0⟩, ⟨0, 0, 8⟩].any (fun l => (Instr.topology 0 0 [l]).wf) = false ∧
    [(32, 0, 0, 0), (0, 256, 0, 0)].any (fun r => (Instr.form 0 0 0 [r]).wf) = false := by decide +kernel

/-! ## Small tests of single steps; what each expects is computed by hand from the rule it names -/

/-- What a next state holds. -/
def nextIs (o : Host.Outcome State Fault Refusal) (p : State → Bool) : Bool := match o with | .next t => p t | _ => false

/-- The check value of CRC-32C over "123456789" (R57). -/
theorem test_crc32c : crc32c [0x31, 0x32, 0x33, 0x34, 0x35, 0x36, 0x37, 0x38, 0x39] = 0xE3069283 := by decide +kernel

/-- The queue: the front command runs on the rest. -/
theorem test_queue : nextIs (step { State.reset with pending := [.supplyGlitch 10, .powerUp] }) (fun t => t.pending == [.powerUp]) = true := by decide +kernel

/-- x1 after a command of the packed byte operations, rs1 = 0x80FF0102, rs2 = 0x7F010203 (R276). -/
def x1After (i : Instr) (w a b : Nat) (v : Nat) : Bool :=
  nextIs (exec i (wOar (wSliver 0 a b) w [])) (fun t => match t.oar? 5 511 with | some o => o.rx 1 == v && o.pc == 4 | none => false)

theorem test_psad : x1After (.psadB 5 511) (wSlv 3 5) 0x80FF0102 0x7F010203 257 = true := by decide +kernel

theorem test_packed_bytes : [OarKind.pminu, .pmaxu, .paddus, .psubus, .pcmpgeu].map (fun k => packedOp k 0x80FF0102 0x7F010203) =
    [0x7F010102, 0x80FF0203, 0xFFFF0305, 0x01FE0000, 0xFFFF0000] := by decide +kernel

/-- The RISC-V base: DIV x1, x5, x6 by zero gives all ones. -/
theorem test_base : x1After (.oarBaseInstruction 5 511) 0x0262C0B3 5 0 0xFFFFFFFF = true := by decide +kernel

/-- Ties to even in BF16 and FP16, and the overflow of R100 and R101. -/
theorem test_rounding : bf16.encode false (fp32.decode 0x3F808000) = 0x3F80 ∧ bf16.encode false (fp32.decode 0x3F818000) = 0x3F82 ∧ bf16.encode false (fp32.decode 0x3F808001) = 0x3F81 ∧
    bf16.encode false (fp32.decode 0x7F7FFFFF) = 0x7F80 ∧ fp32.encode false (bf16.decode 0xC0A0) = 0xC0A00000 := by decide +kernel

/-- The encoder: A before B counts forward in QUAD_X4 (R455). -/
theorem test_encoder : nextIs (exec (.encCount 7 true false 9) (wEnc 2 id)) (fun t => t.field.encs[(7 : Fin 8)].pos == 1 && t.field.encs[(7 : Fin 8)].high == 1) = true ∧
    nextIs (exec (.encCount 7 false true 9) (wEnc 2 id)) (fun t => t.field.encs[(7 : Fin 8)].pos == -1 && t.field.encs[(7 : Fin 8)].high == 0) = true := by decide +kernel

/-- A write of an entry that is not LIVE stays a shadow until its group is committed (R524, R526). -/
theorem test_shadow : nextIs (exec (.write (wReqOf 5 0x2210 4 0 2 (leBytes 2 4096) wEnv0).env 0x2210 4 0 (leBytes 2 4096)) (wS .inert))
      (fun t => t.num .CAM_LINE_WIDTH 0 == (wS .inert).num .CAM_LINE_WIDTH 0 && amGet? t.od.shadows (Ent.CAM_LINE_WIDTH.key 0 0) == some (.num 4096)) = true := by decide +kernel

/-- A device in RUN that loses a supply for long enters SAFE with cause SUPPLY (R33, R625), and a glitch does not. -/
theorem test_supply : nextIs (exec (.supplyGlitch 0) (wS .run)) (fun t => t.dev.state == .run && t.lintVal .SUP_GLITCH 0 == 1) = true ∧
    nextIs (exec (.supplyLoss) (wS .run)) (fun t => t.dev.state == .off) = true := by decide +kernel

/-- SLV.SEND toward a neighbour that does not exist sends nothing (R277). -/
theorem test_send_nowhere : nextIs (exec (.slvSend 5 511) (wOar (wSliver 0 64 0) (wSlv 1 0) [])) (fun t => match t.oar? 5 511 with | some o => o.pc == 4 && o.wait == .none | none => false) = true := by
  decide +kernel

/-- A write of the board programmer leaves the device in RESET. -/
theorem test_board_programmer : nextIs (exec (.boardProgrammerFlashWrite 0 [1#8]) wReset) (fun t => t.dev.state == .reset) = true := by decide +kernel

/-- A component that closes only by its diagonals takes 1 + the index of its first element, 3 (R281). -/
theorem test_label_kernel : labelMap 3 4 [0, 0, 0, 9, 1, 0, 1, 0, 0, 1, 0, 0] = [0, 0, 0, 4, 4, 0, 4, 0, 0, 4, 0, 0] := by decide +kernel

/-- The strongest box first; of two boxes that overlap by 50 of 150 with 256 × 50 > 85 × 150 the earlier stays, and at 86 both (R282). -/
theorem test_nms_kernel : ((nmsKept 85 [⟨0, 10, 0, 10, 1, false, 0, 5⟩, ⟨5, 15, 0, 10, 2, false, 0, 5⟩, ⟨40, 50, 0, 10, 3, false, 0, 9⟩]).map (·.part) = [3, 1]) ∧
    ((nmsKept 86 [⟨0, 10, 0, 10, 1, false, 0, 5⟩, ⟨5, 15, 0, 10, 2, false, 0, 5⟩, ⟨40, 50, 0, 10, 3, false, 0, 9⟩]).map (·.part) = [3, 1, 2]) := by decide +kernel

end Sys2Proof.Tests
end

section
/-! SUPPORT. What reset leaves (R8, R23, R492, R525, R530), and what a READ and an INFO answer (R8, R514, R515, R523, R527). -/

namespace Sys2Proof.Machine

open Sys2Proof

/-! ### What reset leaves -/

/-- Outside ARMED, RUN and DEGRADED no driver is on (R26). -/
theorem driveOn_inactive {s : State} (h : s.dev.state.active = false) (n : Nat) : s.driveOn n = false := by
  simp [State.driveOn, h]

/-- Without an open session no handle names one. -/
theorem session?_closed {s : State} (h : s.od.sessions = Vector.replicate 48 none) (k : Nat) : s.session? k = none := by
  cases hk : toFin? 48 k <;> simp [State.session?, h, hk]

/-- Settles O3: each block of the reset state is written out in `State.reset`; of the derived values, entries and lint counters read from
empty stores, no handle has a session, and BOOT is no state in which a driver is on. -/
theorem resetValues : Obligations.ResetValues := by
  unfold Obligations.ResetValues
  have packages (i : Fin 16) : State.reset.cox.packages[i] = none := by simp [State.reset, Cox.init]
  exact ⟨rfl, rfl, rfl, fun _ _ _ => rfl, rfl, rfl, fun _ _ => rfl, session?_closed rfl, rfl, rfl, rfl, rfl,
    driveOn_inactive rfl, rfl, packages, rfl, rfl, rfl⟩

/-! ### The value of a read -/

/-- A read of an entry that it does not clear shows its value, or with SHADOW the pending one of a writable entry (R527). -/
theorem takeValue_ent {E : Ent} (s : State) (shadow : Bool) (i k : Nat) (h : E ≠ .CAM_TP_BITS_RC) : s.takeValue (.ent E i k) shadow =
    (s, if shadow && decide (E.row.acc = .rw) then amGet s.od.shadows (E.key i k) (s.readEnt E i k) else s.readEnt E i k) := by
  simp only [State.takeValue, State.readObj]

/-- Only a read of an RC object changes the state (R8). -/
theorem takeValue_state {ob : Obj} (s : State) (shadow : Bool) (h : ob.access ≠ .rc) : (s.takeValue ob shadow).1 = s := by
  cases ob with
  | ent E i k =>
    have hrc : E ≠ .CAM_TP_BITS_RC := by rintro rfl; exact h rfl
    rw [takeValue_ent s shadow i k hrc]
  | lintRc l i => exact absurd rfl h
  | lint l i | sub0 index | commit g | status g => rfl

/-- A read of a writable entry shows its committed value, or with SHADOW the pending one (R527). -/
theorem takeValue_writable {E : Ent} (s : State) (shadow : Bool) (i k : Nat) (hacc : E.row.acc = .rw) (hutc : E ≠ .TS_UTC_OFFSET) :
    (s.takeValue (.ent E i k) shadow).2 = if shadow then amGet s.od.shadows (E.key i k) (s.val E i k) else s.val E i k := by
  have hrc : E ≠ .CAM_TP_BITS_RC := by rintro rfl; cases hacc
  have hread : s.readEnt E i k = s.val E i k := by simp only [State.readEnt, hacc, hutc, if_true, if_false]
  rw [takeValue_ent s shadow i k hrc]
  simp only [hread, hacc, decide_true, Bool.and_true]

/-- A read of the bits of a test pattern that clears them returns them (R8). -/
theorem takeValue_tpBits (s : State) (shadow : Bool) (p : Fin 12) (k : Nat) : s.takeValue (.ent .CAM_TP_BITS_RC p k) shadow =
    (s.modCam p (fun c => { c with tpBits := 0 }), .num s.cams[p].tpBits) := by
  have hp : toFin? 12 p.val = some p := by simp [toFin?]
  have hread : s.readObj (.ent .CAM_TP_BITS_RC p k) = .num s.cams[p].tpBits := by
    show OdVal.num (match toFin? 12 p.val with | some p => s.cams[p].tpBits | none => 0) = _
    rw [hp]
  simp only [State.takeValue, hread, hp]

/-! ### What a read leaves -/

/-- Lint counters are no bookkeeping of a session. -/
theorem lints_bare {s t : State} (h : t.bare = s.bare) : t.od.lints = s.od.lints := congrArg (fun u => u.od.lints) h

/-- Camera ports are no bookkeeping of a session. -/
theorem cams_bare {s t : State} (h : t.bare = s.bare) : t.cams = s.cams := congrArg (fun u => u.cams) h

/-- A counter that was cleared is 0. -/
theorem lintVal_lintClear (s : State) (l : Lint) (i : Nat) : (s.lintClear l i).lintVal l i = 0 := by
  show (amGet? (amErase s.od.lints (l.key i)) (l.key i)).getD 0 = 0
  rw [amGet?_erase_self]; rfl

/-- What INFO says of an object depends on the part and the packages, and on no session. -/
theorem infoBytes_began (s : State) (x : Session) (r : Request) (ob : Obj) (index sub : Nat) :
    (s.began x r).infoBytes ob index sub = s.infoBytes ob index sub := by
  have hd : (s.began x r).dfltOf ob = s.dfltOf ob := by cases ob <;> simp only [State.dfltOf, granules_began]
  unfold State.infoBytes
  simp only [hd, began_maxLen]

/-! ### Rows that read -/

section
variable {s : State} {x : Session} {r : Request}

/-- A READ of a scalar object whose value is `v`: it leaves what `z` is, but for the sessions. -/
theorem scalar_read {ob : Obj} (u z : State) (v : OdVal) (hs : s.Settled) (ht : s.Takes x r) (hop : r.op = 4) (hdata : r.data = [])
    (hofs : r.offset = 0) (hlen : r.length = 0) (hob : resolve s.crewCount r.index.toNat r.sub.toNat = some ob) (hacc : ob.access ≠ .wo)
    (hty : ob.ty ≠ .domain) (hv : (s.began x r).takeValue ob r.env.shadow = (u, v)) (hu : u.kernel = (s.began x r).kernel)
    (hz : u.bare = z.bare) (hdev : u.dev = z.dev) :
    ∃ t, odRow s r = .next t ∧ z.RespondsAs t r .ok ∧ t.AnsweredWith r .ok (v.enc ob.ty.size) := by
  obtain ⟨t, h1, h2, h3⟩ := read_row s x r ob hs ht hop hdata hofs hlen hob hacc hty u v hv (sessions_kernel hu)
    (by rw [squad_kernel hu, began_squad]) (by rw [crewsShort_kernel hu, began_crewsShort]; exact id)
  exact ⟨t, h1, responds_base h2 hz (by rw [hdev]), h3⟩

/-- A request that is answered at once and changes its own session alone. -/
theorem session_row {p : Reply} {last : Bool} {y : Session} (ss : Vector (Option Session) 48) (hs : s.Settled) (ht : s.Takes x r)
    (hop : r.op ≠ 2) (hp : (s.began x r).perform r.env.session.toNat (x.took s r) r = (p, last)) (hnow : p.later = false)
    (hstate : p.state = s.withSessions ss) (hy : p.state.session? r.env.session.toNat = some y) (hq : y.queue = [])
    (hothers : ∀ k, k ≠ r.env.session.toNat → p.state.session? k = s.session? k) :
    ∃ t, odRow s r = .next t ∧ s.RespondsAs t r p.status ∧ t.AnsweredWith r p.status p.data := by
  obtain ⟨t, h1, h2, h3⟩ := odRow_answers s x r p last y ht hs hp hnow hop hy hq hothers (quiet_same (by rw [hstate]; rfl))
    (by rw [hstate]; exact hs.2) (by rw [hstate, crewsShort_with]; exact id)
  exact ⟨t, h1, responds_base h2 (by rw [hstate, withSessions_bare]) (by rw [hstate]; rfl), h3⟩

/-- What a READ of the first bytes of a DOMAIN value answers, and the snapshot that it leaves in its session (R514, R523). -/
theorem perform_domain_read {ob : Obj} (hop : r.op = 4) (hdata : r.data = []) (hofs : r.offset = 0)
    (hob : resolve s.crewCount r.index.toNat r.sub.toNat = some ob) (hacc : ob.access ≠ .wo) (hty : ob.ty = .domain)
    {u : State} {v : OdVal} (hv : s.takeValue ob r.env.shadow = (u, v)) (h : Nat) (y : Session) :
    s.perform h y r =
      (⟨u.modSession h (fun x => { x with snapshot := some (placeKey r.index.toNat r.sub.toNat, v.toBytes) }), .ok,
        v.toBytes.take (min r.length.toNat 1424), false⟩, decide (v.toBytes.length ≤ min r.length.toNat 1424)) := by
  have hread : s.perform h y r = s.doRead h y r := by
    unfold State.perform
    rw [hop]
    exact if_neg (by simp [hdata])
  rw [hread]
  unfold State.doRead
  simp [hob, hacc, hty, hofs, hv]

/-- A READ of the first bytes of a writable DOMAIN entry. -/
theorem domain_read {E : Ent} {i k : Nat} (hs : s.Settled) (ht : s.Takes x r) (hop : r.op = 4) (hdata : r.data = []) (hofs : r.offset = 0)
    (hob : resolve s.crewCount r.index.toNat r.sub.toNat = some (.ent E i k)) (hty : E.row.ty = .domain) (hacc : E.row.acc = .rw)
    (hshadow : r.env.shadow = false) :
    ∃ t, odRow s r = .next t ∧ s.RespondsAs t r .ok ∧ t.AnsweredWith r .ok ((s.val E i k).toBytes.take (min r.length.toNat 1424)) := by
  have hrc : (Obj.ent E i k).access ≠ .rc := by simp [Obj.access, hacc]
  have hwo : (Obj.ent E i k).access ≠ .wo := by simp [Obj.access, hacc]
  have hutc : E ≠ .TS_UTC_OFFSET := by rintro rfl; cases hty
  have hv : (s.began x r).takeValue (.ent E i k) r.env.shadow = (s.began x r, s.val E i k) := by
    refine Prod.ext (takeValue_state _ _ hrc) ?_
    rw [takeValue_writable _ _ i k hacc hutc, hshadow, began_val]; rfl
  have hp := perform_domain_read hop hdata hofs (by rw [began_crewCount]; exact hob) hwo hty hv r.env.session.toNat (x.took s r)
  obtain ⟨y, hy, hq⟩ := began_session s x r ht.session
  obtain ⟨ss, hss⟩ := began_with s x r ht.session
  have hh := session?_lt ht.session
  rw [modSession_eq _ hy] at hp
  refine session_row (y := { y with snapshot := some _ }) _ hs ht (by rw [hop]; decide) hp rfl (by rw [hss, setSession_eq _ hh]; rfl)
    ((session?_setSession _ _ _ _ hh).trans (if_pos rfl)) hq (fun k hk => ?_)
  rw [session?_setSession _ _ _ _ hh, if_neg hk]
  exact began_others s x r ht.session k hk

/-- An INFO of an object that exists. -/
theorem info_row {ob : Obj} (hs : s.Settled) (ht : s.Takes x r) (hop : r.op = 6) (hdata : r.data = [])
    (hob : resolve s.crewCount r.index.toNat r.sub.toNat = some ob) :
    ∃ t, odRow s r = .next t ∧ s.RespondsAs t r .ok ∧ t.AnsweredWith r .ok (s.infoBytes ob r.index.toNat r.sub.toNat) := by
  have hp : (s.began x r).perform r.env.session.toNat (x.took s r) r =
      (⟨s.began x r, .ok, s.infoBytes ob r.index.toNat r.sub.toNat, false⟩, false) := by
    unfold State.perform
    rw [hop]
    show (if r.data ≠ [] then _ else State.doInfo _ _, false) = _
    rw [if_neg (by simp [hdata])]
    unfold State.doInfo
    rw [began_crewCount, hob]
    simp only [infoBytes_began]
  obtain ⟨y, hy, hq⟩ := began_session s x r ht.session
  obtain ⟨ss, hss⟩ := began_with s x r ht.session
  exact session_row ss hs ht (by rw [hop]; decide) hp rfl hss hy hq (began_others s x r ht.session)

end

/-- Settles O23: a read of an object that is not RC leaves the state in which its request executes, and the two kinds of RC read leave it
with the counter or the bits cleared; a DOMAIN read and an INFO change their session alone. -/
theorem reads : Obligations.Reads := by
  unfold Obligations.Reads
  intro s x e index sub hs
  refine ⟨fun ob ht hob hwo hty => ⟨fun hrc => ?_, ?_, ?_⟩, ?_, ?_⟩
  · obtain ⟨t, h1, h2, h3⟩ := scalar_read _ s ((s.began x ⟨e, 4, index, sub, 0, 0, []⟩).takeValue ob e.shadow).2 hs ht rfl rfl rfl rfl
      hob hwo hty (Prod.ext (takeValue_state _ _ hrc) rfl) rfl (bare_began ..) (began_dev ..)
    refine ⟨t, _, h1, h2, h3, ?_, ?_, ?_⟩
    · rintro E i k rfl hacc hutc
      rw [takeValue_writable _ _ i k hacc hutc, began_shadows, began_val]
    · rintro l i rfl
      exact congrArg OdVal.num (lintVal_began ..)
    · rintro g rfl
      exact congrArg OdVal.num (groupStatus_began ..)
  · rintro l i rfl
    obtain ⟨t, h1, h2, h3⟩ := scalar_read _ (s.lintClear l i) _ hs ht rfl rfl rfl rfl hob hwo hty rfl rfl (by simp [State.bare]) (by simp)
    refine ⟨t, h1, h2, ?_, ?_⟩
    · rw [← lintVal_began s x ⟨e, 4, index, sub, 0, 0, []⟩]; exact h3
    · rw [lintVal_congr (lints_bare h2.rest), lintVal_lintClear]
  · rintro p k rfl
    obtain ⟨t, h1, h2, h3⟩ := scalar_read _ (s.modCam p (fun c => { c with tpBits := 0 })) _ hs ht rfl rfl rfl rfl hob hwo hty
      (takeValue_tpBits ..) rfl (by simp [State.bare]) (by simp)
    refine ⟨t, h1, h2, ?_, ?_⟩
    · rw [began_cams] at h3; exact h3
    · rw [cams_bare h2.rest]; simp [State.modCam]
  · intro E i k len ht hob hty hacc hshadow
    exact domain_read hs ht rfl rfl rfl hob hty hacc hshadow
  · intro ob ht hob
    exact info_row hs ht rfl rfl hob

end Sys2Proof.Machine
end

section
/-! SUPPORT. Lines and triggers of a camera port (R49 to R53, R62). -/

namespace Sys2Proof.Machine

open Sys2Proof

/-! ### Lines -/

/-- The enable of a port that runs is in effect. -/
theorem camRuns_on {s : State} {p : Fin 12} (h : s.camRuns p = true) : s.cams[p].on = true := by
  simp only [State.camRuns, Bool.and_eq_true] at h
  exact h.1.1

/-- A port runs by its enable alone of what a change of it may touch. -/
theorem camRuns_modCam {s : State} {p : Fin 12} {f : CamPort → CamPort} (hon : (f s.cams[p]).on = s.cams[p].on) :
    (s.modCam p f).camRuns p = s.camRuns p := by
  unfold State.camRuns
  rw [mod_get, hon]
  rfl

/-- A flag that finds no open swath waits for the next record (R52). -/
theorem flag_waits {c : CamPort} (h : c.openNow = none) (f late : Nat) :
    c.flag f late = { c with pendFlags := c.pendFlags ||| f, pendLate := c.pendLate + late } := by
  unfold CamPort.flag; rw [h]

/-- A line whose counter a fill line has consumed is counted, and nothing else of it is used (R52). -/
theorem lineEnd_consumed {s : State} {p : Fin 12} {head : Nat} {rest : List Nat} {e : Nat} {fval lost : Bool} {time : NetTime} {mono : Nat} {pos : Int}
    (hexp : s.cams[p].expected = some e) (hty : bits head 27 24 = 1) (hrsv : bits head 31 28 = 0)
    (hold : s.cams[p].consumed.contains (head % 2 ^ 24) = true) :
    s.lineEnd p ⟨head :: rest, fval, lost, time, mono, pos⟩ =
      (s.modCam p (fun _ => CamPort.flag { s.cams[p] with pclk := true } 4 1)).lintAt .CAM_LATE p := by
  unfold State.lineEnd
  refine (if_pos ?_).trans (congrArg (State.lintAt · .CAM_LATE p) (mod_mod s p { s.cams[p] with pclk := true } _))
  simp only [mod_get, hexp, hty, hrsv, hold]
  rfl

/-- The expected line, whole and with its trailer, takes the oldest trigger: it has no gap to fill, and only its CRC can be wrong (R50, R52). -/
theorem lineEnd_expected {s : State} {p : Fin 12} {head tr e : Nat} {px : List Nat} {t : Trig} {r : List Trig} {bad : Bool}
    {time : NetTime} {mono : Nat} {pos : Int}
    (htrigs : s.cams[p].trigs = t :: r) (hexp : s.cams[p].expected = some e) (hlimit : s.num .CAM_LATE_LIMIT p = 0)
    (hty : bits head 27 24 = 1) (hrsv : bits head 31 28 = 0) (hcnt : head % 2 ^ 24 = e) (hnew : s.cams[p].consumed.contains e = false)
    (hlen : px.length = (s.camW p + beatPixels (s.num .CAM_PACKING p) - 1) / beatPixels (s.num .CAM_PACKING p))
    (hbad : bad = decide (crc16 ((head :: px).flatMap (leBytes 4)) ≠ tr % 65536)) {v : State}
    (hv : v = (s.modCam p (fun _ => { s.cams[p] with pclk := true, trigs := r, expected := some ((e + 1) % 2 ^ 24) })).storeRow p e
      (linePixels (s.num .CAM_PACKING p) (s.camW p) (s.num .CAM_FILL p) px) t (b2n bad)) :
    s.lineEnd p ⟨head :: (px ++ [tr]), false, false, time, mono, pos⟩ = if bad then v.lintAt .CAM_CRC p else v := by
  have hgap : (e + 2 ^ 24 - e) % 2 ^ 24 = 0 := by simp
  have hlimit' : (s.modCam p (fun c => { c with pclk := true })).num .CAM_LATE_LIMIT p = 0 := hlimit
  have hempty : (px ++ [tr]).isEmpty = false := by simp
  have hlast : (px ++ [tr]).getLastD 0 = tr := by simp
  unfold State.lineEnd
  refine (if_neg ?_).trans ?_
  · simp only [mod_get, hcnt, hnew]; simp
  have hmod : State.modCam (s.modCam p (fun c => { c with pclk := true })) p
      (fun c => { c with trigs := c.trigs.tail, expected := some ((e + 1) % 2 ^ 24) }) =
      s.modCam p (fun _ => { s.cams[p] with pclk := true, trigs := r, expected := some ((e + 1) % 2 ^ 24) }) := by
    rw [mod_const s, mod_mod, htrigs]; rfl
  simp only [mod_get, hexp, hty, hrsv, hcnt, hgap, htrigs, hlimit', hempty, List.dropLast_concat, hlast, hlen,
    ne_eq, not_true, decide_false, Bool.or_self, Bool.false_eq_true, if_false, List.getElem?_cons_zero, Bool.false_and, Bool.not_false,
    Bool.true_and, Nat.add_zero, State.gapFills, hmod, show ¬ 256 < 0 by decide]
  rw [← hbad, hv]; rfl

/-! ### Triggers -/

/-- A fill line of a port whose swath has room (R52). -/
theorem fillLine_open (s : State) (p : Fin 12) (C : CamPort) (w : Swath) (e : Nat) (t : Trig) (hopen : C.opened = some w)
    (hroom : w.lines < w.total) (hon : C.on = true) :
    (s.modCam p (fun _ => C)).fillLine p e t = (s.modCam p (fun _ => { C with
      expected := some ((e + 1) % 2 ^ 24), consumed := (e :: C.consumed).take 256
      opened := some { w with
        lines := w.lines + 1, last := t.pos, flags := w.flags ||| 2, nCrc := satInc w.nCrc 0, nMissing := satInc w.nMissing 1
        nLate := satInc w.nLate 0, nLength := satInc w.nLength 0
        rows := w.rows ++ [⟨e, List.replicate (s.camW p) (s.num .CAM_FILL p)⟩] } })).lintAt .CAM_MISSING p := by
  unfold State.fillLine
  dsimp only
  rw [store_open s p C w e _ t 2 hopen hroom hon, mod_mod]
  rfl

/-- Before the first line a trigger leaves silently (R52). -/
theorem trigTimeout_before {s : State} {p : Fin 12} {t : Trig} {r : List Trig} (htrigs : s.cams[p].trigs = t :: r)
    (hexp : s.cams[p].expected = none) : s.trigTimeout p = s.modCam p (fun c => { c with trigs := r }) := by
  unfold State.trigTimeout
  simp only [htrigs, mod_get, hexp]

/-- After the first line a trigger leaves with a fill line (R52). -/
theorem trigTimeout_fill {s : State} {p : Fin 12} {t : Trig} {r : List Trig} {e : Nat} (htrigs : s.cams[p].trigs = t :: r)
    (hexp : s.cams[p].expected = some e) :
    s.trigTimeout p = (s.modCam p (fun c => { c with trigs := r })).fillLine p e t := by
  unfold State.trigTimeout
  simp only [htrigs, mod_get, hexp]

/-- A trigger of a port with no pulse active is issued with its stamp; it joins the queue of a port whose triggers have a source (R49, R53). -/
theorem camTrigger_issued {s : State} {p : Fin 12} {C : CamPort} (hruns : (s.modCam p (fun _ => C)).camRuns p = true) (hidle : C.pulse = false) :
    (s.num .CAM_TRIG_SRC p = 0 → (s.modCam p (fun _ => C)).camTrigger p =
      (s.modCam p (fun _ => { C with pulse := true })).emit (.camTrig p s.netTime)) ∧
    (s.num .CAM_TRIG_SRC p ≠ 0 → C.trigs.length < 16 → (s.modCam p (fun _ => C)).camTrigger p =
      (s.modCam p (fun _ => { C with pulse := true, trigs := C.trigs ++ [⟨s.netTime, s.now, s.encPos (s.num .CAM_ENC_SRC p)⟩] })).emit
        (.camTrig p s.netTime)) := by
  have hsrc : (s.modCam p (fun _ => C)).num .CAM_TRIG_SRC p = s.num .CAM_TRIG_SRC p := rfl
  have hpulse : (s.modCam p (fun _ => C)).cams[p].pulse = false := by rw [mod_get, hidle]
  unfold State.camTrigger
  simp only [hruns, hpulse, hsrc, Bool.not_true, Bool.false_eq_true, if_false]
  refine ⟨fun h0 => ?_, fun h0 hroom => ?_⟩
  · rw [if_pos h0, mod_mod]; rfl
  · rw [if_neg h0, mod_mod, if_pos (by rw [State.emit_cams, mod_get]; exact hroom)]
    exact congrArg (State.emit · (.camTrig p s.netTime)) (mod_mod s p { C with pulse := true }
      (fun c => { c with trigs := c.trigs ++ [⟨s.netTime, s.now, s.encPos (s.num .CAM_ENC_SRC p)⟩] }))

/-! ### Blanking periods -/

/-- What the beats of a blanking period miss the pattern of R62 by. -/
def patternMiss (a b c d : BitVec 32) : Nat :=
  (a.toNat ^^^ 0x55555555) ||| (b.toNat ^^^ 0xAAAAAAAA) ||| c.toNat ||| (d.toNat ^^^ 0xFFFFFFFF)

/-- A blanking period of a port under test is wrong in the lanes where its beats miss the pattern (R62). -/
theorem execBlankingPeriodEnd_eq {s : State} {p : Fin 12} (a b c d : BitVec 32) (hruns : s.camRuns p = true) (htest : s.flag .CAM_TP_ENABLE p = true) :
    execBlankingPeriodEnd p [a, b, c, d] s = if patternMiss a b c d = 0 then .next s else
      settled ((s.modCam p (fun k => { k.flag 0x40 0 with tpBits := k.tpBits ||| patternMiss a b c d })).lintAt .CAM_TESTPAT p) := by
  have hmiss : ((([a, b, c, d].take 4).map BitVec.toNat).zip patternWords).foldl (fun m e => m ||| (e.1 ^^^ e.2)) 0 = patternMiss a b c d := by
    simp [patternWords, patternMiss]
  unfold execBlankingPeriodEnd
  simp only [hruns, htest, hmiss]
  simp

/-- Settles O30: in each clause the row's effect on a running port is one change of the port, with the counter of what went wrong;
the swath that is open has room, so that no row closes it. -/
theorem cameraLines : Obligations.CameraLines := by
  unfold Obligations.CameraLines
  intro s p hruns
  have hon := camRuns_on hruns
  refine ⟨?_, ?_, ?_, ?_, ?_⟩
  · intro head px tr time mono pos w t r e bad hopen hroom htrigs hexp hlimit hty hrsv hcnt hnew hlen hbad
    obtain ⟨u, hu, hends⟩ := done_ends s (s.lineEnd p ⟨(head :: (px ++ [tr])).map BitVec.toNat, false, false, time, mono, pos⟩)
    refine ⟨u, _, ?_, rfl, ?_⟩
    · rw [exec_camLineEnd, execCamLineEnd, if_pos hruns, hu]
    · rw [List.map_cons, List.map_append, List.map_cons, List.map_nil,
        lineEnd_expected htrigs hexp hlimit hty hrsv hcnt hnew (by rw [List.length_map]; exact hlen) hbad rfl,
        store_open _ _ _ w e _ t _ ?_ hroom ?_] at hends
      · cases bad <;> exact hends
      · exact hopen
      · exact hon
  · intro head rest fval lost time mono pos e hexp hty hrsv hold hclosed
    obtain ⟨u, hu, hends⟩ := done_ends s (s.lineEnd p ⟨(head :: rest).map BitVec.toNat, fval, lost, time, mono, pos⟩)
    refine ⟨u, ?_, ?_⟩
    · rw [exec_camLineEnd, execCamLineEnd, if_pos hruns, hu]
    · rw [List.map_cons, lineEnd_consumed hexp hty hrsv hold, flag_waits ?_] at hends
      · exact hends
      · exact hclosed
  · intro t r hsrc hlimit htrigs
    obtain ⟨u, hu, hends⟩ := done_ends s (s.trigTimeout p)
    have hexec : exec (.camTriggerTimeout p) s = .next u := by
      rw [exec_camTriggerTimeout, execCamTriggerTimeout, if_pos (by simp [hruns, hsrc, hlimit]), hu]
    refine ⟨fun hexp => ⟨u, hexec, ?_⟩, fun e w hexp hopen hroom => ⟨u, hexec, ?_⟩⟩
    · rwa [trigTimeout_before htrigs hexp] at hends
    · rw [trigTimeout_fill htrigs hexp, mod_const, fillLine_open _ _ _ w e t ?_ hroom ?_] at hends
      · exact hends
      · exact hopen
      · exact hon
  · intro n hn hidle
    have hexec : exec (.camTrigDeferred p) s = done s ((s.modCam p (fun _ => { s.cams[p] with deferred := n })).camTrigger p) := by
      rw [exec_camTrigDeferred, execCamTrigDeferred, if_pos ⟨by rw [hn]; exact n.succ_ne_zero, by rw [hidle]; decide⟩, mod_const, hn]; rfl
    obtain ⟨hfree, hqueued⟩ := camTrigger_issued (s := s) (p := p) (C := { s.cams[p] with deferred := n }) ((camRuns_modCam rfl).trans hruns) hidle
    refine ⟨fun hsrc => ?_, fun hsrc hroom => ?_⟩
    · rw [hexec, hfree hsrc]; exact done_ends _ _
    · rw [hexec, hqueued hsrc hroom]; exact done_ends _ _
  · intro a b c d htest hclosed wrong hwrong
    have hexec : exec (.blankingPeriodEnd p [a, b, c, d]) s = _ := execBlankingPeriodEnd_eq a b c d hruns htest
    rw [show patternMiss a b c d = wrong from hwrong.symm] at hexec
    refine ⟨fun h => ?_, fun h => ?_⟩
    · rw [hexec, if_neg h, mod_const, flag_waits hclosed]; exact settled_ends _
    · rw [hexec, if_pos h]

end Sys2Proof.Machine
end

section
/-! SUPPORT. The end of a swath, and what follows a closed one (R56, R59, R60, R65 to R74, R164, R165, R217). -/

namespace Sys2Proof.Machine

open Sys2Proof

/-! ### The close of a swath -/

/-- A port without a FAST plan hands nothing on, nor is a swath handed on that STOP or a record keeps. -/
theorem handOff_kept {s : State} {p : Fin 12} {w : Swath} (h : s.fastPlan p = none ∨ w.stopped = true ∨ w.decided = true) :
    s.handOff p w = s := by
  unfold State.handOff
  cases hplan : s.fastPlan p with
  | none => rfl
  | some f =>
    have hkept : (w.stopped || w.decided) = true := by
      rcases h with h | h | h
      · rw [hplan] at h; cases h
      · rw [h, Bool.true_or]
      · rw [h, Bool.or_true]
    exact if_pos hkept

/-- A swath that is handed on leaves a FAST request in the queue (R60); the open swath of its port, the field block and the entries stay. -/
theorem handOff_fast {s : State} {p : Fin 12} {w : Swath} {slot k : Nat} {pkg : Package} {pl : Plan}
    (hplan : s.fastPlan p = some (slot, k, pkg, pl)) (hs : w.stopped = false) (hd : w.decided = false) (hstop : s.cox.stopReq = false)
    (hruns : s.dev.state.runs = true) (hgood : s.spoiled p w = false)
    (hroom : (s.cox.queue.filter (fun x => x.resume.isNone)).length < 128) :
    ∃ r, (r.kind = .fast ∧ r.slot = slot ∧ r.plan = k ∧ r.swath = some (p.val, w.cnt) ∧ r.trig = s.fabNow) ∧
      (s.handOff p w).cox.queue = queueIns r s.cox.queue ∧
      (s.handOff p w).cams[p].opened = s.cams[p].opened ∧ (s.handOff p w).cams[p].lastSwath = s.cams[p].lastSwath ∧
      (s.handOff p w).field = s.field ∧ (s.handOff p w).od = s.od ∧ (s.handOff p w).boot = s.boot := by
  rw [handOff_form p w hd hs slot k pkg pl s hplan hstop hruns hgood hroom]
  unfold State.swathEnds
  rw [modSwath_eq]
  refine ⟨⟨.fast, slot, k, pkg.partition, s.fabNow, s.deadlineOf pkg.partition pl s.fabNow, s.cox.nextOrder, some (p.val, w.cnt), false,
    w.cnt % 2 ^ 32, none, false⟩, ⟨rfl, rfl, rfl, rfl, rfl⟩, ?_⟩
  split <;> simp only [State.modCox_cams, State.modSaf_cams, mod_get] <;> exact ⟨rfl, rfl, rfl, rfl, rfl, rfl⟩

/-- Without a waiting change of its own a port closes its swath, hands it on, and stops where its enable is gone. -/
theorem closeSwath_eq {s v : State} {p : Fin 12} {w done : Swath} {c : CamPort} (hopen : s.cams[p].opened = some w)
    (hdone : done = { w with crc := pixelCrc w.depth w.rows, rows := if w.buf.isNone then [] else w.rows, closed := some s.now })
    (hc : c = { s.cams[p] with
      opened := none, lastSwath := w.cnt, afterOverrun := w.buf.isNone, nextBuf := s.cams[p].free.head?, free := s.cams[p].free.tail
      closed := keepClosed (s.num .CAM_SWATH_BUFS p) (done :: s.cams[p].closed) })
    (hwait : ∀ a ∈ s.od.waiting, a.1 / 256 ≠ 0x2210 + p.val ∧ a.1 / 256 ≠ 0x2310 + p.val ∧ a.1 / 256 ≠ 0x2D50 + p.val)
    (hv : (s.modCam p (fun _ => c)).handOff p done = v) (hod : v.od = s.od) :
    s.closeSwath p = if v.flag .CAM_ENABLE p then v else v.modCam p CamPort.stopPort := by
  have hb : v.camBoundary p = v := boundary_none v p (by rw [hod]; exact hwait)
  have hclose : s.closeSwath p = if (((s.modCam p (fun _ => c)).handOff p done).camBoundary p).flag .CAM_ENABLE p
      then ((s.modCam p (fun _ => c)).handOff p done).camBoundary p
      else (((s.modCam p (fun _ => c)).handOff p done).camBoundary p).modCam p CamPort.stopPort := by
    unfold State.closeSwath
    rw [hopen, hc, hdone]
    rfl
  rw [hclose, hv, hb]

/-- A BOOLEAN entry is read from the committed values and the fuses alone. -/
theorem flag_congr {s t : State} (hod : t.od = s.od) (hboot : t.boot = s.boot) (e : Ent) (i : Nat) : t.flag e i = s.flag e i := by
  unfold State.flag State.num
  rw [val_congr (congrArg _ hod) (congrArg _ hboot)]

/-- Settles O31: a swath that nothing hands on leaves the port as it closed, enabled or stopped; one that is handed on changes the queue
and closed swaths alone, so that its port is still enabled. -/
theorem swathClose : Obligations.SwathClose := by
  unfold Obligations.SwathClose
  intro s p w done c hopen hfull hwait hdone hc
  have hexec : exec (.swathClose p) s = Machine.done s (s.closeSwath p) := by
    rw [exec_swathClose, execSwathClose, hopen]
    exact if_pos hfull
  have hstop : done.stopped = w.stopped := by rw [hdone]
  have hdec : done.decided = w.decided := by rw [hdone]
  refine ⟨fun hkept => ?_, fun slot k pkg pl hplan hs hd hreq hruns hgood hroom hon => ?_⟩
  · have hhand : (s.modCam p (fun _ => c)).handOff p done = s.modCam p (fun _ => c) :=
      handOff_kept (by rw [hstop, hdec]; exact hkept)
    rw [hexec, closeSwath_eq hopen hdone hc hwait hhand rfl, mod_mod]
    have hflag : (s.modCam p (fun _ => c)).flag .CAM_ENABLE p = s.flag .CAM_ENABLE p := rfl
    rw [hflag]
    cases s.flag .CAM_ENABLE p <;> exact done_ends _ _
  · have hspoil : (s.modCam p (fun _ => c)).spoiled p done = false := by rw [hdone]; exact hgood
    obtain ⟨r, ⟨hkind, hslot, hpl, hsw, htrig⟩, hqueue, hnone, hlast, hfield, hod, hboot⟩ :=
      handOff_fast (s := s.modCam p (fun _ => c)) hplan (hstop.trans hs) (hdec.trans hd) hreq hruns hspoil hroom
    obtain ⟨t, ht, hends⟩ := done_ends s (s.closeSwath p)
    have hflag : ((s.modCam p (fun _ => c)).handOff p done).flag .CAM_ENABLE p = true := (flag_congr hod hboot _ _).trans hon
    rw [closeSwath_eq hopen hdone hc hwait rfl hod, if_pos hflag] at hends
    rw [mod_get] at hnone hlast
    refine ⟨t, r, hexec.trans ht, hkind, hslot, hpl, ?_, htrig, ?_, ?_, ?_, ?_, ?_⟩
    · rw [hsw, hdone]
    · rw [hends.cox, hqueue]; rfl
    · rw [hends.cams, hnone, hc]
    · rw [hends.cams, hlast, hc]
    · rw [hends.field, hfield]; rfl
    · rw [hends.od, hod]; rfl

/-! ### What follows a closed swath -/

/-- A seam of fill leaves the counter of a swath. -/
theorem withFillSeam_cnt (w : Swath) (n : Nat) : (w.withFillSeam n).cnt = w.cnt := by
  unfold Swath.withFillSeam; split <;> rfl

/-- A seam of fill leaves the planes of a swath. -/
theorem withFillSeam_planes (w : Swath) (n : Nat) : (w.withFillSeam n).planes = w.planes := by
  unfold Swath.withFillSeam; split <;> rfl

/-- Whether the swath waits for a list or its request is eligible now, only the queue changes (R217). -/
theorem eligible_rest (s : State) (p n : Nat) (waits : Bool) : ∃ c, (if waits then s else s.makeEligible p n) = { s with cox := c } := by
  cases waits
  · exact ⟨_, rfl⟩
  · exact ⟨s.cox, rfl⟩

/-- MANGLE_SWATH_DONE puts a processed swath in the place of the oldest one without planes, and its statistics before the others (R56, R72). -/
theorem execMangleSwathDone_eq {s : State} {p : Fin 12} {w : Swath} (h : s.cams[p].toMangle = some w) : ∃ (x : Swath) (give : Swath → Swath) (q : Cox),
    (x.cnt = w.cnt ∧ x.planes = some (w.mgl.selected.map w.planeRows)) ∧
    execMangleSwathDone p s = settled { s.modCam p (fun c => { c with
      closed := c.closed.map (fun y => if y.cnt = w.cnt then x else give y), opened := c.opened.map give
      stats := (w.stats p :: c.stats).take (s.num .CAM_SWATH_BUFS p) }) with cox := q } := by
  unfold execMangleSwathDone
  rw [h]
  dsimp only
  obtain ⟨q, hq⟩ := eligible_rest _ p w.cnt w.mgl.roi
  rw [hq]
  refine ⟨_, _, q, ?_, rfl⟩
  exact ⟨withFillSeam_cnt _ _, withFillSeam_planes _ _⟩

/-- ROI_LIST_BUILD on a port without a FAST plan: the list is what is carried, or the fallback of R74, and nothing is beyond its bound. -/
theorem execRoiListBuild_eq {s : State} {p : Fin 12} {w : Swath} {carried : Option (List Box)} {l : List Box}
    (h : s.cams[p].toList = some w) (hplan : s.fastPlan p = none)
    (hcarried : (s.cams[p].swath? (w.cnt - 1)).bind (carryList w) = carried)
    (hl : carried.getD (if w.mgl.fallback = 0 then [⟨0, w.width, 0, w.total, 0, false, 0, 0⟩] else []) = l) (hfits : l.length ≤ 1024) :
    ∃ g : Swath → Swath, ((g w).cnt = w.cnt ∧ (g w).roi = some ⟨carried.isNone, w.cnt, l⟩) ∧
      execRoiListBuild p s = done s (State.makeEligible ((if carried.isNone then (s.modSwath p w.cnt g).lintAt .ROI_FALLBACK p
        else s.modSwath p w.cnt g).lintBy .ROI_OVF p 0) p w.cnt) := by
  have htake : l.take 1024 = l := List.take_of_length_le hfits
  have hdrop : l.drop 1024 = [] := List.drop_of_length_le hfits
  refine ⟨fun x => { x with roi := some ⟨carried.isNone, w.cnt, l⟩ }, ⟨rfl, rfl⟩, ?_⟩
  unfold execRoiListBuild
  rw [h]
  dsimp only
  rw [hplan, hcarried]
  cases carried with
  | none =>
    rw [Option.getD_none] at hl
    simp only [hl, htake, hdrop]
    rfl
  | some b =>
    rw [Option.getD_some] at hl
    simp only [hl, htake, hdrop]
    rfl

/-- The list of a port without a FAST plan stands in its swath; the fallback is counted, and nothing else of the ports changes (R73, R74). -/
theorem roiListBuild_ends {s : State} {p : Fin 12} {w : Swath} {carried : Option (List Box)} {l : List Box}
    (h : s.cams[p].toList = some w) (hw : w ∈ s.cams[p].closed) (hplan : s.fastPlan p = none)
    (hcarried : (s.cams[p].swath? (w.cnt - 1)).bind (carryList w) = carried)
    (hl : carried.getD (if w.mgl.fallback = 0 then [⟨0, w.width, 0, w.total, 0, false, 0, 0⟩] else []) = l) (hfits : l.length ≤ 1024) :
    ∃ t x, exec (.roiListBuild p) s = .next t ∧ x ∈ t.cams[p].closed ∧ x.cnt = w.cnt ∧ x.roi = some ⟨carried.isNone, w.cnt, l⟩ ∧
      t.field = s.field ∧ (∀ q, q ≠ p → t.cams[q] = s.cams[q]) ∧
      (carried = none → t.lintVal .ROI_FALLBACK p = satInc (s.lintVal .ROI_FALLBACK p) 1) := by
  obtain ⟨g, ⟨hcnt, hroi⟩, heq⟩ := execRoiListBuild_eq h hplan hcarried hl hfits
  obtain ⟨t, ht, hends⟩ := done_ends s (State.makeEligible ((if carried.isNone then (s.modSwath p w.cnt g).lintAt .ROI_FALLBACK p
    else s.modSwath p w.cnt g).lintBy .ROI_OVF p 0) p w.cnt)
  have hcams : t.cams = (s.modSwath p w.cnt g).cams := by rw [hends.cams]; cases carried <;> rfl
  obtain ⟨hmem, hothers⟩ := roi_mem s p w g t hw hcnt hcams
  refine ⟨t, g w, (exec_roiListBuild p s).trans (heq.trans ht), hmem, hcnt, hroi, ?_, hothers, ?_⟩
  · rw [hends.field, ← State.modSwath_field s p w.cnt g]
    cases carried <;> rfl
  · rintro rfl
    rw [lintVal_congr (congrArg OdStore.lints hends.od)]
    refine (ovf_lint ((s.modSwath p w.cnt g).lintAt .ROI_FALLBACK p) p 0).trans ?_
    rw [lintVal_lintAt, lintVal_congr (congrArg OdStore.lints (State.modSwath_od ..))]

/-- SWATH_BUFFER_RELEASE where no allocation waits and the release is in time: the buffer is free again (R164, R165). -/
theorem execSwathBufferRelease_eq {s : State} {p : Fin 12} {w : Swath} (h : s.cams[p].returnable = some w)
    (hwaits : (s.cams[p].firstDone && s.cams[p].on && s.cams[p].nextBuf.isNone && s.cams[p].openNow.isNone) = false)
    (hlate : ∀ d, w.statedDone = some d → ¬ d < s.fabNow) :
    execSwathBufferRelease p s = settled (s.modCam p (fun c => { c with
      closed := c.closed.map (fun x => if x.cnt = w.cnt then { x with released := true } else x), free := c.free ++ [w.buf.getD 0] })) := by
  unfold execSwathBufferRelease
  dsimp only
  rw [h]
  dsimp only
  rw [hwaits]
  cases hd : w.statedDone with
  | none => rfl
  | some d => simp only [decide_eq_false (hlate d hd)]; rfl

/-- Settles O32: the mangle and the list put a swath of the same counter in the place of the one they found, and the buffer of a swath
that is released joins the free ones. -/
theorem swathWork : Obligations.SwathWork := by
  unfold Obligations.SwathWork
  intro s p w
  refine ⟨fun hmangle hw => ?_, fun hlist hw hplan => ⟨fun hcarried hfallback => ?_, fun l hcarried hfits => ?_⟩, fun hret hwaits hlate => ?_⟩
  · obtain ⟨x, give, q, ⟨hcnt, hplanes⟩, heq⟩ := execMangleSwathDone_eq hmangle
    obtain ⟨t, ht, hends⟩ := settled_ends { s.modCam p (fun c => { c with
      closed := c.closed.map (fun y => if y.cnt = w.cnt then x else give y), opened := c.opened.map give
      stats := (w.stats p :: c.stats).take (s.num .CAM_SWATH_BUFS p) }) with cox := q }
    refine ⟨t, x, (exec_mangleSwathDone p s).trans (heq.trans ht), ?_, hcnt, hplanes, ?_, fun k hk => ?_, hends.field, hends.od, hends.mem⟩
    · simp only [hends.cams, mod_get]
      exact List.mem_map.mpr ⟨w, hw, if_pos rfl⟩
    · simp only [hends.cams, mod_get]
    · simp only [hends.cams, mod_get_ne s p k _ hk]
  · obtain ⟨t, x, hexec, hmem, hcnt, hroi, hfield, hothers, hlint⟩ :=
      roiListBuild_ends hlist hw hplan hcarried (l := [⟨0, w.width, 0, w.total, 0, false, 0, 0⟩]) (by rw [if_pos hfallback]; rfl) (by simp)
    exact ⟨t, x, hexec, hmem, hcnt, hroi, hlint rfl, hfield, hothers⟩
  · obtain ⟨t, x, hexec, hmem, hcnt, hroi, hfield, hothers, _⟩ := roiListBuild_ends hlist hw hplan hcarried rfl hfits
    exact ⟨t, x, hexec, hmem, hcnt, hroi, hfield, hothers⟩
  · rw [exec_swathBufferRelease, execSwathBufferRelease_eq hret hwaits (fun d hd => by rw [hd] at hlate; exact of_decide_eq_false hlate)]
    exact settled_ends _

end Sys2Proof.Machine
end

section
/-! SUPPORT. Pulses of divided outputs, trigger slots and camera ports (R49, R461, R463, R470). -/

namespace Sys2Proof.Machine

open Sys2Proof

/-- A divider that is changed. -/
theorem div_get (s : State) (d : Fin 16) (f : Divider → Divider) : (s.modDiv d f).field.divs[d] = f s.field.divs[d] := by
  simp [State.modDiv, State.modField]

/-- The divider of a divided output (R461). -/
theorem outDivider {e : Fin 4} {d : Fin 16} (h : d.val = 12 + e.val) : toFin? 16 (12 + e.val) = some d := by
  unfold toFin?
  rw [dif_pos (by omega)]
  exact congrArg some (Fin.ext h.symm)

/-- A pulse of a divided output in PULSE mode with no pulse active (R461). -/
theorem divPulse_output {s : State} {e : Fin 4} {d : Fin 16} (hd : d.val = 12 + e.val) (hidle : s.field.divs[d].pulse = false)
    (hmode : s.num .DIV_OUT_MODE d = 0) : s.divPulse d = (s.modDiv d (fun v => { v with pulse := true })).encoPins e true false := by
  have hout : toFin? 12 d.val = none := dif_neg (by omega)
  have hpin : d.val - 12 = e.val := by omega
  unfold State.divPulse
  rw [hout]
  simp only [hmode, hidle, hpin]
  simp

/-- An event of a slot without a camera port in TIMED mode. -/
theorem slotEvent_plain {s : State} {n : Fin 32} {at_ : Int} (h : 12 ≤ n.val ∨ s.num .CAM_TRIG_SRC n ≠ 2) :
    s.slotEvent n at_ = s.modSlot n (fun v => { v with
      pulse := some (if s.flag .TRG_WIDTH_CNT n then .position (at_ + s.num .TRG_WIDTH n) else .cycles), next := v.next + 1 }) := by
  unfold State.slotEvent
  by_cases hn : n.val < 12
  · rw [show toFin? 12 n.val = some ⟨n.val, hn⟩ from dif_pos hn]
    exact if_neg (h.resolve_left (by omega))
  · rw [show toFin? 12 n.val = none from dif_neg hn]

/-- An event of a slot whose camera port is TIMED triggers it (R49, R463). -/
theorem slotEvent_timed {s : State} {n : Fin 32} {p : Fin 12} {at_ : Int} (hp : p.val = n.val) (h : s.num .CAM_TRIG_SRC n = 2) :
    s.slotEvent n at_ = (s.modSlot n (fun v => { v with
      pulse := some (if s.flag .TRG_WIDTH_CNT n then .position (at_ + s.num .TRG_WIDTH n) else .cycles), next := v.next + 1 })).camTrigger p := by
  unfold State.slotEvent
  rw [show toFin? 12 n.val = some p by rw [← hp]; exact dif_pos p.isLt]
  exact if_pos (by rw [hp]; exact h)

/-- DIV_PULSE_DEFERRED by the divider of its output. -/
theorem exec_divPulseDeferred_eq (s : State) {e : Fin 4} {d : Fin 16} (hd : d.val = 12 + e.val) :
    exec (.divPulseDeferred e) s = if s.field.divs[d].deferred ≠ 0 ∧ ¬ s.field.divs[d].pulse then
      settled ((s.modDiv d (fun v => { v with deferred := v.deferred - 1 })).divPulse d) else .next s := by
  rw [exec_divPulseDeferred, execDivPulseDeferred, outDivider hd]

/-- PULSE_WIDTH_END by the divider of its output. -/
theorem exec_pulseWidthEnd_enco (s : State) {e : Fin 4} {d : Fin 16} (hd : d.val = 12 + e.val) :
    exec (.pulseWidthEnd (.enco e)) s = if s.field.divs[d].pulse then
      settled ((s.modDiv d (fun v => { v with pulse := false })).encoPins e false false) else .next s := by
  rw [exec_pulseWidthEnd, execPulseWidthEnd, outDivider hd]

/-- PULSE_WIDTH_END of a camera trigger. -/
theorem exec_pulseWidthEnd_cam (s : State) (p : Fin 12) :
    exec (.pulseWidthEnd (.cam p)) s = if s.cams[p].pulse then
      settled ((s.modCam p (fun c => { c with pulse := false })).emit (.camTrigEnd p)) else .next s := rfl

/-- Settles O58: each row is one test and one effect. A deferred pulse finds its output idle, so that it is issued; a slot's event is at
position 0 and reaches a camera port only as the slot of a TIMED one. -/
theorem pulses : Obligations.Pulses := by
  unfold Obligations.Pulses
  intro s
  refine ⟨fun e d hd => ⟨fun hwaits hidle hmode => ?_, fun h => ?_, fun hpulse => ?_, fun hpulse => ?_⟩,
    fun n u hu => ⟨fun h => ?_, fun hmore hsrc hactive => ?_, ?_⟩, fun p => ⟨fun hpulse => ?_, fun hpulse => ?_⟩, fun id => ?_⟩
  · rw [exec_divPulseDeferred_eq s hd, if_pos ⟨hwaits, by rw [hidle]; decide⟩, divPulse_output hd ?_ ?_]
    · exact settled_ends _
    · rw [div_get]; exact hidle
    · exact hmode
  · rw [exec_divPulseDeferred_eq s hd]
    exact if_neg (fun c => h.elim c.1 c.2)
  · rw [exec_pulseWidthEnd_enco s hd, if_pos hpulse]
    exact settled_ends _
  · rw [exec_pulseWidthEnd_enco s hd, hpulse]
    rfl
  · rw [exec_timeSlotEvent, execTimeSlotEvent]
    exact if_neg (by rcases h with h | h | h <;> simp [h])
  · have hexec : exec (.timeSlotEvent n) s = done s (s.slotEvent n 0) := by
      rw [exec_timeSlotEvent, execTimeSlotEvent]
      exact if_pos (by simp [hmore, hsrc, hactive])
    rw [hu, hexec]
    refine ⟨fun h => ?_, fun p hp h => ?_⟩
    · rw [slotEvent_plain h, Int.zero_add]
      exact done_ends _ _
    · rw [slotEvent_timed hp h, Int.zero_add]
      exact done_ends _ _
  · exact settled_ends _
  · rw [exec_pulseWidthEnd_cam, if_pos hpulse]
    exact settled_ends _
  · rw [exec_pulseWidthEnd_cam, hpulse]
    rfl
  · obtain ⟨t, ht, hends⟩ := settled_ends (s.modFire (fun f =>
      { f with entries := f.entries.filter (fun e => !(e.id == id && e.held.isSome && decide (e.off = .time))) }))
    exact ⟨t, ht, hends.field, hends⟩

end Sys2Proof.Machine
end

section
/-! SUPPORT. The long accumulator of an exact class: what one product contributes, and the state after the last one (R88, R90, R92, R109). -/

namespace Sys2Proof.Machine

open Sys2Proof

/-! ### What the products contribute -/

/-- The sum of two accumulators: ACC added exactly, each flag ORed. `LongAcc.join` is this sum held to 176 bits (R92). -/
def LongAcc.plus (a b : LongAcc) : LongAcc := ⟨a.acc + b.acc, a.nan || b.nan, a.pinf || b.pinf, a.ninf || b.ninf⟩

/-- The contributions of two products may change places. -/
theorem LongAcc.plus_right_comm (a b c : LongAcc) : (a.plus b).plus c = (a.plus c).plus b := by
  simp only [LongAcc.plus, Int.add_right_comm a.acc b.acc, Bool.or_right_comm _ _ (LongAcc.nan c),
    Bool.or_right_comm _ _ (LongAcc.pinf c), Bool.or_right_comm _ _ (LongAcc.ninf c)]

/-- A product adds to an accumulator what it gives on an empty one (R88): the contribution depends on the operands alone. -/
theorem LongAcc.mac_eq_plus (a : LongAcc) (g1 g2 : Nat) (x y : ExactNum) :
    a.mac g1 g2 x y = a.plus (LongAcc.zero.mac g1 g2 x y) := by
  unfold LongAcc.mac
  cases x.mul y with
  | nan => simp [LongAcc.plus, LongAcc.zero]
  | inf neg => cases neg <;> simp [LongAcc.plus, LongAcc.zero]
  | fin _ _ _ => simp [LongAcc.plus, LongAcc.zero]

/-- Two products may be added in either order. -/
theorem LongAcc.mac_right_comm (a : LongAcc) (g1 g2 : Nat) (p q : ExactNum × ExactNum) :
    (a.mac g1 g2 p.1 p.2).mac g1 g2 q.1 q.2 = (a.mac g1 g2 q.1 q.2).mac g1 g2 p.1 p.2 := by
  rw [(a.mac g1 g2 p.1 p.2).mac_eq_plus, (a.mac g1 g2 q.1 q.2).mac_eq_plus, a.mac_eq_plus, a.mac_eq_plus, LongAcc.plus_right_comm]

/-- The sum of the products of a list does not depend on their order (R109). -/
theorem LongAcc.foldl_mac_perm {l m : List (ExactNum × ExactNum)} (h : l.Perm m) (g1 g2 : Nat) (a : LongAcc) :
    l.foldl (fun a p => a.mac g1 g2 p.1 p.2) a = m.foldl (fun a p => a.mac g1 g2 p.1 p.2) a :=
  h.foldl_eq' (fun p _ q _ a => a.mac_right_comm g1 g2 p q) a

/-! ### The state after the last product -/

theorem LongAcc.value_nan {a : LongAcc} (h : a.nan = true ∨ a.pinf = true ∧ a.ninf = true) (an : Nat) : a.value an = .nan :=
  if_pos (by simpa using h)

theorem LongAcc.value_pinf {a : LongAcc} (hnan : a.nan = false) (hpinf : a.pinf = true) (hninf : a.ninf = false) (an : Nat) :
    a.value an = .inf false := by
  simp [LongAcc.value, hnan, hpinf, hninf]

theorem LongAcc.value_ninf {a : LongAcc} (hnan : a.nan = false) (hpinf : a.pinf = false) (hninf : a.ninf = true) (an : Nat) :
    a.value an = .inf true := by
  simp [LongAcc.value, hnan, hpinf, hninf]

theorem LongAcc.value_finite {a : LongAcc} (hnan : a.nan = false) (hpinf : a.pinf = false) (hninf : a.ninf = false) (an : Nat) :
    a.value an = .scaled (decide (a.acc < 0)) a.acc.natAbs (-(an : Int)) := by
  simp [LongAcc.value, hnan, hpinf, hninf]

/-- Zero at any scale has numerator 0 and keeps its sign. -/
theorem ExactNum.scaled_zero (neg : Bool) (e : Int) : ∃ d, ExactNum.scaled neg 0 e = .fin neg 0 d := by
  unfold ExactNum.scaled
  split
  · exact ⟨1, by rw [Nat.zero_mul]⟩
  · exact ⟨_, rfl⟩

/-- Settles O9: the state is read off the flags in the order of R90, and every product adds a contribution of its own to ACC and the flags, so that
products may change places. -/
theorem reductions : Obligations.Reductions := by
  unfold Obligations.Reductions
  refine ⟨fun a an => ⟨fun h => LongAcc.value_nan h an, fun hnan hpinf hninf => LongAcc.value_pinf hnan hpinf hninf an,
    fun hnan hpinf hninf => LongAcc.value_ninf hnan hpinf hninf an, fun hnan hpinf hninf => LongAcc.value_finite hnan hpinf hninf an,
    fun hnan hpinf hninf hacc => ?_⟩, fun g1 g2 l m h a => LongAcc.foldl_mac_perm h g1 g2 a⟩
  rw [LongAcc.value_finite hnan hpinf hninf, hacc]
  exact ExactNum.scaled_zero false _

end Sys2Proof.Machine
end

section
/-! SUPPORT. Instructions of an oar that act on its registers alone (R96, R100, R274, R276). -/

namespace Sys2Proof.Machine

open Sys2Proof

/-! ### One step of an oar -/

/-- An instruction whose effect is a change of its own oar: the step gives the oar as `f` leaves it, and nothing else. -/
theorem oarStep_setOar {s : State} {c : Fin 6} {l : Fin 512} {o : Oar} {w n : Nat} {k : OarKind} (h : s.OarAt c l o w n k)
    (f : Oar → Nat → Nat → Oar) : ∃ t, s.oarStep c l k (fun o w n => s.setOar c l (some (f o w n))) = .next t ∧
      (s.setOar c l (some (f o w n))).EndsAs t := by
  rw [oarStep_does s c l o w n k _ h]
  exact setOar_ends s c l _

/-- A packed byte instruction (R276). -/
theorem packedStep_does {s : State} {c : Fin 6} {l : Fin 512} {o : Oar} {w n : Nat} {k : OarKind} (h : s.OarAt c l o w n k) :
    ∃ t, s.packedStep c l k = .next t ∧
      (s.setOar c l (some ((o.wx (rdOf w) (packedOp k (o.rx (rs1Of w)) (o.rx (rs2Of w)))).retire n))).EndsAs t :=
  oarStep_setOar h (fun o w n => (o.wx (rdOf w) (packedOp k (o.rx (rs1Of w)) (o.rx (rs2Of w)))).retire n)

/-- A conversion from a 16-bit format into FP32 (R276). -/
theorem widenStep_does {s : State} {c : Fin 6} {l : Fin 512} {o : Oar} {w n : Nat} {k : OarKind} (h : s.OarAt c l o w n k) (fmt : FloatFmt) :
    ∃ t, s.widenStep c l k fmt = .next t ∧
      (s.setOar c l (some ((o.wf (rdOf w) (fp32.encode false (fmt.decode (o.rx (rs1Of w) % 65536)))).retire n))).EndsAs t :=
  oarStep_setOar h (fun o w n => (o.wf (rdOf w) (fp32.encode false (fmt.decode (o.rx (rs1Of w) % 65536)))).retire n)

/-- A conversion from FP32 into a 16-bit format (R100, R276). -/
theorem narrowStep_does {s : State} {c : Fin 6} {l : Fin 512} {o : Oar} {w n : Nat} {k : OarKind} (h : s.OarAt c l o w n k) (fmt : FloatFmt) :
    ∃ t, s.narrowStep c l k fmt = .next t ∧
      (s.setOar c l (some ((o.wx (rdOf w) (fmt.encode false (fp32.decode (o.rf (rs1Of w))))).retire n))).EndsAs t :=
  oarStep_setOar h (fun o w n => (o.wx (rdOf w) (fmt.encode false (fp32.decode (o.rf (rs1Of w))))).retire n)

/-- An ordinary instruction (R276). -/
theorem oarBaseInstruction_does {s : State} {c : Fin 6} {l : Fin 512} {o : Oar} {w n : Nat} (h : s.OarAt c l o w n .base) :
    ∃ t, exec (.oarBaseInstruction c l) s = .next t ∧ (s.setOar c l (some (o.baseOp w n (s.oarCsr c o (csrOf w))))).EndsAs t := by
  rw [exec_oarBaseInstruction]
  exact oarStep_setOar h (fun o w n => o.baseOp w n (s.oarCsr c o (csrOf w)))

/-- A write to frm or fcsr (R274). -/
theorem frmWrite_does {s : State} {c : Fin 6} {l : Fin 512} {o : Oar} {w n : Nat} (h : s.OarAt c l o w n .frmWrite) :
    ∃ t, exec (.frmWrite c l) s = .next t ∧ (s.setOar c l (some ((o.csrOp w 0).retire n))).EndsAs t := by
  rw [exec_frmWrite]
  exact oarStep_setOar h (fun o w n => (o.csrOp w 0).retire n)

/-- The oar that a change of it leaves behind, at the end of the row. -/
theorem State.EndsAs.oar {s t : State} {c l : Nat} {q : Oar} (h : (s.setOar c l (some q)).EndsAs t) : t.oar? c l = some q := by
  unfold State.oar?
  rw [h.units]
  exact oar_get s c l q

/-! ### Ordinary instructions, by opcode -/

section
variable (o : Oar) {w : Nat} (n ro : Nat)

/-- LUI. -/
theorem baseOp_lui (h : opOf w = 0x37) : o.baseOp w n ro = (o.wx (rdOf w) (immU w)).retire n := by
  simp only [Oar.baseOp, h]

/-- AUIPC. -/
theorem baseOp_auipc (h : opOf w = 0x17) : o.baseOp w n ro = (o.wx (rdOf w) ((o.pc + immU w) % 2 ^ 32)).retire n := by
  simp only [Oar.baseOp, h]

/-- JAL. -/
theorem baseOp_jal (h : opOf w = 0x6F) :
    o.baseOp w n ro = (o.wx (rdOf w) ((o.pc + n) % 2 ^ 32)).jump ((o.pc + immJ w) % 2 ^ 32) := by
  simp only [Oar.baseOp, h]

/-- JALR. -/
theorem baseOp_jalr (h : opOf w = 0x67) :
    o.baseOp w n ro = (o.wx (rdOf w) ((o.pc + n) % 2 ^ 32)).jump ((o.rx (rs1Of w) + immI w) % 2 ^ 32 / 2 * 2) := by
  simp only [Oar.baseOp, h]

/-- BEQ. -/
theorem baseOp_beq (h : opOf w = 0x63) (h3 : f3Of w = 0) :
    o.baseOp w n ro = if o.rx (rs1Of w) = o.rx (rs2Of w) then o.jump ((o.pc + immB w) % 2 ^ 32) else o.retire n := by
  simp only [Oar.baseOp, h, h3, branchTaken, beq_iff_eq]

/-- ADDI. -/
theorem baseOp_addi (h : opOf w = 0x13) (h3 : f3Of w = 0) :
    o.baseOp w n ro = (o.wx (rdOf w) ((o.rx (rs1Of w) + immI w) % 2 ^ 32)).retire n := by
  simp [Oar.baseOp, h, h3, aluOp]

/-- MUL. -/
theorem baseOp_mul (h : opOf w = 0x33) (h3 : f3Of w = 0) (h7 : f7Of w = 1) :
    o.baseOp w n ro = (o.wx (rdOf w) (o.rx (rs1Of w) * o.rx (rs2Of w) % 2 ^ 32)).retire n := by
  simp only [Oar.baseOp, h, h3, h7, mulOp, if_true]

end

/-! ### CSR instructions -/

/-- An instruction on frm changes no flag and reads zero (R274). -/
theorem csrOp_frm (o : Oar) {w : Nat} (ro : Nat) (h : csrOf w = 2) : o.csrOp w ro = o.wx (rdOf w) 0 := by
  simp [Oar.csrOp, h]

/-- A write to fcsr writes the flags alone, and reads them (R274). -/
theorem csrOp_fcsr (o : Oar) {w : Nat} (ro : Nat) (h : csrOf w = 3) (hw : csrWrites w = true) :
    o.csrOp w ro = Oar.wx { o with
      fflags := csrNew (f3Of w) o.fflags (if 4 ≤ f3Of w then rs1Of w else o.rx (rs1Of w)) % 32 } (rdOf w) o.fflags := by
  simp [Oar.csrOp, h, hw]

/-- Settles O52: each command runs one change of its own oar, and what an ordinary instruction does follows its opcode. -/
theorem oarRegisters : Obligations.OarRegisters := by
  unfold Obligations.OarRegisters
  intro s c l o w n
  refine ⟨oarBaseInstruction_does, fun h t ht => ?_, fun f i k hmem h => ?_, packedStep_does, fun h => widenStep_does h bf16,
    fun h => narrowStep_does h bf16, fun h => widenStep_does h fp16, fun h => narrowStep_does h fp16,
    fun h => ⟨fun hfrm => ?_, fun hfcsr hwrites => ?_⟩⟩
  · obtain ⟨u, hu, hends⟩ := oarBaseInstruction_does h
    obtain rfl : u = t := Host.Outcome.next.inj (hu.symm.trans ht)
    obtain ⟨⟨hx, hf, hwait, haccess, hsliver, hserial, hstroke, hpass, hleft, hright, hbars⟩, hinstret⟩ :=
      only_base o w n (s.oarCsr c o (csrOf w))
    exact ⟨_, hends.oar, hx, hf, hwait, haccess, hsliver, hserial, hstroke, hpass, hleft, hright, hbars, hinstret,
      hends.mem, hends.cox, baseOp_lui o n _, baseOp_auipc o n _, baseOp_jal o n _, baseOp_jalr o n _, baseOp_beq o n _,
      baseOp_addi o n _, baseOp_mul o n _⟩
  · simp only [List.mem_cons, List.not_mem_nil, or_false, Prod.mk.injEq] at hmem
    obtain ⟨rfl, rfl, rfl⟩ | ⟨rfl, rfl, rfl⟩ | ⟨rfl, rfl, rfl⟩ | ⟨rfl, rfl, rfl⟩ | ⟨rfl, rfl, rfl⟩ := hmem <;>
      exact packedStep_does h
  · rw [← csrOp_frm o 0 hfrm]
    exact frmWrite_does h
  · rw [← csrOp_fcsr o 0 hfcsr hwrites]
    exact frmWrite_does h

end Sys2Proof.Machine
end

section
/-! SUPPORT. The check bits of an LPDDR5 burst: HAM, parity and SLICE are linear over exclusive-OR, so that what a decode finds depends on
the wrong bits alone (R185, R186). -/

namespace Sys2Proof.Machine

open Sys2Proof

/-! ### Exclusive-OR (the package's modules see core Lean alone, which has no cancellation of it) -/

theorem xor_xor_self (x y : Nat) : x ^^^ y ^^^ y = x := by rw [Nat.xor_assoc, Nat.xor_self, Nat.xor_zero]

theorem eq_of_xor_eq_zero {x y : Nat} (h : x ^^^ y = 0) : x = y := by rw [← xor_xor_self x y, h, Nat.zero_xor]

theorem xor_mod_two (x y : Nat) : (x ^^^ y) % 2 = (x + y) % 2 := by
  have h := Nat.xor_mod_two_eq_one (a := x) (b := y)
  omega

/-! ### Sums of weights -/

/-- The exclusive-OR of the weights of the set bits of `d` below bit `n`: HAM, the parity and SLICE are this sum for three weights. -/
def weightXor (w : Nat → Nat) (d : Nat) : Nat → Nat
  | 0 => 0
  | n + 1 => weightXor w d n ^^^ if d.testBit n then w n else 0

theorem weightXor_congr {w : Nat → Nat} {d e n : Nat} (h : ∀ i < n, d.testBit i = e.testBit i) : weightXor w d n = weightXor w e n := by
  induction n with
  | zero => rfl
  | succ n ih => rw [weightXor, weightXor, ih (fun i hi => h i (by omega)), h n (by omega)]

theorem weightXor_zero (w : Nat → Nat) (n : Nat) : weightXor w 0 n = 0 := by
  induction n with
  | zero => rfl
  | succ n ih => simp [weightXor, ih]

/-- The sum is linear over exclusive-OR. -/
theorem weightXor_xor (w : Nat → Nat) (d e n : Nat) : weightXor w (d ^^^ e) n = weightXor w d n ^^^ weightXor w e n := by
  induction n with
  | zero => exact (Nat.xor_self 0).symm
  | succ n ih =>
    have bit : (if (d ^^^ e).testBit n then w n else 0) = (if d.testBit n then w n else 0) ^^^ if e.testBit n then w n else 0 := by
      rw [Nat.testBit_xor]
      cases d.testBit n <;> cases e.testBit n <;> simp
    rw [weightXor, ih, bit, weightXor, weightXor]
    ac_rfl

/-- One set bit gives its own weight. -/
theorem weightXor_two_pow (w : Nat → Nat) (j n : Nat) : weightXor w (2 ^ j) n = if j < n then w j else 0 := by
  induction n with
  | zero => rfl
  | succ n ih =>
    rw [weightXor, ih, Nat.testBit_two_pow]
    obtain h | rfl | h := Nat.lt_trichotomy j n
    · rw [if_pos h, if_neg (by simpa using Nat.ne_of_lt h), if_pos (Nat.lt_succ_of_lt h), Nat.xor_zero]
    · rw [if_neg (Nat.lt_irrefl j), if_pos (by simp), if_pos (Nat.lt_succ_self j), Nat.zero_xor]
    · rw [if_neg (Nat.not_lt_of_gt h), if_neg (by simpa using Nat.ne_of_gt h), if_neg (Nat.not_lt.mpr h), Nat.xor_zero]

theorem weightXor_lt {w : Nat → Nat} {b n : Nat} (d : Nat) (h : ∀ i < n, w i < 2 ^ b) : weightXor w d n < 2 ^ b := by
  induction n with
  | zero => exact Nat.two_pow_pos b
  | succ n ih =>
    refine Nat.xor_lt_two_pow (ih fun i hi => h i (by omega)) ?_
    split
    · exact h n (by omega)
    · exact Nat.two_pow_pos b

/-- A fold that adds the weight of each set bit. -/
theorem foldl_range_eq_weightXor {f : Nat → Nat → Nat} {w : Nat → Nat} {d : Nat}
    (h : ∀ a i, f a i = a ^^^ if d.testBit i then w i else 0) (n : Nat) : (List.range n).foldl f 0 = weightXor w d n := by
  induction n with
  | zero => rfl
  | succ n ih => rw [List.range_succ, List.foldl_append, ih, List.foldl_cons, List.foldl_nil, h, weightXor]

/-! ### The code positions -/

theorem codePos_le (n p : Nat) : p ≤ codePos n p := by
  induction n generalizing p with
  | zero => exact Nat.le_refl p
  | succ n ih =>
    unfold codePos
    split
    · exact Nat.le_of_succ_le (ih (p + 1))
    · exact Nat.le_refl p

/-- Of three successive numbers from 1 on one is not a power of two, and it is the one that `codePos 2` takes. -/
theorem codePos_ne_two_pow {p : Nat} (hp : 0 < p) (k : Nat) : codePos 2 p ≠ 2 ^ k := by
  have not_pow : ∀ {q : Nat}, 2 ^ Nat.log2 q ≠ q → q ≠ 2 ^ k := by
    rintro q hq rfl
    exact hq (by rw [Nat.log2_two_pow])
  unfold codePos
  split
  case isFalse h => exact not_pow h
  case isTrue h =>
    unfold codePos
    split
    case isFalse h1 => exact not_pow h1
    case isTrue h1 =>
      unfold codePos
      -- two successive powers of two are 1 and 2, and 3 is none
      generalize Nat.log2 p = a at h
      generalize Nat.log2 (p + 1) = b at h1
      subst h
      have ha : a = 0 := by
        cases a with
        | zero => rfl
        | succ a =>
          cases b with
          | zero => have := Nat.two_pow_pos (a + 1); omega
          | succ b => rw [Nat.pow_succ, Nat.pow_succ] at h1; omega
      subst ha
      match k with
      | 0 => decide
      | 1 => decide
      | k + 2 => rw [Nat.pow_add]; omega

theorem codeList_length (n p : Nat) : (codeList n p).length = n := by
  induction n generalizing p with
  | zero => rfl
  | succ n ih => simp only [codeList, List.length_cons, ih]

theorem le_of_mem_codeList {n p q : Nat} (h : q ∈ codeList n p) : p ≤ q := by
  induction n generalizing p with
  | zero => cases h
  | succ n ih =>
    obtain rfl | h := List.mem_cons.mp h
    · exact codePos_le 2 p
    · exact Nat.le_trans (codePos_le 2 p) (Nat.le_of_succ_le (ih h))

theorem codeList_pairwise_lt (n p : Nat) : (codeList n p).Pairwise (· < ·) := by
  induction n generalizing p with
  | zero => exact List.Pairwise.nil
  | succ n ih => exact List.pairwise_cons.mpr ⟨fun q hq => le_of_mem_codeList hq, ih _⟩

theorem two_pow_not_mem_codeList {n p : Nat} (hp : 0 < p) (k : Nat) : 2 ^ k ∉ codeList n p := by
  induction n generalizing p with
  | zero => exact List.not_mem_nil
  | succ n ih =>
    rw [codeList, List.mem_cons, not_or]
    exact ⟨(codePos_ne_two_pow hp k).symm, ih (Nat.succ_pos _)⟩

/-- P_511 is 522: ten of the positions 1 to 522 are powers of two (R185). -/
theorem codeList_le_last : ∀ q ∈ codeList 512 1, q ≤ 522 := by decide +kernel

/-- P_j, the code position of data bit `j` (R185). -/
def burstPos (j : Nat) : Nat := (codeList 512 1).getD j 0

section
variable {j k : Nat}

theorem burstPos_eq_getElem (hj : j < (codeList 512 1).length) : burstPos j = (codeList 512 1)[j] := by simp [burstPos, hj]

theorem burstPos_mem (hj : j < 512) : burstPos j ∈ codeList 512 1 := by
  rw [burstPos_eq_getElem (by rwa [codeList_length])]
  exact List.getElem_mem _

theorem burstPos_ne_zero (hj : j < 512) : burstPos j ≠ 0 := Nat.ne_of_gt (le_of_mem_codeList (burstPos_mem hj))

theorem burstPos_lt_of_lt (hk : k < 512) (h : j < k) : burstPos j < burstPos k := by
  have hl : k < (codeList 512 1).length := by rwa [codeList_length]
  rw [burstPos_eq_getElem hl, burstPos_eq_getElem (Nat.lt_trans h hl)]
  exact List.pairwise_iff_getElem.mp (codeList_pairwise_lt 512 1) j k _ _ h

theorem burstPos_ne (hj : j < 512) (hk : k < 512) (h : j ≠ k) : burstPos j ≠ burstPos k := by
  obtain h | h := Nat.lt_or_gt_of_ne h
  · exact Nat.ne_of_lt (burstPos_lt_of_lt hk h)
  · exact Nat.ne_of_gt (burstPos_lt_of_lt hj h)

/-- The decoder finds a data bit by its position. -/
theorem findIdx?_burstPos (hj : j < 512) : (codeList 512 1).findIdx? (· == burstPos j) = some j := by
  have hl : j < (codeList 512 1).length := by rwa [codeList_length]
  refine List.findIdx?_eq_some_iff_getElem.mpr ⟨hl, ?_, fun i hi => ?_⟩
  · rw [burstPos_eq_getElem hl, beq_self_eq_true]
  · rw [← burstPos_eq_getElem (Nat.lt_trans hi hl), beq_iff_eq]
    exact Nat.ne_of_lt (burstPos_lt_of_lt hj hi)

/-- A Hamming bit's own position is that of no data bit. -/
theorem findIdx?_two_pow : (codeList 512 1).findIdx? (· == 2 ^ k) = none := by
  refine List.findIdx?_eq_none_iff.mpr fun q hq => beq_eq_false_iff_ne.mpr ?_
  rintro rfl
  exact two_pow_not_mem_codeList Nat.one_pos k hq

end

/-! ### HAM, parity and SLICE as sums of weights -/

theorem parityOf_eq_weightXor (d n : Nat) : parityOf d n = weightXor (fun _ => 1) d n :=
  foldl_range_eq_weightXor (fun a i => by cases d.testBit i <;> rfl) n

theorem sliceOf_eq_weightXor (d : Nat) : sliceOf d = weightXor (fun j => 2 ^ (j % 5)) d 512 :=
  foldl_range_eq_weightXor (fun a i => by cases d.testBit i <;> simp) 512

theorem hamFold_append (d : Nat) (l : List Nat) (p j acc : Nat) :
    hamFold d (l ++ [p]) j acc = hamFold d l j acc ^^^ if d.testBit (j + l.length) then p else 0 := by
  induction l generalizing j acc with
  | nil => cases h : d.testBit j <;> simp [hamFold, h]
  | cons q l ih => rw [List.cons_append, hamFold, hamFold, ih, List.length_cons, Nat.add_right_comm j 1, Nat.add_assoc]

theorem hamOf_eq_weightXor (d : Nat) : hamOf d = weightXor burstPos d 512 := by
  have take_sum : ∀ n ≤ (codeList 512 1).length, hamFold d ((codeList 512 1).take n) 0 0 = weightXor burstPos d n := by
    intro n hn
    induction n with
    | zero => rfl
    | succ n ih =>
      rw [List.take_succ_eq_append_getElem hn, hamFold_append, ih (Nat.le_of_succ_le hn), weightXor, burstPos_eq_getElem hn,
        List.length_take_of_le (Nat.le_of_succ_le hn), Nat.zero_add]
  have h := take_sum _ (Nat.le_refl _)
  rwa [List.take_length, codeList_length] at h

theorem hamOf_xor (d e : Nat) : hamOf (d ^^^ e) = hamOf d ^^^ hamOf e := by
  simp only [hamOf_eq_weightXor, weightXor_xor]

theorem parityOf_xor (d e n : Nat) : parityOf (d ^^^ e) n = parityOf d n ^^^ parityOf e n := by
  simp only [parityOf_eq_weightXor, weightXor_xor]

theorem hamOf_zero : hamOf 0 = 0 := by rw [hamOf_eq_weightXor, weightXor_zero]

theorem parityOf_zero (n : Nat) : parityOf 0 n = 0 := by rw [parityOf_eq_weightXor, weightXor_zero]

theorem hamOf_two_pow {j : Nat} (hj : j < 512) : hamOf (2 ^ j) = burstPos j := by
  rw [hamOf_eq_weightXor, weightXor_two_pow, if_pos hj]

theorem parityOf_two_pow {j n : Nat} (hj : j < n) : parityOf (2 ^ j) n = 1 := by
  rw [parityOf_eq_weightXor, weightXor_two_pow, if_pos hj]

theorem hamOf_lt (d : Nat) : hamOf d < 2 ^ 10 := by
  rw [hamOf_eq_weightXor]
  refine weightXor_lt d fun i hi => ?_
  have := codeList_le_last _ (burstPos_mem hi)
  omega

theorem parityOf_lt (d n : Nat) : parityOf d n < 2 := by
  rw [parityOf_eq_weightXor]
  exact weightXor_lt (b := 1) d fun _ _ => Nat.one_lt_two

theorem sliceOf_lt (d : Nat) : sliceOf d < 2 ^ 5 := by
  rw [sliceOf_eq_weightXor]
  exact weightXor_lt d fun i _ => Nat.pow_lt_pow_right Nat.one_lt_two (Nat.mod_lt i (by decide))

/-! ### The check bits -/

/-- The low ten check bits are HAM. -/
theorem checkOf_ham (d : Nat) : checkOf d % 2 ^ 10 = hamOf d := by
  have h := hamOf_lt d
  unfold checkOf
  dsimp only
  omega

/-- The eleventh makes the parity of the burst and its first eleven check bits even. -/
theorem checkOf_parity (d : Nat) : parityOf (checkOf d) 11 = parityOf d 512 := by
  have hbit : (checkOf d).testBit 10 = decide ((parityOf d 512 + parityOf (hamOf d) 10) % 2 = 1) := by
    have h := hamOf_lt d
    rw [Nat.testBit_eq_decide_div_mod_eq]
    unfold checkOf
    dsimp only
    congr 2
    omega
  have hlow : parityOf (checkOf d) 10 = parityOf (hamOf d) 10 := by
    rw [parityOf_eq_weightXor, parityOf_eq_weightXor]
    refine weightXor_congr fun i hi => ?_
    rw [← checkOf_ham, Nat.testBit_mod_two_pow, decide_eq_true hi, Bool.true_and]
  have hsplit : parityOf (checkOf d) 11 = parityOf (checkOf d) 10 ^^^ if (checkOf d).testBit 10 then 1 else 0 := by
    rw [parityOf_eq_weightXor, parityOf_eq_weightXor, weightXor]
  rw [hsplit, hbit, hlow]
  have h1 := parityOf_lt d 512
  have h2 := parityOf_lt (hamOf d) 10
  generalize parityOf d 512 = x at h1 ⊢
  generalize parityOf (hamOf d) 10 = y at h2 ⊢
  match x, y with
  | 0, 0 => rfl
  | 0, 1 => rfl
  | 1, 0 => rfl
  | 1, 1 => rfl

/-- The last five are SLICE. -/
theorem checkOf_slice (d : Nat) : checkOf d / 2 ^ 11 = sliceOf d := by
  have h := hamOf_lt d
  unfold checkOf
  dsimp only
  omega

/-! ### What the decoder finds of the wrong bits `x` of the data and `e` of the check bits -/

/-- The syndrome is that of the wrong bits. -/
theorem syndrome_of_flips (d x e : Nat) : hamOf (d ^^^ x) ^^^ ((checkOf d ^^^ e) % 1024) = hamOf x ^^^ (e % 1024) := by
  rw [hamOf_xor, show 1024 = 2 ^ 10 from rfl, Nat.xor_mod_two_pow, checkOf_ham, ← Nat.xor_assoc, Nat.xor_comm (hamOf d), xor_xor_self]

/-- The parity fails where the number of wrong bits is odd. -/
theorem odd_of_flips (d x e : Nat) :
    (parityOf (d ^^^ x) 512 + parityOf (checkOf d ^^^ e) 11) % 2 = (parityOf x 512 + parityOf e 11) % 2 := by
  rw [parityOf_xor, parityOf_xor, checkOf_parity]
  have h1 := xor_mod_two (parityOf d 512) (parityOf x 512)
  have h2 := xor_mod_two (parityOf d 512) (parityOf e 11)
  omega

theorem slice_of_flips (d e : Nat) : (checkOf d ^^^ e) / 2048 = sliceOf d ^^^ (e / 2048) := by
  rw [show 2048 = 2 ^ 11 from rfl, Nat.xor_div_two_pow, checkOf_slice]

/-! ### The outcomes of a decode (R186), by the wrong bits -/

section
variable {d x e : Nat}

/-- Wrong bits without a syndrome: SLICE alone tells whether the data stands. -/
theorem decodeBurst_of_syndrome_zero (hsyn : hamOf x ^^^ (e % 1024) = 0) :
    decodeBurst (d ^^^ x) (checkOf d ^^^ e) = if sliceOf (d ^^^ x) = sliceOf d ^^^ (e / 2048)
      then ⟨d ^^^ x, decide ((parityOf x 512 + parityOf e 11) % 2 = 1), false⟩ else ⟨d ^^^ x, false, true⟩ := by
  simp only [decodeBurst, syndrome_of_flips, odd_of_flips, slice_of_flips, hsyn, if_true]

/-- An even number of wrong bits with a syndrome is uncorrectable. -/
theorem decodeBurst_bad_of_even (hsyn : hamOf x ^^^ (e % 1024) ≠ 0) (heven : (parityOf x 512 + parityOf e 11) % 2 = 0) :
    (decodeBurst (d ^^^ x) (checkOf d ^^^ e)).bad = true := by
  simp only [decodeBurst, syndrome_of_flips, odd_of_flips, hsyn, heven, if_false, Nat.zero_ne_one, and_false]
  split <;> rfl

/-- An odd number of wrong bits whose syndrome is the position of a data bit: that bit is put right, if SLICE then holds. -/
theorem decodeBurst_of_syndrome_burstPos {j : Nat} (hj : j < 512) (hsyn : hamOf x ^^^ (e % 1024) = burstPos j)
    (hodd : (parityOf x 512 + parityOf e 11) % 2 = 1) (hslice : sliceOf (d ^^^ x ^^^ 2 ^ j) = sliceOf d ^^^ (e / 2048)) :
    decodeBurst (d ^^^ x) (checkOf d ^^^ e) = ⟨d ^^^ x ^^^ 2 ^ j, true, false⟩ := by
  have hle : burstPos j ≤ 522 := codeList_le_last _ (burstPos_mem hj)
  simp only [decodeBurst, syndrome_of_flips, odd_of_flips, slice_of_flips, hsyn, burstPos_ne_zero hj, hle, hodd, findIdx?_burstPos hj,
    hslice, if_false, if_true, and_self]

/-- An odd number of wrong bits whose syndrome is the position of a Hamming bit: the data stands, if SLICE holds. -/
theorem decodeBurst_of_syndrome_two_pow {k : Nat} (hk : k < 10) (hsyn : hamOf x ^^^ (e % 1024) = 2 ^ k)
    (hodd : (parityOf x 512 + parityOf e 11) % 2 = 1) (hslice : sliceOf (d ^^^ x) = sliceOf d ^^^ (e / 2048)) :
    decodeBurst (d ^^^ x) (checkOf d ^^^ e) = ⟨d ^^^ x, true, false⟩ := by
  have hle : 2 ^ k ≤ 522 := Nat.le_trans (Nat.pow_le_pow_right (n := 2) (by decide) (by omega : k ≤ 9)) (by decide)
  simp only [decodeBurst, syndrome_of_flips, odd_of_flips, slice_of_flips, hsyn, Nat.ne_of_gt (Nat.two_pow_pos k), hle, hodd, findIdx?_two_pow,
    hslice, if_false, if_true, and_self]

end

/-! ### No error, one error, two errors -/

theorem decodeBurst_checkOf (d : Nat) : decodeBurst d (checkOf d) = ⟨d, false, false⟩ := by
  have h := decodeBurst_of_syndrome_zero (d := d) (x := 0) (e := 0) (by rw [hamOf_zero]; rfl)
  simpa [parityOf_zero] using h

theorem decodeBurst_data_bit (d : Nat) {j : Nat} (hj : j < 512) : decodeBurst (d ^^^ 2 ^ j) (checkOf d) = ⟨d, true, false⟩ := by
  have h := decodeBurst_of_syndrome_burstPos (d := d) (x := 2 ^ j) (e := 0) hj (by simp [hamOf_two_pow hj])
    (by rw [parityOf_two_pow hj, parityOf_zero]) (by rw [xor_xor_self, Nat.zero_div, Nat.xor_zero])
  rwa [xor_xor_self, Nat.xor_zero] at h

theorem decodeBurst_hamming_bit (d : Nat) {k : Nat} (hk : k < 10) : decodeBurst d (checkOf d ^^^ 2 ^ k) = ⟨d, true, false⟩ := by
  have hlt : 2 ^ k < 1024 := Nat.pow_lt_pow_right Nat.one_lt_two hk
  have h := decodeBurst_of_syndrome_two_pow (d := d) (x := 0) (e := 2 ^ k) hk
    (by rw [hamOf_zero, Nat.zero_xor, Nat.mod_eq_of_lt hlt])
    (by rw [parityOf_zero, parityOf_two_pow (by omega)])
    (by rw [Nat.div_eq_of_lt (by omega), Nat.xor_zero, Nat.xor_zero])
  rwa [Nat.xor_zero] at h

theorem decodeBurst_parity_bit (d : Nat) : decodeBurst d (checkOf d ^^^ 2 ^ 10) = ⟨d, true, false⟩ := by
  have h := decodeBurst_of_syndrome_zero (d := d) (x := 0) (e := 2 ^ 10) (by rw [hamOf_zero]; rfl)
  rw [parityOf_zero, parityOf_two_pow (by decide)] at h
  simpa using h

theorem decodeBurst_two_data_bits (d : Nat) {j k : Nat} (hj : j < 512) (hk : k < 512) (h : j ≠ k) :
    (decodeBurst (d ^^^ 2 ^ j ^^^ 2 ^ k) (checkOf d)).bad = true := by
  have hbad := decodeBurst_bad_of_even (d := d) (x := 2 ^ j ^^^ 2 ^ k) (e := 0)
    (by rw [hamOf_xor, hamOf_two_pow hj, hamOf_two_pow hk, Nat.zero_mod, Nat.xor_zero]
        exact fun heq => burstPos_ne hj hk h (eq_of_xor_eq_zero heq))
    (by rw [parityOf_xor, parityOf_two_pow hj, parityOf_two_pow hk, parityOf_zero]; rfl)
  rwa [← Nat.xor_assoc, Nat.xor_zero] at hbad

theorem decodeBurst_slice_bit (d : Nat) (h : Nat) : (decodeBurst d (checkOf d ^^^ 2 ^ (11 + h))).bad = true := by
  have hdiv : 2 ^ (11 + h) / 2048 = 2 ^ h := by rw [Nat.pow_add]; exact Nat.mul_div_cancel_left _ (by decide)
  have hmod : 2 ^ (11 + h) % 1024 = 0 := by rw [Nat.pow_add]; omega
  have hslice : sliceOf d ≠ sliceOf d ^^^ 2 ^ h := by
    intro heq
    have hzero : 2 ^ h ^^^ sliceOf d ^^^ sliceOf d = 0 := by rw [Nat.xor_comm (2 ^ h), ← heq, Nat.xor_self]
    exact Nat.ne_of_gt (Nat.two_pow_pos h) ((xor_xor_self _ _).symm.trans hzero)
  have hbad := decodeBurst_of_syndrome_zero (d := d) (x := 0) (e := 2 ^ (11 + h)) (by rw [hamOf_zero, hmod]; rfl)
  rw [Nat.xor_zero, hdiv, if_neg hslice] at hbad
  rw [hbad]

/-- Settles O7: the checks that a decode makes are linear, so that it sees the wrong bits alone; one wrong bit leaves its own position as an odd
syndrome, two wrong data bits leave two different positions and an even parity, and a wrong slice bit leaves SLICE failing. -/
theorem burstCode : Obligations.BurstCode := by
  unfold Obligations.BurstCode
  refine fun d _ => ⟨decodeBurst_checkOf d, fun j hj => decodeBurst_data_bit d hj, fun h hh => ?_,
    fun j hj k hk h => decodeBurst_two_data_bits d hj hk h, fun h _ => decodeBurst_slice_bit d h⟩
  obtain hh | rfl := Nat.lt_or_eq_of_le (Nat.le_of_lt_succ hh)
  · exact decodeBurst_hamming_bit d hh
  · exact decodeBurst_parity_bit d

end Sys2Proof.Machine
end

section
/-! SUPPORT. Groups of LPDDR5: what a scrub, a read and a write of a group leave (R154, R155, R184 to R190). -/

namespace Sys2Proof.Machine

open Sys2Proof

/-! ### Groups -/

theorem fit_length (b : Bytes) (n : Nat) : (fit b n).length = n := by
  simp only [fit, slice, List.length_append, zeros_length, List.length_take]
  omega

/-- What is fitted to a length already has it. -/
theorem fit_fit (b : Bytes) (n : Nat) : fit (fit b n) n = fit b n := by
  generalize hx : fit b n = x
  have hlen : x.length = n := hx ▸ fit_length b n
  unfold fit slice
  simp [← hlen, zeros]

theorem writeGroup_lpddr (s : State) (g : Nat) (d : Bytes) :
    (s.writeGroup g d).mem.lpddr = memWriteN s.mem.lpddr (1984 * g) (fit d 1984) := rfl

/-- A group that is written holds no error. -/
theorem writeGroup_lpddrErr (s : State) (g : Nat) (d : Bytes) : amGet? (s.writeGroup g d).mem.lpddrErr g = none :=
  amGet?_erase_self _ _

theorem dataError_keeps (s : State) (k crew stroke pass : Nat) :
    (s.dataError k crew stroke pass).kernel = s.kernel ∧ (s.dataError k crew stroke pass).mem = s.mem ∧
      (s.dataError k crew stroke pass).field = s.field ∧ (s.dataError k crew stroke pass).crews = s.crews ∧
      (s.dataError k crew stroke pass).od = s.od := by
  unfold State.dataError State.modHeat
  dsimp only
  split <;> exact ⟨rfl, rfl, rfl, rfl, rfl⟩

/-- An uncorrectable error in what a stroke reads is a detected error of its heat (R155). -/
theorem dataError_heat {s : State} {k : Nat} {h : Heat} (crew stroke pass : Nat) (hk : amGet? s.cox.heats k = some h) :
    ∃ h' e, amGet? (s.dataError k crew stroke pass).cox.heats k = some h' ∧ h'.errors = h.errors ++ [e] ∧ e.serial = h.serial := by
  refine ⟨{ h with errors := h.errors ++ [⟨0x0A, crew, 0x3FF, stroke, pass, h.serial, s.cox.period, s.now, true, .check⟩] },
    ⟨0x0A, crew, 0x3FF, stroke, pass, h.serial, s.cox.period, s.now, true, .check⟩, ?_, rfl, rfl⟩
  simp only [State.dataError, State.modHeat, hk]
  exact amGet?_insert_self _ _ _

/-! ### The rows -/

section
variable {s : State} {group : BitVec 32} {flips : List (BitVec 14)} {d : Bytes} {n m : Nat} {tag : Bool}

/-- A scrub that reads `z` writes it back where it corrected and found nothing uncorrectable (R190). -/
theorem execScrubGroup_eq {z : State} {fixed bad : Bool} (hlive : s.dev.state.live = true) (hg : group.toNat < s.groups)
    (hperiod : s.num .MEM_SCRUB_PERIOD 0 ≠ 0) (hz : s.readGroup group.toNat flips = (z, d, fixed, bad)) :
    execScrubGroup group flips s = finish s (if fixed && !bad then z.writeGroup group.toNat d else z) := by
  unfold execScrubGroup
  simp [hlive, hperiod, Nat.not_le.mpr hg, hz]

/-- A read of a group without a bad packet puts its data before the hub; an uncorrectable error is one of the heat (R155, R189). -/
theorem execLpddrGroupRead_eq {z : State} {fixed bad : Bool} (k : Fin 64) (crew : Fin 6) (stroke pass : BitVec 32)
    (hlive : s.dev.state.live = true) (hg : group.toNat < s.groups) (hz : s.readGroup group.toNat flips = (z, d, fixed, bad)) :
    execLpddrGroupRead group flips k crew stroke pass false s = finish s
      (if bad then (z.modMem fun m => { m with hub := some (group.toNat, d) }).dataError k crew stroke.toNat pass.toNat
        else z.modMem fun m => { m with hub := some (group.toNat, d) }) := by
  unfold execLpddrGroupRead
  simp only [hlive, Nat.not_le.mpr hg, hz]
  cases bad <;> simp

/-- A write of a group merges its bytes with what a read of the group would give (R177). -/
theorem execLpddrGroupWrite_eq (o : Fin 1984) (b : Bytes) (hlive : s.dev.state.live = true) (hg : group.toNat < s.groups) :
    execLpddrGroupWrite group o b s = finish s (s.writeGroup group.toNat
      (fit (putBytes (decodeGroup group.toNat (s.groupData group.toNat) (amGet s.mem.lpddrErr group.toNat [])).1 o.val b) 1984)) := by
  unfold execLpddrGroupWrite
  simp [hlive, Nat.not_le.mpr hg]

/-- What a scrub leaves (R186, R190). -/
theorem scrubGroup_does (hlive : s.dev.state.live = true) (hg : group.toNat < s.groups) (hperiod : s.num .MEM_SCRUB_PERIOD 0 ≠ 0)
    (hdec : decodeGroup group.toNat (s.groupData group.toNat) (s.groupFlips group.toNat flips) = (d, n, m, tag)) :
    ∃ t, exec (.scrubGroup group flips) s = .next t ∧ t.cox = s.cox ∧ t.field = s.field ∧ t.crews = s.crews ∧
      (0 < n → t.lintVal .LPDDR_CE 0 = satInc (s.lintVal .LPDDR_CE 0) n) ∧
      (0 < m + b2n tag → t.lintVal .LPDDR_UE 0 = satInc (s.lintVal .LPDDR_UE 0) (m + b2n tag) ∧ t.mem.lpddr = s.mem.lpddr) ∧
      (0 < n → m + b2n tag = 0 → t.mem.lpddr = memWriteN s.mem.lpddr (1984 * group.toNat) (fit d 1984) ∧
        amGet? t.mem.lpddrErr group.toNat = none) ∧
      (n = 0 → t.mem.lpddr = s.mem.lpddr) := by
  obtain ⟨z, hz, hkernel, hcox, hfield, hcrews, hmem, hce, hue⟩ := readGroup_does s group.toNat flips d n m tag hdec
  rw [exec_scrubGroup, execScrubGroup_eq hlive hg hperiod hz]
  by_cases hback : 0 < n ∧ m + b2n tag = 0
  case pos =>
    obtain ⟨hn, hm⟩ := hback
    rw [if_pos (by simp [hn, hm])]
    obtain ⟨t, ht, hends⟩ := finish_kernel (s := s) (t := z.writeGroup group.toNat d) hkernel
    refine ⟨t, ht, hends.cox.trans hcox, hends.field.trans hfield, hends.crews.trans hcrews,
      fun _ => (lintVal_congr (by rw [hends.od]; rfl) _ _).trans (hce hn), fun h => absurd hm (Nat.ne_of_gt h), fun _ _ => ?_, fun h => absurd h (Nat.ne_of_gt hn)⟩
    rw [hends.mem, writeGroup_lpddr, hmem]
    exact ⟨rfl, writeGroup_lpddrErr z _ _⟩
  case neg =>
    rw [if_neg (by simpa using hback)]
    obtain ⟨t, ht, hends⟩ := finish_kernel hkernel
    have hlint (l : Lint) : t.lintVal l 0 = z.lintVal l 0 := lintVal_congr (by rw [hends.od]) _ _
    have hkeep : t.mem.lpddr = s.mem.lpddr := by rw [hends.mem, hmem]
    exact ⟨t, ht, hends.cox.trans hcox, hends.field.trans hfield, hends.crews.trans hcrews, fun hn => (hlint _).trans (hce hn),
      fun hm => ⟨(hlint _).trans (hue hm), hkeep⟩, fun hn hm => absurd ⟨hn, hm⟩ hback, fun _ => hkeep⟩

/-- What a read of a group leaves (R155, R186, R189). -/
theorem lpddrGroupRead_does (k : Fin 64) (crew : Fin 6) (stroke pass : BitVec 32) (hlive : s.dev.state.live = true) (hg : group.toNat < s.groups)
    (hdec : decodeGroup group.toNat (s.groupData group.toNat) (s.groupFlips group.toNat flips) = (d, n, m, tag)) :
    ∃ t, exec (.lpddrGroupRead group flips k crew stroke pass false) s = .next t ∧
      t.mem.hub = some (group.toNat, d) ∧ t.mem.lpddr = s.mem.lpddr ∧ t.field = s.field ∧ t.crews = s.crews ∧
      (0 < n → t.lintVal .LPDDR_CE 0 = satInc (s.lintVal .LPDDR_CE 0) n) ∧
      (0 < m + b2n tag → t.lintVal .LPDDR_UE 0 = satInc (s.lintVal .LPDDR_UE 0) (m + b2n tag) ∧
        ∀ h, amGet? s.cox.heats k = some h → ∃ h' e, amGet? t.cox.heats k = some h' ∧ h'.errors = h.errors ++ [e] ∧ e.serial = h.serial) ∧
      (m + b2n tag = 0 → t.cox = s.cox) := by
  obtain ⟨z, hz, hkernel, hcox, hfield, hcrews, hmem, hce, hue⟩ := readGroup_does s group.toNat flips d n m tag hdec
  rw [exec_lpddrGroupRead, execLpddrGroupRead_eq k crew stroke pass hlive hg hz]
  obtain ⟨y, hy⟩ : ∃ y, z.modMem (fun m => { m with hub := some (group.toNat, d) }) = y := ⟨_, rfl⟩
  have hykernel : y.kernel = s.kernel := by rw [← hy]; exact hkernel
  have hycox : y.cox = s.cox := by rw [← hy]; exact hcox
  have hyfield : y.field = s.field := by rw [← hy]; exact hfield
  have hycrews : y.crews = s.crews := by rw [← hy]; exact hcrews
  have hyhub : y.mem.hub = some (group.toNat, d) := by rw [← hy]; rfl
  have hymem : y.mem.lpddr = s.mem.lpddr := by rw [← hy]; exact hmem
  have hyod : y.od = z.od := by rw [← hy]; rfl
  rw [hy]
  by_cases hm : 0 < m + b2n tag
  case pos =>
    rw [if_pos (by simpa using hm)]
    obtain ⟨ekernel, emem, efield, ecrews, eod⟩ := dataError_keeps y k crew stroke.toNat pass.toNat
    obtain ⟨t, ht, hends⟩ := finish_kernel (ekernel.trans hykernel)
    have hlint (l : Lint) : t.lintVal l 0 = z.lintVal l 0 := lintVal_congr (by rw [hends.od, eod, hyod]) _ _
    refine ⟨t, ht, by rw [hends.mem, emem, hyhub], by rw [hends.mem, emem, hymem], by rw [hends.field, efield, hyfield],
      by rw [hends.crews, ecrews, hycrews], fun hn => (hlint _).trans (hce hn), fun _ => ⟨(hlint _).trans (hue hm), fun h hk => ?_⟩,
      fun h => absurd h (Nat.ne_of_gt hm)⟩
    rw [hends.cox]
    exact dataError_heat _ _ _ (by rw [hycox]; exact hk)
  case neg =>
    rw [if_neg (by simpa using hm)]
    obtain ⟨t, ht, hends⟩ := finish_kernel hykernel
    have hlint (l : Lint) : t.lintVal l 0 = z.lintVal l 0 := lintVal_congr (by rw [hends.od, hyod]) _ _
    exact ⟨t, ht, by rw [hends.mem, hyhub], by rw [hends.mem, hymem], by rw [hends.field, hyfield], by rw [hends.crews, hycrews],
      fun hn => (hlint _).trans (hce hn), fun h => absurd h hm, fun _ => by rw [hends.cox, hycox]⟩

/-- What a write of a group leaves (R177, R185, R189). -/
theorem lpddrGroupWrite_does (o : Fin 1984) (b : Bytes) (hlive : s.dev.state.live = true) (hg : group.toNat < s.groups) :
    ∃ t, exec (.lpddrGroupWrite group o b) s = .next t ∧ t.cox = s.cox ∧ t.field = s.field ∧ t.crews = s.crews ∧ t.od = s.od ∧
      amGet? t.mem.lpddrErr group.toNat = none ∧
      t.mem.lpddr = memWriteN s.mem.lpddr (1984 * group.toNat) (fit (putBytes (decodeGroup group.toNat (s.groupData group.toNat)
        (amGet s.mem.lpddrErr group.toNat [])).1 o.val b) 1984) := by
  rw [exec_lpddrGroupWrite, execLpddrGroupWrite_eq o b hlive hg]
  obtain ⟨t, ht, hends⟩ := finish_kernel (kernel_writeGroup s group.toNat _)
  refine ⟨t, ht, hends.cox, hends.field, hends.crews, hends.od, ?_, ?_⟩
  · rw [hends.mem, writeGroup_lpddrErr]
  · rw [hends.mem, writeGroup_lpddr, fit_fit]

end

/-- Settles O33: a read of a group is one decode with its counters; a scrub writes what it gave back or leaves the group, a read puts it before the
hub, and a write stores it with its own bytes. -/
theorem lpddrGroups : Obligations.LpddrGroups := by
  unfold Obligations.LpddrGroups
  refine ⟨fun s c => rfl, fun s g flips d n m tag hlive hg hdec => ⟨fun hperiod => scrubGroup_does hlive hg hperiod hdec,
    fun k crew stroke pass => lpddrGroupRead_does k crew stroke pass hlive hg hdec, fun o b => ?_⟩⟩
  obtain ⟨t, ht, hcox, hfield, hcrews, hod, herr, hlpddr⟩ := lpddrGroupWrite_does o b hlive hg
  refine ⟨t, ht, hcox, hfield, hcrews, hod, herr, fun hflips => ?_⟩
  have hheld : amGet s.mem.lpddrErr g.toNat [] = s.groupFlips g.toNat flips := by rw [hflips]; exact (List.append_nil _).symm
  rw [hlpddr, hheld, hdec]

end Sys2Proof.Machine
end

section
/-! SUPPORT. The rota without heats, the power buckets, and crews that have settled (R182, R212 to R218, R223, R226). -/

namespace Sys2Proof.Machine

open Sys2Proof

/-! ### A period boundary with nothing to do -/

/-- Nothing is in the rota and nothing waits for a boundary: no heat, no save or restore, no commit, no admission and no request to stop. -/
structure State.RotaIdle (s : State) : Prop where
  heats : s.cox.heats = []
  waiting : s.od.waiting = []
  saves : s.cox.saves = []
  restores : s.cox.restores = []
  admitting : s.cox.admitting = false
  stopReq : s.cox.stopReq = false

section
variable {s : State}

theorem darnEnds_of_no_heats (h : s.cox.heats = []) (m : Nat) : s.darnEnds m = s := by unfold State.darnEnds; rw [h]; rfl

theorem heatEnds_of_no_heats (h : s.cox.heats = []) (n : Nat) : s.heatEnds n = s := by unfold State.heatEnds; rw [h]; rfl

theorem drainEnds_of_no_heats (h : s.cox.heats = []) (m : Nat) : s.drainEnds m = s := by unfold State.drainEnds; rw [h]; rfl

theorem heatStarts_of_no_heats (h : s.cox.heats = []) (n : Nat) : s.heatStarts n = s := by unfold State.heatStarts; rw [h]; rfl

theorem darnTries_of_no_heats (h : s.cox.heats = []) (q : Nat) : s.darnTries q = s := by unfold State.darnTries; rw [h]; rfl

/-- No transfer starts where no crew is to be saved or restored (R193). -/
theorem transferStart_of_none (hsaves : s.cox.saves = []) (hrestores : s.cox.restores = []) : s.transferStart = s := by
  have h : (s.cox.transfer || !s.cox.saves.isEmpty || !s.cox.restores.isEmpty) = s.cox.transfer := by simp [hsaves, hrestores]
  unfold State.transferStart State.modCox
  dsimp only
  rw [h]

/-- A boundary of an idle rota that begins no rinse, with no swatch window to follow, counts the period and ends every slice of the rinse. -/
theorem State.RotaIdle.periodBoundary_eq (h : s.RotaIdle) (hswatch : s.inSwatch (s.cox.period + 2) = false)
    (hrinse : s.inRinse (s.cox.period + 1) = false) :
    s.periodBoundary = (s.modCox fun c => { c with period := s.cox.period + 1 }).modSaf fun f => { f with running := [] } := by
  obtain ⟨v, hv⟩ : ∃ v, s.modCox (fun c => { c with period := s.cox.period + 1 }) = v := ⟨_, rfl⟩
  have hheats : v.cox.heats = [] := by rw [← hv]; exact h.heats
  have hcommits : v.applyWaiting (fun k => inGroup 0x25 k || inGroup 0x26 k) = v := by
    refine applyWaiting_none v _ ?_
    rw [← hv, State.modCox_od, h.waiting]
    exact fun a ha => absurd ha List.not_mem_nil
  have hmove : v.transferStart = v := transferStart_of_none (by rw [← hv]; exact h.saves) (by rw [← hv]; exact h.restores)
  have hswatch' : v.inSwatch (s.cox.period + 1 + 1) = false := by rw [← hv]; exact hswatch
  have hrinse' : v.inRinse (s.cox.period + 1) = false := by rw [← hv]; exact hrinse
  have hidle : (v.cox.admitting || v.cox.stopReq) = false := by
    rw [← hv, State.modCox_cox]; simp [h.admitting, h.stopReq]
  unfold State.periodBoundary
  simp only [darnEnds_of_no_heats h.heats, heatEnds_of_no_heats h.heats, drainEnds_of_no_heats h.heats, hv,
    hcommits, heatStarts_of_no_heats hheats, darnTries_of_no_heats hheats, hmove, hswatch', hrinse',
    State.modSaf_cox, hidle, Bool.false_eq_true, false_and, Bool.false_and, if_false]

/-- In ARMED, RUN and DEGRADED a boundary is the end of one period and the begin of the next (R26, R182). -/
theorem execRotaPeriodBoundary_active (h : s.dev.state.active = true) : execRotaPeriodBoundary s = finish s s.periodBoundary := if_pos h

theorem execRotaPeriodBoundary_idle (h : s.dev.state.active = false) : execRotaPeriodBoundary s = .next s :=
  if_neg (by rw [h]; exact Bool.false_ne_true)

/-! ### The power buckets (R226) -/

/-- A bucket at the start of the window after `w`: refilled up to its depth, less what window `w` used. -/
def Partition.refill (p : Partition) (w depth rate : Nat) : Partition :=
  { tokens := min depth (p.tokens - (amGet p.reserved w 0 + p.darnUsed) + rate), darnUsed := 0
    reserved := p.reserved.filter (fun e => decide (w < e.1)) }

theorem execRegulatorWindow_idle (h : s.dev.state.active = false) : execRegulatorWindow s = .next s := by
  unfold execRegulatorWindow; rw [h]; rfl

/-- In ARMED, RUN and DEGRADED a window refills every bucket. -/
theorem execRegulatorWindow_active (h : s.dev.state.active = true) :
    execRegulatorWindow s = settled (s.modCox fun c => { c with
      window := s.cox.window + 1
      partitions := Vector.ofFn fun i => c.partitions[i].refill s.cox.window (s.num .PART_DEPTH i) (s.num .PART_RATE i) }) := by
  unfold execRegulatorWindow; rw [h]; rfl

/-- What a window of the regulator leaves. -/
theorem regulatorWindow_does (h : s.dev.state.active = true) :
    ∃ t, exec .regulatorWindow s = .next t ∧ t.cox.window = s.cox.window + 1 ∧ t.field = s.field ∧ t.od = s.od ∧
      ∀ i : Fin 8, t.cox.partitions[i] = s.cox.partitions[i].refill s.cox.window (s.num .PART_DEPTH i) (s.num .PART_RATE i) := by
  rw [exec_regulatorWindow, execRegulatorWindow_active h]
  obtain ⟨t, ht, hends⟩ := settled_ends (s.modCox fun c => { c with
    window := s.cox.window + 1
    partitions := Vector.ofFn fun i => c.partitions[i].refill s.cox.window (s.num .PART_DEPTH i) (s.num .PART_RATE i) })
  refine ⟨t, ht, by rw [hends.cox]; rfl, hends.field, hends.od, fun i => ?_⟩
  simp only [hends.cox, State.modCox_cox, Fin.getElem_fin, Vector.getElem_ofFn]

/-! ### Settling (R212) -/

theorem execSettleComplete_none {c : Fin 6} (h : amGet? s.cox.settling c = none) : execSettleComplete c s = .next s := by
  unfold execSettleComplete; rw [h]

/-- A crew that settled since `n` settles no more, and the time is kept in whole µs. -/
theorem execSettleComplete_some {c : Fin 6} {n : Nat} (h : amGet? s.cox.settling c = some n) :
    execSettleComplete c s = settled (s.modCox fun q => { q with
      settling := amErase q.settling c, settleLast := (s.now - n) / 400 % 2 ^ 32 }) := by
  unfold execSettleComplete; rw [h]

/-- What the end of a crew's settling leaves. -/
theorem settleComplete_does {c : Fin 6} {n : Nat} (h : amGet? s.cox.settling c = some n) :
    ∃ t, exec (.settleComplete c) s = .next t ∧ amGet? t.cox.settling c = none ∧ t.cox.settleLast = (s.now - n) / 400 % 2 ^ 32 ∧
      t.cox.heats = s.cox.heats ∧ t.field = s.field ∧ t.od = s.od := by
  rw [exec_settleComplete, execSettleComplete_some h]
  obtain ⟨t, ht, hends⟩ := settled_ends (s.modCox fun q => { q with
    settling := amErase q.settling c, settleLast := (s.now - n) / 400 % 2 ^ 32 })
  refine ⟨t, ht, ?_, by rw [hends.cox]; rfl, by rw [hends.cox]; rfl, hends.field, hends.od⟩
  rw [hends.cox]
  exact amGet?_erase_self _ _

end

/-- Settles O37: outside operation the rota and the regulator stand; in operation a boundary of an idle rota only counts, a window refills each
bucket by itself, and the end of a crew's settling takes it from the list. -/
theorem rota : Obligations.Rota := by
  unfold Obligations.Rota
  refine ⟨fun s h => execRotaPeriodBoundary_idle h, fun s u hactive hu hshort => ?_, fun s h => execRegulatorWindow_idle h, fun s h => ?_,
    fun s c h => execSettleComplete_none h, fun s c n h => settleComplete_does h⟩
  · obtain ⟨t, ht, hends⟩ := finish_ends s u hshort
    rw [exec_rotaPeriodBoundary, execRotaPeriodBoundary_active hactive, ← hu]
    refine ⟨t, ht, hends, fun hheats hwaiting hsaves hrestores hadmitting hstop hswatch hrinse => ?_⟩
    have hidle : s.RotaIdle := ⟨hheats, hwaiting, hsaves, hrestores, hadmitting, hstop⟩
    rw [hends.cox, hends.saf, hends.field, hends.od, hends.mem, hu, hidle.periodBoundary_eq hswatch hrinse]
    exact ⟨rfl, rfl, rfl, rfl, rfl⟩
  · obtain ⟨t, ht, hwindow, hfield, hod, hparts⟩ := regulatorWindow_does h
    refine ⟨t, ht, hwindow, hfield, hod, fun i => ?_⟩
    rw [hparts i]
    exact ⟨rfl, rfl⟩

end Sys2Proof.Machine
end

section
/-! SUPPORT. Packages that load and unload on a seat by itself, and requests for BACKGROUND plans (R201, R207, R208, R217, R234). -/

namespace Sys2Proof.Machine

open Sys2Proof

section
variable {s z : State} {x : Session} {e : Envelope}

/-! ### Loading (R201, R207) -/

/-- The lowest free slot is free. -/
theorem freeSlot_empty {i : Fin 16} (h : s.freeSlot = some i) : (s.cox.packages[i]).isNone = true :=
  List.find?_some (p := fun j : Fin 16 => (s.cox.packages[j]).isNone) h

/-- In INERT a container for a partition that no squad holds is loaded on this seat alone. -/
theorem actRpLoad_here (o : Origin) {c : Bytes} (hstate : s.dev.state = .inert) (hpart : s.squadPart (containerPart c) = false)
    (hload : s.loadHere c = (z, none)) : actRpLoad s o c = .ok z := by
  unfold actRpLoad
  rw [if_neg (not_not_intro hstate), hpart, Bool.and_false, if_neg Bool.false_ne_true, hload]

/-- A container up to the largest length has a length that `RP_LOAD` takes (R524). -/
theorem lengthFault_rpLoad {n : Nat} (h : n ≤ s.maxLen .RP_LOAD) : s.lengthFault (.ent .RP_LOAD 0 0) n = none := if_pos h

/-- RP_LOAD in INERT: what a load on this seat makes, the request leaves, and it is answered OK. -/
theorem rpLoad_does {ofs : BitVec 64} {b d : Bytes} (hm : s.MayWrite x (wrSeg e .RP_LOAD 0 ofs d) (.ent .RP_LOAD 0 0))
    (hb : x.Holds (wrSeg e .RP_LOAD 0 ofs d) b) (hlast : e.last = true) (hlen : (b ++ d).length ≤ s.maxLen .RP_LOAD)
    (hfree : s.loadAssembly (some e.session.toNat) none = false) (hstate : s.dev.state = .inert)
    (hpart : s.squadPart (containerPart (b ++ d)) = false)
    (hload : ∀ ss, (s.withSessions ss).loadHere (b ++ d) = (z.withSessions ss, none))
    (hsquad : z.squad = s.squad) (hshort : z.crewsShort = true → s.crewsShort = true) :
    ∃ t, exec (.rpLoad e ofs d) s = .next t ∧ z.RespondsAs t (wrSeg e .RP_LOAD 0 ofs d) .ok := by
  rw [exec_rpLoad]
  unfold execRpLoad
  exact seg_does s x e .RP_LOAD 0 ofs b d z hm rfl hb hlast (lengthFault_rpLoad hlen) (.inr hfree) rfl rfl
    (fun ss => by rw [act_RP_LOAD]; exact actRpLoad_here _ hstate hpart (hload ss))
    (quiet_same (congrArg Squad.ports hsquad)) (by rw [hsquad]; exact hm.settled.2) hshort

/-! ### Unloading (R208) -/

/-- In INERT the package of a slot leaves it, where no squad holds its partition. -/
theorem actRpUnload_here {v : Nat} {i : Fin 16} {p : Package} (hv : v = i.val) (hpkg : s.cox.packages[i] = some p)
    (hstate : s.dev.state = .inert) (hpart : s.squadPart p.partition = false) : actRpUnload s v = .ok (s.unload i) := by
  have hslot : toFin? 16 v = some i := by rw [hv]; exact dif_pos i.isLt
  unfold actRpUnload
  rw [hslot]
  dsimp only
  rw [hpkg]
  dsimp only
  rw [if_neg (not_not_intro hstate), hpart, if_neg Bool.false_ne_true]

/-- The cox is no bookkeeping of a session. -/
theorem cox_bare {t : State} (h : t.bare = s.bare) : t.cox = s.cox := congrArg (fun u => u.cox) h

/-- RP_UNLOAD in INERT: the slot becomes empty, the request is answered OK. -/
theorem rpUnload_does {v : BitVec 8} {i : Fin 16} {p : Package} (hm : s.MayWrite x (wrNum e .RP_UNLOAD 0 v.toNat) (.ent .RP_UNLOAD 0 0))
    (hv : v.toNat = i.val) (hpkg : s.cox.packages[i] = some p) (hstate : s.dev.state = .inert) (hpart : s.squadPart p.partition = false) :
    ∃ t, exec (.rpUnload e v) s = .next t ∧ (s.unload i).RespondsAs t (wrNum e .RP_UNLOAD 0 v.toNat) .ok ∧ t.cox.packages[i] = none := by
  obtain ⟨hsquad, hpackages, hshort⟩ := unload_does s i p hpkg
  rw [exec_rpUnload]
  unfold execRpUnload
  obtain ⟨t, ht, hresp⟩ := num_does s x e .RP_UNLOAD 0 v.toNat (s.unload i) hm v.isLt (by decide) rfl (rsvOk_zero _ rfl) (rangeOk_num rfl rfl)
    (fun ss => by rw [act_RP_UNLOAD, actRpUnload_here (s := s.withSessions ss) hv hpkg hstate hpart, unload_with])
    (quiet_same (congrArg Squad.ports hsquad)) (by rw [hsquad]; exact hm.settled.2) hshort
  refine ⟨t, ht, hresp, ?_⟩
  rw [cox_bare hresp.rest, hpackages]
  exact Vector.getElem_set_self _

/-! ### BACKGROUND requests (R217, R234) -/

/-- The request of the BACKGROUND plan `pl`, numbered `plan` in the package `p` of a slot, with the present as its trigger time. -/
def State.bgRequest (s : State) (slot plan : Nat) (p : Package) (pl : Plan) : CoxReq :=
  ⟨.background, slot, plan, p.partition, s.fabNow, s.deadlineOf p.partition pl s.fabNow, s.cox.nextOrder, none, true, 0, none, false⟩

/-- The state in which a request has entered the queue under the next trigger order. -/
def State.queued (s : State) (r : CoxReq) : State :=
  s.modCox (fun c => { c with nextOrder := c.nextOrder + 1, queue := queueIns r c.queue })

/-- Is there a place for a request that is not FAST (R218)? -/
def State.HasRoom (s : State) : Prop :=
  let q := s.cox.queue.filter (fun x => x.resume.isNone)
  (q.length - (q.filter CoxReq.fast).length) + ((q.filter CoxReq.fast).length - 48) < 80

/-- While the fabric runs and no STOP is asked for, a request of a BACKGROUND plan enters a queue that has room. -/
theorem actBgRequest_queued {v : Nat} {p : Package} {pl : Plan} (hplan : s.planOf (bits v 3 0) (bits v 9 4) = some (p, pl))
    (hkind : pl.kind = .background) (hruns : s.dev.state.runs = true) (hstop : s.cox.stopReq = false) (hroom : s.HasRoom) :
    actBgRequest s v = .ok (s.queued (s.bgRequest (bits v 3 0) (bits v 9 4) p pl)) := by
  unfold actBgRequest
  dsimp only
  rw [hplan]
  dsimp only
  rw [if_neg (not_not_intro hkind), hruns, hstop, if_neg (by decide)]
  unfold State.newReq
  dsimp only
  rw [enqueue_room (s.modCox fun c => { c with nextOrder := c.nextOrder + 1 }) _ rfl rfl hroom]
  rfl

/-- Without its upper six bits a value passes the reserved bits of `COX_BG_REQUEST` (R512). -/
theorem rsvOk_bgRequest {v : BitVec 16} (h : bits v.toNat 15 10 = 0) : Ent.COX_BG_REQUEST.rsvOk (.num v.toNat) = true := by
  have hlt : v.toNat < 2 ^ 10 := by
    have := v.isLt
    simp only [bits, Nat.shiftRight_eq_div_pow] at h
    omega
  have hlow : v.toNat &&& (2 ^ 10 - 1) = v.toNat := by rw [Nat.and_two_pow_sub_one_eq_mod, Nat.mod_eq_of_lt hlt]
  show (v.toNat &&& 0xFC00 == 0) = true
  rw [← hlow, Nat.and_assoc]
  exact beq_iff_eq.2 (Nat.and_zero _)

/-- COX_BG_REQUEST: the request enters the queue, and the write is answered OK. -/
theorem coxBgRequest_does {v : BitVec 16} {p : Package} {pl : Plan}
    (hm : s.MayWrite x (wrNum e .COX_BG_REQUEST 0 v.toNat) (.ent .COX_BG_REQUEST 0 0)) (hrsv : bits v.toNat 15 10 = 0)
    (hplan : s.planOf (bits v.toNat 3 0) (bits v.toNat 9 4) = some (p, pl)) (hkind : pl.kind = .background)
    (hruns : s.dev.state.runs = true) (hstop : s.cox.stopReq = false) (hroom : s.HasRoom) :
    ∃ t, exec (.coxBgRequest e v) s = .next t ∧
      (s.queued (s.bgRequest (bits v.toNat 3 0) (bits v.toNat 9 4) p pl)).RespondsAs t (wrNum e .COX_BG_REQUEST 0 v.toNat) .ok := by
  rw [exec_coxBgRequest]
  unfold execCoxBgRequest
  exact num_does s x e .COX_BG_REQUEST 0 v.toNat _ hm v.isLt (by decide) rfl (rsvOk_bgRequest hrsv) (rangeOk_num rfl rfl)
    (fun ss => by rw [act_COX_BG_REQUEST]; exact actBgRequest_queued (s := s.withSessions ss) hplan hkind hruns hstop hroom)
    (quiet_same rfl) hm.settled.2 id

end

/-- Settles O40: a load puts its package into the lowest free slot, or finds its digest in a slot and only names it; an unload empties its slot; a
BACKGROUND request with room in the queue enters it. None of them changes the squad, so that nothing follows but the answer. -/
theorem packages : Obligations.Packages := by
  unfold Obligations.Packages
  refine fun s x e => ⟨fun ofs b d hm hb hlast hlen hfree hstate hok hpart => ⟨fun i p hnew hcheck hslot hshort => ?_, fun i hold => ?_⟩,
    fun v i p hm hv hpkg hstate hpart => rpUnload_does hm hv hpkg hstate hpart,
    fun v p pl hm hrsv hplan hkind hruns hstop hroom => coxBgRequest_does hm hrsv hplan hkind hruns hstop hroom⟩
  · exact rpLoad_does hm hb hlast hlen hfree hstate hpart (fun ss => by
      rw [← place_with]
      exact loadAt_new (s.withSessions ss) _ _ i p hok hnew hcheck hslot (freeSlot_empty hslot)) (place_squad s i p) hshort
  · exact rpLoad_does hm hb hlast hlen hfree hstate hpart (fun ss => loadAt_old (s.withSessions ss) _ _ i hok hold) rfl id

end Sys2Proof.Machine
end

section
/-! SUPPORT. The records that slivers send to their neighbours, and barriers (R276 to R278). -/

namespace Sys2Proof.Machine

open Sys2Proof

section
variable {s : State} {c : Fin 6} {l : Fin 512} {o : Oar} {w n : Nat}

/-! ### Sending (R277) -/

/-- The neighbours are those of the stroke, whatever runs on an oar. -/
theorem neighbour_setOar (s : State) (c2 l2 : Nat) (q : Option Oar) (o : Oar) (right : Bool) :
    (s.setOar c2 l2 q).neighbour o right = s.neighbour o right := rfl

/-- A record toward a neighbour that does not exist is lost. -/
theorem sendRecord_nowhere {right : Bool} (b : Bytes) (h : s.neighbour o right = none) : s.sendRecord o right b = s := by
  unfold State.sendRecord; rw [h]; rfl

/-- A record goes behind those on the way to the neighbour that runs. -/
theorem sendRecord_neighbour {right : Bool} {i c2 l2 : Nat} {y : Oar} (b : Bytes) (h : s.neighbour o right = some i)
    (hy : s.sliverOar o i = some (c2, l2, y)) :
    s.sendRecord o right b = s.setOar c2 l2 (some (if right then { y with fromLeft := y.fromLeft ++ [b] }
      else { y with fromRight := y.fromRight ++ [b] })) := by
  unfold State.sendRecord; rw [h, Option.bind_some, hy]

/-- SLV.SEND of a record in local memory waits for a full inbox, and otherwise retires and sends. -/
theorem exec_slvSend_sends {q : Nat} (hat : s.OarAt c l o w n .slvSend) (hsel : o.rx (rs2Of w) ≤ 1) (halign : o.rx (rs1Of w) % 64 = 0)
    (hplace : s.oarPlace c o (o.rx (rs1Of w)) 64 = some (.local_ q)) :
    exec (.slvSend c l) s = finish s (if s.inboxFull o (o.rx (rs2Of w) == 1) then
        s.setOar c l (some { o with wait := .send (o.rx (rs2Of w) == 1) (memReadN (s.oarMem c l) q 64) (o.pc + n) })
      else (s.setOar c l (some (o.retire n))).sendRecord o (o.rx (rs2Of w) == 1) (memReadN (s.oarMem c l) q 64)) := by
  rw [exec_slvSend, execSlvSend, oarStep_does _ _ _ _ _ _ _ _ hat, if_neg (Nat.not_lt.mpr hsel), if_neg (not_not_intro halign), hplace]

/-- A wrong selector is an illegal instruction, and an address that is no multiple of 64 is misaligned, before anything else of the instruction. -/
theorem operands_fault {sel a : Nat} (z : State) (h : 1 < sel ∨ a % 64 ≠ 0) :
    (if 1 < sel then s.oarFault c l o 2 else if a % 64 ≠ 0 then s.oarFault c l o 3 else z) = s.oarFault c l o (if 1 < sel then 2 else 3) := by
  by_cases hsel : 1 < sel
  · rw [if_pos hsel, if_pos hsel]
  · rw [if_neg hsel, if_neg hsel, if_pos (h.resolve_left hsel)]

/-- SLV.SEND with a wrong selector, or from an address that is no multiple of 64, is a fault. -/
theorem exec_slvSend_faults (hat : s.OarAt c l o w n .slvSend) (h : 1 < o.rx (rs2Of w) ∨ o.rx (rs1Of w) % 64 ≠ 0) :
    exec (.slvSend c l) s = finish s (s.oarFault c l o (if 1 < o.rx (rs2Of w) then 2 else 3)) := by
  rw [exec_slvSend, execSlvSend, oarStep_does _ _ _ _ _ _ _ _ hat, operands_fault _ h]

/-- A sliver that waits to send goes on when the inbox has room. -/
theorem exec_slvSendResume_waiting {right : Bool} {b : Bytes} {next : Nat} (ho : s.oar? c l = some o) (hwait : o.wait = .send right b next) :
    exec (.slvSendResume c l) s = if s.inboxFull o right then .next s else
      finish s ((s.setOar c l (some (({ o with wait := .none } : Oar).retire (next - o.pc)))).sendRecord o right b) := by
  rw [exec_slvSendResume, execSlvSendResume, ho]
  simp only [hwait]

/-! ### Receiving (R277) -/

/-- Without a record the sliver waits for one. -/
theorem takeRecord_waits {right : Bool} (a rd : Nat) (h : (if right then o.right else o.left) = []) :
    s.takeRecord c l o right a rd n = s.setOar c l (some { o with wait := .recv right a rd (o.pc + n) }) := by
  unfold State.takeRecord; rw [h]

/-- The oldest record goes into local memory, and rd becomes 1. -/
theorem takeRecord_takes {right : Bool} {b : Bytes} {r : List Bytes} (a rd : Nat) (h : (if right then o.right else o.left) = b :: r) :
    s.takeRecord c l o right a rd n = (s.setOarMem c l (memWriteN (s.oarMem c l) a b)).setOar c l (some ((Oar.wx (if right then
      { o with right := r, wait := .none } else { o with left := r, wait := .none }) rd 1).retire n)) := by
  unfold State.takeRecord; rw [h]; cases right <;> rfl

/-- SLV.RECV into local memory takes a record, or sets rd to 0 where there is no neighbour. -/
theorem exec_slvRecv_receives (hat : s.OarAt c l o w n .slvRecv) (hsel : o.rx (rs2Of w) ≤ 1) (halign : o.rx (rs1Of w) % 64 = 0)
    (hroom : o.rx (rs1Of w) + 64 ≤ 0x3800) :
    exec (.slvRecv c l) s = finish s (if (s.neighbour o (o.rx (rs2Of w) == 1)).isNone then s.setOar c l (some ((o.wx (rdOf w) 0).retire n))
      else s.takeRecord c l o (o.rx (rs2Of w) == 1) (o.rx (rs1Of w)) (rdOf w) n) := by
  rw [exec_slvRecv, execSlvRecv, oarStep_does _ _ _ _ _ _ _ _ hat, if_neg (Nat.not_lt.mpr hsel), if_neg (not_not_intro halign),
    if_neg (Nat.not_lt.mpr hroom)]

/-- SLV.RECV with a wrong selector, or to an address that is no multiple of 64, is a fault. -/
theorem exec_slvRecv_faults (hat : s.OarAt c l o w n .slvRecv) (h : 1 < o.rx (rs2Of w) ∨ o.rx (rs1Of w) % 64 ≠ 0) :
    exec (.slvRecv c l) s = finish s (s.oarFault c l o (if 1 < o.rx (rs2Of w) then 2 else 3)) := by
  rw [exec_slvRecv, execSlvRecv, oarStep_does _ _ _ _ _ _ _ _ hat, operands_fault _ h]

/-- The sliver `o` after the record `b`, with `r` still on the way behind it, has reached its inbox. -/
def Oar.reached (o : Oar) (right : Bool) (b : Bytes) (r : List Bytes) : Oar :=
  if right then { o with fromRight := r, right := o.right ++ [b] } else { o with fromLeft := r, left := o.left ++ [b] }

/-- With no record on the way none arrives. -/
theorem exec_slvRecordArrive_none {right : Bool} (ho : s.oar? c l = some o) (h : (if right then o.fromRight else o.fromLeft) = []) :
    exec (.slvRecordArrive c l right) s = .next s := by
  rw [exec_slvRecordArrive, execSlvRecordArrive, ho]; dsimp only; rw [h]

/-- A record that arrives is taken where an SLV.RECV waits for it, and stays in the inbox otherwise. -/
theorem exec_slvRecordArrive_some {right : Bool} {b : Bytes} {r : List Bytes} (ho : s.oar? c l = some o)
    (h : (if right then o.fromRight else o.fromLeft) = b :: r) :
    exec (.slvRecordArrive c l right) s =
      match o.wait with
      | .recv q a rd next =>
        if q = right then finish s (s.takeRecord c l (o.reached right b r) right a rd (next - (o.reached right b r).pc))
        else finish s (s.setOar c l (some (o.reached right b r)))
      | _ => finish s (s.setOar c l (some (o.reached right b r))) := by
  rw [exec_slvRecordArrive, execSlvRecordArrive, ho]
  dsimp only
  rw [h]
  cases right <;> rfl

/-- A record that no SLV.RECV waits for stays in the inbox. -/
theorem exec_slvRecordArrive_kept {right : Bool} {b : Bytes} {r : List Bytes} (ho : s.oar? c l = some o)
    (h : (if right then o.fromRight else o.fromLeft) = b :: r) (hwait : ∀ a rd next, o.wait ≠ .recv right a rd next) :
    exec (.slvRecordArrive c l right) s = finish s (s.setOar c l (some (o.reached right b r))) := by
  rw [exec_slvRecordArrive_some ho h]
  cases hw : o.wait with
  | recv q a rd next => exact if_neg fun e => hwait a rd next (by rw [hw, e])
  | none => rfl
  | send _ _ _ => rfl
  | bar _ => rfl

/-- A record completes the SLV.RECV that waits for it. -/
theorem exec_slvRecordArrive_taken {right : Bool} {b : Bytes} {r : List Bytes} {a rd next : Nat} (ho : s.oar? c l = some o)
    (h : (if right then o.fromRight else o.fromLeft) = b :: r) (hwait : o.wait = .recv right a rd next) :
    exec (.slvRecordArrive c l right) s =
      finish s (s.takeRecord c l (o.reached right b r) right a rd (next - (o.reached right b r).pc)) := by
  rw [exec_slvRecordArrive_some ho h, hwait]
  exact if_pos rfl

/-! ### Barriers (R278) -/

/-- Sliver `i` of the invocation of `o` has executed the barrier that `o` waits at, or has ended. -/
def State.atBarrier (s : State) (o : Oar) (i : Nat) : Bool :=
  (match s.sliverOar o i with | some (_, _, q) => decide (o.bars ≤ q.bars) | none => false) ||
    s.units.ended.any (fun e => decide (e.1 = (o.serial, o.stroke, o.pass, i)))

theorem atBarrier_iff {i : Nat} : s.atBarrier o i = true ↔
    (∃ c2 l2 y, s.sliverOar o i = some (c2, l2, y) ∧ o.bars ≤ y.bars) ∨ ∃ e ∈ s.units.ended, e.1 = (o.serial, o.stroke, o.pass, i) := by
  unfold State.atBarrier
  rw [Bool.or_eq_true, List.any_eq_true]
  refine or_congr ?_ (by simp only [decide_eq_true_eq])
  cases s.sliverOar o i with
  | none => exact ⟨fun h => absurd h Bool.false_ne_true, fun ⟨_, _, _, h, _⟩ => nomatch h⟩
  | some x =>
    obtain ⟨c2, l2, y⟩ := x
    exact ⟨fun h => ⟨c2, l2, y, rfl, of_decide_eq_true h⟩, fun ⟨_, _, _, rfl, h⟩ => decide_eq_true h⟩

/-- Sliver `i` of the invocation of `o` leaves the barrier where it waits at the same one as `o`. -/
def State.leaveBarrier (o : Oar) (s : State) (i : Nat) : State :=
  match s.sliverOar o i with
  | some (c, l, q) =>
    (match q.wait with
    | .bar next => if q.bars = o.bars then s.setOar c l (some ({ q with wait := .none }.retire (next - q.pc))) else s
    | _ => s)
  | none => s

theorem kernel_leaveBarrier (o : Oar) (s : State) (i : Nat) : (State.leaveBarrier o s i).kernel = s.kernel := by
  unfold State.leaveBarrier
  split
  · split
    · split <;> rfl
    · rfl
  · rfl

/-- A barrier completes for every sliver once each has come to it or has ended. -/
theorem exec_slvBarComplete_waiting {next k : Nat} {h : Heat} {p : Package} {b : Bytes} (ho : s.oar? c l = some o) (hwait : o.wait = .bar next)
    (hstroke : s.oarStroke o = some (k, h, p, b)) :
    exec (.slvBarComplete c l) s = if ∀ i < sliverCount b, s.atBarrier o i = true then
      finish s (s.each (List.range (sliverCount b)) (State.leaveBarrier o)) else .next s := by
  rw [exec_slvBarComplete, execSlvBarComplete, ho]
  simp only [hwait, hstroke]
  refine ite_congr (propext ?_) (fun _ => rfl) (fun _ => rfl)
  rw [List.all_eq_true]
  exact forall_congr' fun i => by rw [List.mem_range]; rfl

end

/-- Settles O54: each row is the operation of R277 or R278 that its lemma above gives, on the sliver's own oar and at most its neighbour's; none
touches what the end of a row looks at, and a fault is a detected error of the oar. -/
theorem oarNeighbours : Obligations.OarNeighbours := by
  unfold Obligations.OarNeighbours
  intro s c l o w n
  refine ⟨fun q hat hsel halign hplace => ?_, fun right b next ho hwait => ?_, fun hat hsel halign hroom => ?_, ?_, fun right ho => ?_,
    fun hat => ?_, fun next k h p b ho hwait hstroke => ?_⟩
  · rw [exec_slvSend_sends hat hsel halign hplace]
    refine ⟨fun hfull => ?_, fun hfull hnone => ?_, fun i c2 l2 y hfull hsome hy => ?_⟩
    · rw [if_pos hfull]; exact finish_kernel rfl
    · rw [hfull, if_neg Bool.false_ne_true, sendRecord_nowhere _ ((neighbour_setOar ..).trans hnone)]; exact finish_kernel rfl
    · rw [hfull, if_neg Bool.false_ne_true, sendRecord_neighbour _ ((neighbour_setOar ..).trans hsome) hy]
      simp only [beq_iff_eq]
      exact finish_kernel rfl
  · rw [exec_slvSendResume_waiting ho hwait]
    refine ⟨fun hfull => if_pos hfull, fun hfull => ?_⟩
    rw [hfull, if_neg Bool.false_ne_true]
    exact finish_kernel (kernel_sendRecord ..)
  · rw [exec_slvRecv_receives hat hsel halign hroom]
    refine ⟨fun hnone => ?_, fun i inbox hsome hinbox => ?_⟩
    · rw [hnone]; exact finish_kernel rfl
    · have hin : (if (o.rx (rs2Of w) == 1) then o.right else o.left) = inbox := by rw [hinbox]; simp only [beq_iff_eq]
      rw [hsome, Option.isNone_some, if_neg Bool.false_ne_true]
      refine ⟨fun hempty => ?_, fun b r hfirst => ?_⟩
      · rw [takeRecord_waits _ _ (hin.trans hempty)]; exact finish_kernel rfl
      · rw [takeRecord_takes _ _ (hin.trans hfirst)]
        simp only [beq_iff_eq]
        exact finish_kernel rfl
  · intro k i hi hat hbad hlimit j h hheat
    simp only [List.mem_cons, Prod.mk.injEq, List.not_mem_nil, or_false] at hi
    have hkind : 8 = if (if 1 < o.rx (rs2Of w) then 2 else 3) = 4 then 9 else 8 := by split <;> rfl
    obtain ⟨rfl, rfl⟩ | ⟨rfl, rfl⟩ := hi
    · rw [exec_slvSend_faults hat hbad]; exact fault_does s c l o o _ 8 hkind j h rfl rfl rfl hheat hlimit
    · rw [exec_slvRecv_faults hat hbad]; exact fault_does s c l o o _ 8 hkind j h rfl rfl rfl hheat hlimit
  · refine ⟨exec_slvRecordArrive_none ho, fun b r q hfrom hq => ?_⟩
    obtain rfl : q = o.reached right b r := hq
    refine ⟨fun hwait => ?_, fun a rd next b2 r2 hwait hin => ?_⟩
    · rw [exec_slvRecordArrive_kept ho hfrom hwait]; exact finish_kernel rfl
    · rw [exec_slvRecordArrive_taken ho hfrom hwait, takeRecord_takes _ _ hin]; exact finish_kernel rfl
  · rw [exec_slvBar, execSlvBar, oarStep_does _ _ _ _ _ _ _ _ hat]; exact finish_kernel rfl
  · rw [exec_slvBarComplete_waiting ho hwait hstroke]
    refine ⟨fun ⟨i, hi, hbehind, hruns⟩ => if_neg fun hall => ?_, fun hall => ?_⟩
    · obtain ⟨c2, l2, y, hy, hbars⟩ | ⟨e, he, hend⟩ := atBarrier_iff.mp (hall i hi)
      · exact absurd (hbehind c2 l2 y hy) (Nat.not_lt.mpr hbars)
      · exact hruns e he hend
    · rw [if_pos fun i hi => atBarrier_iff.mpr (hall i hi)]
      exact finish_kernel (kernel_each _ _ _ (kernel_leaveBarrier o))

end Sys2Proof.Machine
end

section
/-! SUPPORT. The start, the ends and the faults of a sliver's invocation (R272, R273, R277, R279, R280, R354). -/

namespace Sys2Proof.Machine

open Sys2Proof

/-! ### The start of an invocation (R272, R273, R354) -/

/-- Oar `l` of a crew holds the code of a stroke, with the draw block header where there is room: it is loaded before the first invocation of the
stroke there. -/
def State.codeLoaded (s : State) (h : Heat) (stroke crew l : Nat) (code : Bytes) : State :=
  if amGet? s.units.loaded (crew * 512 + l) = some (h.serial, stroke) then s
  else
    let s0 := s.setOarMem crew l (if decide (code.length ≤ 14304) then memWriteN (memWriteN (s.oarMem crew l) 0 code) 0x37E0 (s.drawHeader h)
      else memWriteN (s.oarMem crew l) 0 code)
    { s0 with units := { s0.units with loaded := amInsert s0.units.loaded (crew * 512 + l) (h.serial, stroke) } }

/-- Sliver `key` of a new invocation has not ended. -/
def State.notEnded (s : State) (key : Nat × Nat × Nat × Nat) : State :=
  { s with units := { s.units with ended := s.units.ended.filter (fun e => !decide (e.1 = key)) } }

/-- The registers at the entry: x2 the top of local memory below the header, x10 the sliver's index, x11 the number of the invocation. -/
def startRegs (header : Bool) (i kb0 : Nat) : Vector (BitVec 32) 32 :=
  (((Vector.replicate 32 0).set 2 (if header then 0x37E0 else 0x3800)).set 10 (BitVec.ofNat 32 i)).set 11 (BitVec.ofNat 32 kb0)

/-- A sliver at the entry of its code. -/
def startOar (h : Heat) (stroke pass i kb0 entry : Nat) (header : Bool) : Oar :=
  { serial := h.serial, stroke := stroke, pass := pass, sliver := i, iter := kb0
    x := startRegs header i kb0, f := Vector.replicate 32 0, pc := entry, fflags := 0, instret := 0, access := none
    wait := .none, left := [], right := [], fromLeft := [], fromRight := [], bars := 0 }

theorem startRegs_get (header : Bool) (i kb0 : Nat) (r : Fin 32) :
    (startRegs header i kb0)[r] = if r.val = 2 then (if header then 0x37E0 else 0x3800) else if r.val = 10 then BitVec.ofNat 32 i
      else if r.val = 11 then BitVec.ofNat 32 kb0 else 0 := by
  unfold startRegs
  rw [Fin.getElem_fin, Vector.getElem_set, Vector.getElem_set, Vector.getElem_set, Vector.getElem_replicate]
  grind

theorem kernel_codeLoaded (s : State) (h : Heat) (stroke crew l : Nat) (code : Bytes) :
    (s.codeLoaded h stroke crew l code).kernel = s.kernel := by
  unfold State.codeLoaded; split <;> rfl

/-- A later invocation of the stroke on its oar finds the code there. -/
theorem codeLoaded_again {s : State} {h : Heat} {stroke crew l : Nat} (code : Bytes)
    (hl : amGet? s.units.loaded (crew * 512 + l) = some (h.serial, stroke)) : s.codeLoaded h stroke crew l code = s := if_pos hl

/-- The first invocation of the stroke on its oar writes the code and the header. -/
theorem codeLoaded_first {s : State} {h : Heat} {stroke crew l : Nat} (code : Bytes)
    (hl : amGet? s.units.loaded (crew * 512 + l) ≠ some (h.serial, stroke)) :
    (s.codeLoaded h stroke crew l code).mem = (s.setOarMem crew l (if code.length ≤ 14304 then
      memWriteN (memWriteN (s.oarMem crew l) 0 code) 0x37E0 (s.drawHeader h) else memWriteN (s.oarMem crew l) 0 code)).mem := by
  unfold State.codeLoaded
  rw [if_neg hl]
  simp only [decide_eq_true_eq]

section
variable {s : State} {k : Fin 64} {st ps : BitVec 32} {i : BitVec 16} {h : Heat} {p : Package} {x : Pass} {b : Bytes}

/-- A POOL stroke's pass runs as a whole. -/
theorem exec_oarInvocationStart_pool (hat : s.AtPass k st.toNat ps.toNat h p x b) (hkind : strokeKind b = 3) (hop : oarOp b = 2) :
    exec (.oarInvocationStart k st ps i) s = finish s (s.poolPass k h p b x) := by
  rw [exec_oarInvocationStart, execOarInvocationStart, hat.heat]
  dsimp only
  rw [hat.pass, hat.stroke]
  dsimp only
  rw [if_neg (not_not_intro hkind), if_pos hop]

/-- A sliver of a KERNEL stroke starts on its oar where none runs. -/
theorem exec_oarInvocationStart_kernel {c l : Nat} (hat : s.AtPass k st.toNat ps.toNat h p x b) (hkind : strokeKind b = 3) (hop : oarOp b = 0)
    (hi : i.toNat < sliverCount b) (hplace : sliverPlace (sliverCount b) h.crews.length i.toNat = (c, l))
    (hfree : s.oar? (h.crews.getD c 0) l = none) {code : Bytes} (hcode : code = s.tensor h p (kernelStroke b).tdCode) :
    exec (.oarInvocationStart k st ps i) s = finish s
      (((s.codeLoaded h st.toNat (h.crews.getD c 0) l code).notEnded (h.serial, st.toNat, ps.toNat, i.toNat)).setOar (h.crews.getD c 0) l
        (some (startOar h st.toNat ps.toNat i.toNat x.kb0 (kernelStroke b).entry (decide (code.length ≤ 14304))))) := by
  have hplace' : sliverPlace (kernelStroke b).slivers h.crews.length i.toNat = (c, l) := hplace
  rw [exec_oarInvocationStart, execOarInvocationStart, hat.heat]
  dsimp only
  rw [hat.pass, hat.stroke]
  dsimp only
  rw [if_neg (not_not_intro hkind), if_neg (by rw [hop]; decide), if_neg (by rw [hop]; exact fun h => h.elim (absurd rfl) (Nat.not_le.mpr hi)), hplace']
  dsimp only
  rw [hfree, if_neg (by decide), ← hcode]
  rfl

end

section
variable {s : State} {c : Fin 6} {l : Fin 512} {o : Oar} {w n : Nat}

/-! ### The ends of an invocation (R279) -/

/-- ECALL ends the sliver, well or with the heat's outputs INVALID, by x10. -/
theorem exec_ecall_ends (hat : s.OarAt c l o w n .ecall) :
    exec (.ecall c l) s = finish s (if o.rx 10 = 0 then s.sliverEnds c l o true else s.oarKfail c l o) := by
  rw [exec_ecall, execEcall, oarStep_does _ _ _ _ _ _ _ _ hat]

/-- A sliver that has failed leaves its oar alone. -/
theorem sliverEnds_failed (s : State) (c l : Nat) (o : Oar) : (s.sliverEnds c l o false).cox = s.cox ∧ (s.sliverEnds c l o false).od = s.od ∧
    (s.sliverEnds c l o false).units.lastFault = s.units.lastFault := by
  obtain ⟨E, I, h⟩ := sliverEnds_bad s c l o
  rw [h]
  exact ⟨rfl, rfl, rfl⟩

/-- A sliver whose kernel has failed has ended, with the fault recorded and counted. -/
def State.kernelFailed (s : State) (c l : Nat) (o : Oar) : State := ((s.oarLast c o 5 (o.rx 10)).lint .OAR_KFAIL).sliverEnds c l o false

/-- A kernel that fails leaves an error with no darn in its heat. -/
theorem oarKfail_eq {k : Nat} {h : Heat} (hserial : s.heatOf o.serial = some (k, h)) (hheat : amGet? s.cox.heats k = some h) :
    ∃ e, e.noDarn = true ∧ e.cause = .kernel ∧ e.stroke = o.stroke ∧ s.oarKfail c l o =
      ((s.kernelFailed c l o).modCox (fun x => { x with heats := amInsert x.heats k { h with errors := h.errors ++ [e] } })).modSaf
        (fun f => { f with lastErr := some e }) := by
  refine ⟨⟨8, c, (s.crew c).oar l, o.stroke, o.pass, h.serial, s.cox.period, s.now, true, .kernel⟩, rfl, rfl, rfl, ?_⟩
  have hcox : (s.kernelFailed c l o).cox = s.cox := (sliverEnds_failed _ _ _ _).1
  have hfound : (s.kernelFailed c l o).heatOf o.serial = some (k, h) := by rw [State.heatOf, hcox]; exact hserial
  unfold State.oarKfail
  dsimp only
  rw [← State.kernelFailed, hfound]
  dsimp only
  rw [modHeat_some _ k h _ (by rw [hcox]; exact hheat)]

/-! ### Faults (R279) -/

/-- A fetch without a place is a fault, whichever instruction was to come. -/
theorem oarStep_unfetched (kind : OarKind) (f : Oar → Nat → Nat → State) (ho : s.oar? c l = some o) (hready : o.ready = true)
    (hfetch : s.oarFetch c l o = none) : s.oarStep c l kind f = finish s (s.oarFault c l o 1) := by
  unfold State.oarStep
  rw [ho]
  dsimp only
  rw [hready, Bool.not_true, if_neg Bool.false_ne_true, hfetch]

/-- A sliver whose budget expires ends with a fault. -/
theorem exec_oarBudgetExpire_runs (ho : s.oar? c l = some o) :
    exec (.oarBudgetExpire c l) s = finish s (s.oarFault c l o 4) := by
  rw [exec_oarBudgetExpire, execOarBudgetExpire, ho]

end

/-- Settles O55: a sliver starts as `startOar` says on an oar whose memory `codeLoaded` gives; ECALL ends it by `sliverEnds`, or by `oarKfail` with
one more error in the heat; and every other end is `oarFault`, a detected error with the cause that the row gives it. -/
theorem oarInvocations : Obligations.OarInvocations := by
  unfold Obligations.OarInvocations
  refine ⟨fun s k st ps i h p x b hat hkind => ⟨fun hop => ?_, fun c l code hop hi hplace hfree hcode => ?_⟩,
    fun s c l o w n => ⟨fun hat hzero => ?_, fun k h hat hbad hserial hheat => ?_, ?_, ?_, fun ho hlimit j h hheat => ?_⟩⟩
  · rw [exec_oarInvocationStart_pool hat hkind hop]
    exact finish_kernel (poolPass_kernel ..)
  · rw [exec_oarInvocationStart_kernel hat hkind hop hi hplace hfree hcode]
    refine start_wrap (X := (s.codeLoaded h st.toNat _ l code).notEnded _) (kernel_codeLoaded ..) fun t ht => ?_
    have hmem : t.mem = (s.codeLoaded h st.toNat (h.crews.getD c 0) l code).mem := ht.mem
    refine ⟨rfl, rfl, rfl, rfl, rfl, rfl, rfl, rfl, rfl, rfl, rfl, fun r => ?_, fun hagain => ?_, fun hfirst => ?_⟩
    · exact (startRegs_get (decide (code.length ≤ 14304)) i.toNat x.kb0 r).trans (by simp only [decide_eq_true_eq])
    · exact hmem.trans (congrArg State.mem (codeLoaded_again code hagain))
    · exact hmem.trans (codeLoaded_first code hfirst)
  · obtain ⟨hkernel, hgone, hcount⟩ := sliverEnds_kernel s c l o true
    obtain ⟨t, hexec, ht⟩ := finish_kernel hkernel
    rw [exec_ecall_ends hat, if_pos hzero]
    refine ⟨t, hexec, ht, ?_, by rw [ht.units]; exact hcount⟩
    rw [State.oar?, ht.units]; exact hgone
  · rw [exec_ecall_ends hat, if_neg hbad]
    obtain ⟨e, hdarn, hcause, hstroke, hfail⟩ := oarKfail_eq (c := c) (l := l) hserial hheat
    obtain ⟨hkernel, hgone, -⟩ := sliverEnds_kernel ((s.oarLast c o 5 (o.rx 10)).lint .OAR_KFAIL) c l o false
    obtain ⟨-, hod, hlast⟩ := sliverEnds_failed ((s.oarLast c o 5 (o.rx 10)).lint .OAR_KFAIL) c l o
    obtain ⟨t, hexec, ht⟩ := finish_kernel (s := s) (t := s.oarKfail c l o)
      (by rw [hfail, kernel_modSaf _ _ rfl, kernel_modCox _ _ rfl]; exact hkernel)
    rw [hfail] at ht
    refine ⟨t, e, hexec, ?_, ?_, ?_, hdarn, hcause, hstroke, ?_⟩
    · rw [State.oar?, ht.units]; exact hgone
    · exact (lintVal_congr (ht.od.trans hod ▸ rfl) _ _).trans (lintVal_lint (s.oarLast c o 5 (o.rx 10)) _)
    · rw [ht.cox]; exact amGet?_insert_self ..
    · rw [ht.units]; exact hlast
  · intro k i hi hat hlimit j h hheat
    simp only [List.mem_cons, Prod.mk.injEq, List.not_mem_nil, or_false] at hi
    obtain ⟨rfl, rfl⟩ | ⟨rfl, rfl⟩ := hi
    · rw [exec_ebreak, execEbreak, oarStep_does _ _ _ _ _ _ _ _ hat]; exact fault_word s c l o o 2 8 rfl j h rfl rfl rfl hheat hlimit
    · rw [exec_illegalInstruction, execIllegalInstruction, oarStep_does _ _ _ _ _ _ _ _ hat]
      exact fault_word s c l o o 2 8 rfl j h rfl rfl rfl hheat hlimit
  · intro i hi ho hready hfetch hlimit j h hheat
    have hfault : exec i s = finish s (s.oarFault c l o 1) := by
      simp only [List.mem_cons, List.not_mem_nil, or_false] at hi
      obtain rfl | rfl | rfl | rfl := hi <;> exact oarStep_unfetched _ _ ho hready hfetch
    rw [hfault]
    exact fault_word s c l o o 1 8 rfl j h rfl rfl rfl hheat hlimit
  · rw [exec_oarBudgetExpire_runs ho]
    exact fault_word s c l o o 4 9 rfl j h rfl rfl rfl hheat hlimit

end Sys2Proof.Machine
end

section
/-! SUPPORT. The boundary row of a partition's page manager, and the requests to it (R310, R317, R330, R335, R337). -/

namespace Sys2Proof.Machine

open Sys2Proof

/-- Is this the end of a SECOND_LOOK step of a partition? -/
def StepEnd.endsStepOf (part : Nat) (e : StepEnd) : Bool := decide (e.kind = .secondLook) && e.partition == part

/-- The state in which the ends of a partition's steps have been taken from the cox. -/
def State.endsTaken (s : State) (part : Nat) : State :=
  s.modCox (fun c => { c with stepEnds := c.stepEnds.filter (fun e => !e.endsStepOf part) })

/-- What a step leaves on a seat that follows the seat `x` (R337): its masses and fill have left for `x`, and its pins and masses are gone. -/
def State.stepReported (s : State) (part x decay : Nat) : State :=
  (s.sendTo x (.kvReport part (s.kvPart part).report.1 (s.kvPart part).report.2)).modKv part (fun k => k.dropPins.rescore decay false)

/-- What a completed step leaves on such a seat beside (R315, R337): its positions have advanced, and the pages that it filled have entered
the tree. -/
def State.stepFollowed (s : State) (part x : Nat) (r : SlRecipe) : State :=
  ((s.stepReported part x r.decay).modKv part KvPart.advance).treeInserts part ((s.stepReported part x r.decay).kvPart part).step r
    ((s.kvPart part).seqs.map (fun e => (e.1, e.2.nextPos)))

/-! ### What the report leaves alone -/

theorem kvPart_congr {s t : State} (h : t.kv = s.kv) (p : Nat) : t.kvPart p = s.kvPart p := by
  unfold State.kvPart; rw [h]

/-- A message to another seat leaves the page managers alone. -/
@[simp] theorem kvPart_sendTo (s : State) (x : Nat) (m : CtrlMsg) (p : Nat) : (s.sendTo x m).kvPart p = s.kvPart p :=
  kvPart_congr (congrArg State.kv (beyond_sendTo s x m :)) p

theorem crewsShort_endsTaken (s : State) (p : Nat) : (s.endsTaken p).crewsShort = s.crewsShort := crewsShort_kernel (kernel_modCox _ _ rfl)

theorem crewsShort_stepReported (s : State) (p x decay : Nat) : (s.stepReported p x decay).crewsShort = s.crewsShort :=
  (crewsShort_kernel (kernel_modKv ..)).trans (beyond_crews (beyond_sendTo ..))

theorem crewsShort_stepFollowed (s : State) (p x : Nat) (r : SlRecipe) : (s.stepFollowed p x r).crewsShort = s.crewsShort :=
  (crewsShort_kernel ((kernel_treeInserts ..).trans (kernel_modKv ..))).trans (crewsShort_stepReported ..)

/-! ### The boundary row, case by case -/

section
variable {s : State} {q : Fin 8}

theorem exec_kvBoundary_noPlan (hplan : s.slPlan q.val = none) : exec (.kvBoundary q) s = .next s := by
  simp only [exec_kvBoundary, execKvBoundary, hplan]

section
variable {slot : Nat} {p : Package} {k : Nat} {pl : Plan} {r : SlRecipe}
variable (hplan : s.slPlan q.val = some (slot, p, k, pl, r))
include hplan

/-- After a step the manager of a seat that follows no other processes the boundary (R330). -/
theorem exec_kvBoundary_ended {e : StepEnd} (hend : s.cox.stepEnds.find? (StepEnd.endsStepOf q.val) = some e) (hown : s.kvFollows = false) :
    exec (.kvBoundary q) s = finish s ((s.endsTaken q.val).boundary q slot p k pl r (some e.outcome) e.heat) := by
  have hown' : ¬ (s.endsTaken q.val).kvFollows = true := Bool.not_eq_true _ ▸ hown
  unfold StepEnd.endsStepOf at hend
  simp only [exec_kvBoundary, execKvBoundary, hplan, hend]
  exact if_neg hown'

/-- After a step a seat that follows the seat `x` reports to it, and advances where the step completed (R337). -/
theorem exec_kvBoundary_followed {e : StepEnd} {x : Nat} (hend : s.cox.stepEnds.find? (StepEnd.endsStepOf q.val) = some e)
    (hfollows : s.kvFollows = true) (hstroke : s.squad.stroke = some x) :
    exec (.kvBoundary q) s = finish s (if e.outcome = .done then (s.endsTaken q.val).stepFollowed q x r
      else (s.endsTaken q.val).stepReported q x r.decay) := by
  have hfollows' : (s.endsTaken q.val).kvFollows = true := hfollows
  have hstroke' : (s.endsTaken q.val).squad.stroke = some x := hstroke
  have hseqs (m : CtrlMsg) := congrArg KvPart.seqs (kvPart_sendTo (s.endsTaken q.val) x m q.val)
  unfold StepEnd.endsStepOf at hend
  simp only [exec_kvBoundary, execKvBoundary, hplan, hend]
  refine (if_pos hfollows').trans ?_
  unfold State.endsTaken StepEnd.endsStepOf at hstroke' hseqs
  rw [hstroke', hseqs, apply_ite (finish s)]
  rfl

/-- With no step to take up, the manager takes up its queue on an operating seat that follows no other and has no step under way (R330, R337). -/
theorem exec_kvBoundary_noEnd (hend : s.cox.stepEnds.find? (StepEnd.endsStepOf q.val) = none) :
    exec (.kvBoundary q) s = if s.stepOpen q || s.kvFollows || !s.dev.state.active then .next s
      else finish s (s.boundary q slot p k pl r none none) := by
  unfold StepEnd.endsStepOf at hend
  simp only [exec_kvBoundary, execKvBoundary, hplan, hend]

theorem exec_kvBoundary_idle (hend : s.cox.stepEnds.find? (StepEnd.endsStepOf q.val) = none) (hopen : s.stepOpen q.val = false)
    (hown : s.kvFollows = false) (hactive : s.dev.state.active = true) :
    exec (.kvBoundary q) s = finish s (s.boundary q slot p k pl r none none) := by
  rw [exec_kvBoundary_noEnd hplan hend, if_neg (by simp [hopen, hown, hactive])]

theorem exec_kvBoundary_waits (hend : s.cox.stepEnds.find? (StepEnd.endsStepOf q.val) = none)
    (hwait : s.stepOpen q.val = true ∨ s.kvFollows = true) : exec (.kvBoundary q) s = .next s := by
  rw [exec_kvBoundary_noEnd hplan hend, if_pos (by obtain h | h := hwait <;> simp [h])]

end

/-! ### Requests (R317, R335) -/

/-- The state in which the entry `y` has left the queue, UNDECIDED (R335). -/
def State.entryCancelled (s : State) (part : Nat) (y : KvEntry) (v : Nat) : State :=
  (s.slVerdict y .undecided .cancelled false).modKv part (fun k => { k with queue := k.queue.filter (fun z => z.id != v) })

/-- The state in which the sequence `y` of slot `n` is cancelled: it holds no pages, and its slot waits for the boundary (R335). -/
def State.seqCancelled (s : State) (part n : Nat) (y : KvSeq) : State :=
  (if y.decided then s else s.slVerdict y.entry .undecided .cancelled false).modKv part (fun k =>
    ((k.dropPages y).modSeq n (fun z => { z with pages := [], resv := 0, cancelled := true })).sweepFree)

theorem kernel_entryCancelled (s : State) (p : Nat) (y : KvEntry) (v : Nat) : (s.entryCancelled p y v).kernel = s.kernel :=
  (kernel_modKv ..).trans (kernel_slVerdict ..)

theorem kernel_seqCancelled (s : State) (p n : Nat) (y : KvSeq) : (s.seqCancelled p n y).kernel = s.kernel := by
  refine (kernel_modKv ..).trans ?_
  split
  · rfl
  · exact kernel_slVerdict ..

theorem entryCancelled_with (s : State) (ss) (p : Nat) (y : KvEntry) (v : Nat) :
    (s.withSessions ss).entryCancelled p y v = (s.entryCancelled p y v).withSessions ss := by
  unfold State.entryCancelled
  rw [slVerdict_with, modKv_with]

theorem seqCancelled_with (s : State) (ss) (p n : Nat) (y : KvSeq) :
    (s.withSessions ss).seqCancelled p n y = (s.seqCancelled p n y).withSessions ss := by
  unfold State.seqCancelled
  split
  · rw [modKv_with]
  · rw [slVerdict_with, modKv_with]

theorem actKvCancel_entry {part v : Nat} {y : KvEntry} (h : (s.kvPart part).queue.find? (fun y => y.id == v) = some y) :
    actKvCancel s part v = .ok (s.entryCancelled part y v) := by
  unfold actKvCancel
  dsimp only
  rw [h]
  rfl

theorem actKvCancel_seq {part v n : Nat} {y : KvSeq} (hqueue : (s.kvPart part).queue.find? (fun y => y.id == v) = none)
    (h : (s.kvPart part).seqs.find? (fun z => z.2.entry.id == v && !z.2.cancelled) = some (n, y)) :
    actKvCancel s part v = .ok (s.seqCancelled part n y) := by
  unfold actKvCancel
  dsimp only
  rw [hqueue]
  dsimp only
  rw [h]
  rfl

/-- A write of a number to a WO entry without reserved bits whose action, whatever the sessions hold, makes a state `z` of the same kernel. -/
theorem num_does_kernel {z : State} {x : Session} {e : Envelope} {E : Ent} {i v : Nat} (hm : s.MayWrite x (wrNum e E i v) (.ent E i 0))
    (hv : v < 256 ^ E.row.ty.size) (hty : E.row.ty ≠ .domain) (hwo : E.row.acc = .wo) (hrsv : E.rsvOk (.num v) = true)
    (hrange : E.rangeOk i 0 (.num v) = true)
    (hact : ∀ ss, (s.withSessions ss).writeAct (.session e.session.toNat e.reqId.toNat) (some e.session.toNat) (some e.reqId.toNat) E i (.num v) =
      .ok (z.withSessions ss))
    (hk : z.kernel = s.kernel) : ∃ t, odRow s (wrNum e E i v) = .next t ∧ z.RespondsAs t (wrNum e E i v) .ok :=
  num_does s x e E i v z hm hv hty hwo hrsv hrange hact (quiet_same (by rw [squad_kernel hk])) (by rw [squad_kernel hk]; exact hm.settled.2)
    (by rw [crewsShort_kernel hk]; exact id)

/-- KV_CANCEL: what its action makes, whatever the sessions hold, the request leaves, and it is answered OK. -/
theorem kvCancel_does {z : State} {x : Session} {e : Envelope} {v : BitVec 64}
    (hm : s.MayWrite x (wrNum e .KV_CANCEL q.val v.toNat) (.ent .KV_CANCEL q.val 0))
    (hact : ∀ ss, actKvCancel (s.withSessions ss) q.val v.toNat = .ok (z.withSessions ss)) (hk : z.kernel = s.kernel) :
    ∃ t, exec (.kvCancel e q v) s = .next t ∧ z.RespondsAs t (wrNum e .KV_CANCEL q.val v.toNat) .ok := by
  rw [exec_kvCancel]
  exact num_does_kernel hm v.isLt (by decide) rfl (rsvOk_zero _ rfl) (rangeOk_num rfl rfl) (fun ss => (act_KV_CANCEL ..).trans (hact ss)) hk

theorem actKvFlush_one (s : State) (part : Nat) : actKvFlush s part 1 = .ok (s.modKv part (fun k => { k with flush := true })) := if_pos rfl

/-- KV_TREE_FLUSH of 1: the next boundary flushes the tree (R317). -/
theorem kvTreeFlush_does {x : Session} {e : Envelope} (hm : s.MayWrite x (wrNum e .KV_TREE_FLUSH q.val 1) (.ent .KV_TREE_FLUSH q.val 0)) :
    ∃ t, exec (.kvTreeFlush e q 1) s = .next t ∧
      (s.modKv q (fun k => { k with flush := true })).RespondsAs t (wrNum e .KV_TREE_FLUSH q.val 1) .ok := by
  rw [exec_kvTreeFlush]
  exact num_does_kernel (v := 1) hm (by decide) (by decide) rfl (rsvOk_zero _ rfl) (rangeOk_num rfl rfl)
    (fun ss => by rw [act_KV_TREE_FLUSH, actKvFlush_one, modKv_with]) (kernel_modKv ..)

end

/-- Settles O42: the boundary row is one of the cases above. A seat that follows sends its report and changes its own pages alone, so that no
partition becomes short of crews by it; a request changes the queue, the sequences or the flush mark of its partition, and the part's verdict. -/
theorem pages : Obligations.Pages := by
  unfold Obligations.Pages
  refine fun s q => ⟨exec_kvBoundary_noPlan, fun slot p k pl r hplan => ⟨fun e u hend hu => ?_, fun hend => ⟨?_, exec_kvBoundary_waits hplan hend⟩⟩,
    fun x e => ⟨fun v hm => ⟨fun y hy => ?_, fun n y hqueue hy => ?_⟩, kvTreeFlush_does⟩⟩
  · obtain rfl : u = s.endsTaken q.val := hu
    refine ⟨fun hown hshort => ?_, fun x hfollows hstroke hout => ?_, fun x w hfollows hstroke hout hw => ?_⟩
    · rw [exec_kvBoundary_ended hplan hend hown]
      exact finish_ends _ _ hshort
    · rw [exec_kvBoundary_followed hplan hend hfollows hstroke, if_neg hout]
      exact finish_ends _ _ (by rw [crewsShort_stepReported, crewsShort_endsTaken]; exact id)
    · obtain rfl : w = (s.endsTaken q.val).stepReported q x r.decay := hw
      rw [exec_kvBoundary_followed hplan hend hfollows hstroke, if_pos hout]
      exact finish_ends _ _ (by rw [crewsShort_stepFollowed, crewsShort_endsTaken]; exact id)
  · intro hopen hown hactive hshort
    rw [exec_kvBoundary_idle hplan hend hopen hown hactive]
    exact finish_ends _ _ hshort
  · exact kvCancel_does (z := s.entryCancelled q y v.toNat) hm
      (fun ss => by rw [actKvCancel_entry (s := s.withSessions ss) hy, entryCancelled_with]) (kernel_entryCancelled ..)
  · exact kvCancel_does (z := s.seqCancelled q n y) hm
      (fun ss => by rw [actKvCancel_seq (s := s.withSessions ss) hqueue hy, seqCancelled_with]) (kernel_seqCancelled ..)

end Sys2Proof.Machine
end

section
/-! SUPPORT. The draw generator and the replay of images, sequences and STATE tensors (R351, R363 to R366, R368, R369). -/

namespace Sys2Proof.Machine

open Sys2Proof

section
variable {s z : State} {x : Session} {e : Envelope} {q : Fin 8} {ofs : BitVec 64} {b d : Bytes}

/-! ### The draw generator (R351, R368) -/

/-- What DET_GEN_OUT holds after the operands `v` (R351): the four words of the draw block of seed, stream, kind, stroke field and index. -/
def genOutOf (v : Bytes) : Bytes :=
  (drawBlock (slice v 0 16) (fieldAt v 16 8) (fieldAt v 24 1) (fieldAt v 25 3) (fieldAt v 28 8)).flatMap (leBytes 4)

theorem actGenIn_draws {v : Bytes} (hlen : v.length = 36) (hkind : fieldAt v 24 1 < 16) :
    actGenIn s v = .ok (s.modDet (fun y => { y with genOut := genOutOf v })) :=
  if_neg (not_or.2 ⟨not_not_intro hlen, Nat.not_le.2 hkind⟩)

/-- `DET_GEN_IN` takes exactly the 36 bytes of its operands (R524). -/
theorem lengthFault_genIn {n : Nat} (h : n = 36) : s.lengthFault (.ent .DET_GEN_IN 0 0) n = none := if_pos h

/-- `DET_GEN_IN` is not at the place of `RP_LOAD`. -/
theorem place_genIn : (placeKey (BitVec.ofNat 16 (Ent.DET_GEN_IN.row.index + 0)).toNat (BitVec.ofNat 8 Ent.DET_GEN_IN.row.sub).toNat ==
    Ent.RP_LOAD.key 0 0) = false := by decide

/-- DET_GEN_IN: the draw block goes to DET_GEN_OUT, and the write is answered OK. -/
theorem detGenIn_does (hm : s.MayWrite x (wrSeg e .DET_GEN_IN 0 ofs d) (.ent .DET_GEN_IN 0 0)) (hb : x.Holds (wrSeg e .DET_GEN_IN 0 ofs d) b)
    (hlast : e.last = true) (hlen : (b ++ d).length = 36) (hkind : fieldAt (b ++ d) 24 1 < 16) :
    ∃ t, exec (.detGenIn e ofs d) s = .next t ∧
      (s.modDet (fun y => { y with genOut := genOutOf (b ++ d) })).RespondsAs t (wrSeg e .DET_GEN_IN 0 ofs d) .ok := by
  rw [exec_detGenIn]
  unfold execDetGenIn
  exact seg_does s x e .DET_GEN_IN 0 ofs b d _ hm rfl hb hlast (lengthFault_genIn hlen) (.inl place_genIn) rfl rfl
    (fun ss => by rw [act_DET_GEN_IN]; exact actGenIn_draws (s := s.withSessions ss) hlen hkind) (quiet_same rfl) hm.settled.2 id

/-! ### A replayed value (R363, R524) -/

/-- Is this one of the three entries that take a replay (R364 to R366)? -/
def Ent.TakesReplay (E : Ent) : Prop := E = .DET_REPLAY_STATE ∨ E = .DET_REPLAY_SEQ ∨ E = .DET_REPLAY_SWATH

/-- The entries that take a replay are WO DOMAIN entries without bounds on their bytes. -/
theorem Ent.TakesReplay.row {E : Ent} (h : E.TakesReplay) :
    E.row.ty = .domain ∧ E.row.exactLen = false ∧ E.row.acc = .wo ∧ E ≠ .RP_LOAD ∧ ∀ v, E.bytesOk v = true := by
  obtain rfl | rfl | rfl := h <;> exact ⟨rfl, rfl, rfl, nofun, fun _ => rfl⟩

/-- An entry that takes a replay is not at the place of `RP_LOAD`. -/
theorem Ent.TakesReplay.place {E : Ent} (h : E.TakesReplay) (q : Fin 8) :
    (placeKey (BitVec.ofNat 16 (E.row.index + q)).toNat (BitVec.ofNat 8 E.row.sub).toNat == Ent.RP_LOAD.key 0 0) = false := by
  obtain rfl | rfl | rfl := h <;> revert q <;> decide

/-- The last segment of a replay whose action, whatever the sessions hold, makes `z` with the squad of before and is answered at once. -/
theorem replaySeg_does {E : Ent} (hE : E.TakesReplay) (hm : s.MayWrite x (wrSeg e E q.val ofs d) (.ent E q.val 0))
    (hb : x.Holds (wrSeg e E q.val ofs d) b) (hlast : e.last = true) (hlen : (b ++ d).length ≤ E.row.maxLen)
    (hact : ∀ ss, (s.withSessions ss).writeAct (.session e.session.toNat e.reqId.toNat) (some e.session.toNat) (some e.reqId.toNat) E q.val
      (.bytes (b ++ d)) = .ok (z.withSessions ss))
    (hsquad : z.squad = s.squad) (hshort : z.crewsShort = true → s.crewsShort = true) :
    ∃ t, odRow s (wrSeg e E q.val ofs d) = .next t ∧ z.RespondsAs t (wrSeg e E q.val ofs d) .ok := by
  obtain ⟨hty, hexact, hwo, hload, hbytes⟩ := hE.row
  have hfault : s.lengthFault (.ent E q.val 0) (b ++ d).length = none := by
    have hmax : s.maxLen E = E.row.maxLen := if_neg hload
    simp only [State.lengthFault, hty, hexact, hmax, hlen, Bool.false_eq_true, if_true, if_false]
  exact seg_does s x e E q.val ofs b d z hm hty hb hlast hfault (.inl (hE.place q)) hwo (hbytes _) hact
    (quiet_same (congrArg Squad.ports hsquad)) (by rw [hsquad]; exact hm.settled.2) hshort

/-! ### STATE tensors (R365) -/

theorem actReplayState_replaces {part slot n : Nat} {v : Bytes} (hon : s.flag .DET_REPLAY_ENABLE part = true) (harmed : s.dev.state = .armed)
    (htensor : s.stateTensor part (fieldAt v 0 2) = some (slot, n)) (hlen : v.length = 4 + n) (hzero : fieldAt v 2 2 = 0) :
    actReplayState s part v = .ok (s.setState slot (fieldAt v 0 2) (v.drop 4)) := by
  unfold actReplayState
  rw [if_neg (by simp [hon, harmed])]
  dsimp only
  rw [htensor]
  exact if_pos ⟨hlen, hzero⟩

/-! ### Sequences (R366) -/

/-- The bytes of one crop of a SECOND_LOOK plan, whose crop tensor holds 1,024 of them. -/
def cropBytes (p : Package) (r : SlRecipe) : Nat := (match p.td r.tdCrops with | some t => t.size | none => 0) / 1024

/-- The crop slot of a sequence image, by the swath and the box of its tag. -/
def replayPlace (r : SlRecipe) (v : Bytes) : Nat := (fieldAt v 80 8 % 2 ^ 50 * r.perSwath + bits (fieldAt v 80 8) 59 50) % 1024

/-- The evict log of a sequence image: its records, each of 8 bytes. -/
def replayLog (v : Bytes) : Bytes := slice v 288 (8 * bits (fieldAt v 256 32) 16 8)

/-- The queue entry of a sequence image: it takes the next id of its partition, and each eviction of its log with its position. -/
def State.replayEntry (s : State) (part : Nat) (r : SlRecipe) (v : Bytes) : KvEntry :=
  let tag := fieldAt v 80 8
  let evicts := bits (fieldAt v 256 32) 16 8
  ⟨(s.kvPart part).nextId, tag / 2 ^ 60, 0, replayPlace r v, fieldAt v 40 4, 0, tag % 2 ^ 50, bits tag 59 50, s.cox.period, s.cox.period, none, true,
    (List.range evicts).map (fun i => (fieldAt (replayLog v) (8 * i) 1, fieldAt (slice v (288 + 8 * evicts) (4 * evicts)) (4 * i) 4))⟩

/-- The state in which the crop of a sequence image is in its slot. -/
def State.cropReplayed (s : State) (slot : Nat) (p : Package) (r : SlRecipe) (v : Bytes) : State :=
  s.setState slot r.tdCrops (putBytes (fit (p.stateOf r.tdCrops) (cropBytes p r * 1024)) (replayPlace r v * cropBytes p r) (v.drop (fieldAt v 4 4)))

/-- The state in which a sequence image is taken: its crop is in its slot, its part in the queue, and it is counted (R366, R369). -/
def State.seqReplayed (s : State) (part slot : Nat) (p : Package) (r : SlRecipe) (v : Bytes) : State :=
  ((s.cropReplayed slot p r v).modKv part (fun k =>
    { k with queue := k.queue ++ [s.replayEntry part r v], nextId := (s.kvPart part).nextId + 1 })).replayed part

/-- A sequence image that a partition takes (R366): a record of a SECOND_LOOK result with its evict log, a crop of the right size, both with
their sums right, and a place in the queue. -/
structure State.TakesSeq (s : State) (part : Nat) (p : Package) (r : SlRecipe) (v : Bytes) : Prop where
  record : 288 ≤ fieldAt v 4 4
  kind : fieldAt v 0 1 % 256 = 0x21
  size : (v.drop (fieldAt v 4 4)).length = cropBytes p r
  cropSum : crc32c (v.drop (fieldAt v 4 4)) = fieldAt v 88 4
  logSum : crc32c (replayLog v) = bits (fieldAt v 256 32) 63 32
  room : (s.kvPart part).queue.length < 1024

theorem State.TakesSeq.withSessions {part : Nat} {p : Package} {r : SlRecipe} {v : Bytes} (h : s.TakesSeq part p r v) (ss) :
    (s.withSessions ss).TakesSeq part p r v := { h with }

theorem actReplaySeq_queues {part slot k : Nat} {p : Package} {pl : Plan} {r : SlRecipe} {v : Bytes}
    (hon : s.flag .DET_REPLAY_ENABLE part = true) (hplan : s.slPlan part = some (slot, p, k, pl, r)) (htakes : s.TakesSeq part p r v) :
    actReplaySeq s part v = .ok (s.seqReplayed part slot p r v) := by
  unfold actReplaySeq
  rw [hon, hplan, if_neg (by decide)]
  refine if_neg ?_
  simp only [Bool.not_eq_true', Bool.not_eq_false, Bool.and_eq_true, decide_eq_true_eq]
  exact ⟨⟨⟨⟨⟨htakes.record, htakes.kind⟩, htakes.size⟩, htakes.cropSum⟩, htakes.logSum⟩, htakes.room⟩

theorem seqReplayed_with (s : State) (ss) (part slot : Nat) (p : Package) (r : SlRecipe) (v : Bytes) :
    (s.withSessions ss).seqReplayed part slot p r v = (s.seqReplayed part slot p r v).withSessions ss := by
  unfold State.seqReplayed State.cropReplayed
  rw [setState_with, modKv_with, replayed_with]
  rfl

theorem squad_seqReplayed (s : State) (part slot : Nat) (p : Package) (r : SlRecipe) (v : Bytes) :
    (s.seqReplayed part slot p r v).squad = s.squad :=
  (replayed_squad ..).trans ((modKv_squad ..).trans (setState_squad ..))

theorem crewsShort_seqReplayed (s : State) (part slot : Nat) (p : Package) (r : SlRecipe) (v : Bytes) :
    (s.seqReplayed part slot p r v).crewsShort = (s.cropReplayed slot p r v).crewsShort :=
  (replayed_crews ..).trans (modKv_crews ..)

/-! ### Swaths (R364) -/

/-- A replay image that agrees with its port `p` in the partition `part` (R364): line width and lines are those of the port, the seam rows and the
samples have their size, and the samples have the sum of the record. -/
structure State.TakesImage (s : State) (part : Nat) (p : Fin 12) (v : Bytes) (boxLen seamLen : Nat) : Prop where
  header : replayHeader v = some (p.val, boxLen, seamLen)
  port : (s.num .PART_CAM_MASK part).testBit p.val = true
  width : bits (fieldAt v 0 64) 415 400 = s.num .CAM_LINE_WIDTH p
  lines : bits (fieldAt v 0 64) 399 384 = s.camL p
  seam : seamLen = 0 ∨ seamLen = (s.mglCfg p).selected.length * s.num .CAM_OVERLAP p *
    (s.camW p * (outBytes (s.mglCfg p).outFmt (sampleDepth (s.num .CAM_PACKING p)) 0).length)
  size : (v.drop (80 + boxLen + seamLen)).length = s.camL p * s.camW p * (if sampleDepth (s.num .CAM_PACKING p) = 8 then 1 else 2)
  sum : crc32c (v.drop (80 + boxLen + seamLen)) = bits (fieldAt v 0 64) 447 416

theorem State.TakesImage.withSessions {part boxLen seamLen : Nat} {p : Fin 12} {v : Bytes} (h : s.TakesImage part p v boxLen seamLen) (ss) :
    (s.withSessions ss).TakesImage part p v boxLen seamLen := { h with }

/-- The state in which the swath `w` is the last one that port `p` has closed, with the buffers `rest` still free. -/
def State.swathReplayed (s : State) (p : Fin 12) (w : Swath) (rest : List Nat) : State :=
  s.modCam p (fun c => { c with
    free := rest, swathCnt := w.cnt, lastSwath := w.cnt, closed := keepClosed (s.num .CAM_SWATH_BUFS p) (w :: c.closed) })

/-- Where the fabric runs the fire list is active (R26). -/
theorem active_of_runs : ∀ {a : DevState}, a.runs = true → a.active = true
  | .run, _ => rfl
  | .degraded, _ => rfl

theorem actReplaySwath_closes {part boxLen seamLen buf : Nat} {p : Fin 12} {v : Bytes} {rest : List Nat}
    (hon : s.flag .DET_REPLAY_ENABLE part = true) (hactive : s.dev.state.active = true) (htakes : s.TakesImage part p v boxLen seamLen)
    (hfree : s.cams[p].free = buf :: rest) :
    actReplaySwath s part v = .ok
      (((s.swathReplayed p (s.replaySwath p v boxLen seamLen buf) rest).handOff p (s.replaySwath p v boxLen seamLen buf)).replayed part) := by
  have hp : toFin? 12 p.val = some p := dif_pos p.isLt
  unfold actReplaySwath
  rw [hon, hactive, if_neg (by decide), htakes.header]
  dsimp only
  rw [hp]
  dsimp only
  rw [hfree]
  refine if_neg ?_
  simp only [Bool.not_eq_true', Bool.not_eq_false, Bool.and_eq_true, Bool.or_eq_true, decide_eq_true_eq]
  exact ⟨⟨⟨⟨⟨htakes.port, htakes.width⟩, htakes.lines⟩, htakes.seam⟩, htakes.size⟩, htakes.sum⟩

/-- DET_REPLAY_SWATH of an image that is taken: its swath closes, is handed on and counted, and the write is answered OK. -/
theorem detReplaySwath_does {boxLen seamLen buf : Nat} {p : Fin 12} {rest : List Nat} {w : Swath} {u : State}
    (hm : s.MayWrite x (wrSeg e .DET_REPLAY_SWATH q.val ofs d) (.ent .DET_REPLAY_SWATH q.val 0))
    (hb : x.Holds (wrSeg e .DET_REPLAY_SWATH q.val ofs d) b) (hlast : e.last = true) (hlen : (b ++ d).length ≤ Ent.DET_REPLAY_SWATH.row.maxLen)
    (hon : s.flag .DET_REPLAY_ENABLE q.val = true) (hruns : s.dev.state.runs = true) (hstop : s.cox.stopReq = false)
    (htakes : s.TakesImage q.val p (b ++ d) boxLen seamLen) (hfree : s.cams[p].free = buf :: rest)
    (hw : w = s.replaySwath p (b ++ d) boxLen seamLen buf) (hu : u = s.swathReplayed p w rest)
    (hgood : s.fastPlan p ≠ none → u.spoiled p w = false ∧ (s.cox.queue.filter (fun x => x.resume.isNone)).length < 128) :
    ∃ t, exec (.detReplaySwath e q ofs d) s = .next t ∧
      ((u.handOff p w).replayed q.val).RespondsAs t (wrSeg e .DET_REPLAY_SWATH q.val ofs d) .ok := by
  subst hw hu
  have hhand := fun ss => handOff_with p (s.replaySwath p (b ++ d) boxLen seamLen buf) rfl hstop
    (s.swathReplayed p (s.replaySwath p (b ++ d) boxLen seamLen buf) rest) ss hgood hstop hruns
  obtain ⟨-, hsquad, hshort⟩ := hhand s.od.sessions
  rw [exec_detReplaySwath]
  refine replaySeg_does (.inr (.inr rfl)) hm hb hlast hlen (fun ss => ?_) ((replayed_squad ..).trans hsquad)
    (by rw [replayed_crews, hshort]; exact id)
  rw [act_DET_REPLAY_SWATH, ← replayed_with, ← (hhand ss).1]
  exact actReplaySwath_closes (s := s.withSessions ss) hon (active_of_runs hruns) (htakes.withSessions ss) hfree

end

/-- Settles O41: each write is the last segment of a value that its action takes. The draw block depends on the operands alone; a STATE tensor or a
crop changes its package's tensor, a sequence the queue beside, and a swath the closed swaths of its port and what follows a hand-off, so that
none of them changes the squad and only a package could leave crews short. -/
theorem determinism : Obligations.Determinism := by
  unfold Obligations.Determinism
  intro s x e q ofs b d v hv hlast
  subst hv
  refine ⟨fun hm hb hlen hkind => detGenIn_does hm hb hlast hlen hkind,
    fun slot n hm hb hlen hon harmed htensor hsize hzero hshort => ?_,
    fun slot p k pl r len n a evicts place tag u hm hb hlen hon hplan hlenEq hn ha hevicts hrecord hkind hsize hcrop hlog hroom htag hplace hu hshort => ?_,
    fun p boxLen seamLen buf rest depth size g w u hm hb hlen hon hruns hstop hheader hdepth hbytes hg hport hwidth hlines hseam hsize hsum hfree
      hw hu hgood => ?_⟩
  · rw [exec_detReplayState]
    exact replaySeg_does (.inl rfl) hm hb hlast hlen (fun ss => by
      rw [act_DET_REPLAY_STATE, actReplayState_replaces (s := s.withSessions ss) hon harmed htensor hsize hzero, setState_with]) (setState_squad ..) hshort
  · subst hlenEq hn ha hevicts htag hplace hu
    have htakes : s.TakesSeq q.val p r (b ++ d) := ⟨hrecord, hkind, hsize, hcrop, hlog, hroom⟩
    obtain ⟨t, ht, hresp⟩ := replaySeg_does (z := s.seqReplayed q.val slot p r (b ++ d)) (.inr (.inl rfl)) hm hb hlast hlen
      (fun ss => by
        rw [act_DET_REPLAY_SEQ, ← seqReplayed_with]
        exact actReplaySeq_queues (s := s.withSessions ss) hon hplan (htakes.withSessions ss))
      (squad_seqReplayed ..) (by rw [crewsShort_seqReplayed]; exact hshort)
    exact ⟨t, s.replayEntry q.val r (b ++ d), (exec_detReplaySeq e q ofs d s).trans ht, rfl, rfl, rfl, rfl, rfl, hresp⟩
  · subst hdepth hbytes hg
    exact detReplaySwath_does hm hb hlast hlen hon hruns hstop ⟨hheader, hport, hwidth, hlines, hseam, hsize, hsum⟩ hfree hw hu hgood

end Sys2Proof.Machine
end

section
/-! SUPPORT. The training of a link: commas, TRAIN blocks and measured eyes (R373 to R375, R379 to R385). -/

namespace Sys2Proof.Machine

open Sys2Proof

/-! ### One lane of a port -/

/-- Only what a change makes of the port as it stands counts. -/
theorem modPort_congr {s : State} {p : Fin 8} {f g : NlPort → NlPort} (h : f s.squad.ports[p] = g s.squad.ports[p]) : s.modPort p f = s.modPort p g :=
  congrArg (fun c => ({ s with squad := { s.squad with ports := s.squad.ports.set p c } } : State)) h

/-- Only what a change makes of the lane as it stands counts. -/
theorem modLane_congr {s : State} {p : Fin 8} {l : Fin 4} {f g : NlLane → NlLane} (h : f s.squad.ports[p].lanes[l] = g s.squad.ports[p].lanes[l]) :
    s.modLane p l f = s.modLane p l g :=
  modPort_congr (congrArg (fun x => { s.squad.ports[p] with lanes := s.squad.ports[p].lanes.set l x }) h)

/-- A port in DESKEW is past ALIGN. -/
theorem NlPort.not_inAlign_of_inDeskew {c : NlPort} (h : c.inDeskew = true) : c.inAlign = false := by
  unfold NlPort.inDeskew at h
  unfold NlPort.inAlign
  cases hc : c.state <;> simp_all

section
variable {s : State} {p : Fin 8} {l : Fin 4}

/-! ### Commas (R374, R375, R379, R381) -/

/-- A lane in ALIGN after a comma `gap` block times after its last one (R379). -/
def NlLane.aligning (l : Fin 4) (inv : Bool) (gap : Nat) (x : NlLane) : NlLane :=
  { x with
    commas := (if gap = 65 ∧ x.inverted = inv then x.commas + 1 else 1), inverted := inv
    aligned := x.aligned || decide (2 ≤ (if gap = 65 ∧ x.inverted = inv then x.commas + 1 else 1)), rx := laneSeed l }

/-- A lane in DESKEW after its comma (R381). -/
def NlLane.deskewed (l : Fin 4) (inv : Bool) (x : NlLane) : NlLane := { x with commaSeen := true, inverted := inv, rx := laneSeed l }

theorem commaIn_align {u : State} {inv : Bool} {gap skew : Nat} (h : s.squad.ports[p].inAlign = true)
    (hu : u = s.modLane p l (NlLane.aligning l inv gap)) :
    s.commaIn p l inv gap skew = if u.squad.ports[p].allLanes (·.aligned) then u.alignDone p else u := by
  subst hu
  exact if_pos h

theorem commaIn_skewed {inv : Bool} {gap skew : Nat} (h : s.squad.ports[p].inDeskew = true) (hskew : 16000 < skew) :
    s.commaIn p l inv gap skew = s.nlFail p 4 :=
  (if_neg (by rw [NlPort.not_inAlign_of_inDeskew h]; decide)).trans ((if_pos h).trans (if_pos hskew))

theorem commaIn_deskew {u : State} {inv : Bool} {gap skew : Nat} (h : s.squad.ports[p].inDeskew = true) (hskew : skew ≤ 16000)
    (hu : u = s.modLane p l (NlLane.deskewed l inv)) :
    s.commaIn p l inv gap skew = if u.squad.ports[p].allLanes (·.commaSeen) then u.deskewDone p else u := by
  subst hu
  exact (if_neg (by rw [NlPort.not_inAlign_of_inDeskew h]; decide)).trans ((if_pos h).trans (if_neg (Nat.not_lt.2 hskew)))

theorem commaIn_running {inv : Bool} {gap skew : Nat} (halign : s.squad.ports[p].inAlign = false) (hdeskew : s.squad.ports[p].inDeskew = false) :
    s.commaIn p l inv gap skew = s.modLane p l (fun x => { x with missed := 0, rx := laneSeed l }) :=
  (if_neg (by rw [halign]; decide)).trans (if_neg (by rw [hdeskew]; decide))

theorem alignDone_retrain (h : s.squad.ports[p].state = .retrain) : s.alignDone p = s.modPort p (fun c => { c with sub := 1 }) := if_pos h

theorem alignDone_skipEq (h : s.squad.ports[p].state = .align) (hskip : s.squad.ports[p].skipEq = true) :
    s.alignDone p = s.modPort p (fun c => { c with state := .deskew }) :=
  (if_neg (by rw [h]; decide)).trans (if_pos hskip)

theorem deskewDone_unmapped (h : s.squad.ports[p].laneMap = none) : s.deskewDone p = s.nlFail p 3 := by unfold State.deskewDone; rw [h]

theorem deskewDone_mapped {rev : Bool} (h : s.squad.ports[p].laneMap = some rev) : s.deskewDone p =
    (s.modPort p (fun c => { c with
      reversed := rev, state := (if c.state = .retrain then .retrain else .handshake), sub := (if c.state = .retrain then 2 else 0) })).each
        (allFin 4) (fun s l => s.emit (.block p l (s.trainBytes p l 3 0 0 0 0))) := by
  unfold State.deskewDone; rw [h]

/-- COMMA_BLOCK ends as its comma leaves the port, with the news of the ports. -/
theorem commaBlock_does {a v : State} {inv : Bool} {gap skew : BitVec 32} (hs : s.Settled) (ha : a = s.goodBlock p l)
    (h : a.commaIn p l inv gap.toNat skew.toNat = v) : ∃ t, exec (.commaBlock p l inv gap skew) s = .next t ∧ (s.nlSettle v).EndsAs t := by
  subst ha
  exact wire_as (by simp) hs h

/-! ### TRAIN blocks (R380 to R384) -/

/-- What every TRAIN block tells of its lane and of the far end (R380). -/
def State.trained (s : State) (p : Fin 8) (l : Fin 4) (r : Train) : State :=
  (s.modLane p l (fun x => { x with laneNo := some r.lane, farSaved := r.saved })).modPort p (fun c => { c with
    peer := some (r.seat, r.port, r.seatValid), peerId := r.devId, peerEmbedded := r.embedded, peerVer := r.verMax })

/-- A port that takes TRAIN blocks: in ALIGN, DESKEW, HANDSHAKE or EQUALIZE. -/
def NlPort.trains (c : NlPort) : Bool := c.inAlign || c.inDeskew || c.inHandshake || decide (c.state = .equalize)

/-- The taps that a request for a setting gives the own transmitter (R382): a preset, coefficients within the limits, or those it has. -/
def NlLane.tapsFor (x : NlLane) (r : Train) : Nat × Nat :=
  match preset r.preset with
  | some ab => ab
  | none => if r.preset = 0xF ∧ tapsOk r.cm1 r.cp1 then (r.cm1, r.cp1) else (x.cm1, x.cp1)

theorem NlPort.trains_iff {c : NlPort} :
    c.trains = true ↔ c.inAlign = true ∨ c.inDeskew = true ∨ c.inHandshake = true ∨ c.state = .equalize := by
  unfold NlPort.trains
  simp only [Bool.or_eq_true, decide_eq_true_eq, or_assoc]

theorem NlPort.trains_eq_false {c : NlPort} (halign : c.inAlign = false) (hdeskew : c.inDeskew = false) (hhand : c.inHandshake = false)
    (heq : c.state ≠ .equalize) : c.trains = false := by
  simp [NlPort.trains, halign, hdeskew, hhand, heq]

theorem preset_fifteen : preset 0xF = none := rfl

theorem NlLane.tapsFor_eq {x : NlLane} {r : Train} {a b : Nat} (h : preset r.preset = some (a, b) ∨
    (r.preset = 0xF ∧ tapsOk r.cm1 r.cp1 = true ∧ a = r.cm1 ∧ b = r.cp1) ∨
    (preset r.preset = none ∧ ¬ (r.preset = 0xF ∧ tapsOk r.cm1 r.cp1 = true) ∧ a = x.cm1 ∧ b = x.cp1)) : x.tapsFor r = (a, b) := by
  unfold NlLane.tapsFor
  obtain h | ⟨hcoef, hok, rfl, rfl⟩ | ⟨hnone, hnot, rfl, rfl⟩ := h
  · rw [h]
  · rw [hcoef, preset_fifteen]
    exact if_pos ⟨rfl, hok⟩
  · rw [hnone]
    exact if_neg hnot

theorem trainIn_other {v : Nat} (h : s.squad.ports[p].trains = false) : s.trainIn p l v = s :=
  if_pos (by rw [show (s.squad.ports[p].inAlign || s.squad.ports[p].inDeskew || s.squad.ports[p].inHandshake ||
    decide (s.squad.ports[p].state = .equalize)) = false from h]; decide)

theorem trained_port (r : Train) : (s.trained p l r).squad.ports[p] =
    { s.squad.ports[p].modLane l (fun x => { x with laneNo := some r.lane, farSaved := r.saved }) with
      peer := some (r.seat, r.port, r.seatValid), peerId := r.devId, peerEmbedded := r.embedded, peerVer := r.verMax } := by
  unfold State.trained
  rw [modPort_port, modLane_port]

/-- What a TRAIN block tells leaves the taps of the lane. -/
theorem trained_tapsFor (r : Train) : ((s.trained p l r).squad.ports[p].lanes[l]).tapsFor r = (s.squad.ports[p].lanes[l]).tapsFor r := by
  rw [trained_port]
  dsimp only
  rw [modLane_lane]
  rfl

section
variable {v : Nat} {r : Train} (h : s.squad.ports[p].trains = true) (hr : r = readTrain v)
include h hr

/-- A TRAIN block at a port in training, by its phase (R380, R383, R384). -/
theorem trainIn_trains : s.trainIn p l v =
    if r.phase = 1 then
      let taps := ((s.trained p l r).squad.ports[p].lanes[l]).tapsFor r
      let u := (s.trained p l r).modLane p l (fun x => { x with cm1 := taps.1, cp1 := taps.2 })
      u.emit (.block p l (u.trainBytes p l 2 (if r.preset ≤ 10 then r.preset else 0xF) taps.1 taps.2 r.token))
    else if r.phase = 2 then (s.trained p l r).modLane p l (fun x => if r.token = x.token then { x with applied := true } else x)
    else if r.phase = 3 then
      let u := (s.trained p l r).modLane p l (fun x => { x with farDone := true })
      if u.squad.ports[p].inHandshake ∧ u.squad.ports[p].allLanes (·.farDone) then u.handshakeDone p else u
    else s.trained p l r := by
  subst hr
  exact if_neg (not_not_intro h)

/-- A request for a setting: the transmitter takes it, and the reply names it (R383). -/
theorem trainIn_request {a b : Nat} {u : State} (hphase : r.phase = 1) (htaps : (s.squad.ports[p].lanes[l]).tapsFor r = (a, b))
    (hu : u = (s.trained p l r).modLane p l (fun x => { x with cm1 := a, cp1 := b })) :
    s.trainIn p l v = u.emit (.block p l (u.trainBytes p l 2 (if r.preset ≤ 10 then r.preset else 0xF) a b r.token)) := by
  subst hu
  rw [trainIn_trains h hr, if_pos hphase, trained_tapsFor, htaps]

theorem trainIn_reply (hphase : r.phase = 2) : s.trainIn p l v =
    (s.trained p l r).modLane p l (fun x => if r.token = x.token then { x with applied := true } else x) := by
  rw [trainIn_trains h hr, if_neg (by omega), if_pos hphase]

theorem trainIn_done {u : State} (hphase : r.phase = 3) (hu : u = (s.trained p l r).modLane p l (fun x => { x with farDone := true })) :
    s.trainIn p l v = if u.squad.ports[p].inHandshake ∧ u.squad.ports[p].allLanes (·.farDone) then u.handshakeDone p else u := by
  subst hu
  rw [trainIn_trains h hr, if_neg (by omega), if_neg (by omega), if_pos hphase]

end

/-- What the end of HANDSHAKE looks at, after a DONE on a lane: the clocking and the version that the block told, and the port's own state. -/
theorem trained_farDone {u : State} (r : Train) (hu : u = (s.trained p l r).modLane p l (fun x => { x with farDone := true })) :
    u.squad.ports[p].peerEmbedded = r.embedded ∧ u.squad.ports[p].peerVer = r.verMax ∧ u.squad.ports[p].state = s.squad.ports[p].state ∧
      u.nlEmbedded p = s.nlEmbedded p ∧ u.flag .CLK_REFCLK_SSC 0 = s.flag .CLK_REFCLK_SSC 0 := by
  subst hu
  rw [modLane_port, trained_port]
  exact ⟨rfl, rfl, rfl, rfl, rfl⟩

/-- TRAIN_BLOCK of any other type is a block error (R373). -/
theorem trainBlock_bad (hs : s.Settled) {v : BitVec 128} (h : v.toNat % 256 ≠ 0x1E) : ∃ t, exec (.trainBlock p l v) s = .next t ∧
    (s.nlSettle ((s.modLane p l (fun x => { x with blockErrs := x.blockErrs + 1 })).lintAt .NL_BLOCK p)).EndsAs t :=
  wire_as (by rw [if_neg h]; rfl) hs (if_neg h)

/-- TRAIN_BLOCK ends as its block leaves the port, with the news of the ports. -/
theorem trainBlock_does {a u : State} {v : BitVec 128} (hs : s.Settled) (ha : a = s.goodBlock p l) (hv : v.toNat % 256 = 0x1E)
    (h : a.trainIn p l v.toNat = u) : ∃ t, exec (.trainBlock p l v) s = .next t ∧ (s.nlSettle u).EndsAs t := by
  subst ha
  exact wire_as (by rw [if_pos hv]; simp) hs ((if_pos hv).trans h)

/-! ### The end of HANDSHAKE (R381, R629) -/

/-- A port in UP with a version, the handshake over. -/
def NlPort.handshaken (c : NlPort) (version : Nat) : NlPort :=
  { c with state := .up, sub := 0, version := version, skipEq := false, easyTx := false, easyRx := false }

theorem handshakeDone_clocking (h : s.squad.ports[p].peerEmbedded ≠ s.nlEmbedded p ∨ (s.nlEmbedded p = true ∧ s.flag .CLK_REFCLK_SSC 0 = true)) :
    s.handshakeDone p = s.nlFail p 5 := if_pos h

section
variable (hclk : s.squad.ports[p].peerEmbedded = s.nlEmbedded p) (hssc : s.nlEmbedded p = false ∨ s.flag .CLK_REFCLK_SSC 0 = false)
include hclk hssc

theorem handshakeDone_version (h : s.squad.ports[p].peerVer = 0) : s.handshakeDone p = s.nlFail p 6 :=
  (if_neg (no5 hclk hssc)).trans (if_pos (by rw [h]; rfl))

theorem handshakeDone_agreed (h : s.squad.ports[p].peerVer ≠ 0) : s.handshakeDone p =
    let z := s.modPort p (fun c => c.handshaken (min 1 s.squad.ports[p].peerVer))
    if s.squad.ports[p].state = .retrain then (z.squad.ports[p].replay.foldl (fun s e => s.putCell p e.2 e.1) z).flushCells p
    else z.flushCells p :=
  (if_neg (no5 hclk hssc)).trans (if_neg (by omega))

end

/-! ### Measured eyes (R382 to R384) -/

/-- The lane keeps the setting that it now asks for as its best, with its figure of merit (R383). -/
def NlLane.keepBest (f : Nat) (x : NlLane) : NlLane := { x with bestFom := f, bestCm1 := x.askCm1, bestCp1 := x.askCp1 }

theorem evaluateLane_idle {h w : Nat} (hidle : s.squad.ports[p].state ≠ .equalize ∨ s.squad.ports[p].lanes[l].applied = false) :
    s.evaluateLane p l h w = s :=
  if_pos (hidle.imp id (fun h => by rw [h]; decide))

section
variable {h w f : Nat} {x : NlLane} (hstate : s.squad.ports[p].state = .equalize) (hx : x = s.squad.ports[p].lanes[l]) (happ : x.applied = true)
  (hf : f = figureOfMerit h w)
include hstate hx happ hf

/-- A measured eye on a lane whose setting has been applied, by the stage of its training (R383). -/
theorem evaluateLane_applied : s.evaluateLane p l h w =
    match x.stage with
    | .saved => (s.modLane p l (fun x => { x with stage := .done, fom := f })).eqEnd p
    | .preset k =>
      let u := if x.bestFom < f ∨ k = 0 then s.modLane p l (NlLane.keepBest f) else s
      match preset (k + 1) with
      | some (a, b) => u.ask p l (.preset (k + 1)) a b
      | none =>
        let r := nextTrial 4 0 u.squad.ports[p].lanes[l].bestCm1 u.squad.ports[p].lanes[l].bestCp1
        u.ask p l r.1 r.2.1 r.2.2
    | .trial k =>
      let u := if x.bestFom < f then s.modLane p l (NlLane.keepBest f) else s
      let r := nextTrial 4 (k + 1) u.squad.ports[p].lanes[l].bestCm1 u.squad.ports[p].lanes[l].bestCp1
      u.ask p l r.1 r.2.1 r.2.2
    | .final =>
      let u := s.modLane p l (fun x => { x with stage := .done, fom := f })
      if f < s.num .NL_FOM_MIN p then u.nlFail p 2 else u.eqEnd p
    | .done => s := by
  subst hx hf
  exact if_neg (not_or.2 ⟨not_not_intro hstate, by rw [happ]; decide⟩)

end

/-- EQUALIZE_EVALUATION ends as its measurement leaves the port, with the news of the ports. -/
theorem equalizeEvaluation_does (hs : s.Settled) {v : State} {h w : BitVec 32} (hv : s.evaluateLane p l h.toNat w.toNat = v) :
    ∃ t, exec (.equalizeEvaluation p l h w) s = .next t ∧ (s.nlSettle v).EndsAs t :=
  wire_as (by simp) hs hv

/-! ### Missing commas (R385) -/

theorem commaMissing_ignored (h : s.squad.ports[p].state ≠ .up ∨ s.squad.ports[p].farRack = true ∨ s.squad.ports[p].easyRx = true) :
    s.commaMissing p l = s := if_pos h

section
variable (hstate : s.squad.ports[p].state = .up) (hrack : s.squad.ports[p].farRack = false) (heasy : s.squad.ports[p].easyRx = false)
include hstate hrack heasy

theorem commaMissing_counted : s.commaMissing p l =
    if 2 ≤ s.squad.ports[p].lanes[l].missed + 1 then s.nlRetrain p else s.modLane p l (fun x => { x with missed := x.missed + 1 }) :=
  if_neg (by rw [hstate, hrack, heasy]; decide)

theorem commaMissing_first (h : s.squad.ports[p].lanes[l].missed = 0) : s.commaMissing p l = s.modLane p l (fun x => { x with missed := 1 }) := by
  rw [commaMissing_counted hstate hrack heasy, if_neg (by omega)]
  exact modLane_congr (by rw [h])

theorem commaMissing_again (h : 1 ≤ s.squad.ports[p].lanes[l].missed) : s.commaMissing p l = s.nlRetrain p := by
  rw [commaMissing_counted hstate hrack heasy, if_pos (by omega)]

end

end

/-- Settles O44: each row is one of the cases above. A comma, a TRAIN block and a measured eye end with the news of the ports, for they can bring
a port up or fail it; a SKIP block and a first missing comma change no port's state. -/
theorem linkTraining : Obligations.LinkTraining := by
  unfold Obligations.LinkTraining
  intro s p l c x a u hs hc hx ha
  subst hc hx
  have hport : a.squad.ports[p] = s.squad.ports[p].modLane l (fun x => { x with blockErrs := 0 }) := by rw [ha]; exact modLane_port ..
  have hlane : a.squad.ports[p].lanes[l] = { s.squad.ports[p].lanes[l] with blockErrs := 0 } := by rw [hport, modLane_lane]
  refine ⟨fun inv gap skew hin hu => ?_, fun inv gap skew hin => ⟨fun hskew => ?_, fun hskew hu => ?_⟩, fun inv gap skew halign hdeskew => ?_,
    fun v => trainBlock_bad hs, fun v r hv hr => ⟨fun halign hdeskew hhand heq => ?_, fun htrain hu => ?_⟩,
    fun h w => ⟨fun hidle => equalizeEvaluation_does hs (evaluateLane_idle hidle), fun f hstate happ hf => ?_⟩,
    quiet_as (by simp) hs rfl (links_goodBlocks s p), fun hidle => quiet_as (by simp) hs (commaMissing_ignored hidle) rfl,
    fun hst hrack heasy hmiss => quiet_as (by simp) hs (commaMissing_first hst hrack heasy hmiss) (links_modPort _ _ _ rfl),
    fun hst hrack heasy hmiss => wire_as (by simp) hs (commaMissing_again hst hrack heasy hmiss)⟩
  · have hup : u.squad.ports[p] = a.squad.ports[p].modLane l (NlLane.aligning l inv gap.toNat) := by rw [hu]; exact modLane_port ..
    rw [hport] at hup
    have hcomma := commaIn_align (skew := skew.toNat) (by rw [hport]; exact hin) hu
    refine ⟨fun hall => ?_, fun hall hst => ?_, fun hall hst hskip => ?_, fun hall hst hskip => ?_⟩
    all_goals refine commaBlock_does hs ha ?_; rw [hcomma, hall]
    · rfl
    · exact alignDone_retrain (by rw [hup]; exact hst)
    · exact alignDone_skipEq (by rw [hup]; exact hst) (by rw [hup]; exact hskip)
    · rfl
  · exact commaBlock_does hs ha (commaIn_skewed (by rw [hport]; exact hin) hskew)
  · have hcomma := commaIn_deskew (gap := gap.toNat) (by rw [hport]; exact hin) hskew hu
    refine ⟨fun hall => ?_, fun hall hmap => ?_, fun rev hall hmap => ?_⟩
    all_goals refine commaBlock_does hs ha ?_; rw [hcomma, hall]
    · rfl
    · exact deskewDone_unmapped hmap
    · exact deskewDone_mapped hmap
  · exact commaBlock_does hs ha (commaIn_running (by rw [hport]; exact halign) (by rw [hport]; exact hdeskew))
  · exact trainBlock_does hs ha hv (trainIn_other (by rw [hport]; exact NlPort.trains_eq_false halign hdeskew hhand heq))
  · obtain rfl : u = a.trained p l r := hu
    have htr : a.squad.ports[p].trains = true := by rw [hport]; exact NlPort.trains_iff.2 htrain
    refine ⟨fun cm1 cp1 hphase htaps => ?_, fun hphase => trainBlock_does hs ha hv (trainIn_reply htr hr hphase), fun w hphase hw => ?_⟩
    · exact trainBlock_does hs ha hv (trainIn_request htr hr hphase (by rw [hlane]; exact NlLane.tapsFor_eq htaps) rfl)
    · have hdone := trainIn_done htr hr hphase hw
      obtain ⟨hemb, hver, hst, hown, hssc⟩ := trained_farDone r hw
      obtain ⟨haown, hassc, hast⟩ : a.nlEmbedded p = s.nlEmbedded p ∧ a.flag .CLK_REFCLK_SSC 0 = s.flag .CLK_REFCLK_SSC 0 ∧
        a.squad.ports[p].state = s.squad.ports[p].state := by rw [hport, ha]; exact ⟨rfl, rfl, rfl⟩
      rw [← haown, ← hown, ← hassc, ← hssc, ← hemb, ← hver, ← hast, ← hst]
      refine ⟨fun hnot => ?_, fun hin hall hclk => ?_, fun hin hall hclk hssc => ⟨fun hv0 => ?_, fun hv0 hst => ?_, fun z hv0 hst hz => ?_⟩⟩
      all_goals refine trainBlock_does hs ha hv (hdone.trans ?_)
      · refine if_neg (not_and.2 fun hin => ?_)
        rw [hnot.resolve_left (by rw [hin]; decide)]
        decide
      all_goals rw [if_pos ⟨hin, hall⟩]
      · exact handshakeDone_clocking hclk
      · exact handshakeDone_version hclk hssc hv0
      all_goals rw [handshakeDone_agreed hclk hssc hv0, hst]
      · rfl
      · rw [hz]; rfl
  · have heval := evaluateLane_applied (w := w.toNat) (h := h.toNat) hstate rfl happ hf
    refine ⟨fun hstage hlow => ?_, fun hstage => ?_, fun k b1 b2 hstage hu hnext => ?_, fun k n y r hstage hy hr => ?_⟩
    all_goals refine equalizeEvaluation_does hs (heval.trans ?_)
    · rw [hstage]; exact if_pos hlow
    · obtain hstage | ⟨hstage, hok⟩ := hstage <;> rw [hstage]
      exact if_neg (Nat.not_lt.2 hok)
    · rw [hstage, hu]; dsimp only; rw [hnext]; rfl
    · subst hy hr
      obtain ⟨hstage, rfl, rfl⟩ | ⟨hstage, hlast, rfl, rfl⟩ := hstage
      · rw [hstage]; rfl
      · rw [hstage]; dsimp only; rw [hlast]; rfl

end Sys2Proof.Machine
end

section
/-! SUPPORT. The cells of a link, their acknowledgements and replays (R373, R376, R385, R394 to R399). -/

namespace Sys2Proof.Machine

open Sys2Proof

section
variable {s : State} {p : Fin 8}

/-! ### A received cell (R373, R376, R394, R395) -/

/-- A port after the blocks of a cell: the lanes' registers and error runs follow, and block errors are counted (R373). -/
def State.blocksIn (s : State) (p : Fin 8) (blocks : List (List RxBlock)) : State :=
  (s.modPort p (fun c => c.afterBlocks (s.squad.ports[p].cellBytes blocks).2)).lintBy .NL_BLOCK p
    (((s.squad.ports[p].cellBytes blocks).2.map (·.2.2)).foldl (· + ·) 0)

theorem cellIn_idle {blocks : List (List RxBlock)} {full : Bool} (hup : s.squad.ports[p].state ≠ .up) (heasy : s.squad.ports[p].state ≠ .easy) :
    s.cellIn p blocks full = s := if_pos ⟨hup, heasy⟩

section
variable {blocks : List (List RxBlock)} {full : Bool} (h : s.squad.ports[p].state = .up ∨ s.squad.ports[p].state = .easy)
include h

theorem cellIn_active : s.cellIn p blocks full =
    if (s.squad.ports[p].cellBytes blocks).2.any (fun x => decide (8 ≤ x.2.1)) then (s.blocksIn p blocks).nlRetrain p
    else (s.blocksIn p blocks).rxCell p (readCell (s.squad.ports[p].cellBytes blocks).1) full :=
  if_neg (fun ⟨hup, heasy⟩ => h.elim hup heasy)

/-- Eight block errors in a row on a lane start RETRAIN (R385). -/
theorem cellIn_misaligned (herr : ∃ x ∈ (s.squad.ports[p].cellBytes blocks).2, 8 ≤ x.2.1) :
    s.cellIn p blocks full = (s.blocksIn p blocks).nlRetrain p := by
  obtain ⟨x, hx, h8⟩ := herr
  rw [cellIn_active h, if_pos (List.any_eq_true.2 ⟨x, hx, decide_eq_true h8⟩)]

theorem cellIn_cell (hok : ∀ x ∈ (s.squad.ports[p].cellBytes blocks).2, x.2.1 < 8) :
    s.cellIn p blocks full = (s.blocksIn p blocks).rxCell p (readCell (s.squad.ports[p].cellBytes blocks).1) full := by
  rw [cellIn_active h, if_neg]
  rw [List.any_eq_true]
  rintro ⟨x, hx, h8⟩
  exact absurd (of_decide_eq_true h8) (Nat.not_le.2 (hok x hx))

end

theorem rxCell_bad {r : RxCell} {full : Bool} (h : r.good = false) : s.rxCell p r full = (s.sendNak p false).lintAt .NL_CRC p :=
  if_pos (by rw [h]; decide)

/-- A port that has taken the acknowledgement of a good cell (R395, R396). -/
def State.acked (s : State) (p : Fin 8) (r : RxCell) : State := if r.ackValid then s.ackTo p r.ack else s

/-- A port that has accepted a sequenced cell, the `n`-th without an acknowledgement, and delivered it (R395, R397). -/
def State.accepted (s : State) (p : Fin 8) (x : NlCell) (e n : Nat) : State :=
  (s.modPort p (fun c => { c with expect := wrapAdd 24 e 1, nak := if c.nak = some e then none else c.nak, unacked := n })).takeCell p x

section
variable {r : RxCell} {full : Bool} {b : State} (hgood : r.good = true) (hb : b = s.acked p r)
include hgood hb

/-- A good cell without a sequence number (R394): a NAK replays. -/
theorem rxCell_plain (h1 : r.cell.ty ≠ 1) (h2 : r.cell.ty ≠ 2) :
    s.rxCell p r full = if r.cell.ty = 4 ∧ r.ackValid then b.replayFrom p r.ack else b := by
  subst hb
  exact (if_neg (by rw [hgood]; decide)).trans (if_pos ⟨h1, h2⟩)

/-- A good sequenced cell (R395, R397), by the number that the port expects. -/
theorem rxCell_sequenced {e n : Nat} (hty : r.cell.ty = 1 ∨ r.cell.ty = 2) (he : e = b.squad.ports[p].expect)
    (hn : n = b.squad.ports[p].unacked + 1) : s.rxCell p r full =
    if r.seq = e then
      if full then (b.sendNak p true).lintAt .NL_RXFULL p
      else if 16 ≤ n then (b.accepted p r.cell e n).sendPlain p 3 [] else b.accepted p r.cell e n
    else if (e + 2 ^ 24 - r.seq) % 2 ^ 24 ≤ 2 ^ 23 then (b.sendPlain p 3 []).lintAt .NL_DUP p
    else b.sendNak p false := by
  subst hb he hn
  exact (if_neg (by rw [hgood]; decide)).trans (if_neg (fun ⟨h1, h2⟩ => hty.elim h1 h2))

end

/-- CELL_RECEIVE ends as the cell leaves the port, with the news of the ports. -/
theorem cellReceive_does {v : State} {blocks : List (List RxBlock)} {full : Bool} (hs : s.Settled) (h : s.cellIn p blocks full = v) :
    ∃ t, exec (.cellReceive p blocks full) s = .next t ∧ (s.nlSettle v).EndsAs t :=
  wire_as (by simp) hs h

/-! ### Replays (R396, R398) -/

/-- A replay from the oldest cell of the buffer sends them all, or at the limit enters RETRAIN. -/
theorem replayFrom_oldest {x : Nat × NlCell} {l : List (Nat × NlCell)} {n : Nat} {u : State} (hl : s.squad.ports[p].replay = x :: l)
    (hn : n = if s.squad.ports[p].replayFrom = some x.1 then s.squad.ports[p].replayCount + 1 else 1)
    (hu : u = (s.modPort p (fun c => { c with replayFrom := some x.1, replayCount := n, disturbed := true })).lintAt .NL_REPLAY p) :
    s.replayFrom p x.1 = if s.num .NL_REPLAY_LIMIT p ≤ n then (u.modPort p (fun c => { c with replayFrom := none, replayCount := 0 })).nlRetrain p
      else u.each (x :: l) (fun s y => s.putCell p y.2 y.1) := by
  subst hu hn
  have hall : s.squad.ports[p].replay.dropWhile (fun y => y.1 != x.1) = x :: l := by
    rw [hl, List.dropWhile_cons_of_neg (by simp)]
  unfold State.replayFrom
  dsimp only
  rw [hall]
  rfl

theorem NlPort.sends_eq_true {c : NlPort} (hstate : c.state = .up) (heasy : c.easyTx = false) : c.sends = true := by
  unfold NlPort.sends; rw [hstate, heasy]; rfl

theorem NlPort.sends_eq_false {c : NlPort} (h : c.state ≠ .up ∨ c.easyTx = true) : c.sends = false := by
  unfold NlPort.sends
  obtain h | h := h
  · rw [decide_eq_false h]; rfl
  · rw [h, Bool.not_true, Bool.and_false]

theorem exec_replayTimeout_sends {x : Nat × NlCell} {l : List (Nat × NlCell)} (hl : s.squad.ports[p].replay = x :: l)
    (h : s.squad.ports[p].sends = true) : exec (.replayTimeout p) s = lateEnd s (s.replayFrom p x.1) := by
  rw [exec_replayTimeout]
  unfold execReplayTimeout
  rw [hl, h]
  rfl

theorem exec_replayTimeout_idle (h : s.squad.ports[p].replay = [] ∨ s.squad.ports[p].sends = false) :
    exec (.replayTimeout p) s = lateEnd s s := by
  rw [exec_replayTimeout]
  unfold execReplayTimeout
  obtain h | h := h
  · rw [h]
  · rw [h]
    split <;> rfl

/-! ### Acknowledgements that are due (R395) -/

theorem exec_ackDue_owed (h : 0 < s.squad.ports[p].unacked) : exec (.ackDue p) s =
    lateEnd s (if s.squad.ports[p].state = .easy then s.easyLeave p else s.sendPlain p 3 []) :=
  congrArg (lateEnd s) (if_pos h)

theorem exec_ackDue_none (h : s.squad.ports[p].unacked = 0) : exec (.ackDue p) s = lateEnd s s :=
  congrArg (lateEnd s) (if_neg (by omega))

end

/-- Settles O45: a received cell is the case of `cellIn`, and then of `rxCell`, that its blocks and its header give. A replay from the oldest cell
sends the whole buffer; it, an acknowledgement and the end of a NAK bring no port up, so that no port has news. -/
theorem linkCells : Obligations.LinkCells := by
  unfold Obligations.LinkCells
  intro s p c hs hc
  subst hc
  refine ⟨fun blocks full hup heasy => ?_, fun blocks full a hactive ha => ?_, fun x l n u hl hup heasy hn hu => ?_, fun hidle => ?_, ?_,
    fun howed hst => ?_, fun howed hst => ?_, fun hnone => ?_⟩
  · exact quiet_as (by simp) hs (cellIn_idle hup heasy) rfl
  · obtain rfl : a = s.blocksIn p blocks := ha
    refine ⟨fun herr => cellReceive_does hs (cellIn_misaligned hactive herr), fun r b hok hr hb => ?_⟩
    subst hr
    have hcell := cellIn_cell (full := full) hactive hok
    refine ⟨fun hbad => ?_, fun hgood h1 h2 => ⟨fun h4 hack => ?_, fun hnot => ?_⟩, fun e n d hgood hty he hn hd => ?_⟩
    · exact cellReceive_does hs (hcell.trans (rxCell_bad hbad))
    · exact cellReceive_does hs (by rw [hcell, rxCell_plain hgood hb h1 h2, if_pos ⟨h4, hack⟩])
    · exact cellReceive_does hs (by rw [hcell, rxCell_plain hgood hb h1 h2, if_neg (fun ⟨h4, hack⟩ => hnot.elim (· h4) (by rw [hack]; decide))])
    · obtain rfl : d = b.accepted p _ e n := hd
      rw [rxCell_sequenced hgood hb hty he hn] at hcell
      refine ⟨fun hseq hfull => ?_, fun hseq hfull hlt => ?_, fun hseq hfull hle => ?_, fun hseq hback => ?_, fun hseq hback => ?_⟩
      all_goals refine cellReceive_does hs (hcell.trans ?_)
      · rw [if_pos hseq, if_pos hfull]
      · rw [if_pos hseq, hfull, if_neg (by decide), if_neg (by omega)]
      · rw [if_pos hseq, hfull, if_neg (by decide), if_pos hle]
      · rw [if_neg hseq, if_pos hback]
      · rw [if_neg hseq, if_neg (by omega)]
  · have hreplay := replayFrom_oldest hl hn hu
    rw [exec_replayTimeout_sends hl (NlPort.sends_eq_true hup heasy)]
    refine ⟨fun hlt => ?_, fun hle => ?_⟩
    · refine quiet_as (by simp) hs (hreplay.trans (if_neg (by omega))) ((links_each _ _ _ fun _ _ => links_putCell ..).trans ?_)
      rw [hu]
      exact links_modPort s p (fun c => { c with replayFrom := some x.1, replayCount := n, disturbed := true }) rfl
    · exact wire_as (by simp) hs (hreplay.trans (if_pos hle))
  · rw [exec_replayTimeout_idle (hidle.imp id NlPort.sends_eq_false)]
    exact quiet_as rfl hs rfl rfl
  · exact quiet_as rfl hs rfl (links_modPort _ _ _ rfl)
  · rw [exec_ackDue_owed howed, if_neg hst]
    exact quiet_as (by simp) hs rfl (links_sendPlain ..)
  · rw [exec_ackDue_owed howed, if_pos hst]
    exact wire_quiet (by simp) hs rfl (quiet_easyLeave s p)
  · rw [exec_ackDue_none hnone]
    exact quiet_as rfl hs rfl rfl

end Sys2Proof.Machine
end

section
/-! SUPPORT. Injection of bit errors and the test checkers of a link (R391 to R393). -/

namespace Sys2Proof.Machine

open Sys2Proof

section
variable {s : State} {p : Fin 8}

/-! ### Injection by command (R393) -/

/-- A port with each of its lanes changed. -/
def NlPort.mapLanes (c : NlPort) (f : Fin 4 → NlLane → NlLane) : NlPort := { c with lanes := Vector.ofFn (fun i => f i c.lanes[i]) }

/-- A port that has counted `n` inverted bits. -/
def NlPort.countInjected (n : Nat) (c : NlPort) : NlPort := { c with injected := (c.injected + n) % 2 ^ 32 }

section
variable {v m : Nat}

theorem actNlInject_stop (h : bits v 7 4 = 0) :
    actNlInject s p v = .ok (s.modPort p (fun c => c.mapLanes (fun _ x => { x with injectPeriodic := false }))) := by
  unfold actNlInject
  rw [h]
  rfl

variable (hsel : ∀ l : Fin 4, v.testBit l = m.testBit l)
include hsel

theorem actNlInject_single_test (h : bits v 7 4 = 1) (hst : s.squad.ports[p].state = .test) : actNlInject s p v =
    .ok (s.modPort p (NlPort.countInjected ((allFin 4).filter (fun l : Fin 4 => m.testBit l)).length)) := by
  unfold actNlInject
  simp only [h, hst, hsel]
  rfl

theorem actNlInject_single_up (h : bits v 7 4 = 1) (hst : s.squad.ports[p].state = .up) : actNlInject s p v =
    .ok (s.modPort p (fun c => c.mapLanes (fun i x => if m.testBit i then { x with injectOne := true } else x))) := by
  unfold actNlInject
  simp only [h, hst, hsel]
  rfl

theorem actNlInject_periodic (h : bits v 7 4 = 2) (hst : s.squad.ports[p].state = .test) : actNlInject s p v =
    .ok (s.modPort p (fun c => c.mapLanes (fun i x => if m.testBit i then { x with injectPeriodic := true } else x))) := by
  unfold actNlInject
  simp only [h, hst, hsel]
  rfl

end

/-- A write to NL_INJECT whose action changes its port, but not the port's state, is answered OK. -/
theorem nlInject_does {x : Session} {e : Envelope} {v : Nat} {f : NlPort → NlPort} (hm : s.MayWrite x (wrNum e .NL_INJECT p v) (.ent .NL_INJECT p 0))
    (hv : v < 256 ^ Ent.NL_INJECT.row.ty.size) (hrsv : Ent.NL_INJECT.rsvOk (.num v) = true) (hf : ∀ c, (f c).state = c.state)
    (hact : ∀ ss, actNlInject (s.withSessions ss) p v = .ok ((s.withSessions ss).modPort p f)) :
    ∃ t, odRow s (wrNum e .NL_INJECT p v) = .next t ∧ (s.modPort p f).RespondsAs t (wrNum e .NL_INJECT p v) .ok :=
  num_does s x e .NL_INJECT p v (s.modPort p f) hm hv (by decide) rfl hrsv (rangeOk_num rfl rfl) (fun ss => (act_NL_INJECT ..).trans (hact ss))
    (quiet_states (states_links (links_modPort s p f (hf _)))) hm.settled.2 id

/-! ### Periodic injection and the checkers (R391 to R393) -/

theorem injectTick_test (h : s.squad.ports[p].state = .test) : s.injectTick p =
    s.modPort p (NlPort.countInjected (s.squad.ports[p].lanes.toList.filter (·.injectPeriodic)).length) := if_pos h

theorem injectTick_other (h : s.squad.ports[p].state ≠ .test) : s.injectTick p = s := if_neg h

theorem checkBits_idle {l : Fin 4} {rx : List Bool} (h : s.squad.ports[p].state ≠ .test ∨ (l = 0 ∧ s.num .NL_TEST_MODE p = 4)) :
    s.checkBits p l rx = s := if_pos h

theorem checkBits_test {l : Fin 4} {rx : List Bool} (hst : s.squad.ports[p].state = .test) (h : l ≠ 0 ∨ s.num .NL_TEST_MODE p ≠ 4) :
    s.checkBits p l rx = s.modLane p l (fun x => rx.foldl (NlLane.checkBit (s.num .NL_PATTERN p) (s.num .NL_USER_PATTERN p)) x) :=
  if_neg (fun hidle => hidle.elim (· hst) (fun ⟨hl, hmode⟩ => h.elim (· hl) (· hmode)))

end

/-- Settles O46: the low bits of a write to NL_INJECT select the lanes and the next ones say what to do. An injection and the checkers change lanes
and counts alone, so that no port has news. -/
theorem linkTests : Obligations.LinkTests := by
  unfold Obligations.LinkTests
  intro s p c hc
  subst hc
  refine ⟨fun x e m => ?_, fun hs => ⟨fun hst => ?_, fun hst => ?_, fun l rx => ⟨fun hidle => ?_, fun hst hmode => ?_⟩⟩⟩
  · obtain ⟨⟨hrsv1, hop1, hsel1⟩, ⟨hrsv2, hop2, hsel2⟩, hrsv0, hop0, -⟩ := inj m
    have hsize : m.toNat + 32 < 256 ^ Ent.NL_INJECT.row.ty.size := Nat.lt_of_lt_of_le (Nat.add_lt_add_right m.isLt 32) (by decide)
    refine ⟨fun hm => ⟨fun hst => ?_, fun hst => ?_⟩, fun hm hst => ?_, fun hm => ?_⟩
    · exact nlInject_does hm (by omega) hrsv1 (fun _ => rfl) (fun ss => actNlInject_single_test (s := s.withSessions ss) hsel1 hop1 hst)
    · exact nlInject_does hm (by omega) hrsv1 (fun _ => rfl) (fun ss => actNlInject_single_up (s := s.withSessions ss) hsel1 hop1 hst)
    · exact nlInject_does hm hsize hrsv2 (fun _ => rfl) (fun ss => actNlInject_periodic (s := s.withSessions ss) hsel2 hop2 hst)
    · exact nlInject_does hm (by omega) hrsv0 (fun _ => rfl) (fun ss => actNlInject_stop (s := s.withSessions ss) hop0)
  · exact quiet_as (by simp) hs (injectTick_test hst) (links_modPort _ _ _ rfl)
  · exact quiet_as (by simp) hs (injectTick_other hst) rfl
  · exact quiet_as (by simp) hs (checkBits_idle hidle) rfl
  · exact quiet_as (by simp) hs (checkBits_test hst hmode) (links_modPort _ _ _ rfl)

end Sys2Proof.Machine
end

section
/-! SUPPORT. The time exchange over a link (R417 to R419). -/

namespace Sys2Proof.Machine

open Sys2Proof

section
variable {s a : State} {p : Fin 8} {f : Fin 8}

theorem netTime_beyond {t : State} (h : t.beyond = s.beyond) : t.netTime = s.netTime := by
  have htu : t.tu = s.tu := (congrArg State.tu h : t.beyond.tu = s.beyond.tu)
  unfold State.netTime
  rw [htu]

/-! ### A request to the parent (R417, R418) -/

theorem exec_timeExchangeStart_none (h : s.timeParent = none) : exec (.timeExchangeStart f) s = lateEnd s s := by
  rw [exec_timeExchangeStart]
  unfold execTimeExchangeStart
  rw [h]

/-- A port whose exchange `id` has left at a time. -/
def NlPort.asking (id : Nat) (t1 : Int) (c : NlPort) : NlPort := { c with exchId := id, exch := some (id, t1), disturbed := false }

theorem exec_timeExchangeStart_some {id : Nat} (h : s.timeParent = some p) (ha : a = (s.dropExch p).easyLeave p)
    (hid : id = wrapAdd 16 a.squad.ports[p].exchId 1) : exec (.timeExchangeStart f) s = lateEnd s
    (if a.squad.ports[p].sends then (a.modPort p (NlPort.asking id (capture s.netTime f))).sendPlain p 5 (timeBody 0 id ⟨0, 0, 0⟩ ⟨0, 0, 0⟩)
    else a.lintAt .NL_TIME_DROP p) := by
  have htime : a.netTime = s.netTime := netTime_beyond (by rw [ha]; simp)
  rw [exec_timeExchangeStart, ← htime]
  unfold execTimeExchangeStart
  rw [h, hid, ha]
  rfl

/-- Neither the end of the exchange before nor leaving EASY is news of the ports. -/
theorem quiet_dropExch_easyLeave (ha : a = (s.dropExch p).easyLeave p) : s.Quiet a := by
  rw [ha]
  exact quiet_start (links_dropExch s p) (quiet_easyLeave ..)

/-! ### The parent's answer (R418) -/

theorem exec_timeRequest_other {b : Bytes} {turn : BitVec 16} (h : fieldAt b 0 1 ≠ 1) : exec (.timeRequest p b f turn) s = lateEnd s s :=
  congrArg (lateEnd s) (if_pos h)

theorem exec_timeRequest_answers {b : Bytes} {turn : BitVec 16} (h : fieldAt b 0 1 = 1) : exec (.timeRequest p b f turn) s = lateEnd s
    ((s.easyLeave p).sendPlain p 5 (timeBody 1 (fieldAt b 2 2) (NetTime.of16 (capture s.netTime f)) (NetTime.of16 (capture s.netTime f + turn.toNat * 20480)))) :=
  congrArg (lateEnd s) (if_neg (not_not_intro h))

/-! ### The response (R418, R419) -/

/-- A port that has measured its link: the delay, and the offset with half the path asymmetry taken off. -/
def NlPort.measured (t1 t2 t3 t4 asym : Int) (c : NlPort) : NlPort :=
  { c with exch := none, delay := ((t2 - t1) + (t4 - t3)) / 2, offset := ((t2 - t1) - (t4 - t3)) / 2 - halfAsym asym }

section
variable {b : Bytes} {good : Bool}

theorem exec_timeResponse_none (h : s.squad.ports[p].exch = none) : exec (.timeResponse p b f good) s = lateEnd s s := by
  rw [exec_timeResponse]
  unfold execTimeResponse
  dsimp only
  rw [h]

variable {id : Nat} {t1 : Int} (h : s.squad.ports[p].exch = some (id, t1))
include h

theorem exec_timeResponse_some : exec (.timeResponse p b f good) s = lateEnd s
    (if good ∧ (fieldAt b 0 1 ≠ 0x11 ∨ fieldAt b 2 2 ≠ id) then s
    else if ¬ good ∨ s.squad.ports[p].disturbed ∨ 10000 * 65536 < capture s.netTime f - t1 then s.dropExch p
    else
      let u := s.modPort p (NlPort.measured t1 (timeAt b 8).to16 (timeAt b 22).to16 (capture s.netTime f) (s.sint .NL_TIME_ASYM p))
      if s.timeParent = some p then u.measure u.squad.ports[p].offset else u) := by
  rw [exec_timeResponse]
  unfold execTimeResponse
  dsimp only
  rw [h]
  rfl

theorem dropExch_some : s.dropExch p = (s.modPort p (fun c => { c with exch := none })).lintAt .NL_TIME_DROP p :=
  if_pos (by rw [h]; rfl)

end

end

/-- Settles O47: a request goes to the parent after the exchange before it has been dropped and EASY has been left, and neither is news of the ports;
a response is another's, dropped, or measured. Network time changes nothing of the squad, so that only the crews of a package could become short. -/
theorem linkTime : Obligations.LinkTime := by
  unfold Obligations.LinkTime
  intro s hs
  have hidle := quiet_as (v := s) rfl hs rfl rfl
  refine ⟨fun f hnone => ?_, fun f p a id hp ha hid => ⟨fun hsends => ?_, fun hsends => ?_⟩, fun p b f turn => ⟨fun hv => ?_, fun hv => ?_⟩,
    fun p b f good => ⟨fun hnone => ?_, fun id t1 hexch => ⟨fun hgood hother => ?_, fun hdrop => ?_,
      fun t2 t3 t4 u hgood hv hid hdist ht4 htime ht2 ht3 hu => ?_⟩⟩⟩
  · rw [exec_timeExchangeStart_none hnone]
    exact hidle
  · rw [exec_timeExchangeStart_some hp ha hid, if_pos hsends]
    exact wire_quiet (by rw [ha]; simp) hs rfl (quiet_links ((links_sendPlain ..).trans (links_modPort _ _ _ rfl)) (quiet_dropExch_easyLeave ha))
  · rw [exec_timeExchangeStart_some hp ha hid, if_neg (by rw [hsends]; decide)]
    exact wire_quiet (by rw [ha]; simp) hs rfl (quiet_links (v := a) rfl (quiet_dropExch_easyLeave ha))
  · rw [exec_timeRequest_other hv]
    exact hidle
  · rw [exec_timeRequest_answers hv]
    exact wire_quiet (by simp) hs rfl (quiet_links (links_sendPlain ..) (quiet_easyLeave s p))
  · rw [exec_timeResponse_none hnone]
    exact hidle
  all_goals rw [exec_timeResponse_some hexch]
  · rw [if_pos ⟨hgood, hother⟩]
    exact hidle
  · have hmine : ¬ (good = true ∧ (fieldAt b 0 1 ≠ 0x11 ∨ fieldAt b 2 2 ≠ id)) := by
      rintro ⟨hgood, hother⟩
      obtain hbad | ⟨hv, hid, -⟩ := hdrop
      · rw [hbad] at hgood; cases hgood
      · exact hother.elim (· hv) (· hid)
    rw [if_neg hmine, if_pos (hdrop.imp (by rintro rfl; decide) (fun h => h.2.2)), dropExch_some hexch]
    exact quiet_as rfl hs rfl (links_modPort s p (fun c => { c with exch := none }) rfl)
  · subst ht2 ht3 ht4
    obtain rfl : u = s.modPort p (NlPort.measured t1 _ _ _ _) := hu
    have hkept : ¬ (¬ good = true ∨ s.squad.ports[p].disturbed = true ∨ 10000 * 65536 < capture s.netTime f - t1) := by
      rw [hgood, hdist]
      exact not_or.2 ⟨not_not_intro rfl, not_or.2 ⟨Bool.false_ne_true, Int.not_lt.2 htime⟩⟩
    rw [if_neg (fun hother => hother.2.elim (· hv) (· hid)), if_neg hkept]
    refine ⟨fun hp => ?_, fun hp hshort => ?_⟩
    · rw [if_neg hp]
      exact quiet_as rfl hs rfl (links_modPort _ _ _ rfl)
    · rw [if_pos hp]
      obtain ⟨hsquad, hses⟩ := measure_desk
        (s.modPort p (NlPort.measured t1 (timeAt b 8).to16 (timeAt b 22).to16 (capture s.netTime f) (s.sint .NL_TIME_ASYM p))) _
      exact late_gen hses (by rw [hsquad]; rfl) ((ports_of hsquad).trans (states_links (links_modPort _ _ _ rfl))) hshort hs

end Sys2Proof.Machine
end

section
/-! SUPPORT. How a squad forms and how it breaks (R404 to R411). -/

namespace Sys2Proof.Machine

open Sys2Proof

section
variable {s u v : State}

/-! ### The end of a row of the squad -/

theorem states_sendTo (s : State) (x : Nat) (m : CtrlMsg) : (s.sendTo x m).portStates = s.portStates := states_links (links_sendTo ..)

theorem states_sendAll (s : State) (m : CtrlMsg) : (s.sendAll m).portStates = s.portStates := states_links (links_sendAll ..)

theorem states_flood (s : State) (n : Nat) (l : List TopoLink) (p : Option (Fin 8)) : (s.flood n l p).portStates = s.portStates :=
  states_links (links_flood ..)

/-- A row of the squad that leaves what lies beyond the squad, and the states of the ports, ends as it left them. -/
theorem squadRow_ends (hs : s.Settled) (h : u = v) (hbeyond : v.beyond = s.beyond) (hstates : v.portStates = s.portStates) :
    ∃ t, lateEnd s u = .next t ∧ v.EndsAs t := by
  subst h
  exact st_as hbeyond hs rfl hstates

/-! ### TOPOLOGY (R405, R407, R411) -/

section
variable {p : Fin 8} {n : Nat} {l : List TopoLink}

theorem onTopology_over (h : s.squad.state = .broken ∨ s.squad.state = .failed) : s.onTopology p n l = s := by
  unfold State.onTopology
  obtain h | h := h <;> rw [h]

/-- In a formed squad only the links that are gone count. -/
theorem onTopology_formed {k : List TopoLink} {old : Option (List TopoLink)} (h : s.squad.state = .formed) (hold : old = amGet? s.squad.topo n)
    (hk : k = (old.getD []).filter l.contains) : s.onTopology p n l =
    if some k = old then s else ((s.modSquad (fun q => { q with topo := amInsert q.topo n k })).flood n l (some p)).reroute := by
  subst hold hk
  unfold State.onTopology
  rw [h]

/-- Does a seat's TOPOLOGY give a port another link than the one kept did? -/
def clashes (old : Option (List TopoLink)) (l : List TopoLink) : Bool :=
  match old with
  | some o => o.any (fun x => l.any (fun y => x.port == y.port && !decide (x = y)))
  | none => false

/-- A TOPOLOGY that is kept (R405): two devices of one seat are remembered. -/
def State.topologyKept (s : State) (n : Nat) (l : List TopoLink) (clash : Bool) : State :=
  s.modSquad (fun q => { q with topo := amInsert q.topo n l, dup := if clash then some n else q.dup })

theorem onTopology_open (h : s.squad.state = .none ∨ s.squad.state = .forming) : s.onTopology p n l =
    if amGet? s.squad.topo n = some l ∨ n = s.seat then s
    else if s.squad.state = .forming then ((s.topologyKept n l (clashes (amGet? s.squad.topo n) l)).flood n l (some p)).tryForm
    else s.topologyKept n l (clashes (amGet? s.squad.topo n) l) := by
  unfold State.onTopology
  obtain h | h := h <;> rw [h] <;> rfl

theorem onTopology_known (h : s.squad.state = .none ∨ s.squad.state = .forming) (hknown : amGet? s.squad.topo n = some l ∨ n = s.seat) :
    s.onTopology p n l = s := (onTopology_open h).trans (if_pos hknown)

section
variable (hnew : amGet? s.squad.topo n ≠ some l) (hother : n ≠ s.seat)
include hnew hother

theorem onTopology_none (h : s.squad.state = .none) : s.onTopology p n l = s.topologyKept n l (clashes (amGet? s.squad.topo n) l) := by
  rw [onTopology_open (.inl h), if_neg (not_or.2 ⟨hnew, hother⟩), if_neg (by rw [h]; decide)]

theorem onTopology_forming (h : s.squad.state = .forming) :
    s.onTopology p n l = ((s.topologyKept n l (clashes (amGet? s.squad.topo n) l)).flood n l (some p)).tryForm := by
  rw [onTopology_open (.inr h), if_neg (not_or.2 ⟨hnew, hother⟩), if_pos h]

end

end

/-! ### FORM (R407, R411) -/

section
variable {m ver ep stroke : Nat} {r : List (Nat × Nat × Nat × Nat)}

theorem onForm_ignored (h : m.testBit s.seat = false ∨ (s.squad.state ≠ .forming ∧ s.squad.state ≠ .formed) ∨
    (s.squad.state = .formed ∧ ep = s.squad.epoch)) : s.onForm m ver ep r = s :=
  if_pos (h.imp (fun h => by rw [h]; decide) id)

/-- A member that has taken the members, the version, the epoch and the routes of a FORM. -/
def State.formTaken (s : State) (m ver ep stroke : Nat) (r : List (Nat × Nat × Nat × Nat)) : State :=
  (s.modSquad (fun q => { q with members := m, version := ver, epoch := ep, stroke := some stroke })).setRoutes r

section
variable (hmember : m.testBit s.seat = true) (hstroke : leastOf (seatsOf m) = some stroke) (hu : u = s.formTaken m ver ep stroke r)
include hmember hstroke hu

theorem onForm_formed (h : s.squad.state = .formed) (hep : ep ≠ s.squad.epoch) : s.onForm m ver ep r = u.sendTo stroke (.formAck ep 0) := by
  subst hu
  unfold State.onForm
  dsimp only
  rw [if_neg (by simp [hmember, h, hep]), hstroke]
  exact if_pos h

variable (h : s.squad.state = .forming)
include h

theorem onForm_forming : s.onForm m ver ep r = match u.formCheck false with
    | some f => (u.sendTo stroke (.formAck ep f.1)).formFail f
    | none => u.formed.sendTo stroke (.formAck ep 0) := by
  subst hu
  unfold State.onForm
  dsimp only
  rw [if_neg (by simp [hmember, h]), hstroke]
  exact if_neg (by rw [h]; decide)

theorem onForm_passes (hcheck : u.formCheck false = none) : s.onForm m ver ep r = u.formed.sendTo stroke (.formAck ep 0) := by
  rw [onForm_forming hmember hstroke hu h, hcheck]

theorem onForm_fails {f : Nat × Nat × Nat} (hcheck : u.formCheck false = some f) :
    s.onForm m ver ep r = (u.sendTo stroke (.formAck ep f.1)).formFail f := by
  rw [onForm_forming hmember hstroke hu h, hcheck]

end

/-- FORM comes from the stroke seat, the lowest of its members (R407). -/
theorem exec_form_from {m ver ep : BitVec 32} (h : leastOf (seatsOf m.toNat) = some stroke) :
    exec (.form m ver ep r) s = lateEnd s ((s.takeCtrl stroke 3).onForm m.toNat ver.toNat ep.toNat r) := by
  rw [exec_form]
  unfold execForm
  rw [h]
  rfl

end

/-! ### FORM_ACK (R407) -/

section
variable {n ep f : Nat}

theorem formFail_seat (u : State) (f n : Nat) :
    u.formFail (f, n, 0) = u.modSquad (fun q => { q with state := .failed, formFault := f + n * 2 ^ 8 }) := by
  unfold State.formFail
  simp only [Nat.zero_mul, Nat.add_zero]

theorem onFormAck_ignored (h : s.isStroke = false ∨ ep ≠ s.squad.epoch ∨ s.squad.acks.testBit n = false) : s.onFormAck n ep f = s :=
  if_pos (h.imp (fun h => by rw [h]; decide) (Or.imp id (fun h => by rw [h]; decide)))

theorem onFormAck_counts (hstroke : s.isStroke = true) (hep : ep = s.squad.epoch) (hack : s.squad.acks.testBit n = true)
    (hu : u = s.modSquad (fun q => { q with acks := clearMask q.acks (2 ^ n) })) : s.onFormAck n ep f =
    if f ≠ 0 then u.formFail (f, n, 0) else if clearMask s.squad.acks (2 ^ n) = 0 ∧ s.squad.state = .forming then u.formed else u := by
  subst hu
  exact if_neg (by simp [hstroke, hep, hack])

end

/-! ### Heartbeats and lost members (R409, R410) -/

/-- A seat that has taken the heartbeat of another. -/
def State.beaten (s : State) (n d q c : Nat) : State := s.modSquad (fun x => { x with beats := amInsert x.beats n ⟨d, q, c, s.now⟩ })

theorem beyond_beaten (s : State) (n d q c : Nat) : (s.beaten n d q c).beyond = s.beyond := beyond_modSquad _ _ rfl rfl

theorem states_beaten (s : State) (n d q c : Nat) : (s.beaten n d q c).portStates = s.portStates := states_modSquad _ _ rfl

section
variable {n d q c : Nat} (hst : s.squad.state = .formed) (hmember : s.squad.members.testBit n = true) (hn : n ≠ s.seat)
include hst hmember hn

theorem onBeat_formed : s.onBeat n d q c =
    if d = 7 then (s.beaten n d q c).memberLost n 1 else if q ≠ 2 then (s.beaten n d q c).memberLost n 2 else s.beaten n d q c :=
  (if_neg (by simp [hst, hmember, hn])).trans (if_neg (by rw [show (s.modSquad _).squad.state = s.squad.state from rfl, hst]; decide))

theorem onBeat_kept (hd : d ≠ 7) (hq : q = 2) : s.onBeat n d q c = s.beaten n d q c := by
  rw [onBeat_formed hst hmember hn, if_neg hd, if_neg (not_not_intro hq)]

/-- A member in SAFE, or one that has left FORMED, is lost. -/
theorem onBeat_lost {cause : Nat} (h : (d = 7 ∧ cause = 1) ∨ (d ≠ 7 ∧ q ≠ 2 ∧ cause = 2)) : s.onBeat n d q c = (s.beaten n d q c).memberLost n cause := by
  rw [onBeat_formed hst hmember hn]
  obtain ⟨hd, rfl⟩ | ⟨hd, hq, rfl⟩ := h
  · rw [if_pos hd]
  · rw [if_neg hd, if_pos hq]

end

/-- A squad that has lost a member: BROKEN, counted, and the other members told (R409, R410). -/
def State.breaks (s : State) (n c : Nat) : State :=
  ((s.modSquad (fun q => { q with lost := q.lost ||| 2 ^ n, state := .broken })).lint .SQD_SEAT_LOST).sendAll (.broken n c)

theorem beyond_breaks (s : State) (n c : Nat) : (s.breaks n c).beyond = s.beyond := (beyond_sendAll ..).trans rfl

theorem states_breaks (s : State) (n c : Nat) : (s.breaks n c).portStates = s.portStates := (states_sendAll ..).trans rfl

theorem breaks_state (s : State) (n c : Nat) : (s.breaks n c).squad.state = .broken := congrArg Prod.snd (links_sendAll ..)

section
variable {n c : Nat} (hcmd : s.squad.cmd = none) (hload : s.squad.load = none) (hst : s.squad.state = .formed ∨ s.squad.state = .broken)
  (hmember : s.squad.members.testBit n = true) (hlost : s.squad.lost.testBit n = false)
include hcmd hload hst hmember hlost

theorem memberLost_breaks (haction : s.squad.state = .formed → s.num .SQD_LOSS_ACTION 0 ≠ 1) : s.memberLost n c = s.breaks n c :=
  lost_form s n c hcmd hload hst hmember hlost (not_and.2 haction)

theorem memberLost_safe (hformed : s.squad.state = .formed) (haction : s.num .SQD_LOSS_ACTION 0 = 1) :
    s.memberLost n c = (s.breaks n c).safeCause 5 :=
  (lost_gen s n c _ rfl hcmd hload hst hmember hlost).trans (if_pos ⟨hformed, haction⟩)

end

theorem exec_memberLost_other {n : Fin 32} (h : n.val ≠ s.seat) : exec (.memberLost n) s = lateEnd s (s.memberLost n 0) :=
  congrArg (lateEnd s) (if_neg h)

/-- What is left of the squad in SAFE, and of the sessions (R26). -/
theorem enterSafe_keeps (b : Nat) (h : s.dev.arming = none) : (s.enterSafe b).od.sessions = s.od.sessions ∧
    (s.enterSafe b).squad = { s.squad with spans := [] } ∧ (s.enterSafe b).crewsShort = s.crewsShort ∧
    (s.enterSafe b).dev = { s.dev with state := .safe, safeCause := setBit s.dev.safeCause b true } := by
  have hk := kernel_enterSafe s b h
  generalize s.enterSafe b = t at hk ⊢
  exact ⟨congrArg Kernel.sessions hk, congrArg Kernel.squad hk, crewsShort_congr _ _ (congrArg Kernel.committed hk) (congrArg Kernel.fuses hk)
    (congrArg Kernel.held hk) (congrArg Kernel.crews hk) (congrArg Kernel.packages hk), congrArg Kernel.dev hk⟩

/-- A squad that breaks with SQD_LOSS_ACTION 1 leads to SAFE. -/
theorem breaks_safe (hg : s.Guarded) (n c : Nat) : ∃ t, lateEnd s ((s.breaks n c).safeCause 5) = .next t ∧ t.SafeFrom s 5 ∧ t.squad.state = .broken := by
  have hb := beyond_breaks s n c
  have hdev : (s.breaks n c).dev = s.dev := (congrArg State.dev hb : (s.breaks n c).beyond.dev = s.beyond.dev)
  have harm : (s.breaks n c).dev.arming = none := by rw [hdev]; exact hg.arming
  rw [safeCause_enters _ _ (by rw [hdev]; exact hg.state)]
  obtain ⟨hses, hsquad, hshort, hsafe⟩ := enterSafe_keeps 5 harm
  have hstates : ((s.breaks n c).enterSafe 5).portStates = (s.breaks n c).portStates := by
    unfold State.portStates State.links; rw [hsquad]
  obtain ⟨t, ht, hends⟩ := late_gen (hses.trans (beyond_sessions hb)) ((congrArg Squad.cmd hsquad).trans (beyond_cmd hb))
    (hstates.trans (states_breaks s n c)) (by rw [hshort, beyond_crews hb]; exact id) hg.settled
  obtain ⟨d, hd⟩ := hends.dev
  refine ⟨t, ht, ⟨?_, ?_, ?_, ?_⟩, ?_⟩
  · rw [hends.state (by rw [hsafe]; rfl), hsafe]
  · rw [hd, hsafe, hdev]
  · rw [hends.field, enterSafe_fire _ _ harm]
  · rw [hends.cox, enterSafe_heats _ _ harm]
  · rw [hends.squad, hsquad]
    exact breaks_state s n c

end

/-- Settles O50: each message, time-out and heartbeat is one of the cases above, after its message has left the inbox. It sends and changes what the
squad knows, but no port's state, so that no port has news; only SQD_LOSS_ACTION 1 leads beyond the squad, to SAFE. -/
theorem squadForms : Obligations.SquadForms := by
  unfold Obligations.SquadForms
  intro s a hs
  have hrow {u v : State} := squadRow_ends (u := u) (v := v) hs
  refine ⟨fun h other ha hother => ?_, fun p n l old ha hold => ⟨fun hst => ?_, fun k hst hk => ⟨fun hsame => ?_, fun hnew => ?_⟩,
      fun hst => ⟨fun hknown => ?_, fun clash u hnew hother hclash hu => ?_⟩⟩,
    fun m ver ep r stroke u hstroke ha hu => ?_, fun n ep f u ha hu => ⟨fun hign => ?_, fun hstroke hep hack => ?_⟩,
    fun hst => hrow (if_pos hst) rfl rfl, fun hst => hrow (if_neg hst) rfl rfl,
    fun hst => hrow (if_pos hst) (beyond_sendAll ..) (states_sendAll ..),
    fun n d q c ha hst hmember hn => ⟨fun hd hq => ?_, fun cause hcause hload hlost haction => ?_⟩,
    fun n m c u hst hload hmember hlost haction => ⟨fun hn => ?_, fun ha => ?_⟩, fun n hg hst hload hmember hlost hn haction => ?_⟩
  · subst ha hother
    exact hrow rfl rfl rfl
  · subst ha
    exact hrow (onTopology_over (s := s.takeCtrl _ 2) hst) rfl rfl
  · subst ha
    exact hrow ((onTopology_formed (s := s.takeCtrl _ 2) hst hold hk).trans (if_pos hsame)) rfl rfl
  · subst ha
    exact hrow ((onTopology_formed (s := s.takeCtrl _ 2) hst hold hk).trans (if_neg hnew)) (by rw [beyond_reroute, beyond_flood]; rfl)
      (by rw [states_reroute, states_flood]; rfl)
  · subst ha hold
    exact hrow (onTopology_known (s := s.takeCtrl _ 2) hst hknown) rfl rfl
  · subst ha hold
    have hc : clash = clashes (amGet? s.squad.topo n) l := hclash.trans (by cases amGet? s.squad.topo n <;> rfl)
    obtain rfl : u = (s.takeCtrl _ 2).topologyKept n l (clashes _ l) := hc ▸ hu
    refine ⟨fun hst => ?_, fun hst => ?_⟩
    · exact hrow (onTopology_none (s := s.takeCtrl _ 2) hnew hother hst) rfl rfl
    · exact hrow (onTopology_forming (s := s.takeCtrl _ 2) hnew hother hst) (by rw [beyond_tryForm, beyond_flood]; rfl)
        (by rw [states_tryForm, states_flood]; rfl)
  · subst ha
    rw [exec_form_from hstroke]
    have hub : u.beyond = s.beyond := by rw [hu, beyond_setRoutes]; rfl
    have hup : u.portStates = s.portStates := by rw [hu, states_setRoutes]; rfl
    refine ⟨fun hign => ?_, fun hmember hst hep => ?_, fun hmember hst => ⟨fun hcheck => ?_, fun f hcheck => ?_⟩⟩
    · exact hrow (onForm_ignored (s := s.takeCtrl _ 3) hign) rfl rfl
    · exact hrow (onForm_formed (s := s.takeCtrl _ 3) hmember hstroke hu hst hep) ((beyond_sendTo ..).trans hub) ((states_sendTo ..).trans hup)
    · exact hrow (onForm_passes (s := s.takeCtrl _ 3) hmember hstroke hu hst hcheck) ((beyond_sendTo ..).trans hub) ((states_sendTo ..).trans hup)
    · exact hrow (onForm_fails (s := s.takeCtrl _ 3) hmember hstroke hu hst hcheck) ((beyond_sendTo ..).trans hub) ((states_sendTo ..).trans hup)
  · subst ha
    exact hrow (onFormAck_ignored (s := s.takeCtrl _ 4) hign) rfl rfl
  · subst ha
    have hcount := onFormAck_counts (s := s.takeCtrl _ 4) (f := f.toNat) hstroke hep hack hu
    have hzero : f = 0 ↔ f.toNat = 0 := by rw [← BitVec.toNat_inj]; rfl
    have hub : u.beyond = s.beyond := by rw [hu]; rfl
    have hup : u.portStates = s.portStates := by rw [hu]; rfl
    refine ⟨fun hf => ?_, fun hf hst hlast => ?_, fun hf hmore => ?_⟩
    · exact hrow (hcount.trans ((if_pos (mt hzero.2 hf)).trans (formFail_seat u f.toNat n))) hub hup
    all_goals rw [if_neg (not_not_intro (hzero.1 hf))] at hcount
    · exact hrow (hcount.trans (if_pos ⟨hlast, hst⟩)) hub hup
    · exact hrow (hcount.trans (if_neg (fun h => hmore.elim (· h.2) (· h.1)))) hub hup
  · subst ha
    exact hrow (onBeat_kept (s := s.takeCtrl _ 5) hst hmember hn hd hq) (beyond_beaten ..) (states_beaten ..)
  · subst ha
    have hbreak := memberLost_breaks (s := (s.takeCtrl n 5).beaten n d.toNat q.toNat c.toNat) (c := cause) hs.2 hload (.inl hst) hmember hlost
      (fun _ => haction)
    exact hrow ((onBeat_lost (s := s.takeCtrl n 5) hst hmember hn hcause).trans hbreak) ((beyond_breaks ..).trans (beyond_beaten ..))
      ((states_breaks ..).trans (states_beaten ..))
  · rw [exec_memberLost_other hn]
    exact hrow (memberLost_breaks hs.2 hload hst hmember hlost haction) (beyond_breaks ..) (states_breaks ..)
  · subst ha
    exact hrow (memberLost_breaks (s := s.takeCtrl _ 0xE) hs.2 hload hst hmember hlost haction) (beyond_breaks ..) (states_breaks ..)
  · rw [exec_memberLost_other hn, memberLost_safe hs.2 hload (.inl hst) hmember hlost hst haction]
    exact breaks_safe hg n 0

end Sys2Proof.Machine
end

section
/-! SUPPORT. The retune service: the reference store, requests to publish and to restart, the heats it asks for, and generations (R424 to R445). -/

namespace Sys2Proof.Machine

open Sys2Proof

section
variable {s : State} {x : Session} {e : Envelope} {q : Fin 8} {slot part : Nat} {p : Package} {r : RtSec}

/-! ### The store (R424, R425, R427) -/

/-- A header `v` and the data after it that `RT_ADD` takes (R424, R425): version 1, a known format, a label, a length and a sum that are those of the
data, and zeros in the reserved bits. -/
structure GoodSample (v : Nat) (data : Bytes) : Prop where
  version : bits v 3 0 = 1
  format : bits v 7 4 ≤ 1
  reserved : bits v 15 8 = 0
  label : bits v 31 16 ≠ 0xFFFF
  nonempty : 1 ≤ bits v 63 32
  bounded : bits v 63 32 ≤ 16777216
  unused : bits v 127 96 = 0
  size : data.length = bits v 63 32
  sum : crc32c data = bits v 95 64

/-- The sample of a header `v` and its data (R424). -/
def sampleOf (v : Nat) (data : Bytes) : Sample := ⟨bits v 7 4 == 0, bits v 31 16, bits v 95 64, data⟩

/-- A store that holds one more sample, whose index is the last one given (R425). -/
def Retune.appended (t : Retune) (y : Sample) : Retune := { t with samples := t.samples ++ [y], last := some t.samples.length }

/-- A store in which the sample `v` is marked as removed (R427). -/
def Retune.marked (t : Retune) (v : Nat) : Retune := { t with removed := if t.removed.contains v then t.removed else insNat v t.removed }

theorem actRtAdd_appends {b : Bytes} (hpkg : s.rtPkg part = some (slot, p, r)) (hlen : 16 ≤ b.length)
    (hgood : GoodSample (fieldAt b 0 16) (b.drop 16)) (hroom : (s.rt part).samples.length < r.store) :
    actRtAdd s part b = .ok (s.modRt part (·.appended (sampleOf (fieldAt b 0 16) (b.drop 16)))) := by
  unfold actRtAdd
  rw [hpkg]
  dsimp only
  rw [if_neg, if_neg (Nat.not_le.2 hroom)]
  · rfl
  · simp only [Bool.not_eq_true', Bool.not_eq_false, Bool.and_eq_true, decide_eq_true_eq]
    exact ⟨⟨⟨⟨⟨⟨⟨⟨⟨hlen, hgood.version⟩, hgood.format⟩, hgood.reserved⟩, hgood.label⟩, hgood.nonempty⟩, hgood.bounded⟩, hgood.unused⟩,
      hgood.size⟩, hgood.sum⟩

theorem actRtRemove_marks {v : Nat} (hpkg : s.rtPkg part = some (slot, p, r)) (hv : v < (s.rt part).samples.length) :
    actRtRemove s part v = .ok (s.modRt part (·.marked v)) := by
  unfold actRtRemove
  rw [hpkg, Option.isNone_some, if_neg Bool.false_ne_true, if_neg (Nat.not_le.2 hv)]
  rfl

/-- `RT_ADD` takes a value up to its largest length (R524). -/
theorem lengthFault_rtAdd {i n : Nat} (h : n ≤ Ent.RT_ADD.row.maxLen) : s.lengthFault (.ent .RT_ADD i 0) n = none := if_pos h

/-- `RT_ADD` is not at the place of `RP_LOAD`. -/
theorem place_rtAdd (q : Fin 8) : (placeKey (BitVec.ofNat 16 (Ent.RT_ADD.row.index + q)).toNat (BitVec.ofNat 8 Ent.RT_ADD.row.sub).toNat ==
    Ent.RP_LOAD.key 0 0) = false := by
  revert q
  decide

/-- RT_ADD of a good sample: the store holds it as its last one, and the write is answered OK. -/
theorem rtAdd_does {ofs : BitVec 64} {b d : Bytes} (hm : s.MayWrite x (wrSeg e .RT_ADD q.val ofs d) (.ent .RT_ADD q.val 0))
    (hb : x.Holds (wrSeg e .RT_ADD q.val ofs d) b) (hlast : e.last = true) (hmax : (b ++ d).length ≤ Ent.RT_ADD.row.maxLen)
    (hpkg : s.rtPkg q.val = some (slot, p, r)) (hlen : 16 ≤ (b ++ d).length) (hgood : GoodSample (fieldAt (b ++ d) 0 16) ((b ++ d).drop 16))
    (hroom : (s.rt q.val).samples.length < r.store) :
    ∃ t, exec (.rtAdd e q ofs d) s = .next t ∧
      (s.modRt q.val (·.appended (sampleOf (fieldAt (b ++ d) 0 16) ((b ++ d).drop 16)))).RespondsAs t (wrSeg e .RT_ADD q.val ofs d) .ok := by
  rw [exec_rtAdd]
  unfold execRtAdd
  refine seg_does s x e .RT_ADD q.val ofs b d _ hm rfl hb hlast (lengthFault_rtAdd hmax) (.inl (place_rtAdd q)) rfl rfl (fun ss => ?_)
    (quiet_same (congrArg Squad.ports (modRt_squad ..))) (by rw [modRt_squad]; exact hm.settled.2) (by rw [modRt_crews]; exact id)
  rw [act_RT_ADD, actRtAdd_appends (s := s.withSessions ss) hpkg hlen hgood hroom, modRt_with]

/-- RT_REMOVE of a sample of the store: it is marked, and the write is answered OK. -/
theorem rtRemove_does {v : BitVec 32} (hm : s.MayWrite x (wrNum e .RT_REMOVE q.val v.toNat) (.ent .RT_REMOVE q.val 0))
    (hpkg : s.rtPkg q.val = some (slot, p, r)) (hv : v.toNat < (s.rt q.val).samples.length) :
    ∃ t, exec (.rtRemove e q v) s = .next t ∧
      (s.modRt q.val (·.marked v.toNat)).RespondsAs t (wrNum e .RT_REMOVE q.val v.toNat) .ok := by
  rw [exec_rtRemove]
  exact num_does_kernel hm v.isLt (by decide) rfl (rsvOk_zero _ rfl) (rangeOk_num rfl rfl)
    (fun ss => by rw [act_RT_REMOVE, actRtRemove_marks (s := s.withSessions ss) hpkg hv, modRt_with]) (kernel_modRt ..)

/-! ### Requests to publish and to restart (R442, R445) -/

theorem actRtPublish_asks (hpkg : s.rtPkg part = some (slot, p, r)) :
    actRtPublish s part 1 = .ok (s.modRt part (fun t => { t with publishReq := true })) := by
  unfold actRtPublish
  rw [hpkg]
  rfl

/-- A restart waits for the retune heat that is admitted. -/
theorem actRtRestart_waits (hpkg : s.rtPkg part = some (slot, p, r)) (hheat : s.rtHeat part = true) :
    actRtRestart s part 1 = .ok (s.modRt part (fun t => { t with restartReq := true })) := by
  unfold actRtRestart
  rw [hpkg, hheat]
  rfl

/-- Without a retune heat a restart is done at once. -/
theorem actRtRestart_now (hpkg : s.rtPkg part = some (slot, p, r)) (hheat : s.rtHeat part = false) :
    actRtRestart s part 1 = .ok (s.rtRestart part slot) := by
  unfold actRtRestart
  rw [hpkg, hheat]
  rfl

/-- RT_PUBLISH of 1: the end of the next step publishes, and the write is answered OK. -/
theorem rtPublish_does (hm : s.MayWrite x (wrNum e .RT_PUBLISH q.val 1) (.ent .RT_PUBLISH q.val 0)) (hpkg : s.rtPkg q.val = some (slot, p, r)) :
    ∃ t, exec (.rtPublish e q 1) s = .next t ∧
      (s.modRt q.val (fun t => { t with publishReq := true })).RespondsAs t (wrNum e .RT_PUBLISH q.val 1) .ok := by
  rw [exec_rtPublish]
  exact num_does_kernel (v := 1) hm (by decide) (by decide) rfl (rsvOk_zero _ rfl) (rangeOk_num rfl rfl)
    (fun ss => by rw [act_RT_PUBLISH, actRtPublish_asks (s := s.withSessions ss) hpkg, modRt_with]) (kernel_modRt ..)

/-- RT_RESTART of 1 while a retune heat is admitted: the restart is asked for, and the write is answered OK. -/
theorem rtRestart_waits (hm : s.MayWrite x (wrNum e .RT_RESTART q.val 1) (.ent .RT_RESTART q.val 0)) (hpkg : s.rtPkg q.val = some (slot, p, r))
    (hheat : s.rtHeat q.val = true) :
    ∃ t, exec (.rtRestart e q 1) s = .next t ∧
      (s.modRt q.val (fun t => { t with restartReq := true })).RespondsAs t (wrNum e .RT_RESTART q.val 1) .ok := by
  rw [exec_rtRestart]
  exact num_does_kernel (v := 1) hm (by decide) (by decide) rfl (rsvOk_zero _ rfl) (rangeOk_num rfl rfl)
    (fun ss => by rw [act_RT_RESTART, actRtRestart_waits (s := s.withSessions ss) hpkg hheat, modRt_with]) (kernel_modRt ..)

/-- RT_RESTART of 1 without a retune heat: the service restarts, and the write is answered OK. -/
theorem rtRestart_now (hm : s.MayWrite x (wrNum e .RT_RESTART q.val 1) (.ent .RT_RESTART q.val 0)) (hpkg : s.rtPkg q.val = some (slot, p, r))
    (hheat : s.rtHeat q.val = false) (hshort : (s.rtRestart q.val slot).crewsShort = true → s.crewsShort = true) :
    ∃ t, exec (.rtRestart e q 1) s = .next t ∧ (s.rtRestart q.val slot).RespondsAs t (wrNum e .RT_RESTART q.val 1) .ok := by
  rw [exec_rtRestart]
  refine num_does s x e .RT_RESTART q.val 1 _ hm (by decide) (by decide) rfl (rsvOk_zero _ rfl) (rangeOk_num rfl rfl) (fun ss => ?_)
    (quiet_same (congrArg Squad.ports (restart_squad ..))) (by rw [restart_squad]; exact hm.settled.2) hshort
  rw [act_RT_RESTART, actRtRestart_now (s := s.withSessions ss) hpkg hheat, restart_with]

/-! ### The heats that the service asks for (R435, R436, R438) -/

/-- A partition that may ask for heats asks for a decode while its ring is short. -/
theorem exec_decodeRequest_asks (hpkg : s.rtPkg q.val = some (slot, p, r)) (hasks : s.rtAsks q.val = true)
    (hopen : s.planOpen q.val r.decodePlan = false) (hring : (s.rt q.val).ring.length < s.num .RT_RUNAHEAD q.val) :
    exec (.decodeRequest q) s = settled (s.rtRequest q.val slot r.decodePlan
      (if (s.rt q.val).filling = [] then (s.rt q.val).nextBatch else (s.rt q.val).nextBatch - 1)) := by
  rw [exec_decodeRequest]
  unfold execDecodeRequest
  rw [hpkg]
  dsimp only
  rw [if_pos (by simp [hasks, hopen, hring])]
  simp only [List.isEmpty_iff]

/-- A partition that may ask for heats asks for step n once batch n is complete. -/
theorem exec_retuneStepRequest_asks (hpkg : s.rtPkg q.val = some (slot, p, r)) (hasks : s.rtAsks q.val = true)
    (hopen : s.planOpen q.val r.stepPlan = false) (hbatch : ∃ b ∈ (s.rt q.val).ring, b.num = (s.rt q.val).steps ∧ b.complete = true) :
    exec (.retuneStepRequest q) s = settled (s.rtRequest q.val slot r.stepPlan (s.rt q.val).steps) := by
  have hready : (s.rt q.val).ring.any (fun b => b.num == (s.rt q.val).steps && b.complete) = true := by simpa using hbatch
  rw [exec_retuneStepRequest]
  unfold execRetuneStepRequest
  rw [hpkg]
  dsimp only
  rw [if_pos (by rw [hasks, hopen, hready]; rfl)]

/-! ### Generations (R441) -/

/-- The package tensors after the master copies have been converted into the working copies of generation `g` (R441). -/
def State.workingCopied (s : State) (slot g : Nat) (p : Package) : State :=
  s.each p.layers (fun s l =>
    match p.td (l.getD (g % 2) 0), p.td (l.getD 2 0) with
    | some t, some m => s.setState slot (l.getD (g % 2) 0) (t.build true (fun c => m.get (fit (p.stateOf (l.getD 2 0)) m.size) c))
    | _, _ => s)

/-- Only tensors change: what no tensor's new content touches is as it was. -/
theorem workingCopied_keeps {β : Type} (f : State → β) (hf : ∀ (u : State) (n : Nat) (b : Bytes), f (u.setState slot n b) = f u) (s : State) (g : Nat)
    (p : Package) : f (s.workingCopied slot g p) = f s := by
  refine each_same f s p.layers _ fun u l => ?_
  split
  · exact hf _ _ _
  · rfl

theorem setState_retune (s : State) (slot n : Nat) (b : Bytes) : (s.setState slot n b).retune = s.retune := by unfold State.setState; split <;> rfl

theorem setState_field (s : State) (slot n : Nat) (b : Bytes) : (s.setState slot n b).field = s.field := by unfold State.setState; split <;> rfl

theorem setState_od (s : State) (slot n : Nat) (b : Bytes) : (s.setState slot n b).od = s.od := by unfold State.setState; split <;> rfl

/-- The generation after the current one. -/
def State.nextGen (s : State) (part : Nat) : Nat := ((s.rt part).generation + 1) % 2 ^ 32

/-- A publication converts the copies, then enters the next generation and is held back no longer. -/
theorem publish_eq (hpkg : s.pkg? slot = some p) :
    s.publish q.val slot = ((s.workingCopied slot (s.nextGen q.val) p).modRt q.val
      (fun t => { t with generation := s.nextGen q.val, holding := false })).modCox
        (fun c => { c with gens := c.gens.set q (s.nextGen q.val) }) := by
  have hq : toFin? 8 q.val = some q := dif_pos q.isLt
  unfold State.publish
  rw [hpkg, hq]
  rfl

/-- What a publication makes and leaves (R441). -/
theorem publish_does (hpkg : s.pkg? slot = some p) :
    ((s.publish q.val slot).rt q.val).generation = s.nextGen q.val ∧ ((s.publish q.val slot).rt q.val).holding = false ∧
      (s.publish q.val slot).cox.gens[q] = s.nextGen q.val ∧ (s.publish q.val slot).field = s.field ∧ (s.publish q.val slot).od = s.od := by
  obtain ⟨u, hu⟩ : ∃ u, s.workingCopied slot (s.nextGen q.val) p = u := ⟨_, rfl⟩
  have hfield : u.field = s.field := hu ▸ workingCopied_keeps State.field (setState_field · slot) s _ p
  have hod : u.od = s.od := hu ▸ workingCopied_keeps State.od (setState_od · slot) s _ p
  obtain ⟨v, hv⟩ : ∃ v, u.modRt q.val (fun t => { t with generation := s.nextGen q.val, holding := false }) = v := ⟨_, rfl⟩
  have hrt : v.rt q.val = { u.rt q.val with generation := s.nextGen q.val, holding := false } := by rw [← hv, modRt_get]
  rw [publish_eq hpkg, hu, hv]
  refine ⟨congrArg Retune.generation hrt, congrArg Retune.holding hrt, Vector.getElem_set_self _, ?_, ?_⟩
  · rw [State.modCox_field, ← hv, State.modRt_field, hfield]
  · rw [State.modCox_od, ← hv, State.modRt_od, hod]

/-- A publication that was held back is made once nothing reads the idle copy. -/
theorem exec_publicationRelease_free (hpkg : s.rtPkg q.val = some (slot, p, r)) (hhold : (s.rt q.val).holding = true)
    (hread : s.copyRead q.val (((s.rt q.val).generation + 1) % 2) = false) :
    exec (.publicationRelease q) s = settled (s.publish q.val slot) := by
  rw [exec_publicationRelease]
  unfold execPublicationRelease
  rw [hpkg]
  dsimp only
  rw [if_pos (by rw [hhold, hread]; rfl)]

theorem exec_publicationRelease_none (hpkg : s.rtPkg q.val = some (slot, p, r)) (hhold : (s.rt q.val).holding = false) :
    exec (.publicationRelease q) s = .next s := by
  rw [exec_publicationRelease]
  unfold execPublicationRelease
  rw [hpkg]
  dsimp only
  rw [hhold]
  rfl

/-- What the release of a publication leaves. -/
theorem publicationRelease_does (hrt : s.rtPkg q.val = some (slot, p, r)) (hhold : (s.rt q.val).holding = true)
    (hread : s.copyRead q.val (((s.rt q.val).generation + 1) % 2) = false) (hpkg : s.pkg? slot = some p) :
    ∃ t, exec (.publicationRelease q) s = .next t ∧ (s.publish q.val slot).EndsAs t ∧ (t.rt q.val).generation = s.nextGen q.val ∧
      (t.rt q.val).holding = false ∧ t.cox.gens[q] = s.nextGen q.val ∧ t.field = s.field ∧ t.od = s.od := by
  rw [exec_publicationRelease_free hrt hhold hread]
  obtain ⟨t, ht, hends⟩ := settled_ends (s.publish q.val slot)
  obtain ⟨hgen, hheld, hgens, hfield, hod⟩ := publish_does (q := q) hpkg
  have hsame : t.rt q.val = (s.publish q.val slot).rt q.val := by unfold State.rt; rw [hends.retune]
  exact ⟨t, ht, hends, by rw [hsame, hgen], by rw [hsame, hheld], by rw [hends.cox, hgens], hends.field.trans hfield, hends.od.trans hod⟩

end

/-- Settles O39: a request changes the partition's store or marks alone, or restarts it; none of them changes the squad, and only a restart
touches the packages, so that nothing follows but the answer. A request for a heat finds room in the queue, and a publication that no heat's copy
holds back any more is made. -/
theorem retuning : Obligations.Retuning := by
  unfold Obligations.Retuning
  intro s x e q slot p r hpkg
  refine ⟨fun ofs b d data v hm hb hlast hmax hv hdata hlen hversion hformat hreserved hlabel hnonempty hbounded hunused hsize hsum hroom => ?_,
    fun v hm hv => rtRemove_does hm hpkg hv, fun hm => rtPublish_does hm hpkg,
    fun hm => ⟨rtRestart_waits hm hpkg, rtRestart_now hm hpkg⟩, fun hasks hopen hring hroom => ?_, fun hasks hopen hbatch hroom => ?_,
    fun hhold hread hslot => publicationRelease_does hpkg hhold hread hslot, exec_publicationRelease_none hpkg⟩
  · subst hv hdata
    exact rtAdd_does hm hb hlast hmax hpkg hlen ⟨hversion, hformat, hreserved, hlabel, hnonempty, hbounded, hunused, hsize, hsum⟩ hroom
  · rw [exec_decodeRequest_asks hpkg hasks hopen hring]
    exact present_does s slot r.decodePlan q.val _ hroom
  · rw [exec_retuneStepRequest_asks hpkg hasks hopen hbatch]
    exact present_does s slot r.stepPlan q.val _ hroom

end Sys2Proof.Machine
end

section
/-! SUPPORT. Watchdog, brown-outs, installs and recovery (R597, R616 to R618, R625). -/

namespace Sys2Proof.Machine

open Sys2Proof

/-! ### Watchdog and brown-outs (R597, R625) -/

theorem brownOut_waits (s : State) (rail : Fin 11) :
    ((s.setSupply rail false).modDev (fun d => { d with brownOut := true })).mayBoot = false := by
  show (!s.dev.porstLow && !true && _) = false
  cases s.dev.porstLow <;> rfl

/-- A brown-out holds the device in RESET until it is released (R625). -/
theorem supplyBrownout_resets {s : State} {io18 : Bool} {uv : BitVec 32} (hpower : s.dev.state ≠ .off)
    (hlevel : brownLevel (if io18 then 5 else 0) uv.toNat = true) :
    ∃ t, exec (.supplyBrownout io18 uv) s = .next t ∧ t.dev.state = .reset ∧ t.dev.brownOut = true ∧ t.boot.record.cause = 7 ∧
      t.KeepsFlash s := by
  obtain ⟨t, ht, hkeeps, hcause, -, hbrown, -, hreset⟩ :=
    toReset_ends s ((s.setSupply (if io18 then 5 else 0) false).modDev (fun d => { d with brownOut := true })) 7
  refine ⟨t, ?_, hreset (brownOut_waits s _), hbrown, hcause, hkeeps⟩
  rw [exec_supplyBrownout, execSupplyBrownout, if_pos ⟨hpower, hlevel⟩]
  exact ht

/-- A device in RESET that nothing holds there any more begins BOOT (R28, R625). -/
theorem internalResetRelease_boots {s : State} (hreset : s.dev.state = .reset) (hbrown : s.dev.brownOut = true)
    (hporst : s.dev.porstLow = false) (hok : ((s.setSupply 0 true).setSupply 5 true).hullOk = true) :
    ∃ t, exec .internalResetRelease s = .next t ∧ t.Fresh ∧ t.dev.brownOut = false ∧ t.KeepsFlash s := by
  obtain ⟨a, ha⟩ : ∃ a, ((s.setSupply 0 true).setSupply 5 true).modDev (fun d => { d with brownOut := false }) = a := ⟨_, rfl⟩
  have hboot : a.mayBoot = true := by
    rw [← ha]
    show (!s.dev.porstLow && !false && ((s.setSupply 0 true).setSupply 5 true).hullOk) = true
    rw [hporst, hok]
    rfl
  have hleave : a.leaveReset = a.enterBoot a.boot.record.cause := if_pos ⟨by rw [← ha]; exact hreset, hboot⟩
  obtain ⟨t, ht, hfresh, hkeeps, -, -, hb⟩ := enterBoot_ends s a a.boot.record.cause
  refine ⟨t, ?_, hfresh, by rw [hb, ← ha]; rfl, by rw [← ha] at hkeeps; exact hkeeps⟩
  rw [exec_internalResetRelease, execInternalResetRelease, if_pos hbrown, ha, hleave]
  exact ht

/-- Settles O11: each row enters RESET as `toReset_ends` says, where a brown-out has set the flag that holds the device there, and its
release clears that flag. -/
theorem watchdogAndBrownout : Obligations.WatchdogAndBrownout := by
  unfold Obligations.WatchdogAndBrownout
  intro s uv
  refine ⟨fun hpower hreset => ?_, fun hpower hlevel => supplyBrownout_resets hpower ?_,
    fun hpower hlevel => supplyBrownout_resets hpower ?_, internalResetRelease_boots⟩
  · obtain ⟨t, ht, hkeeps, hcause, -, -, hfresh, hheld⟩ := toReset_ends s s 3
    refine ⟨t, ?_, hcause, hkeeps, hfresh, hheld⟩
    rw [exec_coachWatchdogExpiry, execCoachWatchdogExpiry, if_pos (by simp [State.awake, hpower, hreset])]
    exact ht
  · simpa [brownLevel] using hlevel
  · exact Bool.or_eq_true_iff.mpr (.inr (Bool.and_eq_true_iff.mpr ⟨rfl, decide_eq_true hlevel⟩))

/-! ### The end of an install (R616) -/

/-- An install that no owner of recovery waits for ends as `installEnd` says. -/
theorem exec_installComplete_eq {s : State} {f : FwImage} (hstaged : s.boot.staged = some f) (hstatus : s.boot.fwStatus = 2)
    (hrecovery : s.boot.recovery.installing = none) (good : Bool) :
    exec (.installComplete good) s = lateEnd s (s.installEnd f good) := by
  have hnone : (s.installEnd f good).boot.recovery.installing = none := by
    unfold State.installEnd
    split
    · exact hrecovery
    · split <;> exact hrecovery
  have hend : (s.installEnd f good).recoveryInstalled = s.installEnd f good := by
    unfold State.recoveryInstalled
    dsimp only
    rw [hnone]
  rw [exec_installComplete, execInstallComplete, hstaged]
  dsimp only
  rw [if_pos (by simp [State.installing, hstatus]), hend]

theorem kernel_installEnd (s : State) (f : FwImage) (good : Bool) : (s.installEnd f good).kernel = s.kernel := by
  unfold State.installEnd
  split
  · rfl
  · split <;> rfl

/-- Settles O18: the readback ends the install as `installEnd` says, in the image area, the ledger or the number of tries, and nothing that
the end of a row looks at has changed. -/
theorem installEnds : Obligations.InstallEnds := by
  unfold Obligations.InstallEnds
  intro s f hsettled hstaged hstatus hrecovery
  have hends : ∀ good, ∃ t, exec (.installComplete good) s = .next t ∧ (s.installEnd f good).EndsAs t := fun good => by
    rw [exec_installComplete_eq hstaged hstatus hrecovery]
    exact lateEnd_kernel (kernel_installEnd s f good) hsettled
  refine ⟨?_, fun hfirst => ?_, fun hsecond => ?_⟩
  · obtain ⟨t, ht, he⟩ := hends true
    refine ⟨t, ht, ?_⟩
    rw [he.boot]
    exact ⟨rfl, rfl, rfl, rfl, rfl⟩
  · obtain ⟨t, ht, he⟩ := hends false
    have hagain : s.installEnd f false = s.modBoot (fun b => { b with installTries := 1 }) := if_pos hfirst
    refine ⟨t, ht, ?_⟩
    rw [he.boot, hagain]
    exact ⟨hstatus, rfl, rfl⟩
  · obtain ⟨t, ht, he⟩ := hends false
    have hfails : s.installEnd f false = (s.modBoot (fun b => { b with fwStatus := 4 })).lint .BOOT_FLASH_ERR := if_neg hsecond
    rw [hfails] at he
    refine ⟨t, ht, by rw [he.boot]; rfl, ?_, by rw [he.boot]; rfl⟩
    rw [lintVal_congr (congrArg OdStore.lints he.od)]
    exact lintVal_lint ..

/-! ### Recovery (R617, R618) -/

/-- The first HELLO makes its sender the owner, and is answered with the newest ledger record and the identity of the part. -/
theorem recoveryMsg_hello {s : State} {r : Request} (hstate : s.dev.state = .recovery) (hitf : s.recoveryItf r.env = true)
    (hgood : Request.recoveryGood r = true) (howner : s.boot.recovery.owner = none) (hidle : s.boot.recovery.installing = none)
    (hop : r.op = 1) : ∃ data, s.recoveryMsg r = ((s.modRecovery (fun x =>
      { x with owner := some (r.env.peer.toNat, r.env.itf.val), high := r.env.reqId.toNat, stored := [] })).recoveryAnswer r .ok data) := by
  unfold State.recoveryMsg
  rw [if_neg (by simp [hstate, hitf, hgood])]
  dsimp only
  rw [howner]
  dsimp only
  rw [if_pos hop]
  unfold State.recoveryOwn
  dsimp only
  rw [show (s.modRecovery (fun x => { x with owner := some (r.env.peer.toNat, r.env.itf.val), high := r.env.reqId.toNat, stored := [] })).boot.recovery.installing
    = none from hidle]
  exact ⟨_, (if_neg (by simp)).trans (if_pos hop)⟩

theorem recoveryHello_does {s : State} {e : Envelope} (hstate : s.dev.state = .recovery) (hsettled : s.Settled)
    (hitf : s.recoveryItf e = true) (hgood : Request.recoveryGood (recReq e 1 0 []) = true) (howner : s.boot.recovery.owner = none)
    (hidle : s.boot.recovery.installing = none) :
    ∃ t, exec (.recoveryHello e 1) s = .next t ∧ t.Answered (recReq e 1 0 []) .ok ∧ t.dev.state = .recovery ∧
      t.boot.recovery.owner = some (e.peer.toNat, e.itf.val) ∧ t.boot.recovery.high = e.reqId.toNat ∧ t.boot.flash = s.boot.flash := by
  obtain ⟨data, hmsg⟩ := recoveryMsg_hello hstate hitf hgood howner hidle rfl
  rw [exec_recoveryHello, execRecoveryHello, hmsg]
  obtain ⟨t, ht, hanswer, hrecovery, -, hflash, hrec⟩ := owned_ends (s := s) (recReq e 1 0 []) .ok data hsettled
    (a := s.modRecovery (fun x => { x with owner := some (e.peer.toNat, e.itf.val), high := e.reqId.toNat, stored := [] })) rfl rfl hstate
  exact ⟨t, ht, hanswer, hrecovery, by rw [hrec]; rfl, by rw [hrec]; rfl, hflash⟩

theorem recoveryGood_short {r : Request} (h : Request.recoveryGood r = true) : r.data.length ≤ 1424 := by
  simp only [Request.recoveryGood, Bool.and_eq_true, decide_eq_true_eq] at h
  exact h.1.2

theorem recoveryData_does {s : State} {e : Envelope} {o : BitVec 64} {d : Bytes} (hr : s.Owned (recReq e 2 o d))
    (hjoins : o = 0 ∨ (o.toNat = s.boot.recovery.assembly.length ∧ s.boot.recovery.complete = false ∧ o.toNat + d.length ≤ 25165824)) :
    ∃ t, exec (.recoveryData e o d) s = .next t ∧ t.Answered (recReq e 2 o d) .ok ∧ t.dev.state = .recovery ∧
      t.boot.recovery.assembly = (if o = 0 then [] else s.boot.recovery.assembly) ++ d ∧ t.boot.recovery.complete = e.last ∧
      t.boot.flash = s.boot.flash := by
  obtain ⟨n, hmsg⟩ := recoveryOwn_new s _ hr (show ¬ (2 : BitVec 8) = 1 by decide)
  rw [if_pos (show (recReq e 2 o d).op = 2 from rfl)] at hmsg
  have hshort : d.length ≤ 1424 := recoveryGood_short hr.good
  obtain ⟨b, hb⟩ : ∃ b, (if o = 0 then ([] : Bytes) else s.boot.recovery.assembly) = b := ⟨_, rfl⟩
  have hheld : (if o.toNat = 0 then ([] : Bytes) else s.boot.recovery.assembly) = b := by
    by_cases h : o = 0
    · subst h
      exact hb
    · rw [← hb, if_neg h]
      exact if_neg (fun c => h (BitVec.eq_of_toNat_eq c))
  have hdata : (s.atHigh n).recoveryData (recReq e 2 o d) =
      ((s.atHigh n).modRecovery (fun x => { x with assembly := b ++ d, complete := e.last })).recoveryAnswer (recReq e 2 o d) .ok [] := by
    rcases hjoins with rfl | ⟨hofs, hopen, hroom⟩
    · obtain rfl : [] = b := hheld
      exact recoveryData_ok _ _ [] rfl hr.idle rfl (by show 0 + d.length ≤ 25165824; omega) (fun h => absurd rfl h)
    · refine recoveryData_ok _ _ b hheld hr.idle ?_ hroom (fun _ => hopen)
      show o.toNat = b.length
      rw [← hheld]
      split
      · assumption
      · exact hofs
  rw [exec_recoveryData, execRecoveryData, hmsg, hdata, hb]
  obtain ⟨t, ht, hanswer, hrecovery, -, hflash, hrec⟩ := owned_ends (s := s) (recReq e 2 o d) .ok [] hr.settled
    (a := (s.atHigh n).modRecovery (fun x => { x with assembly := b ++ d, complete := e.last })) rfl rfl hr.state
  exact ⟨t, ht, hanswer, hrecovery, by rw [hrec]; rfl, by rw [hrec]; rfl, hflash⟩

/-- INSTALL of an image that passes its check begins the install that its answer waits for. -/
theorem recoveryInstall_begins {s : State} {r : Request} {f : FwImage} (hidle : s.boot.recovery.installing = none)
    (hcomplete : s.boot.recovery.complete = true) (hcode : s.boot.record.failCode ≠ 3) (hcheck : s.fwCheck s.boot.recovery.assembly = .good f) :
    s.recoveryInstall r = ((s.modBoot (fun b => { b with staged := some f, fwStatus := 1 })).installBegin f).modRecovery (fun x =>
      { x with installing := some r.env.reqId.toNat }) := by
  have hgood : s.recoveryCheck s.boot.recovery.assembly = .good f := by
    unfold State.recoveryCheck
    rw [hcheck]
    exact if_neg hcode
  unfold State.recoveryInstall
  dsimp only
  rw [hidle, hcomplete, if_pos rfl, hgood]
  rfl

theorem recoveryInstall_does {s : State} {e : Envelope} {f : FwImage} (hr : s.Owned (recReq e 3 0 []))
    (hcomplete : s.boot.recovery.complete = true) (hcode : s.boot.record.failCode ≠ 3) (hcheck : s.fwCheck s.boot.recovery.assembly = .good f) :
    ∃ t, exec (.recoveryInstall e) s = .next t ∧ t.dev.state = .recovery ∧ t.boot.staged = some f ∧ t.boot.fwStatus = 2 ∧
      t.boot.recovery.installing = some e.reqId.toNat ∧ t.boot.record.update = 1 ∧ t.boot.record.updVersion = f.version := by
  obtain ⟨n, hmsg⟩ := recoveryOwn_new s _ hr (show ¬ (3 : BitVec 8) = 1 by decide)
  rw [show (recReq e 3 0 []).op = 3 from rfl, if_neg (by decide), if_pos rfl,
    recoveryInstall_begins (s := s.atHigh n) hr.idle hcomplete hcode hcheck] at hmsg
  obtain ⟨t, ht, hends⟩ := lateEnd_asleep (s := s) (t := s.recoveryMsg (recReq e 3 0 [])) (by rw [hmsg]; rfl) (by rw [hmsg]; rfl) hr.settled
    (.inr (.inl (by rw [hmsg]; exact hr.state)))
  refine ⟨t, ht, ?_, ?_⟩
  · rw [hends.state (by rw [hmsg]; show s.dev.state.runs = false; rw [hr.state]; rfl), hmsg]
    exact hr.state
  · rw [hends.boot, hmsg]
    exact ⟨rfl, rfl, rfl, rfl, rfl⟩

/-- BOOT is answered before the device leaves RECOVERY: the log survives the start of BOOT. -/
theorem recoveryBoot_does {s : State} {e : Envelope} (hr : s.Owned (recReq e 4 0 [])) (hinstalled : s.boot.recovery.installed = true) :
    ∃ t, exec (.recoveryBoot e) s = .next t ∧ t.Answered (recReq e 4 0 []) .ok ∧ t.Fresh ∧ t.boot.record.cause = 6 ∧ t.KeepsFlash s := by
  obtain ⟨n, hmsg⟩ := recoveryOwn_new s _ hr (show ¬ (4 : BitVec 8) = 1 by decide)
  rw [show (recReq e 4 0 []).op = 4 from rfl, if_neg (by decide), if_neg (by decide), if_pos rfl, if_pos hinstalled] at hmsg
  rw [exec_recoveryBoot, execRecoveryBoot, hmsg]
  obtain ⟨l, c, z, f, hanswer, -, hsent, -⟩ := recoveryAnswer_eq (s.atHigh n) (recReq e 4 0 []) .ok []
  generalize (s.atHigh n).recoveryAnswer (recReq e 4 0 []) .ok [] = a at hanswer
  obtain ⟨t, ht, hfresh, hkeeps, hcause, -, -⟩ := enterBoot_ends s a 6
  obtain ⟨u, hu, hends⟩ := lateEnd_wiped s (a.enterBoot 6) rfl rfl rfl
  obtain rfl : u = t := Host.Outcome.next.inj (hu.symm.trans ht)
  rw [hanswer] at hkeeps
  exact ⟨u, ht, ⟨_, hends.sent _ (by rw [hanswer]; exact hsent), recoveryBytes_fields ..⟩, hfresh, hcause, hkeeps⟩

theorem recoveryOwnerTimeout_does {s : State} (hstate : s.dev.state = .recovery) (hsettled : s.Settled) :
    ∃ t, exec .recoveryOwnerTimeout s = .next t ∧ t.boot.recovery.owner = none ∧ t.dev.state = .recovery ∧ t.boot.flash = s.boot.flash := by
  obtain ⟨t, ht, hends⟩ := lateEnd_asleep (s := s) (t := s.modRecovery (fun x => { x with owner := none, stored := [] })) rfl rfl hsettled
    (.inr (.inl hstate))
  rw [exec_recoveryOwnerTimeout, execRecoveryOwnerTimeout, if_pos hstate]
  exact ⟨t, ht, by rw [hends.boot]; rfl, (hends.state (by show s.dev.state.runs = false; rw [hstate]; rfl)).trans hstate, by rw [hends.boot]; rfl⟩

/-- Settles O17: each message of the owner is answered as its operation says, and only BOOT ends RECOVERY. -/
theorem recovery : Obligations.Recovery := by
  unfold Obligations.Recovery
  exact ⟨fun s e hstate hsettled hitf hgood howner hidle => recoveryHello_does hstate hsettled hitf hgood howner hidle,
    fun s e o d hr hjoins => recoveryData_does hr hjoins,
    fun s e f hr hcomplete hcode hcheck => recoveryInstall_does hr hcomplete hcode hcheck,
    fun s e hr hinstalled => recoveryBoot_does hr hinstalled,
    fun s hstate hsettled => recoveryOwnerTimeout_does hstate hsettled⟩

end Sys2Proof.Machine
end

section
/-! SUPPORT. Requests for transfer lists (R547, R552), and the requests of the field side (R449, R452, R459, R469, R589). -/

namespace Sys2Proof.Machine

open Sys2Proof

section
variable {s : State} {x : Session} {e : Envelope}

/-! ### Transfer lists (R547, R552) -/

/-- `PCI_XL_SUBMIT` is not at the place of `RP_LOAD`. -/
theorem place_xlSubmit : (placeKey (BitVec.ofNat 16 (Ent.PCI_XL_SUBMIT.row.index + 0)).toNat (BitVec.ofNat 8 Ent.PCI_XL_SUBMIT.row.sub).toNat ==
    Ent.RP_LOAD.key 0 0) = false := by decide

theorem actSubmit_joins {h id compl : Nat} {v : Bytes} {irq : Bool} {es : List XlEntry} (hread : readXl v id = some (compl, irq, es))
    (hroom : s.pci.lists.length < 4) : actSubmit s h id v = .ok { s with pci := { s.pci with lists := s.pci.lists ++
      [⟨id, h, compl, irq, es, 0, [], 0, false, false, none, false⟩] } } := by
  unfold actSubmit
  rw [hread]
  exact if_neg (Nat.not_le.2 hroom)

theorem pciXlSubmit_does {ofs : BitVec 64} {b d : Bytes} {compl : Nat} {irq : Bool} {es : List XlEntry}
    (hm : s.MayWrite x (wrSeg e .PCI_XL_SUBMIT 0 ofs d) (.ent .PCI_XL_SUBMIT 0 0)) (hb : x.Holds (wrSeg e .PCI_XL_SUBMIT 0 ofs d) b)
    (hlast : e.last = true) (hlen : (b ++ d).length ≤ Ent.PCI_XL_SUBMIT.row.maxLen) (hread : readXl (b ++ d) e.reqId.toNat = some (compl, irq, es))
    (hroom : s.pci.lists.length < 4) :
    ∃ t, exec (.pciXlSubmit e ofs d) s = .next t ∧ ({ s with pci := { s.pci with lists := s.pci.lists ++
      [⟨e.reqId.toNat, e.session.toNat, compl, irq, es, 0, [], 0, false, false, none, false⟩] } } : State).RespondsAs t
        (wrSeg e .PCI_XL_SUBMIT 0 ofs d) .ok := by
  rw [exec_pciXlSubmit]
  exact seg_does s x e .PCI_XL_SUBMIT 0 ofs b d _ hm rfl hb hlast (if_pos hlen) (.inl place_xlSubmit) rfl rfl
    (fun ss => by rw [act_PCI_XL_SUBMIT]; exact actSubmit_joins (s := s.withSessions ss) hread hroom) (quiet_same rfl) hm.settled.2
    (by rw [crewsShort_kernel (kernel_pci s _)]; exact id)

theorem actAbort_marks {v : Nat} {l : XList} (h : s.xlist? v = some l) : actAbort s v = .ok (s.modList v (fun l => { l with abort := true })) := by
  unfold actAbort
  rw [h]

theorem pciXlAbort_does {v : BitVec 32} {l : XList} (hm : s.MayWrite x (wrNum e .PCI_XL_ABORT 0 v.toNat) (.ent .PCI_XL_ABORT 0 0))
    (hl : s.xlist? v.toNat = some l) : ∃ t, exec (.pciXlAbort e v) s = .next t ∧
      (s.modList v.toNat (fun l => { l with abort := true })).RespondsAs t (wrNum e .PCI_XL_ABORT 0 v.toNat) .ok := by
  rw [exec_pciXlAbort]
  exact num_does_kernel hm v.isLt (by decide) rfl (rsvOk_zero _ rfl) (rangeOk_num rfl rfl)
    (fun ss => (act_PCI_XL_ABORT ..).trans (actAbort_marks (s := s.withSessions ss) hl)) (kernel_modList ..)

/-! ### Acknowledgements of channels, the fire list and events (R452, R469, R589) -/

theorem actFioAck_clears (n : Fin 48) : actFioAck s n 1 = .ok (s.modChan n (fun c => { c with
    overload := c.overload && decide (s.num .FIO_RETRY 0 ≠ 0), group := c.group && decide (s.num .FIO_RETRY 0 ≠ 0)
    overtemp := c.overtemp && c.hot })) := by
  unfold actFioAck
  rw [if_neg (by decide), show toFin? 48 n.val = some n from dif_pos n.isLt]
  simp only [ne_eq, decide_not]

theorem fioAck_does (n : Fin 48) (hm : s.MayWrite x (wrNum e .FIO_ACK n 1) (.ent .FIO_ACK n 0)) :
    ∃ t, exec (.fioAck e n 1) s = .next t ∧ (s.modChan n (fun c => { c with
      overload := c.overload && decide (s.num .FIO_RETRY 0 ≠ 0), group := c.group && decide (s.num .FIO_RETRY 0 ≠ 0)
      overtemp := c.overtemp && c.hot })).RespondsAs t (wrNum e .FIO_ACK n 1) .ok := by
  rw [exec_fioAck]
  exact num_does_kernel (v := 1) hm (by decide) (by decide) rfl (rsvOk_zero _ rfl) (rangeOk_num rfl rfl)
    (fun ss => (act_FIO_ACK ..).trans (actFioAck_clears (s := s.withSessions ss) n)) (kernel_modChan ..)

theorem actFireStopAck_one (s : State) : actFireStopAck s 1 =
    if s.dev.state.active then .ok (s.modFire (fun f => { f with stopLatched := false })) else .err s .state := if_neg (by decide)

theorem fireStopAck_releases (hm : s.MayWrite x (wrNum e .FIRE_STOP_ACK 0 1) (.ent .FIRE_STOP_ACK 0 0)) (hactive : s.dev.state.active = true) :
    ∃ t, exec (.fireStopAck e 1) s = .next t ∧
      (s.modFire (fun f => { f with stopLatched := false })).RespondsAs t (wrNum e .FIRE_STOP_ACK 0 1) .ok := by
  rw [exec_fireStopAck]
  exact num_does_kernel (v := 1) hm (by decide) (by decide) rfl (rsvOk_zero _ rfl) (rangeOk_num rfl rfl)
    (fun ss => ((act_FIRE_STOP_ACK ..).trans (actFireStopAck_one _)).trans (if_pos hactive)) (kernel_modFire ..)

theorem fireStopAck_refused (hm : s.MayWrite x (wrNum e .FIRE_STOP_ACK 0 1) (.ent .FIRE_STOP_ACK 0 0)) (hactive : s.dev.state.active = false) :
    ∃ t, exec (.fireStopAck e 1) s = .next t ∧ s.RespondsAs t (wrNum e .FIRE_STOP_ACK 0 1) .state := by
  rw [exec_fireStopAck]
  exact num_errs s x e .FIRE_STOP_ACK 0 1 .state hm (by decide) (by decide) rfl (rsvOk_zero _ rfl) (rangeOk_num rfl rfl)
    (fun ss => ((act_FIRE_STOP_ACK ..).trans (actFireStopAck_one _)).trans (if_neg (ne_true_of_eq_false hactive)))

theorem safEventAck_does (v : BitVec 32) (hm : s.MayWrite x (wrNum e .SAF_EVENT_ACK 0 v.toNat) (.ent .SAF_EVENT_ACK 0 0)) :
    ∃ t, exec (.safEventAck e v) s = .next t ∧ (s.modSaf (fun f =>
      { f with latched := clearMask f.latched (clearMask v.toNat s.present_) })).RespondsAs t (wrNum e .SAF_EVENT_ACK 0 v.toNat) .ok := by
  rw [exec_safEventAck]
  exact num_does_kernel hm v.isLt (by decide) rfl (rsvOk_zero _ rfl) (rangeOk_num rfl rfl)
    (fun ss => act_SAF_EVENT_ACK ..) (kernel_modSaf _ _ rfl)

/-! ### The force of channels off (R449) -/

theorem num_setVal (s : State) (E : Ent) (i v : Nat) : (s.setVal E i 0 (.num v)).num E i = v := by
  unfold State.num
  rw [val_setVal]
  rfl

theorem num_bare {s t : State} (h : t.bare = s.bare) (E : Ent) (i : Nat) : t.num E i = s.num E i := by
  unfold State.num
  rw [val_congr (s := s) (t := t) (congrArg (fun u => u.od.committed) h) (congrArg (fun u => u.boot.fuses) h)]

/-- A channel whose bit of `FIO_FORCE_OFF` is set is off, whatever its mode. -/
theorem driveOn_forced {n : Nat} (h : (s.num .FIO_FORCE_OFF 0).testBit n = true) : s.driveOn n = false := by
  simp [State.driveOn, h]

theorem fioForceOff_does (v : BitVec 64) (hm : s.MayWrite x (wrNum e .FIO_FORCE_OFF 0 v.toNat) (.ent .FIO_FORCE_OFF 0 0))
    (hshort : (s.setVal .FIO_FORCE_OFF 0 0 (.num v.toNat)).crewsShort = true → s.crewsShort = true) :
    ∃ t, exec (.fioForceOff e v) s = .next t ∧ (s.setVal .FIO_FORCE_OFF 0 0 (.num v.toNat)).RespondsAs t (wrNum e .FIO_FORCE_OFF 0 v.toNat) .ok ∧
      t.num .FIO_FORCE_OFF 0 = v.toNat ∧ ∀ n : Fin 48, v.toNat.testBit n = true → t.driveOn n = false := by
  have hdata : leNat (wrNum e .FIO_FORCE_OFF 0 v.toNat).data = v.toNat := wrNum_data e .FIO_FORCE_OFF 0 v.toNat v.isLt
  obtain ⟨t, ht, hresp⟩ := live_row s x (wrNum e .FIO_FORCE_OFF 0 v.toNat) .FIO_FORCE_OFF 0 0 hm rfl (by decide) (leBytes_length ..) rfl (by decide)
    (rsvOk_zero _ rfl) (rangeOk_num rfl rfl) rfl rfl (by rw [hdata]; exact hshort)
  rw [hdata] at hresp
  have hnum : t.num .FIO_FORCE_OFF 0 = v.toNat := (num_bare hresp.rest ..).trans (num_setVal ..)
  exact ⟨t, by rw [exec_fioForceOff, execFioForceOff, ht], hresp, hnum, fun n hn => driveOn_forced (by rw [hnum]; exact hn)⟩

/-! ### Encoders (R459) -/

/-- An encoder channel without its fault flags. -/
def Encoder.cleared (y : Encoder) : Encoder := { y with fault := false, wire := false, quad := false, overspeed := false, ref := false }

/-- What ENC_ACK makes of a channel in FAULT whose condition is gone: its dividers and slots resume from where it stands. -/
def State.encResumed (s : State) (n : Fin 8) : State :=
  (s.modEnc n Encoder.cleared).each (s.divsOf n) (fun w d => w.modDiv d (fun y => { y with p0 := s.field.encs[n].pos, next := 1 }))

theorem actEncAck_one (s : State) (n : Fin 8) : actEncAck s n 1 =
    if s.field.encs[n].fault = false then .ok s
    else if s.field.encs[n].wireNow = true then .err s .state
    else .ok ((s.encResumed n).each (s.slotsOf n) (fun u k => u.slotSkip k)) := by
  have hslots : (s.encResumed n).slotsOf n = s.slotsOf n := by
    obtain ⟨D, hD⟩ := divs_rest s.field.encs[n].pos (s.divsOf n) (s.modEnc n Encoder.cleared)
    unfold State.encResumed
    rw [hD]
    rfl
  unfold actEncAck
  rw [if_neg (by decide), show toFin? 8 n.val = some n from dif_pos n.isLt]
  simp only [Bool.not_eq_true']
  rw [← hslots]
  rfl

theorem encResumed_with (n : Fin 8) (ss) : (s.withSessions ss).encResumed n = (s.encResumed n).withSessions ss :=
  divs_with s.field.encs[n].pos ss (s.divsOf n) (s.modEnc n Encoder.cleared)

theorem kernel_encResumed (n : Fin 8) : (s.encResumed n).kernel = s.kernel := kernel_each _ _ _ (fun _ _ => rfl)

theorem kernel_slotSkips (u : State) (l : List (Fin 32)) : (u.each l (fun u k => u.slotSkip k)).kernel = u.kernel :=
  kernel_each _ _ _ (fun u k => kernel_slotSkip u k)

theorem encResumed_field (n : Fin 8) : (s.encResumed n).field.encs[n] = s.field.encs[n].cleared ∧
    ∀ d : Fin 16, ((s.encResumed n).field.divs[d]).p0 = if d ∈ s.divsOf n then s.field.encs[n].pos else (s.field.divs[d]).p0 := by
  unfold State.encResumed
  refine ⟨?_, fun d => ?_⟩
  · rw [divs_encs, enc_get]
  · rw [divs_each]
    split <;> rfl

theorem encAck_idle (n : Fin 8) (hm : s.MayWrite x (wrNum e .ENC_ACK n 1) (.ent .ENC_ACK n 0)) (hfault : s.field.encs[n].fault = false) :
    ∃ t, exec (.encAck e n 1) s = .next t ∧ s.RespondsAs t (wrNum e .ENC_ACK n 1) .ok := by
  rw [exec_encAck]
  exact num_does_kernel (v := 1) hm (by decide) (by decide) rfl (rsvOk_zero _ rfl) (rangeOk_num rfl rfl)
    (fun ss => ((act_ENC_ACK ..).trans (actEncAck_one (s.withSessions ss) n)).trans (if_pos hfault)) rfl

theorem encAck_refused (n : Fin 8) (hm : s.MayWrite x (wrNum e .ENC_ACK n 1) (.ent .ENC_ACK n 0)) (hfault : s.field.encs[n].fault = true)
    (hwire : s.field.encs[n].wireNow = true) :
    ∃ t, exec (.encAck e n 1) s = .next t ∧ s.RespondsAs t (wrNum e .ENC_ACK n 1) .state := by
  rw [exec_encAck]
  exact num_errs s x e .ENC_ACK n 1 .state hm (by decide) (by decide) rfl (rsvOk_zero _ rfl) (rangeOk_num rfl rfl)
    (fun ss => ((act_ENC_ACK ..).trans (actEncAck_one (s.withSessions ss) n)).trans
      ((if_neg (ne_false_of_eq_true hfault)).trans (if_pos hwire)))

theorem encAck_resumes (n : Fin 8) (hm : s.MayWrite x (wrNum e .ENC_ACK n 1) (.ent .ENC_ACK n 0)) (hfault : s.field.encs[n].fault = true)
    (hwire : s.field.encs[n].wireNow = false) :
    ∃ t, exec (.encAck e n 1) s = .next t ∧
      ((s.encResumed n).each (s.slotsOf n) (fun u k => u.slotSkip k)).RespondsAs t (wrNum e .ENC_ACK n 1) .ok ∧
      t.field.encs[n].fault = false ∧
      ∀ d : Fin 16, (t.field.divs[d]).p0 = if d ∈ s.divsOf n then s.field.encs[n].pos else (s.field.divs[d]).p0 := by
  obtain ⟨t, ht, hresp⟩ := num_does_kernel (v := 1) (z := (s.encResumed n).each (s.slotsOf n) (fun u k => u.slotSkip k)) hm (by decide) (by decide)
    rfl (rsvOk_zero _ rfl) (rangeOk_num rfl rfl)
    (fun ss => by
      rw [act_ENC_ACK, actEncAck_one, encResumed_with, skips_with]
      exact (if_neg (ne_false_of_eq_true hfault)).trans (if_neg (ne_true_of_eq_false hwire)))
    ((kernel_slotSkips ..).trans (kernel_encResumed n))
  obtain ⟨S, L, hskips⟩ := skips_rest (s.slotsOf n) (s.encResumed n)
  obtain ⟨henc, hdivs⟩ := encResumed_field (s := s) n
  have hfield : t.field = { (s.encResumed n).field with slots := S } := by
    rw [show t.field = _ from congrArg (fun u => u.field) hresp.rest, hskips]
    rfl
  rw [exec_encAck]
  refine ⟨t, ht, hresp, ?_, ?_⟩
  · rw [hfield]
    exact congrArg Encoder.fault henc
  · rw [hfield]
    exact hdivs

end

/-- Settles O28: a submission joins the lists and an abort marks one of them; both change the PCIe block alone. -/
theorem listRequests : Obligations.ListRequests := by
  unfold Obligations.ListRequests
  exact fun s x e => ⟨fun ofs b d compl irq es hm hb hlast hlen hread hroom => pciXlSubmit_does hm hb hlast hlen hread hroom,
    fun v l hm hl => pciXlAbort_does hm hl⟩

/-- Settles O59: each acknowledgement changes its own unit alone, and is refused as its action says; the force of channels off is a LIVE entry,
on which every output depends. -/
theorem fieldRequests : Obligations.FieldRequests := by
  unfold Obligations.FieldRequests
  refine fun s x e => ⟨fun n hm => fioAck_does n hm, fun v hm hshort => fioForceOff_does v hm hshort,
    fun n hm => ⟨fun hfault => encAck_idle n hm hfault, fun hfault hwire => encAck_refused n hm hfault hwire, fun hfault hwire u hu => ?_⟩,
    fun hm => ⟨fun hactive => fireStopAck_releases hm hactive, fun hactive => fireStopAck_refused hm hactive⟩,
    fun v hm => safEventAck_does v hm⟩
  obtain rfl : u = s.encResumed n := hu
  exact encAck_resumes n hm hfault hwire

end Sys2Proof.Machine
end

section
/-! SUPPORT. Writes of entries (R522 to R526), and the answer of a COMMIT that comes on the field network. -/

namespace Sys2Proof.Machine

open Sys2Proof

section
variable {s : State} {x : Session} {r : Request} {E : Ent} {i k : Nat} {b : Bytes}

/-- A state with one more shadow. -/
def State.shadowed (s : State) (key : Nat) (v : OdVal) : State := { s with od := { s.od with shadows := amInsert s.od.shadows key v } }

/-- A committed value is no bookkeeping of a session. -/
theorem val_bare {s t : State} (h : t.bare = s.bare) (E : Ent) (i k : Nat) : t.val E i k = s.val E i k :=
  val_congr (s := s) (t := t) (congrArg (fun u => u.od.committed) h) (congrArg (fun u => u.boot.fuses) h) E i k

/-- The last segment of the value of a writable DOMAIN entry that is not LIVE goes to its group's shadows (R524, R525). -/
theorem seg_shadowed (hm : s.MayWrite x r (.ent E i k)) (hop : r.op = 5) (hty : E.row.ty = .domain) (hb : x.Holds r b)
    (hlast : r.env.last = true) (hlen : s.lengthFault (.ent E i k) (b ++ r.data).length = none)
    (hload : (placeKey r.index.toNat r.sub.toNat == Ent.RP_LOAD.key 0 0) = false) (hrw : E.row.acc = .rw) (hlive : E.row.live = false)
    (hrange : E.rangeOk i k (.bytes (b ++ r.data)) = true) (hallowed : s.writeAllowed E i = true) :
    ∃ t, odRow s r = .next t ∧ (s.shadowed (E.key i k) (.bytes (b ++ r.data))).RespondsAs t r .ok := by
  have hx := hm.takes.session
  have h48 := session?_lt hx
  obtain ⟨u, hu⟩ : ∃ u, s.began { x with assembly := none } r = u := ⟨_, rfl⟩
  have hmay : u.writeAllowed E i = true := by
    rw [← hallowed, ← hu]
    simp [State.writeAllowed]
  have hwrite : (s.began x r).perform r.env.session.toNat (x.took s r) r = (.ok (u.shadowed (E.key i k) (.bytes (b ++ r.data))), false) := by
    rw [perform_last s x r E i k b hm hop hty hb hlast hlen (.inl hload), hu]
    unfold State.writeObj
    have hwo : E.row.acc ≠ .wo := by rw [hrw]; decide
    simp only [hty, if_true, Ent.rsvOk, hrange, Bool.not_true, Bool.false_eq_true, if_false, hwo, hmay, hlive]
    rfl
  have hses : ∀ j, (u.shadowed (E.key i k) (.bytes (b ++ r.data))).session? j = _ := fun j => by
    rw [show (u.shadowed (E.key i k) (.bytes (b ++ r.data))).session? j = u.session? j from rfl, ← hu, State.began, session?_setSession _ _ _ _ h48]
  have hsquad : u.squad = s.squad := by rw [← hu, began_squad]
  have hshort : (u.shadowed (E.key i k) (.bytes (b ++ r.data))).crewsShort = s.crewsShort := by
    rw [← began_crewsShort s { x with assembly := none } r, hu]
    exact crewsShort_congr _ _ rfl rfl rfl rfl rfl
  obtain ⟨t, ht, hresp⟩ := odRow_responds s x r _ false _ hm.takes hm.settled hwrite rfl (by rw [hop]; decide)
    ((hses _).trans (if_pos rfl)) rfl (fun j hj => (hses j).trans (if_neg hj)) (quiet_same (congrArg Squad.ports hsquad))
    ((congrArg Squad.cmd hsquad).trans hm.settled.2) (fun h => hshort.symm.trans h)
  refine ⟨t, ht, responds_base hresp ?_ ?_⟩
  · show (u.shadowed _ _).bare = _
    rw [← hu]
    simp [State.shadowed, State.bare]
  · show u.dev.state = _
    rw [← hu, began_dev]
    rfl

end

/-- Settles O24: a LIVE entry takes its value at once and any other one a shadow, as the request is carried out; a segment before the last stays
with its session. -/
theorem writes : Obligations.Writes := by
  unfold Obligations.Writes
  refine fun s x e index sub E i k => ⟨fun d hd hm hty hsize hrw hrsv hrange hallowed => ⟨fun hlive hshort => ?_, fun hlive => ?_⟩,
    fun ofs b d hm hty hb hload => ⟨fun hlast hlen hfirst => ?_, fun hlast hrw hlive hlen hrange hallowed => ?_⟩⟩
  · obtain ⟨t, ht, hresp⟩ := live_row s x _ E i k hm rfl hty hsize rfl (by rw [hrw]; decide) hrsv hrange hallowed hlive hshort
    exact ⟨t, ht, (val_bare hresp.rest ..).trans (val_setVal ..), hresp⟩
  · exact shadow_row s x _ E i k hm rfl hty hsize rfl (by rw [hrw]; decide) hrsv hrange hallowed hlive
  · exact segment_kept s x _ E i k b hm rfl hty hb hlast hlen hfirst (.inl hload)
  · exact seg_shadowed hm rfl hty hb hlast hlen hload hrw hlive hrange hallowed

/-! ### The answer of a COMMIT (R513, R526) -/

/-- The CONTROL session that sends the COMMIT: its peer is 5, its TAG 7, and its last REQ_ID 10. -/
def commitSession : Session := ⟨1, 1, 5, 7, 1000, 0, 10, 9, [], [], none, [], none, none⟩

/-- The header of request 11 of that session, which comes on FNET0, with the CHECK of the COMMIT of group 0x24. -/
def commitHeader : Envelope := ⟨0, 5, 1, 0, false, true, false, 0, 0, 0, 0, 11, 0, 0, 7, 1883492332, 0⟩

/-- The server of the object dictionary is up, FNET0 is on, and session 0 is open; no shadow is held. -/
def commitState : State :=
  { State.reset with
    boot := { State.reset.boot with serverUp := true }
    fnet := { State.reset.fnet with ports := State.reset.fnet.ports.set 0 { State.reset.fnet.ports[0] with on := true } }
    od := { State.reset.od with sessions := State.reset.od.sessions.set 0 (some commitSession) } }

/-- The frames that wait in queue Q1 of FNET0 after a row. -/
def framesAfter : Host.Outcome State Fault Refusal → Nat
  | .next t => t.fnet.ports[0].queues[1].length
  | _ => 0

theorem commitState_takes : commitState.Takes commitSession (mkReq commitHeader 5 ((0x24#8).toNat * 256 + 0xFF) 1 0 1 [1#8]) where
  up := rfl
  itf := by decide +kernel
  good := by decide +kernel
  op := by decide
  session := by decide +kernel
  bound := by decide +kernel
  tag := rfl
  new := by decide +kernel
  free := rfl
  first := rfl
  fields := by decide +kernel

theorem commitState_mayWrite :
    commitState.MayWrite commitSession (mkReq commitHeader 5 ((0x24#8).toNat * 256 + 0xFF) 1 0 1 [1#8]) (.commit (0x24#8).toNat) where
  takes := commitState_takes
  settled := ⟨by decide +kernel, rfl⟩
  object := by decide +kernel
  access := by decide +kernel

/-- The response waits in the transmit queue of the port on which the request came (R487, R513). -/
theorem commit_frames : framesAfter (exec (.commit commitHeader 0x24) commitState) = 1 := by decide +kernel

/-- Refutes O25: a COMMIT that comes on the field network leaves its response in queue Q1 of its port, so that the block of the field network is
not what it was before. -/
theorem not_commits : ¬ Obligations.Commits := by
  unfold Obligations.Commits
  intro h
  obtain ⟨t, ht, -, -, -, -, -, -, -, hfnet, -⟩ := (h commitState commitSession commitHeader 0x24).1 commitState_mayWrite (by decide +kernel)
    (by decide) [] rfl (fun a ha => absurd ha List.not_mem_nil)
  have hframes := commit_frames
  rw [ht] at hframes
  have hnone : framesAfter (.next t) = 0 := congrArg (fun f : FieldNet => f.ports[0].queues[1].length) hfnet
  rw [hnone] at hframes
  exact absurd hframes (by decide)

end Sys2Proof.Machine
end

section
/-! SUPPORT. Sessions that open, live on, close and time out (R514, R517, R518). -/

namespace Sys2Proof.Machine

open Sys2Proof

section
variable {s u a : State} {x : Session} {e : Envelope} {r : Request} {o : Out} {h : Nat}

/-! ### Messages that leave -/

/-- The state `a` is `u` after a message has left it: the message stands in the log, and a mailbox or a transmit queue may have been filled. -/
def State.Delivers (u a : State) (o : Out) : Prop :=
  ∃ l b c f, a = { u with sent := l ++ u.sent, pci := { u.pci with busy := b, cells := c }, fnet := f } ∧ o ∈ l ∧ f.unqueued = u.fnet.unqueued

theorem deliver_delivers (s : State) (e : Envelope) (msg : Bytes) : s.Delivers (s.deliver e msg) (.response e.itf.val e.peer.toNat msg) :=
  deliver_adds s e msg

theorem State.Delivers.closeSession (hd : u.Delivers a o) (h : Nat) (h48 : h < 48) : (u.closeSession h).Delivers (a.closeSession h) o := by
  obtain ⟨l, b, c, f, rfl, hmem, hf⟩ := hd
  unfold State.closeSession
  rw [setSession_eq _ h48, setSession_eq _ h48]
  exact ⟨l, b, c, f, rfl, hmem, hf⟩

/-- A row that ends with a message: what it made beside the message, it leaves. -/
theorem State.Delivers.ends (hd : u.Delivers a o) (hidle : u.idleWork = none) (hsquad : u.squad = s.squad) (hcmd : s.squad.cmd = none)
    (hshort : u.crewsShort = s.crewsShort) : ∃ t, lateEnd s a = .next t ∧ o ∈ t.sent ∧ t.od = u.od ∧ t.bare = u.bare := by
  obtain ⟨l, b, c, f, rfl, hmem, hf⟩ := hd
  obtain ⟨t, ht, hends⟩ := lateEnd_ends s { u with sent := l ++ u.sent, pci := { u.pci with busy := b, cells := c }, fnet := f }
    (nlSettle_same _ _ (congrArg Squad.ports hsquad)) ⟨(idleWork_sessions rfl).trans hidle, (congrArg Squad.cmd hsquad).trans hcmd⟩
    (fun hc => hshort.symm.trans ((crewsShort_congr _ _ rfl rfl rfl rfl rfl).symm.trans hc))
  refine ⟨t, ht, hends.sent _ (List.mem_append_left _ hmem), hends.od, ?_⟩
  obtain ⟨d, k, rfl, -⟩ := hends
  unfold State.bare
  dsimp only
  rw [hf]

theorem answered_of_sent {v n tag : Nat} {dup last : Bool} {st : Status} {data : Bytes} {t : State}
    (hsent : Out.response r.env.itf.val r.env.peer.toNat (responseBytes r v n tag dup last st data) ∈ t.sent) : t.Answered r st :=
  ⟨_, hsent, responseBytes_fields ..⟩

theorem setSession_squad (s : State) (h : Nat) (v : Option Session) : (s.setSession h v).squad = s.squad := by
  unfold State.setSession
  split <;> rfl

theorem crewsShort_setSession (s : State) (v : Option Session) (h48 : h < 48) : (s.setSession h v).crewsShort = s.crewsShort := by
  rw [setSession_eq _ h48]
  exact crewsShort_congr _ _ rfl rfl rfl rfl rfl

/-! ### OPEN (R517, R518) -/

/-- The session that OPEN makes of its data. -/
def openedSession (s : State) (h : Nat) (r : Request) : Session :=
  let tag := (Config.tagSeed s.fresh).val + 1
  let ms := if fieldAt r.data 2 2 = 0 then s.num .OD_SESSION_TIMEOUT 0 else fieldAt r.data 2 2
  let data := packBytes 16 [(16, h), (8, min (fieldAt r.data 1 1) 1), (8, fieldAt r.data 0 1), (32, tag), (8, 64), (8, 8), (16, 1424), (16, ms), (16, 0)]
  ⟨fieldAt r.data 0 1, min (fieldAt r.data 1 1) 1, r.env.peer.toNat, tag, ms, s.now, r.env.reqId.toNat, r.env.reqId.toNat, data, [], none, [], none, none⟩

/-- What an OPEN that is granted must satisfy (R517, R518, R520). -/
structure State.Opens (s : State) (r : Request) (h : Nat) : Prop where
  session : r.env.session = 0xFFFF
  tag : r.env.tag = 0
  reserved : reservedZero r.env = true
  place : r.index = 0 ∧ r.sub = 0 ∧ r.offset = 0
  length : r.data.length = 8
  role : fieldAt r.data 0 1 ≤ 1
  control : fieldAt r.data 0 1 = 1 → s.control = 0xFFFF
  version : 1 ≤ fieldAt r.data 1 1 ∧ fieldAt r.data 1 1 < 16
  zeros : fieldAt r.data 4 4 = 0
  new : ∀ k x, s.session? k = some x → boundTo k x r.env = true → x.openReq ≠ r.env.reqId.toNat
  slot : s.openSlot r.env = some h

/-- A slot that OPEN takes is one of the 48. -/
theorem openSlot_lt (hslot : s.openSlot e = some h) : h < 48 := by
  unfold State.openSlot at hslot
  split at hslot
  · split at hslot
    · obtain rfl : 32 + mailboxOf e = h := Option.some.inj hslot
      have : mailboxOf e < 16 := Nat.mod_lt _ (by decide)
      omega
    · cases hslot
  · rename_i hitf
    obtain ⟨k, hk, rfl⟩ := List.mem_map.mp (List.mem_of_find?_eq_some hslot)
    have hk' := List.mem_range.mp hk
    have hlt := e.itf.isLt
    have hne : e.itf.val ≠ 2 := fun hc => hitf (Fin.ext hc)
    omega

/-- An OPEN that is granted sets its session and answers OK. -/
theorem onOpen_grants (ho : s.Opens r h) : s.onOpen r = (s.draw.setSession h (some (openedSession s h r))).deliver r.env
    (responseBytes r (openedSession s h r).version h (openedSession s h r).tag false false .ok (openedSession s h r).openData) := by
  obtain ⟨hsession, htag, hreserved, ⟨hindex, hsub, hofs⟩, hlen, hrole, hcontrol, ⟨hlow, hhigh⟩, hzeros, hnew, hslot⟩ := ho
  have hnone : ∀ p : Nat → Bool, (∀ k, p k = false) → (List.range 48).find? p = none :=
    fun p hp => List.find?_eq_none.mpr (fun k _ => ne_true_of_eq_false (hp k))
  unfold State.onOpen
  dsimp only
  rw [if_neg (by simp [hsession, htag]), hslot, hnone _ (fun k => by
    split
    · rename_i y hy
      exact Bool.and_eq_false_imp.mpr (fun hbound => beq_eq_false_iff_ne.mpr (hnew k y hy hbound))
    · rfl)]
  dsimp only [Option.bind_none]
  rw [hreserved, if_neg (by decide), if_neg (by simp [hindex, hsub, hofs]), if_neg (not_not_intro hlen), if_neg (by omega), if_neg (by omega),
    if_neg (fun hc => hc.2 (hcontrol hc.1))]
  rfl

theorem receive_open (hup : s.boot.serverUp = true) (hitf : s.itfUp r.env.itf = true) (hgood : Request.good r = true) (hop : r.op = 1) :
    s.receive r = s.onOpen r := by
  unfold State.receive
  simp only [hup, hitf, hgood, hop, Bool.not_true, Bool.or_self, Bool.false_eq_true, if_false, if_true]

/-- A state whose sessions but one without a queue are those of before has nothing more to run. -/
theorem idleWork_setSession (hidle : s.idleWork = none) (h48 : h < 48) (v : Option Session) (hv : ∀ y, v = some y → y.queue = []) :
    (s.setSession h v).idleWork = none := by
  refine idleWork_sub (fun k y hk => ?_) hidle
  rw [session?_setSession _ _ _ _ h48] at hk
  split at hk
  · exact .inr (hv y hk)
  · exact .inl hk

theorem openSession_does (hs : s.Settled) (hup : s.boot.serverUp = true) (hitf : s.itfUp r.env.itf = true) (hgood : Request.good r = true)
    (hop : r.op = 1) (ho : s.Opens r h) :
    ∃ t, odRow s r = .next t ∧ t.Answered r .ok ∧ t.session? h = some (openedSession s h r) ∧ (∀ k, k ≠ h → t.session? k = s.session? k) ∧
      t.bare = s.draw.bare := by
  have h48 := openSlot_lt ho.slot
  obtain ⟨t, ht, hsent, hod, hbare⟩ := (deliver_delivers (s.draw.setSession h (some (openedSession s h r))) r.env
    (responseBytes r (openedSession s h r).version h (openedSession s h r).tag false false .ok (openedSession s h r).openData)).ends (s := s)
    (idleWork_setSession (s := s.draw) hs.1 h48 _ (fun y hy => by cases hy; rfl)) (setSession_squad ..) hs.2 (crewsShort_setSession s.draw _ h48)
  have hses : ∀ k, t.session? k = if k = h then some (openedSession s h r) else s.session? k := fun k => by
    rw [session?_congr (congrArg OdStore.sessions hod), session?_setSession _ _ _ _ h48]
    rfl
  refine ⟨t, ?_, answered_of_sent hsent, (hses h).trans (if_pos rfl), fun k hk => (hses k).trans (if_neg hk), ?_⟩
  · unfold odRow
    rw [receive_open hup hitf hgood hop, onOpen_grants ho]
    exact ht
  · rw [hbare, setSession_eq _ h48]
    rfl

/-! ### KEEPALIVE and CLOSE (R514, R518) -/

/-- A request without data that asks for nothing: OK. -/
theorem perform_plain (s : State) (h : Nat) (x : Session) (hop : r.op = 2 ∨ r.op = 3) (hdata : r.data = []) : s.perform h x r = (.ok s, false) := by
  unfold State.perform
  rcases hop with hop | hop <;> rw [hop, hdata] <;> rfl

theorem keepalive_does (hs : s.Settled) (ht : s.Takes x r) (hop : r.op = 3) (hdata : r.data = []) :
    ∃ t, odRow s r = .next t ∧ s.RespondsAs t r .ok := by
  obtain ⟨t, ht, hresp⟩ := odRow_plain s x r _ false ht hs (perform_plain _ _ _ (.inr hop) hdata) rfl (by rw [hop]; decide) rfl
    (quiet_same (congrArg Squad.ports (began_squad s x r))) ((congrArg Squad.cmd (began_squad s x r)).trans hs.2)
    (fun hc => (began_crewsShort s x r).symm.trans hc)
  exact ⟨t, ht, responds_base hresp (bare_began ..) (congrArg Device.state (began_dev s x r))⟩

/-- A CLOSE that is carried out is answered, and its session is closed. -/
theorem answered_close (hx : s.session? r.env.session.toNat = some x) (hop : r.op = 2) : ∃ msg,
    (s.closeSession r.env.session.toNat).Delivers ((Reply.ok (s.began x r)).answered r false) (.response r.env.itf.val r.env.peer.toNat msg) ∧
      fieldAt msg 3 1 = Status.ok.code ∧ fieldAt msg 8 4 = r.env.reqId.toNat := by
  have h48 := session?_lt hx
  obtain ⟨y, hy, -⟩ := began_session s x r hx
  have hrespond : ∃ z v tag, ((s.began x r).modSession r.env.session.toNat (fun x => { x with executing := none })).respond r.env.session.toNat r .ok [] false =
      (s.setSession r.env.session.toNat (some z)).deliver r.env (responseBytes r v r.env.session.toNat tag false false .ok []) := by
    have hdone : ((s.began x r).setSession r.env.session.toNat (some { y with executing := none })).session? r.env.session.toNat =
        some { y with executing := none } := by rw [session?_setSession _ _ _ _ h48, if_pos rfl]
    rw [modSession_eq _ hy]
    unfold State.respond
    rw [hdone]
    dsimp only
    rw [modSession_eq _ hdone, setSession_setSession, State.began, setSession_setSession]
    exact ⟨_, _, _, rfl⟩
  obtain ⟨z, v, tag, hz⟩ := hrespond
  refine ⟨responseBytes r v r.env.session.toNat tag false false .ok [], ?_, responseBytes_fields ..⟩
  have hanswered : (Reply.ok (s.began x r)).answered r false =
      ((s.setSession r.env.session.toNat (some z)).deliver r.env (responseBytes r v r.env.session.toNat tag false false .ok [])).closeSession
        r.env.session.toNat := by
    rw [← hz]
    unfold Reply.answered
    rw [if_neg (show ¬ (Reply.ok (s.began x r)).later = true from Bool.false_ne_true)]
    exact if_pos ⟨hop, rfl⟩
  have hclose : (s.setSession r.env.session.toNat (some z)).closeSession r.env.session.toNat = s.closeSession r.env.session.toNat := by
    unfold State.closeSession
    rw [setSession_setSession]
  rw [hanswered, ← hclose]
  exact (deliver_delivers ..).closeSession _ h48

theorem idleWork_closeSession (hidle : s.idleWork = none) (h48 : h < 48) : (s.closeSession h).idleWork = none :=
  (idleWork_sessions rfl).trans (idleWork_setSession hidle h48 none (fun _ hy => nomatch hy))

theorem crewsShort_closeSession (s : State) (h48 : h < 48) : (s.closeSession h).crewsShort = s.crewsShort :=
  (crewsShort_congr _ _ rfl rfl rfl rfl rfl).trans (crewsShort_setSession s none h48)

theorem closeSession_does (hs : s.Settled) (ht : s.Takes x r) (hop : r.op = 2) (hdata : r.data = []) :
    ∃ t, odRow s r = .next t ∧ t.Answered r .ok ∧ t.session? r.env.session.toNat = none ∧
      (∀ k, k ≠ r.env.session.toNat → t.session? k = s.session? k) ∧ t.bare = (s.closeSession r.env.session.toNat).bare := by
  have h48 := session?_lt ht.session
  obtain ⟨msg, hdelivers, hfields⟩ := answered_close ht.session hop
  have hidle := idleWork_closeSession hs.1 h48
  obtain ⟨n, hreceive⟩ := receive_takes s x r ht hs.1
  rw [perform_plain _ _ _ (.inl hop) hdata, drainN_idle _ _ (by
    obtain ⟨l, b, c, f, he, -⟩ := hdelivers
    dsimp only
    rw [he]
    exact (idleWork_sessions rfl).trans hidle)] at hreceive
  obtain ⟨t, ht, hsent, hod, hbare⟩ := hdelivers.ends (s := s) hidle (setSession_squad ..) hs.2 (crewsShort_closeSession s h48)
  have hses : ∀ k, t.session? k = if k = r.env.session.toNat then none else s.session? k := fun k => by
    rw [session?_congr (congrArg OdStore.sessions hod), closeSession_session _ _ _ h48]
  refine ⟨t, ?_, ⟨msg, hsent, hfields⟩, (hses _).trans (if_pos rfl), fun k hk => (hses k).trans (if_neg hk), hbare⟩
  unfold odRow
  rw [hreceive]
  exact ht

/-! ### The timeout (R518) -/

theorem sessionTimeout_does (hs : s.Settled) (n : Fin 48) (hx : s.session? n = some x) :
    ∃ t, exec (.sessionTimeout n) s = .next t ∧ t.session? n = none ∧ t.lintVal .OD_TIMEOUT 0 = satInc (s.lintVal .OD_TIMEOUT 0) 1 ∧
      (∀ k, k ≠ n.val → t.session? k = s.session? k) ∧ ((s.lint .OD_TIMEOUT).closeSession n).EndsAs t := by
  have hsquad : ((s.lint .OD_TIMEOUT).closeSession n).squad = s.squad := setSession_squad (s.lint .OD_TIMEOUT) n none
  obtain ⟨t, ht, hends⟩ := lateEnd_ends s ((s.lint .OD_TIMEOUT).closeSession n) (nlSettle_same _ _ (congrArg Squad.ports hsquad))
    ⟨idleWork_closeSession (s := s.lint .OD_TIMEOUT) hs.1 n.isLt, (congrArg Squad.cmd hsquad).trans hs.2⟩
    (fun hc => (crewsShort_kernel (kernel_lint s .OD_TIMEOUT)).symm.trans ((crewsShort_closeSession (s.lint .OD_TIMEOUT) n.isLt).symm.trans hc))
  have hses : ∀ k, t.session? k = if k = n.val then none else s.session? k := fun k => by
    rw [session?_congr (congrArg OdStore.sessions hends.od), closeSession_session _ _ _ n.isLt]
    rfl
  refine ⟨t, ?_, (hses n).trans (if_pos rfl), ?_, fun k hk => (hses k).trans (if_neg hk), hends⟩
  · rw [exec_sessionTimeout]
    unfold execSessionTimeout
    rw [hx]
    exact ht
  · rw [lintVal_congr (congrArg OdStore.lints hends.od), ← lintVal_lint]
    exact lintVal_congr (setSession_lints (s.lint .OD_TIMEOUT) n none) _ _

end

/-- Settles O22: each row sets one session and sends its answer; nothing else of the state takes part. -/
theorem sessions : Obligations.Sessions := by
  unfold Obligations.Sessions
  refine fun s e hs => ⟨fun data h hup hitf hgood hsession htag hreserved hlen hrole hcontrol hlow hhigh hzeros hnew hslot => ?_,
    fun x ht => closeSession_does hs ht rfl rfl, fun x ht => keepalive_does hs ht rfl rfl, fun n x hx => sessionTimeout_does hs n hx⟩
  obtain ⟨t, ht, hanswer, hopened, hothers, hbare⟩ := openSession_does (h := h) hs hup hitf hgood rfl
    ⟨hsession, htag, hreserved, ⟨rfl, rfl, rfl⟩, hlen, hrole, hcontrol, ⟨hlow, hhigh⟩, hzeros, hnew, hslot⟩
  exact ⟨t, _, ht, hanswer, hopened, rfl, Nat.min_eq_right hlow, Nat.succ_ne_zero _, rfl, rfl, rfl, rfl, hothers, hbare⟩

end Sys2Proof.Machine
end

section
/-! SUPPORT. The field channels: the filter tick and the faults of R448 to R453. -/

namespace Sys2Proof.Machine

open Sys2Proof

section
variable {s t u v : State} {n : Fin 48} {g : Fin 6}

theorem modChan_id (s : State) (n : Fin 48) : s.modChan n (fun c => c) = s := by
  simp [State.modChan, State.modField]

theorem chan_get (s : State) (n : Fin 48) (f : FieldCh → FieldCh) : (s.modChan n f).field.chans[n] = f s.field.chans[n] := by
  simp [State.modChan, State.modField]

theorem mem_groupChans : n ∈ groupChans g ↔ n.val / 8 = g.val := by
  simp [groupChans, all_mem]

theorem groupChans_nodup (g : Fin 6) : (groupChans g).Nodup := List.Pairwise.filter _ (all_nodup 48)

/-! ### The filter (R450) -/

theorem sample_level (c : FieldCh) (d mv : Nat) :
    (c.sample d mv).level = if c.supply = true ∨ mv ≤ 5000 then false else if 11000 ≤ mv then true else c.level := by
  unfold FieldCh.sample
  by_cases hs : c.supply = true
  · simp [hs]
  · by_cases h11 : 11000 ≤ mv
    · simp [hs, h11, show ¬ mv ≤ 5000 by omega]
    · simp [hs, h11]

theorem sample_count (c : FieldCh) (d mv : Nat) :
    (c.sample d mv).count = if (c.sample d mv).level = true then min (min c.count d + 1) d else min c.count d - 1 := rfl

theorem sample_count_le (c : FieldCh) (d mv : Nat) : (c.sample d mv).count ≤ d := by
  rw [sample_count]; split <;> omega

theorem sample_filt (c : FieldCh) (d mv : Nat) : (c.sample d mv).filt = if d = 0 then (c.sample d mv).level
    else if (c.sample d mv).count = d then true else if (c.sample d mv).count = 0 then false else c.filt := rfl

/-- One sample of every field channel at a filter tick (R450, R452). -/
def State.tickChan (mv : Vector (BitVec 16) 48) (hot : BitVec 48) (s : State) (n : Fin 48) (c : FieldCh) : FieldCh :=
  if s.fioMode n = 1 then ({ c with hot := hot[n] } : FieldCh).sample (s.num .FIO_FILT n) mv[n].toNat else { c with hot := hot[n] }

/-- What a filter tick does to the channels and the encoders of `u` (R450, R459). -/
theorem tick_fields (u : State) (mv : Vector (BitVec 16) 48) (hot : BitVec 48) (wire : BitVec 8) :
    ∃ v C E, (u.each (allFin 8) (fun s n => s.modEnc n (fun e => { e with wireNow := wire[n] }))).each (allFin 48)
        (fun s n => s.modChan n (State.tickChan mv hot s n)) = v ∧
      v = u.modField (fun f => { f with chans := C, encs := E }) ∧
      (∀ n : Fin 48, v.field.chans[n] = u.tickChan mv hot n u.field.chans[n]) ∧
      ∀ n : Fin 8, v.field.encs[n] = { u.field.encs[n] with wireNow := wire[n] } := by
  obtain ⟨henc, E, hE⟩ := encs_each (fun n e => { e with wireNow := wire[n] }) (allFin 8) u (all_nodup 8)
  rw [hE] at henc ⊢
  obtain ⟨hchan, C, hC⟩ := chans_each (State.tickChan mv hot) (fun _ _ _ => rfl) (allFin 48) (u.modField (fun f => { f with encs := E })) (all_nodup 48)
  rw [hC] at hchan ⊢
  refine ⟨_, C, E, rfl, rfl, fun n => ?_, fun n => ?_⟩
  · rw [hchan, if_pos (all_mem n)]; rfl
  · exact (henc n).trans (if_pos (all_mem n))

theorem filterTick_asleep {mv : Vector (BitVec 16) 48} {hot : BitVec 48} {wire : BitVec 8}
    (h : s.dev.state = .off ∨ s.dev.state = .reset ∨ s.dev.state = .boot ∨ s.dev.state = .recovery) : exec (.filterTick mv hot wire) s = .next s := by
  rw [exec_filterTick]; unfold execFilterTick
  rcases h with h | h | h | h <;> rw [h]

theorem filterTick_awake {mv : Vector (BitVec 16) 48} {hot : BitVec 48} {wire : BitVec 8}
    (h : s.dev.state = .inert ∨ s.dev.state = .safe ∨ s.dev.state.active = true)
    (hu : u = if s.dev.state = .inert then s else s.applyWaiting (inGroup 0x2C)) :
    exec (.filterTick mv hot wire) s = done s ((u.each (allFin 8) (fun s n => s.modEnc n (fun e => { e with wireNow := wire[n] }))).each (allFin 48)
      (fun s n => s.modChan n (State.tickChan mv hot s n))) := by
  rw [exec_filterTick, hu]; unfold execFilterTick
  generalize hd : s.dev.state = d at h ⊢
  cases d
  case off | reset | boot | recovery => simp [DevState.active] at h
  all_goals rfl

theorem filterTick_does {mv : Vector (BitVec 16) 48} {hot : BitVec 48} {wire : BitVec 8}
    (h : s.dev.state = .inert ∨ s.dev.state = .safe ∨ s.dev.state.active = true)
    (hu : u = if s.dev.state = .inert then s else s.applyWaiting (inGroup 0x2C)) :
    ∃ t C E, exec (.filterTick mv hot wire) s = .next t ∧ (u.modField (fun f => { f with chans := C, encs := E })).EndsAs t ∧
      (∀ n : Fin 48, t.field.chans[n] = u.tickChan mv hot n u.field.chans[n]) ∧
      ∀ n : Fin 8, t.field.encs[n] = { u.field.encs[n] with wireNow := wire[n] } := by
  obtain ⟨v, C, E, hv, hfield, hchans, hencs⟩ := tick_fields u mv hot wire
  obtain ⟨t, ht, hends⟩ := done_ends s v
  rw [filterTick_awake h hu, hv]
  exact ⟨t, C, E, ht, hfield ▸ hends, fun n => by rw [hends.field]; exact hchans n, fun n => by rw [hends.field]; exact hencs n⟩

/-! ### The group limit (R452) -/

theorem each_group (cut : List Nat) (s : State) : ∃ v C, s.each (allFin 48) (fun s n =>
      if cut.contains n.val then s.modChan n (fun c => { c with group := true }) else s) = v ∧
    v = s.modField (fun f => { f with chans := C }) ∧
    ∀ n : Fin 48, v.field.chans[n] = if cut.contains n.val then { s.field.chans[n] with group := true } else s.field.chans[n] := by
  have hstep : (fun (s : State) (n : Fin 48) => if cut.contains n.val then s.modChan n (fun c => { c with group := true }) else s) =
      fun s n => s.modChan n (fun c => if cut.contains n.val then { c with group := true } else c) := by
    funext s n
    split
    · rfl
    · exact (modChan_id s n).symm
  obtain ⟨hchan, C, hC⟩ := chans_each (fun _ n c => if cut.contains n.val then { c with group := true } else c) (fun _ _ _ => rfl) (allFin 48) s (all_nodup 48)
  exact ⟨_, C, by rw [hstep], hC, fun n => (hchan n).trans (if_pos (all_mem n))⟩

theorem limit_rest (p : Fin 48 → Bool) (i : Fin 48 → Nat) (lim : Nat) (l : List (Fin 48)) (cut : List Nat)
    (hl : l = (allFin 48).reverse.filter p) (hcut : cut = groupCut lim (l.map (fun n => (n.val, i n)))) :
    ((l.filter (fun n : Fin 48 => !cut.contains n.val)).map i).sum ≤ lim := by
  have hdistinct : ((l.map (fun n : Fin 48 => (n.val, i n))).map (·.1)).Nodup := by
    subst hl
    rw [List.map_map]
    exact ((List.pairwise_reverse.mpr ((all_nodup 48).imp Ne.symm)).filter _).map _ (fun a b hab c => hab (Fin.ext c))
  have hsum := cut_sum lim _ hdistinct
  rw [← hcut, List.filter_map, List.map_map] at hsum
  exact hsum

theorem groupLimit_within {G : Option (Fin 6)} {ma : Vector (BitVec 16) 48} {l : List (Fin 48)} {cut : List Nat}
    (hl : l = (allFin 48).reverse.filter (fun n : Fin 48 => s.driveOn n && (match G with | some k => n.val / 8 == k.val | none => true)))
    (hcut : cut = groupCut (if G.isSome then 2500 else 12000) (l.map (fun n : Fin 48 => (n.val, (ma[n]).toNat))))
    (hsum : (l.map (fun n : Fin 48 => (ma[n]).toNat)).sum ≤ if G.isSome then 2500 else 12000) : exec (.groupLimit G ma) s = .next s := by
  have hnil : cut = [] := hcut.trans (cut_nil _ _ (by rw [List.map_map]; exact hsum))
  rw [exec_groupLimit, limit_eq s G ma l cut hl hcut, hnil]
  rfl

theorem groupLimit_cuts {G : Option (Fin 6)} {ma : Vector (BitVec 16) 48} {l : List (Fin 48)} {cut : List Nat}
    (hl : l = (allFin 48).reverse.filter (fun n : Fin 48 => s.driveOn n && (match G with | some k => n.val / 8 == k.val | none => true)))
    (hcut : cut = groupCut (if G.isSome then 2500 else 12000) (l.map (fun n : Fin 48 => (n.val, (ma[n]).toNat)))) (hne : cut ≠ []) :
    ∃ t C, exec (.groupLimit G ma) s = .next t ∧ (((s.dropHolds cut).lint .FIO_LIMIT).modField (fun f => { f with chans := C })).EndsAs t ∧
      ∀ n : Fin 48, t.field.chans[n] = if cut.contains n.val then { s.field.chans[n] with group := true } else s.field.chans[n] := by
  obtain ⟨v, C, hv, hfield, hchans⟩ := each_group cut ((s.dropHolds cut).lint .FIO_LIMIT)
  obtain ⟨t, ht, hends⟩ := done_ends s v
  rw [exec_groupLimit, limit_eq s G ma l cut hl hcut, if_neg (by simpa using hne), hv]
  exact ⟨t, C, ht, hfield ▸ hends, fun n => by rw [hends.field]; exact hchans n⟩

/-! ### The field supplies (R452, R474) -/

/-- A change of the channels of a group, applied to each of them. -/
theorem each_groupChans (h : FieldCh → FieldCh) (g : Fin 6) (s : State) : ∃ v C, s.each (groupChans g) (fun s n => s.modChan n h) = v ∧
    v = s.modField (fun f => { f with chans := C }) ∧ ∀ n : Fin 48, v.field.chans[n] = if n.val / 8 = g.val then h s.field.chans[n] else s.field.chans[n] := by
  obtain ⟨hchan, C, hC⟩ := chans_each (fun _ _ => h) (fun _ _ _ => rfl) (groupChans g) s (groupChans_nodup g)
  exact ⟨_, C, rfl, hC, fun n => by rw [hchan]; simp only [mem_groupChans]⟩

theorem fieldSupplyFault_out {mv : BitVec 16} (h : mv.toNat < 18000 ∨ 32000 < mv.toNat) : ∃ t C, exec (.fieldSupplyFault g mv) s = .next t ∧
    ((((s.setVfld g mv false).dropHolds ((groupChans g).map (·.val))).lint .FIO_SUPPLY).modField (fun f => { f with chans := C })).EndsAs t ∧
    ∀ n : Fin 48, t.field.chans[n] =
      if n.val / 8 = g.val then { s.field.chans[n] with supply := true, level := false, filt := false, count := 0 } else s.field.chans[n] := by
  obtain ⟨v, C, hv, hfield, hchans⟩ := each_groupChans (fun c => { c with supply := true, level := false, filt := false, count := 0 }) g
    (((s.setVfld g mv false).dropHolds ((groupChans g).map (·.val))).lint .FIO_SUPPLY)
  obtain ⟨t, ht, hends⟩ := done_ends s v
  refine ⟨t, C, ?_, hfield ▸ hends, fun n => by rw [hends.field]; exact hchans n⟩
  rw [exec_fieldSupplyFault]
  unfold execFieldSupplyFault
  rw [if_neg (by omega)]
  exact (congrArg (done s) hv).trans ht

theorem fieldSupplyClear_in {mv : BitVec 16} (h : 19200 ≤ mv.toNat ∧ mv.toNat ≤ 30000) : ∃ t C, exec (.fieldSupplyClear g mv) s = .next t ∧
    ((s.setVfld g mv true).modField (fun f => { f with chans := C })).EndsAs t ∧
    ∀ n : Fin 48, t.field.chans[n] = if n.val / 8 = g.val then { s.field.chans[n] with supply := false } else s.field.chans[n] := by
  obtain ⟨v, C, hv, hfield, hchans⟩ := each_groupChans (fun c => { c with supply := false }) g (s.setVfld g mv true)
  obtain ⟨t, ht, hends⟩ := settled_ends v
  refine ⟨t, C, ?_, hfield ▸ hends, fun n => by rw [hends.field]; exact hchans n⟩
  rw [exec_fieldSupplyClear]
  unfold execFieldSupplyClear
  rw [if_pos h]
  exact (congrArg settled hv).trans ht

/-! ### The faults of one channel (R451, R452) -/

theorem overload_driven (h : s.driveOn n = true) : ∃ t, exec (.overload n) s = .next t ∧
    (((s.dropHolds [n.val]).modChan n (fun c => { c with overload := true })).lint .FIO_OVERLOAD).EndsAs t ∧ t.field.chans[n].overload = true := by
  obtain ⟨t, ht, hends⟩ := done_ends s (((s.dropHolds [n.val]).modChan n (fun c => { c with overload := true })).lint .FIO_OVERLOAD)
  refine ⟨t, ?_, hends, ?_⟩
  · rw [exec_overload]; unfold execOverload; rw [if_pos h]; exact ht
  · rw [hends.field]
    show ((s.dropHolds [n.val]).modChan n (fun c => { c with overload := true })).field.chans[n].overload = true
    rw [chan_get]

/-- A row that does `a` where `c` holds, and nothing where it does not. -/
theorem done_if {c : Prop} [Decidable c] {a : State} {i : Instr} (hexec : exec i s = if c then done s a else .next s) :
    (c → ∃ t, exec i s = .next t ∧ a.EndsAs t) ∧ (¬ c → exec i s = .next s) :=
  ⟨fun h => by rw [hexec, if_pos h]; exact done_ends s a, fun h => by rw [hexec, if_neg h]⟩

theorem overtemp_latches (hout : s.isOutput n = true) (hclear : s.field.chans[n].overtemp = false) : ∃ t, exec (.overtemp n) s = .next t ∧
    (((s.dropHolds [n.val]).modChan n (fun c => { c with overtemp := true, hot := true })).lint .FIO_OVERTEMP).EndsAs t := by
  rw [exec_overtemp]; unfold execOvertemp; rw [if_pos (by rw [hout, hclear]; rfl)]
  exact done_ends s _

theorem overtemp_again (h : s.isOutput n = false ∨ s.field.chans[n].overtemp = true) :
    ∃ t, exec (.overtemp n) s = .next t ∧ (s.modChan n (fun c => { c with hot := true })).EndsAs t := by
  rw [exec_overtemp]; unfold execOvertemp; rw [if_neg (by rcases h with h | h <;> rw [h] <;> simp)]
  exact settled_ends _

end

/-- Settles O56: each fault of a channel is one branch of its row; the filter tick, the group limit and the supplies change each channel by itself,
which `chans_each` says of every one of them. -/
theorem fieldChannels : Obligations.FieldChannels := by
  unfold Obligations.FieldChannels
  refine ⟨fun c d mv => ⟨sample_level c d mv, sample_count c d mv, sample_count_le c d mv, fun h => ?_, fun h => ?_⟩,
    fun s => ⟨fun mv hot wire => ⟨filterTick_asleep, fun u h hu => filterTick_does h hu⟩, fun n => ?_, fun g ma l cut hl hcut => ?_, fun g mv => ?_⟩⟩
  · rw [sample_filt, if_pos h]
  · rw [sample_filt, if_neg h]
  · have hload := done_if (exec_openLoad n s)
    have hwire := done_if (exec_openWire n s)
    refine ⟨overload_driven, fun h => if_neg (by rw [h]; decide), overtemp_latches, overtemp_again,
      fun hout hdiag hclear => hload.1 (by rw [hout, hdiag, hclear]; rfl), fun h => hload.2 (by rcases h with h | h | h <;> rw [h] <;> simp),
      settled_ends _, fun hmode hdiag hclear => hwire.1 (by rw [hdiag, hclear]; simp [hmode]), fun h => hwire.2 (by rcases h with h | h | h <;> simp only [h] <;> simp),
      settled_ends _, fun h => ?_, fun h => if_pos h⟩
    rw [exec_faultRetry]; unfold execFaultRetry; rw [if_neg h]
    exact settled_ends _
  · refine ⟨groupLimit_within hl hcut, fun hne => ?_⟩
    obtain ⟨t, C, ht, hends, hchans⟩ := groupLimit_cuts hl hcut hne
    exact ⟨t, C, ht, hends, hchans, limit_rest _ _ _ l cut hl hcut⟩
  · refine ⟨fieldSupplyFault_out, fun h1 h2 => ?_, fun h1 h2 => fieldSupplyClear_in ⟨h1, h2⟩, fun h => ?_⟩
    · rw [exec_fieldSupplyFault]; unfold execFieldSupplyFault; rw [if_pos ⟨h1, h2⟩]
      exact settled_ends _
    · rw [exec_fieldSupplyClear]; unfold execFieldSupplyClear; rw [if_neg (by omega)]
      exact settled_ends _

end Sys2Proof.Machine
end

section
/-! SUPPORT. The encoder channels: counts, references and faults (R454 to R459). -/

namespace Sys2Proof.Machine

open Sys2Proof

section
variable {s u v : State} {n : Fin 8} {old : Encoder} {a b : Bool} {dt : BitVec 32} {d : Int} {p : Nat}

/-! ### The codes of A and B (R454) -/

theorem grayState_rem (q : Int) : grayState q = grayState (q % 4) := by
  unfold grayState; rw [Int.emod_emod_of_dvd q (Int.dvd_refl 4)]

theorem quadCount_gray (q : Int) : quadCount 2 (grayState q).1 (grayState q).2 (grayState (q + 1)).1 (grayState (q + 1)).2 = 1 ∧
    quadCount 2 (grayState (q + 1)).1 (grayState (q + 1)).2 (grayState q).1 (grayState q).2 = -1 := by
  have hrem : q % 4 = 0 ∨ q % 4 = 1 ∨ q % 4 = 2 ∨ q % 4 = 3 := by omega
  rw [grayState_rem q, grayState_rem (q + 1), Int.add_emod]
  rcases hrem with h | h | h | h <;> rw [h] <;> decide

/-! ### A change of A or B (R454 to R456) -/

theorem encCount_enabled (he : s.field.encs[n].enabled = true) : exec (.encCount n a b dt) s =
    if s.quad n then
      if (s.field.encs[n].a != a) && (s.field.encs[n].b != b) then settled (s.modEnc n (fun e => { e with a := a, b := b }))
      else
        let c := quadCount (s.num .ENC_MODE n) s.field.encs[n].a s.field.encs[n].b a b
        let d := if s.flag .ENC_INVERT n then -c else c
        if d = 0 then settled (s.modEnc n (fun e => { e with a := a, b := b }))
        else done s ((s.modEnc n (fun e => { e with a := a, b := b })).encStep n d (decide (d < 0)))
    else if !s.field.encs[n].a && a then done s ((s.modEnc n (fun e => { e with a := a, b := b })).toothEdge n dt.toNat)
    else settled (s.modEnc n (fun e => { e with a := a, b := b })) := by
  rw [exec_encCount]; unfold execEncCount; dsimp only
  rw [he]; rfl

/-- A count moves the position from where it stood, and never the highest value back (R457). -/
theorem encStep_levels (s : State) (n : Fin 8) (a b : Bool) (d : Int) (r : Bool) :
    (s.modEnc n (fun e => { e with a := a, b := b })).encStep n d r = ((s.modEnc n (fun e => { e with a := a, b := b })).modEnc n (fun e => { e with
      pos := s.field.encs[n].pos + d, high := max s.field.encs[n].high (s.field.encs[n].pos + d), lastReverse := r })).moved n s.field.encs[n].pos := by
  rw [step_eq, enc_get]

theorem encCount_both (he : s.field.encs[n].enabled = true) (hq : s.quad n = true) (ha : s.field.encs[n].a ≠ a) (hb : s.field.encs[n].b ≠ b) :
    exec (.encCount n a b dt) s = settled (s.modEnc n (fun e => { e with a := a, b := b })) := by
  rw [encCount_enabled he, if_pos hq, if_pos (by rw [bne_iff_ne.mpr ha, bne_iff_ne.mpr hb]; rfl)]

theorem encCount_quad (he : s.field.encs[n].enabled = true) (hq : s.quad n = true) (hone : s.field.encs[n].a = a ∨ s.field.encs[n].b = b)
    (hd : d = if s.flag .ENC_INVERT n then -quadCount (s.num .ENC_MODE n) s.field.encs[n].a s.field.encs[n].b a b
      else quadCount (s.num .ENC_MODE n) s.field.encs[n].a s.field.encs[n].b a b) :
    exec (.encCount n a b dt) s = if d = 0 then settled (s.modEnc n (fun e => { e with a := a, b := b }))
      else done s ((s.modEnc n (fun e => { e with a := a, b := b })).encStep n d (decide (d < 0))) := by
  rw [encCount_enabled he, if_pos hq, if_neg (by rcases hone with h | h <;> simp only [h, bne_self_eq_false] <;> simp), hd]

theorem encCount_tooth_still (he : s.field.encs[n].enabled = true) (hq : s.quad n = false) (h : s.field.encs[n].a = true ∨ a = false) :
    exec (.encCount n a b dt) s = settled (s.modEnc n (fun e => { e with a := a, b := b })) := by
  rw [encCount_enabled he, if_neg (by simp [hq]), if_neg (by rcases h with h | h <;> rw [h] <;> simp)]

theorem encCount_tooth (he : s.field.encs[n].enabled = true) (hq : s.quad n = false) (h0 : s.field.encs[n].a = false) (h1 : a = true) :
    exec (.encCount n a b dt) s = done s ((s.modEnc n (fun e => { e with a := a, b := b })).toothEdge n dt.toNat) := by
  rw [encCount_enabled he, if_neg (by simp [hq]), if_pos (by rw [h0, h1]; rfl)]

/-! ### A rising edge of A in a tooth mode (R456) -/

theorem toothEdge_first (w : Nat) (h : u.field.encs[n].edgeSeen = false) :
    u.toothEdge n w = (u.modEnc n (fun e => { e with edgeSeen := true, interval := none })).encStep n 1 false := by
  unfold State.toothEdge; dsimp only; rw [h]; rfl

theorem toothEdge_second (w : Nat) (h : u.field.encs[n].edgeSeen = true) (hi : u.field.encs[n].interval = none) :
    u.toothEdge n w = (u.modEnc n (fun e => { e with interval := some w })).encStep n 1 false := by
  unfold State.toothEdge; dsimp only; rw [h, hi]; rfl

theorem toothEdge_later (w : Nat) (h : u.field.encs[n].edgeSeen = true) (hi : u.field.encs[n].interval = some p) :
    u.toothEdge n w =
      if u.num .ENC_MODE n = 3 ∧ 3 * p < 2 * w then
        ((u.modEnc n (fun e => { e with interval := none })).encStep n (1 + u.num .ENC_TOOTH_N n) false).encReference n
          ((u.modEnc n (fun e => { e with interval := none })).encStep n (1 + u.num .ENC_TOOTH_N n) false).field.encs[n].pos
      else if ¬ u.num .ENC_MODE n = 3 ∧ 2 * w < p then (u.modEnc n (fun e => { e with interval := none })).encReference n u.field.encs[n].pos
      else (u.modEnc n (fun e => { e with interval := some w })).encStep n 1 false := by
  unfold State.toothEdge; dsimp only; rw [h, hi]
  simp only [Bool.not_true, Bool.false_eq_true, if_false, decide_eq_true_eq]

/-! ### References and faults (R457 to R459) -/

theorem encReference_good (s : State) (n : Fin 8) (q : Int) (h : ¬ (s.num .ENC_REF_PERIOD n ≠ 0 ∧ s.field.encs[n].refCnt ≠ 0 ∧
      (s.num .ENC_REF_PERIOD n + s.num .ENC_REF_TOL n < (q - s.field.encs[n].refPos).natAbs ∨
        (q - s.field.encs[n].refPos).natAbs + s.num .ENC_REF_TOL n < s.num .ENC_REF_PERIOD n))) :
    s.encReference n q = s.modEnc n (fun e => { e with refPos := q, refCnt := (e.refCnt + 1) % 2 ^ 32 }) := by
  unfold State.encReference
  exact if_neg (by simpa only [Bool.and_eq_true, Bool.or_eq_true, decide_eq_true_eq, and_assoc] using h)

theorem encReference_bad (s : State) (n : Fin 8) (q : Int) (h : s.num .ENC_REF_PERIOD n ≠ 0 ∧ s.field.encs[n].refCnt ≠ 0 ∧
      (s.num .ENC_REF_PERIOD n + s.num .ENC_REF_TOL n < (q - s.field.encs[n].refPos).natAbs ∨
        (q - s.field.encs[n].refPos).natAbs + s.num .ENC_REF_TOL n < s.num .ENC_REF_PERIOD n)) :
    s.encReference n q = (s.modEnc n (fun e => { e with refPos := q, refCnt := (e.refCnt + 1) % 2 ^ 32 })).encFault n (fun e => { e with ref := true }) := by
  unfold State.encReference
  exact if_pos (by simpa only [Bool.and_eq_true, Bool.or_eq_true, decide_eq_true_eq, and_assoc] using h)

theorem encReference_used (he : s.field.encs[n].enabled = true) (hq : s.quad n = true) (hz : s.flag .ENC_Z_USED n = true) :
    exec (.encReference n) s = done s (s.encReference n s.field.encs[n].pos) := by
  rw [exec_encReference]; unfold execEncReference
  exact if_pos (by rw [he, hq, hz]; rfl)

theorem encReference_unused (h : s.quad n = false ∨ s.flag .ENC_Z_USED n = false) : exec (.encReference n) s = .next s := by
  rw [exec_encReference]; unfold execEncReference
  exact if_neg (by rcases h with h | h <;> rw [h] <;> simp)

theorem encReference_disabled (he : s.field.encs[n].enabled = false) : exec (.encReference n) s = .next s := by
  rw [exec_encReference]; unfold execEncReference
  exact if_neg (by rw [he]; simp)

theorem encCount_disabled (he : s.field.encs[n].enabled = false) : exec (.encCount n a b dt) s = .next s := by
  rw [exec_encCount]; unfold execEncCount
  exact if_pos (by rw [he]; rfl)

theorem wireFault_eq (n : Fin 8) (s : State) : exec (.wireFault n) s =
    if s.field.encs[n].enabled then done s (s.encFault n (fun e => { e with wire := true, wireNow := true })) else .next s := rfl

theorem overspeedFault_eq (n : Fin 8) (s : State) : exec (.overspeedFault n) s =
    if s.field.encs[n].enabled then done s (s.encFault n (fun e => { e with overspeed := true })) else .next s := rfl

theorem quadFault_eq (n : Fin 8) (s : State) : exec (.quadFault n) s = if s.field.encs[n].enabled && s.quad n then
    done s ((s.modEnc n (fun e => { e with a := !e.a, b := !e.b })).encFault n (fun e => { e with quad := true })) else .next s := rfl

/-- A channel that is not enabled counts nothing and faults in nothing (R454). -/
theorem disabled_rows (he : s.field.encs[n].enabled = false) (a b : Bool) (dt : BitVec 32) :
    ∀ i ∈ [Instr.encCount n a b dt, .encReference n, .wireFault n, .quadFault n, .overspeedFault n], exec i s = .next s := by
  simp only [List.forall_mem_cons]
  exact ⟨encCount_disabled he, encReference_disabled he, by rw [wireFault_eq, he]; rfl, by rw [quadFault_eq, he]; rfl,
    by rw [overspeedFault_eq, he]; rfl, fun _ h => nomatch h⟩

/-- How a row that is `done` ends. -/
theorem ends_of_done {i : Instr} (h : exec i s = done s u) : ∃ t, exec i s = .next t ∧ u.EndsAs t := h ▸ done_ends s u

theorem ends_of_settled {i : Instr} (h : exec i s = settled u) : ∃ t, exec i s = .next t ∧ u.EndsAs t := h ▸ settled_ends u

end

/-- Settles O57: the rows of an encoder channel, by mode and by the levels before; each is one count of `encStep`, one reference or one fault. -/
theorem encoderChannels : Obligations.EncoderChannels := by
  unfold Obligations.EncoderChannels
  refine ⟨quadCount_gray, by decide, ?_⟩
  rintro s n old rfl
  refine ⟨disabled_rows, fun a b dt u he hu => ?_, fun u bad hu hbad he hq hz => ?_, encReference_unused, fun he => ?_⟩
  · subst hu
    have hlevels : (s.modEnc n (fun e => { e with a := a, b := b })).field.encs[n] = { s.field.encs[n] with a := a, b := b } := enc_get ..
    refine ⟨fun hq ha hb => ends_of_settled (encCount_both he hq ha hb), fun d hq hone hd => ?_,
      fun hq h => ends_of_settled (encCount_tooth_still he hq h), fun hq h0 h1 => ?_⟩
    · have hrow := encCount_quad (dt := dt) he hq hone hd
      exact ⟨fun h => ends_of_settled (hrow.trans (if_pos h)), fun h => ends_of_done ((hrow.trans (if_neg h)).trans (congrArg (done s) (encStep_levels ..)))⟩
    · have hrow := encCount_tooth (b := b) (dt := dt) he hq h0 h1
      refine ⟨fun hs => ends_of_done (hrow.trans (congrArg (done s) (toothEdge_first _ (by rw [hlevels]; exact hs)))), fun hs => ⟨fun hi => ?_, fun p v hi => ?_⟩⟩
      · exact ends_of_done (hrow.trans (congrArg (done s) (toothEdge_second _ (by rw [hlevels]; exact hs) (by rw [hlevels]; exact hi))))
      · have hedge := hrow.trans (congrArg (done s) (toothEdge_later _ (by rw [hlevels]; exact hs) (by rw [hlevels]; exact hi)))
        refine ⟨fun hm hlong hv => ?_, fun hm hshort => ?_, fun hmid => ?_⟩
        · subst hv
          exact ends_of_done (hedge.trans (congrArg (done s) (if_pos ⟨hm, hlong⟩)))
        · rw [if_neg (fun h => hm h.1), if_pos ⟨hm, hshort⟩, hlevels] at hedge
          exact ends_of_done hedge
        · rw [if_neg (fun h => hmid.elim (fun hm => absurd h.2 (Nat.not_lt.mpr hm.2)) (fun hm => hm.1 h.1)),
            if_neg (fun h => hmid.elim (fun hm => h.1 hm.1) (fun hm => absurd h.2 (Nat.not_lt.mpr hm.2)))] at hedge
          exact ends_of_done hedge
  · subst hu hbad
    have hrow := encReference_used he hq hz
    exact ⟨fun h => ends_of_done (hrow.trans (congrArg (done s) (encReference_good s n _ h))),
      fun h => ends_of_done (hrow.trans (congrArg (done s) (encReference_bad s n _ h)))⟩
  · refine ⟨ends_of_done ((wireFault_eq n s).trans (if_pos he)), fun hq => ?_, fun hq => ?_, ends_of_done ((overspeedFault_eq n s).trans (if_pos he))⟩
    · have hrow := (quadFault_eq n s).trans (if_pos (by rw [he, hq]; rfl))
      rw [fault_eq, enc_two] at hrow
      exact ends_of_done hrow
    · exact (quadFault_eq n s).trans (if_neg (by rw [hq]; simp))

end Sys2Proof.Machine
end

section
/-! SUPPORT. The mailboxes, the bulk aperture and the reset of the PCIe function (R540 to R545, R556). -/

namespace Sys2Proof.Machine

open Sys2Proof

section
variable {s t u : State} {m : Fin 16} {c : Fin 8} {msg : Bytes} {go : BitVec 32} {x : Session}

/-! ### The go word (R543) -/

/-- The cell of a mailbox has a request in progress (R543). -/
def State.cellBusy (s : State) (m : Fin 16) (c : Fin 8) : Bool := s.pci.busy.any (fun b => b.1 == m.val && b.2.1 == c.val)

/-- The cell of a mailbox takes up the request `go`. -/
def State.cellTaken (s : State) (m : Fin 16) (c : Fin 8) (go : BitVec 32) : State :=
  { s with pci := { s.pci with busy := (m.val, c.val, go.toNat) :: s.pci.busy } }

theorem goWordWrite_served (hup : s.boot.serverUp = true) (hrate : s.pci.rate ≠ 0) : exec (.goWordWrite m c msg go) s =
    if s.cellBusy m c then settled (s.lint .PCI_GO_BUSY)
    else if (readRequest m.val msg).env.reqId ≠ go then settled (s.lint .OD_CHECK)
    else lateEnd s ((s.cellTaken m c go).receive (readRequest m.val msg)) := by
  rw [exec_goWordWrite]; unfold execGoWordWrite
  exact if_neg (by simp [hup, hrate])

theorem goWordWrite_keepalive (hup : s.boot.serverUp = true) (hrate : s.pci.rate ≠ 0) (hfree : s.cellBusy m c = false)
    (hgo : (readRequest m.val msg).env.reqId = go) (hop : (readRequest m.val msg).op = 3) (hdata : (readRequest m.val msg).data = []) (hs : s.Settled)
    (ht : (s.cellTaken m c go).Takes x (readRequest m.val msg)) :
    ∃ t, exec (.goWordWrite m c msg go) s = .next t ∧ s.RespondsAs t (readRequest m.val msg) .ok := by
  have hidle : (s.cellTaken m c go).Settled := ⟨(idleWork_sessions rfl).trans hs.1, hs.2⟩
  obtain ⟨t, hrow, hresp⟩ := keepalive_does hidle ht hop hdata
  refine ⟨t, ?_, responds_base hresp rfl rfl⟩
  rw [goWordWrite_served hup hrate, if_neg (by rw [hfree]; decide), if_neg (fun hne => hne hgo), lateEnd_pci s (s.cellTaken m c go).pci]
  exact hrow

/-! ### The bulk aperture (R544, R545) -/

theorem bulkApertureRead_served {ofs : BitVec 64} {len : BitVec 32} (hrate : s.pci.rate ≠ 0) (hlen : len ≠ 0) (hrec : s.dev.state ≠ .recovery) :
    exec (.bulkApertureRead ofs len) s = match s.apertureFault false ofs.toNat len.toNat with
      | some c => settled ((s.lint .PCI_BULK_REFUSED).emit (.aperture c []))
      | none => finish s ((s.bulkRead ofs.toNat len.toNat).1.emit (.aperture 0 (s.bulkRead ofs.toNat len.toNat).2)) := by
  rw [exec_bulkApertureRead]; unfold execBulkApertureRead
  rw [if_neg (not_or.mpr ⟨hrate, hlen⟩), if_neg hrec] <;> rfl

theorem bulkApertureWrite_served {ofs : BitVec 64} {data : Bytes} (hrate : s.pci.rate ≠ 0) (hlen : data ≠ []) (hrec : s.dev.state ≠ .recovery) :
    exec (.bulkApertureWrite ofs data) s = match s.apertureFault true ofs.toNat data.length with
      | some _ => settled ((s.lint .PCI_BULK_REFUSED).emit (.aperture 4 []))
      | none => finish s (s.bulkWrite ofs.toNat data) := by
  rw [exec_bulkApertureWrite]; unfold execBulkApertureWrite
  rw [if_neg (not_or.mpr ⟨hrate, hlen⟩), if_neg hrec] <;> rfl

/-! ### The reset of the function (R556) -/

/-- The sessions of interface 2 close (R556). -/
def State.closePci (s : State) : State :=
  s.each ((List.range 16).map (· + 32)) (fun s h => if (s.session? h).isSome then s.closeSession h else s)

/-- What the reset of the function makes of `s`, before the row ends. -/
def State.functionReset (s : State) (rate width : Nat) : State :=
  { s.closePci with pci := { s.closePci.pci with rate := rate, width := width, busy := [], cells := [], lists := [] } }

theorem mem_handles (k : Nat) : k ∈ (List.range 16).map (· + 32) ↔ 32 ≤ k ∧ k < 48 := by
  rw [List.mem_map]
  exact ⟨fun ⟨j, hj, he⟩ => by have := List.mem_range.mp hj; omega, fun hk => ⟨k - 32, List.mem_range.mpr (by omega), by omega⟩⟩

theorem closePci_eq (s : State) : ∃ v q, s.closePci = { s with od := { s.od with sessions := v }, pci := { s.pci with lists := q } } ∧
    ∀ k, s.closePci.session? k = if 32 ≤ k ∧ k < 48 then none else s.session? k := by
  obtain ⟨v, q, heq, hses⟩ := close_each ((List.range 16).map (· + 32)) s (fun k hk => ((mem_handles k).mp hk).2)
  simp only [mem_handles] at hses
  exact ⟨v, q, heq, hses⟩

theorem functionReset_eq (s : State) (rate width : Nat) : ∃ v, s.functionReset rate width =
      { s with od := { s.od with sessions := v }, pci := { s.pci with rate := rate, width := width, busy := [], cells := [], lists := [] } } ∧
    ∀ k, (s.functionReset rate width).session? k = if 32 ≤ k ∧ k < 48 then none else s.session? k := by
  obtain ⟨v, q, heq, hses⟩ := closePci_eq s
  unfold State.functionReset
  generalize s.closePci = z at heq hses ⊢
  subst heq
  exact ⟨v, rfl, hses⟩

theorem functionReset_ends (hs : s.Settled) (rate width : Nat) :
    ∃ t, lateEnd s (s.functionReset rate width) = .next t ∧ (s.functionReset rate width).EndsAs t := by
  obtain ⟨v, heq, hses⟩ := functionReset_eq s rate width
  generalize s.functionReset rate width = z at heq hses ⊢
  have hsquad : z.squad = s.squad := by rw [heq]
  refine lateEnd_ends s _ (nlSettle_same _ _ (congrArg Squad.ports hsquad)) ⟨idleWork_sub (fun k y hk => ?_) hs.1, (congrArg Squad.cmd hsquad).trans hs.2⟩
    (fun hc => ?_)
  · rw [hses] at hk
    split at hk
    · cases hk
    · exact .inl hk
  · rw [heq] at hc
    exact (crewsShort_congr _ _ rfl rfl rfl rfl rfl).symm.trans hc

theorem mem_widths {w : BitVec 4} (h : w.toNat ∈ [1, 2, 4, 8]) : (w == 1 || w == 2 || w == 4 || w == 8) = true := by
  revert w; decide

/-- The link stands after the reset: the function is served, at a rate and a width that it has (R540, R556). -/
def State.linkServed (s : State) (rate width : BitVec 4) : Bool :=
  (s.boot.serverUp || decide (s.dev.state = .recovery)) && decide (1 ≤ rate.toNat) && decide (rate.toNat ≤ 5) &&
    (width == 1 || width == 2 || width == 4 || width == 8)

theorem linkServed_of {rate width : BitVec 4} (hup : s.boot.serverUp = true) (hrate : rate.toNat ∈ [1, 2, 3, 4, 5])
    (hwidth : width.toNat ∈ [1, 2, 4, 8]) : s.linkServed rate width = true := by
  have hr : 1 ≤ rate.toNat ∧ rate.toNat ≤ 5 := by simp only [List.mem_cons, List.not_mem_nil, or_false] at hrate; omega
  unfold State.linkServed
  rw [hup, mem_widths hwidth, decide_eq_true hr.1, decide_eq_true hr.2]
  rfl

theorem pcieFunctionReset_eq (rate width : BitVec 4) (s : State) : exec (.pcieFunctionReset rate width) s =
    lateEnd s (s.functionReset (if s.linkServed rate width then rate.toNat else 0) (if s.linkServed rate width then width.toNat else 0)) := by
  rw [exec_pcieFunctionReset]
  unfold execPcieFunctionReset State.functionReset State.closePci State.linkServed
  rfl

theorem pcieFunctionReset_does (hs : s.Settled) (rate width : BitVec 4) :
    ∃ t, exec (.pcieFunctionReset rate width) s = .next t ∧ t.pci.busy = [] ∧ t.pci.cells = [] ∧ t.pci.lists = [] ∧
      (∀ k, 32 ≤ k → k < 48 → t.session? k = none) ∧ (∀ k, k < 32 → t.session? k = s.session? k) ∧
      (s.boot.serverUp = true → rate.toNat ∈ [1, 2, 3, 4, 5] → width.toNat ∈ [1, 2, 4, 8] → t.pci.rate = rate.toNat ∧ t.pci.width = width.toNat) ∧
      t.pci.archive = s.pci.archive ∧ t.field = s.field ∧ t.cox = s.cox ∧ t.cams = s.cams ∧ t.mem = s.mem := by
  have hlink : s.boot.serverUp = true → rate.toNat ∈ [1, 2, 3, 4, 5] → width.toNat ∈ [1, 2, 4, 8] →
      (if s.linkServed rate width then rate.toNat else 0) = rate.toNat ∧ (if s.linkServed rate width then width.toNat else 0) = width.toNat :=
    fun hup hr hw => ⟨if_pos (linkServed_of hup hr hw), if_pos (linkServed_of hup hr hw)⟩
  rw [pcieFunctionReset_eq]
  generalize (if s.linkServed rate width then rate.toNat else 0) = r at hlink ⊢
  generalize (if s.linkServed rate width then width.toNat else 0) = w at hlink ⊢
  obtain ⟨v, heq, hses⟩ := functionReset_eq s r w
  obtain ⟨t, ht, hends⟩ := functionReset_ends hs r w
  generalize s.functionReset r w = z at heq hses ht hends ⊢
  have hses' : ∀ k, t.session? k = if 32 ≤ k ∧ k < 48 then none else s.session? k :=
    fun k => (session?_congr (congrArg OdStore.sessions hends.od) k).trans (hses k)
  rw [heq] at hends
  refine ⟨t, ht, congrArg Pcie.busy hends.pci, congrArg Pcie.cells hends.pci, congrArg Pcie.lists hends.pci,
    fun k h1 h2 => (hses' k).trans (if_pos ⟨h1, h2⟩), fun k hk => (hses' k).trans (if_neg (by omega)), fun hup hr hw => ?_,
    (congrArg Pcie.archive hends.pci).trans rfl, hends.field, hends.cox, hends.cams, hends.mem⟩
  obtain ⟨rfl, rfl⟩ := hlink hup hr hw
  exact ⟨congrArg Pcie.rate hends.pci, congrArg Pcie.width hends.pci⟩

end

/-- Settles O27: a go word is refused before or starts its request, an access of the aperture is one case of R544, and the reset closes the sessions 32 to 47. -/
theorem pcieFunction : Obligations.PcieFunction := by
  unfold Obligations.PcieFunction
  refine fun s => ⟨fun m c msg go hup hrate => ⟨fun hbusy => ?_, fun hfree hid => ?_,
    fun hfree hid hop hdata hs x ht => goWordWrite_keepalive hup hrate hfree hid hop hdata hs ht⟩,
    fun ofs len hrate hlen hrec => ⟨fun hok => ?_, fun c hbad => ?_⟩, fun ofs data hrate hlen hrec => ⟨fun hok => ?_, fun c hbad => ?_⟩,
    fun rate width hs => pcieFunctionReset_does hs rate width⟩
  · rw [goWordWrite_served hup hrate, if_pos (show s.cellBusy m c = true from hbusy)]
    exact settled_ends _
  · rw [goWordWrite_served hup hrate, if_neg (ne_true_of_eq_false (show s.cellBusy m c = false from hfree)), if_pos hid]
    exact settled_ends _
  · rw [bulkApertureRead_served hrate hlen hrec, hok]
    exact finish_kernel ((kernel_emit ..).trans (kernel_bulkRead ..))
  · rw [bulkApertureRead_served hrate hlen hrec, hbad]
    exact settled_ends _
  · rw [bulkApertureWrite_served hrate hlen hrec, hok]
    exact finish_kernel (kernel_bulkWrite ..)
  · rw [bulkApertureWrite_served hrate hlen hrec, hbad]
    exact settled_ends _

end Sys2Proof.Machine
end

section
/-! SUPPORT. The safety supervisor: rinse slices, its watchdogs and its events (R561 to R588). -/

namespace Sys2Proof.Machine

open Sys2Proof

section
variable {s t u : State} {x : Slice} {c p e : Nat} {r : List UnitId}

/-! ### Events (R584, R585) -/

/-- The event `e` is latched. -/
def State.latch (s : State) (e : Nat) : State := s.modSaf (fun f => { f with latched := setBit f.latched e true })

theorem kernel_latch (s : State) (e : Nat) : (s.latch e).kernel = s.kernel := kernel_modSaf s _ rfl

/-- An event whose action is to report is latched, and that is all (R585). -/
theorem event_reports (l : List UnitId) (hs : s.dev.state = .inert ∨ s.dev.state = .safe ∨ s.dev.state.active = true)
    (h : s.numAt .SAF_ACTION 0 (e - 1) = 0) : s.event e l = s.latch e := (event_acts s e l hs).1 h

theorem takeOut_crew (s : State) (c : Nat) : (s.takeOut (.crew c)).saf.held.contains (.crew c) = true ∧ (s.takeOut (.crew c)).saf.latched = s.saf.latched := by
  unfold State.takeOut
  split
  · rename_i h
    exact ⟨h, rfl⟩
  · refine ⟨?_, rfl⟩
    show (s.saf.held ++ [UnitId.crew c] ++ []).contains (UnitId.crew c) = true
    simp

/-- An event whose action is to take a crew out of service (R566, R585). -/
theorem event_takesOut (hs : s.dev.state.active = true) (h : s.numAt .SAF_ACTION 0 (e - 1) = 1) :
    (s.event e [.crew c]).saf.held.contains (.crew c) = true ∧ (s.event e [.crew c]).saf.latched = setBit s.saf.latched e true := by
  rw [(event_acts s e [.crew c] (.inr (.inr hs))).2.1 h]
  exact takeOut_crew (s.latch e) c

/-- An event whose action is SAFE enters SAFE with cause 5, and names itself (R585, R586). -/
theorem event_safe (hs : s.dev.state = .inert ∨ s.dev.state.active = true) (harm : s.dev.arming = none) (h : s.numAt .SAF_ACTION 0 (e - 1) = 2) (l : List UnitId) :
    ∃ t, finish s (s.event e l) = .next t ∧ t.SafeFrom s 5 ∧ t.saf.latched = setBit s.saf.latched e true ∧ t.saf.safeEvent = e := by
  have hkernel : ((s.latch e).modSaf (fun f => { f with safeEvent := e })).kernel = s.kernel := (kernel_modSaf (s.latch e) _ rfl).trans (kernel_latch s e)
  obtain ⟨t, ht, hsafe, hends⟩ := finish_safeFrom 5 hkernel harm
  have hevs : t.evs = (setBit s.saf.latched e true, e) := by
    unfold State.evs
    rw [hends.saf]
    exact enterSafe_events _ 5 harm
  refine ⟨t, ?_, hsafe, congrArg Prod.fst hevs, congrArg Prod.snd hevs⟩
  rw [(event_acts s e l (hs.imp_right .inr)).2.2 h, ← ht]
  exact congrArg (finish s) (safeCause_enters ((s.latch e).modSaf (fun f => { f with safeEvent := e })) 5 hs)

/-! ### The rinse (R572, R575) -/

/-- The slice `x` ends; where it has passed, its status takes the time. -/
def State.sliceEnded (s : State) (x : Slice) (passed : Bool) : State :=
  s.modSaf (fun f =>
    { f with
      running := f.running.filter (fun y => !(y == x))
      status := if passed then (if h : x.num < 75 then f.status.set x.num s.now else f.status) else f.status })

theorem sliceDone_passed (hrun : s.saf.running.contains x = true) (hwindow : (s.dev.state.active && s.inRinse s.cox.period) = false) :
    s.sliceDone x [] none = s.sliceEnded x true := by
  have hstay : ((s.sliceEnded x true).dev.state.active && (s.sliceEnded x true).inRinse (s.sliceEnded x true).cox.period) = false := hwindow
  unfold State.sliceDone
  rw [hrun, if_neg (by decide)]
  dsimp only
  split
  · contradiction
  · exact if_neg (ne_true_of_eq_false hstay)

/-- The detected error of a shell that a slice found bad (R572, R590). -/
def State.shellFault (s : State) (c p : Nat) : DetError := ⟨0x0D, c, p, 0, 0, 0, s.cox.period, s.now, true, .check⟩

/-- A slice that fails on a shell is counted, and is the last error (R572). -/
def State.sliceFailed (s : State) (x : Slice) (c p : Nat) : State :=
  ((s.sliceEnded x false).lint .SAF_RINSE_FAIL).modSaf (fun f => { f with lastErr := some (s.shellFault c p) })

theorem sliceDone_failed (hrun : s.saf.running.contains x = true) (harmed : s.dev.state = .armed) (hwindow : s.inRinse s.cox.period = false)
    (hact : s.numAt .SAF_ACTION 0 1 = 0) : s.sliceDone x (.shell c p :: r) none = (s.sliceFailed x c p).latch 2 := by
  have hevent : (s.sliceFailed x c p).event 2 (.shell c p :: r) = (s.sliceFailed x c p).latch 2 :=
    event_reports _ (.inr (.inr (show s.dev.state.active = true by rw [harmed]; rfl))) hact
  have hstay : ¬ (((s.sliceFailed x c p).event 2 (.shell c p :: r)).dev.state.active && ((s.sliceFailed x c p).event 2 (.shell c p :: r)).inRinse
      ((s.sliceFailed x c p).event 2 (.shell c p :: r)).cox.period) = true := by
    rw [hevent]
    exact fun h => Bool.false_ne_true (hwindow.symm.trans (Bool.and_eq_true _ _ ▸ h : _ ∧ _).2)
  unfold State.sliceDone
  rw [hrun, if_neg (by decide)]
  dsimp only
  split
  · contradiction
  · exact (if_neg hstay).trans hevent

theorem rinseSliceDone_passes (hx : x.num < 75) (hrun : s.saf.running.contains x = true) (hwindow : (s.dev.state.active && s.inRinse s.cox.period) = false) :
    ∃ t, exec (.rinseSliceDone x [] none) s = .next t ∧
      (s.modSaf (fun f => { f with running := f.running.filter (fun y => !(y == x)), status := f.status.set x.num s.now })).EndsAs t := by
  have hended : s.sliceEnded x true = s.modSaf (fun f => { f with running := f.running.filter (fun y => !(y == x)), status := f.status.set x.num s.now }) := by
    unfold State.sliceEnded
    simp only [if_true, dif_pos hx]
  rw [exec_rinseSliceDone, ← hended]
  unfold execRinseSliceDone
  rw [show (none : Option (Fin 64)).map (·.val) = none from rfl, sliceDone_passed hrun hwindow]
  exact finish_kernel (kernel_modSaf s _ rfl)

theorem rinseSliceDone_fails (hrun : s.saf.running.contains x = true) (harmed : s.dev.state = .armed) (hwindow : s.inRinse s.cox.period = false)
    (hact : s.numAt .SAF_ACTION 0 1 = 0) : ∃ t e, exec (.rinseSliceDone x (.shell c p :: r) none) s = .next t ∧
      t.saf.latched = setBit s.saf.latched 2 true ∧ t.saf.status = s.saf.status ∧ t.saf.lastErr = some e ∧ e.kind = 0x0D ∧ e.crew = c ∧ e.unitNo = p ∧
      t.lintVal .SAF_RINSE_FAIL 0 = satInc (s.lintVal .SAF_RINSE_FAIL 0) 1 ∧ t.cox = s.cox ∧ t.field = s.field := by
  have hkernel : ((s.sliceFailed x c p).latch 2).kernel = s.kernel :=
    (kernel_latch _ 2).trans ((kernel_modSaf _ _ rfl).trans ((kernel_lint _ _).trans (kernel_modSaf s _ rfl)))
  obtain ⟨t, ht, hends⟩ := finish_kernel hkernel
  refine ⟨t, s.shellFault c p, ?_, by rw [hends.saf]; rfl, by rw [hends.saf]; rfl, by rw [hends.saf]; rfl, rfl, rfl, rfl, ?_, hends.cox, hends.field⟩
  · rw [exec_rinseSliceDone]
    unfold execRinseSliceDone
    rw [show (none : Option (Fin 64)).map (·.val) = none from rfl, sliceDone_failed hrun harmed hwindow hact]
    exact ht
  · rw [lintVal_congr (congrArg OdStore.lints hends.od)]
    exact lintVal_lint (s.sliceEnded x false) .SAF_RINSE_FAIL

theorem overdue_active (h : s.overdue x = true) : s.dev.state.active = true := (Bool.and_eq_true _ _ ▸ h : _ ∧ _).1

theorem rinseOverdue_crew {i : Nat} (hsup : s.supervised.contains (.crew c i) = true) (hover : s.overdue (.crew c i) = true)
    (hu : u = (s.lint .SAF_RINSE_OVERDUE).event 1 [.crew c]) (hshort : u.crewsShort = true → s.crewsShort = true) :
    ∃ t, exec (.rinseOverdue (.crew c i)) s = .next t ∧ u.EndsAs t ∧
      (s.numAt .SAF_ACTION 0 0 = 1 → t.saf.held.contains (.crew c) = true ∧ t.saf.latched = setBit s.saf.latched 1 true) := by
  obtain ⟨t, ht, hends⟩ := finish_ends s u hshort
  refine ⟨t, ?_, hends, fun hact => ?_⟩
  · rw [exec_rinseOverdue]
    unfold execRinseOverdue
    rw [hsup, hover, ← ht, hu]
    rfl
  · rw [hends.saf, hu]
    exact event_takesOut (s := s.lint .SAF_RINSE_OVERDUE) (overdue_active hover) hact

theorem rinseOverdue_not (h : (s.supervised.contains x && s.overdue x) = false) : exec (.rinseOverdue x) s = .next s := by
  rw [exec_rinseOverdue]
  unfold execRinseOverdue
  rw [h]
  rfl

/-! ### The watchdog of swaths and the mismatches (R561, R570) -/

theorem swathWatchdog_idle {port : Fin 12} {n : BitVec 64} (h : s.saf.expected.contains (port.val, n.toNat) = false) : exec (.swathWatchdog port n) s = .next s := by
  rw [exec_swathWatchdog]
  unfold execSwathWatchdog
  rw [h]
  rfl

theorem swathWatchdog_late {port : Fin 12} {n : BitVec 64} {w : Swath} (h : s.saf.expected.contains (port.val, n.toNat) = true)
    (hw : s.swath? port.val n.toNat = some w) : exec (.swathWatchdog port n) s =
      finish s ((((s.swathHeatless port.val w .late .supervisor).swathDecided port.val n.toNat).lint .SAF_SWATH_WD).event 8 []) := by
  rw [exec_swathWatchdog]
  unfold execSwathWatchdog
  rw [h, hw]
  rfl

theorem mangleMismatch_none {port : Fin 12} {n : Nat} (hopen : s.cams[port].opened = none) (hswath : s.swath? port.val n = none) :
    s.mangleMismatch port n = s := by
  unfold State.mangleMismatch
  rw [hopen]
  dsimp only
  unfold State.mangleClosed
  rw [hswath]

theorem mangleMismatch_reports {port : Fin 12} {n : BitVec 64} (hopen : s.cams[port].opened = none) (hswath : s.swath? port.val n.toNat = none)
    (harmed : s.dev.state = .armed) (hact : s.numAt .SAF_ACTION 0 10 = 0) :
    ∃ t, exec (.engineMismatch (.mangle port n)) s = .next t ∧ (s.latch 0x0B).EndsAs t := by
  rw [exec_engineMismatch]
  unfold execEngineMismatch
  dsimp only
  rw [mangleMismatch_none hopen hswath, event_reports _ (.inr (.inr (by rw [harmed]; rfl))) hact]
  exact finish_kernel (kernel_latch s _)

/-! ### Lost time (R586) -/

theorem lostTimeStore_stores (h : s.dev.state = .inert ∨ s.dev.state = .safe ∨ s.dev.state.active = true) : exec .lostTimeStore s = settled s.writeStored := by
  rw [exec_lostTimeStore]
  unfold execLostTimeStore
  generalize s.dev.state = d at h ⊢
  cases d
  case off | reset | boot | recovery => simp [DevState.active] at h
  all_goals rfl

end

/-- Settles O38: each row by its branch; an event is latched and acts as its action says (`event_acts`). -/
theorem supervision : Obligations.Supervision := by
  unfold Obligations.Supervision
  refine ⟨fun s x hx hrun hwindow => rinseSliceDone_passes hx hrun hwindow, ?_, fun s x h => rinseOverdue_not h,
    fun s u c i hsup hover hu hshort => rinseOverdue_crew hsup hover hu hshort, fun s p n h => swathWatchdog_idle h, ?_,
    fun s p n hopen hswath harmed hact => mangleMismatch_reports hopen hswath harmed hact, ?_, ?_, ?_⟩
  · rintro s x c p r b hrun harmed hwindow hact rfl
    exact rinseSliceDone_fails hrun harmed hwindow hact
  · rintro s u p n w h hw rfl hshort
    rw [swathWatchdog_late h hw]
    exact finish_ends s _ hshort
  · intro s hstate harm hact
    rw [exec_controlMismatch]
    exact event_safe hstate harm hact []
  · intro s h
    rw [lostTimeStore_stores h]
    exact settled_ends _
  · intro s h
    rw [exec_lostTimeStore]
    unfold execLostTimeStore
    rw [h]

end Sys2Proof.Machine
end

section
/-! SUPPORT. The frames of the field network: links, discards, ARP, ICMP, gates and transmission (R485 to R491). -/

namespace Sys2Proof.Machine

open Sys2Proof

section
variable {s t u : State} {p : Fin 2} {f : Bytes}

theorem modFnet_port (s : State) (p : Fin 2) (g : FnetPort → FnetPort) : (s.modFnet p g).fnet.ports[p] = g s.fnet.ports[p] := by
  simp [State.modFnet]

/-! ### Rows of a port by whether it is on (R485) -/

theorem fnetLinkChange_on (hon : s.fnet.ports[p].on = true) (up : Bool) (r : BitVec 2) : exec (.fnetLinkChange p up r) s =
    settled (s.modFnet p (fun f =>
      if up then { f with linkUp := true, rate := if s.num .FNET_MODE p = 0 then 3 else min r.toNat 2 } else { f.ptpDown with linkUp := false, rate := 0 })) := by
  rw [exec_fnetLinkChange]
  unfold execFnetLinkChange
  rw [if_neg (not_not_intro hon)]

theorem fnetFrameDiscard_on (hon : s.fnet.ports[p].on = true) (fcs full : Bool) : exec (.fnetFrameDiscard p f fcs full) s =
    if ¬ fcs then settled (s.lintAt .FNET_FCS p) else if ¬ s.accepts p f then settled (s.lintAt .FNET_DROP p)
    else if full then settled (s.lintAt .FNET_RXFULL p) else .next s := by
  rw [exec_fnetFrameDiscard]
  unfold execFnetFrameDiscard
  rw [if_neg (not_not_intro hon)]
  rfl

theorem arpRequest_answered (hon : s.fnet.ports[p].on = true) (hacc : s.accepts p f = true) (htype : (ethFrame f).etype = 0x0806)
    (hask : beNat (slice (ethFrame f).payload 0 8) = 0x0001080006040001) : exec (.arpRequest p f true) s =
      settled (s.queueFrame p 0 (s.ethOut p (beNat (slice (ethFrame f).payload 8 6)) (some (s.num .FNET_PCP_OD p)) 0x0806
        (beBytes 8 0x0001080006040002 ++ beBytes 6 (s.mac p) ++ beBytes 4 (s.num .FNET_IPV4 p) ++ slice (ethFrame f).payload 8 10)) none) := by
  rw [exec_arpRequest]
  unfold execArpRequest
  rw [if_neg (not_not_intro hon), if_neg (by simp), if_neg (by simp [hacc, htype])]
  exact if_neg (not_not_intro hask)

theorem icmpEcho_answered {src : Nat} {icmp : Bytes} (hon : s.fnet.ports[p].on = true) (hacc : s.accepts p f = true) (htype : (ethFrame f).etype = 0x0800)
    (hip : s.ipv4 p (ethFrame f).payload = some (1, src, icmp)) : exec (.icmpEcho p f true) s =
      settled (s.queueFrame p 0 (s.ethOut p (ethFrame f).src (some (s.num .FNET_PCP_OD p)) 0x0800 (ipv4Packet (s.num .FNET_IPV4 p) src 1
        (beBytes 2 0 ++ beBytes 2 (inetSum (beBytes 2 0 ++ beBytes 2 0 ++ icmp.drop 4)) ++ icmp.drop 4))) none) := by
  rw [exec_icmpEcho]
  unfold execIcmpEcho
  rw [if_neg (not_not_intro hon), if_neg (by simp), if_neg (not_not_intro hacc)]
  dsimp only
  rw [if_pos htype, hip]
  rfl

/-- A port that is not enabled takes and sends nothing (R485). -/
theorem port_off (hoff : s.fnet.ports[p].on = false) :
    (∀ up r, exec (.fnetLinkChange p up r) s = .next s) ∧ (∀ f c k, exec (.fnetFrameDiscard p f c k) s = .next s) ∧
      (∀ f c, exec (.arpRequest p f c) s = .next s) ∧ (∀ f c, exec (.icmpEcho p f c) s = .next s) ∧ ∀ x, exec (.frameTransmit p x) s = .next s := by
  have hnot : ¬ s.fnet.ports[p].on = true := ne_true_of_eq_false hoff
  exact ⟨fun _ _ => if_pos hnot, fun _ _ _ => if_pos hnot, fun _ _ => if_pos hnot, fun _ _ => if_pos hnot, fun _ => if_pos (.inl hnot)⟩

/-! ### Gates (R491) -/

theorem gateCycleStart_next {start : Nat} {g : GateList} (hnext : s.fnet.ports[p].nextGate = some (start, g)) : exec (.gateCycleStart p) s =
    if start ≤ s.nowNs then settled ((s.applyWaiting (fun k => k / 256 == 0x2E20 + p.val)).modFnet p (fun f => { f with gate := some g, nextGate := none }))
    else .next s := by
  rw [exec_gateCycleStart]
  unfold execGateCycleStart
  rw [hnext]

/-! ### Transmission (R489, R490, R503) -/

/-- The queue that is served: the first in strict priority that does not wait. -/
theorem find_served (c : Fin 4 → TxChoice) (q : Fin 4) (habove : ∀ k : Fin 4, q < k → c k = .wait) (hq : c q ≠ .wait) :
    (List.finRange 4).reverse.find? (fun q => decide (c q ≠ .wait)) = some q := by
  rw [show (List.finRange 4).reverse = [3, 2, 1, 0] from rfl]
  have hskip : ∀ k : Fin 4, q < k → decide (c k ≠ .wait) = false := fun k hk => by rw [habove k hk]; rfl
  have htake : decide (c q ≠ .wait) = true := decide_eq_true hq
  match q, hskip, htake with
  | 3, _, htake => simp only [List.find?_cons, htake]
  | 2, hskip, htake => simp only [List.find?_cons, htake, hskip 3 (by decide)]
  | 1, hskip, htake => simp only [List.find?_cons, htake, hskip 3 (by decide), hskip 2 (by decide)]
  | 0, hskip, htake => simp only [List.find?_cons, htake, hskip 3 (by decide), hskip 2 (by decide), hskip 1 (by decide)]

theorem frameTransmit_serves {q : Fin 4} {h : TxFrame} {l : List TxFrame} (ph : BitVec 3) (hon : s.fnet.ports[p].on = true)
    (hup : s.fnet.ports[p].linkUp = true) (habove : ∀ k : Fin 4, q < k → s.txChoice p k = .wait) (hq : s.txChoice p q ≠ .wait)
    (hhead : s.fnet.ports[p].queues[q] = h :: l) (hu : u = s.modFnet p (fun f => { f with queues := f.queues.set q l })) :
    exec (.frameTransmit p ph) s = if s.txChoice p q = .discard then settled (u.lintAt .FNET_QBV_DROP p) else
      settled (match h.event with | some ev => (u.emit (.frame p q h.bytes)).stampTx p ev ph.toNat | none => u.emit (.frame p q h.bytes)) := by
  have hpop : s.modFnet p (fun f => f.pop q) = u := by
    rw [hu]
    refine modFnet_congr s p _ _ ?_
    unfold FnetPort.pop
    rw [hhead]
    rfl
  rw [exec_frameTransmit, ← hpop]
  unfold execFrameTransmit
  dsimp only
  rw [if_neg (not_or.mpr ⟨not_not_intro hon, not_not_intro hup⟩), find_served _ q habove hq]
  dsimp only
  rw [hhead] <;> rfl

theorem frameTransmit_waits (ph : BitVec 3) (h : ∀ k : Fin 4, s.txChoice p k = .wait) : exec (.frameTransmit p ph) s = .next s := by
  have hnone : (List.finRange 4).reverse.find? (fun q => decide (s.txChoice p q ≠ .wait)) = none :=
    List.find?_eq_none.mpr (fun k _ => by rw [h k]; decide)
  rw [exec_frameTransmit]
  unfold execFrameTransmit
  dsimp only
  rw [hnone]
  exact ite_self _

theorem stampTx_room (u : State) (p : Fin 2) (ev : Nat × Nat × Nat) (ph : Nat) (h : u.fnet.ports[p].txq.length < 16) :
    u.stampTx p ev ph = u.modFnet p (fun f => { f with
      txq := f.txq ++ [⟨ev.1, ev.2.1, ev.2.2, f.txqOvf, NetTime.of16 (capture u.netTime ph + ps16 (u.num .FNET_TX_LAT p))⟩], txqOvf := false }) := by
  unfold State.stampTx
  exact if_neg (Nat.not_le.mpr h)

theorem stampTx_full (u : State) (p : Fin 2) (ev : Nat × Nat × Nat) (ph : Nat) (h : 16 ≤ u.fnet.ports[p].txq.length) :
    u.stampTx p ev ph = (u.lintAt .TS_TXQ_OVF p).modFnet p (fun f => { f with txqOvf := true }) := by
  unfold State.stampTx
  exact if_pos h

end

/-- Settles O49: a port that is off does nothing; each row of a port that is on is one branch, and the queue served is the first that does not wait. -/
theorem fieldNetwork : Obligations.FieldNetwork := by
  unfold Obligations.FieldNetwork
  refine fun s p => ⟨port_off, fun hon => ⟨fun r => ?_, fun r => ?_, fun f k => ?_, fun f k hacc => ?_, fun f hacc => ?_, ?_, ?_⟩,
    fun start g hnext => ⟨fun hdue => ?_, fun hwait => ?_⟩, fun ph q h l u hon hup habove hhead hu => ?_, fun ph _ h => frameTransmit_waits ph h⟩
  · rw [fnetLinkChange_on hon]
    exact settled_ends _
  · rw [fnetLinkChange_on hon]
    exact settled_ends _
  · rw [fnetFrameDiscard_on hon]
    exact settled_ends _
  · rw [fnetFrameDiscard_on hon, if_neg (by simp), if_pos (by simp [hacc])]
    exact settled_ends _
  · rw [fnetFrameDiscard_on hon, if_neg (by simp), if_neg (by simp [hacc])]
    exact settled_ends _
  · rintro f a hacc htype rfl hask
    rw [arpRequest_answered hon hacc htype hask]
    exact settled_ends _
  · rintro f src icmp c hacc htype hip rfl
    rw [icmpEcho_answered hon hacc htype hip]
    exact settled_ends _
  · rw [gateCycleStart_next hnext, if_pos hdue]
    exact settled_ends _
  · rw [gateCycleStart_next hnext, if_neg (Nat.not_le.mpr hwait)]
  · have hserves := fun hq => frameTransmit_serves ph hon hup habove hq hhead hu
    have htxq : (u.emit (.frame p q h.bytes)).fnet.ports[p].txq = s.fnet.ports[p].txq := by
      rw [hu]
      show (s.modFnet p (fun f => { f with queues := f.queues.set q l })).fnet.ports[p].txq = _
      rw [modFnet_port]
    refine ⟨fun hc => ?_, fun hc hev => ?_, fun ev hc hev hroom => ?_, fun ev hc hev hfull => ?_⟩
    · rw [hserves (by rw [hc]; decide), if_pos hc]
      exact settled_ends _
    · rw [hserves (by rw [hc]; decide), if_neg (by rw [hc]; decide), hev]
      exact settled_ends _
    · rw [hserves (by rw [hc]; decide), if_neg (by rw [hc]; decide), hev]
      dsimp only
      rw [stampTx_room _ _ _ _ (by rw [htxq]; exact hroom), hu]
      exact settled_ends _
    · rw [hserves (by rw [hc]; decide), if_neg (by rw [hc]; decide), hev]
      dsimp only
      rw [stampTx_full _ _ _ _ (by rw [htxq]; exact hfull)]
      exact settled_ends _

end Sys2Proof.Machine
end

section
/-! SUPPORT. Network time and gPTP: holdover, a write to TS_SET, and messages (R496 to R502). -/

namespace Sys2Proof.Machine

open Sys2Proof

section
variable {s t u : State} {p : Fin 2} {x : Session} {e : Envelope}

/-! ### Holdover (R498, R584) -/

/-- Network time is lost: the counter of unlocks advances, and the unit is LOST. -/
def State.timeLost (s : State) : State := (s.lint .TS_UNLOCK).modTu (fun t => { t with state := .lost, good := 0 })

theorem kernel_timeLost (s : State) : s.timeLost.kernel = s.kernel := (kernel_modTu ..).trans (kernel_lint ..)

theorem holdoverExpire_holdover (h : s.tu.state = .holdover) : exec .holdoverExpire s = lateEnd s (s.timeLost.event 0xA []) := by
  rw [exec_holdoverExpire]
  unfold execHoldoverExpire
  rw [if_pos h]
  rfl

theorem event_asleep (u : State) (n : Nat) (l : List UnitId) (h : u.dev.state = .boot ∨ u.dev.state = .recovery) : u.event n l = u := by
  unfold State.event
  rcases h with h | h <;> rw [h]

theorem timeLost_reports (hs : s.Settled) (h : s.tu.state = .holdover) (hstate : s.dev.state = .inert ∨ s.dev.state = .safe ∨ s.dev.state.active = true)
    (hact : s.numAt .SAF_ACTION 0 9 = 0 ∨ s.numAt .SAF_ACTION 0 9 = 1) :
    ∃ t, exec .holdoverExpire s = .next t ∧ (s.timeLost.modSaf (fun f => { f with latched := setBit f.latched 10 true })).EndsAs t := by
  have hevent : s.timeLost.event 0xA [] = s.timeLost.modSaf (fun f => { f with latched := setBit f.latched 10 true }) := by
    obtain ⟨hreport, hout, -⟩ := event_acts s.timeLost 0xA [] hstate
    exact hact.elim hreport hout
  rw [holdoverExpire_holdover h, hevent]
  exact lateEnd_kernel ((kernel_modSaf _ _ rfl).trans (kernel_timeLost s)) hs

theorem timeLost_safe (hs : s.Settled) (h : s.tu.state = .holdover) (hstate : s.dev.state = .inert ∨ s.dev.state.active = true)
    (harm : s.dev.arming = none) (hact : s.numAt .SAF_ACTION 0 9 = 2) :
    ∃ t, exec .holdoverExpire s = .next t ∧ t.SafeFrom s 5 ∧ t.saf.latched = setBit s.saf.latched 10 true ∧ t.saf.safeEvent = 10 := by
  obtain ⟨a, ha⟩ : ∃ a, (s.timeLost.modSaf (fun f => { f with latched := setBit f.latched 10 true })).modSaf (fun f => { f with safeEvent := 10 }) = a := ⟨_, rfl⟩
  have hkernel : a.kernel = s.kernel := by
    rw [← ha]
    exact (kernel_modSaf _ _ rfl).trans ((kernel_modSaf _ _ rfl).trans (kernel_timeLost s))
  have hdev : a.dev = s.dev := by rw [← ha]; rfl
  have hevs : a.evs = (setBit s.saf.latched 10 true, 10) := by rw [← ha]; rfl
  have hevent : s.timeLost.event 0xA [] = a.enterSafe 5 := by
    rw [(event_acts s.timeLost 0xA [] (hstate.imp_right .inr)).2.2 hact, ha]
    exact safeCause_enters a 5 (by rw [hdev]; exact hstate)
  obtain ⟨t, ht, hsafe, -⟩ := lateEnd_safeFrom 5 s.dev hkernel harm rfl hs
  obtain ⟨t', ht', -, hends⟩ := lateEnd_safe 5 s.dev hkernel harm hs
  obtain rfl : t = t' := Host.Outcome.next.inj (ht.symm.trans ht')
  have hlatched : t.evs = (setBit s.saf.latched 10 true, 10) := by
    rw [← hevs, ← enterSafe_events a 5 (by rw [hdev]; exact harm)]
    exact congrArg (fun f : Safety => (f.latched, f.safeEvent)) hends.saf
  rw [holdoverExpire_holdover h, hevent]
  exact ⟨t, ht, hsafe, congrArg Prod.fst hlatched, congrArg Prod.snd hlatched⟩

/-! ### A write to TS_SET (R499) -/

/-- Network time is set, and the rate is the integral term. -/
def State.timeSet (s : State) (target : Nat) : State :=
  (s.lint .TS_STEP).modTu (fun t => { t.setTotal target with rate := t.servoI })

/-- The step of a write to TS_SET: events of TIME slots that a step forward passes are skipped, and the gate cycles restart. -/
def State.timeStepped (s : State) (target : Nat) : State :=
  if s.tu.total < target then (s.timeSet target).tsSkips.gateRestart else (s.timeSet target).gateRestart

theorem actTsSet_steps {v : Bytes} (hns : fieldAt v 8 4 ≤ 999999999) (hfree : s.num .TS_SOURCE 0 = 0) :
    actTsSet s v = .ok (s.timeStepped (fieldAt v 0 8 * secUnit + fieldAt v 8 4 * nsUnit)) := by
  unfold actTsSet State.timeStepped
  rw [if_neg (Nat.not_lt.mpr hns), if_neg (not_not_intro hfree)]
  dsimp only
  split
  · rename_i h
    rw [if_pos (decide_eq_true_eq.mp h)]
    rfl
  · rename_i h
    rw [if_neg (fun hlt => h (decide_eq_true hlt))]
    rfl

theorem tsSkips_with (s : State) (ss) : (s.withSessions ss).tsSkips = s.tsSkips.withSessions ss := each_with ss _ (fun u n => skip_with u ss n) _ s

theorem gateRestart_with (s : State) (ss) : (s.withSessions ss).gateRestart = s.gateRestart.withSessions ss := each_with ss _ (fun _ _ => rfl) _ s

theorem timeStepped_with (s : State) (ss) (target : Nat) : (s.withSessions ss).timeStepped target = (s.timeStepped target).withSessions ss := by
  have hset : (s.withSessions ss).timeSet target = (s.timeSet target).withSessions ss := rfl
  unfold State.timeStepped
  rw [show (s.withSessions ss).tu = s.tu from rfl, hset, tsSkips_with, gateRestart_with, gateRestart_with]
  exact (apply_ite (State.withSessions · ss) _ _ _).symm

theorem kernel_timeStepped (s : State) (target : Nat) : (s.timeStepped target).kernel = s.kernel := by
  have hset : (s.timeSet target).kernel = s.kernel := (kernel_modTu ..).trans (kernel_lint ..)
  unfold State.timeStepped
  split
  · rw [kernel_gateRestart', kernel_tsSkips', hset]
  · rw [kernel_gateRestart', hset]

theorem tu_gateRestart (u : State) : u.gateRestart.tu = u.tu := each_same State.tu _ _ _ (fun _ _ => rfl)

theorem tu_tsSkips (u : State) : u.tsSkips.tu = u.tu := by
  refine each_same State.tu _ _ _ (fun u n => ?_)
  split <;> rfl

theorem tu_timeStepped (s : State) (target : Nat) : (s.timeStepped target).tu = { s.tu.setTotal target with rate := s.tu.servoI } := by
  unfold State.timeStepped
  split
  · rw [tu_gateRestart, tu_tsSkips]; rfl
  · rw [tu_gateRestart]; rfl

/-- Network time that has been set to whole nanoseconds reads as what was set. -/
theorem netTime_setTotal {sec ns : Nat} (hns : ns ≤ 999999999) (h1 : t.tu.sec = (sec * secUnit + ns * nsUnit) / secUnit)
    (h2 : t.tu.sub = (sec * secUnit + ns * nsUnit) % secUnit) : t.netTime = ⟨sec, ns, 0⟩ := by
  have hlt : ns * nsUnit < secUnit := by unfold secUnit nsUnit; omega
  have hsec : t.tu.sec = sec := by
    rw [h1, Nat.mul_comm, Nat.mul_add_div (by unfold secUnit nsUnit; omega), Nat.div_eq_of_lt hlt, Nat.add_zero]
  have hsub : t.tu.sub = ns * 2 ^ 48 := by
    rw [h2, Nat.mul_comm sec, Nat.mul_add_mod, Nat.mod_eq_of_lt hlt]
    rfl
  have hwhole : (ns * 2 ^ 48) >>> 48 = ns := by rw [Nat.shiftRight_eq_div_pow]; omega
  have hfrac : (ns * 2 ^ 48) >>> 32 % 65536 = 0 := by rw [Nat.shiftRight_eq_div_pow]; omega
  unfold State.netTime
  rw [hsec, hsub, hwhole, hfrac]

theorem tu_bare {a b : State} (h : a.bare = b.bare) : a.tu = b.tu := by
  have hbare : a.bare.tu = b.bare.tu := congrArg State.tu h
  exact hbare

theorem place_tsSet : (placeKey (BitVec.ofNat 16 (Ent.TS_SET.row.index + 0)).toNat (BitVec.ofNat 8 Ent.TS_SET.row.sub).toNat == Ent.RP_LOAD.key 0 0) = false := by
  decide

theorem tsSet_does {ofs : BitVec 64} {b d : Bytes} (hm : s.MayWrite x (wrSeg e .TS_SET 0 ofs d) (.ent .TS_SET 0 0))
    (hb : x.Holds (wrSeg e .TS_SET 0 ofs d) b) (hlast : e.last = true) (hlen : (b ++ d).length = Ent.TS_SET.row.maxLen)
    (hns : fieldAt (b ++ d) 8 4 ≤ 999999999) (hfree : s.num .TS_SOURCE 0 = 0) :
    ∃ t, exec (.tsSet e ofs d) s = .next t ∧
      (s.timeStepped (fieldAt (b ++ d) 0 8 * secUnit + fieldAt (b ++ d) 8 4 * nsUnit)).RespondsAs t (wrSeg e .TS_SET 0 ofs d) .ok ∧
      t.netTime = ⟨fieldAt (b ++ d) 0 8, fieldAt (b ++ d) 8 4, 0⟩ := by
  generalize htarget : fieldAt (b ++ d) 0 8 * secUnit + fieldAt (b ++ d) 8 4 * nsUnit = target
  have hkernel := kernel_timeStepped s target
  obtain ⟨t, ht, hresp⟩ := seg_does s x e .TS_SET 0 ofs b d (s.timeStepped target) hm rfl hb hlast (if_pos hlen) (.inl place_tsSet) rfl rfl
    (fun ss => by rw [act_TS_SET, actTsSet_steps (s := s.withSessions ss) hns hfree, timeStepped_with, htarget])
    (quiet_same (congrArg Squad.ports (squad_kernel hkernel))) ((congrArg Squad.cmd (squad_kernel hkernel)).trans hm.settled.2)
    (fun hc => (crewsShort_kernel hkernel).symm.trans hc)
  have htu : t.tu = { s.tu.setTotal target with rate := s.tu.servoI } := (tu_bare hresp.rest).trans (tu_timeStepped s target)
  refine ⟨t, ht, hresp, netTime_setTotal hns ?_ ?_⟩
  · rw [htarget, htu]; rfl
  · rw [htarget, htu]; rfl

/-! ### Messages of gPTP (R501, R502) -/

theorem ptpMessage_accepted {frame : Bytes} (ph : BitVec 3) (hon : s.fnet.ports[p].on = true) (hacc : s.accepts p frame = true)
    (htype : (ethFrame frame).etype = 0x88F7) : exec (.ptpMessage p frame true ph) s =
      if ¬ s.flag .PTP_ENABLE p ∨ fieldAt (ethFrame frame).payload 4 1 ≠ s.num .PTP_DOMAIN 0 ∨ (ethFrame frame).payload.length < 34 then
        settled (s.lint .PTP_DISCARD)
      else
        let rx := NetTime.of16 (capture s.netTime ph.toNat - ps16 (s.num .FNET_RX_LAT p))
        let g := Config.gptp s.gptpView p (ethFrame frame).payload rx
        if g.discard then settled (s.lint .PTP_DISCARD)
        else
          let s1 := (s.modFnet 0 (fun f => f.take g.port0)).modFnet 1 (fun f => f.take g.port1)
          let s2 := { s1 with fnet := { s1.fnet with gmId := g.gm.getD s.clockId } }
          let s3 := match g.utc with
            | some u => s2.setNum .TS_UTC_OFFSET 0 (u % 65536)
            | none => s2
          let s4 := match g.respond with
            | some q => s3.queueGptp p .pdelayResp (q % 65536) rx
            | none => s3
          let s5 := s4.tsReselect
          match g.theta with
          | some th => settled (if s5.tsSource = 1 then s5.measure th else s5)
          | none => settled s5 := by
  rw [exec_ptpMessage]
  unfold execPtpMessage
  rw [if_neg (not_not_intro hon), if_neg (by simp), if_neg (by simp [hacc, htype])] <;> rfl

/-- What an accepted message makes of the PTP ports and the grandmaster (R501). -/
def State.gptpTaken (s : State) (g : GptpResult) : State :=
  let s1 := (s.modFnet 0 (fun f => f.take g.port0)).modFnet 1 (fun f => f.take g.port1)
  { s1 with fnet := { s1.fnet with gmId := g.gm.getD s.clockId } }

theorem ptpMessage_taken {frame : Bytes} {ph : BitVec 3} {g : GptpResult} (hon : s.fnet.ports[p].on = true) (hacc : s.accepts p frame = true)
    (htype : (ethFrame frame).etype = 0x88F7) (hptp : s.flag .PTP_ENABLE p = true) (hdomain : fieldAt (ethFrame frame).payload 4 1 = s.num .PTP_DOMAIN 0)
    (hlen : 34 ≤ (ethFrame frame).payload.length)
    (hg : g = Config.gptp s.gptpView p (ethFrame frame).payload (NetTime.of16 (capture s.netTime ph.toNat - ps16 (s.num .FNET_RX_LAT p))))
    (hkeep : g.discard = false) (hutc : g.utc = none) (hrespond : g.respond = none) : exec (.ptpMessage p frame true ph) s =
      settled (match g.theta with
        | some th => if (s.gptpTaken g).tsReselect.tsSource = 1 then (s.gptpTaken g).tsReselect.measure th else (s.gptpTaken g).tsReselect
        | none => (s.gptpTaken g).tsReselect) := by
  rw [ptpMessage_accepted ph hon hacc htype, if_neg (not_or.mpr ⟨not_not_intro hptp, not_or.mpr ⟨not_not_intro hdomain, Nat.not_lt.mpr hlen⟩⟩)]
  dsimp only
  rw [← hg, hkeep, hutc, hrespond, if_neg (by decide)]
  dsimp only
  cases g.theta <;> rfl

theorem ptpMessage_discards {frame : Bytes} (ph : BitVec 3) (hon : s.fnet.ports[p].on = true) (hacc : s.accepts p frame = true)
    (htype : (ethFrame frame).etype = 0x88F7) (hnot : s.flag .PTP_ENABLE p = false ∨ fieldAt (ethFrame frame).payload 4 1 ≠ s.num .PTP_DOMAIN 0) :
    exec (.ptpMessage p frame true ph) s = settled (s.lint .PTP_DISCARD) := by
  rw [ptpMessage_accepted ph hon hacc htype]
  exact if_pos (hnot.elim (fun h => .inl (ne_true_of_eq_false h)) (fun h => .inr (.inl h)))

/-! ### Message intervals (R501, R502) -/

/-- What a port sends when an interval elapses: a MASTER its Sync (0) or its Announce (2), any port the request for its link delay (1). -/
def State.intervalSends (u : State) (p : Fin 2) (k : Fin 3) : State :=
  match k with
  | 0 => if u.fnet.ports[p].ptpState = 1 then
      (u.queueGptp p .sync u.fnet.ports[p].syncSeq u.netTime).modFnet p (fun f => { f with syncSeq := wrapAdd 16 f.syncSeq 1 }) else u
  | 1 => (u.queueGptp p .pdelayReq u.fnet.ports[p].pdelaySeq u.netTime).modFnet p (fun f => { f with pdelaySeq := wrapAdd 16 f.pdelaySeq 1 })
  | 2 => if u.fnet.ports[p].ptpState = 1 then
      (u.queueGptp p .announce u.fnet.ports[p].announceSeq u.netTime).modFnet p (fun f => { f with announceSeq := wrapAdd 16 f.announceSeq 1 }) else u

theorem intervalSends_idle {k : Fin 3} (hk : k ≠ 1) (h : u.fnet.ports[p].ptpState ≠ 1) : u.intervalSends p k = u := by
  match k with
  | 0 => exact if_neg h
  | 1 => exact absurd rfl hk
  | 2 => exact if_neg h

theorem ptpMessageInterval_due (k : Fin 3) (hon : s.fnet.ports[p].on = true) (hptp : s.flag .PTP_ENABLE p = true) (hup : s.fnet.ports[p].linkUp = true)
    (hstays : (s.ptpSettings p).flag .PTP_ENABLE p = true) (hu : u = (s.ptpSettings p).readStamps p) :
    exec (.ptpMessageInterval p k) s = settled (u.intervalSends p k) := by
  rw [exec_ptpMessageInterval, hu]
  unfold execPtpMessageInterval
  rw [if_neg (not_or.mpr ⟨not_not_intro hon, not_or.mpr ⟨not_not_intro hptp, not_not_intro hup⟩⟩)]
  dsimp only
  rw [if_neg (not_not_intro hstays)]
  match k with
  | 0 => exact (apply_ite settled _ _ _).symm
  | 1 => rfl
  | 2 => exact (apply_ite settled _ _ _).symm

end

/-- Settles O48: holdover and its event by the action of TIME_LOST, the write to TS_SET as one step of network time, and each gPTP row by its branch. -/
theorem networkTime : Obligations.NetworkTime := by
  unfold Obligations.NetworkTime
  refine fun s => ⟨fun h => ?_, fun h => ?_, fun hs h => ?_, ?_, ?_, ?_, fun p u hon hptp hup hstays hu => ?_⟩
  · rw [exec_tsMeasurementMissing]; unfold execTsMeasurementMissing; rw [if_pos h]
    exact settled_ends _
  · rw [exec_tsMeasurementMissing]; unfold execTsMeasurementMissing; rw [if_neg h]
    exact settled_ends _
  · rw [exec_holdoverExpire]; unfold execHoldoverExpire; rw [if_neg h]
    exact lateEnd_kernel rfl hs
  · rintro a hs h rfl
    refine ⟨fun hasleep => ?_, timeLost_reports hs h, timeLost_safe hs h⟩
    rw [holdoverExpire_holdover h, event_asleep s.timeLost _ _ hasleep]
    exact lateEnd_kernel (kernel_timeLost s) hs
  · rintro x e ofs b d v target rfl hm hb hlast hlen hns hfree rfl
    exact tsSet_does hm hb hlast hlen hns hfree
  · rintro p frame ph m hon hacc htype rfl
    refine ⟨fun hnot => ?_, ?_⟩
    · rw [ptpMessage_discards ph hon hacc htype hnot]
      exact settled_ends _
    · rintro g u hptp hdomain hlen hg hkeep hutc hrespond hu
      obtain rfl : u = s.gptpTaken g := hu
      have hrow := ptpMessage_taken hon hacc htype hptp hdomain hlen hg hkeep hutc hrespond
      refine ⟨fun hidle => ?_, fun th hth hsource => ?_⟩
      · rw [hrow]
        split
        · rename_i th hth
          rw [if_neg (hidle.resolve_left (fun hnone => nomatch hth.symm.trans hnone))]
          exact settled_ends _
        · exact settled_ends _
      · rw [hrow, hth]
        dsimp only
        rw [if_pos hsource]
        exact settled_ends _
  · have hrow := fun k => ptpMessageInterval_due k hon hptp hup hstays hu
    refine ⟨fun k hk hidle => ?_, fun hmaster => ⟨?_, ?_⟩, ?_⟩
    · rw [hrow k, intervalSends_idle hk hidle]
      exact settled_ends _
    · rw [hrow 0, show u.intervalSends p 0 = _ from if_pos hmaster]
      exact settled_ends _
    · rw [hrow 2, show u.intervalSends p 2 = _ from if_pos hmaster]
      exact settled_ends _
    · rw [hrow 1]
      exact settled_ends _

end Sys2Proof.Machine
end

section
/-! SUPPORT. The queue and one step of the device: how a row of the table ends, and that every end leaves RUN and DEGRADED to the units in
service (R16, R28, R37, R492, R586, R641). -/

namespace Sys2Proof.Machine

open Sys2Proof

/-! ### The queue, the idle cycle and reset -/

/-- Settles O1: `step` pops the command at the front and runs it. -/
theorem stepRunsFrontCommand : Obligations.StepRunsFrontCommand := by
  unfold Obligations.StepRunsFrontCommand
  intro s c q hpending
  rw [step, hpending]

theorem step_empty {s : State} (hpending : s.pending = []) : step s = .next s.idleCycle := by rw [step, hpending]

theorem idleCycle_asleep {s : State} (h : s.dev.state = .off ∨ s.dev.state = .reset) : s.idleCycle = s := by
  unfold State.idleCycle
  rcases h with h | h <;> rw [h]

/-- A cycle of a powered device out of RESET changes the time unit and the lost time alone. -/
theorem idleCycle_awake {s : State} (hoff : s.dev.state ≠ .off) (hreset : s.dev.state ≠ .reset) :
    s.idleCycle = { s with tu := s.tu.tick, saf := { s.saf with lostTs := s.saf.lostTs + if s.lineLost then 1 else 0 } } := by
  unfold State.idleCycle
  split
  · contradiction
  · contradiction
  · dsimp only
    split <;> rfl

/-- Settles O2: the cycle of `idleCycle_awake` ticks TS_MONO. -/
theorem idleStep : Obligations.IdleStep := by
  unfold Obligations.IdleStep
  intro s hpending
  rw [step_empty hpending]
  refine ⟨fun h => by rw [idleCycle_asleep h], fun hoff hreset => ⟨_, rfl, ?_⟩⟩
  rw [idleCycle_awake hoff hreset]
  exact ⟨rfl, rfl, rfl⟩

/-- A state in neither RUN nor DEGRADED is graded. -/
theorem graded_of_not_runs {s : State} (h : s.dev.state.runs = false) : s.Graded :=
  ⟨fun hrun => absurd h (by rw [hrun]; decide), fun hdegraded => absurd h (by rw [hdegraded]; decide)⟩

/-- Settles O4: reset is in BOOT, and its memories are empty but for the fused ID_CREW_FUSED. -/
theorem resetIsGood : Obligations.ResetIsGood := by
  unfold Obligations.ResetIsGood
  refine ⟨graded_of_not_runs rfl, by decide, rfl, rfl, rfl, fun c => ?_⟩
  have empty : State.reset.mem.scratch[c] = [] := by simp [State.reset, Mem.init]
  rw [empty]
  rfl

/-- Settles O8: `DevState.code` is the table of R37, and `DEV_STATE` reads it. -/
theorem stateCodes : Obligations.StateCodes := by
  unfold Obligations.StateCodes
  refine ⟨⟨rfl, rfl, rfl, rfl, rfl, rfl, rfl, rfl, rfl⟩, fun d => ?_, fun s => rfl⟩
  cases d <;> decide

end Sys2Proof.Machine
end

section
/-! SUPPORT. How each row of the table ends: it leaves the state as it is, or by `settled`, `done`, `finish` or `lateEnd`. Each of these answers
a graded next state (R28). -/

namespace Sys2Proof.Machine

open Sys2Proof

/-- The ways in which a row that begins in `s` ends. -/
inductive State.RowEnd (s : State) : Host.Outcome State Fault Refusal → Prop
  | stays : s.RowEnd (.next s)
  | settles (t : State) : s.RowEnd (settled t)
  | does (t : State) : s.RowEnd (done s t)
  | finishes (t : State) : s.RowEnd (finish s t)
  | ends (t : State) : s.RowEnd (lateEnd s t)

namespace State.RowEnd

variable {s : State} {a b : Host.Outcome State Fault Refusal}

/-- A row that ends so answers a next state, and a graded one where it began in a graded one. -/
theorem keeps_grade (h : s.RowEnd a) : ∃ t, a = .next t ∧ (s.Graded → t.Graded) := by
  have graded {o : Host.Outcome State Fault Refusal} : (∃ t, o = .next t ∧ t.Graded) → ∃ t, o = .next t ∧ (s.Graded → t.Graded) :=
    fun ⟨t, ht, hgraded⟩ => ⟨t, ht, fun _ => hgraded⟩
  cases h with
  | stays => exact ⟨s, rfl, id⟩
  | settles t => exact graded (settled_graded t)
  | does t => exact graded (done_graded s t)
  | finishes t => exact graded (finish_graded s t)
  | ends t => exact graded (lateEnd_graded s t)

theorem ite {c : Prop} [Decidable c] (ha : s.RowEnd a) (hb : s.RowEnd b) : s.RowEnd (if c then a else b) := by
  split
  · exact ha
  · exact hb

theorem request (r : Request) : s.RowEnd (odRow s r) := .ends _

end State.RowEnd

section
variable (s : State)

/-! ### The oars -/

/-- An instruction that an oar does not run leaves it as it is; a fetch that fails is an access fault. -/
theorem rowEnd_oarStep (c : Fin 6) (l : Fin 512) (k : OarKind) (f : Oar → Nat → Nat → State) : s.RowEnd (s.oarStep c l k f) := by
  unfold State.oarStep
  split
  · exact .stays
  · refine .ite .stays ?_
    split
    · exact .finishes _
    · exact .ite (.finishes _) .stays

variable (c : Fin 6) (l : Fin 512)

theorem rowEnd_oarBudgetExpire : s.RowEnd (execOarBudgetExpire c l s) := by
  unfold execOarBudgetExpire
  split
  · exact .stays
  · exact .finishes _

theorem rowEnd_oarAccessReturn (e : Option EccError) : s.RowEnd (execOarAccessReturn c l e s) := by
  unfold execOarAccessReturn
  split
  · exact .stays
  · split
    · exact .stays
    · refine .ite .stays ?_
      dsimp only
      split
      · exact .finishes _
      · split
        · exact .finishes _
        · split
          · exact .finishes _
          · exact .finishes _

theorem rowEnd_slvSendResume : s.RowEnd (execSlvSendResume c l s) := by
  unfold execSlvSendResume
  split
  · exact .stays
  · split
    · exact .ite .stays (.finishes _)
    · exact .stays

theorem rowEnd_slvRecordArrive (right : Bool) : s.RowEnd (execSlvRecordArrive c l right s) := by
  unfold execSlvRecordArrive
  split
  · exact .stays
  · split
    · exact .stays
    · dsimp only
      split
      · exact .ite (.finishes _) (.finishes _)
      · exact .finishes _

theorem rowEnd_slvBarComplete : s.RowEnd (execSlvBarComplete c l s) := by
  unfold execSlvBarComplete
  split
  · exact .stays
  · split
    · exact .ite (.finishes _) .stays
    · exact .stays

theorem rowEnd_oarInvocationStart (k : Fin 64) (stroke pass : BitVec 32) (sliver : BitVec 16) :
    s.RowEnd (execOarInvocationStart k stroke pass sliver s) := by
  unfold execOarInvocationStart
  split
  · exact .stays
  · split
    · exact .ite .stays (.ite (.finishes _) (.ite .stays (.ite .stays (.finishes _))))
    · exact .stays

end

section
variable (s : State)

/-! ### The field side -/

theorem rowEnd_filterTick (mv hot wire) : s.RowEnd (execFilterTick mv hot wire s) := by
  unfold execFilterTick
  split
  case h_5 => exact .does _
  all_goals exact .stays

theorem rowEnd_overload (n) : s.RowEnd (execOverload n s) := .ite (.does _) .stays
theorem rowEnd_overtemp (n) : s.RowEnd (execOvertemp n s) := .ite (.does _) (.settles _)
theorem rowEnd_groupLimit (g ma) : s.RowEnd (execGroupLimit g ma s) := .ite .stays (.does _)
theorem rowEnd_openLoad (n) : s.RowEnd (execOpenLoad n s) := .ite (.does _) .stays
theorem rowEnd_openWire (n) : s.RowEnd (execOpenWire n s) := .ite (.does _) .stays
theorem rowEnd_fieldSupplyFault (g mv) : s.RowEnd (execFieldSupplyFault g mv s) := .ite (.settles _) (.does _)
theorem rowEnd_fieldSupplyClear (g mv) : s.RowEnd (execFieldSupplyClear g mv s) := .ite (.settles _) (.settles _)
theorem rowEnd_faultRetry (n) : s.RowEnd (execFaultRetry n s) := .ite .stays (.settles _)
theorem rowEnd_encCount (n a b dt) : s.RowEnd (execEncCount n a b dt s) :=
  .ite .stays (.ite (.ite (.settles _) (.ite (.settles _) (.does _))) (.ite (.does _) (.settles _)))
theorem rowEnd_encReference (n) : s.RowEnd (execEncReference n s) := .ite (.does _) .stays
theorem rowEnd_wireFault (n) : s.RowEnd (execWireFault n s) := .ite (.does _) .stays
theorem rowEnd_quadFault (n) : s.RowEnd (execQuadFault n s) := .ite (.does _) .stays
theorem rowEnd_overspeedFault (n) : s.RowEnd (execOverspeedFault n s) := .ite (.does _) .stays
theorem rowEnd_timeSlotEvent (n) : s.RowEnd (execTimeSlotEvent n s) := .ite (.does _) .stays

theorem rowEnd_divPulseDeferred (e) : s.RowEnd (execDivPulseDeferred e s) := by
  unfold execDivPulseDeferred
  split
  · exact .stays
  · exact .ite (.settles _) .stays

theorem rowEnd_pulseWidthEnd (out) : s.RowEnd (execPulseWidthEnd out s) := by
  cases out with
  | cam p => exact .ite (.settles _) .stays
  | enco e =>
    unfold execPulseWidthEnd
    dsimp only
    split
    · exact .ite (.settles _) .stays
    · exact .stays
  | slot n => exact .settles _

/-! ### The camera ports -/

theorem rowEnd_camLineEnd (port beats fval lost time mono pos) : s.RowEnd (execCamLineEnd port beats fval lost time mono pos s) :=
  .ite (.does _) .stays
theorem rowEnd_camTriggerTimeout (port) : s.RowEnd (execCamTriggerTimeout port s) := .ite (.does _) .stays
theorem rowEnd_camTrigDeferred (port) : s.RowEnd (execCamTrigDeferred port s) := .ite (.does _) .stays
theorem rowEnd_blankingPeriodEnd (port beats) : s.RowEnd (execBlankingPeriodEnd port beats s) := .ite (.ite .stays (.settles _)) .stays

theorem rowEnd_swathClose (port) : s.RowEnd (execSwathClose port s) := by
  unfold execSwathClose
  split
  · exact .ite (.does _) .stays
  · exact .stays

theorem rowEnd_swathBufferRelease (port) : s.RowEnd (execSwathBufferRelease port s) := by
  unfold execSwathBufferRelease
  dsimp only
  split
  · exact .stays
  · exact .settles _

theorem rowEnd_mangleSwathDone (port) : s.RowEnd (execMangleSwathDone port s) := by
  unfold execMangleSwathDone
  split
  · exact .stays
  · exact .settles _

theorem rowEnd_roiListBuild (port) : s.RowEnd (execRoiListBuild port s) := by
  unfold execRoiListBuild
  split
  · exact .stays
  · exact .does _

/-! ### The field network -/

theorem rowEnd_fnetFrameDiscard (port frame fcs full) : s.RowEnd (execFnetFrameDiscard port frame fcs full s) :=
  .ite .stays (.ite (.settles _) (.ite (.settles _) (.ite (.settles _) .stays)))
theorem rowEnd_arpRequest (port frame fcs) : s.RowEnd (execArpRequest port frame fcs s) :=
  .ite .stays (.ite (.settles _) (.ite (.settles _) (.ite (.settles _) (.settles _))))

theorem rowEnd_icmpEcho (port frame fcs) : s.RowEnd (execIcmpEcho port frame fcs s) := by
  refine .ite .stays (.ite (.settles _) (.ite (.settles _) ?_))
  dsimp only
  split
  · exact .settles _
  · exact .settles _

theorem rowEnd_fnetLinkChange (port up rate) : s.RowEnd (execFnetLinkChange port up rate s) := .ite .stays (.settles _)

theorem rowEnd_ptpMessage (port frame fcs phase) : s.RowEnd (execPtpMessage port frame fcs phase s) := by
  refine .ite .stays (.ite (.settles _) (.ite (.settles _) (.ite (.settles _) (.ite (.settles _) ?_))))
  generalize (Config.gptp _ _ _ _).theta = theta
  cases theta with
  | none => exact .settles _
  | some th => exact .settles _

theorem rowEnd_ptpMessageInterval (port kind) : s.RowEnd (execPtpMessageInterval port kind s) := by
  refine .ite .stays (.ite (.settles _) ?_)
  split
  · exact .ite (.settles _) (.settles _)
  · exact .settles _
  · exact .ite (.settles _) (.settles _)

theorem rowEnd_gateCycleStart (port) : s.RowEnd (execGateCycleStart port s) := by
  unfold execGateCycleStart
  split
  · exact .ite (.settles _) .stays
  · exact .stays

theorem rowEnd_frameTransmit (port phase) : s.RowEnd (execFrameTransmit port phase s) := by
  refine .ite .stays ?_
  split
  · exact .stays
  · split
    · exact .stays
    · exact .ite (.settles _) (.settles _)

theorem rowEnd_txImageSnapshot : s.RowEnd (execTxImageSnapshot s) := by
  unfold execTxImageSnapshot
  split
  · exact .ite (.settles _) .stays
  · exact .stays

theorem rowEnd_rxImageReceive (port frame) : s.RowEnd (execRxImageReceive port frame s) :=
  .ite .stays (.ite (.settles _) (.ite (.settles _) (.settles _)))
theorem rowEnd_cycleStart : s.RowEnd (execCycleStart s) := .ite (.ends _) (.ends _)
theorem rowEnd_watchdogTrip : s.RowEnd (execWatchdogTrip s) := .ite .stays (.ite (.ends _) (.ends _))

end

section
variable (s : State)

/-! ### The shells and the engines -/

theorem rowEnd_heldPacketRelease (crew shell sub) : s.RowEnd (execHeldPacketRelease crew shell sub s) := by
  unfold execHeldPacketRelease
  split
  · exact .stays
  · split
    · exact .finishes _
    · exact .stays

theorem rowEnd_rowReadout (crew shell row upset differ) : s.RowEnd (execRowReadout crew shell row upset differ s) := by
  unfold execRowReadout
  split
  · exact .stays
  · split
    · exact .settles _
    · split
      · split
        · exact .stays
        · exact .ite .stays (.ite (.finishes _) (.ite (.finishes _) (.finishes _)))
      · exact .stays

theorem rowEnd_foldPass (k stroke pass differ) : s.RowEnd (execFoldPass k stroke pass differ s) := by
  unfold execFoldPass
  split
  · exact .stays
  · split
    · exact .ite .stays (.ite (.ite (.finishes _) (.finishes _)) (.finishes _))
    · exact .stays

theorem rowEnd_scullPass (k stroke pass error) : s.RowEnd (execScullPass k stroke pass error s) := by
  unfold execScullPass
  split
  · exact .stays
  · split
    · exact .ite .stays (.ite (.finishes _) (.finishes _))
    · exact .stays

theorem rowEnd_sweepPass (k stroke pass error) : s.RowEnd (execSweepPass k stroke pass error s) := by
  unfold execSweepPass
  split
  · exact .stays
  · split
    · exact .ite .stays (.ite (.finishes _) (.ite (.finishes _) (.finishes _)))
    · exact .stays

theorem rowEnd_cropCut (k stroke pass) : s.RowEnd (execCropCut k stroke pass s) := by
  unfold execCropCut
  split
  · exact .stays
  · split
    · exact .ite .stays (.finishes _)
    · exact .stays

theorem rowEnd_pressEncode (k stroke pass row block) : s.RowEnd (execPressEncode k stroke pass row block s) := by
  unfold execPressEncode
  split
  · exact .stays
  · split
    · exact .stays
    · dsimp only
      split
      · exact .stays
      · refine .ite .stays ?_
        split
        · exact .finishes _
        · exact .finishes _

theorem rowEnd_pressDecode (k stroke block) : s.RowEnd (execPressDecode k stroke block s) := by
  unfold execPressDecode
  split
  · exact .stays
  · split
    · exact .stays
    · exact .ite .stays (.finishes _)

theorem rowEnd_strokeComplete (k stroke) : s.RowEnd (execStrokeComplete k stroke s) := by
  unfold execStrokeComplete
  dsimp only
  split
  · exact .stays
  · split
    · exact .stays
    · exact .ite .stays (.finishes _)

/-! ### Memory -/

theorem rowEnd_scrubGroup (group flips) : s.RowEnd (execScrubGroup group flips s) := .ite .stays (.finishes _)
theorem rowEnd_lpddrGroupRead (group flips k crew stroke pass bad) :
    s.RowEnd (execLpddrGroupRead group flips k crew stroke pass bad s) :=
  .ite .stays (.ite (.finishes _) (.ite (.finishes _) (.finishes _)))
theorem rowEnd_lpddrGroupWrite (group offset data) : s.RowEnd (execLpddrGroupWrite group offset data s) := .ite .stays (.finishes _)

theorem rowEnd_streamTransfer (k sd crew stroke pass data ecc bad) :
    s.RowEnd (execStreamTransfer k sd crew stroke pass data ecc bad s) := by
  unfold execStreamTransfer
  split
  · exact .stays
  · refine .ite (.finishes _) (.ite (.finishes _) ?_)
    split
    · exact .finishes _
    · split
      · exact .finishes _
      · exact .ite (.finishes _) (.ite (.finishes _) (.finishes _))

end

section
variable (s : State)

/-! ### Heats, pages and the retune service -/

theorem rowEnd_kvBoundary (part) : s.RowEnd (execKvBoundary part s) := by
  unfold execKvBoundary
  split
  · exact .stays
  · dsimp only
    split
    · exact .ite (.ite (.finishes _) (.finishes _)) (.finishes _)
    · exact .ite .stays (.finishes _)

theorem rowEnd_saveDone : s.RowEnd (execSaveDone s) := by
  unfold execSaveDone
  split
  · split
    · exact .stays
    · exact .ite (.finishes _) (.finishes _)
  · exact .stays

theorem rowEnd_restoreDone (good) : s.RowEnd (execRestoreDone good s) := by
  unfold execRestoreDone
  split
  · split
    · exact .stays
    · dsimp only
      split
      · exact .finishes _
      · exact .ite (.finishes _) (.finishes _)
  · exact .stays

theorem rowEnd_regulatorWindow : s.RowEnd (execRegulatorWindow s) := .ite .stays (.settles _)

theorem rowEnd_settleComplete (crew) : s.RowEnd (execSettleComplete crew s) := by
  unfold execSettleComplete
  split
  · exact .stays
  · exact .settles _

theorem rowEnd_decodeRequest (part) : s.RowEnd (execDecodeRequest part s) := by
  unfold execDecodeRequest
  split
  · exact .stays
  · exact .ite (.settles _) .stays

theorem rowEnd_retuneStepRequest (part) : s.RowEnd (execRetuneStepRequest part s) := by
  unfold execRetuneStepRequest
  split
  · exact .stays
  · exact .ite (.settles _) .stays

theorem rowEnd_publicationRelease (part) : s.RowEnd (execPublicationRelease part s) := by
  unfold execPublicationRelease
  split
  · exact .stays
  · exact .ite (.settles _) .stays

theorem rowEnd_heatComplete (k sub unread) : s.RowEnd (execHeatComplete k sub unread s) := by
  unfold execHeatComplete
  split
  · exact .stays
  · exact .ite .stays (.ite (.finishes _) (.ite (.finishes _) (.ite (.finishes _) (.finishes _))))

theorem rowEnd_rotaPeriodBoundary : s.RowEnd (execRotaPeriodBoundary s) := .ite (.finishes _) .stays

/-! ### The supervisor -/

theorem rowEnd_swathWatchdog (port cnt) : s.RowEnd (execSwathWatchdog port cnt s) := by
  refine .ite .stays ?_
  split
  · exact .settles _
  · exact .finishes _

theorem rowEnd_rinseOverdue (slice) : s.RowEnd (execRinseOverdue slice s) := by
  refine .ite .stays ?_
  dsimp only
  split
  · exact .finishes _
  · exact .ite (.finishes _) (.finishes _)

theorem rowEnd_lostTimeStore : s.RowEnd (execLostTimeStore s) := by
  unfold execLostTimeStore
  split
  case h_6 => exact .stays
  all_goals exact .settles _

/-! ### Sessions, boot and recovery -/

theorem rowEnd_sessionTimeout (handle) : s.RowEnd (execSessionTimeout handle s) := by
  unfold execSessionTimeout
  split
  · exact .ends _
  · exact .stays

theorem rowEnd_bootStep (r) : s.RowEnd (execBootStep r s) := .ite .stays (.ends _)

/-- The flash has every address that the board programmer writes while it reaches the flash (R12, R595). -/
theorem rowEnd_boardProgrammerFlashWrite (addr data) (hin : s.dev.state = .reset → addr.toNat + data.length ≤ 0x4000000) :
    s.RowEnd (execBoardProgrammerFlashWrite addr data s) := by
  unfold execBoardProgrammerFlashWrite
  split
  · exact .stays
  · rename_i hreset
    rw [if_neg (Nat.not_lt.mpr (hin (Decidable.not_not.mp hreset)))]
    exact .settles _

theorem rowEnd_installComplete (good) : s.RowEnd (execInstallComplete good s) := by
  unfold execInstallComplete
  split
  · exact .ite (.ends _) .stays
  · exact .stays

/-! ### The PCIe function -/

theorem rowEnd_goWordWrite (mailbox cell message go) : s.RowEnd (execGoWordWrite mailbox cell message go s) :=
  .ite .stays (.ite (.settles _) (.ite (.settles _) (.ends _)))

theorem rowEnd_bulkApertureRead (offset length) : s.RowEnd (execBulkApertureRead offset length s) := by
  refine .ite .stays (.ite (.settles _) ?_)
  split
  · exact .settles _
  · exact .finishes _

theorem rowEnd_bulkApertureWrite (offset data) : s.RowEnd (execBulkApertureWrite offset data s) := by
  refine .ite .stays (.ite (.settles _) ?_)
  split
  · exact .settles _
  · exact .finishes _

theorem rowEnd_odWrite (list host good) : s.RowEnd (execOdWrite list host good s) := by
  unfold execOdWrite
  dsimp only
  split
  · exact .stays
  · split
    · exact .ends _
    · split
      · exact .ends _
      · refine .ite (.ends _) (.ite (.ite (.ends _) (.ends _)) ?_)
        split
        · exact .ends _
        · exact .ite (.ends _) (.ends _)

theorem rowEnd_odRead (list) : s.RowEnd (execOdRead list s) := by
  unfold execOdRead
  dsimp only
  split
  · exact .stays
  · split
    · exact .ends _
    · exact .ite (.ends _) (.ite (.ends _) (.ends _))

theorem rowEnd_bulkIn (list host good) : s.RowEnd (execBulkIn list host good s) := by
  unfold execBulkIn
  dsimp only
  split
  · exact .stays
  · exact .ite (.ends _) (.ends _)

theorem rowEnd_bulkOut (list) : s.RowEnd (execBulkOut list s) := by
  unfold execBulkOut
  dsimp only
  split
  · exact .stays
  · exact .ends _

theorem rowEnd_archive (list) : s.RowEnd (execArchive list s) := by
  unfold execArchive
  dsimp only
  split
  · exact .stays
  · exact .ends _

theorem rowEnd_xlEntryComplete (list) : s.RowEnd (execXlEntryComplete list s) := by
  unfold execXlEntryComplete
  split
  · exact .stays
  · split
    · exact .ite (.ends _) .stays
    · exact .ite (.ends _) (.ite (.ends _) (.ends _))
    · exact .ends _

end

/-! ### Every row -/

/-- Every row ends so, but for a write of the board programmer past the flash. -/
theorem exec_rowEnd (i : Instr) (s : State)
    (hin : ∀ addr data, i = .boardProgrammerFlashWrite addr data → s.dev.state = .reset → addr.toNat + data.length ≤ 0x4000000) :
    s.RowEnd (exec i s) := by
  cases i with
  | commandNone | arm | disarm | start | stop | safe | safeAck | warmRestart | reset | openSession | closeSession | keepalive | read | write | info |
    readAndClear | commit | discard | pciXlSubmit | pciXlAbort | rpLoad | rpUnload | coxBgRequest | kvCancel | kvTreeFlush | detGenIn | detReplaySwath
    | detReplaySeq | detReplayState | rack | wake | injectSingle | injectPeriodic | injectStop | fioAck | fioForceOff | encAck | fireStopAck | tsSet |
    safEventAck | bootFwImage | bootFwInstall | bootRbAdvance | bootOwnerKey | bootRevoke | bootAttestNonce | bootPkgStore | bootPkgUnstore | rtAdd |
    rtRemove | rtPublish | rtRestart =>
    exact .request _
  | powerUp | porstNAssert | porstNRelease | jtagReset | supplyLoss | supplyBrownout | supplyOutOfWindow | supplyGlitch | riggerLinkLoss |
    riggerLinkUp | riggerHeartbeatLoss | riggerHeartbeatReturn | rootPllUnlock | thermSample | coachWatchdogExpiry | coachHeartbeatMiss |
    lockstepMismatch | armDone | stopToArmed | commitTakeEffect | pcieFunctionReset | squelchOpen | commaBlock | trainBlock | equalizeEvaluation |
    skipBlock | easyBlock | rackBlock | bringupTimeout | failedRetry | commaMissing | easyIdleExpire | easyExit | periodicInjection | cellReceive |
    replayTimeout | nakExpire | ackDue | timeExchangeStart | timeRequest | timeResponse | hello | topology | form | formAck | formTimeout |
    heartbeatSend | heartbeat | memberLost | broken | command | commandDone | admitHeat | spanPartStart | done | kvDecision | kvReport | load |
    loadResult | holdoverExpire | attestReportReady | recoveryHello | recoveryData | recoveryInstall | recoveryBoot | recoveryOwnerTimeout |
    internalResetRelease | patternCheckerSync =>
    exact .ends _
  | weightTileLoad | wavefrontEnter | heatOvertime | rinseSliceDone | engineMismatch | controlMismatch =>
    exact .finishes _
  | fireOffTime | tsMeasurementMissing | openWireClear | openLoadClear =>
    exact .settles _
  | refreshSlot =>
    exact .stays
  | oarLoadStore | slvGet | slvPut | slvSend | slvRecv | slvBar | pminuB | pmaxuB | paddusB | psubusB | pcmpgeuB | psadB | fcvtSBf | fcvtBfS | fcvtSHf
    | fcvtHfS | frmWrite | ecall | ebreak | illegalInstruction | oarBaseInstruction =>
    exact rowEnd_oarStep ..
  | bootStep => exact rowEnd_bootStep ..
  | sessionTimeout => exact rowEnd_sessionTimeout ..
  | cycleStart => exact rowEnd_cycleStart ..
  | txImageSnapshot => exact rowEnd_txImageSnapshot ..
  | rxImageReceive => exact rowEnd_rxImageReceive ..
  | watchdogTrip => exact rowEnd_watchdogTrip ..
  | goWordWrite => exact rowEnd_goWordWrite ..
  | bulkApertureRead => exact rowEnd_bulkApertureRead ..
  | bulkApertureWrite => exact rowEnd_bulkApertureWrite ..
  | odWrite => exact rowEnd_odWrite ..
  | odRead => exact rowEnd_odRead ..
  | bulkIn => exact rowEnd_bulkIn ..
  | bulkOut => exact rowEnd_bulkOut ..
  | archive => exact rowEnd_archive ..
  | xlEntryComplete => exact rowEnd_xlEntryComplete ..
  | camLineEnd => exact rowEnd_camLineEnd ..
  | camTriggerTimeout => exact rowEnd_camTriggerTimeout ..
  | camTrigDeferred => exact rowEnd_camTrigDeferred ..
  | blankingPeriodEnd => exact rowEnd_blankingPeriodEnd ..
  | swathClose => exact rowEnd_swathClose ..
  | mangleSwathDone => exact rowEnd_mangleSwathDone ..
  | roiListBuild => exact rowEnd_roiListBuild ..
  | swathBufferRelease => exact rowEnd_swathBufferRelease ..
  | rotaPeriodBoundary => exact rowEnd_rotaPeriodBoundary ..
  | saveDone => exact rowEnd_saveDone ..
  | restoreDone => exact rowEnd_restoreDone ..
  | settleComplete => exact rowEnd_settleComplete ..
  | regulatorWindow => exact rowEnd_regulatorWindow ..
  | scrubGroup => exact rowEnd_scrubGroup ..
  | lpddrGroupRead => exact rowEnd_lpddrGroupRead ..
  | lpddrGroupWrite => exact rowEnd_lpddrGroupWrite ..
  | streamTransfer => exact rowEnd_streamTransfer ..
  | heldPacketRelease => exact rowEnd_heldPacketRelease ..
  | rowReadout => exact rowEnd_rowReadout ..
  | foldPass => exact rowEnd_foldPass ..
  | scullPass => exact rowEnd_scullPass ..
  | sweepPass => exact rowEnd_sweepPass ..
  | cropCut => exact rowEnd_cropCut ..
  | pressEncode => exact rowEnd_pressEncode ..
  | pressDecode => exact rowEnd_pressDecode ..
  | strokeComplete => exact rowEnd_strokeComplete ..
  | heatComplete => exact rowEnd_heatComplete ..
  | publicationRelease => exact rowEnd_publicationRelease ..
  | decodeRequest => exact rowEnd_decodeRequest ..
  | retuneStepRequest => exact rowEnd_retuneStepRequest ..
  | oarInvocationStart => exact rowEnd_oarInvocationStart ..
  | oarAccessReturn => exact rowEnd_oarAccessReturn ..
  | slvSendResume => exact rowEnd_slvSendResume ..
  | slvRecordArrive => exact rowEnd_slvRecordArrive ..
  | slvBarComplete => exact rowEnd_slvBarComplete ..
  | oarBudgetExpire => exact rowEnd_oarBudgetExpire ..
  | kvBoundary => exact rowEnd_kvBoundary ..
  | filterTick => exact rowEnd_filterTick ..
  | overload => exact rowEnd_overload ..
  | overtemp => exact rowEnd_overtemp ..
  | groupLimit => exact rowEnd_groupLimit ..
  | openLoad => exact rowEnd_openLoad ..
  | openWire => exact rowEnd_openWire ..
  | fieldSupplyFault => exact rowEnd_fieldSupplyFault ..
  | fieldSupplyClear => exact rowEnd_fieldSupplyClear ..
  | faultRetry => exact rowEnd_faultRetry ..
  | encCount => exact rowEnd_encCount ..
  | divPulseDeferred => exact rowEnd_divPulseDeferred ..
  | encReference => exact rowEnd_encReference ..
  | wireFault => exact rowEnd_wireFault ..
  | quadFault => exact rowEnd_quadFault ..
  | overspeedFault => exact rowEnd_overspeedFault ..
  | timeSlotEvent => exact rowEnd_timeSlotEvent ..
  | pulseWidthEnd => exact rowEnd_pulseWidthEnd ..
  | fnetLinkChange => exact rowEnd_fnetLinkChange ..
  | ptpMessage => exact rowEnd_ptpMessage ..
  | ptpMessageInterval => exact rowEnd_ptpMessageInterval ..
  | arpRequest => exact rowEnd_arpRequest ..
  | icmpEcho => exact rowEnd_icmpEcho ..
  | gateCycleStart => exact rowEnd_gateCycleStart ..
  | frameTransmit => exact rowEnd_frameTransmit ..
  | swathWatchdog => exact rowEnd_swathWatchdog ..
  | rinseOverdue => exact rowEnd_rinseOverdue ..
  | lostTimeStore => exact rowEnd_lostTimeStore ..
  | installComplete => exact rowEnd_installComplete ..
  | fnetFrameDiscard => exact rowEnd_fnetFrameDiscard ..
  | boardProgrammerFlashWrite addr data => exact rowEnd_boardProgrammerFlashWrite s addr data (hin addr data rfl)

/-- A write that reaches past the flash stops on the first address that the flash does not have. -/
theorem exec_programmer_past {s : State} {addr : BitVec 32} {data : Bytes} (hreset : s.dev.state = .reset)
    (hpast : 0x4000000 < addr.toNat + data.length) :
    exec (.boardProgrammerFlashWrite addr data) s = .fault (.noSuchFlashAddress (max addr.toNat 0x4000000)) := by
  rw [exec_boardProgrammerFlashWrite, execBoardProgrammerFlashWrite, if_neg (fun h => h hreset), if_pos hpast]

theorem idleCycle_graded {s : State} (h : s.Graded) : s.idleCycle.Graded := by
  unfold State.idleCycle
  split
  · exact h
  · exact h
  · dsimp only
    split
    · exact h
    · exact h

/-- A step answers a next state, which is graded where `s` is, or it stops at a write past the flash. -/
theorem step_cases (s : State) : (∃ t, step s = .next t ∧ (s.Graded → t.Graded)) ∨
    (s.dev.state = .reset ∧ ∃ addr data q, s.pending = .boardProgrammerFlashWrite addr data :: q ∧ 0x4000000 < addr.toNat + data.length ∧
      step s = .fault (.noSuchFlashAddress (max addr.toNat 0x4000000))) := by
  cases hpending : s.pending with
  | nil => exact .inl ⟨_, step_empty hpending, idleCycle_graded⟩
  | cons i q =>
    rw [stepRunsFrontCommand s i q hpending]
    by_cases hpast : s.dev.state = .reset ∧ ∃ addr data, i = .boardProgrammerFlashWrite addr data ∧ 0x4000000 < addr.toNat + data.length
    · obtain ⟨hreset, addr, data, rfl, hpast⟩ := hpast
      exact .inr ⟨hreset, addr, data, q, rfl, hpast, exec_programmer_past hreset hpast⟩
    · refine .inl (exec_rowEnd i (s.popped q) fun addr data hi hreset => ?_).keeps_grade
      exact Nat.not_lt.mp fun h => hpast ⟨hreset, addr, data, hi, h⟩

/-- Settles O5: whatever ends a row regrades RUN and DEGRADED, and the idle cycle changes nothing that they depend on. -/
theorem stepKeepsGrade : Obligations.StepKeepsGrade := by
  unfold Obligations.StepKeepsGrade
  intro s t hgraded hstep
  rcases step_cases s with ⟨u, hu, hkeeps⟩ | ⟨-, addr, data, q, -, -, hfault⟩
  · cases hu.symm.trans hstep
    exact hkeeps hgraded
  · cases hfault.symm.trans hstep

/-- Settles O6: every row ends in one of the ways of `State.RowEnd`, but for the write past the flash. -/
theorem everyCommandCompletes : Obligations.EveryCommandCompletes := by
  unfold Obligations.EveryCommandCompletes
  refine ⟨fun i s hin => ?_, fun s f hstep => ?_, fun s r hstep => ?_⟩
  · obtain ⟨t, ht, -⟩ := (exec_rowEnd i s hin).keeps_grade
    exact ⟨t, ht⟩
  · rcases step_cases s with ⟨u, hu, -⟩ | ⟨hreset, addr, data, q, hpending, hpast, hfault⟩
    · cases hu.symm.trans hstep
    · cases hfault.symm.trans hstep
      exact ⟨hreset, addr, data, q, hpending, hpast, rfl⟩
  · rcases step_cases s with ⟨u, hu, -⟩ | ⟨-, addr, data, q, -, -, hfault⟩
    · cases hu.symm.trans hstep
    · cases hfault.symm.trans hstep

end Sys2Proof.Machine
end

section
/-! SUPPORT. Power, reset and the supervisor's monitors (R11, R19, R28, R33, R562, R625, R626, R635), and the flash from outside (R12, R595). -/

namespace Sys2Proof.Machine

open Sys2Proof

section
variable {s : State}

/-! ### Power and reset (R28) -/

theorem mayBoot_low {s : State} (h : s.dev.porstLow = true) : s.mayBoot = false := by simp [State.mayBoot, h]

/-- POWER_UP enters RESET, which PORST_N holds (R28). -/
theorem powerUp_resets (hoff : s.dev.state = .off) : ∃ t, exec .powerUp s = .next t ∧ t.dev.state = .reset ∧ t.dev.porstLow = true ∧
    t.boot.record.cause = 0 ∧ t.KeepsFlash s := by
  rw [exec_powerUp, execPowerUp, if_pos hoff]
  generalize hup : s.modDev _ = a
  have hlow : a.dev.porstLow = true := by rw [← hup]; rfl
  obtain ⟨t, ht, hkeeps, hcause, hporst, -, -, hreset⟩ := toReset_ends s a 0
  exact ⟨t, ht, hreset (mayBoot_low hlow), hporst.trans hlow, hcause, by rw [← hup] at hkeeps; exact hkeeps⟩

/-- PORST_N low holds a powered device in RESET (R28). -/
theorem porstAssert_resets (hon : s.dev.state ≠ .off) : ∃ t, exec .porstNAssert s = .next t ∧ t.dev.state = .reset ∧
    t.dev.porstLow = true ∧ t.boot.record.cause = 1 ∧ t.KeepsFlash s := by
  obtain ⟨t, ht, hkeeps, hcause, hporst, -, -, hreset⟩ := toReset_ends s (s.modDev (fun d => { d with porstLow := true })) 1
  refine ⟨t, ?_, hreset (mayBoot_low rfl), hporst, hcause, hkeeps⟩
  rw [exec_porstNAssert, execPorstNAssert, if_neg hon]
  exact ht

/-- BOOT follows RESET once PORST_N is high (R28). -/
theorem porstRelease_boots (hreset : s.dev.state = .reset) (hbrown : s.dev.brownOut = false) (hok : s.hullOk = true) :
    ∃ t, exec .porstNRelease s = .next t ∧ t.Fresh ∧ t.dev.porstLow = false ∧ t.boot.record.cause = s.boot.record.cause ∧ t.KeepsFlash s := by
  have hboot : (s.modDev (fun d => { d with porstLow := false })).mayBoot = true := by
    show (!false && !s.dev.brownOut && s.hullOk) = true
    rw [hbrown, hok]
    rfl
  obtain ⟨t, ht, hfresh, hkeeps, hcause, hporst, -⟩ := enterBoot_ends s (s.modDev (fun d => { d with porstLow := false })) s.boot.record.cause
  refine ⟨t, ?_, hfresh, hporst, hcause, hkeeps⟩
  rw [exec_porstNRelease, execPorstNRelease, State.leaveReset, if_pos ⟨hreset, hboot⟩]
  exact ht

/-- The loss of supply leads to OFF, and only what stands in the flash and the fuses stays (R28). -/
theorem supplyLoss_off (hon : s.dev.state ≠ .off) : ∃ t, exec .supplyLoss s = .next t ∧ t.dev.state = .off ∧ t.KeepsFlash s := by
  rw [exec_supplyLoss, execSupplyLoss, if_neg hon]
  obtain ⟨t, ht, hends⟩ := lateEnd_wiped s ((s.wipe .off).modDev (fun d =>
    { d with brownOut := false, supplyOk := Vector.ofFn (fun i => decide (i.val = 10) && d.supplyOk[i]) })) rfl rfl rfl
  refine ⟨t, ht, (hends.state rfl).trans rfl, ?_, ?_, ?_⟩
  · rw [hends.boot]; rfl
  · rw [hends.boot]; rfl
  · rw [hends.pending]; rfl

/-- Settles O10: POWER_UP, PORST_N and JTAG lead to RESET, as `toReset_ends` says, and from there to BOOT where nothing holds the device. -/
theorem resetAndPower : Obligations.ResetAndPower := by
  unfold Obligations.ResetAndPower
  intro s
  refine ⟨powerUp_resets, porstAssert_resets, porstRelease_boots, fun hon => ?_, supplyLoss_off⟩
  obtain ⟨t, ht, hkeeps, hcause, -, -, hfresh, hreset⟩ := toReset_ends s s 2
  refine ⟨t, ?_, hcause, hkeeps, hfresh, hreset⟩
  rw [exec_jtagReset, execJtagReset, if_neg hon]
  exact ht

/-! ### Causes of SAFE (R19, R33, R562, R625) -/

theorem State.Guarded.powered (h : s.Guarded) : s.dev.state ≠ .off ∧ s.dev.state ≠ .reset ∧ s.dev.state ≠ .boot := by
  rcases h.state with hs | hs
  · rw [hs]; decide
  · revert hs
    cases s.dev.state <;> decide

theorem State.Guarded.awake (h : s.Guarded) : s.awake = true := by
  obtain ⟨hoff, hreset, -⟩ := h.powered
  simp [State.awake, hoff, hreset]

theorem awake_state {a : State} (h : a.dev.state = s.dev.state) (hs : s.awake = true) : a.awake = true := by
  rw [State.awake, h]
  exact hs

theorem setSupply_supplyOk (s : State) (rail : Fin 11) (ok : Bool) : (s.setSupply rail ok).dev.supplyOk[rail] = ok :=
  Vector.getElem_set_self ..

/-- A cause of SAFE that arises in a state `a` which differs from `s` in the device block alone beside the kernel, and keeps there what
`Guarded` looks at. -/
theorem safeCause_safeFrom (h : s.Guarded) {a : State} (b : Nat) (hk : a.kernel = { s.kernel with dev := a.dev })
    (hstate : a.dev.state = s.dev.state) (harming : a.dev.arming = s.dev.arming) (hcause : a.dev.safeCause = s.dev.safeCause) :
    ∃ t, lateEnd s (a.safeCause b) = .next t ∧ t.SafeFrom s b ∧
      t.dev = { a.dev with state := .safe, safeCause := setBit a.dev.safeCause b true } ∧ t.field.rigLink = a.field.rigLink ∧
      t.field.rigHold = a.field.rigHold := by
  rw [safeCause_enters a b (by rw [hstate]; exact h.state)]
  exact lateEnd_safeFrom b a.dev hk (harming.trans h.arming) hcause h.settled

/-- A supply outside its window, and no brown-out (R625). -/
theorem supplyOutOfWindow_safe (h : s.Guarded) {rail : Fin 11} {uv : BitVec 32} (hrail : rail.val < 10)
    (hout : inSupplyWindow rail uv.toNat = false) (hlevel : brownLevel rail uv.toNat = false) :
    ∃ t, exec (.supplyOutOfWindow rail uv) s = .next t ∧ t.SafeFrom s 3 ∧ t.dev.supplyOk[rail] = false := by
  obtain ⟨t, ht, hsafe, hdev, -⟩ := safeCause_safeFrom h (a := (s.setSupply rail false).lint .SUP_GLITCH) 3 rfl rfl rfl rfl
  refine ⟨t, ?_, hsafe, ?_⟩
  · have hawake : (s.setSupply rail false).awake = true := awake_state rfl h.awake
    rw [exec_supplyOutOfWindow, execSupplyOutOfWindow, if_neg h.powered.1]
    simp only [hout, hlevel, hawake, Bool.false_eq_true, Bool.not_true, if_false, Nat.ne_of_lt hrail]
    exact ht
  · rw [hdev]
    exact setSupply_supplyOk s rail false

/-- The loss of the rigger's supply or link, which has once been up (R625). -/
theorem riggerLinkLoss_safe (h : s.Guarded) (hup : s.field.rigOnceUp = true) (vrig : Bool) :
    ∃ t, exec (.riggerLinkLoss vrig) s = .next t ∧ t.SafeFrom s 4 ∧ (vrig = true → t.dev.supplyOk[10] = false) ∧
      (vrig = false → t.field.rigLink = false) := by
  have hlost (a : State) (hstate : a.dev.state = s.dev.state) (honce : a.field.rigOnceUp = true) :
      (if a.awake then a.riggerLost else a) = a.safeCause 4 := by
    rw [if_pos (awake_state hstate h.awake), State.riggerLost, if_pos honce]
  rw [exec_riggerLinkLoss, execRiggerLinkLoss, if_neg h.powered.1]
  cases vrig with
  | true =>
    obtain ⟨t, ht, hsafe, hdev, -⟩ := safeCause_safeFrom h (a := s.setSupply 10 false) 4 rfl rfl rfl rfl
    refine ⟨t, ?_, hsafe, fun _ => ?_, nofun⟩
    · exact (congrArg (lateEnd s) (hlost (s.setSupply 10 false) rfl hup)).trans ht
    · rw [hdev]
      exact setSupply_supplyOk s 10 false
  | false =>
    obtain ⟨t, ht, hsafe, -, hlink, -⟩ := safeCause_safeFrom h (a := s.modField (fun f => { f with rigLink := false })) 4 rfl rfl rfl rfl
    exact ⟨t, (congrArg (lateEnd s) (hlost (s.modField (fun f => { f with rigLink := false })) rfl hup)).trans ht, hsafe, nofun, fun _ => hlink⟩

/-- Settles O12: each row raises its cause in a powered state, where `safeCause` enters SAFE. -/
theorem causesOfSafe : Obligations.CausesOfSafe := by
  unfold Obligations.CausesOfSafe
  intro s pair rail uv vrig h
  have hawake := h.awake
  obtain ⟨hoff, -, hboot⟩ := h.powered
  refine ⟨?_, ?_, ?_, supplyOutOfWindow_safe h, fun hup => riggerLinkLoss_safe h hup vrig, ?_⟩
  · obtain ⟨t, ht, hsafe, hdev, -⟩ := safeCause_safeFrom h (a := s.modDev (fun d => { d with pllLocked := false })) 1 rfl rfl rfl rfl
    refine ⟨t, ?_, hsafe, by rw [hdev]; rfl⟩
    rw [exec_rootPllUnlock, execRootPllUnlock, if_pos hawake]
    exact ht
  · obtain ⟨t, ht, hsafe, -⟩ := safeCause_safeFrom h 2 rfl rfl rfl rfl
    refine ⟨t, ?_, hsafe⟩
    rw [exec_lockstepMismatch, execLockstepMismatch, if_pos (by simp [hawake, pair.isLt])]
    exact ht
  · obtain ⟨t, ht, hsafe, -⟩ := safeCause_safeFrom h 7 rfl rfl rfl rfl
    refine ⟨t, ?_, hsafe⟩
    rw [exec_coachHeartbeatMiss, execCoachHeartbeatMiss, if_pos (by simp [hawake, hboot, pair.isLt])]
    exact ht
  · have hheld : (s.modField (fun f => { f with rigHold := true })).awake = true := hawake
    obtain ⟨t, ht, hsafe, -, -, hhold⟩ := safeCause_safeFrom h (a := s.modField (fun f => { f with rigHold := true })) 4 rfl rfl rfl rfl
    refine ⟨t, ?_, hsafe, hhold⟩
    rw [exec_riggerHeartbeatLoss, execRiggerHeartbeatLoss, if_neg hoff]
    dsimp only
    rw [if_pos hheld]
    exact ht

/-! ### Supplies, the rigger's link and the temperatures (R11, R625, R626, R635) -/

/-- The link to the rigger comes up with its supply (R626). -/
theorem riggerLinkUp_links (hs : s.Settled) (hawake : s.awake = true) (hboot : s.dev.state ≠ .boot) :
    ∃ t, exec .riggerLinkUp s = .next t ∧ t.field = { s.field with rigLink := true, rigOnceUp := true } ∧ t.dev.supplyOk[10] = true := by
  obtain ⟨t, ht, hends⟩ := lateEnd_dev (s := s)
    (t := (s.setSupply 10 true).modField (fun f => { f with rigLink := true, rigOnceUp := true })) _ _ rfl rfl rfl hs
  refine ⟨t, ?_, hends.field, ?_⟩
  · have hup : ((s.setSupply 10 true).awake && !(decide ((s.setSupply 10 true).dev.state = .boot) &&
        decide ((s.setSupply 10 true).boot.record.lastStep < 2))) = true := by
      have hb : ¬ (s.setSupply 10 true).dev.state = .boot := hboot
      rw [show (s.setSupply 10 true).awake = true from hawake, decide_eq_false hb]
      rfl
    rw [exec_riggerLinkUp, execRiggerLinkUp]
    dsimp only
    rw [if_pos hup]
    exact ht
  · obtain ⟨d, hd⟩ := hends.dev
    rw [hd]
    exact setSupply_supplyOk s 10 true

/-- The device with a sample of its sensors and its power (R635). -/
def State.sampled (s : State) (temps : Vector (BitVec 16) 34) (power : BitVec 16) (rails : Vector (BitVec 32) 12) : State :=
  let a := s.modDev (fun d => { d with sensors := temps.map BitVec.toInt, measured := power.toNat, rails := rails.map BitVec.toNat })
  a.modDev (fun d => { d with admitLimit := a.thermLimit })

/-- A sample is taken while the device is awake, and one at 115 °C or more is a cause of SAFE (R635). -/
theorem exec_thermSample_awake (hawake : s.awake = true) (temps power rails) : exec (.thermSample temps power rails) s =
    lateEnd s (if (temps.map BitVec.toInt).toList.any (fun t => decide (1150 ≤ t)) then (s.sampled temps power rails).safeCause 0
      else s.sampled temps power rails) := by
  rw [exec_thermSample, execThermSample, hawake]
  rfl

theorem hot_iff (temps : Vector (BitVec 16) 34) :
    (temps.map BitVec.toInt).toList.any (fun t => decide (1150 ≤ t)) = true ↔ ∃ i : Fin 34, 1150 ≤ temps[i].toInt := by
  simp only [List.any_eq_true, decide_eq_true_eq, Vector.mem_toList_iff, Vector.mem_iff_getElem]
  constructor
  · rintro ⟨_, ⟨i, hi, rfl⟩, h⟩
    exact ⟨⟨i, hi⟩, by simpa using h⟩
  · rintro ⟨i, h⟩
    exact ⟨_, ⟨i.val, i.isLt, rfl⟩, by simpa using h⟩

/-- Settles O13: the rows change the device block and the field block alone, or nothing but a counter, and a hot sample enters SAFE. -/
theorem riggerAndTemperature : Obligations.RiggerAndTemperature := by
  unfold Obligations.RiggerAndTemperature
  intro s rail temps power rails hs
  refine ⟨fun hawake => ?_, riggerLinkUp_links hs, ?_, fun hawake hcool => ?_, fun h hhot => ?_⟩
  · obtain ⟨t, ht, hends⟩ := lateEnd_kernel (kernel_lint s .SUP_GLITCH) hs
    refine ⟨t, ?_, ?_, hends.field, hends.boot⟩
    · rw [exec_supplyGlitch, execSupplyGlitch, if_pos (by simp [hawake, Nat.le_of_lt_succ rail.isLt])]
      exact ht
    · rw [lintVal_congr (congrArg OdStore.lints hends.od), lintVal_lint]
  · obtain ⟨t, ht, hends⟩ := lateEnd_kernel (kernel_modField s (fun f => { f with rigHold := false })) hs
    exact ⟨t, ht, hends.field⟩
  · obtain ⟨t, ht, hends⟩ := lateEnd_dev (s := s) (t := s.sampled temps power rails) _ _ rfl rfl rfl hs
    have hno : ¬ (temps.map BitVec.toInt).toList.any (fun t => decide (1150 ≤ t)) = true := fun hany => by
      obtain ⟨i, hi⟩ := (hot_iff temps).mp hany
      exact Int.not_le.mpr (hcool i) hi
    obtain ⟨d, hd⟩ := hends.dev
    refine ⟨t, ?_, by rw [hd]; rfl, by rw [hd]; rfl, by rw [hd]; rfl, hends.field⟩
    rw [exec_thermSample_awake hawake, if_neg hno]
    exact ht
  · obtain ⟨t, ht, hsafe, hdev, -⟩ := safeCause_safeFrom h (a := s.sampled temps power rails) 0 rfl rfl rfl rfl
    refine ⟨t, ?_, hsafe, by rw [hdev]; rfl⟩
    rw [exec_thermSample_awake h.awake, if_pos ((hot_iff temps).mpr hhot)]
    exact ht

/-! ### The flash from outside (R12, R595) -/

/-- A write that lies in the image area. -/
theorem programmed_image (f : Flash) {a : Nat} {d : Bytes} (draw : Nat) (hne : d ≠ []) (hlo : 0x110000 ≤ a)
    (hhi : a + d.length ≤ 0x1910000) : f.programmed a d draw = { f with image := overlay f.image (a - 0x110000) d } := by
  have before {lo hi : Nat} (h : hi ≤ 0x110000) : areaPart a d lo hi = none := part_out a d lo hi (.inr (Nat.le_trans h hlo))
  unfold Flash.programmed
  simp only [before (lo := 0) (hi := 0x10000) (by decide), before (lo := 0x10000) (hi := 0x50000) (by decide),
    before (lo := 0x50000) (hi := 0x90000) (by decide), before (lo := 0x90000) (hi := 0xD0000) (by decide),
    before (lo := 0xD0000) (hi := 0x110000) (by decide), part_in a d 0x110000 0x1910000 hne hlo hhi,
    part_out a d 0x1910000 0x4000000 (.inl hhi)]

/-- A write that lies in the factory area. -/
theorem programmed_factory (f : Flash) {a : Nat} {d : Bytes} (draw : Nat) (hne : d ≠ []) (hhi : a + d.length ≤ 0x10000) :
    f.programmed a d draw = { f with factory := overlay f.factory a d } := by
  have after {lo hi : Nat} (h : 0x10000 ≤ lo) : areaPart a d lo hi = none := part_out a d lo hi (.inl (Nat.le_trans hhi h))
  unfold Flash.programmed
  simp only [part_in a d 0 0x10000 hne (Nat.zero_le a) hhi, after (lo := 0x10000) (hi := 0x50000) (by decide),
    after (lo := 0x50000) (hi := 0x90000) (by decide), after (lo := 0x90000) (hi := 0xD0000) (by decide),
    after (lo := 0xD0000) (hi := 0x110000) (by decide), after (lo := 0x110000) (hi := 0x1910000) (by decide),
    after (lo := 0x1910000) (hi := 0x4000000) (by decide), Nat.sub_zero]

/-- A write within the flash while the device is held in RESET (R12). -/
theorem programmer_writes (hreset : s.dev.state = .reset) {addr : BitVec 32} {data : Bytes} (hin : addr.toNat + data.length ≤ 0x4000000) :
    ∃ t, exec (.boardProgrammerFlashWrite addr data) s = .next t ∧ t.dev = s.dev ∧ t.boot.fuses = s.boot.fuses ∧
      t.boot.flash = s.boot.flash.programmed addr.toNat data s.fresh := by
  rw [exec_boardProgrammerFlashWrite, execBoardProgrammerFlashWrite, if_neg (fun h => h hreset), if_neg (Nat.not_lt.mpr hin)]
  exact flash_ends s _ hreset

/-- Settles O16: a write in RESET overlays the area that it lies in, and past the flash it stops. -/
theorem boardProgrammer : Obligations.BoardProgrammer := by
  unfold Obligations.BoardProgrammer
  intro s addr data
  refine ⟨fun hout => ?_, exec_programmer_past, fun hreset hne hlo hhi => ?_, fun hreset hne hhi => ?_⟩
  · rw [exec_boardProgrammerFlashWrite, execBoardProgrammerFlashWrite, if_pos hout]
  · obtain ⟨t, ht, hdev, hfuses, hflash⟩ := programmer_writes hreset (addr := addr) (data := data) (by omega)
    rw [programmed_image _ _ hne hlo hhi] at hflash
    obtain ⟨hset, hafter, hbefore⟩ := slice_overlay s.boot.flash.image data (addr.toNat - 0x110000)
    refine ⟨t, ht, hdev, hfuses, ?_, ?_, ?_, ?_⟩ <;> rw [hflash]
    · exact hset
    · exact hafter
    · exact hbefore
  · obtain ⟨t, ht, hdev, hfuses, hflash⟩ := programmer_writes hreset (addr := addr) (data := data) (by omega)
    rw [programmed_factory _ _ hne hhi] at hflash
    refine ⟨t, ht, hdev, hfuses, ?_, ?_⟩ <;> rw [hflash]
    exact (slice_overlay s.boot.flash.factory data addr.toNat).1

end

end Sys2Proof.Machine
end

section
/-! SUPPORT. The commands of `DEV_COMMAND` on a device that no squad leads, and the ends of ARM and STOP (R28, R30 to R33, R38 to R40). -/

namespace Sys2Proof.Machine

open Sys2Proof

/-! ### The commands of a device by itself (R38) -/

/-- A command that is valid, with no transition in progress and no formed squad, acts on this seat alone. -/
theorem devCommand_alone {u : State} {c : Nat} (o : Origin) (hc : c ≤ 6) (hallows : u.dev.state.allows c = true)
    (htransition : u.transition = false) (hsquad : u.squad.state ≠ .formed) : u.devCommand o c = u.devDo o c := by
  unfold State.devCommand
  rw [if_neg (by omega), hallows, htransition, if_neg (by simp), if_neg (by simp), if_neg (by omega), if_neg (by simp [hsquad])]

theorem transition_none {s : State} (h : s.transition = false) : s.dev.arming = none ∧ s.cox.stopReq = false ∧ s.squad.cmd = none := by
  simpa [State.transition, and_assoc] using h

section
variable {s : State} {x : Session} {e : Envelope} {c : Nat}

/-- The command `c` of the session `x`, which no squad carries and which is valid where it arrives. -/
structure State.Commands (s : State) (x : Session) (e : Envelope) (c : Nat) : Prop where
  may : s.MayWrite x (wrNum e .DEV_COMMAND 0 c) (.ent .DEV_COMMAND 0 0)
  transition : s.transition = false
  alone : s.squad.state ≠ .formed
  code : c ≤ 6
  allows : s.dev.state.allows c = true

/-- The state in which the action of the command begins. -/
abbrev State.atCommand (s : State) (x : Session) (e : Envelope) (c : Nat) : State := s.began x (wrNum e .DEV_COMMAND 0 c)

theorem State.Commands.acts (h : s.Commands x e c) (o : Origin) : (s.atCommand x e c).devCommand o c = (s.atCommand x e c).devDo o c :=
  devCommand_alone o h.code (by rw [began_dev]; exact h.allows) ((began_transition ..).trans h.transition) (by rw [began_squad]; exact h.alone)

theorem began_quiet (r : Request) {z : State} (h : (s.began x r).Quiet z) : s.Quiet z := by
  unfold State.Quiet at h ⊢
  rwa [began_squad] at h

/-- A command whose action is done at once is answered OK. -/
theorem State.Commands.responds (h : s.Commands x e c) {z : State} (hdo : ∀ o, (s.atCommand x e c).devDo o c = .ok z)
    (hses : z.od.sessions = (s.atCommand x e c).od.sessions) (hquiet : (s.atCommand x e c).Quiet z) (hcmd : z.squad.cmd = none)
    (hshort : z.crewsShort = (s.atCommand x e c).crewsShort) :
    ∃ t, odRow s (wrNum e .DEV_COMMAND 0 c) = .next t ∧ z.RespondsAs t (wrNum e .DEV_COMMAND 0 c) .ok :=
  cmd_okRow s x e c (Nat.le_trans h.code (by decide)) z h.may ((h.acts _).trans (hdo _)) hses (began_quiet _ hquiet) hcmd
    (hshort.trans (began_crewsShort ..))

/-- A command whose action leaves the kernel but for the device block. -/
theorem State.Commands.responds_kernel (h : s.Commands x e c) {z : State} (d : Device) (hdo : ∀ o, (s.atCommand x e c).devDo o c = .ok z)
    (hk : z.kernel = { (s.atCommand x e c).kernel with dev := d }) :
    ∃ t, odRow s (wrNum e .DEV_COMMAND 0 c) = .next t ∧ z.RespondsAs t (wrNum e .DEV_COMMAND 0 c) .ok := by
  have hsquad : z.squad = (s.atCommand x e c).squad := congrArg Kernel.squad hk
  refine h.responds hdo (congrArg Kernel.sessions hk) (quiet_same (by rw [hsquad])) ?_ ?_
  · rw [hsquad, began_squad]
    exact (transition_none h.transition).2.2
  · exact crewsShort_congr _ _ (congrArg Kernel.committed hk) (congrArg Kernel.fuses hk) (congrArg Kernel.held hk) (congrArg Kernel.crews hk)
      (congrArg Kernel.packages hk)

end

/-! ### What a response leaves -/

section
variable {u t : State} {r : Request} {st : Status}

theorem State.RespondsAs.field (h : u.RespondsAs t r st) : t.field = u.field := show t.bare.field = u.bare.field by rw [h.rest]
theorem State.RespondsAs.cams (h : u.RespondsAs t r st) : t.cams = u.cams := show t.bare.cams = u.bare.cams by rw [h.rest]
theorem State.RespondsAs.cox (h : u.RespondsAs t r st) : t.cox = u.cox := show t.bare.cox = u.bare.cox by rw [h.rest]

theorem State.RespondsAs.num (h : u.RespondsAs t r st) (E : Ent) (i : Nat) : t.num E i = u.num E i := by
  have hcommitted : t.od.committed = u.od.committed := show t.bare.od.committed = u.bare.od.committed by rw [h.rest]
  have hfuses : t.boot.fuses = u.boot.fuses := show t.bare.boot.fuses = u.bare.boot.fuses by rw [h.rest]
  rw [State.num, State.num, val_congr hcommitted hfuses]

/-- RUN and DEGRADED follow the units in service where a row ends (R28). -/
theorem State.RespondsAs.grade (h : u.RespondsAs t r st) (hruns : u.dev.state.runs = true) (hgraded : t.Graded) :
    t.dev.state = if u.anyOos then .degraded else .run := by
  obtain ⟨hrun, hdegraded⟩ := hgraded
  rw [← bare_anyOos h.rest]
  have hr := h.runs hruns
  revert hr
  cases hstate : t.dev.state with
  | run => rw [hrun hstate]; exact fun _ => rfl
  | degraded => rw [hdegraded hstate]; exact fun _ => rfl
  | _ => exact nofun

end

section
variable {s : State} {x : Session} {e : Envelope}

/-! ### NONE, ARM and START -/

theorem commandNone_answers (h : s.Commands x e 0) :
    ∃ t, exec (.commandNone e) s = .next t ∧ s.RespondsAs t (wrNum e .DEV_COMMAND 0 0) .ok := by
  obtain ⟨t, ht, hresp⟩ := h.responds_kernel (z := s.atCommand x e 0) _ (fun _ => rfl) rfl
  exact ⟨t, ht, responds_base hresp (bare_began ..) (congrArg Device.state (began_dev ..))⟩

/-- ARM begins its checks, and ARM_DONE answers it (R38, R39). -/
theorem arm_begins (h : s.Commands x e 1) (hinert : s.dev.state = .inert) : ∃ t f, exec (.arm e) s = .next t ∧
    t.dev.arming = some (.session e.session.toNat e.reqId.toNat, f) ∧ t.dev.state = .inert ∧ t.field = s.field ∧ t.cox = s.cox ∧
    t.cams = s.cams := by
  obtain ⟨a, ha⟩ : ∃ a, s.atCommand x e 1 = a := ⟨_, rfl⟩
  obtain ⟨z, hz⟩ : ∃ z, a.modDev (fun d => { d with arming := some (.session e.session.toNat e.reqId.toNat, a.armCheck) }) = z := ⟨_, rfl⟩
  have hdev : z.dev = { s.dev with arming := some (.session e.session.toNat e.reqId.toNat, a.armCheck) } := by
    rw [← hz, State.modDev, ← ha, began_dev]
  have hact : (s.atCommand x e 1).devCommand (.session e.session.toNat e.reqId.toNat) 1 = .wait z := by
    rw [← hz, ← ha]
    exact h.acts _
  have hidle : z.idleWork = none := by
    have hsessions : z.od.sessions = a.od.sessions := by rw [← hz]; rfl
    rw [idleWork_sessions hsessions, ← ha]
    exact began_idle s x _ h.may.takes.session h.may.settled.1
  have hsquad : z.squad = s.squad := by rw [← hz, ← began_squad s x (wrNum e .DEV_COMMAND 0 1), ← ha]; rfl
  have hshort : z.crewsShort = s.crewsShort := by rw [← hz, ← began_crewsShort s x (wrNum e .DEV_COMMAND 0 1), ← ha]; rfl
  obtain ⟨t, ht, hends⟩ := lateEnd_ends s z (nlSettle_same s z (by rw [hsquad])) ⟨hidle, by rw [hsquad]; exact h.may.settled.2⟩
    (fun hc => hshort.symm.trans hc)
  obtain ⟨d, hd⟩ := hends.dev
  refine ⟨t, a.armCheck, (cmd_receive s x e 1 (by decide) (.wait z) h.may hact rfl hidle).trans ht, by rw [hd, hdev], ?_, ?_, ?_, ?_⟩
  · have hstate : z.dev.state = .inert := by rw [hdev]; exact hinert
    rw [hends.state (by rw [hstate]; rfl), hstate]
  · rw [hends.field, ← hz, ← began_field s x (wrNum e .DEV_COMMAND 0 1), ← ha]; rfl
  · rw [hends.cox, ← hz, ← began_cox s x (wrNum e .DEV_COMMAND 0 1), ← ha]; rfl
  · rw [hends.cams, ← hz, ← began_cams s x (wrNum e .DEV_COMMAND 0 1), ← ha]; rfl

/-- START enters RUN or DEGRADED and admits heats (R28, R38). -/
theorem start_runs (h : s.Commands x e 3) : ∃ t, exec (.start e) s = .next t ∧ t.Answered (wrNum e .DEV_COMMAND 0 3) .ok ∧
    t.dev.state = (if s.anyOos then .degraded else .run) ∧ t.cox.admitting = true ∧ t.field = s.field ∧ t.cams = s.cams := by
  obtain ⟨a, ha⟩ : ∃ a, s.atCommand x e 3 = a := ⟨_, rfl⟩
  obtain ⟨z, hz⟩ : ∃ z, (a.modDev (fun d => { d with state := if a.anyOos then .degraded else .run })).modCox
    (fun c => { c with admitting := true }) = z := ⟨_, rfl⟩
  obtain ⟨t, ht, hresp⟩ := h.responds_kernel (z := z) z.dev (fun _ => by rw [← hz, ← ha]; rfl) (by rw [← hz, ← ha]; rfl)
  obtain ⟨t', ht', hgraded⟩ := odRow_graded s (wrNum e .DEV_COMMAND 0 3)
  cases ht'.symm.trans ht
  have hruns : z.dev.state.runs = true := by
    rw [← hz]
    show DevState.runs (if a.anyOos then .degraded else .run) = true
    split <;> rfl
  have hoos : z.anyOos = s.anyOos := by rw [← bare_anyOos (bare_began s x (wrNum e .DEV_COMMAND 0 3)), ← hz, ← ha]; rfl
  refine ⟨_, ht, hresp.answered, by rw [hresp.grade hruns hgraded, hoos], ?_, ?_, ?_⟩
  · rw [hresp.cox, ← hz]; rfl
  · rw [hresp.field, ← hz, ← began_field s x (wrNum e .DEV_COMMAND 0 3), ← ha]; rfl
  · rw [hresp.cams, ← hz, ← began_cams s x (wrNum e .DEV_COMMAND 0 3), ← ha]; rfl

end

/-- Settles O19: with no transition in progress and no formed squad each command acts on this seat as `State.devDo` says. -/
theorem deviceCommands : Obligations.DeviceCommands := by
  unfold Obligations.DeviceCommands
  intro s x e htransition halone
  exact ⟨fun hm => commandNone_answers ⟨hm, htransition, halone, by decide, rfl⟩,
    fun hm hinert => arm_begins ⟨hm, htransition, halone, by decide, decide_eq_true hinert⟩ hinert,
    fun hm harmed => start_runs ⟨hm, htransition, halone, by decide, decide_eq_true harmed⟩⟩

end Sys2Proof.Machine
end

section
/-! SUPPORT. DISARM, STOP, SAFE and SAFE_ACK, and the ends of ARM and STOP (R28, R30 to R33, R38 to R40). -/

namespace Sys2Proof.Machine

open Sys2Proof

section
variable {s : State} {y : Session} {r : Request} {h : Nat}

/-! ### The end of ARM (R39) -/

/-- An ARM with a fault answers ERR_STATE, and `DEV_ARM_FAULT` names the fault (R36, R39). -/
theorem armDone_fails {f : Nat} (hs : s.Settled) (hy : s.session? h = some y) (hr : y.executing = some r) (hq : y.queue = [])
    (hinert : s.dev.state = .inert) (harming : s.dev.arming = some (.session h r.env.reqId.toNat, some f)) :
    ∃ t, exec .armDone s = .next t ∧ t.Answered r .state ∧ t.dev = { s.dev with arming := none, armFault := f } := by
  obtain ⟨t, ht, hanswer, hdev, -⟩ := answered_lateEnd s (s.modDev (fun d => { d with arming := none, armFault := f })) h y r .state hs rfl rfl
    id hy hr hq (by show s.dev.state.runs = false; rw [hinert]; rfl)
  have hends : s.armEnds = (s.modDev (fun d => { d with arming := none, armFault := f })).complete (.session h r.env.reqId.toNat) .state [] := by
    unfold State.armEnds
    rw [harming]
    dsimp only [Option.or]
    unfold State.armFails
    rw [harming]
    rfl
  refine ⟨t, ?_, hanswer, hdev⟩
  rw [exec_armDone, execArmDone, hends]
  exact ht

/-- An ARM whose checks pass reaches ARMED and answers OK (R39). -/
theorem armDone_arms (hs : s.Settled) (hy : s.session? h = some y) (hr : y.executing = some r) (hq : y.queue = [])
    (hinert : s.dev.state = .inert) (harming : s.dev.arming = some (.session h r.env.reqId.toNat, none)) (hcheck : s.armCheck = none)
    (hshort : s.armNow.crewsShort = true → s.crewsShort = true) :
    ∃ t, exec .armDone s = .next t ∧ t.Answered r .ok ∧ t.dev = { s.dev with state := .armed, arming := none } := by
  have hdesk := desk_armNow s hinert
  have hdev : s.armNow.dev = { s.dev with state := .armed, arming := none } := congrArg Desk.dev hdesk
  obtain ⟨t, ht, hanswer, hend, -⟩ := answered_lateEnd s s.armNow h y r .ok hs (congrArg Desk.sessions hdesk) (congrArg Desk.squad hdesk)
    hshort hy hr hq (by rw [hdev]; rfl)
  have hends : s.armEnds = s.armNow.complete (.session h r.env.reqId.toNat) .ok [] := by
    unfold State.armEnds
    rw [harming]
    dsimp only
    rw [hcheck]
    rfl
  refine ⟨t, ?_, hanswer, hend.trans hdev⟩
  rw [exec_armDone, execArmDone, hends]
  exact ht

end

section
variable {s : State} {x : Session} {e : Envelope} {c : Nat}

/-! ### Transitions to INERT (R32, R40) -/

/-- A command that leads to INERT is answered OK, and the fire list, the enables and the causes of SAFE are cleared. -/
theorem State.Commands.inert (h : s.Commands x e c) (hload : s.squad.load = none)
    (hdo : ∀ o, (s.atCommand x e c).devDo o c = .ok (s.atCommand x e c).toInert) :
    ∃ t, odRow s (wrNum e .DEV_COMMAND 0 c) = .next t ∧ t.Answered (wrNum e .DEV_COMMAND 0 c) .ok ∧ t.dev.state = .inert ∧ t.dev.safeCause = 0 ∧
      t.field.fire.entries = [] ∧ ∀ a ∈ inertEnables, ∀ i < a.2, t.num a.1 i = 0 := by
  have hcmd : (s.atCommand x e c).squad.cmd = none := by rw [began_squad]; exact (transition_none h.transition).2.2
  have hnoload : (s.atCommand x e c).squad.load = none := by rw [began_squad]; exact hload
  obtain ⟨hses, -, -, hdev, hnone, hquiet, hshort, henables⟩ := toInert_facts _ hcmd hnoload
  obtain ⟨t, ht, hresp⟩ := h.responds hdo hses hquiet hnone hshort
  have hend : t.dev = (s.atCommand x e c).toInert.dev := bare_dev hresp (by rw [hdev]; rfl)
  refine ⟨t, ht, hresp.answered, by rw [hend, hdev], by rw [hend, hdev], ?_, fun a ha i hi => ?_⟩
  · rw [hresp.field, toInert_fire _ hcmd hnoload]
  · rw [hresp.num, henables a ha i hi]

theorem ackable_began (r : Request) (hx : s.session? r.env.session.toNat = some x) : (s.began x r).ackable = s.ackable := by
  obtain ⟨ss, hss⟩ := began_with s x r hx
  rw [hss]
  rfl

theorem devDo_safeAck {u : State} (h : u.ackable = true) (o : Origin) : u.devDo o 6 = .ok u.toInert := by
  show (if u.ackable then Reply.ok u.toInert else Reply.err u .state) = _
  rw [if_pos h]

/-- SAFE_ACK leads to INERT where every latched cause may be acknowledged (R40). -/
theorem safeAck_inert (h : s.Commands x e 6) (hload : s.squad.load = none) (hack : s.ackable = true) :
    ∃ t, exec (.safeAck e) s = .next t ∧ t.Answered (wrNum e .DEV_COMMAND 0 6) .ok ∧ t.dev.state = .inert ∧ t.dev.safeCause = 0 := by
  have hack' : (s.atCommand x e 6).ackable = true := by
    rw [ackable_began (wrNum e .DEV_COMMAND 0 6) h.may.takes.session]
    exact hack
  obtain ⟨t, ht, hanswer, hstate, hcause, -⟩ := h.inert hload (devDo_safeAck hack')
  exact ⟨t, ht, hanswer, hstate, hcause⟩

/-! ### STOP and SAFE (R30, R33) -/

/-- STOP ends admission, and of the requests those stay that resume a heat (R30). -/
theorem stop_stops (h : s.Commands x e 4) (hruns : s.dev.state.runs = true) : ∃ t, exec (.stop e) s = .next t ∧
    t.Answered (wrNum e .DEV_COMMAND 0 4) .ok ∧ t.dev.state.runs = true ∧ t.cox.stopReq = true ∧ t.cox.admitting = false ∧
    t.cox.queue = s.cox.queue.filter (fun r => r.resume.isSome) ∧ t.cox.heats = s.cox.heats := by
  obtain ⟨t, ht, hresp⟩ := h.responds_kernel (z := (s.atCommand x e 4).stopNow) _ (fun _ => rfl) (kernel_stopNow _)
  have hcox := hresp.cox
  rw [cox_stopNow, began_cox] at hcox
  refine ⟨t, ht, hresp.answered, hresp.runs ?_, by rw [hcox], by rw [hcox], by rw [hcox], by rw [hcox]⟩
  rw [dev_kernel (kernel_stopNow _), began_dev]
  exact hruns

/-- SAFE enters SAFE with cause FORCED (R33, R40). -/
theorem safe_forces (h : s.Commands x e 5) :
    ∃ t, exec (.safe e) s = .next t ∧ t.Answered (wrNum e .DEV_COMMAND 0 5) .ok ∧ t.SafeFrom s 6 := by
  obtain ⟨a, ha⟩ : ∃ a, s.atCommand x e 5 = a := ⟨_, rfl⟩
  have hdev : a.dev = s.dev := by rw [← ha, began_dev]
  have harming : a.dev.arming = none := by rw [hdev]; exact (transition_none h.transition).1
  obtain ⟨hses, hsquad, hshort, hsafe⟩ := enterSafe_keeps 6 harming
  have hports : (a.enterSafe 6).squad.ports = a.squad.ports := by rw [hsquad]
  have hcmd : (a.enterSafe 6).squad.cmd = none := by
    rw [hsquad, ← ha, began_squad]
    exact (transition_none h.transition).2.2
  obtain ⟨t, ht, hresp⟩ := h.responds (z := a.enterSafe 6) (fun _ => by rw [ha]; rfl) (by rw [ha]; exact hses)
    (by rw [ha]; exact quiet_same hports) hcmd (by rw [ha]; exact hshort)
  have hend : t.dev = (a.enterSafe 6).dev := bare_dev hresp (by rw [hsafe]; rfl)
  refine ⟨t, ht, hresp.answered, by rw [hend, hsafe], by rw [hend, hsafe, hdev], ?_, ?_⟩
  · rw [hresp.field, enterSafe_fire a 6 harming]
  · rw [hresp.cox, enterSafe_heats a 6 harming]

/-- STOP completes once no heat but SWATCH heats remains (R28, R30). -/
theorem stopToArmed_arms (hs : s.Settled) (hruns : s.dev.state.runs = true) (hstop : s.cox.stopReq = true) (hheats : s.otherHeats = 0) :
    ∃ t, exec .stopToArmed s = .next t ∧ t.dev.state = .armed ∧ t.cox = { s.cox with stopReq := false } ∧ t.field = s.field := by
  obtain ⟨t, ht, hends⟩ := lateEnd_same s ((s.modDev (fun d => { d with state := .armed })).modCox (fun c => { c with stopReq := false }))
    hs rfl rfl id
  refine ⟨t, ?_, (hends.state rfl).trans rfl, hends.cox, hends.field⟩
  rw [exec_stopToArmed, execStopToArmed, State.stopEnds, if_pos ⟨hstop, hheats, hruns⟩]
  exact ht

end

/-- Settles O20: an ARM that ends answers its session; DISARM and SAFE_ACK lead to INERT as `toInert_facts` says, STOP as `cox_stopNow` and
SAFE as `enterSafe` say. -/
theorem transitions : Obligations.Transitions := by
  unfold Obligations.Transitions
  refine ⟨fun s y r f h hs hy hr hq hinert harming => armDone_fails hs hy hr hq hinert harming,
    fun s y r h hs hy hr hq hinert harming hcheck hshort => armDone_arms hs hy hr hq hinert harming hcheck hshort,
    fun s x e htransition halone hload => ⟨fun hm harmed => ?_, fun hm hruns => ?_, fun hm hstate => ?_, fun hm hsafe hack => ?_⟩,
    fun s hs hruns hstop hheats => stopToArmed_arms hs hruns hstop hheats⟩
  · have h : s.Commands x e 2 := ⟨hm, htransition, halone, by decide, decide_eq_true harmed⟩
    obtain ⟨t, ht, hanswer, hstate, -, hfire, henables⟩ := h.inert hload fun _ => rfl
    exact ⟨t, ht, hanswer, hstate, hfire, henables⟩
  · exact stop_stops ⟨hm, htransition, halone, by decide, hruns⟩ hruns
  · exact safe_forces ⟨hm, htransition, halone, by decide, by simpa [DevState.allows] using hstate⟩
  · exact safeAck_inert ⟨hm, htransition, halone, by decide, decide_eq_true hsafe⟩ hload hack

end Sys2Proof.Machine
end

section
/-! SUPPORT. The memory accesses of an oar (R41, R155, R158, R161, R276, R279). -/

namespace Sys2Proof.Machine

open Sys2Proof

section
variable {s : State} {c : Fin 6} {l : Fin 512} {o : Oar} {w n : Nat} {e : Option EccError}

/-! ### Loads and stores -/

section
variable {st : Bool} {a sz : Nat} (hat : s.OarAt c l o w n .loadStore) (hst : st = (opOf w == 0x23 || opOf w == 0x27))
  (ha : a = (o.rx (rs1Of w) + (if st then immS w else immI w)) % 2 ^ 32) (hsz : sz = accessSize (f3Of w))

/-- The bytes that a store writes (R276). -/
def storeBytes (o : Oar) (w sz : Nat) : Bytes := leBytes sz (if opOf w = 0x27 then o.rf (rs2Of w) else o.rx (rs2Of w))

/-- A store of a floating-point register is one of opcode 0x27. -/
theorem fp_of_store (h : (opOf w == 0x23 || opOf w == 0x27) = true) : (opOf w == 0x07 || opOf w == 0x27) = (opOf w == 0x27) := by
  have : opOf w = 0x23 ∨ opOf w = 0x27 := by simpa using h
  rcases this with h | h <;> rw [h] <;> rfl

/-- A load of a floating-point register is one of opcode 0x07. -/
theorem fp_of_load (h : (opOf w == 0x23 || opOf w == 0x27) = false) : (opOf w == 0x07 || opOf w == 0x27) = (opOf w == 0x07) := by
  rw [(Bool.or_eq_false_iff.mp h).2, Bool.or_false]

include hat hst ha hsz

/-- A misaligned access, and one without a place, is a fault (R41, R279). -/
theorem exec_oarLoadStore_faults (h : a % sz ≠ 0 ∨ s.oarPlace c o a sz = none) :
    exec (.oarLoadStore c l e) s = finish s (s.oarFault c l o (if a % sz ≠ 0 then 3 else 1)) := by
  rw [exec_oarLoadStore, execOarLoadStore, oarStep_does _ _ _ _ _ _ _ _ hat]
  dsimp only
  rw [← hst, ← ha, ← hsz]
  by_cases halign : a % sz ≠ 0
  · rw [if_pos halign, if_pos halign]
  · rw [if_neg halign, if_neg halign, h.resolve_left halign]

variable (halign : a % sz = 0)
include halign

/-- A store into local memory completes at once. -/
theorem exec_oarLoadStore_storesLocal {q : Nat} (hplace : s.oarPlace c o a sz = some (.local_ q)) (h : st = true) :
    exec (.oarLoadStore c l e) s =
      finish s ((s.setOarMem c l (memWriteN (s.oarMem c l) q (storeBytes o w sz))).setOar c l (some (o.retire n))) := by
  rw [exec_oarLoadStore, execOarLoadStore, oarStep_does _ _ _ _ _ _ _ _ hat]
  dsimp only
  rw [fp_of_store (hst.symm.trans h), ← hst, ← ha, ← hsz, if_neg (not_not_intro halign), hplace, h]
  simp only [beq_iff_eq, if_true]
  rfl

/-- A load from local memory completes at once. -/
theorem exec_oarLoadStore_loadsLocal {q : Nat} (hplace : s.oarPlace c o a sz = some (.local_ q)) (h : st = false) :
    exec (.oarLoadStore c l none) s = finish s (s.setOar c l
      (some ((o.fill (rdOf w) (decide (f3Of w < 4)) (opOf w == 0x07) (memReadN (s.oarMem c l) q sz)).retire n))) := by
  rw [exec_oarLoadStore, execOarLoadStore, oarStep_does _ _ _ _ _ _ _ _ hat]
  dsimp only
  rw [fp_of_load (hst.symm.trans h), ← hst, ← ha, ← hsz, if_neg (not_not_intro halign), hplace, h]
  rfl

variable {x : OarPlace} (hplace : s.oarPlace c o a sz = some x) (hfar : ∀ q, x ≠ .local_ q) (hfree : o.access = none)
include hplace hfar hfree

/-- A store to another place is issued, and the oar goes on. -/
theorem exec_oarLoadStore_storesFar (h : st = true) : exec (.oarLoadStore c l e) s = finish s (s.setOar c l (some { o.retire n with
    access := some ⟨a, sz, some (storeBytes o w sz), rdOf w, decide (f3Of w < 4), opOf w == 0x27, none, o.pc + n, s.now⟩ })) := by
  rw [exec_oarLoadStore, execOarLoadStore, oarStep_does _ _ _ _ _ _ _ _ hat]
  dsimp only
  rw [fp_of_store (hst.symm.trans h), ← hst, ← ha, ← hsz, if_neg (not_not_intro halign), hplace, h]
  cases x with
  | local_ q => exact absurd rfl (hfar q)
  | _ =>
    rw [hfree]
    simp only [beq_iff_eq, if_true, Option.isSome_none, Bool.false_eq_true, if_false]
    rfl

/-- A load from another place is issued, and the oar waits. -/
theorem exec_oarLoadStore_loadsFar (h : st = false) : exec (.oarLoadStore c l e) s = finish s (s.setOar c l (some { o with
    access := some ⟨a, sz, none, rdOf w, decide (f3Of w < 4), opOf w == 0x07, none, o.pc + n, s.now⟩ })) := by
  rw [exec_oarLoadStore, execOarLoadStore, oarStep_does _ _ _ _ _ _ _ _ hat]
  dsimp only
  rw [fp_of_load (hst.symm.trans h), ← hst, ← ha, ← hsz, if_neg (not_not_intro halign), hplace, h]
  cases x with
  | local_ q => exact absurd rfl (hfar q)
  | _ => rw [hfree]; rfl

end

/-! ### SLV.GET and SLV.PUT (R276) -/

/-- SLV.GET from another place into local memory is issued. -/
theorem exec_slvGet_issues (hat : s.OarAt c l o w n .slvGet) (hfrom : o.rx (rs1Of w) % 64 = 0) (hinto : o.rx (rs2Of w) % 64 = 0)
    {x : OarPlace} {q : Nat} (hx : s.oarPlace c o (o.rx (rs1Of w)) 64 = some x) (hfar : ∀ q, x ≠ .local_ q)
    (hq : s.oarPlace c o (o.rx (rs2Of w)) 64 = some (.local_ q)) (hfree : o.access = none) :
    exec (.slvGet c l) s = finish s (s.setOar c l (some { o with
      access := some ⟨o.rx (rs1Of w), 64, none, 0, false, false, some (o.rx (rs2Of w)), o.pc + n, s.now⟩ })) := by
  rw [exec_slvGet, execSlvGet, oarStep_does _ _ _ _ _ _ _ _ hat]
  dsimp only
  rw [if_neg (by simp [hfrom, hinto]), hx, hq]
  cases x with
  | local_ q => exact absurd rfl (hfar q)
  | _ => rw [hfree]; rfl

section
variable (hat : s.OarAt c l o w n .slvPut) (hinto : o.rx (rs1Of w) % 64 = 0) (hfrom : o.rx (rs2Of w) % 64 = 0) {q : Nat}
  (hq : s.oarPlace c o (o.rx (rs2Of w)) 64 = some (.local_ q))
include hat hinto hfrom hq

/-- SLV.PUT within local memory copies at once. -/
theorem exec_slvPut_copies {p : Nat} (hx : s.oarPlace c o (o.rx (rs1Of w)) 64 = some (.local_ p)) :
    exec (.slvPut c l none) s = finish s ((s.setOarMem c l (memWriteN (s.oarMem c l) p (memReadN (s.oarMem c l) q 64))).setOar c l
      (some (o.retire n))) := by
  rw [exec_slvPut, execSlvPut, oarStep_does _ _ _ _ _ _ _ _ hat]
  dsimp only
  rw [if_neg (by simp [hfrom, hinto]), hx, hq]
  rfl

/-- SLV.PUT to another place is issued. -/
theorem exec_slvPut_issues {x : OarPlace} (hx : s.oarPlace c o (o.rx (rs1Of w)) 64 = some x) (hfar : ∀ p, x ≠ .local_ p)
    (hfree : o.access = none) : exec (.slvPut c l none) s = finish s (s.setOar c l (some { o.retire n with
      access := some ⟨o.rx (rs1Of w), 64, some (memReadN (s.oarMem c l) q 64), 0, false, false, none, o.pc + n, s.now⟩ })) := by
  rw [exec_slvPut, execSlvPut, oarStep_does _ _ _ _ _ _ _ _ hat]
  dsimp only
  rw [if_neg (by simp [hfrom, hinto]), hx, hq]
  cases x with
  | local_ p => exact absurd rfl (hfar p)
  | _ => rw [hfree]; rfl

end

/-- SLV.GET with an address that is no multiple of 64 is a fault. -/
theorem exec_slvGet_misaligned (hat : s.OarAt c l o w n .slvGet) (h : o.rx (rs1Of w) % 64 ≠ 0 ∨ o.rx (rs2Of w) % 64 ≠ 0) :
    exec (.slvGet c l) s = finish s (s.oarFault c l o 3) := by
  rw [exec_slvGet, execSlvGet, oarStep_does _ _ _ _ _ _ _ _ hat]
  dsimp only
  rw [if_pos h]

/-- SLV.PUT with an address that is no multiple of 64 is a fault. -/
theorem exec_slvPut_misaligned (hat : s.OarAt c l o w n .slvPut) (h : o.rx (rs1Of w) % 64 ≠ 0 ∨ o.rx (rs2Of w) % 64 ≠ 0) :
    exec (.slvPut c l e) s = finish s (s.oarFault c l o 3) := by
  rw [exec_slvPut, execSlvPut, oarStep_does _ _ _ _ _ _ _ _ hat]
  dsimp only
  rw [if_pos h]

/-! ### Accesses that return (R155, R158, R161) -/

section
variable {a : OarAccess} (ho : s.oar? c l = some o) (ha : o.access = some a)
include ho ha

/-- An access whose bank serves another one first waits. -/
theorem exec_oarAccessReturn_waits (h : s.servedBefore c l a = true) : exec (.oarAccessReturn c l e) s = .next s := by
  rw [exec_oarAccessReturn, execOarAccessReturn, ho]
  dsimp only
  rw [ha]
  dsimp only
  rw [if_pos h]

variable (h : s.servedBefore c l a = false)
include h

/-- An access that finds its place gone is an access fault. -/
theorem exec_oarAccessReturn_gone (hplace : s.oarPlace c o a.addr a.size = none) :
    exec (.oarAccessReturn c l e) s = finish s (s.oarFault c l { o with access := none } 1) := by
  rw [exec_oarAccessReturn, execOarAccessReturn, ho]
  dsimp only
  rw [ha]
  dsimp only
  rw [h, if_neg Bool.false_ne_true, hplace]

variable {x : OarPlace} (hplace : s.oarPlace c o a.addr a.size = some x)
include hplace

/-- A store writes its bytes. -/
theorem exec_oarAccessReturn_stores {b : Bytes} (hstore : a.store = some b) :
    exec (.oarAccessReturn c l e) s = finish s ((s.oarWrite c l o x b).setOar c l (some { o with access := none })) := by
  rw [exec_oarAccessReturn, execOarAccessReturn, ho]
  dsimp only
  rw [ha]
  dsimp only
  rw [h, if_neg Bool.false_ne_true, hplace]
  dsimp only
  rw [hstore]

/-- A load fills its register and retires. -/
theorem exec_oarAccessReturn_loads (hstore : a.store = none) (hlocal : a.local_ = none) :
    exec (.oarAccessReturn c l none) s = finish s (s.setOar c l
      (some (({ o with access := none } : Oar).retire (a.next - o.pc) |>.fill a.rd a.signed a.fp (s.oarRead c l o x a.size)))) := by
  rw [exec_oarAccessReturn, execOarAccessReturn, ho]
  dsimp only
  rw [ha]
  dsimp only
  rw [h, if_neg Bool.false_ne_true, hplace]
  dsimp only
  rw [hstore, hlocal]
  rfl

/-- SLV.GET puts its bytes into local memory. -/
theorem exec_oarAccessReturn_gets {q : Nat} (hstore : a.store = none) (hlocal : a.local_ = some q) :
    exec (.oarAccessReturn c l none) s = finish s ((s.setOarMem c l (memWriteN (s.oarMem c l) q (s.oarRead c l o x a.size))).setOar c l
      (some (({ o with access := none } : Oar).retire (a.next - o.pc)))) := by
  rw [exec_oarAccessReturn, execOarAccessReturn, ho]
  dsimp only
  rw [ha]
  dsimp only
  rw [h, if_neg Bool.false_ne_true, hplace]
  dsimp only
  rw [hstore, hlocal]
  rfl

end

/-- A write at a place changes a memory or a tensor alone. -/
theorem kernel_oarWrite (s : State) (c l : Nat) (o : Oar) (x : OarPlace) (b : Bytes) : (s.oarWrite c l o x b).kernel = s.kernel := by
  unfold State.oarWrite
  split
  · rfl
  · split
    · exact kernel_modHeat ..
    · rfl
  · rfl

end

/-- Settles O53: each access does what its lemma above gives, on the oar itself and on the memory or the tensor that it names; none touches what
the end of a row looks at, and a fault is a detected error of the oar. -/
theorem oarMemory : Obligations.OarMemory := by
  unfold Obligations.OarMemory
  intro s c l o w n e
  refine ⟨fun st a sz hst ha hsz hat => ⟨fun hbad hlimit k h hheat => ?_, fun q halign hplace => ⟨fun h => ?_, fun h he => ?_⟩,
    fun x halign hplace hfar hfree => ⟨fun h => ?_, fun h => ?_⟩⟩, fun hat hfrom hinto x q hx hfar hq hfree => ?_,
    fun hat hinto hfrom he x q hx hq => ⟨fun p hp => ?_, fun hfar hfree => ?_⟩, fun k i hi hat hbad hlimit j h hheat => ?_,
    fun a ho ha => ⟨exec_oarAccessReturn_waits ho ha, fun hserved x hplace => ⟨fun b hstore _ => ?_, fun hstore he hlocal => ?_,
      fun q hstore he hlocal => ?_⟩⟩, fun a ho ha hserved hplace hlimit k h hheat => ?_⟩
  · rw [exec_oarLoadStore_faults hat hst ha hsz hbad]
    exact fault_does s c l o o _ 8 (by split <;> rfl) k h rfl rfl rfl hheat hlimit
  · rw [exec_oarLoadStore_storesLocal hat hst ha hsz halign hplace h]
    exact finish_kernel rfl
  · rw [he, exec_oarLoadStore_loadsLocal hat hst ha hsz halign hplace h]
    exact finish_kernel rfl
  · rw [exec_oarLoadStore_storesFar hat hst ha hsz halign hplace hfar hfree h]
    exact finish_kernel rfl
  · rw [exec_oarLoadStore_loadsFar hat hst ha hsz halign hplace hfar hfree h]
    exact finish_kernel rfl
  · rw [exec_slvGet_issues hat hfrom hinto hx hfar hq hfree]
    exact finish_kernel rfl
  · rw [he, exec_slvPut_copies hat hinto hfrom hq (hp ▸ hx)]
    exact finish_kernel rfl
  · rw [he, exec_slvPut_issues hat hinto hfrom hq hx hfar hfree]
    exact finish_kernel rfl
  · simp only [List.mem_cons, Prod.mk.injEq, List.not_mem_nil, or_false] at hi
    obtain ⟨rfl, rfl⟩ | ⟨rfl, rfl⟩ := hi
    · rw [exec_slvGet_misaligned hat hbad]
      exact fault_does s c l o o 3 8 rfl j h rfl rfl rfl hheat hlimit
    · rw [exec_slvPut_misaligned hat hbad]
      exact fault_does s c l o o 3 8 rfl j h rfl rfl rfl hheat hlimit
  · rw [exec_oarAccessReturn_stores ho ha hserved hplace hstore]
    exact finish_kernel (kernel_oarWrite ..)
  · rw [he, exec_oarAccessReturn_loads ho ha hserved hplace hstore hlocal]
    exact finish_kernel rfl
  · rw [he, exec_oarAccessReturn_gets ho ha hserved hplace hstore hlocal]
    exact finish_kernel rfl
  · rw [exec_oarAccessReturn_gone ho ha hserved hplace]
    exact fault_does s c l o { o with access := none } 1 8 rfl k h rfl rfl rfl hheat hlimit

end Sys2Proof.Machine
end

section
/-! SUPPORT. The work of a squad: commands and loads that the stroke seat carries, their answers, spanning heats, and the page manager's decisions
(R30, R38, R337, R408, R410, R412, R416). -/

namespace Sys2Proof.Machine

open Sys2Proof

/-! ### Rows that leave nothing waiting -/

/-- The state `v` has no work that waits and no news of a port that `s` did not have, and no partition has become short of crews. -/
structure State.Calm (s v : State) : Prop where
  sessions : v.od.sessions = s.od.sessions
  cmd : v.squad.cmd = s.squad.cmd
  ports : v.portStates = s.portStates
  short : v.crewsShort = true → s.crewsShort = true

section
variable {s u v w : State}

theorem State.Calm.trans (h : s.Calm v) (h' : v.Calm w) : s.Calm w :=
  ⟨h'.sessions.trans h.sessions, h'.cmd.trans h.cmd, h'.ports.trans h.ports, h.short ∘ h'.short⟩

theorem calm_beyond (hbeyond : v.beyond = s.beyond) (hports : v.portStates = s.portStates) : s.Calm v :=
  ⟨beyond_sessions hbeyond, beyond_cmd hbeyond, hports, by rw [beyond_crews hbeyond]; exact id⟩

theorem calm_refl (s : State) : s.Calm s := calm_beyond rfl rfl

theorem calm_takeCtrl (s : State) (x m : Nat) : s.Calm (s.takeCtrl x m) := calm_beyond rfl rfl

theorem calm_sendTo (s : State) (x : Nat) (m : CtrlMsg) : s.Calm (s.sendTo x m) := calm_beyond (beyond_sendTo ..) (states_sendTo ..)

theorem calm_modSquad (s : State) (f : Squad → Squad) (hcmd : (f s.squad).cmd = s.squad.cmd) (hports : (f s.squad).ports = s.squad.ports) :
    s.Calm (s.modSquad f) :=
  ⟨rfl, hcmd, states_modSquad _ _ hports, by rw [crewsShort_congr s (s.modSquad f) rfl rfl rfl rfl rfl]; exact id⟩

theorem calm_desk (hdesk : v.desk = s.desk) (hshort : v.crewsShort = true → s.crewsShort = true) : s.Calm v :=
  ⟨ses_desk hdesk, congrArg Squad.cmd (squad_desk hdesk), ports_of (squad_desk hdesk), hshort⟩

/-- A kernel that differs in the device block alone. -/
theorem calm_kernel (d : Device) (hk : v.kernel = { s.kernel with dev := d }) : s.Calm v where
  sessions := congrArg Kernel.sessions hk
  cmd := congrArg (fun k => k.squad.cmd) hk
  ports := ports_of (congrArg Kernel.squad hk)
  short := by
    rw [crewsShort_congr s v (congrArg Kernel.committed hk) (congrArg Kernel.fuses hk) (congrArg Kernel.held hk) (congrArg Kernel.crews hk)
      (congrArg Kernel.packages hk)]
    exact id

/-- A row that leaves nothing waiting ends as it left the state. -/
theorem State.Calm.row (hv : s.Calm v) (hs : s.Settled) (hu : u = v) : ∃ t, lateEnd s u = .next t ∧ v.EndsAs t := by
  subst hu
  exact late_gen hv.sessions hv.cmd hv.ports hv.short hs

/-- A row without news of a port ends with the squad's command and the requests that wait. -/
theorem lateEnd_settling (hports : v.portStates = s.portStates) (hidle : v.cmdSettle.idleWork = none) : lateEnd s v = finish s v.cmdSettle := by
  unfold lateEnd
  rw [nlSettle_quiet _ _ (quiet_states hports), drainAll_idle _ hidle]

/-- A row that ends with the answer to the request `r`, which executes. -/
theorem lateEnd_answers {h : Nat} {y : Session} {r : Request} {st : Status} (hidle : s.idleWork = none) (hports : v.portStates = s.portStates)
    (hv : v.cmdSettle = w.complete (.session h r.env.reqId.toNat) st []) (hses : w.od.sessions = s.od.sessions)
    (hshort : w.crewsShort = s.crewsShort) (hy : s.session? h = some y) (hr : y.executing = some r) (hq : y.queue = []) :
    ∃ t, lateEnd s v = .next t ∧ t.Answered r st ∧ t.squad = w.squad := by
  obtain ⟨ss, b, c, l, f, hw, -, hanswer, hdone⟩ := complete_rest w h y r st [] ((session?_congr hses h).trans hy) hr hq
    ((idleWork_sessions hses).trans hidle)
  rw [lateEnd_settling hports (by rw [hv]; exact hdone), hv]
  obtain ⟨t, ht, hends⟩ := finish_ends s (w.complete (.session h r.env.reqId.toNat) st []) (by
    rw [hw]
    exact fun k => hshort.symm.trans ((crewsShort_congr _ _ rfl rfl rfl rfl rfl).symm.trans k))
  exact ⟨t, ht, answered_ends hends hanswer, by rw [hends.squad, hw]⟩

end

/-! ### Commands that the stroke seat carries (R38, R408) -/

section
variable {s : State} {x : Nat}

/-- A command of the stroke seat acts as on the seat's own entry; the answer goes back where it does not come later. -/
theorem exec_command_from {c : BitVec 8} {r : Reply} (hf : s.follows = some x) (hr : (s.takeCtrl x 6).devCommand (.squad 0) c.toNat = r)
    (hdisarm : ¬ (c = 2 ∧ r.status = .ok)) :
    exec (.command c) s = lateEnd s (if r.later then r.state else r.state.answer (.squad 0) r.status 0) := by
  subst hr
  rw [exec_command, execCommand, hf]
  exact congrArg (lateEnd s) (if_neg hdisarm)

/-- A command in its place, with no transition in progress, acts on this seat alone. -/
theorem exec_command_acts {c : BitVec 8} {r : Reply} (hr : (s.takeCtrl x 6).devDo (.squad 0) c.toNat = r) (hf : s.follows = some x) (h1 : 1 ≤ c.toNat) (h4 : c.toNat ≤ 4) (hallows : s.dev.state.allows c.toNat = true)
    (htransition : s.transition = false) (hdisarm : c ≠ 2) : exec (.command c) s =
    lateEnd s (if r.later then r.state else r.state.answer (.squad 0) r.status 0) :=
  exec_command_from hf ((squad_dev (s.takeCtrl x 6) c.toNat h1 h4 hallows htransition).trans hr) (fun h => hdisarm h.1)

section
variable {c : BitVec 8} {z : State} (hf : s.follows = some x) (h1 : 1 ≤ c.toNat) (h4 : c.toNat ≤ 4) (hallows : s.dev.state.allows c.toNat = true)
  (htransition : s.transition = false) (hdisarm : c ≠ 2)
include hf h1 h4 hallows htransition hdisarm

theorem exec_command_ok (hdo : (s.takeCtrl x 6).devDo (.squad 0) c.toNat = .ok z) :
    exec (.command c) s = lateEnd s (z.answer (.squad 0) .ok 0) :=
  (exec_command_acts hdo hf h1 h4 hallows htransition hdisarm).trans (congrArg (lateEnd s) (if_neg Bool.false_ne_true))

theorem exec_command_wait (hdo : (s.takeCtrl x 6).devDo (.squad 0) c.toNat = .wait z) : exec (.command c) s = lateEnd s z :=
  (exec_command_acts hdo hf h1 h4 hallows htransition hdisarm).trans (congrArg (lateEnd s) (if_pos rfl))

end

/-- The answer to DISARM leaves before INERT ends the links (R32). -/
theorem exec_command_disarm (hf : s.follows = some x) (hallows : s.dev.state.allows 2 = true) (htransition : s.transition = false) :
    exec (.command 2) s = lateEnd s ((s.takeCtrl x 6).answer (.squad 0) .ok 0).toInert := by
  rw [exec_command, execCommand, hf]
  exact congrArg (lateEnd s) (if_pos ⟨rfl, congrArg Reply.status
    (squad_dev (s.takeCtrl x 6) 2 (by decide) (by decide) hallows htransition)⟩)

theorem devCommand_refused {u : State} {c : Nat} (o : Origin) (hc : c ≤ 8) (h : u.dev.state.allows c = false) : u.devCommand o c = .err u .state := by
  unfold State.devCommand
  rw [if_neg (by omega), h]
  rfl

theorem seat_kernel {s t : State} (h : t.kernel = s.kernel) : t.seat = s.seat := by
  unfold State.seat
  rw [num_kernel h]

/-- The answer that a seat sends to the stroke seat. -/
theorem squad_answers {u z : State} (st : Status) (hs : s.Settled) (hx : x ≠ s.seat) (hz : s.Calm u) (hsq : u.squad.stroke = some x)
    (hseat : u.seat = s.seat) (h : z = u.answer (.squad 0) st 0) :
    ∃ t, lateEnd s z = .next t ∧ (u.sendTo x (.commandDone st.code 0)).EndsAs t :=
  (hz.trans (calm_sendTo ..)).row hs (h.trans (squad_answer st 0 hsq (by rw [hseat]; exact hx)))

variable (hs : s.Settled) (hstroke : s.squad.stroke = some x) (hx : x ≠ s.seat)
include hs hstroke hx

theorem command_refused {c : BitVec 8} (hc : c.toNat ≤ 4) (h : s.dev.state.allows c.toNat = false) : ∃ t, exec (.command c) s = .next t ∧
    ((s.takeCtrl x 6).sendTo x (.commandDone Status.state.code 0)).EndsAs t := by
  rw [exec_command_from (squad_follows hstroke hx) (devCommand_refused (u := s.takeCtrl x 6) _ (by omega) h) (by rintro ⟨-, h⟩; cases h)]
  exact squad_answers .state hs hx (calm_takeCtrl ..) hstroke rfl rfl

theorem command_arms (hinert : s.dev.state = .inert) (htransition : s.transition = false) : ∃ t, exec (.command 1) s = .next t ∧
    ((s.takeCtrl x 6).modDev (fun d => { d with arming := some (.squad 0, (s.takeCtrl x 6).armCheck) })).EndsAs t := by
  obtain ⟨z, hz⟩ : ∃ z, (s.takeCtrl x 6).modDev (fun d => { d with arming := some (.squad 0, (s.takeCtrl x 6).armCheck) }) = z := ⟨_, rfl⟩
  have hcalm : s.Calm z := (calm_takeCtrl s x 6).trans (hz ▸ calm_kernel _ rfl)
  rw [exec_command_wait (c := 1) (squad_follows hstroke hx) (by decide) (by decide) (decide_eq_true hinert) htransition (by decide)
    (congrArg Reply.wait hz), hz]
  exact hcalm.row hs rfl

theorem command_starts (harmed : s.dev.state = .armed) (htransition : s.transition = false) : ∃ t, exec (.command 3) s = .next t ∧
    ((((s.takeCtrl x 6).modDev (fun d => { d with state := if (s.takeCtrl x 6).anyOos then .degraded else .run })).modCox
      (fun c => { c with admitting := true })).sendTo x (.commandDone Status.ok.code 0)).EndsAs t := by
  rw [exec_command_ok (c := 3) (squad_follows hstroke hx) (by decide) (by decide) (decide_eq_true harmed) htransition (by decide) rfl]
  exact squad_answers .ok hs hx ((calm_takeCtrl s x 6).trans (calm_kernel _ rfl)) hstroke rfl rfl

theorem command_stops (hruns : s.dev.state.runs = true) (htransition : s.transition = false) : ∃ t, exec (.command 4) s = .next t ∧
    ((s.takeCtrl x 6).stopNow.sendTo x (.commandDone Status.ok.code 0)).EndsAs t := by
  obtain ⟨z, hz⟩ : ∃ z, (s.takeCtrl x 6).stopNow = z := ⟨_, rfl⟩
  have hk : z.kernel = (s.takeCtrl x 6).kernel := by rw [← hz, kernel_stopNow]
  rw [exec_command_ok (c := 4) (squad_follows hstroke hx) (by decide) (by decide) hruns htransition (by decide) (congrArg Reply.ok hz), hz]
  exact squad_answers .ok hs hx ((calm_takeCtrl s x 6).trans (calm_kernel _ hk)) ((congrArg Squad.stroke (squad_kernel hk)).trans hstroke) (seat_kernel hk :)
    rfl

/-- DISARM leads to INERT, and clears the fire list and the enables (R32). -/
theorem command_disarms (harmed : s.dev.state = .armed) (hload : s.squad.load = none) (htransition : s.transition = false) :
    ∃ t, exec (.command 2) s = .next t ∧ t.dev.state = .inert ∧ t.field.fire.entries = [] ∧ ∀ e ∈ inertEnables, ∀ i < e.2, t.num e.1 i = 0 := by
  rw [exec_command_disarm (squad_follows hstroke hx) (decide_eq_true harmed) htransition, squad_answer (u := s.takeCtrl x 6) .ok 0 hstroke hx]
  obtain ⟨z, hz⟩ : ∃ z, (s.takeCtrl x 6).sendTo x (.commandDone Status.ok.code 0) = z := ⟨_, rfl⟩
  have hbeyond : z.beyond = s.beyond := by rw [← hz, beyond_sendTo]; rfl
  have hlinks : z.links = s.links := by rw [← hz, links_sendTo]; rfl
  have hcalm : s.Calm z := hz ▸ (calm_takeCtrl s x 6).trans (calm_sendTo ..)
  have hcmd : z.squad.cmd = none := hcalm.cmd.trans hs.2
  have hnoload : z.squad.load = none := (congrArg (fun u => u.squad.load) hbeyond).trans hload
  rw [hz]
  obtain ⟨hses, -, -, hdev, hnone, hquiet, hshort, henables⟩ := toInert_facts z hcmd hnoload
  obtain ⟨t, ht, hends⟩ := lateEnd_ends s z.toInert (nlSettle_quiet _ _ (quiet_start hlinks hquiet))
    (settled_congr (hses.trans hcalm.sessions) (hnone.trans hs.2.symm) hs) (by rw [hshort]; exact hcalm.short)
  refine ⟨t, ht, ?_, ?_, fun e he i hi => ?_⟩
  · rw [hends.state (by rw [hdev]; rfl), hdev]
  · rw [hends.field, toInert_fire z hcmd hnoload]
  · rw [← henables e he i hi, State.num, State.num, val_congr (congrArg (fun o => o.committed) hends.od) (congrArg Boot.fuses hends.boot)]

end

/-! ### Spanning heats to come, decisions of the page manager, and loads (R337, R410, R412) -/

/-- The LOAD_RESULT of a load (R412). -/
def loadAnswer : Option LoadFault → CtrlMsg
  | some f => .loadResult f.status.code f.word
  | none => .loadResult 0 0

section
variable {s : State} {x : Nat} (hs : s.Settled) (hf : s.follows = some x)
include hs hf

theorem admit_keeps {a : State} (n : BitVec 64) (slot : Fin 16) (plan : BitVec 8) (start : Nat) (ha : a = s.takeCtrl x 8) :
    (s.squad.state = .formed → ∃ t, exec (.admitHeat n slot plan start) s = .next t ∧
      (a.modSquad (fun q => { q with spans := q.spans ++ [⟨n.toNat, slot.val, plan.toNat, start, 0, false, false, []⟩] })).EndsAs t) ∧
    (s.squad.state ≠ .formed → ∃ t, exec (.admitHeat n slot plan start) s = .next t ∧ a.EndsAs t) := by
  subst ha
  rw [exec_admit, execAdmit, hf]
  exact ⟨fun h => ((calm_takeCtrl s x 8).trans (calm_modSquad _ _ rfl rfl)).row hs (if_pos h), fun h => (calm_takeCtrl s x 8).row hs (if_neg h)⟩

theorem kvDecision_applies {a : State} (part : Fin 8) (d : KvDecision) (ha : a = s.takeCtrl x 0xA) :
    (s.kvFollows = true → ∃ t, exec (.kvDecision part d) s = .next t ∧ (a.applyDecision part.val d).EndsAs t) ∧
    (s.kvFollows = false → ∃ t, exec (.kvDecision part d) s = .next t ∧ a.EndsAs t) := by
  subst ha
  rw [exec_kvDecision, execKvDecision, hf]
  refine ⟨fun h => ?_, fun h => (calm_takeCtrl s x 0xA).row hs (if_neg (by rw [h]; decide))⟩
  obtain ⟨hdesk, hshort⟩ := applyDecision_lists (s.takeCtrl x 0xA) part.val d
  exact ((calm_takeCtrl s x 0xA).trans (calm_desk hdesk (by rw [hshort]; exact id))).row hs (if_pos h)

theorem load_unloads (i : Fin 16) (b : Bytes) (hshort : ((s.takeCtrl x 0xC).unload i).crewsShort = true → s.crewsShort = true) :
    ∃ t, exec (.load i b true) s = .next t ∧ ((s.takeCtrl x 0xC).unload i).EndsAs t := by
  rw [exec_load, execLoad, hf]
  exact ((calm_takeCtrl s x 0xC).trans (calm_desk (desk_unload ..) hshort)).row hs rfl

theorem load_refused (i : Fin 16) (b : Bytes) (hstate : s.dev.state ≠ .inert) : ∃ t, exec (.load i b false) s = .next t ∧
    ((s.takeCtrl x 0xC).sendTo x (.loadResult Status.state.code s.cox.lastFault)).EndsAs t := by
  rw [exec_load, execLoad, hf]
  exact ((calm_takeCtrl s x 0xC).trans (calm_sendTo ..)).row hs (if_pos hstate)

theorem load_answers (i : Fin 16) (b : Bytes) {u : State} {f : Option LoadFault} (hinert : s.dev.state = .inert)
    (hload : (s.takeCtrl x 0xC).loadAt (some i) b = (u, f)) (hshort : u.crewsShort = true → s.crewsShort = true) :
    ∃ t, exec (.load i b false) s = .next t ∧ (u.sendTo x (loadAnswer f)).EndsAs t := by
  have hdesk : u.desk = (s.takeCtrl x 0xC).desk := by
    have h := desk_loadAt (s.takeCtrl x 0xC) (some i) b
    rwa [hload] at h
  have hcalm : s.Calm u := (calm_takeCtrl s x 0xC).trans (calm_desk hdesk hshort)
  rw [exec_load, execLoad, hf]
  refine (hcalm.trans (calm_sendTo u x _)).row hs ((if_neg (not_not_intro hinert)).trans ?_)
  rw [hload]
  cases f <;> rfl

end

/-! ### The answers to a command (R408) -/

section
variable {s v : State} {n : Nat} {st af : Nat}

theorem seatResult_none (h : s.squad.cmd = none) : s.seatResult n st af = s :=
  sameSquad s _ (by rw [h]; exact congrArg (fun c => ({ s.squad with cmd := c } : Squad)) h.symm)

theorem seatResult_counts {c d : SqdCmd} (h : s.squad.cmd = some c) (hwaits : c.waiting.testBit n = true)
    (hd : d = ⟨c.code, clearMask c.waiting (2 ^ n), if st = 0 then c.failed else c.failed ++ [(n, st, af)],
      if st = 0 then c.armed ||| 2 ^ n else c.armed, c.reply⟩) :
    s.seatResult n st af = s.modSquad (fun q => { q with cmd := some d }) := by
  subst hd
  unfold State.seatResult State.modSquad
  dsimp only
  rw [h]
  dsimp only [Option.map]
  rw [hwaits]
  rfl

theorem cmdSettle_waits {c : SqdCmd} (h : s.squad.cmd = some c) (hwaits : c.waiting ≠ 0) (hdisarm : ¬ (c.code = 2 ∧ c.waiting = 2 ^ s.seat)) :
    s.cmdSettle = s := by
  unfold State.cmdSettle
  rw [h]
  exact if_neg (not_or.2 ⟨hwaits, hdisarm⟩)

/-- The command START or STOP ends with OK where every seat has done it. -/
theorem cmdSettle_succeeds {c : SqdCmd} (h : s.squad.cmd = some c) (hdone : c.waiting = 0) (hcode : c.code = 3 ∨ c.code = 4) (hfault : c.fault = none) :
    s.cmdSettle = (s.modSquad (fun q => { q with cmd := none })).complete c.reply .ok [] := by
  have hdisarm : c.code ≠ 2 := by omega
  unfold State.cmdSettle
  simp only [h, hdone, hfault, hdisarm, true_or, if_true, if_false]

/-- Otherwise the first failing answer by seat is the response. -/
theorem cmdSettle_fails {c : SqdCmd} {f k w : Nat} (h : s.squad.cmd = some c) (hdone : c.waiting = 0) (hcode : c.code = 3 ∨ c.code = 4)
    (hfault : c.fault = some (f, k, w)) :
    s.cmdSettle = (s.modSquad (fun q => { q with cmd := none, cmdFaultSeat := some f })).complete c.reply (statusOf k) [] := by
  have harm : c.code ≠ 1 := by omega
  have hdisarm : c.code ≠ 2 := by omega
  unfold State.cmdSettle
  simp only [h, hdone, hfault, harm, hdisarm, true_or, if_true, if_false]
  rfl

end

/-! ### How a row ends with the squad's command under way -/

section
variable {s v : State} {d : SqdCmd} (hidle : s.idleWork = none) (hports : v.portStates = s.portStates) (hses : v.od.sessions = s.od.sessions)
  (hshort : v.crewsShort = s.crewsShort) (hcmd : v.squad.cmd = some d)
include hidle hports hses hshort hcmd

theorem lateEnd_commandWaits (hmore : d.waiting ≠ 0) (hdisarm : ¬ (d.code = 2 ∧ d.waiting = 2 ^ v.seat)) : ∃ t, lateEnd s v = .next t ∧ v.EndsAs t := by
  have hsettle := cmdSettle_waits hcmd hmore hdisarm
  rw [lateEnd_settling hports (by rw [hsettle, idleWork_sessions hses]; exact hidle), hsettle]
  exact finish_ends _ _ (by rw [hshort]; exact id)

end

/-! ### COMMAND_DONE -/

section
variable {s : State} {n : Fin 32} {st : BitVec 8} {af : BitVec 32}

theorem commandDone_ignored (hs : s.Settled) : ∃ t, exec (.commandDone n st af) s = .next t ∧ (s.takeCtrl n 7).EndsAs t :=
  (calm_takeCtrl s n 7).row hs (seatResult_none hs.2)

/-- A seat of those that the command waits for has answered. -/
theorem exec_commandDone_counts {c d : SqdCmd} (hcmd : s.squad.cmd = some c) (hwaits : c.waiting.testBit n = true)
    (hd : d = ⟨c.code, clearMask c.waiting (2 ^ n.val), if st = 0 then c.failed else c.failed ++ [(n.val, st.toNat, af.toNat)],
      if st = 0 then c.armed ||| 2 ^ n.val else c.armed, c.reply⟩) :
    exec (.commandDone n st af) s = lateEnd s ((s.takeCtrl n 7).modSquad (fun q => { q with cmd := some d })) := by
  have hzero : (st.toNat = 0) = (st = 0) := propext (BitVec.toNat_inj (x := st) (y := 0))
  rw [exec_commandDone, execCommandDone,
    seatResult_counts (s := s.takeCtrl n 7) (d := d) hcmd hwaits (by simp only [hd, hzero])]

section
variable {c d : SqdCmd} (hidle : s.idleWork = none) (hcmd : s.squad.cmd = some c) (hwaits : c.waiting.testBit n = true)
  (hd : d = ⟨c.code, clearMask c.waiting (2 ^ n.val), if st = 0 then c.failed else c.failed ++ [(n.val, st.toNat, af.toNat)],
    if st = 0 then c.armed ||| 2 ^ n.val else c.armed, c.reply⟩)
include hidle hcmd hwaits hd

theorem commandDone_waits (hmore : d.waiting ≠ 0) (hdisarm : ¬ (c.code = 2 ∧ d.waiting = 2 ^ s.seat)) :
    ∃ t, exec (.commandDone n st af) s = .next t ∧ ((s.takeCtrl n 7).modSquad (fun q => { q with cmd := some d })).EndsAs t := by
  have hcode : c.code = d.code := by rw [hd]
  rw [exec_commandDone_counts hcmd hwaits hd]
  rw [hcode] at hdisarm
  exact lateEnd_commandWaits hidle rfl rfl (crewsShort_congr _ _ rfl rfl rfl rfl rfl) rfl hmore hdisarm

variable {h : Nat} {y : Session} {r : Request} (hreply : c.reply = .session h r.env.reqId.toNat) (hy : s.session? h = some y)
  (hr : y.executing = some r) (hq : y.queue = []) (hcode : c.code = 3 ∨ c.code = 4)
include hreply hy hr hq hcode

/-- The last answer ends the command as `State.cmdSettle` says. -/
theorem commandDone_answers {v : State} {st' : Status} {f : Squad → Squad} (hv : v = (s.takeCtrl n 7).modSquad (fun q => { q with cmd := some d }))
    (hsettle : v.squad.cmd = some d → d.code = 3 ∨ d.code = 4 → v.cmdSettle = (v.modSquad f).complete d.reply st' []) :
    ∃ t, exec (.commandDone n st af) s = .next t ∧ t.Answered r st' ∧ t.squad = f { (s.takeCtrl n 7).squad with cmd := some d } := by
  have hreply' : d.reply = .session h r.env.reqId.toNat := by rw [hd]; exact hreply
  have hports : v.portStates = s.portStates := by rw [hv]; rfl
  have hses : v.od.sessions = s.od.sessions := by rw [hv]; rfl
  have hshort : (v.modSquad f).crewsShort = s.crewsShort := by rw [hv]; exact crewsShort_congr _ _ rfl rfl rfl rfl rfl
  have hv' := hsettle (by rw [hv]; rfl) (by rw [hd]; exact hcode)
  rw [hreply'] at hv'
  obtain ⟨t, ht, hanswer, hsquad⟩ := lateEnd_answers hidle hports hv' hses hshort hy hr hq
  rw [exec_commandDone_counts hcmd hwaits hd, ← hv]
  exact ⟨t, ht, hanswer, by rw [hsquad, hv]; rfl⟩

variable (hlast : d.waiting = 0)
include hlast

theorem commandDone_succeeds (hfault : d.fault = none) :
    ∃ t, exec (.commandDone n st af) s = .next t ∧ t.Answered r .ok ∧ t.squad = { (s.takeCtrl n 7).squad with cmd := none } :=
  commandDone_answers (f := fun q => { q with cmd := none }) hidle hcmd hwaits hd hreply hy hr hq hcode rfl
    (fun hv hc => cmdSettle_succeeds hv hlast hc hfault)

theorem commandDone_fails {f k w : Nat} (hfault : d.fault = some (f, k, w)) : ∃ t, exec (.commandDone n st af) s = .next t ∧
    t.Answered r (statusOf k) ∧ t.squad = { (s.takeCtrl n 7).squad with cmd := none, cmdFaultSeat := some f } :=
  commandDone_answers (f := fun q => { q with cmd := none, cmdFaultSeat := some f }) hidle hcmd hwaits hd hreply hy hr hq hcode rfl
    (fun hv hc => cmdSettle_fails hv hlast hc hfault)

end

end

end Sys2Proof.Machine
end

section
/-! SUPPORT. Results of loads, spanning heats and reports of a squad (R337, R412, R416). -/

namespace Sys2Proof.Machine

open Sys2Proof

/-! ### LOAD_RESULT (R412) -/

section
variable {s : State} {n : Fin 32} {st : BitVec 8} {w : BitVec 32}

/-- A seat's answer to a load: the row ends with the load, or with the requester's answer. -/
theorem exec_loadResult_counts {c d : SqdLoad} (hload : s.squad.load = some c) (hwaits : c.waiting.testBit n = true)
    (hd : d = ⟨c.slot, clearMask c.waiting (2 ^ n.val), if st = 0 then c.loaded ||| 2 ^ n.val else c.loaded,
      if st = 0 then c.refused else c.refused ++ [(n.val, st.toNat, w.toNat)], c.reply⟩) :
    exec (.loadResult n st w) s = lateEnd s
      (if d.waiting = 0 then ((s.takeCtrl n 0xD).squadLoadEnds d).1.complete d.reply ((s.takeCtrl n 0xD).squadLoadEnds d).2 []
       else (s.takeCtrl n 0xD).modSquad (fun q => { q with load := some d })) := by
  subst hd
  rw [exec_loadResult, execLoadResult]
  dsimp only
  rw [show (s.takeCtrl n 0xD).squad.load = some c from hload]
  dsimp only
  rw [hwaits]
  simp only [decide_eq_true_eq]
  rfl

theorem squadLoadEnds_loaded {s : State} {d : SqdLoad} (h : d.refused = []) :
    s.squadLoadEnds d = (s.modSquad (fun q => { q with load := none, loadSeat := none }), .ok) := by
  unfold State.squadLoadEnds
  rw [h]
  rfl

theorem loadResult_ignored (hs : s.Settled) (hload : s.squad.load = none) :
    ∃ t, exec (.loadResult n st w) s = .next t ∧ (s.takeCtrl n 0xD).EndsAs t := by
  rw [exec_loadResult, execLoadResult]
  dsimp only
  rw [show (s.takeCtrl n 0xD).squad.load = none from hload]
  exact (calm_takeCtrl s n 0xD).row hs rfl

section
variable {c d : SqdLoad} (hs : s.Settled) (hload : s.squad.load = some c) (hwaits : c.waiting.testBit n = true)
  (hd : d = ⟨c.slot, clearMask c.waiting (2 ^ n.val), if st = 0 then c.loaded ||| 2 ^ n.val else c.loaded,
    if st = 0 then c.refused else c.refused ++ [(n.val, st.toNat, w.toNat)], c.reply⟩)
include hs hload hwaits hd

theorem loadResult_waits (hmore : d.waiting ≠ 0) :
    ∃ t, exec (.loadResult n st w) s = .next t ∧ ((s.takeCtrl n 0xD).modSquad (fun q => { q with load := some d })).EndsAs t := by
  rw [exec_loadResult_counts hload hwaits hd]
  exact ((calm_takeCtrl s n 0xD).trans (calm_modSquad _ _ rfl rfl)).row hs (if_neg hmore)

theorem loadResult_answers {h : Nat} {y : Session} {r : Request} (hreply : c.reply = .session h r.env.reqId.toNat) (hy : s.session? h = some y)
    (hr : y.executing = some r) (hq : y.queue = []) (hlast : d.waiting = 0) (hloaded : d.refused = []) :
    ∃ t, exec (.loadResult n st w) s = .next t ∧ t.Answered r .ok ∧ t.squad = { (s.takeCtrl n 0xD).squad with load := none, loadSeat := none } := by
  obtain ⟨z, hz⟩ : ∃ z, (s.takeCtrl n 0xD).modSquad (fun q => { q with load := none, loadSeat := none }) = z := ⟨_, rfl⟩
  have hsquad : z.squad = { (s.takeCtrl n 0xD).squad with load := none, loadSeat := none } := by rw [← hz]; rfl
  have hcalm : s.Calm z := hz ▸ (calm_takeCtrl s n 0xD).trans (calm_modSquad _ _ rfl rfl)
  have hshort : z.crewsShort = s.crewsShort := by rw [← hz]; exact crewsShort_congr _ _ rfl rfl rfl rfl rfl
  rw [exec_loadResult_counts hload hwaits hd, if_pos hlast, squadLoadEnds_loaded hloaded, hz, show d.reply = c.reply by rw [hd], hreply, ← hsquad]
  obtain ⟨ss, b, cells, l, f, hw, -⟩ := complete_rest z h y r .ok [] ((session?_congr hcalm.sessions h).trans hy) hr hq
    ((idleWork_sessions hcalm.sessions).trans hs.1)
  have hsq : (z.complete (.session h r.env.reqId.toNat) .ok []).squad = z.squad := by rw [hw]
  refine lateEnd_answers hs.1 ((ports_of hsq).trans hcalm.ports) (cmdSettle_none _ ?_) hcalm.sessions hshort hy hr hq
  rw [hsq, hcalm.cmd]
  exact hs.2

end

end

/-! ### KV_REPORT (R337) -/

theorem kvReport_keeps {s a : State} (n : Fin 32) (part : Fin 8) (m f : List (Nat × Nat × Nat)) (hs : s.Settled) (ha : a = s.takeCtrl n 0xB) :
    (s.isStroke = false → ∃ t, exec (.kvReport n part m f) s = .next t ∧ a.EndsAs t) ∧
    (s.isStroke = true → ∃ t, exec (.kvReport n part m f) s = .next t ∧
      (a.modSquad (fun q => { q with reports := q.reports ++ [(part.val, m, f)] })).EndsAs t) := by
  subst ha
  rw [exec_kvReport]
  exact ⟨fun h => (calm_takeCtrl s n 0xB).row hs (if_neg (ne_true_of_eq_false h)),
    fun h => ((calm_takeCtrl s n 0xB).trans (calm_modSquad _ _ rfl rfl)).row hs (if_pos h)⟩

/-! ### Spanning heats (R416) -/

section
variable {s : State} {n : BitVec 64} {x : Span}

theorem spanPartStart_ignored (hs : s.Settled) (h : s.follows = none ∨ s.span? n.toNat = none) :
    ∃ t, exec (.spanPartStart n) s = .next t ∧ s.EndsAs t := by
  rw [exec_spanPartStart, execSpanPartStart]
  refine (calm_refl s).row hs ?_
  obtain h | h := h
  · rw [h]
  · rw [h]
    cases s.follows <;> rfl

section
variable (hs : s.Settled) (hx : s.span? n.toNat = some x)
include hs hx

theorem spanPartStart_later (h : x.begun = true ∨ s.dev.state.runs = false ∨ s.isWork s.cox.period = false ∨ s.nowNs < x.start) :
    ∃ t, exec (.spanPartStart n) s = .next t ∧ s.EndsAs t := by
  rw [exec_spanPartStart, execSpanPartStart, hx]
  refine (calm_refl s).row hs ?_
  cases s.follows with
  | none => rfl
  | some k =>
    refine if_pos ?_
    simp only [Bool.or_eq_true, Bool.not_eq_true', decide_eq_true_eq, or_assoc]
    exact h

end

/-- The part of a spanning heat starts where its time has come in a work period. -/
theorem exec_spanPartStart_now {k : Nat} (hx : s.span? n.toNat = some x) (hf : s.follows = some k) (hbegun : x.begun = false)
    (hruns : s.dev.state.runs = true) (hwork : s.isWork s.cox.period = true) (htime : x.start ≤ s.nowNs) :
    exec (.spanPartStart n) s = lateEnd s (s.spanStarts x) := by
  rw [exec_spanPartStart, execSpanPartStart, hx, hf]
  refine congrArg (lateEnd s) (if_neg ?_)
  simp [hbegun, hruns, hwork, htime]

/-- The heat of a part that has started with the spanning heat `x`. -/
def Heat.spanned (h : Heat) (x : Span) : Heat := { h with serial := x.serial, spanStart := some x.start, state := .running, started := true }

/-- The part of the spanning heat `x` is in the heat table; the seat's own serials do not advance. -/
def State.spanAdmitted (s : State) (x : Span) (r : CoxReq) (p : Package) (pl : Plan) (f : Fit) : State :=
  ((s.admitHeat r p pl f).modHeat s.freeEntry (fun h => h.spanned x)).modCox (fun c => { c with nextSerial := s.cox.nextSerial })

theorem spanAdmitted_heat {s : State} (x : Span) {r : CoxReq} (p : Package) (pl : Plan) (f : Fit) (hresume : r.resume = none)
    (hswath : r.swath = none) : (s.spanAdmitted x r p pl f).desk = s.desk ∧
    ∃ h : Heat, amGet? (s.spanAdmitted x r p pl f).cox.heats s.freeEntry = some (h.spanned x) ∧ h.crews = f.crews ∧ h.image = f.image := by
  obtain ⟨hdesk, h, hheats, hcrews, himage⟩ := admit_new s r p pl f hresume hswath
  unfold State.spanAdmitted
  rw [modHeat_some _ _ h _ (by rw [hheats, amGet?_insert_same])]
  exact ⟨hdesk, h, amGet?_insert_same .., hcrews, himage⟩

/-- The pages that a step heat pins lie in the page manager alone. -/
theorem kvPin_ite (s : State) (b : Prop) [Decidable b] (part : Nat) :
    (if b then s.kvPin part else s).desk = s.desk ∧ (if b then s.kvPin part else s).cox = s.cox := by
  split
  · exact ⟨desk_modKv .., State.modKv_cox ..⟩
  · exact ⟨rfl, rfl⟩

section
variable {p : Package} {pl : Plan} {f : Fit} (hplan : s.planOf x.slot x.plan = some (p, pl))
  (hfit : f = (s.newReq pl.kind x.slot x.plan p.partition s.fabNow none none true (s.partStep pl.kind p.partition)).1.layout
    (s.newReq pl.kind x.slot x.plan p.partition s.fabNow none none true (s.partStep pl.kind p.partition)).2 p pl
    (sortNat (((s.usable p.partition pl).filter (fun c => s.freeCrew [] c s.cox.period s.cox.period)).take pl.crews)) s.cox.period)
include hplan hfit

theorem spanStarts_waits (h : f.crews.length < pl.crews ∨ 64 ≤ s.freeEntry) : s.spanStarts x = s := by
  subst hfit
  unfold State.spanStarts
  rw [hplan]
  exact if_pos h

/-- A part that starts runs in the lowest free entry of the heat table, with the serial of the spanning heat. -/
theorem spanStarts_runs (hcrews : pl.crews ≤ f.crews.length) (hentry : s.freeEntry < 64) :
    (s.spanStarts x).od.sessions = s.od.sessions ∧
    (s.spanStarts x).squad = { s.squad with spans := s.squad.spans.map (fun y => if y.serial = x.serial then { y with begun := true } else y) } ∧
    ∃ h : Heat, amGet? (s.spanStarts x).cox.heats s.freeEntry = some (h.spanned x) ∧ h.crews = f.crews ∧ h.image = f.image := by
  obtain ⟨q, hq⟩ : ∃ q, s.newReq pl.kind x.slot x.plan p.partition s.fabNow none none true (s.partStep pl.kind p.partition) = q := ⟨_, rfl⟩
  have hadmitted : q.1.desk = s.desk ∧ q.1.freeEntry = s.freeEntry ∧ q.2.resume = none ∧ q.2.swath = none := by
    rw [← hq]
    exact ⟨rfl, rfl, rfl, rfl⟩
  obtain ⟨hdesk, hfree, hresume, hswath⟩ := hadmitted
  obtain ⟨z, hz⟩ : ∃ z, q.1.spanAdmitted x q.2 p pl f = z := ⟨_, rfl⟩
  have hstarts : s.spanStarts x = (if pl.kind = .secondLook then z.kvPin p.partition else z).modSquad (fun q =>
      { q with spans := q.spans.map (fun y => if y.serial = x.serial then { y with begun := true } else y) }) := by
    subst hz hq hfit
    unfold State.spanStarts
    rw [hplan]
    exact if_neg (not_or.2 ⟨Nat.not_lt.2 hcrews, Nat.not_le.2 hentry⟩)
  obtain ⟨hzdesk, h, hheat, hcrewsOf, himage⟩ := spanAdmitted_heat (s := q.1) x p pl f hresume hswath
  obtain ⟨hpinDesk, hpinCox⟩ := kvPin_ite z (pl.kind = .secondLook) p.partition
  rw [hz] at hzdesk hheat
  rw [hfree] at hheat
  generalize (if pl.kind = .secondLook then z.kvPin p.partition else z) = v at hstarts hpinDesk hpinCox
  have hv : v.desk = s.desk := hpinDesk.trans (hzdesk.trans hdesk)
  rw [hstarts]
  refine ⟨(ses_desk hv :), ?_, h, ?_, hcrewsOf, himage⟩
  · rw [← squad_desk hv]
    rfl
  · rw [← hheat, ← hpinCox]
    rfl

/-- The row leaves nothing waiting, and the heat of the part in the table. -/
theorem spanStarts_row (hs : s.Settled) (hcrews : pl.crews ≤ f.crews.length) (hentry : s.freeEntry < 64)
    (hshort : (s.spanStarts x).crewsShort = true → s.crewsShort = true) :
    ∃ t h, lateEnd s (s.spanStarts x) = .next t ∧ amGet? t.cox.heats s.freeEntry = some h ∧ h.serial = x.serial ∧ h.state = .running ∧
      h.spanStart = some x.start ∧ h.crews = f.crews ∧ h.image = f.image ∧
      t.squad = { s.squad with spans := s.squad.spans.map (fun y => if y.serial = x.serial then { y with begun := true } else y) } := by
  obtain ⟨hses, hsquad, h, hheat, hcrewsOf, himage⟩ := spanStarts_runs hplan hfit hcrews hentry
  have hports : (s.spanStarts x).portStates = s.portStates := by
    unfold State.portStates State.links
    rw [hsquad]
  have hcmd : (s.spanStarts x).squad.cmd = s.squad.cmd := by rw [hsquad]
  obtain ⟨t, ht, hends⟩ := State.Calm.row ⟨hses, hcmd, hports, hshort⟩ hs rfl
  exact ⟨t, h.spanned x, ht, by rw [hends.cox]; exact hheat, rfl, rfl, rfl, hcrewsOf, himage, by rw [hends.squad]; exact hsquad⟩

end

end

/-! ### DONE (R416) -/

section
variable {u v : State} {n k : Nat} {x : Span} {h : Heat} {p : Package}

theorem spanEnds_waits (hwaits : ∀ x, u.span? n = some x → x.waiting ≠ 0) : u.spanEnds n = u := by
  unfold State.spanEnds
  split
  case h_1 x k h hx hh => exact if_pos (hwaits x hx)
  case h_2 => rfl

section
variable (hx : u.span? n = some x) (hdone : x.waiting = 0) (hheat : u.heatOf n = some (k, h))
  (hv : v = u.modSquad (fun q => { q with spans := q.spans.filter (fun y => y.serial != n) }))
include hx hdone hheat hv

theorem spanEnds_invalid (hinvalid : x.invalid = true) : u.spanEnds n = v.endInvalid k .check none := by
  subst hv
  unfold State.spanEnds
  rw [hx, hheat]
  exact (if_neg (not_not_intro hdone)).trans (if_pos hinvalid)

theorem spanEnds_completes (hvalid : x.invalid = false) (hpkg : v.heatPkg k = some (h, p)) (hkind : h.req.kind ≠ .retune) :
    u.spanEnds n = v.heatOutputs k h p := by
  subst hv
  unfold State.spanEnds
  rw [hx, hheat]
  refine (if_neg (not_not_intro hdone)).trans ((if_neg (ne_true_of_eq_false hvalid)).trans ?_)
  rw [hpkg]
  exact if_neg hkind

end

/-- A heat that the stroke seat owns ends INVALID with nothing left to wait for, where it is no SWATCH heat. -/
theorem calm_endInvalid (c : Cause) (hheat : amGet? v.cox.heats k = some h) (hstroke : v.isStroke = true) (hkind : h.req.kind ≠ .swatch) :
    v.Calm (v.endInvalid k c none) := by
  have howns : v.partOnly h = false := by
    unfold State.partOnly
    rw [of_decide_eq_true hstroke]
    simp
  have hends : v.endInvalid k c none = (v.heatInvalid k c).modSquad (fun q => { q with spans := q.spans.filter (fun x => x.serial != h.serial) }) := by
    unfold State.endInvalid
    rw [hheat]
    dsimp only
    rw [if_neg (ne_true_of_eq_false howns), if_neg hkind]
  have hk : (v.heatInvalid k c).kernel = { v.kernel with dev := v.dev } := kernel_heatInvalid v k c
  rw [hends]
  exact (calm_kernel v.dev hk).trans (calm_modSquad _ _ rfl rfl)

/-- The outputs of a background heat and of a second look leave results and the end of a step. -/
theorem desk_heatOutputs (hkind : h.req.kind = .background ∨ h.req.kind = .secondLook) : (v.heatOutputs k h p).desk = v.desk := by
  have hmarked : ((v.keepStates h p).modHeat k (fun h => { h with imageDone := true, state := .reserve })).desk = v.desk := by
    rw [desk_modHeat, desk_keepStates]
  unfold State.heatOutputs
  obtain hkind | hkind := hkind
  · simp only [hkind]
    exact (desk_kernel (kernel_addResult ..)).trans hmarked
  · simp only [hkind]
    exact hmarked

end

section
variable {s a u : State} {n : Fin 32} {i : BitVec 64} {bad : Bool} (hs : s.Settled) (ha : a = s.takeCtrl n 9)
  (hu : u = a.modSquad (fun q => { q with spans := q.spans.map (fun x =>
    if x.serial = i.toNat then { x with waiting := clearMask x.waiting (2 ^ n.val), invalid := x.invalid || bad } else x) }))
include hs ha

theorem done_ignored (hstroke : s.isStroke = false) : ∃ t, exec (.done n i bad) s = .next t ∧ a.EndsAs t := by
  subst ha
  rw [exec_done, execDone]
  exact (calm_takeCtrl s n 9).row hs (if_neg (ne_true_of_eq_false hstroke))

include hu

/-- The stroke seat counts a DONE, and the row ends with the spanning heat. -/
theorem exec_done_ends {v : State} (hstroke : s.isStroke = true) (hends : u.spanEnds i.toNat = v) (hv : u.Calm v) :
    ∃ t, exec (.done n i bad) s = .next t ∧ v.EndsAs t := by
  subst hu ha hends
  rw [exec_done, execDone]
  exact (((calm_takeCtrl s n 9).trans (calm_modSquad _ _ rfl rfl)).trans hv).row hs (if_pos hstroke)

section
variable {v : State} {x : Span} {k : Nat} {h : Heat} {p : Package} (hstroke : s.isStroke = true) (hx : u.span? i.toNat = some x)
  (hdone : x.waiting = 0) (hheat : u.heatOf i.toNat = some (k, h)) (hpkg : s.heatPkg k = some (h, p))
  (hv : v = u.modSquad (fun q => { q with spans := q.spans.filter (fun y => y.serial != i.toNat) }))
include hstroke hx hdone hheat hpkg hv

/-- The last DONE ends the spanning heat, INVALID where a DONE carried INVALID. -/
theorem done_invalid (hkind : h.req.kind ≠ .swatch) (hinvalid : x.invalid = true) :
    ∃ t, exec (.done n i bad) s = .next t ∧ (v.endInvalid k .check none).EndsAs t := by
  have hvHeat : amGet? v.cox.heats k = some h := by subst hv hu ha; exact heatPkg_heat hpkg
  have hvStroke : v.isStroke = true := by subst hv hu ha; exact hstroke
  have hcalm : u.Calm v := hv ▸ calm_modSquad _ _ rfl rfl
  exact exec_done_ends hs ha hu hstroke (spanEnds_invalid hx hdone hheat hv hinvalid)
    (hcalm.trans (calm_endInvalid .check hvHeat hvStroke hkind))

theorem done_completes (hvalid : x.invalid = false) (hkind : h.req.kind = .background ∨ h.req.kind = .secondLook)
    (hshort : (v.heatOutputs k h p).crewsShort = true → s.crewsShort = true) :
    ∃ t, exec (.done n i bad) s = .next t ∧ (v.heatOutputs k h p).EndsAs t := by
  have hvPkg : v.heatPkg k = some (h, p) := by subst hv hu ha; exact hpkg
  have hvShort : v.crewsShort = s.crewsShort := by subst hv hu ha; exact crewsShort_congr _ _ rfl rfl rfl rfl rfl
  have hretune : h.req.kind ≠ .retune := by rintro e; rw [e] at hkind; exact hkind.elim nofun nofun
  have hcalm : u.Calm v := hv ▸ calm_modSquad _ _ rfl rfl
  exact exec_done_ends hs ha hu hstroke (spanEnds_completes hx hdone hheat hv hvalid hvPkg hretune)
    (hcalm.trans (calm_desk (desk_heatOutputs hkind) (by rw [hvShort]; exact hshort)))

end

end

/-! ### The obligation -/

/-- Settles O51: each message acts on the state without it, and answers, sends or keeps what the lemmas above say; such a row leaves no port with news
and no work that waits, but for the last answer to a command or a load, which completes the request that executes. -/
theorem squadWork : Obligations.SquadWork := by
  unfold Obligations.SquadWork
  intro s a
  refine ⟨fun x hs hstroke hx _ => ?_, fun n st af ha => ?_, fun n st w ha hs => ?_, fun n hs => ?_, fun n i bad u hs ha hu => ?_,
    fun n part m f hs ha => kvReport_keeps n part m f hs ha⟩
  · have hf := squad_follows hstroke hx
    refine ⟨fun c ha h1 h4 => ?_, fun n slot plan start ha => admit_keeps hs hf n slot plan start ha,
      fun part d ha => kvDecision_applies hs hf part d ha, fun i b ha => ?_⟩
    · subst ha
      refine ⟨fun h => command_refused hs hstroke hx h4 h, fun h => ?_, fun h => ?_, fun h => ?_, fun h => ?_⟩
      all_goals subst h
      · exact command_arms hs hstroke hx
      · exact command_starts hs hstroke hx
      · exact command_disarms hs hstroke hx
      · exact command_stops hs hstroke hx
    · subst ha
      refine ⟨fun h => load_unloads hs hf i b h, fun h => load_refused hs hf i b h, fun u f hinert hload hshort => ?_⟩
      have h := load_answers hs hf i b hinert hload hshort
      cases f <;> exact h
  · subst ha
    exact ⟨commandDone_ignored, fun c d hidle hcmd hwaits hd => ⟨commandDone_waits hidle hcmd hwaits hd, fun h y r hreply hy hr hq hlast hcode =>
      ⟨commandDone_succeeds hidle hcmd hwaits hd hreply hy hr hq hcode hlast,
        fun f k w hfault => commandDone_fails hidle hcmd hwaits hd hreply hy hr hq hcode hlast hfault⟩⟩⟩
  · subst ha
    exact ⟨loadResult_ignored hs, fun c d hload hwaits hd => ⟨loadResult_waits hs hload hwaits hd,
      fun h y r hreply hy hr hq hlast hloaded => loadResult_answers hs hload hwaits hd hreply hy hr hq hlast hloaded⟩⟩
  · refine ⟨spanPartStart_ignored hs, fun x hx => ⟨spanPartStart_later hs hx, fun f p pl k hf hbegun hruns hwork htime hplan hfit => ?_⟩⟩
    rw [exec_spanPartStart_now hx hf hbegun hruns hwork htime]
    exact ⟨fun h => (calm_refl s).row hs (spanStarts_waits hplan hfit h), spanStarts_row hplan hfit hs⟩
  · exact ⟨done_ignored hs ha, fun hstroke hwaits => exec_done_ends hs ha hu hstroke (spanEnds_waits hwaits) (calm_refl u),
      fun x k h p v hstroke hx hdone hheat hpkg hv hkind => ⟨done_invalid hs ha hu hstroke hx hdone hheat hpkg hv hkind,
        done_completes hs ha hu hstroke hx hdone hheat hpkg hv⟩⟩

end Sys2Proof.Machine
end
